-- ==== Sys2Proof/Word.lean ====
section
/-!
DEFINITION. The plain types every other file uses: bytes and words (00_scope, Notation: records are
little-endian), and the small finite sets that name the parts of the module (01_floorplan, R9 to R18).
-/

namespace Sys2Proof

abbrev Byte := BitVec 8
abbrev W16 := BitVec 16
abbrev W32 := BitVec 32
abbrev W48 := BitVec 48
abbrev W64 := BitVec 64
/-- A Tub row of 512 bytes; byte `b` is bits `8b+7 .. 8b` (R176, R232). -/
abbrev Row := BitVec 4096

/-- Context slot 0 to 7 (R34). -/
abbrev Slot := Fin 8
/-- Hamper mailbox: 0 privileged, `1 + c` the context mailbox of slot `c` (R403). -/
abbrev Mbox := Fin 9
/-- Compute die C0 to C3 (R9). -/
abbrev Die := Fin 4
/-- Memory position M0 to M7, and the Press of that stack (R9). -/
abbrev Stack := Fin 8
/-- I/O die X0 to X3 (R9). -/
abbrev IoDie := Fin 4
/-- GHL port 0 to 15 (R18). -/
abbrev Port := Fin 16
/-- Stream engine 0 to 31, one per tile-column (R241). -/
abbrev Engine := Fin 32
/-- Seam unit `2i + u`: unit `u` of die `Ci` (Table 7.6). -/
abbrev SeamUnit := Fin 8
/-- Context Line number or tile Line number 0 to 15 (R185). -/
abbrev LineNo := Fin 16

/-- Logical tile (tile-row j, tile-column c) (R68). -/
structure Tile where
  row : Fin 16
  col : Fin 32
  deriving DecidableEq, Repr

/-- Number of a logical tile in tile order, row first (Table 7.11). -/
def Tile.idx (t : Tile) : Nat := 32 * t.row.val + t.col.val

/-- Die of a tile: `c ÷ 8` (R68). -/
def Tile.die (t : Tile) : Die := ⟨t.col.val / 8, by have := t.col.isLt; omega⟩

/-- Parties of the Tub ports, with the codes of Table 6.1. -/
inductive Party where
  | drain | returnPath | feeder | vector | seam | stream | mesh | narrow
  deriving DecidableEq, Repr

/-- The party codes of Table 6.1. -/
def Party.code : Party → Nat
  | .drain => 0 | .returnPath => 1 | .feeder => 2 | .vector => 3 | .seam => 4 | .stream => 5 | .mesh => 6
  | .narrow => 7

/-- Engine classes of Table 2.3. -/
inductive EngClass where
  | mangle | tile | stream | press | ghl | seam
  deriving DecidableEq, Repr

def EngClass.code : EngClass → Nat
  | .mangle => 0 | .tile => 1 | .stream => 2 | .press => 3 | .ghl => 4 | .seam => 5

/-- The base address registers a host access goes through (R12, R403, R404). -/
inductive Bar where
  | bar0 | bar2
  deriving DecidableEq, Repr

/-- Fields of the PCIe configuration space whose values the spec gives (R404, R490, R495, Table 16.2). -/
inductive CfgField where
  | readinessTime | totalVfs | maxPayload | maxReadRequest | linkWidth
  deriving DecidableEq, Repr

/-- The fields in the order in which the model shows them (log entry 97). -/
def CfgField.all : List CfgField := [.readinessTime, .totalVfs, .maxPayload, .maxReadRequest, .linkWidth]

/-- What the steps of a self-test found: a lasting result of its own condition (R440), and an error in another row that
TUB marches through (R442). -/
structure TstFound where
  lasting : Bool
  march : Bool
  deriving DecidableEq, Repr

/-- An I3C common command that assigns the dynamic address `a` (R490): ENTDAA, or SETDASA to the static address `sa`. -/
inductive I3cAssign where
  | entdaa (a : Nat)
  | setdasa (sa a : Nat)
  deriving DecidableEq, Repr

/-- Outcome of a checked read of a Tub word or a stack codeword (R201, R269). -/
inductive EccOutcome where
  | clean | correctable | uncorrectable
  deriving DecidableEq, Repr

/-- Interfaces of Table 15.3 that carry management requests. -/
inductive Iface where
  | mailbox | i3c | smbus | ghlMgmt | uart | doe
  deriving DecidableEq, Repr

/-- Origin codes of Table 15.3. -/
def Iface.origin : Iface → Nat
  | .mailbox => 1 | .i3c => 2 | .smbus => 3 | .ghlMgmt => 4 | .uart => 5 | .doe => 6

/-- Kind of a crossing between two compute dies (R19, R21). -/
inductive Crossing where
  | array | ret
  deriving DecidableEq, Repr

end Sys2Proof
end

