-- ==== Sys2Proof/Syntax.lean ====
section
/-!
DEFINITION. The commands of the block: one constructor for each row of spec/opcode_table.json, in the table's order,
with the operands that the row's rule gives it from outside the block. What a command finds inside the block (a
descriptor at the head of a queue, a request in a mailbox) is State, not an operand.
-/

namespace Sys2Proof

/-- The commands of the SLN512, one per row of the opcode table. -/
inductive Instr where
  /-- SEALING_WRITE (R408). -/
  | sealingWrite (m : Mbox) (fn : Fin 8)
  /-- ACKNOWLEDGEMENT (R408). -/
  | acknowledgement (m : Mbox)
  /-- CP_ACCEPT (R410). -/
  | cpAccept (m : Mbox)
  /-- CP_ACCEPT_TIMEOUT (R411). -/
  | cpAcceptTimeout
  /-- BOUND_REPORT (R412). -/
  | boundReport (m : Mbox) (bound : Nat)
  /-- COMPLETION_BOUND_TIMEOUT (R412). -/
  | completionBoundTimeout (m : Mbox)
  /-- LATE_DONE (R412). -/
  | lateDone (m : Mbox)
  /-- MBX_EVT_TAIL_WRITE (R415). -/
  | mbxEvtTailWrite (m : Mbox) (v : W32)
  /-- MBX_EVT_LOST_READ (R407). -/
  | mbxEvtLostRead (m : Mbox)
  /-- MBX_FEED_POST_WRITE (R428). -/
  | mbxFeedPostWrite (m : Mbox) (v : W32)
  /-- STK_MARK_LO_READ (R62). -/
  | stkMarkLoRead
  /-- STK_CTX_INDEX_LO_READ (R63). -/
  | stkCtxIndexLoRead (c : Slot)
  /-- STR_CTX_FAULT_LO_READ (R275). -/
  | strCtxFaultLoRead (c : Slot)
  /-- REGISTER_WRITE (R4). -/
  | registerWrite (fn : Fin 8) (bar : Bar) (off : Nat) (v : W32)
  /-- OP_NOP (R417). -/
  | opNop (m : Mbox)
  /-- OP_EVENTS (R416). -/
  | opEvents (m : Mbox)
  /-- OP_DOMAIN (R418). -/
  | opDomain (m : Mbox)
  /-- OP_ADMIT (R457). -/
  | opAdmit (m : Mbox)
  /-- POWER_DOZE (R498). -/
  | powerDoze (m : Mbox)
  /-- POWER_WAKE (R498). -/
  | powerWake (m : Mbox) (hem : BitVec 4) (stuck : Option Die)
  /-- DARN_READ (R448). -/
  | darnRead (m : Mbox)
  /-- DARN_APPLY (R449). -/
  | darnApply (m : Mbox) (fail : Option (Die × Option (Fin 17)))
  /-- DARN_MARK (R447). -/
  | darnMark (m : Mbox)
  /-- DARN_CLEAR_LANE (R447). -/
  | darnClearLane (m : Mbox)
  /-- OP_SELFTEST (R444). -/
  | opSelftest (m : Mbox)
  /-- OP_LOAD (R238). -/
  | opLoad (m : Mbox)
  /-- OP_START (R426). -/
  | opStart (m : Mbox)
  /-- OP_UNLOAD (R427). -/
  | opUnload (m : Mbox)
  /-- OP_RELEASE (R425). -/
  | opRelease (m : Mbox)
  /-- OP_SAVE (R429). -/
  | opSave (m : Mbox)
  /-- SAVE_WRITE_DONE (R429). -/
  | saveWriteDone (c : Slot)
  /-- OP_RESTORE (R432). -/
  | opRestore (m : Mbox)
  /-- RESTORE_WRITE_DONE (R432). -/
  | restoreWriteDone (c : Slot)
  /-- OP_RESHARD (R393). -/
  | opReshard (m : Mbox)
  /-- RESHARD_QUIESCENT (R393). -/
  | reshardQuiescent (c : Slot)
  /-- RESHARD_TIMEOUT (R393). -/
  | reshardTimeout (c : Slot)
  /-- OP_RESUME (R398). -/
  | opResume (m : Mbox)
  /-- OP_PAGE_MAP (R420). -/
  | opPageMap (m : Mbox)
  /-- OP_PAGE_UNMAP (R420). -/
  | opPageUnmap (m : Mbox)
  /-- OP_COPY (R421). -/
  | opCopy (m : Mbox)
  /-- COPY_COMPLETE (R421). -/
  | copyComplete (m : Mbox) (err : Option Nat)
  /-- OP_WATCH (R333). -/
  | opWatch (m : Mbox)
  /-- OP_DECIDE (R297). -/
  | opDecide (m : Mbox)
  /-- OP_FEED (R428). -/
  | opFeed (m : Mbox)
  /-- OP_PEER_MAP (R385). -/
  | opPeerMap (m : Mbox)
  /-- OP_MCTP (R484). -/
  | opMctp (m : Mbox)
  /-- VF_ENABLE_CHANGE (R404). -/
  | vfEnableChange (en : Bool) (n : Fin 8)
  /-- FLR_VF (R404). -/
  | flrVf (v : Fin 8)
  /-- FLR_PF (R404). -/
  | flrPf
  /-- PERST_RESET (R496). -/
  | perstReset (hot : Bool)
  /-- PCIE_CONFIG_REQUEST (R495). -/
  | pcieConfigRequest
  /-- COLD_START (R494). -/
  | coldStart (cool : Option (List Byte)) (dies : W16) (flash : BitVec 6) (stuck : Option Die)
  /-- HAMPER_READY (R494). -/
  | hamperReady (hem : BitVec 4)
  /-- POWER_DOWN (R496). -/
  | powerDown
  /-- INPUT_UNDERVOLTAGE (R492). -/
  | inputUndervoltage
  /-- INPUT_OVERVOLTAGE (R492). -/
  | inputOvervoltage
  /-- INPUT_OVERCURRENT (R492). -/
  | inputOvercurrent
  /-- INPUT_LOW_WARNING (R492). -/
  | inputLowWarning
  /-- RAIL_FAULT (R493). -/
  | railFault (rail : Nat)
  /-- SENSOR_SAMPLE (R464). -/
  | sensorSample (id : Nat) (raw : Int)
  /-- THERM_CRIT_TIMEOUT (R504). -/
  | thermCritTimeout (id : Nat)
  /-- THERMTRIP (R504). -/
  | thermtrip
  /-- CP_WATCHDOG (R463). -/
  | cpWatchdog
  /-- CP_RESTART (R463). -/
  | cpRestart
  /-- MARK_ISSUE (R48). -/
  | markIssue
  /-- MARK_PACKET_RECEIVE (R361). -/
  | markPacketReceive (p : Port) (raw : List Byte) (t : Nat)
  /-- MARK_ENTRY (R362). -/
  | markEntry
  /-- MARK_FORWARD (R361). -/
  | markForward
  /-- STROKE_START (R50). -/
  | strokeStart
  /-- FETCH_NEXT (R222). -/
  | fetchNext (c : Slot) (ue : Bool)
  /-- CLOSING_BAND (R47). -/
  | closingBand
  /-- TALLY_PACKET_RECEIVE (R365). -/
  | tallyPacketReceive (p : Port) (raw : List Byte)
  /-- TALLY_DEADLINE (R366). -/
  | tallyDeadline
  /-- ROOT_TALLY_CUTOFF (R48). -/
  | rootTallyCutoff
  /-- MARK_MISS (R55). -/
  | markMiss
  /-- RANGE_START (R39). -/
  | rangeStart (c : Slot) (k : EngClass) (r : Fin 8)
  /-- RANGE_END (R40). -/
  | rangeEnd (c : Slot) (k : EngClass) (r : Fin 8)
  /-- PASS (R71). -/
  | pass (c : Slot)
  /-- DUMMY (R104). -/
  | dummy (c : Slot)
  /-- RAMP (R104). -/
  | ramp (c : Slot)
  /-- LEVEL_BOUND (R106). -/
  | levelBound (c : Slot)
  /-- SWAP_INJECT (R79). -/
  | swapInject
  /-- VECTOR_INJECT (R87). -/
  | vectorInject
  /-- DRAIN_VECTOR (R89). -/
  | drainVector (d : Die) (delta : Int)
  /-- MANGLE_FREEZE (R88). -/
  | mangleFreeze
  /-- DRAIN_BUFFER_WRITE (R88). -/
  | drainBufferWrite (col : Fin 32)
  /-- MANGLE_RESUME (R88). -/
  | mangleResume
  /-- DRAIN_ABORT_SIGNAL (R91). -/
  | drainAbortSignal
  /-- PASS_COMPLETE (R82). -/
  | passComplete
  /-- BRIDGE_PARITY_ERROR (R21). -/
  | bridgeParityError (j : Fin 3) (x : Crossing) (op : Option Nat)
  /-- BRIDGE_RESEND (R20). -/
  | bridgeResend (b : Nat)
  /-- INTERSECT (R169). -/
  | intersect (u : SeamUnit) (c : Slot)
  /-- UNION (R169). -/
  | union (u : SeamUnit) (c : Slot)
  /-- TOPK (R169). -/
  | topk (u : SeamUnit) (c : Slot)
  /-- ROUTE (R170). -/
  | route (u : SeamUnit) (c : Slot)
  /-- SEAM_COMPLETE (R173). -/
  | seamComplete (u : SeamUnit) (c : Slot)
  /-- LOAD (R246). -/
  | load (e : Engine) (c : Slot)
  /-- STORE (R251). -/
  | store (e : Engine) (c : Slot)
  /-- GATHER (R247). -/
  | gather (e : Engine) (c : Slot)
  /-- SCATTER (R247). -/
  | scatter (e : Engine) (c : Slot)
  /-- ROW_RESERVE (R250). -/
  | rowReserve (e : Engine) (c : Slot) (k : Nat)
  /-- STR_ROW_LAND (R250). -/
  | strRowLand (e : Engine) (c : Slot) (k : Nat)
  /-- STORE_ROW (R251). -/
  | storeRow (e : Engine) (c : Slot) (k : Nat)
  /-- STR_TASK_COMPLETE (R254). -/
  | strTaskComplete (e : Engine) (c : Slot) (k : Nat)
  /-- MEM_READ_DONE (R269). -/
  | memReadDone (st : Stack) (addr : Nat) (q : Fin 4) (o : EccOutcome) (stored : Bool)
  /-- PATROL_READ (R269). -/
  | patrolRead (st : Stack) (addr : Nat) (q : Fin 4) (o : EccOutcome) (stored : Bool)
  /-- RUN (R227). -/
  | run (c : Slot)
  /-- RUN_COMPLETE (R227). -/
  | runComplete (c : Slot)
  /-- LINE_SETUP (R186). -/
  | lineSetup (c : Slot)
  /-- LINE_RESET (R193). -/
  | lineReset (c : Slot)
  /-- LINE_SETUP_EFFECT (R193). -/
  | lineSetupEffect (t : Tile) (l : LineNo)
  /-- LINE_SLACK_EXCEEDED (R196). -/
  | lineSlackExceeded (t : Tile) (l : LineNo) (p : Party)
  /-- RINSE_READ (R204). -/
  | rinseRead (pt : Fin 544) (bank : Fin 16) (row : Fin 256) (w : Fin 8) (o : EccOutcome)
  /-- RINSE_WRITEBACK (R204). -/
  | rinseWriteback (pt : Fin 544)
  /-- ADD (R230). -/
  | seqAdd (t : Tile) (c : Slot)
  /-- SUB (R230). -/
  | seqSub (t : Tile) (c : Slot)
  /-- AND (R230). -/
  | seqAnd (t : Tile) (c : Slot)
  /-- OR (R230). -/
  | seqOr (t : Tile) (c : Slot)
  /-- XOR (R230). -/
  | seqXor (t : Tile) (c : Slot)
  /-- SHL (R230). -/
  | seqShl (t : Tile) (c : Slot)
  /-- SHR (R230). -/
  | seqShr (t : Tile) (c : Slot)
  /-- SRA (R230). -/
  | seqSra (t : Tile) (c : Slot)
  /-- MUL (R230). -/
  | seqMul (t : Tile) (c : Slot)
  /-- MULH (R230). -/
  | seqMulh (t : Tile) (c : Slot)
  /-- MULHU (R230). -/
  | seqMulhu (t : Tile) (c : Slot)
  /-- MIN (R230). -/
  | seqMin (t : Tile) (c : Slot)
  /-- MAX (R230). -/
  | seqMax (t : Tile) (c : Slot)
  /-- MINU (R230). -/
  | seqMinu (t : Tile) (c : Slot)
  /-- MAXU (R230). -/
  | seqMaxu (t : Tile) (c : Slot)
  /-- SEL (R230). -/
  | seqSel (t : Tile) (c : Slot)
  /-- POPC (R230). -/
  | seqPopc (t : Tile) (c : Slot)
  /-- CLZ (R230). -/
  | seqClz (t : Tile) (c : Slot)
  /-- CTZ (R230). -/
  | seqCtz (t : Tile) (c : Slot)
  /-- ADDI (R230). -/
  | seqAddi (t : Tile) (c : Slot)
  /-- ANDI (R230). -/
  | seqAndi (t : Tile) (c : Slot)
  /-- ORI (R230). -/
  | seqOri (t : Tile) (c : Slot)
  /-- XORI (R230). -/
  | seqXori (t : Tile) (c : Slot)
  /-- SHLI (R230). -/
  | seqShli (t : Tile) (c : Slot)
  /-- SHRI (R230). -/
  | seqShri (t : Tile) (c : Slot)
  /-- SRAI (R230). -/
  | seqSrai (t : Tile) (c : Slot)
  /-- LUI (R230). -/
  | seqLui (t : Tile) (c : Slot)
  /-- CMP (R230). -/
  | seqCmp (t : Tile) (c : Slot)
  /-- CMPI (R230). -/
  | seqCmpi (t : Tile) (c : Slot)
  /-- ADDA (R230). -/
  | seqAdda (t : Tile) (c : Slot)
  /-- MOVA (R230). -/
  | seqMova (t : Tile) (c : Slot)
  /-- MOVS (R230). -/
  | seqMovs (t : Tile) (c : Slot)
  /-- LDP (R230). -/
  | seqLdp (t : Tile) (c : Slot)
  /-- STP (R184). -/
  | seqStp (t : Tile) (c : Slot)
  /-- BR (R230). -/
  | seqBr (t : Tile) (c : Slot)
  /-- WAITU (R230). -/
  | seqWaitu (t : Tile) (c : Slot)
  /-- WAITU_REACHED (R230). -/
  | seqWaituReached (t : Tile) (c : Slot)
  /-- WAITV (R230). -/
  | seqWaitv (t : Tile) (c : Slot)
  /-- WAITV_DRAINED (R230). -/
  | seqWaitvDrained (t : Tile) (c : Slot)
  /-- END (R227). -/
  | seqEnd (t : Tile) (c : Slot)
  /-- TRAP (R231). -/
  | seqTrap (t : Tile) (c : Slot)
  /-- NOP (R230). -/
  | seqNop (t : Tile) (c : Slot)
  /-- LSET (R186). -/
  | seqLset (t : Tile) (c : Slot)
  /-- LRST (R193). -/
  | seqLrst (t : Tile) (c : Slot)
  /-- LGEN (R230). -/
  | seqLgen (t : Tile) (c : Slot)
  /-- LOCC (R230). -/
  | seqLocc (t : Tile) (c : Slot)
  /-- MFS (R230). -/
  | seqMfs (t : Tile) (c : Slot)
  /-- VECTOR_SEND (R233). -/
  | vectorSend (t : Tile) (c : Slot)
  /-- VLD (R235). -/
  | vld (t : Tile) (c : Slot)
  /-- VST (R235). -/
  | vst (t : Tile) (c : Slot)
  /-- VLDP (R235). -/
  | vldp (t : Tile) (c : Slot)
  /-- VCVT (R235). -/
  | vcvt (t : Tile) (c : Slot)
  /-- VPACK (R235). -/
  | vpack (t : Tile) (c : Slot)
  /-- VADD (R235). -/
  | vadd (t : Tile) (c : Slot)
  /-- VSUB (R235). -/
  | vsub (t : Tile) (c : Slot)
  /-- VMUL (R235). -/
  | vmul (t : Tile) (c : Slot)
  /-- VFMA (R235). -/
  | vfma (t : Tile) (c : Slot)
  /-- VMIN (R235). -/
  | vmin (t : Tile) (c : Slot)
  /-- VMAX (R235). -/
  | vmax (t : Tile) (c : Slot)
  /-- VCMP (R235). -/
  | vcmp (t : Tile) (c : Slot)
  /-- VSEL (R235). -/
  | vsel (t : Tile) (c : Slot)
  /-- VTAB (R141). -/
  | vtab (t : Tile) (c : Slot)
  /-- VREDS (R235). -/
  | vreds (t : Tile) (c : Slot)
  /-- VREDM (R235). -/
  | vredm (t : Tile) (c : Slot)
  /-- VAND (R235). -/
  | vand (t : Tile) (c : Slot)
  /-- VOR (R235). -/
  | vor (t : Tile) (c : Slot)
  /-- VXOR (R235). -/
  | vxor (t : Tile) (c : Slot)
  /-- VNZB (R235). -/
  | vnzb (t : Tile) (c : Slot)
  /-- VFOLD (R235). -/
  | vfold (t : Tile) (c : Slot)
  /-- VPOPC (R235). -/
  | vpopc (t : Tile) (c : Slot)
  /-- VMATCH (R235). -/
  | vmatch (t : Tile) (c : Slot)
  /-- VBCAST (R235). -/
  | vbcast (t : Tile) (c : Slot)
  /-- VMOVS (R235). -/
  | vmovs (t : Tile) (c : Slot)
  /-- NORM (R294). -/
  | norm (j : Stack) (c : Slot)
  /-- DECIDE (R296). -/
  | pressDecide (j : Stack) (c : Slot)
  /-- PREP (R304). -/
  | prep (j : Stack) (c : Slot)
  /-- CAND (R298). -/
  | cand (j : Stack) (c : Slot)
  /-- VOTE (R312). -/
  | pressVote (j : Stack) (c : Slot)
  /-- COMMIT (R313). -/
  | commit (j : Stack) (c : Slot)
  /-- PUBLISH (R310). -/
  | publish (j : Stack) (c : Slot)
  /-- GZERO (R315). -/
  | gzero (j : Stack) (c : Slot)
  /-- FOLD (R317). -/
  | fold (j : Stack) (c : Slot)
  /-- LOADFOLD (R319). -/
  | loadfold (j : Stack) (c : Slot)
  /-- RING_RECORD (R294). -/
  | ringRecord (j : Stack) (c : Slot)
  /-- PRESS_JOB_COMPLETE (R289). -/
  | pressJobComplete (j : Stack) (c : Slot)
  /-- XFER (R371). -/
  | xfer (d : IoDie) (c : Slot) (k : Nat)
  /-- WAIT (R374). -/
  | wait (d : IoDie) (c : Slot) (k : Nat)
  /-- WAIT_SLACK_EXPIRE (R374). -/
  | waitSlackExpire (d : IoDie) (c : Slot) (k : Nat)
  /-- REDUCE (R376). -/
  | reduce (d : IoDie) (c : Slot) (k : Nat)
  /-- FLIT_RECEIVE (R353). -/
  | flitReceive (p : Port) (raw : List Byte)
  /-- RETRY_REQ_RECEIVE (R353). -/
  | retryReqReceive (p : Port) (raw : List Byte)
  /-- FLIT_TRANSMIT (R357). -/
  | flitTransmit (p : Port)
  /-- GOOD_FLIT_TIMEOUT (R355). -/
  | goodFlitTimeout (p : Port)
  /-- FLIT_LOCK_LOSS (R355). -/
  | flitLockLoss (p : Port)
  /-- LANE_FAILING (R352). -/
  | laneFailing (p : Port) (lane : Fin 9)
  /-- DETECT_LOCK (R350). -/
  | detectLock (p : Port) (lanes : BitVec 9)
  /-- KEEPER_UP_DONE (R350). -/
  | keeperUpDone (p : Port)
  /-- EQUALISE_DONE (R350). -/
  | equaliseDone (p : Port) (bad : BitVec 9)
  /-- ALIGN_DONE (R350). -/
  | alignDone (p : Port)
  /-- CALIBRATE_DONE (R350). -/
  | calibrateDone (p : Port)
  /-- TRAIN_TIMEOUT (R350). -/
  | trainTimeout (p : Port)
  /-- CAP (R351). -/
  | cap (p : Port) (raw : List Byte)
  /-- ECHO (R362). -/
  | echo (p : Port) (raw : List Byte)
  /-- ECHO_REPLY (R362). -/
  | echoReply (p : Port) (raw : List Byte)
  /-- SPARE_REQ (R352). -/
  | spareReq (p : Port) (raw : List Byte)
  /-- SPARE_ACK (R352). -/
  | spareAck (p : Port) (raw : List Byte)
  /-- KEEPER_REQ (R349). -/
  | keeperReq (p : Port) (raw : List Byte)
  /-- KEEPER_ACK (R349). -/
  | keeperAck (p : Port) (raw : List Byte)
  /-- RESUME_REQ (R349). -/
  | resumeReq (p : Port) (raw : List Byte)
  /-- RESUME_ACK (R349). -/
  | resumeAck (p : Port) (raw : List Byte)
  /-- WRITE_PACKET_RECEIVE (R372). -/
  | writePacketReceive (p : Port) (raw : List Byte)
  /-- RECEIPT_PACKET_RECEIVE (R373). -/
  | receiptPacketReceive (p : Port) (raw : List Byte)
  /-- REDUCE_PACKET_RECEIVE (R377). -/
  | reducePacketReceive (p : Port) (raw : List Byte)
  /-- MGMT_PACKET_RECEIVE (R483). -/
  | mgmtPacketReceive (p : Port) (raw : List Byte)
  /-- NEIGHBOUR_MARK_MISS (R367). -/
  | neighbourMarkMiss (p : Port)
  /-- TST_STEP (R441). -/
  | tstStep (cut : Bool)
  /-- TST_RESULT (R443). -/
  | tstResult (found : TstFound) (row : Fin 17)
  /-- SET_ENDPOINT_ID (R483). -/
  | setEndpointId (via : Iface) (body : List Byte)
  /-- GET_ENDPOINT_ID (R483). -/
  | getEndpointId (via : Iface) (body : List Byte)
  /-- GET_MCTP_VERSION_SUPPORT (R483). -/
  | getMctpVersionSupport (via : Iface) (body : List Byte)
  /-- GET_MESSAGE_TYPE_SUPPORT (R483). -/
  | getMessageTypeSupport (via : Iface) (body : List Byte)
  /-- GET_ENDPOINT_UUID (R483). -/
  | getEndpointUuid (via : Iface) (body : List Byte)
  /-- GET_TID (R483). -/
  | getTid (via : Iface) (body : List Byte)
  /-- GET_PLDM_VERSION (R483). -/
  | getPldmVersion (via : Iface) (body : List Byte)
  /-- GET_PLDM_TYPES (R483). -/
  | getPldmTypes (via : Iface) (body : List Byte)
  /-- GET_PLDM_COMMANDS (R483). -/
  | getPldmCommands (via : Iface) (body : List Byte)
  /-- GET_PDR_REPOSITORY_INFO (R483). -/
  | getPdrRepositoryInfo (via : Iface) (body : List Byte)
  /-- GET_PDR (R483). -/
  | getPdr (via : Iface) (body : List Byte)
  /-- GET_SENSOR_READING (R483). -/
  | getSensorReading (via : Iface) (body : List Byte)
  /-- SET_EVENT_RECEIVER (R483). -/
  | setEventReceiver (via : Iface) (body : List Byte)
  /-- QUERY_DEVICE_IDENTIFIERS (R483). -/
  | queryDeviceIdentifiers (via : Iface) (body : List Byte)
  /-- GET_FIRMWARE_PARAMETERS (R483). -/
  | getFirmwareParameters (via : Iface) (body : List Byte)
  /-- REQUEST_UPDATE (R483). -/
  | requestUpdate (via : Iface) (body : List Byte)
  /-- PASS_COMPONENT_TABLE (R483). -/
  | passComponentTable (via : Iface) (body : List Byte)
  /-- UPDATE_COMPONENT (R479). -/
  | updateComponent (via : Iface) (body : List Byte)
  /-- FIRMWARE_DATA_RESPONSE (R479). -/
  | firmwareDataResponse (via : Iface) (body : List Byte)
  /-- ACTIVATE_FIRMWARE (R480). -/
  | activateFirmware (via : Iface) (body : List Byte)
  /-- GET_STATUS (R483). -/
  | getStatus (via : Iface) (body : List Byte)
  /-- CANCEL_UPDATE_COMPONENT (R483). -/
  | cancelUpdateComponent (via : Iface) (body : List Byte)
  /-- CANCEL_UPDATE (R483). -/
  | cancelUpdate (via : Iface) (body : List Byte)
  /-- GET_VERSION (R482). -/
  | getVersion (via : Iface) (body : List Byte)
  /-- GET_CAPABILITIES (R482). -/
  | getCapabilities (via : Iface) (body : List Byte)
  /-- NEGOTIATE_ALGORITHMS (R482). -/
  | negotiateAlgorithms (via : Iface) (body : List Byte)
  /-- GET_DIGESTS (R482). -/
  | getDigests (via : Iface) (body : List Byte)
  /-- GET_CERTIFICATE (R482). -/
  | getCertificate (via : Iface) (body : List Byte)
  /-- CHALLENGE (R482). -/
  | challenge (via : Iface) (body : List Byte)
  /-- GET_MEASUREMENTS (R481). -/
  | getMeasurements (via : Iface) (body : List Byte)
  /-- GET_LOG (R465). -/
  | getLog (via : Iface) (body : List Byte)
  /-- GET_CHANGES (R470). -/
  | getChanges (via : Iface) (body : List Byte)
  /-- SET_TIME (R466). -/
  | setTime (via : Iface) (body : List Byte)
  /-- SET_CONFIG (R472). -/
  | setConfig (via : Iface) (body : List Byte)
  /-- COMMIT_SVN (R480). -/
  | commitSvn (via : Iface) (body : List Byte)
  /-- TAKE_OWNERSHIP (R469). -/
  | takeOwnership (via : Iface) (body : List Byte)
  /-- SET_ROLES (R468). -/
  | setRoles (via : Iface) (body : List Byte)
  /-- SERVICE_CHALLENGE (R477). -/
  | serviceChallenge (via : Iface) (body : List Byte)
  /-- SERVICE_RECORD (R477). -/
  | serviceRecord (via : Iface) (body : List Byte)
  /-- MODE0_HEARTBEAT (R463). -/
  | mode0Heartbeat
  /-- HOST_READ_COMPLETION (R270). -/
  | hostReadCompletion (e : Engine) (c : Slot) (k : Nat) (err : Bool)
  /-- MEM_WRITE_DONE (R269). -/
  | memWriteDone (st : Stack) (addr : Nat)
  /-- RETIREMENT_COPY_DONE (R271). -/
  | retirementCopyDone (st : Stack)
  /-- PERST_DEASSERTION (R495). -/
  | perstDeassertion
  /-- BOUNDARY_SCAN (R490). -/
  | boundaryScan (io : IoDie)
  /-- I3C_ADDRESS_ASSIGNMENT (R490). -/
  | i3cAddressAssignment (a : I3cAssign)
  deriving DecidableEq, Repr

end Sys2Proof
end

