-- ==== Sys2Proof/Config.lean ====
section
/-!
DEFINITION. What the spec leaves open: the free values. `freeValue` has no body, so no proof can see what it gives;
a step that needs an open value applies it to the counter `State.freeCtr` and advances the counter.
-/

namespace Sys2Proof.Config

/-- An open value: whatever the hardware produces where the spec states none (log entry 1). -/
opaque freeValue : Nat → BitVec 64

/-- 2 MiB pages of M0 that hold the translation tables (R255 gives no size; log entry 12). -/
opaque tablePages : Nat

/-- Bytes that manufacture puts into fuses and flash, by kind and index: 0 the serial number, 1 the measurement of
the boot ROM, 2 to 4 the digests of slot A's components, 5 Ngavaura's PCI vendor identifier, 6 the endpoint UUID, 7 the
PLDM terminus identifier, 8 the update time of the PDR repository, 9 the SPDM CTExponent, 10 the factory calibration
record (log entry 1). -/
opaque factory : Nat → Nat → Byte

/-- Bytes of the stored form of an object whose layout the spec does not give, by kind and contents; they are what a
SHA-384 digest of that form shows (log entry 1). -/
opaque formDigest : Nat → List Nat → Nat → Byte

/-- Certificate chain of slot 0 for the digests of the running components (R481, R482), the platform data records of the
sensors by number, and the versions of the management protocols by message type and part (log entry 1). -/
opaque certChain : List Nat → List Byte
opaque pdr : Nat → List Byte
opaque protocolVersion : Nat → BitVec 32

/-- What a firmware bundle is (R478, R479), from its components: `none` when its signature or a digest fails, else
the version word of MP_FW_VERSION (log entry 50). -/
opaque bundle : List (Nat × List Byte) → Option (BitVec 32)

/-- What a calibration record holds (R474 to R476), whose byte layout the spec does not give: the serial number it names,
whether its origin byte is factory, whether its factory signature verifies, the supply voltage of a die at a stored
temperature in millivolts, the preset index of a port, the offset of a sensor in the sensor's unit, and whether that
of a sensor with a percentage class lies in its limits (log entry 50). -/
opaque calSerial : List Byte → List Byte
opaque calFactory : List Byte → Bool
opaque calSigOk : List Byte → Bool
opaque calVolt : List Byte → Nat → Nat → Nat
opaque calPreset : List Byte → Nat → Nat
opaque calOffset : List Byte → Nat → Int
opaque calPercentOk : List Byte → Nat → Bool

/-- The stored temperature whose voltage a die takes at a sensor reading: R474 gives 8 of them from 25 to 105 degrees and
no way from one to the next (log entry 50). -/
opaque calPoint : Int → Fin 8

/-- Ngavaura's service key (R477). -/
opaque serviceKey : Nat → Byte

end Sys2Proof.Config
end

