-- ==== Sys2Proof/Machine/Flags.lean ====
section
/-!
DEFINITION. The fault codes of Table 14.1, Table 15.11 and Table 16.11, and the tally code that each brings to its
slot's Stroke (R54, Table 2.6; the codes of Table 2.4).
-/

namespace Sys2Proof.Machine

namespace Code

def strokeOverrun : Nat := 0x0101
def periodMismatch : Nat := 0x0102
def nonconformance : Nat := 0x0103
def markLoss : Nat := 0x0104
def markVerdict : Nat := 0x0105
def replayLimit : Nat := 0x0106
def panelInvalid : Nat := 0x0107
def tallyShort : Nat := 0x0108
def periodRange : Nat := 0x0109
def strokeBusy : Nat := 0x010A
def seqTrap : Nat := 0x0110
def strokeDiscard : Nat := 0x0111
def tileGen : Nat := 0x0112
def watchRecord : Nat := 0x0120
def watchNoStep : Nat := 0x0121
def lossSpike : Nat := 0x0122
def mglDesc : Nat := 0x0201
def mglStore : Nat := 0x0204
def mglHoldOverflow : Nat := 0x0205
def bridgeParity : Nat := 0x0210
def hemMismatch : Nat := 0x0220
def formatFault : Nat := 0x0301
def indexRange : Nat := 0x0302
def seamDesc : Nat := 0x0303
def seamOutFull : Nat := 0x0304
def lineUnderrun : Nat := 0x0401
def lineOverrun : Nat := 0x0402
def linePort : Nat := 0x0403
def tubPoison : Nat := 0x0404
def lineUnset : Nat := 0x0405
def lineSetup : Nat := 0x0406
def tubPartition : Nat := 0x0407
def lineBounds : Nat := 0x0408
def tubUe : Nat := 0x0409
def strPageFault : Nat := 0x0501
def strProtect : Nat := 0x0502
def strDesc : Nat := 0x0503
def strIndex : Nat := 0x0504
def strHostErr : Nat := 0x0505
def strMemUe : Nat := 0x0506
def strSpareEmpty : Nat := 0x0507
def prsDesc : Nat := 0x0601
def prsGenMismatch : Nat := 0x0602
def prsStepSkew : Nat := 0x0603
def prsNonfinite : Nat := 0x0604
def prsVoteFail : Nat := 0x0605
def prsHalt : Nat := 0x0606
def prsPoison : Nat := 0x0607
def prsRecord : Nat := 0x0608
def prsCholRetry : Nat := 0x0609
def prsCholFallback : Nat := 0x060A
def prsOrder : Nat := 0x060B
def prsFold : Nat := 0x060C
def ghlDesc : Nat := 0x0701
def ghlLost : Nat := 0x0702
def ghlWindowClosed : Nat := 0x0703
def ghlEpoch : Nat := 0x0704
def ghlWindowFault : Nat := 0x0705
def ghlWaitLate : Nat := 0x0706
def ghlNeighbourLost : Nat := 0x0707
def ghlTrain : Nat := 0x0708
def ghlLaneSpared : Nat := 0x0709
def ghlPortDegraded : Nat := 0x070A
def ghlHopRange : Nat := 0x070B
def ghlRoute : Nat := 0x070C
def ghlMarkCheck : Nat := 0x070D
def mbxOpcode : Nat := 0x0801
def mbxFormat : Nat := 0x0802
def mbxDenied : Nat := 0x0803
def mbxOwned : Nat := 0x0804
def mbxState : Nat := 0x0805
def mbxDma : Nat := 0x0806
def mbxCpTimeout : Nat := 0x0807
def mbxCpDown : Nat := 0x0808
def mbxNoPages : Nat := 0x0809
def mbxAddr : Nat := 0x080A
def ctxStartLate : Nat := 0x080B
def saveArea : Nat := 0x080C
def imgUnfitted : Nat := 0x0810
def imgFtable : Nat := 0x0811
def imgFtableFull : Nat := 0x0812
def imgTubFull : Nat := 0x0813
def imgFormat : Nat := 0x0814
def imgRelease : Nat := 0x0815
def imgDigest : Nat := 0x0816
def imgQueueFull : Nat := 0x0817
def imgCommand : Nat := 0x0818
def imgProgram : Nat := 0x0819
def imgEnergy : Nat := 0x081A
def imgFetch : Nat := 0x081B
def imgLayout : Nat := 0x081C
def imgMemFull : Nat := 0x081D
def imgSplit : Nat := 0x081E
def imgPress : Nat := 0x081F
def watchConfig : Nat := 0x0820
def imgLink : Nat := 0x0821
def reshardTimeout : Nat := 0x0822
def epochOrder : Nat := 0x0823
def resumeRefused : Nat := 0x0824
def admitEpoch : Nat := 0x0825
def admitGen : Nat := 0x0826
def assemblyMismatch : Nat := 0x0901
def unitTransient : Nat := 0x0940
def unitLasting : Nat := 0x0941
def darnBeyond : Nat := 0x0942
def repairPending : Nat := 0x0943
def deviceRetired : Nat := 0x0944
def darnVerify : Nat := 0x0945
def unitUnlocated : Nat := 0x0946
def cpWatchdog : Nat := 0x0902
def fwSignature : Nat := 0x0903
def fwRollback : Nat := 0x0904
def fwBootFallback : Nat := 0x0905
def calRange : Nat := 0x0906
def calSignature : Nat := 0x0907
def roleDenied : Nat := 0x0908
def logRoll : Nat := 0x0909
def ownerAuth : Nat := 0x090A
def flashCopy : Nat := 0x090B
def serviceRecord : Nat := 0x090C
def mgmtTime : Nat := 0x090D
def calMissing : Nat := 0x090E
def pwrCoolingId : Nat := 0x0A01
def pwrOverride : Nat := 0x0A02
def pwrStrokeOver : Nat := 0x0A03
def pwrSustained : Nat := 0x0A04
def thermWarn : Nat := 0x0A05
def thermCrit : Nat := 0x0A06
def thermTrip : Nat := 0x0A07
def pwrInputLow : Nat := 0x0A08
def pwrInputHigh : Nat := 0x0A09
def pwrRail : Nat := 0x0A0A
def pwrInputLoss : Nat := 0x0A0B
def pwrOvercurrent : Nat := 0x0A0C

end Code

/-- Tally code of a cause, 0 for a code that enters no tally (Table 2.6, Table 14.1). -/
def tallyOf (code : Nat) : Nat :=
  if [Code.strokeOverrun, Code.lineUnderrun, Code.lineOverrun, Code.ghlWaitLate].elem code then 4
  else if [Code.mglHoldOverflow, Code.bridgeParity, Code.hemMismatch, Code.tubPoison, Code.ghlLost,
      Code.ghlWindowClosed].elem code then 3
  else if [Code.replayLimit, Code.strPageFault].elem code then 5
  else if [Code.nonconformance, Code.markVerdict, Code.seqTrap, Code.tileGen, Code.mglDesc, Code.mglStore,
      Code.formatFault, Code.indexRange, Code.seamDesc, Code.seamOutFull, Code.linePort, Code.lineUnset,
      Code.lineSetup, Code.tubPartition, Code.lineBounds, Code.strProtect, Code.strDesc, Code.strIndex,
      Code.prsDesc, Code.prsOrder, Code.ghlDesc, Code.ghlEpoch, Code.ghlWindowFault, Code.imgFetch].elem code then 6
  else 0

end Sys2Proof.Machine
end

