-- ==== Sys2Proof/Machine/Hash.lean ====
section
/-!
DEFINITION. The published checks the spec names: SHA-384 of FIPS 180-4 (Table 0.6), CRC-32C (R346), the Reed-Solomon
code of R346 over GF(2^8), and the verification of ECDSA signatures over P-384 of FIPS 186-5 (Table 0.6).
-/

namespace Sys2Proof

/-! ### SHA-384 -/

def sha512K : List W64 :=
  [0x428A2F98D728AE22#64, 0x7137449123EF65CD#64, 0xB5C0FBCFEC4D3B2F#64, 0xE9B5DBA58189DBBC#64,
   0x3956C25BF348B538#64, 0x59F111F1B605D019#64, 0x923F82A4AF194F9B#64, 0xAB1C5ED5DA6D8118#64,
   0xD807AA98A3030242#64, 0x12835B0145706FBE#64, 0x243185BE4EE4B28C#64, 0x550C7DC3D5FFB4E2#64,
   0x72BE5D74F27B896F#64, 0x80DEB1FE3B1696B1#64, 0x9BDC06A725C71235#64, 0xC19BF174CF692694#64,
   0xE49B69C19EF14AD2#64, 0xEFBE4786384F25E3#64, 0x0FC19DC68B8CD5B5#64, 0x240CA1CC77AC9C65#64] ++
  [0x2DE92C6F592B0275#64, 0x4A7484AA6EA6E483#64, 0x5CB0A9DCBD41FBD4#64, 0x76F988DA831153B5#64,
   0x983E5152EE66DFAB#64, 0xA831C66D2DB43210#64, 0xB00327C898FB213F#64, 0xBF597FC7BEEF0EE4#64,
   0xC6E00BF33DA88FC2#64, 0xD5A79147930AA725#64, 0x06CA6351E003826F#64, 0x142929670A0E6E70#64,
   0x27B70A8546D22FFC#64, 0x2E1B21385C26C926#64, 0x4D2C6DFC5AC42AED#64, 0x53380D139D95B3DF#64,
   0x650A73548BAF63DE#64, 0x766A0ABB3C77B2A8#64, 0x81C2C92E47EDAEE6#64, 0x92722C851482353B#64] ++
  [0xA2BFE8A14CF10364#64, 0xA81A664BBC423001#64, 0xC24B8B70D0F89791#64, 0xC76C51A30654BE30#64,
   0xD192E819D6EF5218#64, 0xD69906245565A910#64, 0xF40E35855771202A#64, 0x106AA07032BBD1B8#64,
   0x19A4C116B8D2D0C8#64, 0x1E376C085141AB53#64, 0x2748774CDF8EEB99#64, 0x34B0BCB5E19B48A8#64,
   0x391C0CB3C5C95A63#64, 0x4ED8AA4AE3418ACB#64, 0x5B9CCA4F7763E373#64, 0x682E6FF3D6B2B8A3#64,
   0x748F82EE5DEFB2FC#64, 0x78A5636F43172F60#64, 0x84C87814A1F0AB72#64, 0x8CC702081A6439EC#64] ++
  [0x90BEFFFA23631E28#64, 0xA4506CEBDE82BDE9#64, 0xBEF9A3F7B2C67915#64, 0xC67178F2E372532B#64,
   0xCA273ECEEA26619C#64, 0xD186B8C721C0C207#64, 0xEADA7DD6CDE0EB1E#64, 0xF57D4F7FEE6ED178#64,
   0x06F067AA72176FBA#64, 0x0A637DC5A2C898A6#64, 0x113F9804BEF90DAE#64, 0x1B710B35131C471B#64,
   0x28DB77F523047D84#64, 0x32CAAB7B40C72493#64, 0x3C9EBE0A15C9BEBC#64, 0x431D67C49C100D4C#64,
   0x4CC5D4BECB3E42B6#64, 0x597F299CFC657E2A#64, 0x5FCB6FAB3AD6FAEC#64, 0x6C44198C4A475817#64]

def sha384Init : List W64 :=
  [0xCBBB9D5DC1059ED8#64, 0x629A292A367CD507#64, 0x9159015A3070DD17#64, 0x152FECD8F70E5939#64,
   0x67332667FFC00B31#64, 0x8EB44A8768581511#64, 0xDB0C2E0D64F98FA7#64, 0x47B5481DBEFA4FA4#64]

def shaBigS0 (x : W64) : W64 := x.rotateRight 28 ^^^ x.rotateRight 34 ^^^ x.rotateRight 39
def shaBigS1 (x : W64) : W64 := x.rotateRight 14 ^^^ x.rotateRight 18 ^^^ x.rotateRight 41
def shaSmallS0 (x : W64) : W64 := x.rotateRight 1 ^^^ x.rotateRight 8 ^^^ (x >>> 7)
def shaSmallS1 (x : W64) : W64 := x.rotateRight 19 ^^^ x.rotateRight 61 ^^^ (x >>> 6)

/-- Message schedule: `n` further words, newest first. -/
def shaSchedule : Nat → List W64 → List W64
  | 0, w => w
  | n + 1, w =>
    let x := shaSmallS1 (w.getD 1 0) + w.getD 6 0 + shaSmallS0 (w.getD 14 0) + w.getD 15 0
    shaSchedule n (x :: w)

structure ShaState where
  a : W64
  b : W64
  c : W64
  d : W64
  e : W64
  f : W64
  g : W64
  h : W64
  deriving DecidableEq, Repr

def shaRound (s : ShaState) (kw : W64 × W64) : ShaState :=
  let t1 := s.h + shaBigS1 s.e + ((s.e &&& s.f) ^^^ (~~~s.e &&& s.g)) + kw.1 + kw.2
  let t2 := shaBigS0 s.a + ((s.a &&& s.b) ^^^ (s.a &&& s.c) ^^^ (s.b &&& s.c))
  ⟨t1 + t2, s.a, s.b, s.c, s.d + t1, s.e, s.f, s.g⟩

/-- Big-endian number of a byte string. -/
def beNat (bs : List Byte) : Nat := bs.foldl (fun a b => a * 256 + b.toNat) 0
/-- Little-endian number of a byte string (00_scope, Notation). -/
def leNat : List Byte → Nat
  | [] => 0
  | b :: bs => b.toNat + 256 * leNat bs
/-- `n` bytes of a number, least significant first. -/
def leBytes : Nat → Nat → List Byte
  | 0, _ => []
  | n + 1, v => BitVec.ofNat 8 v :: leBytes n (v / 256)
/-- `n` bytes of a number, most significant first. -/
def beBytes (n v : Nat) : List Byte := (leBytes n v).reverse

def shaCompress (h : List W64) (blk : List W64) : List W64 :=
  let w := (shaSchedule 64 blk.reverse).reverse
  let s0 : ShaState :=
    ⟨h.getD 0 0, h.getD 1 0, h.getD 2 0, h.getD 3 0, h.getD 4 0, h.getD 5 0, h.getD 6 0, h.getD 7 0⟩
  let s := (List.zip sha512K w).foldl shaRound s0
  List.zipWith (· + ·) h [s.a, s.b, s.c, s.d, s.e, s.f, s.g, s.h]

/-- The 16 words of a 128-byte block. -/
def shaWords : Nat → List Byte → List W64
  | 0, _ => []
  | n + 1, bs => BitVec.ofNat 64 (beNat (bs.take 8)) :: shaWords n (bs.drop 8)

def shaPad (bs : List Byte) : List Byte :=
  let n := bs.length
  let z := (239 - n % 128) % 128
  bs ++ [0x80#8] ++ List.replicate z 0#8 ++ beBytes 16 (8 * n)

def shaBlocks : Nat → List W64 → List Byte → List W64
  | 0, h, _ => h
  | n + 1, h, bs => shaBlocks n (shaCompress h (shaWords 16 (bs.take 128))) (bs.drop 128)

/-- SHA-384 of a byte string: 48 bytes. -/
def sha384 (bs : List Byte) : List Byte :=
  let p := shaPad bs
  ((shaBlocks (p.length / 128) sha384Init p).take 6).flatMap (fun w => beBytes 8 w.toNat)

/-! ### CRC-32C -/

def crcBits : Nat → W32 → W32
  | 0, c => c
  | n + 1, c => crcBits n (if c.getLsbD 0 then (c >>> 1) ^^^ 0x82F63B78#32 else c >>> 1)

/-- The reflected CRC with polynomial 0x1EDC_6F41 (R346). -/
def crc32c (bs : List Byte) : W32 :=
  ~~~ (bs.foldl (fun c b => crcBits 8 (c ^^^ b.setWidth 32)) 0xFFFFFFFF#32)

/-! ### Reed-Solomon over GF(2^8), 8 check symbols (R346) -/

/-- Times the root x of x^8 + x^4 + x^3 + x^2 + 1. -/
def gfX (a : Byte) : Byte := if a.getLsbD 7 then (a <<< 1) ^^^ 0x1D#8 else a <<< 1

def gfMulAux : Nat → Byte → Byte → Byte → Byte
  | 0, _, _, r => r
  | n + 1, a, b, r => gfMulAux n (gfX a) (b >>> 1) (if b.getLsbD 0 then r ^^^ a else r)

def gfMul (a b : Byte) : Byte := gfMulAux 8 a b 0

def gfPow (a : Byte) : Nat → Byte
  | 0 => 1
  | n + 1 => gfMul a (gfPow a n)

/-- Inverse: the 254th power. -/
def gfInv (a : Byte) : Byte := gfPow a 254

/-- The power `α^i`. -/
def gfAlpha (i : Nat) : Byte := gfPow 2#8 (i % 255)

/-- Value of a polynomial, coefficients from the highest degree down. -/
def gfEval (p : List Byte) (x : Byte) : Byte := p.foldl (fun a c => gfMul a x ^^^ c) 0

/-- Product of the monic polynomial `g` (highest first) and `x + r`. -/
def gfMulRoot (g : List Byte) (r : Byte) : List Byte :=
  List.zipWith (· ^^^ ·) (g ++ [0]) (0 :: g.map (gfMul r))

/-- Generator: the product of `x + α^i` for i = 0 to 7. -/
def rsGen : List Byte := (List.range 8).foldl (fun g i => gfMulRoot g (gfAlpha i)) [1]

def rsDivAux (g : List Byte) : List Byte → List Byte → List Byte
  | [], rem => rem
  | d :: ds, rem =>
    let f := d ^^^ rem.headD 0
    rsDivAux g ds (List.zipWith (· ^^^ ·) (rem.tail ++ [0]) (g.tail.map (gfMul f)))

/-- The eight check bytes of a data polynomial, highest degree first. -/
def rsCheck (data : List Byte) : List Byte := rsDivAux rsGen data (List.replicate 8 0)

/-- Syndromes of a received word. -/
def rsSynd (word : List Byte) : List Byte := (List.range 8).map (fun i => gfEval word (gfAlpha i))

def polyAdd (a b : List Byte) : List Byte :=
  let n := max a.length b.length
  (List.range n).map (fun i => a.getD i 0 ^^^ b.getD i 0)
def polyScale (c : Byte) (a : List Byte) : List Byte := a.map (gfMul c)

/-- Berlekamp-Massey over the syndromes, lowest degree first: locator, previous locator, length, gap, last
discrepancy. -/
def rsBm (s : List Byte) : Nat → Nat → List Byte → List Byte → Nat → Nat → Byte → List Byte × Nat
  | 0, _, c, _, l, _, _ => (c, l)
  | k + 1, n, c, b, l, m, bd =>
    let d := (List.range (l + 1)).foldl (fun a i => a ^^^ gfMul (c.getD i 0) (s.getD (n - i) 0)) 0
    if d = 0 then rsBm s k (n + 1) c b l (m + 1) bd
    else
      let c' := polyAdd c (List.replicate m 0 ++ polyScale (gfMul d (gfInv bd)) b)
      if 2 * l ≤ n then rsBm s k (n + 1) c' c (n + 1 - l) 1 d
      else rsBm s k (n + 1) c' b l (m + 1) bd

/-- Value of a polynomial, lowest degree first. -/
def gfEvalLow (p : List Byte) (x : Byte) : Byte := gfEval p.reverse x

/-- Correct a received word (highest degree first): the corrected word and the positions corrected, or
`none` when more than 4 bytes are wrong or the pattern is not decodable (R346). -/
def rsDecode (word : List Byte) : Option (List Byte × List Nat) :=
  let s := rsSynd word
  if s.all (· == 0) then some (word, [])
  else
    let (c, l) := rsBm s 8 0 [1] [1] 0 1 1
    let n := word.length
    let degs := (List.range n).filter (fun j => gfEvalLow c (gfInv (gfAlpha j)) == 0)
    if l > 4 || degs.length ≠ l then none
    else
      let om := (List.range 8).map (fun i =>
        (List.range (i + 1)).foldl (fun a k => a ^^^ gfMul (c.getD k 0) (s.getD (i - k) 0)) 0)
      let dc := (List.range c.length).map (fun i => if i % 2 == 0 then c.getD (i + 1) 0 else 0)
      let fix := fun (j : Nat) =>
        let xi := gfInv (gfAlpha j)
        gfMul (gfAlpha j) (gfMul (gfEvalLow om xi) (gfInv (gfEvalLow dc xi)))
      let w := (List.range n).map (fun p =>
        let j := n - 1 - p
        if degs.contains j then word.getD p 0 ^^^ fix j else word.getD p 0)
      if (rsSynd w).all (· == 0) then some (w, degs.map (fun j => n - 1 - j)) else none

/-! ### ECDSA over P-384 -/

def p384P : Nat := 2 ^ 384 - 2 ^ 128 - 2 ^ 96 + 2 ^ 32 - 1
def p384N : Nat := 0xFFFFFFFFFFFFFFFFFFFFFFFFFFFFFFFFFFFFFFFFFFFFFFFFC7634D81F4372DDF581A0DB248B0A77AECEC196ACCC52973
def p384B : Nat := 0xB3312FA7E23EE7E4988E056BE3F82D19181D9C6EFE8141120314088F5013875AC656398D8A2ED19D2A85C8EDD3EC2AEF
def p384Gx : Nat := 0xAA87CA22BE8B05378EB1C71EF320AD746E1D3B628BA79B9859F741E082542A385502F25DBF55296C3A545E3872760AB7
def p384Gy : Nat := 0x3617DE4A96262C6F5D9E98BF9292DC29F8F41DBD289A147CE9DA3113B5F0B8C00A60B1CE1D7E819D7A431D7C90EA0E5F

def powModAux (m : Nat) : Nat → Nat → Nat → Nat → Nat
  | 0, _, _, r => r
  | k + 1, b, e, r => powModAux m k (b * b % m) (e / 2) (if e % 2 = 1 then r * b % m else r)
def powMod (b e m : Nat) : Nat := powModAux m 384 (b % m) e 1
/-- Inverse modulo a prime. -/
def invMod (a m : Nat) : Nat := powMod a (m - 2) m

/-- Affine point, `none` at infinity. -/
abbrev EcPoint := Option (Nat × Nat)

def ecAdd (p q : EcPoint) : EcPoint :=
  match p, q with
  | none, _ => q
  | _, none => p
  | some (x1, y1), some (x2, y2) =>
    if x1 = x2 && (y1 + y2) % p384P = 0 then none
    else
      let l := if x1 = x2 then (3 * x1 * x1 + p384P - 3) * invMod (2 * y1) p384P % p384P
               else (y2 + p384P - y1) * invMod (x2 + p384P - x1) p384P % p384P
      let x3 := (l * l + 2 * p384P - x1 - x2) % p384P
      some (x3, (l * (x1 + p384P - x3) + p384P - y1) % p384P)

def ecMulAux : Nat → EcPoint → Nat → EcPoint → EcPoint
  | 0, _, _, r => r
  | k + 1, b, e, r => ecMulAux k (ecAdd b b) (e / 2) (if e % 2 = 1 then ecAdd r b else r)
def ecMul (e : Nat) (p : EcPoint) : EcPoint := ecMulAux 384 p e none

/-- Is `sig` (r then s, 48 big-endian bytes each) a signature by `key` (x then y) over a message with the
given SHA-384 digest (FIPS 186-5)? -/
def ecdsaVerify (key digest sig : List Byte) : Bool :=
  let x := beNat (key.take 48)
  let y := beNat (key.drop 48)
  let r := beNat (sig.take 48)
  let s := beNat (sig.drop 48)
  let onCurve := x < p384P && y < p384P && (y * y) % p384P = (x * x * x + (p384P - 3) * x + p384B) % p384P
  if key.length = 96 && sig.length = 96 && onCurve && 0 < r && r < p384N && 0 < s && s < p384N then
    let w := invMod s p384N
    let u1 := beNat digest * w % p384N
    let u2 := r * w % p384N
    match ecAdd (ecMul u1 (some (p384Gx, p384Gy))) (ecMul u2 (some (x, y))) with
    | some (vx, _) => vx % p384N = r
    | none => false
  else false

end Sys2Proof
end

