-- ==== Sys2Proof/Machine/Sparse.lean ====
section
/-!
DEFINITION. Sparse tables in one canonical form: a list of (key, value) pairs, keys strictly rising, no entry
equal to the value an unlisted key reads as. Memories are such tables of bytes (`Host.Cell` lists), and the
per-tile, per-port and per-slot records of State are such tables of records.
-/

namespace Sys2Proof

/-- A sparse table: what an unlisted key reads as is given at each read and write. -/
abbrev KV (α : Type) := List (Nat × α)

namespace KV

variable {α : Type}

/-- The value at `k`, `d` when `k` is not listed. -/
def get (d : α) : KV α → Nat → α
  | [], _ => d
  | (k', v) :: m, k => if k' = k then v else get d m k

/-- The listed value at `k`, if any. -/
def find? : KV α → Nat → Option α
  | [], _ => none
  | (k', v) :: m, k => if k' = k then some v else find? m k

/-- `m` without key `k`. -/
def erase : KV α → Nat → KV α
  | [], _ => []
  | (k', v) :: m, k => if k' = k then erase m k else (k', v) :: erase m k

/-- `m` with `k` listed as `v`, keys kept rising. -/
def insert : KV α → Nat → α → KV α
  | [], k, v => [(k, v)]
  | (k', v') :: m, k, v =>
    if k < k' then (k, v) :: (k', v') :: m
    else if k = k' then (k, v) :: m
    else (k', v') :: insert m k v

/-- Write `v` at `k`; a value equal to `d` is not listed. -/
def set [DecidableEq α] (d : α) (m : KV α) (k : Nat) (v : α) : KV α :=
  if v = d then erase m k else insert m k v

/-- Update the value at `k` by `f`. -/
def upd [DecidableEq α] (d : α) (m : KV α) (k : Nat) (f : α → α) : KV α :=
  set d m k (f (get d m k))

/-- Remove every key in `[lo, hi)`: each reads as the default again. -/
def eraseRange (m : KV α) (lo hi : Nat) : KV α :=
  m.filter (fun e => decide (e.1 < lo) || decide (hi ≤ e.1))

/-- The canonical form. -/
def wf [DecidableEq α] (d : α) (m : KV α) : Bool :=
  decide ((m.map Prod.fst).Pairwise (· < ·)) && m.all (fun e => decide (e.2 ≠ d))

/-- Write a list of values at consecutive keys. -/
def setList [DecidableEq α] (d : α) (m : KV α) (k : Nat) : List α → KV α
  | [] => m
  | v :: vs => setList d (set d m k v) (k + 1) vs

/-- Read `n` values at consecutive keys. -/
def getList (d : α) (m : KV α) (k : Nat) : Nat → List α
  | 0 => []
  | n + 1 => get d m k :: getList d m (k + 1) n

end KV

/-- A sparse set of numbers, strictly rising. -/
abbrev NSet := List Nat

namespace NSet

def mem (s : NSet) (k : Nat) : Bool := List.elem k s

def add : NSet → Nat → NSet
  | [], k => [k]
  | k' :: s, k => if k < k' then k :: k' :: s else if k = k' then k' :: s else k' :: add s k

def del (s : NSet) (k : Nat) : NSet := s.filter (fun x => x != k)

def put (s : NSet) (k : Nat) (b : Bool) : NSet := if b then add s k else del s k

def delRange (s : NSet) (lo hi : Nat) : NSet :=
  s.filter (fun x => decide (x < lo) || decide (hi ≤ x))

end NSet

end Sys2Proof
end

