-- ==== Sys2Proof/Machine/StHamper.lean ====
section
/-!
DEFINITION. State of the Hamper (13_hamper_and_contexts, R403 to R417, R433), of the Stroke timer and tally logic
(02_stroke, R30 to R63), and the parts of a context slot that those chapters name (R423 to R435).
-/

namespace Sys2Proof.Machine

/-- MBX_STATE.state, with the codes of Table 13.2 in order (R408). -/
inductive MbxState where
  | idle | sealed | queued | accepted | done
  deriving DecidableEq, Repr

def MbxState.code : MbxState → Nat
  | .idle => 0 | .sealed => 1 | .queued => 2 | .accepted => 3 | .done => 4

/-- A request as the Hamper copies it at acknowledgement (R408, Table 13.1). -/
structure Request where
  opcode : Nat
  tag : W32
  payload : List Byte
  /-- The slot the command names, if it names one (R405). -/
  slot : Option Nat
  deriving DecidableEq, Repr

/-- The host event ring of a mailbox (R415, R416). -/
structure EvRing where
  addr : Nat
  entries : Nat
  deriving DecidableEq, Repr

/-- What has become of an accepted command: nothing yet; it passed its checks and waits for an opening band
(R414); it is under way and a later event completes it. -/
inductive CmdStage where
  | fresh | band | busy
  deriving DecidableEq, Repr

/-- A mailbox page and the Hamper's own record of its command. -/
structure Mailbox where
  /-- Request and response areas, page offsets 0x000 to 0xFBF (Table 13.1). -/
  page : KV Byte
  st : MbxState
  doneCount : Byte
  /-- done, event, seal_dropped, late_done, feed_over (Table 13.2). -/
  irq : BitVec 5
  irqEn : BitVec 2
  head : BitVec 12
  tail : BitVec 12
  /-- MBX_EVT_LOST. -/
  lost : W32
  /-- Events dropped since the last LOST record (R415). -/
  lostOwn : W32
  ring : Option EvRing
  feedPosted : W32
  feedDone : W32
  /-- Function that gave the sealing write: 0 the physical function, v a virtual one. -/
  fn : Fin 8
  req : Option Request
  /-- Place in the order of acknowledgement, and in the order of acceptance. -/
  ackSeq : Nat
  accSeq : Nat
  /-- Core cycle at which the command became QUEUED (MBX_ACCT_QUEUE_US). -/
  queuedAt : Nat
  /-- Completion bound in cycles, when the Hamper knows it (R412). -/
  bound : Option Nat
  stage : CmdStage
  /-- The Hamper completed the command and the CP has not (R412). -/
  timedOut : Bool
  deriving DecidableEq, Repr

def Mailbox.init : Mailbox :=
  { page := [], st := .idle, doneCount := 0, irq := 0, irqEn := 0, head := 0, tail := 0, lost := 0, lostOwn := 0,
    ring := none, feedPosted := 0, feedDone := 0, fn := 0, req := none, ackSeq := 0, accSeq := 0, queuedAt := 0,
    bound := none, stage := .fresh, timedOut := false }

/-- MBX_HAMPER_STATUS and the Hamper's counters (R433). -/
structure Hamper where
  mbx : KV Mailbox
  ready : Bool
  cpFault : Bool
  assemblyFault : Bool
  vfEnabled : Bool
  numVfs : Fin 8
  lateDone : W32
  cpTimeouts : W32
  /-- Next numbers in the orders of acknowledgement and acceptance (R410, R414). -/
  ackNext : Nat
  accNext : Nat
  /-- MSI-X messages sent, per vector. -/
  msix : KV Nat
  deriving DecidableEq, Repr

def Hamper.reset : Hamper :=
  { mbx := [], ready := false, cpFault := false, assemblyFault := false, vfEnabled := false, numVfs := 0,
    lateDone := 0, cpTimeouts := 0, ackNext := 0, accNext := 0, msix := [] }

/-- Contents of a Stroke mark (Table 2.1); `verdict` is bits [72:49]. -/
structure Mark where
  number : W48
  double : Bool
  verdict : BitVec 24
  period : BitVec 25
  root : BitVec 11
  /-- Bits [127:109], reserved, which pass from hop to hop as they came (R361). -/
  resv : BitVec 19
  deriving DecidableEq, Repr

/-- A mark taken from the upstream port and not yet entered in the mark lines (R361, R362). -/
structure MarkIn where
  mark : Mark
  port : Nat
  /-- Aligned arrival A. -/
  at_ : Nat
  deriving DecidableEq, Repr

/-- The Stroke timer, the domain configuration and the tally logic. -/
structure Stroke where
  mode : BitVec 2
  replayLimit : BitVec 3
  treeDepth : BitVec 5
  hopUnits : BitVec 6
  period : BitVec 25
  rootId : BitVec 11
  domainSize : BitVec 12
  endReserve : BitVec 20
  double : Bool
  missed : BitVec 2
  domainLost : Bool
  mark : W48
  /-- STK_MARK_HI as latched by a read of STK_MARK_LO (R62). -/
  markHi : W16
  missedMarks : W32
  earlyMarks : W32
  staleTallies : W32
  shortTallies : W32
  verdictFaults : W32
  /-- Core cycle of cycle 0 of the current Stroke; `none` before the first mark of a domain. -/
  cycle0 : Option Nat
  /-- The closing band has begun (R47). -/
  closing : Bool
  /-- The device's own tally stands in `codes`, `count`: a band that began while the CP was down forms none (R463). -/
  formed : Bool
  /-- The device's tally of the Stroke just reported has left it: at a follower, its TALLY was sent upstream (R51). -/
  tallyOut : Bool
  codes : List Nat
  count : Nat
  /-- Ports whose tally for this mark has been combined (R365). -/
  heard : NSet
  /-- The combined tally went upstream, or the root ended its collection (R47, R48). -/
  sent : Bool
  /-- Verdict field and double bit of the next mark of a root (R48). -/
  nextVerdict : List Nat
  /-- Mark received and not yet entered; mark in the mark lines. -/
  rx : Option MarkIn
  entered : Option Mark
  /-- A mark this device still has to forward, with its aligned arrival A (R33, R361). -/
  fwd : Option (Mark × Nat)
  /-- A foreign mark has been reported (R33). -/
  mismatch : Bool
  deriving DecidableEq, Repr

def Stroke.reset : Stroke :=
  { mode := 0, replayLimit := 3, treeDepth := 0, hopUnits := 0, period := 0x927C0, rootId := 0, domainSize := 1,
    endReserve := 0x924, double := false, missed := 0, domainLost := false, mark := 0, markHi := 0,
    missedMarks := 0, earlyMarks := 0, staleTallies := 0, shortTallies := 0, verdictFaults := 0, cycle0 := none,
    closing := false, formed := false, tallyOut := false, codes := [], count := 0, heard := [], sent := false, nextVerdict := [], rx := none,
    entered := none, fwd := none, mismatch := false }

/-- Context states with the codes of Table 13.11 in order (R423). -/
inductive CtxSt where
  | empty | loaded | running | held | saved
  deriving DecidableEq, Repr

def CtxSt.code : CtxSt → Nat
  | .empty => 0 | .loaded => 1 | .running => 2 | .held => 3 | .saved => 4

/-- Accounting counters of Table 13.12. -/
structure Acct where
  /-- Core cycles behind MBX_ACCT_QUEUE_US. -/
  queueCyc : Nat
  cmds : W32
  runStrokes : W32
  commits : W32
  heldStrokes : W32
  feedStrokes : W32
  preempts : W32
  /-- Core cycles behind MBX_ACCT_SAVED_MS. -/
  savedCyc : Nat
  deriving DecidableEq, Repr

def Acct.zero : Acct := ⟨0, 0, 0, 0, 0, 0, 0, 0⟩

/-- Per-context Stroke registers and counters (Tables 2.10 and 2.11). -/
structure StkCtx where
  index : W48
  lastVerdict : BitVec 3
  lastTally : BitVec 3
  /-- STK_CTX_INDEX_HI as latched by a read of STK_CTX_INDEX_LO (R63). -/
  hi : W32
  arbLoss : W32
  stallCycles : W32
  overruns : W32
  replays : W32
  holds : W32
  doubles : W32
  deriving DecidableEq, Repr

def StkCtx.zero : StkCtx := ⟨0, 0, 0, 0, 0, 0, 0, 0, 0, 0⟩

/-- STR_CTX_FAULT of a slot (Table 8.7). -/
structure CtxFault where
  lo : W32
  hi : W32
  tag : W32
  /-- STR_CTX_FAULT_HI as latched by a read of the low word (R275). -/
  hiLatch : W32
  deriving DecidableEq, Repr

def CtxFault.zero : CtxFault := ⟨0, 0, 0, 0⟩

/-- The registers that record a translation failure (Table 8.7). -/
def CtxFault.of (va : Nat) (write : Bool) (engine : Nat) (tag : W32) (ghl : Bool) : CtxFault :=
  { lo := BitVec.ofNat 32 va
    hi := BitVec.ofNat 32 ((va / 4294967296) % 65536 + 65536 * write.toNat + 131072 * (engine % 32) + 4194304
      + 8388608 * ghl.toNat)
    tag := tag, hiLatch := 0 }

/-- The context's attempt at its index in the current Stroke. -/
structure Attempt where
  /-- The context runs in this Stroke. -/
  on : Bool
  /-- Largest tally code among the causes met; 0 with none (R54). -/
  cause : Nat
  /-- The index committed in this Stroke's opening band. -/
  committed : Bool
  /-- Reruns of the index in a row by REPLAY or REPLAY_LONG (R52). -/
  reruns : Nat
  /-- Tally code sent for the Stroke just ended (R51). -/
  sentCode : Nat
  /-- Ranges in force, as 8 × class + range, and the core cycle each began (R39). -/
  ranges : KV Nat
  /-- Ranges that have begun in this Stroke. -/
  begun : NSet
  /-- The translation failure that raised the first cause, recorded with the tally (R261). -/
  pageFault : Option CtxFault
  deriving DecidableEq, Repr

def Attempt.none : Attempt :=
  { on := false, cause := 0, committed := false, reruns := 0, sentCode := 0, ranges := [], begun := []
    pageFault := Option.none }

/-- Keep the translation failure that raises the first cause of the Stroke (R261). -/
def Attempt.failed (a : Attempt) (f : CtxFault) : Attempt :=
  if a.cause = 0 then { a with pageFault := some f } else a

/-- A configured feed (R428). -/
structure Feed where
  va : Nat
  slotBytes : Nat
  nSlots : Nat
  every : Nat
  first : Nat
  deriving DecidableEq, Repr

end Sys2Proof.Machine
end

