-- ==== Sys2Proof/Machine/StGhl.lean ====
section
/-!
DEFINITION. State of the Gelhesy link (11_gelhesy_link, R343 to R382): the ports with their training, sparing, retry and
credits, the device's identity and routes, and what the link holds for a context.
-/

namespace Sys2Proof.Machine

/-- Training states with the codes 0 to 8 of Table 11.17 in order (Table 11.4); LOST and QUARANTINE are `Port.code`. -/
inductive PortSt where
  | disabled | detect | keeperUp | equalise | align | calibrate | active | keeper | degraded
  deriving DecidableEq, Repr

def PortSt.code : PortSt → Nat
  | .disabled => 0 | .detect => 1 | .keeperUp => 2 | .equalise => 3 | .align => 4 | .calibrate => 5
  | .active => 6 | .keeper => 7 | .degraded => 8

/-- A packet that waits to be sent, or is being sent: its number in the port and its slots (R347). -/
structure TxPkt where
  num : Nat
  bytes : List Byte
  deriving DecidableEq, Repr

/-- A priority packet that waits to be sent (Table 11.3). MARK and ECHO_REPLY state the cycle of their flit, so
their bytes are written when they are sent (R361, R362). -/
inductive PrioOut where
  | mark (m : Mark) (a : Nat) (copy : Bool)
  | tally (number : W48) (codes : BitVec 24) (count : Nat) (copy : Bool)
  | link (bytes : List Byte)
  | echo
  | echoReply (t : W32) (arrived : Nat)
  deriving DecidableEq, Repr

/-- A PAYLOAD or SWITCH flit in the retry buffer: its header, its slots, the packets that have slots in it (R353), and the
type of the packet in each slot, 0 in a slot that no such packet has. -/
structure RetryEnt where
  seq : Nat
  head : W64
  slots : List (List Byte)
  pkts : List TxPkt
  types : List Nat
  deriving DecidableEq, Repr

/-- A port. -/
structure GPort where
  st : PortSt
  /-- The neighbour is lost (R367). -/
  lost : Bool
  /-- The port is changing between full and keeper mode (R349). -/
  changing : Bool
  /-- This end has asked for keeper mode, or the neighbour's CAP has (Table 11.5). -/
  wantKeeper : Bool
  peerKeeper : Bool
  keeperLane : Nat
  spareRx : BitVec 4
  spareTx : BitVec 4
  laneOk : BitVec 9
  preset : BitVec 4
  peerId : BitVec 11
  peerPort : BitVec 4
  peerValid : Bool
  peerAdmitted : Bool
  wFull : Nat
  wKeeper : Nat
  /-- Latency samples of the echoes since the state was entered (R362). -/
  samples : List Nat
  /-- Receiver: seq of the last sequenced flit accepted, bytes of the packet in progress, packets not yet taken,
  slots to return by channel, a RETRY_REQ due. -/
  rxSeq : Nat
  rxPart : List Byte
  inbox : List (List Byte)
  owed : KV Nat
  reqDue : Bool
  /-- Transmitter: seq of the next sequenced flit, priority packets, the packet in progress and its remaining slots,
  the packets of each source in precedence order (R357), credits by channel. -/
  txSeq : Nat
  txNum : Nat
  prio : List PrioOut
  cur : Option (TxPkt × List (List Byte))
  receipts : List TxPkt
  reduces : List TxPkt
  writes : List TxPkt
  mgmts : List TxPkt
  credits : KV Nat
  retry : List RetryEnt
  /-- Flits still to be resent. -/
  resend : List RetryEnt
  /-- ack of the last RETRY_REQ, and how many in a row have named it (R355). -/
  reqAck : Nat
  reqRun : Nat
  /-- Sparing (R352): the lane to send on the spare from the next SWITCH flit, the lane asked of the neighbour, the
  lane and seq that it has named, failed lanes of the receiver. -/
  switchLane : Option Nat
  asked : Option Nat
  spareAt : Option (Nat × Nat)
  failed : NSet
  /-- The last flit begun, as it stands before the scrambler; the symbols that the physical lanes carry of it, and the
  state of each lane's scrambler once it has run (R344). -/
  txFlit : List Byte
  wire : KV (List Int)
  scr : KV (BitVec 31)
  /-- mark_number of the last mark and of the last tally taken on the port; misses in a row (R361, R365, R367). -/
  lastMark : Option W48
  lastTally : Option W48
  misses : Nat
  /-- Table 11.18; `fecCorr` is the raw count. -/
  fecCorr : Nat
  badFlits : W32
  retries : W32
  downs : W32
  markMisses : W32
  markCheck : W32
  spares : W32
  deriving DecidableEq, Repr

def GPort.reset : GPort :=
  { st := .disabled, lost := false, changing := false, wantKeeper := false, peerKeeper := false, keeperLane := 0
    spareRx := 15, spareTx := 15, laneOk := 0, preset := 0, peerId := 0, peerPort := 0, peerValid := false
    peerAdmitted := false, wFull := 0, wKeeper := 0, samples := [], rxSeq := 4095, rxPart := [], inbox := []
    owed := [], reqDue := false, txSeq := 0, txNum := 0, prio := [], cur := none, receipts := [], reduces := []
    writes := [], mgmts := [], credits := [], retry := [], resend := [], reqAck := 0, reqRun := 0
    switchLane := none, asked := none, spareAt := none, failed := [], txFlit := [], wire := [], scr := [], lastMark := none
    lastTally := none, misses := 0, fecCorr := 0, badFlits := 0, retries := 0, downs := 0, markMisses := 0
    markCheck := 0, spares := 0 }

/-- An entry of the routing table (Table 11.19). -/
structure Route where
  port : BitVec 4
  valid : Bool
  here : Bool
  deriving DecidableEq, Repr

def Route.none : Route := ⟨0, false, false⟩

/-- The link of the device (R379 to R382). -/
structure Ghl where
  ports : KV GPort
  deviceId : BitVec 11
  valid : Bool
  admitted : Bool
  upPort : BitVec 4
  upValid : Bool
  depth : BitVec 5
  downMask : W16
  routes : KV Route
  windowClosed : W32
  staleDrops : W32
  epochRefused : W32
  windowFaults : W32
  hopLimit : W32
  /-- The Stroke in which a bad check was last logged (R361). -/
  checkLogged : Option W48
  deriving DecidableEq, Repr

def Ghl.reset : Ghl :=
  { ports := [], deviceId := 0, valid := false, admitted := false, upPort := 0, upValid := false, depth := 0
    downMask := 0, routes := [], windowClosed := 0, staleDrops := 0, epochRefused := 0, windowFaults := 0
    hopLimit := 0, checkLogged := none }

/-- A window entry (Table 11.9). -/
structure Window where
  base : Nat
  half : Nat
  opens : Nat
  closes : Nat
  deriving DecidableEq, Repr

/-- A tree entry (Table 11.9); children in combining order. -/
structure Tree where
  parent : Nat
  unit : Nat
  children : List Nat
  deriving DecidableEq, Repr

/-- The section of type 0x0008. -/
structure LinkSec where
  nMembers : Nat
  self : Nat
  windows : List Window
  trees : List Tree
  deriving DecidableEq, Repr

def LinkSec.none : LinkSec := ⟨0, 0, [], []⟩

/-- A class-4 command in execution (R371, R374, R376): kind 0 XFER, 1 WAIT, 2 REDUCE. -/
structure GhlAct where
  inst : Nat
  k : Nat
  kind : Nat
  /-- Transfer or reduction tag (Table 11.11). -/
  tag : Nat
  seq : W32
  bytes : Nat
  /-- XFER: destination device, window, offset; a Line source as (tile, Line); packets sent, packets and bytes
  covered by receipts, packets refused. -/
  dest : Nat
  window : Nat
  off : Nat
  line : Option (Nat × Nat)
  sent : Nat
  cov : Nat
  done : Nat
  refused : Nat
  /-- WAIT: bytes expected, slack, cycles waited. -/
  expect : Nat
  slack : Nat
  waited : Nat
  /-- REDUCE: tree, op, where the result goes, own contribution, segment, children combined, value so far, and
  whether it has gone to the parent. -/
  tree : Nat
  op : Nat
  dstKind : Nat
  dst : Nat
  own : List Byte
  seg : Nat
  child : Nat
  acc : List Byte
  up : Bool
  deriving DecidableEq, Repr

/-- A REDUCE packet that waits for its command (R377): where it came in, and the slots it occupies. -/
structure RedIn where
  tree : Nat
  tag : Nat
  dir : Nat
  src : Nat
  off : Nat
  data : List Byte
  port : Option Nat
  deriving DecidableEq, Repr

/-- Receipts that are being gathered for one transfer (R373). -/
structure Coal where
  src : Nat
  tag : Nat
  outcome : Nat
  count : Nat
  mark : W48
  deriving DecidableEq, Repr

/-- What the link holds for a context. -/
structure CtxGhl where
  link : LinkSec
  /-- Peer map by logical identity (R360). -/
  peers : KV W16
  /-- Accepted bytes by window (R374). -/
  counts : KV Nat
  acts : List GhlAct
  /-- REDUCE commands of each tree that have started in this Stroke image (Table 11.11). -/
  tags : KV Nat
  redIn : List RedIn
  /-- Reductions (tree, tag) that met a foreign epoch before their command (R377). -/
  badEpoch : List (Nat × Nat)
  coal : List Coal
  deriving DecidableEq, Repr

def CtxGhl.empty : CtxGhl := ⟨.none, [], [], [], [], [], [], []⟩

end Sys2Proof.Machine
end

