-- ==== Sys2Proof/Machine/Float.lean ====
section
/-!
DEFINITION. Exact binary numbers and their rounding: the floating-point formats of Table 4.1, the rounding modes of
Table 4.3 (R128, R129, R138), and the FP32 operations of R134 and R292. A finite value is an exact dyadic
number, so each operation is computed exactly and rounded once.
-/

namespace Sys2Proof

/-- A floating-point value: finite `(-1)^neg * m * 2^e`, an infinity or a NaN. -/
inductive FVal where
  | fin (neg : Bool) (m : Nat) (e : Int)
  | inf (neg : Bool)
  | nan
  deriving DecidableEq, Repr

/-- Rounding modes of Table 4.3; the stochastic mode carries its Tumble value (R138). -/
inductive RMode where
  | nearest
  | stochastic (u : W32)
  | towardZero
  deriving DecidableEq, Repr

/-- What an encoding does beyond its largest finite value (R129, R130). -/
inductive FTop where
  | ieee        -- all-ones exponent holds infinity and NaN
  | e4m3        -- only exponent and mantissa all ones is NaN; saturates
  | none        -- no infinity and no NaN; saturates
  deriving DecidableEq, Repr

/-- A floating-point format: exponent bits, mantissa bits, bias and top encodings (Table 4.1). -/
structure FFmt where
  eb : Nat
  mb : Nat
  bias : Nat
  top : FTop
  deriving DecidableEq, Repr

def FFmt.e4m3 : FFmt := ⟨4, 3, 7, .e4m3⟩
def FFmt.e5m2 : FFmt := ⟨5, 2, 15, .ieee⟩
def FFmt.e3m2 : FFmt := ⟨3, 2, 3, .none⟩
def FFmt.e2m3 : FFmt := ⟨2, 3, 1, .none⟩
def FFmt.e2m1 : FFmt := ⟨2, 1, 1, .none⟩
def FFmt.bf16 : FFmt := ⟨8, 7, 127, .ieee⟩
def FFmt.fp16 : FFmt := ⟨5, 10, 15, .ieee⟩
def FFmt.fp32 : FFmt := ⟨8, 23, 127, .ieee⟩

/-- Decode `n` (its low `1 + eb + mb` bits) by R111. -/
def FFmt.decode (f : FFmt) (n : Nat) : FVal :=
  let man := n % 2 ^ f.mb
  let ex := (n / 2 ^ f.mb) % 2 ^ f.eb
  let neg := (n / 2 ^ (f.mb + f.eb)) % 2 == 1
  if f.top == .ieee && ex == 2 ^ f.eb - 1 then
    if man == 0 then .inf neg else .nan
  else if f.top == .e4m3 && ex == 2 ^ f.eb - 1 && man == 2 ^ f.mb - 1 then .nan
  else if ex == 0 then .fin neg man (1 - (f.bias : Int) - f.mb)
  else .fin neg (2 ^ f.mb + man) ((ex : Int) - f.bias - f.mb)

/-- The encoding of infinity's magnitude in an `ieee` format. -/
def FFmt.infCode (f : FFmt) : Nat := (2 ^ f.eb - 1) * 2 ^ f.mb

/-- The encoding of the largest finite magnitude. -/
def FFmt.maxCode (f : FFmt) : Nat :=
  match f.top with
  | .ieee => f.infCode - 1
  | .e4m3 => 2 ^ (f.eb + f.mb) - 2
  | .none => 2 ^ (f.eb + f.mb) - 1

/-- `code` with the sign bit of the format. -/
def FFmt.withSign (f : FFmt) (neg : Bool) (code : Nat) : Nat :=
  if neg then code + 2 ^ (f.eb + f.mb) else code

/-- Round the magnitude `m * 2^e` to a multiple of `2^g`: the multiplier (R128, R138). -/
def roundTo (md : RMode) (m : Nat) (e g : Int) : Nat :=
  if g ≤ e then m * 2 ^ (e - g).toNat
  else
    let sh := (g - e).toNat
    let q := m / 2 ^ sh
    let r := m % 2 ^ sh
    match md with
    | .towardZero => q
    | .nearest =>
      if 2 * r < 2 ^ sh then q
      else if 2 * r == 2 ^ sh then (if q % 2 == 0 then q else q + 1)
      else q + 1
    | .stochastic u => if u.toNat < (r * 2 ^ 32) / 2 ^ sh then q + 1 else q

/-- Magnitude code of `m * 2^e` rounded in format `f`, before the treatment of values beyond the largest
finite one: codes count grid points, so a carry into the next exponent is the next code. -/
def FFmt.magCode (f : FFmt) (md : RMode) (m : Nat) (e : Int) : Nat :=
  if m = 0 then 0
  else
    let top : Int := (m.log2 : Int) + e
    let gmin : Int := 1 - (f.bias : Int) - f.mb
    let g : Int := max gmin (top - f.mb)
    let q := roundTo md m e g
    q + (g - gmin).toNat * 2 ^ f.mb

/-- Is the magnitude `m * 2^e` beyond the largest finite value of `f`? -/
def FFmt.beyond (f : FFmt) (m : Nat) (e : Int) : Bool :=
  match f.decode f.maxCode with
  | .fin _ mm me =>
    let lo := min e me
    decide (m * 2 ^ (e - lo).toNat > mm * 2 ^ (me - lo).toNat)
  | _ => false

/-- Canonical NaN of a format (Table 4.4). -/
def FFmt.nanCode (f : FFmt) : Nat :=
  match f.top with
  | .ieee => f.infCode + 2 ^ (f.mb - 1)
  | .e4m3 => 2 ^ (f.eb + f.mb) - 1
  | .none => f.maxCode

/-- Encode with one rounding (R128 to R130): infinities and NaNs by Table 4.4, finite values beyond the
largest one by R129. -/
def FFmt.encode (f : FFmt) (md : RMode) : FVal → Nat
  | .nan => f.nanCode
  | .inf neg =>
    match f.top with
    | .ieee => f.withSign neg f.infCode
    | .e4m3 => f.withSign neg f.nanCode
    | .none => f.withSign neg f.maxCode
  | .fin neg m e =>
    let c := f.magCode md m e
    if c ≤ f.maxCode then f.withSign neg c
    else match f.top with
      | .ieee =>
        match md with
        | .towardZero => f.withSign neg f.maxCode
        | _ => f.withSign neg f.infCode
      | _ => f.withSign neg f.maxCode

/-- Does a finite value saturate or overflow to infinity when it is encoded (R129)? -/
def FFmt.saturates (f : FFmt) (md : RMode) : FVal → Bool
  | .fin _ m e =>
    match f.top with
    | .ieee => decide (f.magCode md m e > f.maxCode)
    | _ => f.beyond m e
  | _ => false

namespace FVal

def isFinite : FVal → Bool
  | .fin .. => true
  | _ => false

def isZero : FVal → Bool
  | .fin _ m _ => m == 0
  | _ => false

def neg : FVal → FVal
  | .fin s m e => .fin (!s) m e
  | .inf s => .inf (!s)
  | .nan => .nan

def abs : FVal → FVal
  | .fin _ m e => .fin false m e
  | .inf _ => .inf false
  | .nan => .nan

def sign : FVal → Bool
  | .fin s _ _ => s
  | .inf s => s
  | .nan => false

/-- Signed mantissa at exponent `g ≤ e`. -/
def scaled (s : Bool) (m : Nat) (e g : Int) : Int :=
  let v : Int := (m * 2 ^ (e - g).toNat : Nat)
  if s then -v else v

/-- Exact sum; an exact zero from operands of different signs is +0 (R134). -/
def add : FVal → FVal → FVal
  | .nan, _ => .nan
  | _, .nan => .nan
  | .inf a, .inf b => if a == b then .inf a else .nan
  | .inf a, _ => .inf a
  | _, .inf b => .inf b
  | .fin s1 m1 e1, .fin s2 m2 e2 =>
    let g := min e1 e2
    let v := scaled s1 m1 e1 g + scaled s2 m2 e2 g
    if v = 0 then .fin (s1 && s2) 0 g
    else .fin (decide (v < 0)) v.natAbs g

def sub (a b : FVal) : FVal := add a b.neg

/-- Exact product. -/
def mul : FVal → FVal → FVal
  | .nan, _ => .nan
  | _, .nan => .nan
  | .inf a, .inf b => .inf (a != b)
  | .inf a, .fin s m _ => if m == 0 then .nan else .inf (a != s)
  | .fin s m _, .inf b => if m == 0 then .nan else .inf (s != b)
  | .fin s1 m1 e1, .fin s2 m2 e2 => .fin (s1 != s2) (m1 * m2) (e1 + e2)

/-- Quotient with a sticky last bit: enough bits that rounding to at most 64 mantissa bits is the rounding
of the exact quotient. -/
def div : FVal → FVal → FVal
  | .nan, _ => .nan
  | _, .nan => .nan
  | .inf _, .inf _ => .nan
  | .inf a, .fin s _ _ => .inf (a != s)
  | .fin s _ _, .inf b => .fin (s != b) 0 0
  | .fin s1 m1 e1, .fin s2 m2 e2 =>
    if m2 == 0 then (if m1 == 0 then .nan else .inf (s1 != s2))
    else
      let k := 70 + m2.log2
      let n := m1 * 2 ^ k
      let q := n / m2
      let sticky := if n % m2 == 0 then 0 else 1
      .fin (s1 != s2) (2 * q + sticky) (e1 - e2 - k - 1)

/-- Floor of the square root, bit by bit from bit `i - 1` down. -/
def isqrtAux (n : Nat) : Nat → Nat → Nat
  | 0, r => r
  | i + 1, r =>
    let c := r + 2 ^ i
    if c * c ≤ n then isqrtAux n i c else isqrtAux n i r

def isqrt (n : Nat) : Nat := isqrtAux n (n.log2 / 2 + 1) 0

/-- Square root with a sticky last bit. -/
def sqrt : FVal → FVal
  | .nan => .nan
  | .inf s => if s then .nan else .inf false
  | .fin s m e =>
    if m == 0 then .fin s 0 e
    else if s then .nan
    else
      let k : Nat := 128 + (if e % 2 = 0 then 0 else 1)
      let n := m * 2 ^ k
      let r := isqrt n
      let sticky := if r * r == n then 0 else 1
      .fin false (2 * r + sticky) ((e - k) / 2 - 1)

/-- Order of two values, `none` when either is a NaN; `-0 = +0`. -/
def cmp : FVal → FVal → Option Ordering
  | .nan, _ => none
  | _, .nan => none
  | .inf a, .inf b => some (if a == b then .eq else if a then .lt else .gt)
  | .inf a, _ => some (if a then .lt else .gt)
  | _, .inf b => some (if b then .gt else .lt)
  | .fin s1 m1 e1, .fin s2 m2 e2 =>
    let g := min e1 e2
    some (compare (scaled s1 m1 e1 g) (scaled s2 m2 e2 g))

/-- `2^k` as a value. -/
def pow2 (k : Int) : FVal := .fin false 1 k

/-- The exact value of an integer. -/
def ofInt (i : Int) : FVal := .fin (decide (i < 0)) i.natAbs 0

end FVal

/-- FP32 word to its value. -/
def f32val (w : W32) : FVal := FFmt.fp32.decode w.toNat

/-- Round a value to FP32 (R134: every NaN result is the canonical NaN). -/
def f32round (md : RMode) (v : FVal) : W32 := BitVec.ofNat 32 (FFmt.fp32.encode md v)

/-- Round to nearest, ties to even. -/
def f32rne (v : FVal) : W32 := f32round .nearest v

def f32add (a b : W32) : W32 := f32rne (FVal.add (f32val a) (f32val b))
def f32sub (a b : W32) : W32 := f32rne (FVal.sub (f32val a) (f32val b))
def f32mul (a b : W32) : W32 := f32rne (FVal.mul (f32val a) (f32val b))
def f32div (a b : W32) : W32 := f32rne (FVal.div (f32val a) (f32val b))
def f32sqrt (a : W32) : W32 := f32rne (FVal.sqrt (f32val a))
/-- `a * b + c` with one rounding. -/
def f32fma (a b c : W32) : W32 := f32rne (FVal.add (FVal.mul (f32val a) (f32val b)) (f32val c))
/-- Change of sign; a NaN becomes the canonical NaN (R134). -/
def f32neg (a : W32) : W32 := f32rne (f32val a).neg

def f32isFinite (a : W32) : Bool := (f32val a).isFinite

def f32lt (a b : W32) : Bool := FVal.cmp (f32val a) (f32val b) == some .lt
def f32le (a b : W32) : Bool :=
  FVal.cmp (f32val a) (f32val b) == some .lt || FVal.cmp (f32val a) (f32val b) == some .eq
def f32eq (a b : W32) : Bool := FVal.cmp (f32val a) (f32val b) == some .eq

/-- IEEE 754-2019 minimum: NaN if either input is, and -0 below +0 (R134). -/
def f32min (a b : W32) : W32 :=
  match FVal.cmp (f32val a) (f32val b) with
  | none => f32rne .nan
  | some .lt => f32rne (f32val a)
  | some .gt => f32rne (f32val b)
  | some .eq => if (f32val a).sign then f32rne (f32val a) else f32rne (f32val b)

/-- IEEE 754-2019 maximum (R134). -/
def f32max (a b : W32) : W32 :=
  match FVal.cmp (f32val a) (f32val b) with
  | none => f32rne .nan
  | some .lt => f32rne (f32val b)
  | some .gt => f32rne (f32val a)
  | some .eq => if (f32val a).sign then f32rne (f32val b) else f32rne (f32val a)

def f32one : W32 := 0x3F800000#32
def f32zero : W32 := 0#32
def f32ofNat (n : Nat) : W32 := f32rne (.fin false n 0)

end Sys2Proof
end

