-- ==== Sys2Proof/Machine/Formats.lean ====
section
/-!
DEFINITION. The element formats of Table 3.1 and Table 4.1 (R111, R112), block scales (R114, R118), the exact
accumulator and its tag (R121 to R123), the Tumble generator (R136) and the function tables (R141).
-/

namespace Sys2Proof

/-- Element formats with the codes of Table 3.1. -/
inductive Fmt where
  | e4m3 | e5m2 | e3m2 | e2m3 | fp4 | int8 | uint8 | bf16 | fp16 | fp32 | int32
  deriving DecidableEq, Repr

def Fmt.ofCode : Nat → Option Fmt
  | 0 => some .e4m3 | 1 => some .e5m2 | 2 => some .e3m2 | 3 => some .e2m3 | 4 => some .fp4
  | 5 => some .int8 | 6 => some .uint8 | 7 => some .bf16 | 8 => some .fp16 | 9 => some .fp32
  | 10 => some .int32 | _ => none

def Fmt.code : Fmt → Nat
  | .e4m3 => 0 | .e5m2 => 1 | .e3m2 => 2 | .e2m3 => 3 | .fp4 => 4 | .int8 => 5 | .uint8 => 6
  | .bf16 => 7 | .fp16 => 8 | .fp32 => 9 | .int32 => 10

/-- Bits an element takes in a row (R112: FP6 takes a byte). -/
def Fmt.width : Fmt → Nat
  | .fp4 => 4
  | .e4m3 | .e5m2 | .e3m2 | .e2m3 | .int8 | .uint8 => 8
  | .bf16 | .fp16 => 16
  | .fp32 | .int32 => 32

/-- The floating-point format, `none` for the integer formats. -/
def Fmt.ffmt : Fmt → Option FFmt
  | .e4m3 => some .e4m3 | .e5m2 => some .e5m2 | .e3m2 => some .e3m2 | .e2m3 => some .e2m3
  | .fp4 => some .e2m1 | .bf16 => some .bf16 | .fp16 => some .fp16 | .fp32 => some .fp32
  | _ => none

/-- Elements in a 512-byte row (R161). -/
def Fmt.perRow (f : Fmt) : Nat := 4096 / f.width

/-- The value of an encoded element, FP4 without its block scale (R111, R112: readers ignore the two
top bits of an FP6 byte). -/
def Fmt.value (f : Fmt) (n : Nat) : FVal :=
  match f with
  | .e3m2 | .e2m3 => ((f.ffmt).getD .e3m2).decode (n % 64)
  | .int8 => FVal.ofInt (BitVec.ofNat 8 n).toInt
  | .uint8 => FVal.ofInt (n % 256 : Nat)
  | .int32 => FVal.ofInt (BitVec.ofNat 32 n).toInt
  | _ => match f.ffmt with
    | some g => g.decode n
    | none => .nan

/-- Saturate an integer to `[lo, hi]`. -/
def clampInt (lo hi v : Int) : Int := max lo (min hi v)

/-- Range of an integer format (Table 4.1). -/
def Fmt.intRange : Fmt → Int × Int
  | .int8 => (-128, 127)
  | .uint8 => (0, 255)
  | _ => (-2147483648, 2147483647)

/-- Two's complement of an integer in `w` bits. -/
def intBits (w : Nat) (i : Int) : Nat := (BitVec.ofInt w i).toNat

/-- Round the magnitude of a finite value to an integer under a mode. -/
def roundInt (md : RMode) (neg : Bool) (m : Nat) (e : Int) : Int :=
  let q : Int := (roundTo md m e 0 : Nat)
  if neg then -q else q

/-- Bits [hi:lo] of a number. -/
def bitsOf (n hi lo : Nat) : Nat := (n / 2 ^ lo) % 2 ^ (hi + 1 - lo)

/-! ### The exact accumulator -/

/-- Non-finite tag of R123: 0b00 finite, 0b01 plus infinity, 0b10 minus infinity, 0b11 NaN. -/
abbrev Tag := BitVec 2

/-- Tags combine bit by bit: finite with x gives x, the two infinities give NaN (R123). -/
def Tag.join (a b : Tag) : Tag := a ||| b

/-- An accumulator: fixed-point part modulo 2^80 and its tag (R121). -/
structure Acc where
  f : BitVec 80
  tag : Tag
  deriving DecidableEq, Repr

def Acc.zero : Acc := ⟨0, 0⟩
def Acc.add (a b : Acc) : Acc := ⟨a.f + b.f, Tag.join a.tag b.tag⟩

/-- The sign-exchanged accumulator (acc_neg, R89): infinities change sign too. -/
def Acc.neg (a : Acc) : Acc :=
  ⟨-a.f, if a.tag = 1#2 then 2#2 else if a.tag = 2#2 then 1#2 else a.tag⟩

/-- Fixed-point part of an exact value at `2^-fb`, when it is a multiple of it; truncation toward zero
otherwise (R117). -/
def fixedOf (fb : Nat) (neg : Bool) (m : Nat) (e : Int) : Int :=
  let q : Int := (roundTo .towardZero m e (-(fb : Int)) : Nat)
  if neg then -q else q

/-- A contribution of one product to an accumulator with `fb` fraction bits. -/
def prodAcc (fb : Nat) (a b : FVal) : Acc :=
  match FVal.mul a b with
  | .nan => ⟨0, 3#2⟩
  | .inf s => ⟨0, if s then 2#2 else 1#2⟩
  | .fin s m e => ⟨BitVec.ofInt 80 (fixedOf fb s m e), 0⟩

/-- A product of the FP4 class: elements and scale codes (R117). The flag says that the product was clamped. -/
def prodFp4 (a b : Nat) (sa sb : Nat) : Acc × Bool :=
  if sa = 255 || sb = 255 then (⟨0, 3#2⟩, false)
  else
    match FVal.mul (Fmt.fp4.value a) (Fmt.fp4.value b) with
    | .fin s m e =>
      let t : Int := ((sa : Int) - 127) + ((sb : Int) - 127)
      if m = 0 then (Acc.zero, false)
      else if t > 30 then (⟨0, if s then 2#2 else 1#2⟩, true)
      else (⟨BitVec.ofInt 80 (fixedOf 32 s m (e + t)), 0⟩, decide (t < -30))
    | _ => (⟨0, 3#2⟩, false)

/-- Value of an accumulator with `fb` fraction bits. -/
def Acc.val (fb : Nat) (a : Acc) : FVal :=
  if a.tag = 3#2 then .nan
  else if a.tag = 1#2 then .inf false
  else if a.tag = 2#2 then .inf true
  else
    let i := a.f.toInt
    .fin (decide (i < 0)) i.natAbs (-(fb : Int))

/-! ### Block scales and packing -/

/-- Value of an FP4 element under its scale code: code 0xFF means NaN (R114). -/
def fp4Scaled (el sc : Nat) : FVal :=
  if sc = 255 then .nan
  else match Fmt.fp4.value el with
    | .fin s m e => .fin s m (e + (sc : Int) - 127)
    | v => v

/-- Largest finite magnitude of a list as an exact value. -/
def maxAbs : List FVal → FVal
  | [] => .fin false 0 0
  | v :: vs =>
    let r := maxAbs vs
    match FVal.cmp v.abs r with
    | some .gt => v.abs
    | _ => r

/-- Scale code of an FP4 output block (R118): the code and, for a finite non-zero block, its exponent. -/
def fp4Scale (vs : List FVal) : Nat × Option Int :=
  if vs.any (fun v => !v.isFinite) then (255, none)
  else match maxAbs vs with
    | .fin _ m e =>
      if m = 0 then (0, none)
      else
        let ex : Int := max (-127) (min 127 ((m.log2 : Int) + e - 2))
        ((ex + 127).toNat, some ex)
    | _ => (255, none)

/-- One FP4 element of a block: `v ÷ 2^e` rounded to E2M1 and saturated at ±6 (R118). `md` is the
element's rounding mode. -/
def fp4Elem (ex : Option Int) (md : RMode) (v : FVal) : Nat :=
  match ex, v with
  | some k, .fin s m e => FFmt.e2m1.encode md (.fin s m (e - k))
  | _, _ => 0

/-! ### Tumble -/

def tumbleRound (k1 : W32) : Nat → W32 → W32 → W32 → W32 × W32
  | 0, _, a, b => (a, b)
  | n + 1, k0, a, b =>
    let a' := (a + b).rotateLeft 7 ^^^ k0
    let b' := b.rotateLeft 11 ^^^ a' ^^^ k1
    tumbleRound k1 n (k0 + 0x9E3779B9#32) a' b'

/-- The Tumble generator (R136). -/
def tumble (seed : W64) (step : W32) (layer : W16) (elem : W32) : W32 :=
  let k0 := seed.setWidth 32
  let k1 := (seed >>> 32).setWidth 32 ^^^ layer.setWidth 32
  let (a, b) := tumbleRound k1 6 k0 elem step
  a ^^^ b.rotateLeft 16

/-- The rounding mode a `round` field selects for the element with Tumble value `u` (Table 4.3). -/
def rmodeOf (round : Nat) (u : W32) : RMode :=
  match round with
  | 1 => .stochastic u
  | 2 => .towardZero
  | _ => .nearest

/-! ### Function tables -/

/-- Segment entry of Table 4.8. -/
structure FSeg where
  base : W32
  c0 : W32
  c1 : W32
  c2 : W32
  deriving DecidableEq, Repr

/-- Function table: header of Table 4.7 and its segments. -/
structure FTable where
  nSeg : Nat
  indexMode : Nat
  symmetry : Nat
  below : Nat
  above : Nat
  inLo : W32
  wExp : Int
  eLo : Nat
  mBits : Nat
  loVal : W32
  hiVal : W32
  nanVal : W32
  pinfVal : W32
  ninfVal : W32
  segs : List FSeg
  deriving DecidableEq, Repr

/-- Floor of `v / 2^k` for a finite exact value. -/
def floorDiv2 (v : FVal) (k : Int) : Int :=
  match v with
  | .fin s m e =>
    let sh := e - k
    if 0 ≤ sh then (if s then -((m * 2 ^ sh.toNat : Nat) : Int) else ((m * 2 ^ sh.toNat : Nat) : Int))
    else
      let d := 2 ^ (-sh).toNat
      if s then -(((m + d - 1) / d : Nat) : Int) else ((m / d : Nat) : Int)
  | _ => 0

/-- The segment index before clamping (R141). -/
def FTable.index (t : FTable) (xp : W32) : Int :=
  if t.indexMode = 0 then floorDiv2 (FVal.sub (f32val xp) (f32val t.inLo)) t.wExp
  else
    let ex := bitsOf xp.toNat 30 23
    let pos := FVal.cmp (f32val xp) (.fin false 0 0) == some .gt
    if !pos || ex < t.eLo then -1
    else ((ex - t.eLo) * 2 ^ t.mBits + bitsOf xp.toNat 22 0 / 2 ^ (23 - t.mBits) : Nat)

/-- Evaluate a function table at an FP32 word (R141). -/
def FTable.eval (t : FTable) (x : W32) : W32 :=
  match f32val x with
  | .nan => t.nanVal
  | .inf false => t.pinfVal
  | .inf true => t.ninfVal
  | .fin sx _ _ =>
    let xp := if t.symmetry = 0 then x else x &&& 0x7FFFFFFF#32
    let i := t.index xp
    let seg := fun (k : Nat) =>
      let g := t.segs.getD k ⟨0, 0, 0, 0⟩
      let u := f32sub xp g.base
      f32fma (f32fma g.c2 u g.c1) u g.c0
    let y :=
      if i < 0 then (if t.below = 1 then t.loVal else seg 0)
      else if (t.nSeg : Int) ≤ i then (if t.above = 1 then t.hiVal else seg (t.nSeg - 1))
      else seg i.toNat
    if t.symmetry = 2 && sx then f32neg y else y

end Sys2Proof
end

