-- ==== Sys2Proof/Machine/StMangle.lean ====
section
/-!
DEFINITION. State of the Mangle (03_mangle, 04_numbers, 05_sparsity): the operation descriptor, the operations in flight,
the accumulation store, the drains' holding buffers, the current level and the counters.
-/

namespace Sys2Proof.Machine

/-- Operand classes of Table 3.2. -/
inductive MClass where
  | narrow | fp4 | int | half
  deriving DecidableEq, Repr

/-- A Mangle operation descriptor (Tables 3.10 and 3.11); `resv` says that a reserved field is non-zero. -/
structure MDesc where
  opcode : Nat
  aFmt : Nat
  bFmt : Nat
  cFmt : Nat
  m : Nat
  k : Nat
  n : Nat
  aLine : Nat
  bLine : Nat
  cLine : Nat
  dLine : Nat
  dEn : Bool
  accMode : Nat
  accSlot : Nat
  accSlot2 : Nat
  accDup : Bool
  accNeg : Bool
  accShift : Nat
  outShift : Nat
  round : Nat
  retEn : Bool
  retLine : Nat
  hemEn : Bool
  hemTol : Nat
  duty : Nat
  spMode : Nat
  metaLine : Nat
  scaleLine : Nat
  layer : Nat
  elemBase : Nat
  seqTag : W32
  resv : Bool
  deriving DecidableEq, Repr

/-- How far an operation's injection has come. -/
inductive MStage where
  /-- A pass before its swap slot (R79). -/
  | swap
  /-- A pass that reads vectors (R87). -/
  | stream
  /-- A pass whose last vector is read: that slot and the padding up to S_min still occupy the injectors (R80). -/
  | tail
  /-- A DUMMY, a RAMP, a K = 0 form or a no-op that occupies the Mangle. -/
  | hold
  /-- The injectors are free of it. -/
  | done
  deriving DecidableEq, Repr

/-- A vector in flight: element codes and scale codes by reduction index, and in a PAIR pass the pair nibbles
that each tile-column decodes (R149). -/
structure VecIn where
  a : List Nat
  sa : List Nat
  nib : List (List Nat)
  deriving DecidableEq, Repr

/-- An operation in flight. -/
structure MglOp where
  slot : Nat
  k : Nat
  range : Nat
  d : MDesc
  stage : MStage
  /-- Cycle from which the injectors are free of the pass, once its swap code has gone (R80). -/
  freeAt : Nat
  /-- Vectors injected, and vectors drained on each die. -/
  sent : Nat
  drained : KV Nat
  /-- Current a_line and streamed-scale row of each injector tile, current metadata row of each tile. -/
  aRows : KV Row
  sRows : KV Row
  mRows : KV Row
  /-- Stationary weights, by `16 × tile + row`, and weight-scale rows by tile. -/
  b : KV Row
  bs : KV Row
  /-- GATE: density bytes and allowance g of each tile-row, and its row_nf bitmap (R155 to R157). -/
  dens : KV (List Nat)
  gate : KV (List Nat)
  rowNf : KV (List Bool)
  vecs : KV VecIn
  /-- Partial output rows, by `32 × kind + tile-column or tile-row`. -/
  parts : KV Row
  /-- Current d_line row of each tile-column and how many d_line rows each has taken. -/
  dRows : KV Row
  dGot : KV Nat
  bubbles : Nat
  holds : Nat
  compared : Bool
  padded : Bool
  /-- Status of an operation that is being aborted (R91). -/
  abort : Option Nat
  deriving DecidableEq, Repr

/-- A Line that a row of a drain goes to: its tile, the party that writes it, and the row as it stands there. -/
structure HoldDest where
  tile : Nat
  line : Nat
  party : Nat
  row : Row
  deriving DecidableEq, Repr

/-- A row in a drain's holding buffer, which waits until every Line it goes to can take it (R88), and its operation. -/
structure HoldRow where
  dests : List HoldDest
  slot : Nat
  k : Nat
  deriving DecidableEq, Repr

/-- The current level as a motion (R102 to R106): from one level to another, one step per 192 cycles, the first
step at `t0`. -/
structure Level where
  lo : Nat
  hi : Nat
  t0 : Nat
  deriving DecidableEq, Repr

/-- The counters of Tables 3.13, 4.9 and 5.11. -/
structure MglCtr where
  passes : W32
  aborts : W32
  lateStart : W32
  padSlots : W32
  hemFail : KV W32
  hotBubbles : W32
  holdCycles : W32
  slewUp : W32
  slewDown : W32
  nonfinite : W32
  saturate : W32
  scaleClamp : W32
  hemSkip : W32
  pairPasses : W32
  /-- Raw count; the register shows units of 1,024. -/
  gatedLanes : Nat
  packRows : W32
  packDense : W32
  deriving DecidableEq, Repr

def MglCtr.zero : MglCtr := ⟨0, 0, 0, 0, [], 0, 0, 0, 0, 0, 0, 0, 0, 0, 0, 0, 0⟩

/-- The Mangle. -/
structure Mgl where
  /-- Operations in flight, in queue order. -/
  ops : List MglOp
  level : Level
  /-- Accumulation store by `2048 × slot + column`; an FP32 value of the half class is in the low 32 bits. -/
  store : KV Acc
  /-- Written flags by `1024 × die + slot`: 0 clear, 1 exact class, 2 half class. -/
  written : KV Nat
  /-- Holding buffers by tile-column, and the dies whose drain waits for a d_line row (R88). -/
  buf : KV (List HoldRow)
  dWait : NSet
  request : Bool
  /-- Rises and drops of the hold request that the Mangle has not yet answered. -/
  freezeDue : Nat
  resumeDue : Nat
  frozen : Bool
  /-- Slot of the context whose operation raised the hold request. -/
  holder : Nat
  ctr : MglCtr
  deriving DecidableEq, Repr

def Mgl.reset : Mgl :=
  { ops := [], level := ⟨0, 0, 0⟩, store := [], written := [], buf := [], dWait := [], request := false,
    freezeDue := 0, resumeDue := 0, frozen := false, holder := 0, ctr := .zero }

end Sys2Proof.Machine
end

