-- ==== Sys2Proof/Machine/StTile.lean ====
section
/-!
DEFINITION. State of the Tubs and Lines (06_tubs_and_lines, R176 to R209), of the tile sequencers and vector units
(07_tile_program, R226 to R236), and of a placed image and its fetched halves (R210 to R225).
-/

namespace Sys2Proof.Machine

/-- The fields of a Line setup record (Table 6.3); counts are stored plus one, as the record's meaning is. -/
structure LineCfg where
  fixed : Bool
  writer : Nat
  reader : Nat
  bankFirst : Nat
  banks : Nat
  rowFirst : Nat
  rows : Nat
  slack : Nat
  deriving DecidableEq, Repr

/-- Size Z of a Line in slots (R186). -/
def LineCfg.size (l : LineCfg) : Nat := l.banks * l.rows

/-- What a fault bit remembers: the address that failed and the stream task that filled the slot (R259, R261). -/
structure FaultBit where
  va : Nat
  engine : Nat
  cmd : Nat
  tag : W32
  deriving DecidableEq, Repr

/-- The part of a Line that a Stroke attempt starts from (R194). -/
structure LineCkpt where
  cfg : Option LineCfg
  tail : Nat
  fill : NSet
  fault : KV FaultBit
  seen : Nat
  deriving DecidableEq, Repr

/-- A setup or reset that waits (R193): the new fields for a setup, and the operations that had started on the Line
before it was issued. -/
structure LinePend where
  cfg : Option LineCfg
  before : List Nat
  deriving DecidableEq, Repr

/-- One tile Line (R185 to R194). Pegs count modulo twice the size. -/
structure LineRec where
  cfg : Option LineCfg
  head : Nat
  tail : Nat
  /-- Next peg a paced writer reserves (R191). -/
  resv : Nat
  fill : NSet
  fault : KV FaultBit
  /-- Line generation, less the counts common to all tiles (`Tub.genBase`, `Tub.genLine`). -/
  gen : W16
  /-- Setups and resets that wait, oldest first. -/
  pend : List LinePend
  /-- Waiting cycles of the access a party has due, by party code (R196). -/
  wait : KV Nat
  /-- Slots of a fixed Line below this one have been read (R253). -/
  seen : Nat
  ckpt : Option LineCkpt
  deriving DecidableEq, Repr

def LineRec.unset : LineRec :=
  { cfg := none, head := 0, tail := 0, resv := 0, fill := [], fault := [], gen := 0, pend := [], wait := [],
    seen := 0, ckpt := none }

/-- TUB_PART_c (Table 6.5). -/
structure TubPart where
  rowBase : BitVec 4
  rowBlocks : BitVec 5
  lineBase : BitVec 4
  lineCount : BitVec 5
  clearing : Bool
  deriving DecidableEq, Repr

def TubPart.none : TubPart := ⟨0, 0, 0, 0, false⟩

/-- A correction that Rinse has queued (R204): physical tile, bank, row. -/
structure RinseItem where
  tile : Nat
  bank : Nat
  row : Nat
  deriving DecidableEq, Repr

/-- An access to a Tub bank in this core cycle (R57, R180): logical tile, bank, party, context, context Line, and whether
it has lost the cycle. -/
structure Ask where
  tile : Tile
  bank : Nat
  party : Nat
  slot : Nat
  line : Nat
  lost : Bool
  deriving DecidableEq, Repr

/-- The Tubs beside their bytes: Lines, partitions, poison, Rinse and the registers of R207 to R209. -/
structure Tub where
  /-- Lines by `16 × physical tile + line`. -/
  lines : KV LineRec
  /-- Line generation common to all Lines (R203). -/
  genBase : W16
  /-- Line generation common to one Line number of all tiles (R200). -/
  genLine : KV W16
  parts : KV TubPart
  /-- Rows of each bank that the clear of a released partition has still to write, by slot (R200). -/
  clears : KV Nat
  /-- The accesses of core cycle `asksAt`, and the losses of contexts that ask for F_NONCONFORMANCE (R57, R59). -/
  asksAt : Nat
  asks : List Ask
  losses : List Ask
  /-- Row blocks whose words read as poisoned unless listed, and the words that differ (R201 to R203). -/
  poisonBlocks : NSet
  poisonExc : NSet
  /-- Words whose stored symbols are wrong: 1 correctable, 2 uncorrectable (R201). -/
  errs : KV Nat
  rinseQ : List RinseItem
  /-- Next row Rinse reads, by `16 × physical tile + bank`. -/
  rinsePos : KV Nat
  errLast : W32
  ce : W32
  ue : W32
  poisonReads : W32
  /-- Rows read by Rinse; the register shows units of 1,024. -/
  rinseRows : Nat
  rinseSweeps : W32
  rinseDropped : W32
  pacedYields : W32
  underruns : W32
  overruns : W32
  deriving DecidableEq, Repr

def Tub.reset : Tub :=
  { lines := [], genBase := 0, genLine := [], parts := [], clears := [], asksAt := 0, asks := [], losses := []
    poisonBlocks := [], poisonExc := [], errs := [], rinseQ := [], rinsePos := [],
    errLast := 0, ce := 0, ue := 0, poisonReads := 0, rinseRows := 0, rinseSweeps := 0, rinseDropped := 0,
    pacedYields := 0, underruns := 0, overruns := 0 }

/-! ### The placed image -/

/-- Panel range entry (Table 2.3). -/
structure PanelRange where
  start : Nat
  stop : Nat
  cls : Nat
  deriving DecidableEq, Repr

/-- Job header (Table 7.1), less the digest. -/
structure JobHdr where
  magic : Nat
  version : Nat
  release : Nat
  seed : W64
  bytes : Nat
  period : Nat
  nSections : Nat
  flags : Nat
  ports : Nat
  stackMask : Nat
  rowBlocks : Nat
  lineCount : Nat
  imem : Nat
  lp : Nat
  lc : Nat
  stride : W32
  energy : Nat
  compBase : Nat
  compHalf : Nat
  deriving DecidableEq, Repr

/-- A command: its number in its list, its header fields (Table 7.8) and its body words. -/
structure Cmd where
  k : Nat
  kind : Nat
  range : Nat
  offset : Nat
  body : List W64
  deriving DecidableEq, Repr

/-- A command list (Table 7.5). -/
structure CList where
  cls : Nat
  inst : Nat
  compOff : Nat
  cmds : List Cmd
  deriving DecidableEq, Repr

/-- A tile program table entry with its text (Table 7.7). -/
structure Prog where
  rowMask : W16
  colMask : W32
  text : List W32
  deriving DecidableEq, Repr

/-- One half of the queues and instruction memories of a context (R222): the index it holds, the Tumble step of
R213, its lists and texts; `bad` after a fetch error (R224). -/
structure Half where
  index : Option Nat
  step : W32
  lists : List CList
  progs : List Prog
  bad : Bool
  deriving DecidableEq, Repr

def Half.none : Half := { index := .none, step := 0, lists := [], progs := [], bad := false }

/-- A memory layout region (Table 8.3). -/
structure Region where
  base : Nat
  size : Nat
  host : Bool
  big : Bool
  stack : Nat
  writable : Bool
  demand : Bool
  deriving DecidableEq, Repr

/-- A resident page: where it lies and whether it may be written (R255). `big` is 2 MiB. -/
structure Page where
  host : Bool
  big : Bool
  stack : Nat
  addr : Nat
  writable : Bool
  /-- A pre-load page (R420). -/
  preload : Bool
  deriving DecidableEq, Repr

/-! ### Sequencer and vector unit -/

/-- What a running tile waits for (R228, R230). -/
inductive SeqWait where
  | none
  | until_ (cycle : Nat)
  | vector
  deriving DecidableEq, Repr

/-- A tile sequencer's registers for one context (R226), and the RUN it executes. -/
structure Seq where
  s : KV W32
  a : KV (BitVec 18)
  /-- p1 to p3 in bits 1 to 3. -/
  p : BitVec 4
  pc : BitVec 13
  /-- Number of the RUN command in execution. -/
  run : Option Nat
  wait : SeqWait
  /-- END has issued; the vector unit may still be busy (R227). -/
  ended : Bool
  /-- Scalar registers named by outstanding VMOVS (R228). -/
  pend : List Nat
  deriving DecidableEq, Repr

def Seq.zero : Seq :=
  { s := [], a := [], p := 0, pc := 0, run := .none, wait := .none, ended := false, pend := [] }

/-- A queued vector instruction: its two words, the captured s[se] and the context (R233). -/
structure VInstr where
  w0 : W32
  w1 : W32
  se : W32
  ctx : Nat
  /-- Word address of the instruction (fault_pc of Table 7.11). -/
  pc : Nat
  /-- Number of the instruction among those sent to the unit. -/
  num : Nat
  deriving DecidableEq, Repr

/-- The vector unit of a tile (R232, R233). -/
structure VUnit where
  v : KV Row
  matchCount : W16
  queue : List VInstr
  /-- Instructions sent so far. -/
  sent : Nat
  /-- Packet rows read by VLDP in this RUN (R236). -/
  pktRow : Nat
  /-- The header row that VLDP holds, and which 64 packet rows it describes (R160, R236). -/
  hdr : Row
  hdrOf : Option Nat
  deriving DecidableEq, Repr

def VUnit.zero : VUnit := { v := [], matchCount := 0, queue := [], sent := 0, pktRow := 0, hdr := 0, hdrOf := none }

/-- How far a tile command has come on one addressed tile (R227). -/
inductive TileSt where
  | waiting | running | done
  | failed (code : Nat) (pc : Nat) (trap : Nat)
  deriving DecidableEq, Repr

/-- A tile command that has started and not written its record (Table 7.11). -/
structure TileCmd where
  k : Nat
  rowMask : W16
  colMask : W32
  entry : Nat
  /-- Core cycle of its start (late_cycles). -/
  started : Nat
  late : Nat
  tiles : KV TileSt
  deriving DecidableEq, Repr

end Sys2Proof.Machine
end

