-- ==== Sys2Proof/Machine/StMp.lean ====
section
/-!
DEFINITION. State of the management processor: the event log, targeted self-tests and health (14_faults_and_darn,
15_management_and_security).
-/

namespace Sys2Proof.Machine

/-- A record of the MP's event log (Table 15.2). -/
structure EvRec where
  seq : W32
  time : W64
  code : Nat
  origin : Nat
  slot : Nat
  arg : W32
  mark : W48
  ext : BitVec 48
  deriving DecidableEq, Repr

/-- A targeted self-test: the test number of OP_SELFTEST (R444) and the unit word. -/
structure Tst where
  test : Nat
  unit : W32
  deriving DecidableEq, Repr

/-- A record of the change log (Table 15.4). -/
structure ChangeRec where
  seq : Nat
  time : W64
  origin : Nat
  role : Nat
  object : Nat
  item : Nat
  oldHash : List Byte
  newHash : List Byte
  chain : List Byte
  deriving DecidableEq, Repr

/-- A firmware slot (R478, R480): whether its bundle's signature and digests verify, its version and SVN, the digest of
each component (Table 15.8), good mark and try count. -/
structure FwSlot where
  verifies : Bool
  major : Byte
  minor : Byte
  patch : Byte
  svn : Byte
  /-- Digests by component, as measured (Table 15.9). -/
  digests : KV (List Byte)
  good : Bool
  tries : Nat
  deriving DecidableEq, Repr

/-- The calibration record in flash (R474 to R476): origin 0 factory, 1 user, 2 absent, and its 16 KiB; of the record
as manufactured no bytes are listed (`Cal.record` gives them). -/
structure Cal where
  origin : Nat
  raw : List Byte
  deriving DecidableEq, Repr

/-- A profile record (R268): the mark of the Stroke, the bank with the most requests that waited on its cap, by stack,
channel and bank, and their count. -/
structure ProfRec where
  mark : W48
  stack : Nat
  chan : Nat
  bank : Nat
  count : Nat
  deriving DecidableEq, Repr

/-- A message that the MP assembles from MGMT packets (R483): source device, tag with its owner bit, packet sequence
number due next, bytes so far. -/
structure MctpAsm where
  src : Nat
  tag : Nat
  seq : Nat
  got : List Byte
  deriving DecidableEq, Repr

/-- Configuration items (Table 15.7). -/
structure MpConfig where
  /-- HASH_KEY: `none` draws the key at power-on. -/
  hashKey : Option W32
  cooling : Nat
  receiver : List Byte
  deriving DecidableEq, Repr

def MpConfig.default : MpConfig := ⟨none, 0, []⟩

/-- A firmware update in progress (R483): where it came from, the components passed, the component being transferred
with its size and the bytes received, and the components received so far. -/
structure FwUpdate where
  iface : Nat
  table : List Nat
  cur : Option (Nat × Nat)
  got : List Byte
  done : List (Nat × List Byte)
  /-- The bundle verified and stands in the slot that does not run. -/
  ready : Bool
  /-- Hash of the slot as it stood before the first bytes of this update went into it (R470). -/
  old : Option (List Byte)
  deriving DecidableEq, Repr

/-- SPDM responder state (R482): what the requester has asked so far. -/
structure Spdm where
  version : Option Nat
  caps : Bool
  algs : Bool
  deriving DecidableEq, Repr

/-- The management processor. -/
structure Mp where
  /-- Newest first (R465). -/
  log : List EvRec
  flashLog : List EvRec
  /-- Profile records, newest first (R268). -/
  profiles : List ProfRec
  seq : W32
  /-- Core cycle at which the MP last started (R466). -/
  startAt : Nat
  /-- Wall-clock time set by SET_TIME: the microseconds set, and the core cycle of the setting. -/
  wall : Option (Nat × Nat)
  /-- Device generation and tile generations (R438). -/
  deviceGen : W32
  tileGen : W32
  /-- Health RETIRED (R452), the pending tile-row of each die (R446), tile-rows found faulty (R445). -/
  retired : Bool
  /-- RETIRED was entered in this power cycle and has not yet reached an opening band (R454). -/
  retireDue : Bool
  pendingRow : KV Nat
  faulty : KV Nat
  /-- Marked lanes by `2 × port + direction`, direction 0 receive, 1 transmit (R445, R451). -/
  marked : KV (BitVec 9)
  /-- Dies with F_UNIT_UNLOCATED in force; ports with a lasting LINK result (R443, Table 14.7). -/
  unlocated : NSet
  /-- Dies whose next ARRAY runs 256 patterns a row (R443). -/
  deep : NSet
  lastingLink : NSet
  /-- Unit words of the crossings and banks whose last test was lasting, and of the dies whose delay lines did not converge
  (R477, Table 14.7). -/
  standing : List W32
  /-- Health last logged (R453). -/
  health : Nat
  /-- Self-tests in order of trigger; with `tstBusy` the first one is under test (R440). -/
  tstQ : List Tst
  tstBusy : Bool
  /-- Steps of the running test that are complete (R441). -/
  tstSteps : Nat
  tstDropped : W32
  tstRuns : W32
  tstLasting : W32
  tstAbandoned : W32
  darnApplies : W32
  /-- Counted resends of a bridge in this Stroke have been logged (R20). -/
  resendLogged : NSet
  /-- The change log, newest first (R470, R471), and the number of its next record. -/
  changes : List ChangeRec
  changeSeq : Nat
  /-- Counted events: a key of what happened and the core cycle (R443, R452). -/
  events : List (Nat × Nat)
  /-- Core cycle of the CP's last heartbeat; the CP is held in reset by the watchdog (R463). -/
  beat : Nat
  cpHeld : Bool
  /-- Core cycles of the watchdog's restarts; the watchdog has left the CP in reset for good (R463). -/
  restarts : List Nat
  cpDead : Bool
  /-- Sensor readings by sensor identifier (R464). -/
  sensors : KV Int
  /-- Configuration in flash, and as the last start-up applied it (R472). -/
  config : MpConfig
  configNow : MpConfig
  cal : Cal
  calNow : Cal
  copyRepaired : Bool
  /-- Supply voltage of each die in millivolts: compute dies 0 to 3, memory-side dies 4 to 11, I/O dies 12 to 15
  (R474, R476). -/
  volts : KV Nat
  /-- Roles by interface: 0 none, 1 READER, 2 OPERATOR, 3 OWNER (R467, R468). -/
  roles : KV Nat
  ownerKey : Option (List Byte)
  ownerCtr : W32
  serviceCtr : W32
  debugUnlocked : Bool
  /-- Firmware: slots A and B, the active one, the running one, R480's fallback, the rollback floor. -/
  slotA : FwSlot
  slotB : FwSlot
  active : Nat
  running : Nat
  fallback : Bool
  floor : Nat
  update : Option FwUpdate
  spdm : Spdm
  /-- MCTP endpoint identifiers by interface, messages queued for the mailbox requester, messages sent on the other
  interfaces with their origin codes, the receiver of platform events (R483, R484): origin code of its interface, then
  its endpoint identifier. -/
  eids : KV Byte
  mbxQ : List (List Byte)
  /-- Messages under assembly from MGMT packets (R483). -/
  asm : List MctpAsm
  sent : List (Nat × List Byte)
  eventRx : Option (List Byte)
  /-- Dynamic address on the I3C bus (R490). -/
  i3cAddr : Option Nat
  deriving DecidableEq, Repr

/-- Default roles of Table 15.3, by interface. -/
def defaultRoles : KV Nat := [(1, 2), (2, 2), (3, 2), (4, 1), (5, 1)]

def FwSlot.none : FwSlot :=
  { verifies := false, major := 0, minor := 0, patch := 0, svn := 0, digests := [], good := false, tries := 0 }

/-- Slot A as manufactured (R478): release line 3. -/
def FwSlot.factory : FwSlot := { FwSlot.none with verifies := true, major := 3, good := true }

/-- The MP as manufactured (R438, R478). -/
def Mp.factory : Mp :=
  { log := [], flashLog := [], profiles := [], seq := 0, startAt := 0, wall := .none, deviceGen := 0, tileGen := 0, retired := false
    retireDue := false, pendingRow := [], faulty := [], marked := [], unlocated := [], deep := [], lastingLink := []
    standing := [], health := 0
    tstQ := [], tstBusy := false, tstSteps := 0, tstDropped := 0, tstRuns := 0, tstLasting := 0, tstAbandoned := 0
    darnApplies := 0, resendLogged := [], changes := [], changeSeq := 0, events := [], beat := 0, cpHeld := false
    restarts := [], cpDead := false, sensors := [], config := .default, configNow := .default, cal := ⟨0, []⟩, calNow := ⟨0, []⟩
    copyRepaired := false, volts := [], roles := defaultRoles, ownerKey := .none, ownerCtr := 0, serviceCtr := 0
    debugUnlocked := false, slotA := .factory, slotB := .none, active := 0, running := 0, fallback := false
    floor := 0, update := .none, spdm := ⟨.none, false, false⟩, eids := [], mbxQ := [], asm := [], sent := [], eventRx := .none
    i3cAddr := .none }

/-- The internal rails of Table 16.4 in power-up order. -/
inductive Rail where
  | stby | xio | msd | dram1 | dram2 | dramQ | core0 | core1 | core2 | core3
  deriving DecidableEq, Repr

/-- Power, cooling and start-up (R492 to R509). -/
structure Power where
  /-- The module is not OFF; it is in DOZE (Table 16.7). -/
  on : Bool
  doze : Bool
  /-- Rails that are up, the last one raised first (R493). -/
  rails : List Rail
  /-- PWR_GOOD; core cycle at which PWR_EN rose. -/
  enAt : Nat
  /-- PERST# is asserted; core cycle of its last deassertion. -/
  perst : Bool
  perstAt : Nat
  /-- Width of the PCIe link: 8, or 1 in DOZE. -/
  pcieWidth : Nat
  /-- The stacks are in self-refresh (R498). -/
  selfRefresh : Bool
  /-- PWR_PROFILE.profile and source. -/
  profile : Nat
  source : Nat
  /-- Warning threshold of sensor 21 (Table 16.8); 0 with no probe. -/
  inletMax : Nat
  budget : BitVec 24
  energy : W32
  /-- Sensors at or above their warning and critical thresholds. -/
  warm : NSet
  hot : NSet
  inputLow : Bool
  lastOff : BitVec 3
  overStrokes : W32
  /-- Core cycles of the last records that are limited in rate (R492, R502). -/
  overAt : Option Nat
  lowAt : Option Nat
  /-- Length of the last completed Stroke, 0 before the first. -/
  lastLen : Nat
  /-- Readings of sensor 19 in the last second, newest first (R502). -/
  watts : List Int
  deriving DecidableEq, Repr

def Power.off : Power :=
  { on := false, doze := false, rails := [], enAt := 0, perst := true, perstAt := 0, pcieWidth := 8, selfRefresh := false
    profile := 0, source := 0, inletMax := 0, budget := 0, energy := 0, warm := [], hot := [], inputLow := false
    lastOff := 0, overStrokes := 0, overAt := none, lowAt := none, lastLen := 0, watts := [] }

/-- While any die has a pending repair (R446). -/
def Mp.repairPending (p : Mp) : Bool := !p.pendingRow.isEmpty

/-- Events of a key in the last `window` cycles before `now`. -/
def Mp.recent (p : Mp) (key now window : Nat) : Nat :=
  (p.events.filter (fun e => e.1 == key && decide (now ≤ e.2 + window))).length

end Sys2Proof.Machine
end

