-- ==== Sys2Proof/Machine/StPress.lean ====
section
/-!
DEFINITION. State of the Presses for one context (09_press, R278 to R323, R455), and of its watch unit and the sequence
table (10_training_passes, R333 to R341).
-/

namespace Sys2Proof.Machine

/-- A panel descriptor (Table 9.1). -/
structure PanelDesc where
  layerId : Nat
  group : Nat
  press : Nat
  panel : Nat
  /-- Panel count of the layer. -/
  panels : Nat
  frozen : Bool
  pair : Bool
  /-- Axis: column panels. -/
  colAxis : Bool
  wFmt : Nat
  rows : Nat
  cols : Nat
  first : Nat
  count : Nat
  slot0 : Nat
  slot1 : Nat
  grad : Nat
  nat_ : Nat
  tr : Nat
  natAux : Nat
  trAux : Nat
  deriving DecidableEq, Repr

/-- A generation entry (Table 9.2). -/
structure GenEnt where
  layerId : Nat
  panel : Nat
  diagL : Bool
  diagR : Bool
  gen : W32
  step : W32
  pubGen : W32
  deriving DecidableEq, Repr

/-- A group entry (Table 9.4). -/
structure GroupEnt where
  rule : Nat
  flags : Nat
  kronEvery : Nat
  lrFirst : Nat
  lrLen : Nat
  wd : W32
  beta1 : W32
  beta2 : W32
  eps : W32
  nsA : W32
  nsB : W32
  nsC : W32
  nsScale : W32
  delta : W32
  polarIters : Nat
  maskEvery : Nat
  deriving DecidableEq, Repr

/-- A norm record (Table 9.10). -/
structure NormRec where
  acc : BitVec 384
  tag : Tag
  nonfinite : W32
  stepMin : W32
  stepMax : W32
  poison : Bool
  contributors : Nat
  deriving DecidableEq, Repr

/-- A vote record (R312). -/
structure VoteRec where
  s : W32
  fails : Nat
  contributors : Nat
  deriving DecidableEq, Repr

/-- A Press's step record (R296, R312); `after` is what a failed vote makes of the step: 0 nothing, else a decision. -/
structure StepRec where
  s : W32
  decision : Nat
  g : W32
  c : W32
  after : Nat
  deriving DecidableEq, Repr

/-- A record on the ring (R294, R312). -/
structure RingRec where
  press : Nat
  norm : Option NormRec
  vote : Option VoteRec
  deriving DecidableEq, Repr

/-- A job that has done its work and not written its completion record (R289). -/
structure PressJob where
  k : Nat
  rec_ : List Byte
  deriving DecidableEq, Repr

/-- What the Presses hold for a context. -/
structure Press where
  /-- The image has a Press section. -/
  present : Bool
  /-- Non-finite policy HALT. -/
  halt : Bool
  clipMax : W32
  pressCount : Nat
  groups : List GroupEnt
  steps : List W32
  panels : List PanelDesc
  gens : List GenEnt
  /-- Flags of the staging generation entries, by panel index. -/
  staged : KV Nat
  /-- Norm contribution of each panel, by panel index. -/
  norms : KV NormRec
  /-- Candidate failures of each panel (R311). -/
  fails : KV Nat
  /-- Each Press's vote, by Press. -/
  votes : KV VoteRec
  ring : List RingRec
  /-- Records that have reached the lead Press, by Press. -/
  devNorms : KV NormRec
  devVotes : KV VoteRec
  /-- The device record, the global record and the global vote at the lead Press. -/
  devNorm : Option NormRec
  devVote : Option VoteRec
  gNorm : Option NormRec
  gVote : Option VoteRec
  /-- Step records by `2 × Press + s mod 2`, and which one each Press's last DECIDE wrote, plus one. -/
  recs : KV StepRec
  curRec : KV Nat
  /-- Jobs in execution, by Press. -/
  jobs : KV PressJob
  /-- Fold buffers by `2 × Press + area`, and their sizes by Press. -/
  folds : KV (List Byte)
  foldSize : KV Nat
  /-- FOLD of the lead Press that awaits its watch trailer: area, offset, resume_index (R399). -/
  leadFold : Option (Nat × Nat × Nat)
  /-- Holds of R282 and R297 for the next opening band: code and arg. -/
  due : List (Nat × W32)
  /-- Decisions and votes logged for this attempt at a step, and the index of its DECIDE. -/
  logged : List Nat
  decidedAt : Option Nat
  /-- The index of the first NORM of this attempt at a step. -/
  normAt : Option Nat
  /-- The step slots of the watch unit as they stood at cycle 1,024 of the lead Press's NORM, by tag (R337). -/
  nfAt : Option (List (W32 × W32))
  lastDec : Nat
  lastS : W32
  lastG : W32
  lastC : W32
  voteFailed : Bool
  /-- A hold of R297 is in force. -/
  r297 : Bool
  /-- Table seals by Press: step and CRC (R455). -/
  seals : KV (W32 × W32)
  deriving DecidableEq, Repr

def Press.empty : Press :=
  { present := false, halt := false, clipMax := 0, pressCount := 0, groups := [], steps := [], panels := [], gens := []
    staged := [], norms := [], fails := [], votes := [], ring := [], devNorms := [], devVotes := []
    devNorm := none, devVote := none, gNorm := none, gVote := none, recs := [], curRec := [], jobs := [], folds := [], foldSize := []
    leadFold := none, due := [], logged := [], decidedAt := none, normAt := none, nfAt := none, lastDec := 0, lastS := 0, lastG := 0, lastC := 0
    voteFailed := false, r297 := false, seals := [] }

/-- The counters of Table 9.17. -/
structure PrsCtr where
  committed : W32
  skipped : W32
  nonfinite : W32
  voteFails : W32
  skew : W32
  genMismatch : W32
  /-- Raw count; the register shows units of 1,024. -/
  maskExcess : Nat
  cholRetries : W32
  cholFallbacks : W32
  poison : W32
  folds : W32
  deriving DecidableEq, Repr

def PrsCtr.zero : PrsCtr := ⟨0, 0, 0, 0, 0, 0, 0, 0, 0, 0, 0⟩

/-- A watch configuration (Table 10.3). -/
structure WatchCfg where
  reportVa : Nat
  reportHalf : Nat
  seqShare : Nat
  warmup : Nat
  alpha : W32
  spikeRatio : W32
  absMax : W32
  deriving DecidableEq, Repr

/-- The watch unit of a context (R335 to R340). -/
structure Watch where
  cfg : Option WatchCfg
  ema : W32
  losses : W32
  spikes : W32
  tag0 : W32
  nf0 : W32
  tag1 : W32
  nf1 : W32
  seqBase : Nat
  noStep : Bool
  /-- The current step (R337). -/
  current : Option W32
  deriving DecidableEq, Repr

def Watch.cleared : Watch :=
  { cfg := none, ema := 0, losses := 0, spikes := 0, tag0 := 0xFFFFFFFF, nf0 := 0, tag1 := 0xFFFFFFFF, nf1 := 0
    seqBase := 0, noStep := false, current := none }

/-- A sequence entry (Table 10.6). -/
structure SeqEnt where
  owned : Bool
  id : W32
  open_ : Bool
  ctx : Nat
  backward : Bool
  block : Nat
  nonfinite : Bool
  spike : Bool
  loss : W32
  opened : W32
  deriving DecidableEq, Repr

def SeqEnt.cleared : SeqEnt :=
  { owned := false, id := 0, open_ := false, ctx := 0, backward := false, block := 0, nonfinite := false
    spike := false, loss := 0, opened := 0 }

end Sys2Proof.Machine
end

