-- ==== Sys2Proof/Machine/StSeam.lean ====
section
/-!
DEFINITION. State of the Seam units (05_sparsity, R165 to R173).
-/

namespace Sys2Proof.Machine

/-- A Seam operation descriptor (Table 5.5); `resv` says that a reserved field is non-zero. -/
structure SeamDesc where
  opcode : Nat
  combine : Nat
  inA : Nat
  inB : Nat
  outLine : Nat
  auxLine : Nat
  tileRow : Nat
  tileCol : Nat
  extent : Nat
  nA : Nat
  nB : Nat
  kCap : Nat
  experts : Nat
  outMax : Nat
  seqTag : W32
  resv : Bool
  deriving DecidableEq, Repr

/-- An entry of a sorted-index stream (R165): index and payload. -/
structure SEntry where
  idx : W32
  pay : W32
  deriving DecidableEq, Repr

/-- An input stream as far as it has been read: entries not yet used, entries read, last index, terminator met. -/
structure SIn where
  buf : List SEntry
  count : Nat
  prev : Option W32
  ended : Bool
  deriving DecidableEq, Repr

def SIn.start : SIn := ⟨[], 0, none, false⟩

/-- An output stream: entries not yet in a row, entries emitted and entries written to the Line before the terminator,
terminator emitted. -/
structure SOut where
  buf : List SEntry
  count : Nat
  written : Nat
  ended : Bool
  deriving DecidableEq, Repr

def SOut.start : SOut := ⟨[], 0, 0, false⟩

/-- A Seam operation in flight. -/
structure SeamOp where
  slot : Nat
  k : Nat
  d : SeamDesc
  a : SIn
  b : SIn
  out : SOut
  aux : SOut
  empties : Nat
  rejected : Nat
  /-- The next entry lies beyond out_max: the operation aborts once the entries before it are written (R172). -/
  excess : Bool
  deriving DecidableEq, Repr

end Sys2Proof.Machine
end

