-- ==== Sys2Proof/Machine/StStream.lean ====
section
/-!
DEFINITION. State of the stream engines and of the memory controllers (08_streams_and_memory, R241 to R277).
-/

namespace Sys2Proof.Machine

/-- A stream descriptor (Table 8.1); counts are stored plus one, `resv` says that a reserved field is non-zero. -/
structure StrDesc where
  op : Nat
  line : Nat
  idxLine : Nat
  hdrLine : Nat
  tileRow : Nat
  tileDim : Bool
  packed : Bool
  pkFmt : Nat
  seqTag : W32
  base : Nat
  bound : Nat
  n0 : Nat
  n1 : Nat
  n2 : Nat
  n3 : Nat
  stride1 : Nat
  stride2 : Nat
  stride3 : Nat
  hdrBase : Nat
  resv : Bool
  deriving DecidableEq, Repr

/-- A 128-byte block that a row waits for: a stack block or a host block, by stack and offset or by bus address. -/
inductive BlockId where
  | dev (stack off : Nat)
  | host (addr : Nat)
  deriving DecidableEq, Repr

/-- A row in flight of a LOAD or GATHER: its number (a header row when `hdr`), the Line and slot reserved for it,
its granules with their addresses, and the blocks that have not returned. -/
structure RowIn where
  r : Nat
  hdr : Bool
  key : Nat
  tile : Nat
  line : Nat
  slot : Nat
  granules : List (Option Nat)
  poison : List Nat
  wait : List BlockId
  deriving DecidableEq, Repr

/-- An active stream task (R242). -/
structure StrTask where
  engine : Nat
  slot : Nat
  k : Nat
  d : StrDesc
  /-- Next row to reserve or to store. -/
  next : Nat
  /-- Header rows reserved or taken, headers known, header rows whose words cannot be used. -/
  hdrNext : Nat
  hdrs : KV W64
  hdrMiss : NSet
  rows : List RowIn
  /-- Rows delivered, and outstanding writes by row. -/
  done : NSet
  outW : KV Nat
  /-- Index entries taken from idx_line, in order (R247). -/
  idx : List W32
  idxRows : Nat
  lastIdx : Option W32
  cancelled : Bool
  faultBit : Bool
  zeroGran : Bool
  /-- A party has read a slot whose fault bit this task set (R259). -/
  consumed : Bool
  deriving DecidableEq, Repr

/-- A translation cache entry of an engine (R255). -/
structure XEnt where
  slot : Nat
  va : Nat
  deriving DecidableEq, Repr

/-- A write request on its way to a controller, and the task and row it counts for (R243, R249, R251): the 128-byte block
at `block`, and what it writes there, by place in the block, in walk order. -/
structure MemWrite where
  stack : Nat
  block : Nat
  parts : List (Nat × List Byte)
  engine : Nat
  slot : Nat
  k : Nat
  r : Nat
  deriving DecidableEq, Repr

/-- A page that a controller copies into a spare, and the blocks marked in the spare's poison map (R271). -/
structure Retire where
  stack : Nat
  page : Nat
  spare : Nat
  copied : Bool
  marks : NSet
  deriving DecidableEq, Repr

/-- The memory controllers. -/
structure MemSys where
  /-- Codewords with stored errors: 1 correctable, 2 uncorrectable; by codeword number over all stacks. -/
  err : KV Nat
  /-- Blocks marked in the poison map of a spare page (R271). -/
  marked : NSet
  /-- Writes on their way, oldest first. -/
  writes : List MemWrite
  /-- Remap tables: spare number plus one by `65536 × stack + page`; spares used per stack. -/
  remap : KV Nat
  spares : KV Nat
  retiring : List Retire
  /-- Correctable errors in the last 24 hours: block and core cycle. -/
  ceBlocks : List (Nat × Nat)
  /-- Requests of this Stroke that waited on the cap of a bank, by bank number over all stacks (R264, R268). -/
  caps : KV Nat
  /-- Pages taken by contexts, per stack. -/
  used : KV NSet
  deriving DecidableEq, Repr

def MemSys.reset : MemSys :=
  { err := [], marked := [], writes := [], remap := [], spares := [], retiring := [], ceBlocks := [], caps := [], used := [] }

end Sys2Proof.Machine
end

