-- ==== Sys2Proof/Machine/State.lean ====
section
/-!
DEFINITION. The state of the SLN512: every register, queue, memory and mode the spec gives it, the queue of waiting
commands, and the state after reset.
-/

namespace Sys2Proof.Machine

/-- The machine stops with one of these. -/
inductive Fault where
  /-- Raised by REGISTER_WRITE at an offset where the spec places no register. Safe: the spec gives such a
  write no effect. -/
  | noRegister
  deriving DecidableEq, Repr

/-- A command has no meaning in the model. -/
inductive Refusal where
  /-- Raised by an arm whose command is not modelled yet. Safe. -/
  | notModelled (mnemonic : String)
  deriving DecidableEq, Repr

/-- A save in progress (R429), or a restore (R432). -/
structure SaveJob where
  va : Nat
  /-- The opening band of step 1 has passed. -/
  begun : Bool
  /-- The last byte is written. -/
  written : Bool
  deriving DecidableEq, Repr

/-- A resume in progress (R398): Fold areas by Press, and the Press jobs of step 3 still to run, as Press and kind. -/
structure Resume where
  areas : Nat
  todo : List (Nat × Nat)
  deriving DecidableEq, Repr

/-- A Line as a save writes it (R429): logical tile, context Line, committed state, generation. -/
structure SavedLine where
  tile : Nat
  line : Nat
  state : LineCkpt
  gen : W16
  deriving DecidableEq, Repr

/-- A context slot (R423) with everything the device holds for it. -/
structure Ctx where
  st : CtxSt
  stopped : Bool
  armed : Bool
  /-- Hold causes, bit i for MBX_CTX_STATE bit 5 + i (Table 13.8). -/
  holds : BitVec 6
  /-- Owner: 0 the physical function, v a virtual function (R404). -/
  owner : Fin 8
  jobEpoch : W32
  layoutEpoch : W32
  saveKib : W32
  startMark : W48
  stk : StkCtx
  acct : Acct
  /-- Core cycle at which the slot became SAVED. -/
  savedSince : Nat
  feed : Option Feed
  att : Attempt
  /-- The context was stopped for its unload, which ends in the next opening band (R427). -/
  unload : Bool
  save : Option SaveJob
  restore : Option SaveJob
  /-- Save area of a SAVED context, and its Lines. -/
  saveVa : Nat
  savedLines : List SavedLine
  resume : Option Resume
  /-- The context was armed by OP_RESUME (R398). -/
  viaResume : Bool
  /-- The context holds its partition, shares and function-table slots (R238, R429). -/
  assigned : Bool
  /-- Shares by engine instance, and the largest fetch (R225). -/
  shares : KV Nat
  fetch : Nat
  img : Option JobHdr
  imgVa : Nat
  panels : List PanelRange
  regions : List Region
  pages : KV Page
  cur : Half
  next : Half
  /-- Next command of each list, by `32 × class + instance` (R220). -/
  pos : KV Nat
  /-- MP_TILE_GEN as recorded at placement (R439). -/
  tileGen : W32
  seqs : KV Seq
  tileCmds : List TileCmd
  /-- Slots of the context's function tables, by table number (R139). -/
  ftMap : List Nat
  fault : CtxFault
  /-- Non-finite signals gathered in this attempt (R335). -/
  nfPending : Nat
  /-- Logical identity of the device in the job (R383; `self` of the GHL section). -/
  ghlSelf : Nat
  ghl : CtxGhl
  press : Press
  watch : Watch
  deriving DecidableEq, Repr

def Ctx.empty : Ctx :=
  { st := .empty, stopped := false, armed := false, holds := 0, owner := 0, jobEpoch := 0, layoutEpoch := 0,
    saveKib := 0, startMark := 0, stk := .zero, acct := .zero, savedSince := 0, feed := none, att := .none,
    unload := false, save := none, restore := none, saveVa := 0, savedLines := [], resume := none
    viaResume := false, assigned := false, shares := [], fetch := 0, img := none, imgVa := 0, panels := [], regions := [], pages := [],
    cur := .none, next := .none, pos := [], tileGen := 0, seqs := [], tileCmds := [], ftMap := [], fault := .zero, nfPending := 0, ghlSelf := 0, ghl := .empty, press := .empty, watch := .cleared }

/-- Stream registers and counters (R274 to R277). -/
structure StrRegs where
  split : BitVec 3
  hashKey : W32
  pageFaults : W32
  poisonDropped : W32
  discardBytes : W32
  capWaits : W32
  /-- Raw counts; the registers show units of 1,024. -/
  shareLends : Nat
  memCe : W32
  memUe : W32
  xlateMisses : Nat
  errLast : W32
  deriving DecidableEq, Repr

def StrRegs.reset : StrRegs := ⟨0, 0, 0, 0, 0, 0, 0, 0, 0, 0, 0⟩

/-- The fields of MP_ASSEMBLY that fuses set (Table 1.4). -/
structure Fuses where
  stackFitted : Byte
  ioFitted : BitVec 4
  partCode : BitVec 4
  deriving DecidableEq, Repr

/-- The state of the module. -/
structure State where
  /-- Core cycles since the model's start. -/
  now : Nat
  /-- Commands that wait, first in, first out. -/
  pending : List Instr
  /-- The model's counter of open values (log entry 1). -/
  freeCtr : Nat
  /-- Bytes a register read or a management answer last returned. -/
  readData : List Byte
  fuses : Fuses
  /-- The MGMT_ADDR straps of Connector A (Table 16.1). -/
  straps : BitVec 3
  hamper : Hamper
  stroke : Stroke
  slots : KV Ctx
  tub : Tub
  vunits : KV VUnit
  /-- The 16 function-table slots, the same in every vector unit (R139). -/
  ftabs : KV FTable
  /-- MGL_REPAIR: the bypassed physical tile-row of each die, 16 with no repair (R69, R109). -/
  bypass : KV Nat
  mgl : Mgl
  /-- Seam operations in flight, by unit. -/
  seams : KV SeamOp
  /-- Active stream tasks, in order of their start. -/
  tasks : List StrTask
  /-- Translation cache of each stream engine. -/
  xcache : KV (List XEnt)
  mem : MemSys
  prs : PrsCtr
  ghl : Ghl
  /-- The sequence table (R338). -/
  seqTab : KV SeqEnt
  str : StrRegs
  mp : Mp
  power : Power
  tubMem : KV Byte
  stackMem : KV Byte
  hostMem : KV Byte
  /-- The 4 KiB pages of host memory at which an access of the device ends with a PCIe error (R416, R422; log entry 83):
  the host's side of the link, which no command changes. -/
  hostErr : NSet
  deriving DecidableEq, Repr

/-- The machine as manufactured and not yet powered: the module is OFF, every register holds its Reset column, module
flash is that of R438, R445 and R478, and nothing waits. The spec names no one part: the fuses are those of an SLN512-M8X4
(log entry 5), and the straps, which the chassis sets, read 0 (log entry 97). -/
def State.reset : State :=
  { now := 0, pending := [], freeCtr := 0, readData := [], fuses := ⟨0xFF, 0xF, 1⟩, straps := 0, hamper := .reset
    stroke := .reset, slots := [], tub := .reset, vunits := [], ftabs := [], bypass := [], mgl := .reset, seams := []
    tasks := [], xcache := [], mem := .reset, prs := .zero, ghl := .reset, seqTab := [], str := .reset
    mp := .factory, power := .off, tubMem := [], stackMem := [], hostMem := [], hostErr := [] }

end Sys2Proof.Machine
end

