-- ==== Sys2Proof/Machine/Ops.lean ====
section
/-!
DEFINITION. The named operations over State that the meanings share: slots, counters, memory and its translation, the
MP's event log, the host event rings, changes of a context's state, completion records.
-/

namespace Sys2Proof.Machine

open Host (Outcome)

/-- The next state of a command. -/
abbrev Res := Outcome State Fault Refusal

/-- A command's effect as exec answers it: the queue, the clock, the fuses and the straps are no part of it (R13, log
entries 2 and 3). -/
def State.effectOf (s t : State) : State :=
  { t with pending := s.pending, now := s.now, fuses := s.fuses, straps := s.straps }

/-- A command reaches the module only while it is powered: in OFF it changes nothing (Table 16.7, log entry 4). -/
def powered (s t : State) : Res := .next (if s.power.on then s.effectOf t else s)

/-- Add `n` to a 32-bit counter that saturates (R63, R435). -/
def sat32 (c : W32) (n : Nat) : W32 :=
  if 2 ^ 32 ≤ c.toNat + n then 0xFFFFFFFF#32 else BitVec.ofNat 32 (c.toNat + n)

/-- Slot `c`. -/
def State.slot (s : State) (c : Nat) : Ctx := KV.get Ctx.empty s.slots c
/-- Change slot `c`. -/
def State.modSlot (s : State) (c : Nat) (f : Ctx → Ctx) : State :=
  { s with slots := KV.upd Ctx.empty s.slots c f }
/-- Mailbox `m`. -/
def State.mbx (s : State) (m : Nat) : Mailbox := KV.get Mailbox.init s.hamper.mbx m
/-- Change mailbox `m`. -/
def State.modMbx (s : State) (m : Nat) (f : Mailbox → Mailbox) : State :=
  { s with hamper := { s.hamper with mbx := KV.upd Mailbox.init s.hamper.mbx m f } }
def State.modHamper (s : State) (f : Hamper → Hamper) : State := { s with hamper := f s.hamper }
def State.modStroke (s : State) (f : Stroke → Stroke) : State := { s with stroke := f s.stroke }
def State.modMp (s : State) (f : Mp → Mp) : State := { s with mp := f s.mp }

/-- An open value and the state that has drawn it (log entry 1). -/
def State.free (s : State) : BitVec 64 × State :=
  (Config.freeValue s.freeCtr, { s with freeCtr := s.freeCtr + 1 })

/-- Fold a state change over a list. -/
def forEach {α : Type} (xs : List α) (f : α → State → State) (s : State) : State :=
  xs.foldl (fun s x => f x s) s

/-! ### Memory -/

/-- Key of a byte of stack memory: 80 GiB for each stack (R262). -/
def stackKey (j off : Nat) : Nat := j * 85899345920 + off

/-- A place in memory: a stack offset or a host bus address (R255). -/
inductive Place where
  | dev (stack off : Nat)
  | host (addr : Nat)
  deriving DecidableEq, Repr

def Place.add (p : Place) (n : Nat) : Place :=
  match p with
  | .dev j o => .dev j (o + n)
  | .host a => .host (a + n)

def State.rdByte (s : State) : Place → Byte
  | .dev j o => KV.get 0 s.stackMem (stackKey j o)
  | .host a => KV.get 0 s.hostMem a

/-- A write clears the stored errors of the codewords it replaces, and the marks of the blocks it writes in full, those of a
spare that is still being filled too (R269, R271). -/
def MemSys.clean (m : MemSys) (a n : Nat) : MemSys :=
  { m with
    err := if m.err.isEmpty then m.err else KV.eraseRange m.err ((a + 31) / 32) ((a + n) / 32)
    marked := if m.marked.isEmpty then m.marked else NSet.delRange m.marked ((a + 127) / 128) ((a + n) / 128)
    retiring := m.retiring.map fun r => { r with marks := NSet.delRange r.marks ((a + 127) / 128) ((a + n) / 128) } }

/-- Write bytes at consecutive places. -/
def State.wrBytes (s : State) (p : Place) (bs : List Byte) : State :=
  match p with
  | .dev j o =>
    { s with
      stackMem := KV.setList 0 s.stackMem (stackKey j o) bs
      mem := s.mem.clean (stackKey j o) bs.length }
  | .host a => { s with hostMem := KV.setList 0 s.hostMem a bs }

def State.rdHost (s : State) (a n : Nat) : List Byte := KV.getList 0 s.hostMem a n
def State.wrHost (s : State) (a : Nat) (bs : List Byte) : State :=
  { s with hostMem := KV.setList 0 s.hostMem a bs }

def pageBig : Nat := 2097152
def pageSmall : Nat := 4096
/-- First host address of a context's address space (R255). -/
def vaHost : Nat := 140737488355328

/-- The resident page that holds `va`, with its first address (R255). -/
def Ctx.page? (x : Ctx) (va : Nat) : Option (Nat × Page) :=
  let b := va - va % pageBig
  let k := va - va % pageSmall
  match KV.find? x.pages b with
  | some pg => if pg.big then some (b, pg) else
      match KV.find? x.pages k with
      | some q => some (k, q)
      | none => none
  | none =>
    match KV.find? x.pages k with
    | some q => if q.big then none else some (k, q)
    | none => none

/-- Where a context virtual address lies, and whether it may be written (R255). -/
def Ctx.xlat (x : Ctx) (va : Nat) : Option (Place × Bool) :=
  match x.page? va with
  | some (b, pg) =>
    some (if pg.host then .host (pg.addr + (va - b)) else .dev pg.stack (pg.addr + (va - b)), pg.writable)
  | none => none

/-- A translation for a stream task or a GHL command: it fails at an address outside every region, a pre-load page's too
(R259, R370, R420). -/
def Ctx.xlatWork (x : Ctx) (va : Nat) : Option (Place × Bool) :=
  if x.regions.any (fun g => decide (g.base ≤ va) && decide (va < g.base + g.size)) then x.xlat va else none

/-- Byte at a context virtual address; a byte of no resident page reads as 0. -/
def State.rdVaByte (s : State) (x : Ctx) (va : Nat) : Byte :=
  match x.xlat va with
  | some (p, _) => s.rdByte p
  | none => 0

def State.rdVa (s : State) (x : Ctx) (va n : Nat) : List Byte :=
  (List.range n).map (fun i => s.rdVaByte x (va + i))

/-- Write bytes at context virtual addresses, page by page; a byte of no resident page is not written. -/
def State.wrVa (s : State) (x : Ctx) (va : Nat) (bs : List Byte) : State :=
  let o := va % pageSmall
  (List.range ((o + bs.length + pageSmall - 1) / pageSmall)).foldl (fun s i =>
    let lo := i * pageSmall - o
    let hi := (i + 1) * pageSmall - o
    match x.xlat (va + lo) with
    | some (p, _) => s.wrBytes p ((bs.drop lo).take (hi - lo))
    | none => s) s

/-- Is every page of `[va, va + n)` resident (`w`: and writable)? Pages are looked up per 4 KiB. -/
def Ctx.mapped (x : Ctx) (va n : Nat) (w : Bool) : Bool :=
  let first := va / pageSmall
  let last := (va + n - 1) / pageSmall
  n == 0 || (List.range (last + 1 - first)).all (fun i =>
    match x.xlat ((first + i) * pageSmall) with
    | some (_, wr) => !w || wr
    | none => false)

/-- Is the block at a stack offset marked in the poison map of a spare page (R271)? -/
def isMarked (s : State) (j off : Nat) : Bool := NSet.mem s.mem.marked (stackKey j off / 128)

/-- Is the 64-byte granule at a stack offset delivered poisoned (R269, R271)? -/
def granPoison (s : State) (j off : Nat) : Bool :=
  isMarked s j (off - off % 128) ||
    [0, 1].any (fun q => KV.get 0 s.mem.err (stackKey j (off - off % 64) / 32 + q) == 2)

/-- Does the 64-byte granule at a context address read as poisoned (R269)? -/
def vaPoison (s : State) (x : Ctx) (va : Nat) : Bool :=
  match x.xlat (va - va % 64) with
  | some (.dev j o, _) => granPoison s j o
  | _ => false

/-- Poisoned granules that `[va, va + n)` meets. -/
def poisonedGran (s : State) (x : Ctx) (va n : Nat) : List Nat :=
  if n = 0 ∨ (s.mem.err.isEmpty && s.mem.marked.isEmpty) = true then []
  else (List.range ((va + n - 1) / 64 + 1 - va / 64)).filterMap fun i =>
    let a := (va / 64 + i) * 64
    if vaPoison s x a then some a else none

/-- Number in `n` bytes read at an address. -/
def State.vaNum (s : State) (x : Ctx) (va n : Nat) : Nat := leNat (s.rdVa x va n)

/-! ### The MP's event log -/

/-- Origin codes of Table 15.3 for the device's own parties. -/
def originMp : Nat := 0x10
def originCp : Nat := 0x11
def originHw : Nat := 0x12

/-- The time of R466: bit 63 set until SET_TIME. -/
def State.time (s : State) : W64 :=
  match s.mp.wall with
  | some (us, at_) => BitVec.ofNat 64 ((us + (s.now - at_) / 3000) % 2 ^ 63)
  | none => BitVec.ofNat 64 (2 ^ 63 + (s.now - s.mp.startAt) / 3000)

/-- The mark field of a record: zero while there are no Strokes (Tables 13.3a and 15.2). -/
def State.markField (s : State) : W48 := if s.stroke.mode = 0#2 then 0 else s.stroke.mark

/-- Does a record also enter the flash ring (R465)? -/
def flashes (s : State) (code : Nat) : Bool :=
  (decide (0x0900 ≤ code) && decide (code ≤ 0x0AFF)) ||
  (s.stroke.mode == 1#2 && [Code.strokeOverrun, Code.strokeBusy, Code.strokeDiscard].elem code)

/-- One record of the event log (R465, R510). -/
def State.log (s : State) (code origin slot : Nat) (arg : W32) (ext : BitVec 48) : State :=
  let r : EvRec :=
    { seq := s.mp.seq, time := s.time, code := code, origin := origin, slot := slot, arg := arg,
      mark := s.markField, ext := ext }
  s.modMp fun p =>
    { p with
      seq := p.seq + 1
      log := (r :: p.log).take 8192
      flashLog := if flashes s code then (r :: p.flashLog).take 16384 else p.flashLog }

/-! ### Counted events and self-test triggers -/

/-- Core cycles in 24 hours. -/
def day : Nat := 259200000000000

/-- Count an event (R443). -/
def State.note (s : State) (key : Nat) : State := s.modMp fun p => { p with events := (key, s.now) :: p.events }

/-- Keys of counted events: a kind and a number. -/
def evKey (kind id : Nat) : Nat := kind * 4294967296 + id

/-- The unit of a test (R440): the die of ARRAY, the crossing of CROSS, the port of LINK with or without recalibration,
and the whole unit word of TUB and MEM. -/
def testUnit (test : Nat) (u : W32) : Nat :=
  evKey (min test 4) (if test = 2 ∨ test = 3 then u.toNat else u.toNat / 16 % 16)

/-- A trigger of Table 14.3 (R440). -/
def State.trigger (s : State) (test : Nat) (unit : W32) : State :=
  let k := testUnit test unit
  if s.mp.tstQ.any (fun t => testUnit t.test t.unit == k) then s.note k
  else if 32 + s.mp.tstBusy.toNat ≤ s.mp.tstQ.length then s.modMp fun p => { p with tstDropped := sat32 p.tstDropped 1 }
  else (s.note k).modMp fun p => { p with tstQ := p.tstQ ++ [⟨test, unit⟩] }

/-- Unit words of Table 14.2 for a tile-row of a die, a crossing and a port. -/
def unitRow (die row : Nat) : W32 := BitVec.ofNat 32 (16 * die + 256 * row)
def unitCrossing (i kind : Nat) : W32 := BitVec.ofNat 32 (1 + 16 * i + 256 * kind)
def unitPort (p lane : Nat) : W32 := BitVec.ofNat 32 (4 + 16 * p + 256 * lane)
def unitBank (j ch bank : Nat) : W32 := BitVec.ofNat 32 (3 + 16 * j + 256 * ch + 65536 * bank)

/-! ### The change log -/

/-- The 192 bytes of Table 15.4. -/
def ChangeRec.bytes (r : ChangeRec) : List Byte :=
  leBytes 8 r.seq ++ leBytes 8 r.time.toNat ++ leBytes 1 r.origin ++ leBytes 1 r.role ++ leBytes 2 r.object ++
    leBytes 4 r.item ++ List.replicate 24 0 ++ r.oldHash ++ r.newHash ++ r.chain

/-- Digest of a stored form that the spec does not lay out, from what it holds (log entry 1). -/
def formBytes (kind : Nat) (l : List Nat) : List Byte := (List.range 48).map (Config.formDigest kind l)

def nats (l : List Byte) : List Nat := l.map (·.toNat)

/-- The 16 KiB of the calibration record (R474); manufacture wrote those of which none are listed. -/
def Cal.record (c : Cal) : List Byte := if c.raw.isEmpty then (List.range 16384).map (Config.factory 10) else c.raw

/-- SHA-384 over the calibration record, its origin byte included (R470, Table 15.9); with no valid record, an open
digest. -/
def Cal.digest (c : Cal) : List Byte := if c.origin = 2 then formBytes 2 [2] else sha384 c.record

/-- A configuration item (Table 15.7). -/
def MpConfig.item (c : MpConfig) (item : Nat) : List Nat :=
  if item = 1 then (match c.hashKey with
    | some k => [1, k.toNat]
    | none => [0, 0])
  else if item = 2 then [c.cooling]
  else nats c.receiver

/-- What the repair map holds (R445); the page remap tables, which it holds by reference, are an object of their own
(log entry 95). -/
def mapNats (s : State) : List Nat :=
  ((List.range 4).flatMap fun d => [KV.get 16 s.bypass d, KV.get 0 s.mp.faulty d]) ++
    (List.range 32).map (fun k => (KV.get 0 s.mp.marked k).toNat)

/-- The slot numbered 0 (A) or 1 (B). -/
def Mp.fw (p : Mp) (n : Nat) : FwSlot := if n = 0 then p.slotA else p.slotB

/-- What the stored form of an object of Table 15.5 holds. -/
def State.form (s : State) (object item : Nat) : List Nat :=
  if object = 1 then item :: s.mp.config.item item
  else if object = 3 then mapNats s
  else if object = 4 then (s.mem.remap.filter fun e => e.1 / 65536 == item).flatMap fun e => [e.1 % 65536, e.2]
  else if object = 5 then
    let f := s.mp.fw item
    [f.verifies.toNat, f.major.toNat, f.minor.toNat, f.patch.toNat, f.svn.toNat] ++ f.digests.flatMap fun e => e.1 :: nats e.2
  else if object = 6 then [s.mp.floor]
  else if object = 8 then (List.range 6).map fun k => KV.get 0 s.mp.roles k
  else [s.mp.retired.toNat]

/-- SHA-384 over the whole stored form of an object as it stands (R470): of the bytes themselves where the model holds them,
a calibration record or an owner key. -/
def State.formHash (s : State) (object item : Nat) : List Byte :=
  if object = 2 then s.mp.cal.digest
  else if object = 7 then (s.mp.ownerKey.map sha384).getD (formBytes 7 [])
  else formBytes object (s.form object item)

/-- Forty-eight open bytes: the chain of the first record, which follows none (log entry 1). -/
def State.freeHash (s : State) : List Byte × State :=
  ((List.range 6).flatMap fun i => leBytes 8 (Config.freeValue (s.freeCtr + i)).toNat,
    { s with freeCtr := s.freeCtr + 6 })

/-- The chain of the next record: SHA-384 of the previous one (R470). -/
def State.chain (s : State) : List Byte × State :=
  match s.mp.changes with
  | r :: _ => (sha384 r.bytes, s)
  | [] => s.freeHash

/-- At 15,360 records the oldest 4,096 give way to one roll record (R471). -/
def rollChanges (s : State) : State :=
  if s.mp.changes.length < 15360 then s
  else
    let kept := s.mp.changes.take 11264
    let gone := s.mp.changes.drop 11264
    let roll : ChangeRec :=
      { seq := s.mp.changeSeq, time := s.time, origin := originMp, role := 0, object := 0, item := 0
        oldHash := (gone.head?.map (·.chain)).getD []
        newHash := (gone.getLast?.map (·.chain)).getD []
        chain := (kept.head?.map (fun r => sha384 r.bytes)).getD [] }
    (s.modMp fun p => { p with changes := roll :: kept, changeSeq := p.changeSeq + 1 }).log Code.logRoll originMp 0xFF 0 0

/-- Write a change record (R470). -/
def State.change (s : State) (origin role object item : Nat) (old new : List Byte) : State :=
  let (ch, s) := s.chain
  let r : ChangeRec :=
    { seq := s.mp.changeSeq, time := s.time, origin := origin, role := role, object := object, item := item
      oldHash := old, newHash := new, chain := ch }
  rollChanges (s.modMp fun p => { p with changes := r :: p.changes, changeSeq := p.changeSeq + 1 })

/-- The change record of an object that stood in `s` as it was and stands now as in `t` (R470). -/
def State.changeTo (s t : State) (origin role object item : Nat) : State :=
  t.change origin role object item (s.formHash object item) (t.formHash object item)

/-! ### Event rings -/

/-- Is there an installed ring with room for a record (R415)? -/
def Mailbox.room (m : Mailbox) : Bool :=
  match m.ring with
  | some r => decide ((m.head.toNat + 1) % r.entries ≠ m.tail.toNat % r.entries)
  | none => false

/-- Sixteen bytes of Table 13.3a. -/
def evBytes (code slot kind : Nat) (arg : W32) (mark : W48) : List Byte :=
  leBytes 2 code ++ leBytes 1 slot ++ leBytes 1 kind ++ leBytes 4 arg.toNat ++ leBytes 6 mark.toNat ++ leBytes 2 0

/-- The function that owns slot `c` by VF Enable and NumVFs (R404). -/
def Hamper.client (h : Hamper) (c : Nat) : Fin 8 :=
  if h.vfEnabled = true ∧ 1 ≤ c ∧ c ≤ h.numVfs.val ∧ c < 8 then Fin.ofNat 8 c else 0

/-- The MSI-X vector that mailbox `m` raises, as 16 × function + vector: vector `m` of the physical function (R403), or
vector 0 of the virtual function whose BAR 0 holds the mailbox (R404). -/
def Hamper.vector (h : Hamper) (m : Nat) : Nat :=
  let f := if m = 0 then 0 else (h.client (m - 1)).val
  if f = 0 then m else 16 * f

/-- Raise the vector of mailbox `m` (R403, R404). -/
def State.msix (s : State) (m : Nat) : State :=
  s.modHamper fun h => { h with msix := KV.upd 0 h.msix (h.vector m) (· + 1) }

/-- Does an access to `[a, a + n)` of host memory end with a PCIe error (log entry 83)? -/
def State.hostFails (s : State) (a n : Nat) : Bool :=
  s.hostErr.any fun p => decide (a < 4096 * (p + 1)) && decide (4096 * p < a + n)

/-- An event that no ring takes is dropped and counted (R415). -/
def State.dropEvent (s : State) (m : Nat) : State :=
  s.modMbx m fun b => { b with lost := sat32 b.lost 1, lostOwn := sat32 b.lostOwn 1 }

/-- Write a record at entry head, advance head, set MBX_IRQ.event and raise the vector if enabled (R415). A PCIe error on
the write disables the ring and counts the event as lost (R416). -/
def State.putEvent (s : State) (m : Nat) (rec_ : List Byte) : State :=
  let b := s.mbx m
  match b.ring with
  | none => s
  | some r =>
    let a := r.addr + 16 * b.head.toNat
    if s.hostFails a 16 then (s.modMbx m fun b => { b with ring := none }).dropEvent m
    else
      let s := (s.wrHost a rec_).modMbx m fun b =>
        { b with head := BitVec.ofNat 12 ((b.head.toNat + 1) % r.entries), irq := b.irq ||| 2#5 }
      if b.irqEn.getLsbD 1 then s.msix m else s

/-- Write the pending LOST record as soon as there is room (R415); the count stands while none has been written. -/
def State.flushLost (s : State) (m : Nat) : State :=
  let b := s.mbx m
  if b.lostOwn ≠ 0 ∧ b.room = true then
    (s.putEvent m (evBytes 0 (if m = 0 then 0xFF else m - 1) 2 b.lostOwn s.markField)).modMbx m
      fun b => if b.ring.isSome then { b with lostOwn := 0 } else b
  else s

/-- Post an event to mailbox `m`, or drop and count it (R415). -/
def State.post (s : State) (m slot code kind : Nat) (arg : W32) : State :=
  let s := s.flushLost m
  if (s.mbx m).room then s.putEvent m (evBytes code slot kind arg s.markField)
  else s.dropEvent m

/-- A FAULT event of a context, posted to its slot's context mailbox. -/
def State.postCtx (s : State) (c code : Nat) (arg : W32) : State := s.post (1 + c) c code 0 arg

/-- The MP sends an MCTP message of its own on the interface of an origin code: the mailbox requester's queue holds 16
and drops its oldest (R484); the others are listed as sent. -/
def State.originate (s : State) (origin : Nat) (msg : List Byte) : State :=
  s.modMp fun p =>
    if origin = 1 then { p with mbxQ := (p.mbxQ ++ [msg]).drop (p.mbxQ.length + 1 - 16) }
    else { p with sent := p.sent ++ [(origin, msg)] }

/-- A PLDM PlatformEventMessage to the event receiver, if there is one (R483; log entry 70 for its bytes). -/
def State.platformEvent (s : State) (cls : Nat) (data : List Byte) : State :=
  match s.mp.eventRx with
  | some (i :: _) =>
    s.originate i.toNat ([1, 0x80, 2, 0x0A, 1, Config.factory 7 0] ++ leBytes 1 cls ++ data)
  | _ => s

/-- A FAULT event of the device, posted to the privileged mailbox and sent as a platform event. -/
def State.postDev (s : State) (code : Nat) (arg : W32) : State :=
  (s.post 0 0xFF code 0 arg).platformEvent 0xF0 (leBytes 2 code ++ leBytes 4 arg.toNat)

/-! ### Health -/

/-- A stack with fewer than 8 of its 64 spare pages left (Table 14.7). -/
def State.sparesLow (s : State) : Bool := s.mem.spares.any fun e => decide (56 < e.2)

/-- A port in DEGRADED, a marked lane, or a lasting LINK result (Tables 14.7 and 14.9). -/
def State.linkDegraded (s : State) : Bool :=
  s.ghl.ports.any (fun e => e.2.st == .degraded) || s.mp.marked.any (fun e => e.2 != 0) || !s.mp.lastingLink.isEmpty

/-- The most severe value that a condition gives (R452): 0 OK, 1 DEGRADED, 2 REPAIR_PENDING, 3 RETIRED. -/
def State.healthNow (s : State) : Nat :=
  if s.mp.retired then 3
  else if s.mp.repairPending then 2
  else if !s.mp.unlocated.isEmpty || s.linkDegraded || s.sparesLow then 1
  else 0

/-- Log and post a change of health (R453). -/
def State.settleHealth (s : State) : State :=
  let h := s.healthNow
  if h = s.mp.health then s
  else (((s.modMp fun p => { p with health := h }).log 0 originMp 0xFF 0 0).post 0 0xFF 0 0 0)

/-- Entry to RETIRED (R454). -/
def State.retire (s : State) : State :=
  if s.mp.retired then s
  else ((s.modMp fun p => { p with retired := true, retireDue := true }).log Code.deviceRetired originMp 0xFF 0 0).settleHealth

/-- Context slots. -/
def slots8 : List Nat := [0, 1, 2, 3, 4, 5, 6, 7]

/-! ### Context states -/

/-- The value of MBX_CTX_STATE (Table 13.11). -/
def Ctx.word (x : Ctx) : W32 :=
  BitVec.ofNat 32 (x.st.code + 8 * x.stopped.toNat + 16 * x.armed.toNat + 32 * x.holds.toNat
    + 2048 * (decide (x.owner ≠ 0)).toNat + 4096 * x.feed.isSome.toNat)

/-- Ownership follows VF Enable and NumVFs while the slot is EMPTY; the accounting counters belong to the
client (R404, R435). -/
def Ctx.own (h : Hamper) (c : Nat) (x : Ctx) : Ctx :=
  let o := h.client c
  if x.st = .empty ∧ x.owner ≠ o then { x with owner := o, acct := .zero } else x

/-- Book-keeping of a change of state: holds counted, SAVED time counted, ownership on EMPTY. -/
def Ctx.moved (h : Hamper) (now c : Nat) (old : CtxSt) (x : Ctx) : Ctx :=
  let x := if x.st = .held ∧ old ≠ .held then { x with stk := { x.stk with holds := sat32 x.stk.holds 1 } } else x
  let x := if x.st = .saved ∧ old ≠ .saved then { x with savedSince := now } else x
  let x := if old = .saved ∧ x.st ≠ .saved then
      { x with acct := { x.acct with savedCyc := x.acct.savedCyc + (now - x.savedSince) } } else x
  x.own h c

/-- Change a slot; a change of its state is an event (R415). -/
def State.setCtx (s : State) (c : Nat) (f : Ctx → Ctx) : State :=
  let old := (s.slot c).st
  let s := s.modSlot c fun x => (f x).moved s.hamper s.now c old
  if (s.slot c).st ≠ old then s.post (1 + c) c 0 1 (s.slot c).word else s

/-- Bit of a hold cause of Table 13.8, given its MBX_CTX_STATE bit. -/
def holdBit (bit : Nat) : BitVec 6 := 1#6 <<< (bit - 5)

/-- The tally code a slot reports for its state (Tables 2.4 and 13.7, R54). -/
def Ctx.tally (x : Ctx) : Nat :=
  match x.st with
  | .empty | .loaded => 0
  | .running => if x.att.cause = 0 then 1 else x.att.cause
  | .held => if x.stopped then 6 else if x.holds ≠ 0 then 5 else 2
  | .saved => if x.stopped then 6 else 5

/-- The context's phase bit (R45). -/
def Ctx.phase (x : Ctx) : Nat := x.stk.index.toNat % 2

/-! ### Completion records -/

/-- The current list of an engine instance (R215). -/
def Ctx.list? (x : Ctx) (cls inst : Nat) : Option CList :=
  x.cur.lists.find? (fun l => l.cls == cls && l.inst == inst)

/-- Key of an engine instance. -/
def instKey (cls inst : Nat) : Nat := 32 * cls + inst

/-- Write the completion record of command `k` (R221). -/
def State.complete (s : State) (c cls inst k : Nat) (rec_ : List Byte) : State :=
  let x := s.slot c
  match x.img, x.list? cls inst with
  | some h, some l => s.wrVa x (h.compBase + x.phase * h.compHalf + l.compOff + 16 * k) rec_
  | _, _ => s

/-- A record of a command discarded before it starts (R221): the status field of its class's record. -/
def discardRec (cls : Nat) : List Byte :=
  let st := leBytes 2 Code.strokeDiscard
  if cls = 1 then st ++ List.replicate 14 0 else List.replicate 4 0 ++ st ++ List.replicate 10 0

/-- The next command of a list that has not started. -/
def Ctx.nextCmd (x : Ctx) (cls inst : Nat) : Option Cmd :=
  match x.list? cls inst with
  | some l => l.cmds[KV.get 0 x.pos (instKey cls inst)]?
  | none => none

/-- Mark the next command of a list as started. -/
def Ctx.advance (cls inst : Nat) (x : Ctx) : Ctx :=
  { x with att := x.att, pos := KV.upd 0 x.pos (instKey cls inst) (· + 1) }

/-- Is a range of the class in force for the context, and is it the range of the command (R39, R220)? -/
def Ctx.inRange (x : Ctx) (cls : Nat) (r : Nat) : Bool :=
  (KV.find? x.att.ranges (8 * cls + r)).isSome

/-- The cycle at which a command is due: its offset from the start of its range (R39, R220). -/
def Ctx.dueAt (x : Ctx) (cls : Nat) (q : Cmd) : Nat := KV.get 0 x.att.ranges (8 * cls + q.range) + q.offset

/-- The context may start command `q` of the class at cycle `now`: it runs, no cause has discarded its commands, the
command's range is in force and its start time has come (R39, R54, R220). -/
def Ctx.mayStart (now : Nat) (x : Ctx) (cls : Nat) (q : Cmd) : Bool :=
  decide (x.st = .running) && x.att.on && x.att.cause == 0 && x.inRange cls q.range && decide (x.dueAt cls q ≤ now)

/-- Write the records of every command of the context that has not started (R221). -/
def State.discardRest (s : State) (c : Nat) : State :=
  let x := s.slot c
  let s := forEach x.cur.lists (fun l s =>
    forEach (l.cmds.drop (KV.get 0 x.pos (instKey l.cls l.inst))) (fun q s =>
      s.complete c l.cls l.inst q.k (discardRec l.cls)) s) s
  s.modSlot c fun x =>
    { x with pos := x.cur.lists.foldl (fun p l => KV.set 0 p (instKey l.cls l.inst) l.cmds.length) x.pos }

end Sys2Proof.Machine
end

