-- ==== Sys2Proof/Machine/Hamper.lean ====
section
/-!
DEFINITION. The mailboxes: sealing, acknowledgement, acceptance, time limits, event rings and feed posts (R403 to R417,
R428), and the commands OP_NOP and OP_EVENTS.
-/

namespace Sys2Proof.Machine

/-- A row of Table 13.3. -/
structure OpRow where
  op : Nat
  /-- The context mailboxes may issue it (C in the table). -/
  ctx : Bool
  /-- Payload length; `none` for OP_MCTP (R484). -/
  len : Option Nat
  /-- Byte 0 of the payload names a slot (R419). -/
  slot : Bool
  /-- A device command (R410). -/
  device : Bool
  /-- Served by the MP (R417). -/
  mp : Bool
  /-- Refused with F_ASSEMBLY_MISMATCH while R14 holds the CP in reset (R417). -/
  jobLoad : Bool
  deriving DecidableEq, Repr

namespace Op
def nop : Nat := 0x0001
def events : Nat := 0x0002
def domain : Nat := 0x0101
def admission : Nat := 0x0102
def power : Nat := 0x0103
def darn : Nat := 0x0104
def selftest : Nat := 0x0105
def load : Nat := 0x0201
def start : Nat := 0x0202
def unload : Nat := 0x0203
def release : Nat := 0x0204
def save : Nat := 0x0205
def restore : Nat := 0x0206
def reshard : Nat := 0x0207
def resume : Nat := 0x0208
def pageMap : Nat := 0x0301
def pageUnmap : Nat := 0x0302
def copy : Nat := 0x0303
def watch : Nat := 0x0401
def decide : Nat := 0x0402
def feed : Nat := 0x0403
def peerMap : Nat := 0x0501
def mctp : Nat := 0x0601
end Op

/-- Table 13.3. -/
def opTable : List OpRow :=
  [⟨Op.nop, true, some 0, false, false, false, false⟩, ⟨Op.events, true, some 16, false, false, false, false⟩,
   ⟨Op.domain, false, some 32, false, true, false, false⟩, ⟨Op.admission, false, some 48, false, true, false, false⟩,
   ⟨Op.power, false, some 8, false, true, true, false⟩, ⟨Op.darn, false, some 8, false, true, true, false⟩,
   ⟨Op.selftest, false, some 8, false, true, true, false⟩, ⟨Op.load, true, some 24, true, false, false, true⟩,
   ⟨Op.start, true, some 16, true, false, false, true⟩, ⟨Op.unload, true, some 8, true, false, false, false⟩,
   ⟨Op.release, true, some 8, true, false, false, false⟩, ⟨Op.save, false, some 16, true, false, false, false⟩] ++
  [⟨Op.restore, false, some 8, true, false, false, true⟩, ⟨Op.reshard, false, some 24, true, false, false, true⟩,
   ⟨Op.resume, false, some 24, true, false, false, true⟩, ⟨Op.pageMap, true, some 32, true, false, false, false⟩,
   ⟨Op.pageUnmap, true, some 32, true, false, false, false⟩, ⟨Op.copy, true, some 32, true, false, false, false⟩,
   ⟨Op.watch, true, some 48, true, false, false, false⟩, ⟨Op.decide, true, some 8, true, false, false, false⟩,
   ⟨Op.feed, true, some 32, true, false, false, false⟩, ⟨Op.peerMap, false, some 24, true, false, false, false⟩,
   ⟨Op.mctp, false, none, false, false, true, false⟩]

def opRow? (op : Nat) : Option OpRow := opTable.find? (fun r => r.op == op)

/-- Little-endian field of the request area. -/
def Mailbox.field (b : Mailbox) (off n : Nat) : Nat := leNat (KV.getList 0 b.page off n)

/-- Is `len` the payload length of the row, for the payload of the page (R408, R484)? -/
def OpRow.lenOk (r : OpRow) (b : Mailbox) : Bool :=
  let len := b.field 2 2
  match r.len with
  | some n => len == n
  | none => decide (8 ≤ len) && decide (len ≤ 2032) && len == 8 + b.field 0x10 2

/-- The CP runs and takes commands: `ready` and no R411 fault. -/
def Hamper.cpUp (h : Hamper) : Bool := h.ready && !h.cpFault && !h.assemblyFault

/-- The acknowledgement checks of R408 in its order, the reserved bytes of Table 13.1 beside the length (R6, Table 13.6),
then R417, R446 and R454: the refusal, if any. -/
def ackCheck (s : State) (m : Nat) : Option Nat :=
  let b := s.mbx m
  match opRow? (b.field 0 2) with
  | none => some Code.mbxOpcode
  | some r =>
    if r.lenOk b = false ∨ b.field 8 8 ≠ 0 then some Code.mbxFormat
    else if m ≠ 0 ∧ r.ctx = false then some Code.mbxDenied
    else if m ≠ 0 ∧ r.slot = true ∧ (s.slot (m - 1)).owner ≠ b.fn then some Code.mbxOwned
    else if r.mp = true ∨ r.op = Op.nop then none
    else if s.hamper.assemblyFault then some (if r.jobLoad then Code.assemblyMismatch else Code.mbxCpDown)
    else if !s.hamper.cpUp then some Code.mbxCpDown
    else if s.mp.retired = true ∧ [Op.load, Op.reshard, Op.restore, Op.resume, Op.admission].elem r.op = true then
      some Code.deviceRetired
    else if s.mp.repairPending = true ∧ [Op.load, Op.reshard, Op.restore].elem r.op = true then
      some Code.repairPending
    else none

/-- Write a response and complete the command (R408 step 4, Table 13.1). -/
def State.respond (s : State) (m : Nat) (status : Nat) (payload : List Byte) : State :=
  let b := s.mbx m
  let (op, tag) := match b.req with
    | some r => (r.opcode, r.tag.toNat)
    | none => (b.field 0 2, b.field 4 4)
  let resp := leBytes 2 status ++ leBytes 2 op ++ leBytes 4 tag ++ leBytes 2 payload.length ++
    List.replicate 6 0 ++ payload
  let s := s.modMbx m fun b =>
    { b with
      page := KV.setList 0 b.page 0x800 resp, st := .done, doneCount := b.doneCount + 1, irq := b.irq ||| 1#5
      req := none, bound := none, stage := .fresh }
  let s := if b.irqEn.getLsbD 0 then s.msix m else s
  if m = 0 then s
  else s.modSlot (m - 1) fun x => { x with acct := { x.acct with cmds := sat32 x.acct.cmds 1 } }

/-- SEALING_WRITE (R408, R409). -/
def sealWrite (s : State) (m : Nat) (fn : Fin 8) : State :=
  match (s.mbx m).st with
  | .idle | .done => s.modMbx m fun b => { b with st := .sealed, fn := fn }
  | _ => s.modMbx m fun b => { b with irq := b.irq ||| 4#5 }

/-- The request as acknowledgement copies it (R405, R408). -/
def Mailbox.copy (b : Mailbox) (m : Nat) : Request :=
  let pl := KV.getList 0 b.page 0x10 (b.field 2 2)
  let names := match opRow? (b.field 0 2) with
    | some r => r.slot
    | none => false
  { opcode := b.field 0 2, tag := BitVec.ofNat 32 (b.field 4 4), payload := pl
    slot := if names then some (if m = 0 then (pl.headD 0).toNat else m - 1) else none }

/-- ACKNOWLEDGEMENT (R408 step 2): refuse, complete OP_NOP, or queue. -/
def acknowledge (s : State) (m : Nat) : State :=
  if (s.mbx m).st = .sealed then
    match ackCheck s m with
    | some code => s.respond m code []
    | none =>
      if (s.mbx m).field 0 2 = Op.nop then s.respond m 0 []
      else
        let n := s.hamper.ackNext
        let t := s.now
        (s.modMbx m fun b =>
          { b with st := .queued, req := some (b.copy m), ackSeq := n, queuedAt := t, stage := .fresh }).modHamper
          fun h => { h with ackNext := n + 1 }
  else s

/-- All mailboxes. -/
def mboxes : List Nat := [0, 1, 2, 3, 4, 5, 6, 7, 8]

def Mailbox.row? (b : Mailbox) : Option OpRow :=
  match b.req with
  | some r => opRow? r.opcode
  | none => none

def Mailbox.isDevice (b : Mailbox) : Bool :=
  match b.row? with
  | some r => r.device
  | none => false

def Mailbox.slot? (b : Mailbox) : Option Nat :=
  match b.req with
  | some r => r.slot
  | none => none

/-- Was the command of mailbox `n` acknowledged before that of mailbox `m`: commands of one cycle count in ascending
mailbox number (R410)? -/
def ackBefore (s : State) (n m : Nat) : Bool :=
  let a := s.mbx n
  let b := s.mbx m
  if a.queuedAt = b.queuedAt then decide (n < m) else decide (a.ackSeq < b.ackSeq)

/-- Do the rules of R410 allow the QUEUED command of mailbox `m`? Every command acknowledged before it that
still waits must be one it may pass: no device command, and none for the same slot. -/
def allowed (s : State) (m : Nat) : Bool :=
  let b := s.mbx m
  let served := match b.row? with
    | some r => r.mp || s.hamper.cpUp
    | none => false
  let others := mboxes.filter (fun n => n != m)
  let accepted := others.filter (fun n => (s.mbx n).st == .accepted)
  let earlier := others.filter (fun n => (s.mbx n).st == .queued && ackBefore s n m)
  b.st == .queued && served &&
    (if b.isDevice then accepted.isEmpty && earlier.isEmpty
     else (accepted ++ earlier).all (fun n =>
       !(s.mbx n).isDevice && !(b.slot?.isSome && (s.mbx n).slot? == b.slot?)))

/-- May the command of mailbox `m` be accepted now: allowed, and no command acknowledged before it is allowed
too (R410)? -/
def mayAccept (s : State) (m : Nat) : Bool :=
  allowed s m && mboxes.all (fun n =>
    !(allowed s n && n != m && ackBefore s n m))

/-- The command of mailbox `m` leaves QUEUED: the time it spent there is its client's (R435). -/
def chargeQueue (m : Nat) (s : State) : State :=
  let wait := s.now - (s.mbx m).queuedAt
  if m = 0 then s
  else s.modSlot (m - 1) fun x => { x with acct := { x.acct with queueCyc := x.acct.queueCyc + wait } }

/-- CP_ACCEPT (R410). -/
def accept (s : State) (m : Nat) : State :=
  if mayAccept s m then
    let n := s.hamper.accNext
    chargeQueue m ((s.modMbx m fun b => { b with st := .accepted, accSeq := n }).modHamper
      fun h => { h with accNext := n + 1 })
  else s

/-- Complete a command that the CP has not (R411, R412). -/
def timeOutCmd (m : Nat) (s : State) : State :=
  match (s.mbx m).st with
  | .queued => (chargeQueue m s).respond m Code.mbxCpTimeout []
  | .accepted => (s.respond m Code.mbxCpTimeout []).modMbx m fun b => { b with timedOut := true }
  | _ => s

/-- The Hamper treats the CP as failed (R411); it is the raising party of the record (Table 14.1, log entry 18). -/
def cpFailed (s : State) : State :=
  let s := forEach mboxes timeOutCmd s
  let s := s.modHamper fun h => { h with cpFault := true, cpTimeouts := sat32 h.cpTimeouts 1 }
  s.log Code.mbxCpTimeout originHw 0xFF 0 0

/-- CP_ACCEPT_TIMEOUT (R411): a command is allowed and none has been accepted for 1 ms. -/
def acceptTimeout (s : State) : State :=
  if mboxes.any (fun m => mayAccept s m) then cpFailed s else s

/-- BOUND_REPORT (R412). -/
def reportBound (s : State) (m bound : Nat) : State :=
  let b := s.mbx m
  let dep := match b.req with
    | some r => [Op.load, Op.reshard, Op.resume, Op.save, Op.restore].elem r.opcode
    | none => false
  if b.st = .accepted ∧ dep = true ∧ b.bound = none then s.modMbx m fun b => { b with bound := some bound }
  else s

/-- COMPLETION_BOUND_TIMEOUT (R412). -/
def boundTimeout (s : State) (m : Nat) : State :=
  if (s.mbx m).st = .accepted then timeOutCmd m s else s

/-- LATE_DONE (R412). -/
def lateDoneAt (s : State) (m : Nat) : State :=
  if (s.mbx m).timedOut then
    (s.modMbx m fun b => { b with timedOut := false, irq := b.irq ||| 8#5 }).modHamper
      fun h => { h with lateDone := sat32 h.lateDone 1 }
  else s

/-- MBX_EVT_TAIL_WRITE (R407, R415). -/
def evtTailWrite (s : State) (m : Nat) (v : W32) : State :=
  (s.modMbx m fun b => { b with tail := v.setWidth 12 }).flushLost m

/-- MBX_EVT_LOST_READ (R407): read and clear. -/
def evtLostRead (s : State) (m : Nat) : State :=
  { (s.modMbx m fun b => { b with lost := 0 }) with readData := leBytes 4 (s.mbx m).lost.toNat }

/-- MBX_FEED_POST_WRITE (R407, R428). -/
def feedPost (s : State) (m : Nat) (v : W32) : State :=
  if m = 0 then s
  else
    let b := s.mbx m
    match (s.slot (m - 1)).feed with
    | none => s.modMbx m fun b => { b with irq := b.irq ||| 16#5 }
    | some f =>
      let want := b.feedPosted.toNat + v.toNat % 65536
      let cap := b.feedDone.toNat + f.nSlots
      if want ≤ cap then s.modMbx m fun b => { b with feedPosted := BitVec.ofNat 32 want }
      else s.modMbx m fun b => { b with feedPosted := BitVec.ofNat 32 cap, irq := b.irq ||| 16#5 }

/-- The accepted request of mailbox `m`, when it carries opcode `op` and has not been started. -/
def State.request (s : State) (m op : Nat) : Option Request :=
  let b := s.mbx m
  match b.req with
  | some r => if b.st = .accepted ∧ b.stage = .fresh ∧ r.opcode = op then some r else none
  | none => none

/-- Field of a payload. -/
def Request.num (r : Request) (off n : Nat) : Nat := leNat ((r.payload.drop off).take n)

/-- Are the bytes `[off, off + n)` of the payload zero (R419)? -/
def Request.zero (r : Request) (off n : Nat) : Bool := r.num off n == 0

/-- The ring that an OP_EVENTS payload describes; `none` when R416 refuses it. -/
def eventsRing (r : Request) : Option (Option EvRing) :=
  let addr := r.num 0 8
  let n := r.num 8 4
  if addr % 4096 = 0 ∧ r.zero 12 4 = true ∧
      (n = 0 ∨ [16, 32, 64, 128, 256, 512, 1024, 2048, 4096].elem n = true) then
    some (if n = 0 then none else some ⟨addr, n⟩)
  else none

/-- OP_EVENTS (R415, R416). -/
def eventsCmd (s : State) (m : Nat) : State :=
  match s.request m Op.events with
  | none => s
  | some r =>
    match eventsRing r with
    | none => s.respond m Code.mbxFormat []
    | some ring => ((s.modMbx m fun b => { b with ring := ring, head := 0, tail := 0 }).flushLost m).respond m 0 []

def execSealingWrite (m : Mbox) (fn : Fin 8) (s : State) : Res := powered s (sealWrite s m.val fn)
def execAcknowledgement (m : Mbox) (s : State) : Res := powered s (acknowledge s m.val)
def execCpAccept (m : Mbox) (s : State) : Res := powered s (accept s m.val)
def execCpAcceptTimeout (s : State) : Res := powered s (acceptTimeout s)
def execBoundReport (m : Mbox) (bound : Nat) (s : State) : Res := powered s (reportBound s m.val bound)
def execCompletionBoundTimeout (m : Mbox) (s : State) : Res := powered s (boundTimeout s m.val)
def execLateDone (m : Mbox) (s : State) : Res := powered s (lateDoneAt s m.val)
def execMbxEvtTailWrite (m : Mbox) (v : W32) (s : State) : Res := powered s (evtTailWrite s m.val v)
def execMbxEvtLostRead (m : Mbox) (s : State) : Res := powered s (evtLostRead s m.val)
def execMbxFeedPostWrite (m : Mbox) (v : W32) (s : State) : Res := powered s (feedPost s m.val v)

/-- OP_NOP (R417): completes at acknowledgement. -/
def execOpNop (m : Mbox) (s : State) : Res :=
  powered s (if (s.mbx m.val).field 0 2 = Op.nop then acknowledge s m.val else s)

def execOpEvents (m : Mbox) (s : State) : Res := powered s (eventsCmd s m.val)

end Sys2Proof.Machine
end

