-- ==== Sys2Proof/Machine/Stroke.lean ====
section
/-!
DEFINITION. Strokes: bands, tallies, verdicts and marks (02_stroke, R28 to R63). The packets that carry marks and tallies
are in Link.lean; the whole of cycle 0 is in Band.lean.
-/

namespace Sys2Proof.Machine

/-- E for a Stroke of `l` cycles (R35, R41). -/
def endReserve (depth hop l : Nat) : Nat := 2048 + 2 * depth * (64 * hop) + l / 2048

/-- Length of the current Stroke (R30). -/
def Stroke.len (k : Stroke) : Nat := if k.double then 2 * k.period.toNat else k.period.toNat

/-- Cycle of the current Stroke. -/
def State.cycle (s : State) : Nat :=
  match s.stroke.cycle0 with
  | some c => s.now - c
  | none => 0

/-- Code of slot `c` in a packed field of eight 3-bit codes (Table 2.1). -/
def codeAt (v : BitVec 24) (c : Nat) : Nat := (v >>> (3 * c)).toNat % 8

/-- Pack eight codes. -/
def packCodes (cs : List Nat) : BitVec 24 :=
  BitVec.ofNat 24 ((cs.take 8).foldr (fun c a => c % 8 + 8 * a) 0)

/-- Combine codes slot by slot: the maximum, 7 counting as STOP (R47, R49). -/
def joinCodes (a b : List Nat) : List Nat :=
  slots8.map fun c => max (min 6 (a.getD c 0)) (min 6 (b.getD c 0))

/-- Codes of a packed field. -/
def unpackCodes (v : BitVec 24) : List Nat := slots8.map (codeAt v)

/-- Combine a tally into the device's own: codes, count, and a verdict fault for each code of 7 (R47, R49). -/
def State.combine (s : State) (codes : List Nat) (count : Nat) : State :=
  s.modStroke fun k =>
    { k with
      codes := joinCodes k.codes codes
      count := k.count + count
      verdictFaults := sat32 k.verdictFaults (codes.countP (· == 7)) }

/-- A tally of HOLD that a page fault caused: the fault is recorded and hold cause 6 set (R261, Table 13.8). It takes
effect in the next opening band (R424). -/
def pageHold (c : Nat) (s : State) : State :=
  let x := s.slot c
  if x.st = .running ∧ x.att.cause = tallyOf Code.strPageFault then
    s.modSlot c fun x =>
      { x with
        holds := x.holds ||| holdBit 6
        fault := match x.att.pageFault with
          | some f => { f with hiLatch := x.fault.hiLatch }
          | none => x.fault }
  else s

/-- Form the device's own tally in the closing band (R47, R54). -/
def formTally (s : State) : State :=
  let cs := slots8.map fun c => (s.slot c).tally
  let s := forEach slots8 (fun c s => s.modSlot c fun x =>
    { x with
      stk := { x.stk with lastTally := BitVec.ofNat 3 x.tally }
      att := { x.att with sentCode := x.tally } }) s
  (forEach slots8 pageHold (s.modStroke fun k =>
    { k with closing := true, formed := true, tallyOut := k.mode != 2#2 })).combine cs 1

/-- May the closing band begin: a Stroke runs, its band has not begun, and no early mark has come (R56)? -/
def Stroke.mayClose (k : Stroke) : Bool := k.cycle0.isSome && !k.closing && k.rx.isNone && k.entered.isNone

/-- ROOT_TALLY_CUTOFF (R48): end collection, raise the codes on a short count, form the next verdicts. A closing band
that began while the CP was down combines nothing (R463). -/
def rootCutoff (s : State) : State :=
  let k := s.stroke
  if k.mode = 1#2 ∧ k.closing = true ∧ k.formed = true ∧ k.sent = false ∧ s.mp.cpHeld = false then
    let short := decide (k.count < k.domainSize.toNat)
    let cs := if short then k.codes.map (fun c => if 1 ≤ c ∧ c ≤ 4 then 4 else c) else k.codes
    let s := s.modStroke fun k =>
      { k with
        sent := true, nextVerdict := cs
        shortTallies := if short then sat32 k.shortTallies 1 else k.shortTallies }
    if short then s.log Code.tallyShort originCp 0xFF 0 0 else s
  else s

/-- Has the root combined nothing in this Stroke, as its closing band began while the CP was down (R463)? -/
def Stroke.unheard (k : Stroke) : Bool := k.closing && !k.formed

/-- The verdict field of a root's next mark: HOLD for every slot while its CP is down, and until it combines tallies
again (R48, R463; log entry 85). -/
def nextVerdicts (s : State) : List Nat :=
  if s.hamper.cpUp && !s.stroke.unheard then
    (if s.stroke.nextVerdict.isEmpty then List.replicate 8 0 else s.stroke.nextVerdict)
  else List.replicate 8 5

/-- MARK_ISSUE (R48): the root's Stroke timer enters the next mark. -/
def markIssue (s : State) : State :=
  let k := s.stroke
  if k.mode = 1#2 ∧ k.entered = none ∧ (k.cycle0 = none ∨ k.sent = true ∨ s.hamper.cpUp = false ∨ k.unheard = true) then
    let vs := nextVerdicts s
    let mk : Mark :=
      { number := k.mark + 1, double := vs.any (fun v => v == 2 || v == 4), verdict := packCodes vs
        period := k.period, root := k.rootId, resv := 0 }
    s.modStroke fun k => { k with entered := some mk, fwd := some (mk, s.now) }
  else s

/-- Is a mark foreign to the device's domain (R33)? -/
def Stroke.foreign (k : Stroke) (m : Mark) : Bool := k.mode == 2#2 && (m.period != k.period || m.root != k.rootId)

/-- Move every RUNNING context to HELD with hold cause 7 (R33, R55). -/
def holdDomain (s : State) : State :=
  forEach slots8 (fun c s =>
    if (s.slot c).st = .running then
      s.setCtx c fun x => { x with st := .held, holds := x.holds ||| holdBit 7, att := { x.att with on := false } }
    else s) s

/-- Report a foreign mark, once for the foreign marks that come until the next domain configuration (R33; log entry 84). -/
def reportForeign (s : State) : State :=
  if s.stroke.mismatch then s
  else (((s.modStroke fun k => { k with mismatch := true }).log Code.periodMismatch originCp 0xFF 0 0).postDev
    Code.periodMismatch 0)

/-- MARK_MISS (R55): the expected time has passed without a mark. -/
def markMiss (s : State) : State :=
  let k := s.stroke
  if k.mode = 2#2 ∧ k.cycle0.isSome = true ∧ k.rx = none ∧ k.entered = none ∧ k.domainLost = false then
    let n := k.missed.toNat + 1
    let s := s.modStroke fun k =>
      { k with missed := BitVec.ofNat 2 n, missedMarks := sat32 k.missedMarks 1 }
    if n < 3 then s
    else
      let s := s.log Code.markLoss originCp 0xFF 0 0
      let s := holdDomain s
      (s.modStroke fun k => { k with domainLost := true }).postDev Code.markLoss 0
  else s

/-! ### Verdicts -/

/-- Stop a slot: HELD and stopped, SAVED stays SAVED, an armed slot is disarmed (Table 2.5). -/
def stopSlot (c : Nat) (s : State) : State :=
  s.setCtx c fun x =>
    match x.st with
    | .empty => x
    | .saved => { x with stopped := true }
    | _ => { x with st := .held, stopped := true, armed := false }

/-- A rerun of the current index by REPLAY or REPLAY_LONG, or the hold of R52. -/
def rerun (c : Nat) (s : State) : State :=
  let x := s.slot c
  if x.att.reruns + 1 > s.stroke.replayLimit.toNat then
    let s := s.log Code.replayLimit originCp c 0 0
    let s := s.setCtx c fun x => { x with st := .held, holds := x.holds ||| holdBit 5 }
    s.postCtx c Code.replayLimit 0
  else s.modSlot c fun x =>
    { x with
      att := { x.att with reruns := x.att.reruns + 1 }
      stk := { x.stk with replays := sat32 x.stk.replays 1 } }

/-- MBX_FEED_DONE after a commit that makes `i` the index (R428). -/
def feedDoneAt (f : Feed) (i : Nat) : Nat := if f.first ≤ i then (i - f.first) / f.every else 0

/-- COMMIT of a RUNNING slot whose tally was OK: index, phase and halves (R45, R50, R223, R428). -/
def commitSlot (c : Nat) (s : State) : State :=
  let s := s.modSlot c fun x =>
    { x with
      stk := { x.stk with index := x.stk.index + 1 }
      att := { x.att with reruns := 0, committed := true }
      cur := x.next, next := .none
      acct := { x.acct with commits := sat32 x.acct.commits 1 } }
  match (s.slot c).feed with
  | some f => s.modMbx (1 + c) fun b =>
      { b with feedDone := BitVec.ofNat 32 (feedDoneAt f (s.slot c).stk.index.toNat) }
  | none => s

/-- Apply the verdict `v` of slot `c` (Table 2.5, R49 to R52). -/
def applyVerdict (c v : Nat) (s : State) : State :=
  let s := if v = 7 then s.modStroke fun k => { k with verdictFaults := sat32 k.verdictFaults 1 } else s
  let v := if v = 7 then 6 else v
  if (s.slot c).st = .empty then s
  else
    let s := s.modSlot c fun x => { x with stk := { x.stk with lastVerdict := BitVec.ofNat 3 v } }
    let x := s.slot c
    let run := decide (x.st = .running)
    match v with
    | 1 =>
      if !run then s
      else if x.att.sentCode = 1 ∧ s.stroke.tallyOut = true then commitSlot c s
      else
        let s := (s.log Code.markVerdict originCp c 0 0).modStroke
          fun k => { k with verdictFaults := sat32 k.verdictFaults 1 }
        (stopSlot c s).postCtx c Code.markVerdict 0
    | 2 =>
      if x.st = .held ∧ x.stopped = false ∧ x.holds = 0 then
        s.setCtx c fun x => { x with st := .running, att := { x.att with reruns := 0 } }
      else if run then s.modSlot c fun x => { x with att := { x.att with reruns := 0 } }
      else s
    | 3 => if run then rerun c s else s
    | 4 => if run then rerun c s else s
    | 5 => if run then s.setCtx c fun x => { x with st := .held } else s
    | 6 => stopSlot c s
    | _ => s

/-- Hold causes raised during the previous Stroke take effect (R424). -/
def takeHolds (c : Nat) (s : State) : State :=
  let x := s.slot c
  if x.st = .running ∧ x.holds ≠ 0 then s.setCtx c fun x => { x with st := .held } else s

/-- Batch that index `i` reads (R428). -/
def Feed.batch (f : Feed) (i : Nat) : Nat := (i - f.first) / f.every

/-- The batch of the slot's index has been posted, or none is needed (R428). -/
def feedReady (s : State) (c : Nat) : Bool :=
  let x := s.slot c
  match x.feed with
  | none => true
  | some f =>
    let i := x.stk.index.toNat
    decide (i < f.first) || decide (f.batch i < (s.mbx (1 + c)).feedPosted.toNat)

/-- FEED_CHECK (R428): set hold cause 9 on a slot about to run without its batch, clear it once posted. -/
def feedCheck (c : Nat) (s : State) : State :=
  let x := s.slot c
  let ok := feedReady s c
  if x.st = .running ∧ ok = false then
    s.setCtx c fun x => { x with st := .held, holds := x.holds ||| holdBit 9 }
  else if x.holds &&& holdBit 9 ≠ 0 ∧ ok = true then
    s.modSlot c fun x => { x with holds := x.holds &&& ~~~ holdBit 9 }
  else s

end Sys2Proof.Machine
end

