-- ==== Sys2Proof/Machine/GhlBase.lean ====
section
/-!
DEFINITION. Ports, packets and the records of class-4 commands, shared by the link and its commands (11_gelhesy_link).
-/

namespace Sys2Proof.Machine

def State.port (s : State) (p : Nat) : GPort := KV.get GPort.reset s.ghl.ports p
def State.modPort (s : State) (p : Nat) (f : GPort → GPort) : State :=
  { s with ghl := { s.ghl with ports := KV.upd GPort.reset s.ghl.ports p f } }
def State.modGhl (s : State) (f : Ghl → Ghl) : State := { s with ghl := f s.ghl }
def State.modCtxGhl (s : State) (c : Nat) (f : CtxGhl → CtxGhl) : State :=
  s.modSlot c fun x => { x with ghl := f x.ghl }
def State.myId (s : State) : Nat := s.ghl.deviceId.toNat

/-- All ports, and those of fitted I/O dies (R18). -/
def ports16 : List Nat := List.range 16
def State.ioFitted (s : State) (d : Nat) : Bool := decide (d < 4) && s.fuses.ioFitted.getLsbD d
def State.portFitted (s : State) (p : Nat) : Bool := s.ioFitted (p / 4)

/-- Does the port carry marks by its training state: ACTIVE, KEEPER or DEGRADED? -/
def GPort.trained (g : GPort) : Bool := g.st == .active || g.st == .keeper || g.st == .degraded

/-- GHL_PORT_STATUS.state (Table 11.17): QUARANTINE while either end is not admitted (R368), then LOST (R367). -/
def GPort.code (admitted : Bool) (g : GPort) : Nat :=
  if g.trained then
    if !admitted || !g.peerAdmitted then 10 else if g.lost then 9 else g.st.code
  else g.st.code

/-- The port is in ACTIVE, KEEPER or DEGRADED. -/
def State.portUp (s : State) (p : Nat) : Bool :=
  let n := (s.port p).code s.ghl.admitted
  n == 6 || n == 7 || n == 8

/-- Full mode: 256-byte flits; else short flits of 64 bytes (R345, R348). -/
def GPort.full (g : GPort) : Bool := g.st == .active || g.st == .calibrate

/-- States in which a direction carries flits (Table 11.4). -/
def GPort.carries (g : GPort) : Bool := g.st == .detect || g.st == .keeperUp || g.st == .calibrate || g.trained

/-! ### Packets -/

/-- Field of a packet. -/
def pnum (b : List Byte) (off n : Nat) : Nat := leNat ((b.drop off).take n)
def ptype (b : List Byte) : Nat := pnum b 0 1
def pdst (b : List Byte) : Nat := pnum b 2 2 % 2048
def psrc (b : List Byte) : Nat := pnum b 4 2 % 2048
def pslot (b : List Byte) : Nat := pnum b 6 1 % 8
def phops (b : List Byte) : Nat := pnum b 1 1 % 64

namespace Pkt
def null : Nat := 0
def mark : Nat := 1
def tally : Nat := 2
def write : Nat := 3
def receipt : Nat := 4
def reduce : Nat := 5
def mgmt : Nat := 6
def link : Nat := 7
end Pkt

/-- Virtual channel of a non-priority packet (Table 11.3). -/
def pvc (t : Nat) : Nat := if t = Pkt.write then 0 else if t = Pkt.reduce then 1 else if t = Pkt.receipt then 2 else 3

/-- Slots of a non-priority packet by its header (Table 11.3). -/
def pslots (b : List Byte) : Nat := if ptype b = Pkt.receipt then 1 else 2 + pnum b 29 1 % 16

/-- Pad to whole slots of 32 bytes. -/
def padSlots (b : List Byte) : List Byte := b ++ List.replicate ((32 - b.length % 32) % 32) 0

/-- Slots of a packet as a list. -/
def slotsOf : Nat → List Byte → List (List Byte)
  | 0, _ => []
  | n + 1, b => b.take 32 :: slotsOf n (b.drop 32)

/-- Header of a routed packet, bytes 0 to 6 (R347). -/
def routedHead (type hops flags dst src slot : Nat) : List Byte :=
  leBytes 1 type ++ leBytes 1 (hops + flags) ++ leBytes 2 dst ++ leBytes 2 src ++ leBytes 1 slot

/-- Bytes 7 to 31 of a WRITE or REDUCE header slot (Table 11.11). -/
def dataHead (what : Nat) (mark : W48) (index : Nat) (epoch : W32) (off n tag : Nat) : List Byte :=
  leBytes 1 what ++ leBytes 6 mark.toNat ++ leBytes 6 index ++ leBytes 4 epoch.toNat ++ leBytes 5 off ++
    leBytes 1 (n - 1) ++ leBytes 2 tag

/-- A RECEIPT packet (R373). -/
def receiptPkt (src dst slot outcome tag count : Nat) (mark : Nat) (reduction : Bool) (tree : Nat) : List Byte :=
  routedHead Pkt.receipt 63 0 dst src slot ++ leBytes 1 outcome ++ leBytes 2 tag ++ leBytes 2 count ++
    leBytes 6 mark ++ leBytes 1 reduction.toNat ++ leBytes 1 tree ++ List.replicate 12 0

/-- The LOST receipt that a device `me` returns for a packet (R373). -/
def lostReceipt (me : Nat) (b : List Byte) : List Byte :=
  let red := ptype b == Pkt.reduce
  receiptPkt me (psrc b) (pslot b) 4 (pnum b 30 2) 1 (pnum b 8 6) red (if red then pnum b 7 1 else 0)

/-! ### Queues of a port -/

/-- Queue a packet for the source of its type (R357). -/
def GPort.push (b : List Byte) (g : GPort) : GPort :=
  let q : TxPkt := ⟨g.txNum, b⟩
  let g := { g with txNum := g.txNum + 1 }
  if ptype b = Pkt.receipt then { g with receipts := g.receipts ++ [q] }
  else if ptype b = Pkt.reduce then { g with reduces := g.reduces ++ [q] }
  else if ptype b = Pkt.write then { g with writes := g.writes ++ [q] }
  else { g with mgmts := g.mgmts ++ [q] }

/-- May a packet of a type be queued for a port with a state code (R348, R367, R368)? -/
def carriesType (code type : Nat) : Bool :=
  if type = Pkt.mgmt then decide (6 ≤ code) && decide (code ≤ 10) else code == 6

/-- Outcome of giving a packet to its route (R358, R359, R367). -/
inductive Routed where
  /-- This device consumes it. -/
  | here
  /-- No valid entry. -/
  | noRoute
  /-- The port cannot carry it. -/
  | noPort
  | port (p : Nat)
  deriving DecidableEq, Repr

def routeOf (s : State) (b : List Byte) : Routed :=
  if pdst b = s.myId ∧ s.ghl.valid = true then .here
  else
    let r := KV.get Route.none s.ghl.routes (pdst b)
    if r.valid = false then .noRoute
    else if r.here then .here
    else if carriesType ((s.port r.port.toNat).code s.ghl.admitted) (ptype b) && s.portFitted r.port.toNat then
      .port r.port.toNat
    else .noPort

/-- A packet dropped for want of a route or hops (R359). -/
def countNoRoute (b : List Byte) (s : State) : State :=
  let s := s.modGhl fun g => { g with hopLimit := sat32 g.hopLimit 1 }
  if ptype b = Pkt.receipt then s else s.log Code.ghlRoute originHw (pslot b) 0 0

/-! ### Class-4 commands -/

/-- Packets of an XFER (R371). -/
def GhlAct.packets (a : GhlAct) : Nat := (a.bytes + 511) / 512

/-- Bytes of its packets `[i, j)`. -/
def GhlAct.span (a : GhlAct) (i j : Nat) : Nat := min a.bytes (512 * j) - min a.bytes (512 * i)

/-- The completion record of Table 11.13. -/
def GhlAct.record (a : GhlAct) (count status : Nat) (aborted : Bool) : List Byte :=
  leBytes 4 a.seq.toNat ++ leBytes 2 status ++ leBytes 1 (aborted.toNat + 2 * (decide (0 < a.refused)).toNat) ++
    leBytes 1 0 ++ leBytes 4 (if a.kind = 1 then count else a.done) ++
    leBytes 2 (min a.refused 65535) ++ leBytes 2 (min a.waited 65535)

def GhlAct.same (a b : GhlAct) : Bool := a.inst == b.inst && a.k == b.k

def State.act? (s : State) (c inst k : Nat) : Option GhlAct :=
  (s.slot c).ghl.acts.find? (fun a => a.inst == inst && a.k == k)

def State.modAct (s : State) (c : Nat) (a : GhlAct) (f : GhlAct → GhlAct) : State :=
  s.modCtxGhl c fun g => { g with acts := g.acts.map fun b => if b.same a then f b else b }

/-- Is a queued packet one of the context's own transfers or reductions? -/
def ownPkt (me c : Nat) (b : List Byte) : Bool :=
  psrc b == me && pslot b == c && (ptype b == Pkt.write || ptype b == Pkt.reduce)

/-- Take queued packets that have not begun out of every port. -/
def dropQueued (p : List Byte → Bool) (s : State) : State :=
  let keep := fun (q : TxPkt) => !p q.bytes
  s.modGhl fun g =>
    { g with ports := g.ports.map fun e =>
        (e.1, { e.2 with writes := e.2.writes.filter keep, reduces := e.2.reduces.filter keep }) }

/-- End a command: its record is written; one that a fault ends sends no further packet (R373, R375). -/
def endAct (c : Nat) (a : GhlAct) (status : Nat) (aborted : Bool) (s : State) : State :=
  let a := (s.act? c a.inst a.k).getD a
  let s := s.complete c 4 a.inst a.k (a.record (KV.get 0 (s.slot c).ghl.counts a.window) status aborted)
  let s := s.modCtxGhl c fun g => { g with acts := g.acts.filter fun b => !b.same a }
  if a.kind = 1 ∨ status = 0 then s
  else
    let me := s.myId
    dropQueued (fun b => ownPkt me c b && ptype b == (if a.kind = 0 then Pkt.write else Pkt.reduce) &&
      pnum b 30 2 == a.tag && (a.kind == 0 || pnum b 7 1 == a.tree)) s

/-- Abort the class-4 commands of a context (R40, R54). -/
def abortGhl (status : Nat) (c : Nat) (s : State) : State :=
  forEach (s.slot c).ghl.acts (fun a s => endAct c a status true s) s

end Sys2Proof.Machine
end

