-- ==== Sys2Proof/Machine/MangleAbort.lean ====
section
/-!
DEFINITION. The Mangle's current level (R102 to R106), its completion record (R92), its drains' hold request (R88), and
the abort of an operation (R91).
-/

namespace Sys2Proof.Machine

def State.modMgl (s : State) (f : Mgl → Mgl) : State := { s with mgl := f s.mgl }
def State.modCtr (s : State) (f : MglCtr → MglCtr) : State := s.modMgl fun m => { m with ctr := f m.ctr }

/-- Change the operation of slot `c`, command `k`. -/
def State.modOp (s : State) (c k : Nat) (f : MglOp → MglOp) : State :=
  s.modMgl fun m => { m with ops := m.ops.map fun o => if o.slot = c ∧ o.k = k then f o else o }

/-! ### The current level -/

def Level.steps (v : Level) (now : Nat) : Nat :=
  if now < v.t0 then 0 else min ((v.hi - v.lo) + (v.lo - v.hi)) (1 + (now - v.t0) / 192)

/-- The level in a cycle (R102); `lo` is where the motion starts, `hi` where it ends. Its steps follow the clock, in
frozen cycles too (log entry 87). -/
def Level.val (v : Level) (now : Nat) : Nat :=
  if v.lo ≤ v.hi then v.lo + v.steps now else v.lo - v.steps now

/-- The first cycle in which the next step may fall: 192 cycles after the last change, or now. -/
def Level.next (v : Level) (now : Nat) : Nat :=
  if v.lo = v.hi then max now (v.t0 + 192)
  else if now < v.t0 then v.t0
  else max now (v.t0 + 192 * v.steps now)

/-- Core cycle at which the range of a command begins, and at which it ends (R39, R41). -/
def rangeStart (s : State) (x : Ctx) (cls r : Nat) : Nat :=
  let a := match (rangesOf x.panels cls)[r]? with
    | some p => 64 * p.start
    | none => 0
  s.stroke.cycle0.getD 0 + (if s.stroke.double then 2 * a else a)
where
  /-- Ranges of a class, in panel-table order (Table 7.8). -/
  rangesOf (ps : List PanelRange) (cls : Nat) : List PanelRange := ps.filter (fun p => p.cls == cls)

def rangeEnd (s : State) (x : Ctx) (cls r : Nat) : Nat :=
  let b := match (x.panels.filter (fun p => p.cls == cls))[r]? with
    | some p => 64 * p.stop
    | none => 0
  s.stroke.cycle0.getD 0 + (if s.stroke.double then 2 * b else b)

/-- Is the next Mangle command of the context due by cycle `t` (R105)? -/
def mglReady (s : State) (c t : Nat) : Bool :=
  let x := s.slot c
  match x.nextCmd 0 0 with
  | some q => x.mayStart t 0 q
  | none => false

/-- The falling guard (R105): with no operation ready the level falls by itself. -/
def fallGuard (s : State) : State :=
  let v := s.mgl.level
  if v.val s.now = 0 ∨ v.hi = 0 then s
  else
    (s.modMgl fun m => { m with level := ⟨v.val s.now, 0, v.next s.now⟩ }).modCtr
      fun k => { k with slewDown := sat32 k.slewDown 1 }

/-- The injectors are free: with no operation ready the level falls (R105). -/
def mglIdle (s : State) : State :=
  if s.mgl.ops.any (fun o => decide (o.stage ≠ .done)) ∨ slots8.any (fun c => mglReady s c s.now) = true then s
  else fallGuard s

/-! ### The hold request -/

/-- Do the drains hold or wait for a row (R88)? -/
def Mgl.holding (m : Mgl) : Bool := m.buf.any (fun e => !e.2.isEmpty) || !m.dWait.isEmpty

/-- The request follows the drains; each rise and each drop is answered 24 cycles later (R88). -/
def settleHold (s : State) : State :=
  s.modMgl fun m =>
    if m.holding && !m.request then
      { m with request := true, freezeDue := m.freezeDue + 1, holder := (m.ops.head?.map (·.slot)).getD m.holder }
    else if !m.holding && m.request then { m with request := false, resumeDue := m.resumeDue + 1 }
    else m

/-! ### Records and aborts -/

/-- Vectors of the operation, 0 for a DUMMY, a RAMP and a no-op. -/
def MglOp.total (o : MglOp) : Nat := if o.d.opcode = 0 ∧ o.d.n ≠ 0 then o.d.m else 0

def MglOp.noop (o : MglOp) : Bool := o.d.opcode == 0 && (o.d.m == 0 || o.d.n == 0)
def MglOp.kZero (o : MglOp) : Bool := o.d.opcode == 0 && !o.noop && o.d.k == 0

/-- The completion record of Table 3.8. -/
def MglOp.record (o : MglOp) (status : Nat) (aborted : Bool) : List Byte :=
  let done := if aborted then KV.get 0 o.drained 3 else o.total
  let flags := o.compared.toNat + 2 * aborted.toNat + 4 * o.kZero.toNat + 8 * o.noop.toNat + 16 * o.padded.toNat
  leBytes 4 o.d.seqTag.toNat ++ leBytes 2 status ++ leBytes 1 flags ++ leBytes 1 0 ++ leBytes 4 done ++
    leBytes 2 (min o.bubbles 65535) ++ leBytes 2 (min o.holds 65535)

/-- Raise the abort of one operation: the injectors read nothing further (R91). -/
def abortOp (status : Nat) (o : MglOp) (s : State) : State :=
  if o.abort.isSome then s
  else
    let s := s.modOp o.slot o.k fun o => { o with abort := some status, stage := .done }
    let s := s.modCtr fun k => { k with aborts := sat32 k.aborts 1 }
    if o.stage = .done then s else fallGuard s

/-- Abort every Mangle operation of a context. -/
def abortMangle (status : Nat) (c : Nat) (s : State) : State :=
  forEach (s.mgl.ops.filter (fun o => o.slot == c)) (abortOp status) s

/-- The abort signal reaches the drains: every aborted operation ends with its record, and its rows leave the holding
buffers (R91, R92). -/
def drainAbort (s : State) : State :=
  let dead := s.mgl.ops.filter (fun o => o.abort.isSome)
  let s := forEach dead (fun o s => s.complete o.slot 0 0 o.k (o.record (o.abort.getD 0) true)) s
  let gone := fun (h : HoldRow) => dead.any (fun o => o.slot == h.slot && o.k == h.k)
  settleHold (s.modMgl fun m =>
    { m with
      ops := m.ops.filter (fun o => o.abort.isNone)
      buf := (m.buf.map (fun e => (e.1, e.2.filter (fun h => !gone h)))).filter (fun e => !e.2.isEmpty)
      dWait := if dead.isEmpty then m.dWait else [] })

end Sys2Proof.Machine
end

