-- ==== Sys2Proof/Machine/Lines.lean ====
section
/-!
DEFINITION. Rows of the Tubs, poison and check outcomes (R176, R201 to R203), and Lines: naming, setup, pegs, reads,
writes, reservations, resets and the state kept across Stroke attempts (R185 to R197).
-/

namespace Sys2Proof.Machine

/-- Physical tile of a logical tile (R69): `136 × die + 8 × physical row + column within the die`. -/
def State.physTile (s : State) (t : Tile) : Nat :=
  let d := t.die.val
  let b := KV.get 16 s.bypass d
  let p := if t.row.val < b then t.row.val else t.row.val + 1
  136 * d + 8 * p + t.col.val % 8

/-- Logical tile (j, c), indices reduced to their ranges. -/
def tileOf (j c : Nat) : Tile := ⟨Fin.ofNat 16 j, Fin.ofNat 32 c⟩

/-- Number of a row among all physical tiles. -/
def rowKey (pt bank row : Nat) : Nat := (16 * pt + bank) * 256 + row

def State.rdRow (s : State) (k : Nat) : Row := BitVec.ofNat 4096 (leNat (KV.getList 0 s.tubMem (512 * k) 512))

/-- Bytes of a row. -/
def rowBytes (r : Row) : List Byte := leBytes 512 r.toNat
/-- A row from bytes; missing bytes are zero. -/
def rowOf (bs : List Byte) : Row := BitVec.ofNat 4096 (leNat bs)

/-- Row block of a row key: 16 rows of the same block number in every bank and tile (R198). -/
def blockOf (k : Nat) : Nat := (k % 256) / 16

/-- Is word `w` of row `k` poisoned? -/
def Tub.poisoned (u : Tub) (k w : Nat) : Bool :=
  (NSet.mem u.poisonBlocks (blockOf k)) != (NSet.mem u.poisonExc (8 * k + w))

/-- Set the poison bit of a word. -/
def Tub.setPoison (u : Tub) (k w : Nat) (b : Bool) : Tub :=
  { u with poisonExc := NSet.put u.poisonExc (8 * k + w) (b != NSet.mem u.poisonBlocks (blockOf k)) }

def words8 : List Nat := [0, 1, 2, 3, 4, 5, 6, 7]

/-- Unit word of a Tub word (Table 14.2, kind 2). -/
def tubUnit (k w : Nat) : W32 :=
  let row := k % 256
  let bank := (k / 256) % 16
  let pt := k / 4096
  BitVec.ofNat 32 (2 + 16 * (pt / 136) + 256 * ((pt % 136) / 8) + 8192 * (pt % 8) + 65536 * bank + 2097152 * row
    + 536870912 * w)

/-- TUB_ERR_LAST for a word and its finder (Table 6.6). -/
def errLastWord (k w finder : Nat) : W32 :=
  let row := k % 256
  let bank := (k / 256) % 16
  let pt := k / 4096
  BitVec.ofNat 32 (pt / 136 + 4 * ((pt % 136) / 8) + 128 * (pt % 8) + 1024 * bank + 16384 * row + 4194304 * w
    + 33554432 * finder + 134217728)

/-- Check word `w` of row `k` on a read (R201): correct and queue, or poison, record and log. -/
def checkWord (k finder w : Nat) (s : State) : State :=
  let u := s.tub
  match KV.get 0 u.errs (8 * k + w) with
  | 0 => s
  | 1 =>
    let item : RinseItem := ⟨k / 4096, (k / 256) % 16, k % 256⟩
    let s := { s with tub :=
      { u with ce := sat32 u.ce 1, rinseQ := if u.rinseQ.elem item then u.rinseQ else u.rinseQ ++ [item] } }
    let s := s.note (evKey 16 (8 * k + w))
    if 4 ≤ s.mp.recent (evKey 16 (8 * k + w)) s.now day then s.trigger 2 (tubUnit k w) else s
  | _ =>
    let u := u.setPoison k w true
    let s := { s with tub :=
      { u with ue := sat32 u.ue 1, errLast := errLastWord k w finder, errs := KV.set 0 u.errs (8 * k + w) 0 } }
    (s.log Code.tubUe originHw 0xFF (tubUnit k w) 0).trigger 2 (tubUnit k w)

/-- Check every word of a row on a read. -/
def checkRow (k finder : Nat) (s : State) : State := forEach words8 (checkWord k finder) s

/-- A port writes the row: a pending write-back is cancelled (R204). -/
def Tub.dropRinse (u : Tub) (k : Nat) : Tub :=
  let item : RinseItem := ⟨k / 4096, (k / 256) % 16, k % 256⟩
  if u.rinseQ.elem item then
    { u with rinseQ := u.rinseQ.filter (fun i => i != item), rinseDropped := sat32 u.rinseDropped 1 }
  else u

/-- A wide write: the row's bytes, fresh check bytes, poison cleared, a pending write-back cancelled
(R202, R204). -/
def State.wrRow (s : State) (k : Nat) (r : Row) : State :=
  let u := words8.foldl (fun (u : Tub) w =>
    { u.setPoison k w false with errs := KV.set 0 u.errs (8 * k + w) 0 }) s.tub
  { s with tubMem := KV.setList 0 s.tubMem (512 * k) (rowBytes r), tub := u.dropRinse k }

/-- A wide read by a party: the row, or `none` for a poisoned word (R202). -/
def readRow (s : State) (k : Nat) : Option Row × State :=
  let s := checkRow k 0 s
  if words8.any (fun w => s.tub.poisoned k w) then
    (none, { s with tub := { s.tub with poisonReads := sat32 s.tub.poisonReads 1 } })
  else (some (s.rdRow k), s)

/-! ### Arbitration -/

/-- nonconf_fault (R59). -/
def JobHdr.nonconf (h : JobHdr) : Bool := h.flags % 2 == 1

/-- A Line stall or an arbitration loss while the image sets nonconf_fault (R59). -/
def nonconf (s : State) (c : Nat) : Bool :=
  match (s.slot c).img with
  | some h => h.nonconf
  | none => false

/-- The port of a party (Table 6.1): drain, north feeder, stream, narrow view. -/
def portOf (party : Nat) : Nat :=
  match party with
  | 0 | 1 => 0
  | 2 => 1
  | 7 => 3
  | _ => 2

/-- Rank of a party's request for a bank (Table 6.2), the lowest first. -/
def rankOf (party : Nat) : Nat :=
  match party with
  | 0 | 1 => 1
  | 2 => 2
  | 4 => 3
  | 3 => 4
  | 7 => 5
  | 6 => 6
  | _ => 7

/-- The paced parties of Table 6.1. -/
def pacedParty (party : Nat) : Bool := party == 5 || party == 6

/-- Do two accesses of one cycle contend (R57, R179 to R181): for one bank through different ports, or through the stream
port when one of them at least is scheduled? -/
def Ask.meets (a b : Ask) : Bool :=
  a.tile == b.tile && a.party != b.party && !(pacedParty a.party && pacedParty b.party) &&
    (if portOf a.party = portOf b.party then portOf a.party == 2 else a.bank == b.bank)

/-- A party loses the cycle: counted for its context, or as a yield of a paced party (R57, R59, R181). -/
def State.lose (a : Ask) (s : State) : State :=
  if pacedParty a.party then { s with tub := { s.tub with pacedYields := sat32 s.tub.pacedYields 1 } }
  else
    let s := s.modSlot a.slot fun x => { x with stk := { x.stk with arbLoss := sat32 x.stk.arbLoss 1 } }
    if nonconf s a.slot then { s with tub := { s.tub with losses := s.tub.losses ++ [a] } } else s

/-- An access to a bank: of those that contend in one cycle every one but the highest loses it, once (R57, R180, R181). -/
def State.ask (a : Ask) (s : State) : State :=
  let old := if s.tub.asksAt = s.now then s.tub.asks else []
  let above := old.any fun b => a.meets b && decide (rankOf b.party < rankOf a.party)
  let beaten := fun (b : Ask) => a.meets b && !b.lost && decide (rankOf a.party < rankOf b.party)
  let t := { s with tub := { s.tub with
    asksAt := s.now
    asks := { a with lost := above } :: old.map fun b => if beaten b then { b with lost := true } else b } }
  let t := forEach (old.filter beaten) State.lose t
  if above then t.lose a else t

/-! ### Lines -/

def State.line (s : State) (key : Nat) : LineRec := KV.get LineRec.unset s.tub.lines key
def State.modLine (s : State) (key : Nat) (f : LineRec → LineRec) : State :=
  { s with tub := { s.tub with lines := KV.upd LineRec.unset s.tub.lines key f } }

def State.part (s : State) (c : Nat) : TubPart := KV.get TubPart.none s.tub.parts c

/-- Key of context Line `l` of slot `c` in logical tile `t`, when the number lies in the partition (R185). -/
def lineKey? (s : State) (c : Nat) (t : Tile) (l : Nat) : Option Nat :=
  let p := s.part c
  if l < p.lineCount.toNat then some (16 * s.physTile t + p.lineBase.toNat + l) else none

/-- The access of a party to slot `i` of a Line. -/
def LineCfg.ask (g : LineCfg) (c : Nat) (t : Tile) (l party i : Nat) : Ask :=
  ⟨t, g.bankFirst + i % g.banks, party, c, l, false⟩

/-- Row key of slot `i` of a Line (R188, R198). -/
def slotRow (s : State) (c : Nat) (t : Tile) (g : LineCfg) (i : Nat) : Nat :=
  rowKey (s.physTile t) (g.bankFirst + i % g.banks) (16 * (s.part c).rowBase.toNat + g.rowFirst + i / g.banks)

def LineRec.occ (r : LineRec) (g : LineCfg) : Nat :=
  if g.fixed then r.tail else (r.tail + 2 * g.size - r.head) % (2 * g.size)

/-- Is slot H held (R190, R192)? -/
def LineRec.heldHead (r : LineRec) (g : LineCfg) : Bool :=
  if g.fixed then decide (r.head < r.tail) else decide (0 < r.occ g)

/-- Advance T over every consecutive filled slot, at most `n` of them (R191). -/
def LineRec.fillUp (g : LineCfg) : Nat → LineRec → LineRec
  | 0, r => r
  | n + 1, r =>
    let room := if g.fixed then decide (r.tail < g.size) else decide (r.occ g < g.size)
    if room && NSet.mem r.fill (r.tail % g.size) then
      LineRec.fillUp g n { r with tail := if g.fixed then r.tail + 1 else (r.tail + 1) % (2 * g.size) }
    else r

/-- Set the fill bit of slot `i` and advance the tail peg. -/
def LineRec.filled (g : LineCfg) (i : Nat) (r : LineRec) : LineRec :=
  LineRec.fillUp g g.size { r with fill := NSet.add r.fill i }

/-- The Line a party names: its key and fields, or the fault of R185 or R189. -/
def lineFor (s : State) (c : Nat) (t : Tile) (l : Nat) (party : Nat) (write : Bool) : Except Nat (Nat × LineCfg) :=
  match lineKey? s c t l with
  | none => .error Code.lineUnset
  | some k =>
    match (s.line k).cfg with
    | none => .error Code.lineUnset
    | some g =>
      if (if write then g.writer else g.reader) ≠ party then .error Code.linePort else .ok (k, g)

/-- What an access to a Line comes to. -/
inductive LineAcc where
  /-- It proceeded; a read's row. -/
  | done (row : Row)
  /-- It waits (R196). -/
  | stall
  /-- It raised a fault (R185, R189, R192, R202, R259). -/
  | fault (code : Nat)
  deriving DecidableEq, Repr

/-- A party and its operation: the identity of `opId`. -/
structure User where
  party : Nat
  op : Nat
  deriving DecidableEq, Repr

/-- Identity of a context's operation: class, instance (the tile for a vector instruction) and number. -/
def opId (cls inst k : Nat) : Nat := k * 4096 + cls * 512 + inst

/-- May the operation access the Line: it started before every setup and reset that waits (R193)? -/
def LineRec.passes (r : LineRec) (u : User) : Bool := r.pend.all (fun p => p.before.elem u.op)

/-- One waiting cycle of a party on a Line (R196). -/
def stallOn (s : State) (c key party : Nat) : State :=
  let s := s.modLine key fun r => { r with wait := KV.upd 0 r.wait party (· + 1) }
  s.modSlot c fun x => { x with stk := { x.stk with stallCycles := sat32 x.stk.stallCycles 1 } }

def endWait (s : State) (key party : Nat) : State :=
  s.modLine key fun r => { r with wait := KV.set 0 r.wait party 0 }

/-- A party reads a slot whose fault bit is set (R259, R261): the event is counted, the first one of the Stroke is
kept for STR_CTX_FAULT, and the task that filled the slot ends with it. -/
def faultRead (c : Nat) (f : FaultBit) (s : State) : State :=
  let s := { s with
    str := { s.str with pageFaults := sat32 s.str.pageFaults 1 }
    tasks := s.tasks.map fun (t : StrTask) =>
      if t.slot = c ∧ t.engine = f.engine ∧ t.k = f.cmd then { t with consumed := true } else t }
  s.modSlot c fun x =>
    { x with att := x.att.failed (CtxFault.of f.va false f.engine f.tag false) }

/-- The Line whose waiting setup or reset holds the operation off (R193). -/
def heldOff (s : State) (c : Nat) (t : Tile) (l : Nat) (u : User) : Option Nat :=
  match lineKey? s c t l with
  | some k => if (s.line k).passes u then none else some k
  | none => none

/-- Read the next row of a Line; `adv` false leaves the head peg (R190, R192, R196, R259). -/
def lineRead (s : State) (c : Nat) (t : Tile) (l : Nat) (u : User) (adv : Bool) : LineAcc × State :=
  match heldOff s c t l u with
  | some k => (.stall, stallOn s c k u.party)
  | none =>
  match lineFor s c t l u.party false with
  | .error e => (.fault e, s)
  | .ok (k, g) =>
    let r := s.line k
    if g.fixed = true ∧ g.size ≤ r.head then (.fault Code.lineBounds, s)
    else if r.heldHead g = false then (.stall, stallOn s c k u.party)
    else
      let s := endWait s k u.party
      let i := r.head % g.size
      match KV.find? r.fault i with
      | some f => (.fault Code.strPageFault, (faultRead c f s).modLine k fun r =>
          { r with fill := if g.fixed then r.fill else NSet.del r.fill i })
      | none =>
        match readRow (s.ask (g.ask c t l u.party i)) (slotRow s c t g i) with
        | (none, s) => (.fault Code.tubPoison, s)
        | (some row, s) =>
          if adv then
            (.done row, s.modLine k fun r =>
              { r with
                head := if g.fixed then r.head + 1 else (r.head + 1) % (2 * g.size)
                seen := if g.fixed then max r.seen (r.head + 1) else r.seen
                fill := if g.fixed then r.fill else NSet.del r.fill i })
          else (.done row, s)

/-- Write the next row of a Line as a scheduled party (R191, R192, R196). -/
def lineWrite (s : State) (c : Nat) (t : Tile) (l : Nat) (u : User) (row : Row) : LineAcc × State :=
  match heldOff s c t l u with
  | some k => (.stall, stallOn s c k u.party)
  | none =>
  match lineFor s c t l u.party true with
  | .error e => (.fault e, s)
  | .ok (k, g) =>
    let r := s.line k
    if g.fixed = true ∧ g.size ≤ r.tail then (.fault Code.lineBounds, s)
    else if g.fixed = false ∧ g.size ≤ r.occ g then (.stall, stallOn s c k u.party)
    else
      let s := endWait s k u.party
      let i := r.tail % g.size
      let s := s.ask (g.ask c t l u.party i)
      let s := s.wrRow (slotRow s c t g i) row
      (.done row, s.modLine k fun r =>
        let r := LineRec.filled g i r
        { r with resv := r.tail })

/-- Are the next `n` rows of a Line held for a reader? With the key, or the fault (R79, R189, R192). -/
def lineHolds (s : State) (c : Nat) (t : Tile) (l : Nat) (u : User) (n : Nat) : Except Nat (Nat × Bool) :=
  match heldOff s c t l u with
  | some k => .ok (k, false)
  | none =>
  match lineFor s c t l u.party false with
  | .error e => .error e
  | .ok (k, g) =>
    let r := s.line k
    if g.fixed = true ∧ g.size < r.head + n then .error Code.lineBounds
    else .ok (k, (if g.fixed then decide (r.head + n ≤ r.tail) else decide (n ≤ r.occ g)))

/-- Which of several rows are not held: the keys of those Lines, or the first fault. -/
def probe (s : State) (c : Nat) (u : User) : List (Tile × Nat × Nat) → Except Nat (List Nat)
  | [] => .ok []
  | (t, l, n) :: js =>
    match lineHolds s c t l u n with
    | .error e => .error e
    | .ok (k, b) =>
      match probe s c u js with
      | .error e => .error e
      | .ok ks => .ok (if b then ks else k :: ks)

/-- Take the next `n` rows of a Line that holds them, oldest first. -/
def takeRows (s : State) (c : Nat) (t : Tile) (l : Nat) (u : User) : Nat → Except Nat (List Row) × State
  | 0 => (.ok [], s)
  | n + 1 =>
    match takeRows s c t l u n with
    | (.error e, s) => (.error e, s)
    | (.ok rs, s) =>
      match lineRead s c t l u true with
      | (.done r, s) => (.ok (rs ++ [r]), s)
      | (.fault e, s) => (.error e, s)
      | (.stall, s) => (.ok rs, s)

/-- Take rows of several Lines, listed from key `16 × k` on. -/
def takeAll (c : Nat) (u : User) : List (Nat × Tile × Nat × Nat) → State → Except Nat (KV Row) × State
  | [], s => (.ok [], s)
  | (k, t, l, n) :: js, s =>
    match takeRows s c t l u n with
    | (.error e, s) => (.error e, s)
    | (.ok rs, s) =>
      match takeAll c u js s with
      | (.error e, s) => (.error e, s)
      | (.ok m, s) => (.ok (KV.setList 0 m (16 * k) rs), s)

/-- Add waiting cycles of a party on a Line (R196). -/
def addWait (party n : Nat) (key : Nat) (s : State) : State :=
  s.modLine key fun r => { r with wait := KV.upd 0 r.wait party (· + n) }

/-- Stalled cycles of a context (R196). -/
def addStall (c n : Nat) (s : State) : State :=
  s.modSlot c fun x => { x with stk := { x.stk with stallCycles := sat32 x.stk.stallCycles n } }

/-- Can a writer's row go to the Line now? With its key, or the fault. -/
def lineTakes (s : State) (c : Nat) (t : Tile) (l : Nat) (u : User) : Except Nat (Nat × Bool) :=
  match heldOff s c t l u with
  | some k => .ok (k, false)
  | none =>
  match lineFor s c t l u.party true with
  | .error e => .error e
  | .ok (k, g) =>
    let r := s.line k
    if g.fixed = true ∧ g.size ≤ r.tail then .error Code.lineBounds
    else .ok (k, (g.fixed || decide (r.occ g < g.size)))

/-- Credit of a Line for a paced writer (R250). -/
def LineRec.credit (r : LineRec) (g : LineCfg) : Nat :=
  if g.fixed then g.size - r.resv else g.size - (r.resv + 2 * g.size - r.head) % (2 * g.size)

/-- Reserve the next peg (R250). -/
def LineRec.reserve (g : LineCfg) (r : LineRec) : LineRec :=
  { r with resv := if g.fixed then r.resv + 1 else (r.resv + 1) % (2 * g.size) }

/-! ### Setup and reset -/

/-- The reader side of Table 6.3: fields of a setup record. -/
def lineCfgOf (w : W64) : LineCfg :=
  let n := w.toNat
  { fixed := bitsOf n 0 0 == 1, writer := bitsOf n 3 1, reader := bitsOf n 6 4, bankFirst := bitsOf n 11 8
    banks := bitsOf n 15 12 + 1, rowFirst := bitsOf n 23 16, rows := bitsOf n 31 24 + 1, slack := bitsOf n 51 32 }

/-- Do the rows of two Lines overlap? -/
def LineCfg.overlaps (a b : LineCfg) : Bool :=
  decide (a.bankFirst < b.bankFirst + b.banks) && decide (b.bankFirst < a.bankFirst + a.banks) &&
  decide (a.rowFirst < b.rowFirst + b.rows) && decide (b.rowFirst < a.rowFirst + a.rows)

/-- Is the record of R187 acceptable for context Line `l` of slot `c` in tile `t`? -/
def setupOk (s : State) (c : Nat) (t : Tile) (l : Nat) (w : W64) : Bool :=
  let g := lineCfgOf w
  let p := s.part c
  let others := (List.range p.lineCount.toNat).filter (fun i => i != l)
  bitsOf w.toNat 7 7 == 0 && bitsOf w.toNat 63 52 == 0 && decide (g.bankFirst + g.banks ≤ 16) &&
  decide (g.rowFirst + g.rows ≤ 16 * p.rowBlocks.toNat) && g.writer != 2 && g.reader != 1 &&
  others.all (fun i =>
    match lineKey? s c t i with
    | some k =>
      match (s.line k).cfg with
      | some o => !o.overlaps g
      | none => true
    | none => true)

/-- Count the filled slots that are dropped unread, all but those of `kept` (R253). A fixed Line keeps the fill bits of the
slots that have been read. -/
def countDropped (r : LineRec) (kept : NSet) (s : State) : State :=
  match r.cfg with
  | some g =>
    let gone := r.fill.filter fun i => !NSet.mem kept i && (!g.fixed || decide (r.seen ≤ i))
    let faults := gone.filter (fun i => (KV.find? r.fault i).isSome)
    { s with str :=
      { s.str with
        discardBytes := sat32 s.str.discardBytes (gone.length - faults.length)
        poisonDropped := sat32 s.str.poisonDropped faults.length } }
  | none => s

/-- The oldest waiting setup or reset takes effect: pegs to 0, fill and fault bits cleared, generation plus one; a setup
loads its fields (R193, R259). A wait of an access that it held off goes on (R196). -/
def applyPend (key : Nat) (s : State) : State :=
  let r := s.line key
  match r.pend with
  | [] => s
  | p :: ps =>
    let s := countDropped r [] s
    s.modLine key fun r =>
      { r with
        cfg := match p.cfg with
          | some g => some g
          | none => r.cfg
        head := 0, tail := 0, resv := 0, fill := [], fault := [], seen := 0, gen := r.gen + 1, pend := ps }

/-- Every waiting setup and reset takes effect. -/
def applyAll (key : Nat) (s : State) : State := forEach (s.line key).pend (fun _ s => applyPend key s) s

/-- A reading operation starts: a fixed Line it reads starts at slot 0 (R192). -/
def startRead (c : Nat) (t : Tile) (l party : Nat) (s : State) : State :=
  match lineFor s c t l party false with
  | .ok (key, g) => if g.fixed then s.modLine key fun r => { r with head := 0 } else s
  | .error _ => s

/-- The cycle-0 reset of a stream Line (R194): as a reset, the generation unchanged. -/
def strokeReset (key : Nat) (s : State) : State :=
  let r := s.line key
  match r.cfg with
  | none => s.modLine key fun r => { r with pend := [], wait := [] }
  | some g =>
    if g.fixed then s.modLine key fun r => { r with head := 0, wait := [], pend := [] }
    else (countDropped r [] s).modLine key fun r =>
      { r with head := 0, tail := 0, resv := 0, fill := [], fault := [], wait := [], pend := [] }

def LineCfg.isFixed (g : Option LineCfg) : Bool :=
  match g with
  | some g => g.fixed
  | none => false

/-- At cycle 0 of an attempt: a commit (or the first Stroke) takes each Line as it stands; any other verdict
restores every Line that is, or then was, fixed (R194). -/
def strokeLine (keep : Bool) (key : Nat) (s : State) : State :=
  let r := s.line key
  let s :=
    if keep then s.modLine key fun r => { r with ckpt := some ⟨r.cfg, r.tail, r.fill, r.fault, r.seen⟩ }
    else
      match r.ckpt with
      | some p =>
        if LineCfg.isFixed p.cfg then
          (countDropped r p.fill s).modLine key fun r =>
            { r with
              cfg := p.cfg, head := 0, tail := p.tail, resv := p.tail, fill := p.fill, fault := p.fault, seen := p.seen
              pend := [], wait := [] }
        else if LineCfg.isFixed r.cfg then
          (countDropped r [] s).modLine key fun r =>
            { r with
              cfg := p.cfg, head := 0, tail := 0, resv := 0, fill := [], fault := [], seen := 0, pend := [], wait := [] }
        else s
      | none =>
        if LineCfg.isFixed r.cfg then
          (countDropped r [] s).modLine key fun r => { LineRec.unset with gen := r.gen }
        else s
  strokeReset key s

/-- Keys of the listed Lines of slot `c`; every other one is as at reset. -/
def usedLines (s : State) (c : Nat) : List Nat :=
  let p := s.part c
  (s.tub.lines.map Prod.fst).filter (fun k =>
    decide (p.lineBase.toNat ≤ k % 16) && decide (k % 16 < p.lineBase.toNat + p.lineCount.toNat))

/-- LINE_STROKE_RESET (R194) for every Line of the context; a setup or reset of the last Stroke has taken
effect by then (R193). -/
def lineStrokeReset (c : Nat) (keep : Bool) (s : State) : State :=
  forEach (usedLines s c) (fun k s => strokeLine keep k (applyAll k s)) s

/-- Bytes, poison and check errors of row blocks `[b, b + n)` cleared in every tile (R200). -/
def clearBlocks (b n : Nat) (s : State) : State :=
  let inside := fun (key : Nat) => decide (b ≤ blockOf key) && decide (blockOf key < b + n)
  { s with
    tubMem := s.tubMem.filter (fun e => !inside (e.1 / 512))
    tub :=
      { s.tub with
        poisonBlocks := NSet.delRange s.tub.poisonBlocks b (b + n)
        poisonExc := s.tub.poisonExc.filter (fun w => !inside (w / 8))
        errs := s.tub.errs.filter (fun e => !inside (e.1 / 8)) } }

/-- Lines `[b, b + n)` of every physical tile unset, generation plus one (R200). -/
def clearLines (b n : Nat) (s : State) : State :=
  { s with
    tub :=
      { s.tub with
        genLine := (List.range n).foldl (fun g i => KV.upd 0 g (b + i) (· + 1)) s.tub.genLine
        lines := s.tub.lines.filterMap (fun e =>
          if b ≤ e.1 % 16 ∧ e.1 % 16 < b + n then
            (if e.2.gen = 0 then none else some (e.1, { LineRec.unset with gen := e.2.gen }))
          else some e) } }

/-- The rows of a partition are zeroed and its Lines unset (R200). -/
def partitionZero (c : Nat) (s : State) : State :=
  let p := s.part c
  clearLines p.lineBase.toNat p.lineCount.toNat (clearBlocks p.rowBase.toNat p.rowBlocks.toNat s)

/-- A cleared partition is free again (R200). -/
def partitionFree (c : Nat) (s : State) : State :=
  { s with tub := { s.tub with
    parts := KV.set TubPart.none s.tub.parts c TubPart.none, clears := KV.set 0 s.tub.clears c 0 } }

/-- PARTITION_CLEAR at once: the partition is zeroed, its Lines unset, and it is free again (R200). -/
def partitionClear (c : Nat) (s : State) : State := partitionFree c (partitionZero c s)

/-- A partition is released (R200): its clear runs in the opening band, one row of every bank in a cycle, and at once
while STK_CONTROL.mode is 0b00. The rows and Lines hold nothing from then on; until the clear has ended the partition is
marked `clearing` and belongs to the slot (log entry 43). -/
def partitionRelease (c : Nat) (s : State) : State :=
  let p := s.part c
  if s.stroke.mode = 0#2 ∨ p.rowBlocks = 0 then partitionClear c s
  else
    let s := partitionZero c s
    { s with tub := { s.tub with
      parts := KV.set TubPart.none s.tub.parts c { p with clearing := true }
      clears := KV.set 0 s.tub.clears c (16 * p.rowBlocks.toNat) } }

/-- Is the core cycle one of an opening band? -/
def State.inOpening (s : State) : Bool :=
  match s.stroke.cycle0 with
  | some t => decide (s.now < t + 1024)
  | none => false

/-- Are the Tub banks clocked (R497)? Not in DOZE; in IDLE in the opening band alone, which a device without marks does not
have (log entry 98). -/
def State.tubsClocked (s : State) : Bool :=
  !s.power.doze && (s.inOpening || s.stroke.mode == 0#2 || slots8.any fun c => (s.slot c).st == .running)

/-- One cycle of the clears that run: one row of every bank (R200). -/
def clearTick (s : State) : State :=
  match s.tub.clears with
  | (c, n) :: _ =>
    if s.inOpening = false ∧ s.stroke.mode ≠ 0#2 then s
    else if n ≤ 1 then partitionFree c s
    else { s with tub := { s.tub with clears := KV.set 0 s.tub.clears c (n - 1) } }
  | [] => s

/-- Every word poisoned, every Line unset with its generation advanced (R203). -/
def poisonAll (s : State) : State :=
  { s with
    tub :=
      { s.tub with
        poisonBlocks := List.range 16, poisonExc := [], errs := [], rinseQ := []
        genBase := s.tub.genBase + 1
        lines := s.tub.lines.filterMap (fun e =>
          if e.2.gen = 0 then none else some (e.1, { LineRec.unset with gen := e.2.gen })) } }

/-- The Line generation software reads (R193). -/
def lineGen (s : State) (key : Nat) : W16 := (s.line key).gen + s.tub.genBase + KV.get 0 s.tub.genLine (key % 16)

end Sys2Proof.Machine
end

