-- ==== Sys2Proof/Machine/Image.lean ====
section
/-!
DEFINITION. The job image as the CP reads it in place: header, section directory, panel table, Stroke images, lists and
texts (R210 to R219, R229), the placement checks that need nothing else (Table 7.17, checks 1 to 7 and 9, R38), and
the choice and fetch of a Stroke image (R213, R222 to R224).
-/

namespace Sys2Proof.Machine

/-- Reader of an image: the number in `n` bytes at an offset. -/
abbrev ImgRd := Nat → Nat → Nat

/-- Reader of the image of slot `c` at virtual address `va`. -/
def imgRd (s : State) (x : Ctx) (va : Nat) : ImgRd := fun off n => s.vaNum x (va + off) n

/-- Are `n` bytes at `off` zero? -/
def ImgRd.zero (rd : ImgRd) (off n : Nat) : Bool := rd off n == 0

/-- The job header (Table 7.1). -/
def readHdr (rd : ImgRd) : JobHdr :=
  { magic := rd 0 4, version := rd 4 2, release := rd 6 2, seed := BitVec.ofNat 64 (rd 8 8), bytes := rd 64 4
    period := rd 68 4, nSections := rd 72 2, flags := rd 74 2, ports := rd 76 2, stackMask := rd 78 1
    rowBlocks := rd 80 1, lineCount := rd 81 1, imem := rd 82 2, lp := rd 84 4, lc := rd 88 4
    stride := BitVec.ofNat 32 (rd 92 4), energy := rd 96 4, compBase := rd 100 8, compHalf := rd 108 4 }

/-- A section directory entry (Table 7.2). -/
structure SecEntry where
  type : Nat
  count : Nat
  resv : Nat
  off : Nat
  len : Nat
  deriving DecidableEq, Repr

def readSections (rd : ImgRd) (n : Nat) : List SecEntry :=
  (List.range n).map fun i =>
    let b := 128 + 16 * i
    ⟨rd b 2, rd (b + 2) 2, rd (b + 4) 4, rd (b + 8) 4, rd (b + 12) 4⟩

def secOf? (rd : ImgRd) (t : Nat) : Option SecEntry :=
  (readSections rd (readHdr rd).nSections).find? (fun e => e.type == t)

def disjoint (a la b lb : Nat) : Bool := decide (a + la ≤ b) || decide (b + lb ≤ a) || la == 0 || lb == 0

/-- No two elements of a list meet. -/
def pairwise {α : Type} (p : α → α → Bool) : List α → Bool
  | [] => true
  | a :: l => l.all (p a) && pairwise p l

/-- Check 1 of Table 7.17 (R210, R211). -/
def check1 (rd : ImgRd) : Bool :=
  let h := readHdr rd
  let es := readSections rd h.nSections
  let types := es.map (·.type)
  h.magic == 0x4A4E4C53 && h.version == 1 && decide (3 ≤ h.nSections) && decide (h.nSections ≤ 8) &&
  decide (128 + 16 * h.nSections ≤ h.bytes) && decide (h.flags < 2) && rd.zero 79 1 && rd.zero 112 16 &&
  decide (1 ≤ h.rowBlocks) && decide (h.rowBlocks ≤ 16) && decide (1 ≤ h.lineCount) && decide (h.lineCount ≤ 16) &&
  decide (h.imem ≤ 8192) && h.imem % 64 == 0 && decide (1 ≤ h.lc) && h.compBase % 4096 == 0 &&
  h.compHalf % 4096 == 0 &&
  es.all (fun e => decide (1 ≤ e.type) && decide (e.type ≤ 8) && e.resv == 0 && e.off % 64 == 0 &&
    decide (128 + 16 * h.nSections ≤ e.off) && decide (e.off + e.len ≤ h.bytes)) &&
  pairwise (fun a b => a != b) types && [1, 2, 3].all (fun t => types.elem t) &&
  pairwise (fun (a b : SecEntry) => disjoint a.off a.len b.off b.len) es &&
  es.all (fun e =>
    (e.type != 1 || e.len == 8 * e.count) && (e.type != 2 || e.count == h.lp + h.lc) &&
    (e.type != 3 || e.count == 0) && (e.type != 4 || decide (e.count ≤ 16)))

/-- Check 3: the digest of the arithmetic listing (R212). -/
def check3 (rd : ImgRd) : Bool :=
  match secOf? rd 3 with
  | some e =>
    let bytes := (List.range e.len).map fun i => BitVec.ofNat 8 (rd (e.off + i) 1)
    sha384 bytes == (List.range 48).map fun i => BitVec.ofNat 8 (rd (16 + i) 1)
  | none => false

/-- The panel table in order (Table 2.3). -/
def readPanels (rd : ImgRd) : List PanelRange :=
  match secOf? rd 1 with
  | some e => (List.range e.count).map fun i =>
      let w := rd (e.off + 8 * i) 8
      ⟨bitsOf w 19 0, bitsOf w 39 20, bitsOf w 42 40⟩
  | none => []

def panelResvOk (rd : ImgRd) : Bool :=
  match secOf? rd 1 with
  | some e => (List.range e.count).all fun i => bitsOf (rd (e.off + 8 * i) 8) 63 43 == 0
  | none => true

def PanelRange.meets (a b : PanelRange) : Bool :=
  a.cls == b.cls && decide (a.start < b.stop) && decide (b.start < a.stop)

/-- Ranges of a class, in panel-table order (Table 7.8). -/
def rangesOf (ps : List PanelRange) (cls : Nat) : List PanelRange := ps.filter (fun p => p.cls == cls)

/-- Check 6: every range meets R38, against the ranges `others` of the other loaded contexts; at most 8 ranges
of a class (R37). -/
def check6 (s : State) (rd : ImgRd) (others : List PanelRange) : Bool :=
  let ps := readPanels rd
  let lim := s.stroke.period.toNat - s.stroke.endReserve.toNat
  ps.all (fun p => decide (p.start < p.stop) && decide (1024 ≤ 64 * p.start) && decide (64 * p.stop ≤ lim) &&
    decide (p.cls ≤ 5) && others.all (fun q => !p.meets q)) &&
  panelResvOk rd && pairwise (fun a b => !PanelRange.meets a b) ps &&
  [0, 1, 2, 3, 4, 5].all (fun k => decide ((rangesOf ps k).length ≤ 8))

/-! ### Stroke images -/

/-- Stroke image table entry: offset and length (R213). -/
def strokeEntry (rd : ImgRd) (n : Nat) : Option (Nat × Nat) :=
  match secOf? rd 2 with
  | some e => if n < e.count then some (rd (e.off + 16 * n) 4, rd (e.off + 16 * n + 4) 4) else none
  | none => none

/-- Commands of a list, at most `n` of them (Table 7.8). -/
def readCmds (rd : ImgRd) : Nat → Nat → Nat → List Cmd
  | 0, _, _ => []
  | n + 1, off, k =>
    let w := rd off 8
    let b := bitsOf w 23 16
    { k := k, kind := bitsOf w 3 0, range := bitsOf w 10 8, offset := bitsOf w 56 32
      body := (List.range b).map fun i => BitVec.ofNat 64 (rd (off + 8 + 8 * i) 8) } ::
      readCmds rd n (off + 8 * (1 + b)) (k + 1)

/-- Raw header words of the commands of a list, for the reserved-field check. -/
def readHeads (rd : ImgRd) : Nat → Nat → List Nat
  | 0, _ => []
  | n + 1, off =>
    let w := rd off 8
    w :: readHeads rd n (off + 8 * (1 + bitsOf w 23 16))

/-- A list directory entry (Table 7.5), offsets from the first byte of the image. -/
structure ListEntry where
  cls : Nat
  inst : Nat
  resv : Nat
  count : Nat
  off : Nat
  compOff : Nat
  bytes : Nat
  deriving DecidableEq, Repr

def readListDir (rd : ImgRd) (base : Nat) : List ListEntry :=
  let dir := base + rd (base + 8) 4
  (List.range (rd (base + 4) 2)).map fun i =>
    let a := dir + 16 * i
    let w := rd a 4
    ⟨bitsOf w 2 0, bitsOf w 7 3, bitsOf w 15 8, bitsOf w 31 16, rd (a + 4) 4, rd (a + 8) 4, rd (a + 12) 4⟩

/-- A tile program table entry with its text offset (Table 7.7). -/
structure ProgEntry where
  rows : Nat
  cols : Nat
  resv : Nat
  off : Nat
  words : Nat
  resv2 : Nat
  deriving DecidableEq, Repr

def readProgDir (rd : ImgRd) (base : Nat) : List ProgEntry :=
  let dir := base + rd (base + 12) 4
  (List.range (rd (base + 6) 2)).map fun i =>
    let a := dir + 16 * i
    let lo := rd a 8
    let hi := rd (a + 8) 8
    ⟨bitsOf lo 15 0, bitsOf lo 47 16, bitsOf lo 63 48, bitsOf hi 31 0, bitsOf hi 45 32, bitsOf hi 63 46⟩

def readText (rd : ImgRd) (off n : Nat) : List W32 :=
  (List.range n).map fun i => BitVec.ofNat 32 (rd (off + 4 * i) 4)

/-- The lists of the Stroke image at `base`. -/
def readLists (rd : ImgRd) (base : Nat) : List CList :=
  (readListDir rd base).map fun e => ⟨e.cls, e.inst, e.compOff, readCmds rd e.count (base + e.off) 0⟩

def readProgs (rd : ImgRd) (base : Nat) : List Prog :=
  (readProgDir rd base).map fun e =>
    ⟨BitVec.ofNat 16 e.rows, BitVec.ofNat 32 e.cols, readText rd (base + e.off) e.words⟩

/-- Instances of a class (Table 7.6). -/
def instances (cls : Nat) : Nat :=
  match cls with
  | 0 => 1 | 1 => 1 | 2 => 32 | 3 => 8 | 4 => 4 | 5 => 8 | _ => 0

/-- Queue capacity of an instance per half (Table 7.6). -/
def queueCap (cls : Nat) : Nat :=
  match cls with
  | 0 => 65536 | 1 => 16384 | 2 => 32768 | 3 => 16384 | 4 => 32768 | 5 => 8192 | _ => 0

/-- Bytes of a command list: eight for each header and body word (R215). -/
def listBytes (cs : List Cmd) : Nat := (cs.map fun q => 8 * (1 + q.body.length)).sum

/-- Body words of Table 7.9 for a class and kind; `none` for a reserved kind (R218). -/
def bodyWords (cls kind : Nat) : Option Nat :=
  match cls with
  | 0 => if kind = 0 then some 4 else none
  | 1 => if kind = 0 then some 1 else if kind = 1 then some 2 else if kind = 2 then some 1 else none
  | 2 => if kind = 0 then some 8 else none
  | 3 => if kind ≤ 9 then some 4 else none
  | 4 => if kind = 0 then some 4 else if kind = 1 then some 2 else if kind = 2 then some 4 else none
  | 5 => if kind = 0 then some 4 else none
  | _ => none

/-- Check 7 of Table 7.17 for one Stroke image. -/
def strokeImageOk (rd : ImgRd) (h : JobHdr) (base len : Nat) : Bool :=
  let ls := readListDir rd base
  let ps := readProgDir rd base
  let nl := rd (base + 4) 2
  let np := rd (base + 6) 2
  decide (64 ≤ len) && rd.zero (base + 16) 48 && decide (nl ≤ 64) && decide (np ≤ 512) &&
  rd (base + 8) 4 % 8 == 0 && rd (base + 12) 4 % 8 == 0 &&
  (nl == 0 || decide (rd (base + 8) 4 + 16 * nl ≤ len)) &&
  (np == 0 || decide (rd (base + 12) 4 + 16 * np ≤ len)) &&
  ls.all (fun e => decide (e.cls ≤ 5) && decide (e.inst < instances e.cls) && e.resv == 0 && e.off % 8 == 0 &&
    decide (e.off + e.bytes ≤ len) && decide (e.compOff + 16 * e.count ≤ h.compHalf) &&
    listBytes (readCmds rd e.count (base + e.off) 0) == e.bytes) &&
  pairwise (fun (a b : ListEntry) => a.cls != b.cls || a.inst != b.inst) ls &&
  pairwise (fun (a b : ListEntry) => disjoint a.compOff (16 * a.count) b.compOff (16 * b.count)) ls &&
  ps.all (fun e => e.resv == 0 && e.resv2 == 0 && e.off % 8 == 0 && decide (1 ≤ e.words) &&
    decide (e.words ≤ h.imem) && decide (e.off + 4 * e.words ≤ len)) &&
  pairwise (fun (a b : ProgEntry) =>
    (BitVec.ofNat 16 a.rows &&& BitVec.ofNat 16 b.rows) == 0#16 ||
    (BitVec.ofNat 32 a.cols &&& BitVec.ofNat 32 b.cols) == 0#32) ps

/-- All Stroke images of the table: offset and length. -/
def strokeImages (rd : ImgRd) : List (Nat × Nat) :=
  match secOf? rd 2 with
  | some e => (List.range e.count).map fun n => (rd (e.off + 16 * n) 4, rd (e.off + 16 * n + 4) 4)
  | none => []

/-- Check 7 (R213 to R216). -/
def check7 (rd : ImgRd) : Bool :=
  let h := readHdr rd
  match secOf? rd 2 with
  | some e => e.len == 16 * (h.lp + h.lc) && e.count == h.lp + h.lc &&
      (List.range e.count).all (fun n => rd.zero (e.off + 16 * n + 8) 8) &&
      (strokeImages rd).all (fun p => p.1 % 8 == 0 && decide (p.1 + p.2 ≤ h.bytes) && strokeImageOk rd h p.1 p.2)
  | none => false

/-- Every command of the image with its class. -/
def allCmds (rd : ImgRd) : List (Nat × Cmd) :=
  (strokeImages rd).flatMap fun p => (readLists rd p.1).flatMap fun l => l.cmds.map fun q => (l.cls, q)

/-- Check 8 on the headers: kind, body length, zero fields, range and offset, order (R217, R218). -/
def check8Heads (rd : ImgRd) : Bool :=
  let ps := readPanels rd
  (strokeImages rd).all fun p =>
    (readListDir rd p.1).all fun e =>
      let cs := readCmds rd e.count (p.1 + e.off) 0
      let hs := readHeads rd e.count (p.1 + e.off)
      let rs := rangesOf ps e.cls
      let place := fun (q : Cmd) => (((rs[q.range]?).map (·.start)).getD 0, q.offset)
      hs.all (fun w => bitsOf w 7 4 == 0 && bitsOf w 15 11 == 0 && bitsOf w 31 24 == 0 && bitsOf w 63 57 == 0) &&
      cs.all (fun q => bodyWords e.cls q.kind == some q.body.length &&
        (match rs[q.range]? with
          | some r => decide (64 * r.start + q.offset < 64 * r.stop)
          | none => false)) &&
      (List.zip cs cs.tail).all (fun ab =>
        decide ((place ab.1).1 < (place ab.2).1) ||
        ((place ab.1).1 == (place ab.2).1 && decide ((place ab.1).2 ≤ (place ab.2).2)))

/-! ### Which Stroke image runs -/

/-- `select(i)` of R213: the Stroke image and the Tumble step. -/
def selectImage (rd : ImgRd) (h : JobHdr) (i : Nat) : Nat × W32 :=
  let step := fun n => match strokeEntry rd n with
    | some (o, _) => BitVec.ofNat 32 (rd o 4)
    | none => 0
  if i < h.lp then (i, step i)
  else
    let n := h.lp + (i - h.lp) % h.lc
    (n, step n + BitVec.ofNat 32 (((i - h.lp) / h.lc) * h.stride.toNat))

/-- Where the Stroke image of index `i` lies, and its length (R213). -/
def strokeSpan (s : State) (x : Ctx) (i : Nat) : Option (Nat × Nat) :=
  x.img.bind fun h =>
    let rd := imgRd s x x.imgVa
    (strokeEntry rd (selectImage rd h i).1).map fun e => (x.imgVa + e.1, e.2)

/-- The half that holds index `i`, invalid when a granule of its Stroke image reads as poisoned (R222, R224). -/
def fetchHalf (s : State) (x : Ctx) (i : Nat) : Half :=
  match x.img with
  | none => .none
  | some h =>
    let rd := imgRd s x x.imgVa
    let (n, st) := selectImage rd h i
    match strokeEntry rd n with
    | some (o, len) =>
      { index := some i, step := st, lists := readLists rd o, progs := readProgs rd o
        bad := !(poisonedGran s x (x.imgVa + o) len).isEmpty }
    | none => .none

/-- Text of a tile in the current half; empty when no entry covers the tile (R216). -/
def Ctx.text (x : Ctx) (t : Tile) : List W32 :=
  match x.cur.progs.find? (fun p => p.rowMask.getLsbD t.row.val && p.colMask.getLsbD t.col.val) with
  | some p => p.text
  | none => []

end Sys2Proof.Machine
end

