-- ==== Sys2Proof/Machine/SeqWord.lean ====
section
/-!
DEFINITION. Instruction words of the tile sequencer and the vector unit (R229, R230, R233, Tables 7.12, 7.13, 7.15 and 7.16)
and the check of a text (Table 7.17, check 9).
-/

namespace Sys2Proof.Machine

/-- The sequencer instructions of Table 7.13. -/
inductive SeqOp where
  | add | sub | and_ | or_ | xor_ | shl | shr | sra | mul | mulh | mulhu | min_ | max_ | minu | maxu | sel
  | popc | clz | ctz | addi | andi | ori | xori | shli | shri | srai | lui | cmp | cmpi | adda | mova | movs
  | ldp | stp | br | waitu | waitv | end_ | trap | nop | lset | lrst | lgen | locc | mfs | vector
  deriving DecidableEq, Repr

/-- Bits [hi:lo] of a word. -/
def fld (w : W32) (hi lo : Nat) : Nat := bitsOf w.toNat hi lo

/-- func of opcode 0x00 (Table 7.13). -/
def seqFunc : Nat → Option SeqOp
  | 0 => some .add | 1 => some .sub | 2 => some .and_ | 3 => some .or_ | 4 => some .xor_ | 5 => some .shl
  | 6 => some .shr | 7 => some .sra | 8 => some .mul | 9 => some .mulh | 10 => some .mulhu | 11 => some .min_
  | 12 => some .max_ | 13 => some .minu | 14 => some .maxu | 15 => some .sel | 16 => some .popc | 17 => some .clz
  | 18 => some .ctz | _ => none

/-- Opcodes other than 0x00 (Table 7.13). -/
def seqCode : Nat → Option SeqOp
  | 0x01 => some .addi | 0x02 => some .andi | 0x03 => some .ori | 0x04 => some .xori | 0x05 => some .shli
  | 0x06 => some .shri | 0x07 => some .srai | 0x08 => some .lui | 0x09 => some .cmp | 0x0A => some .cmpi
  | 0x0B => some .adda | 0x0C => some .mova | 0x0D => some .movs | 0x10 => some .ldp | 0x11 => some .stp
  | 0x14 => some .br | 0x15 => some .waitu | 0x16 => some .waitv | 0x17 => some .end_ | 0x18 => some .trap
  | 0x19 => some .nop | 0x1A => some .lset | 0x1B => some .lrst | 0x1C => some .lgen | 0x1D => some .locc
  | 0x1E => some .mfs | 0x3E => some .vector | _ => none

/-- Are the reserved and unused fields of the word zero (R229, Tables 7.12 and 7.13)? -/
def seqReservedOk (op : SeqOp) (w : W32) : Bool :=
  match op with
  | .sel => fld w 8 6 == 0
  | .popc | .clz | .ctz => fld w 8 6 == 0 && fld w 15 11 == 0 && fld w 10 9 == 0
  | .add | .sub | .and_ | .or_ | .xor_ | .shl | .shr | .sra | .mul | .mulh | .mulhu | .min_ | .max_ | .minu
  | .maxu => fld w 8 6 == 0 && fld w 10 9 == 0
  | .shli | .shri | .srai => fld w 15 5 == 0
  | .lui => fld w 20 16 == 0
  | .cmp => decide (fld w 23 21 ≤ 5) && fld w 10 0 == 0
  | .cmpi => decide (fld w 23 21 ≤ 5)
  | .adda => fld w 19 18 == 0
  | .mova => fld w 17 0 == 0
  | .movs => fld w 17 0 == 0
  | .br => fld w 22 21 == 0 && fld w 20 16 == 0
  | .waitv | .end_ | .nop => fld w 25 0 == 0
  | .trap => fld w 25 16 == 0
  | .lset | .lrst | .lgen | .locc =>
    fld w 16 0 == 0 && (op != .lset || fld w 25 21 % 2 == 0) && (op != .lrst || fld w 25 21 == 0)
  | .ldp | .stp => fld w 25 21 % 2 == 0
  | .mfs => decide (fld w 20 16 ≤ 8) && fld w 15 0 == 0
  | .addi | .andi | .ori | .xori | .waitu | .vector => true

/-- The instruction a word spells; `none` for a reserved opcode, func, cond or spr, or a non-zero reserved
field. -/
def seqOpOf (w : W32) : Option SeqOp :=
  let op := if fld w 31 26 = 0 then seqFunc (fld w 5 0) else seqCode (fld w 31 26)
  match op with
  | some o => if seqReservedOk o w then some o else none
  | none => none

/-! ### Vector words -/

/-- The vector operations of Table 7.16. -/
inductive VOp where
  | vld | vst | vldp | vcvt | vpack | vadd | vsub | vmul | vfma | vmin | vmax | vcmp | vsel | vtab | vreds | vredm
  | vand | vor | vxor | vnzb | vfold | vpopc | vmatch | vbcast | vmovs
  deriving DecidableEq, Repr

def vopCode : Nat → Option VOp
  | 0x00 => some .vld | 0x01 => some .vst | 0x02 => some .vldp | 0x03 => some .vcvt | 0x04 => some .vpack
  | 0x05 => some .vadd | 0x06 => some .vsub | 0x07 => some .vmul | 0x08 => some .vfma | 0x09 => some .vmin
  | 0x0A => some .vmax | 0x0B => some .vcmp | 0x0C => some .vsel | 0x0D => some .vtab | 0x0E => some .vreds
  | 0x0F => some .vredm | 0x10 => some .vand | 0x11 => some .vor | 0x12 => some .vxor | 0x13 => some .vnzb
  | 0x14 => some .vfold | 0x15 => some .vpopc | 0x16 => some .vmatch | 0x17 => some .vbcast | 0x18 => some .vmovs
  | _ => none

/-- Fields of a vector instruction (Table 7.15). -/
structure VFields where
  op : VOp
  vd : Nat
  va : Nat
  vb : Nat
  vc : Nat
  se : Nat
  fmt : Nat
  line : Nat
  line2 : Nat
  sub : Nat
  layer : Nat
  deriving DecidableEq, Repr

def vfields (w0 w1 : W32) : Option VFields :=
  match vopCode (fld w0 25 21) with
  | some op => some
      { op := op, vd := fld w0 20 17, va := fld w0 16 13, vb := fld w0 12 9, vc := fld w0 8 5, se := fld w0 4 0
        fmt := fld w1 31 28, line := fld w1 27 24, line2 := fld w1 23 20, sub := fld w1 19 16
        layer := fld w1 15 0 }
  | none => none

/-- Register count of a format (R234). -/
def regCount (f : Fmt) : Nat :=
  match f.width with
  | 32 => 1 | 16 => 2 | 8 => 4 | _ => 8

/-- Is the format field valid for the operation, and do the unused fields and register ranges hold (R235,
Table 7.16)? `tables` is the number of function tables of the image. -/
def VFields.ok (f : VFields) (tables : Nat) : Bool :=
  let z := fun (l : List Nat) => l.all (· == 0)
  let fm := Fmt.ofCode f.fmt
  let round := decide (f.sub % 4 ≤ 2) && decide (f.sub < 4)
  match f.op with
  | .vld => z [f.va, f.vb, f.vc, f.se, f.fmt, f.line2, f.layer] && decide (f.sub < 2)
  | .vst => z [f.va, f.vb, f.vc, f.se, f.fmt, f.line2, f.sub, f.layer]
  | .vldp => z [f.va, f.vb, f.vc, f.se, f.sub, f.layer] && fm.isSome
  | .vcvt => z [f.se, f.line, f.line2, f.layer] &&
      (match fm with
        | some .fp4 => decide (f.sub < 8) && decide (f.vc < 16)
        | some g => decide (f.sub < regCount g) && z [f.vb, f.vc]
        | none => false)
  | .vpack => z [f.line, f.line2] && decide (f.vc ≤ 2) &&
      (match fm with
        | some g =>
          let n := regCount g
          f.va % n == 0 && (decide (f.vd < f.va) || decide (f.va + n ≤ f.vd)) &&
          (if g = .fp4 then (decide (f.vb < f.va) || decide (f.va + n ≤ f.vb)) && f.vb != f.vd
           else z [f.vb, f.sub])
        | none => false) &&
      (f.vc == 1 || z [f.se, f.layer])
  | .vadd | .vsub | .vmul =>
      z [f.vc, f.fmt, f.line, f.line2] && round && (f.sub % 4 == 1 || z [f.se, f.layer])
  | .vfma => z [f.fmt, f.line, f.line2] && round && (f.sub % 4 == 1 || z [f.se, f.layer])
  | .vmin | .vmax => z [f.vc, f.se, f.fmt, f.line, f.line2, f.sub, f.layer]
  | .vcmp => z [f.vc, f.se, f.fmt, f.line, f.line2, f.layer] && decide (f.sub < 4)
  | .vsel => z [f.se, f.fmt, f.line, f.line2, f.sub, f.layer]
  | .vtab => z [f.vb, f.vc, f.se, f.line, f.line2, f.layer] && round && decide (f.fmt < tables)
  | .vreds | .vredm => z [f.vb, f.vc, f.se, f.fmt, f.line, f.line2, f.sub, f.layer]
  | .vand | .vor | .vxor => z [f.vc, f.se, f.fmt, f.line, f.line2, f.sub, f.layer]
  | .vnzb => z [f.vb, f.vc, f.se, f.line, f.line2, f.sub, f.layer] && fm.isSome
  | .vfold => z [f.vb, f.vc, f.se, f.fmt, f.line, f.line2, f.layer] && decide (f.sub ≤ 12)
  | .vpopc => z [f.vb, f.vc, f.fmt, f.line, f.line2, f.sub, f.layer]
  | .vmatch => z [f.vc, f.se, f.line, f.line2, f.sub, f.layer] && fm.isSome && f.vd % 2 == 0
  | .vbcast => z [f.va, f.vb, f.vc, f.fmt, f.line, f.line2, f.sub, f.layer]
  | .vmovs => z [f.vd, f.vb, f.vc, f.fmt, f.line, f.line2, f.layer] && decide (f.sub < 2) && (f.sub == 0 || f.va == 0)

/-! ### Check of a text -/

/-- Sign extension of an `n`-bit number. -/
def sext (n v : Nat) : Int := (BitVec.ofNat n v).toInt

/-- Word numbers at which an instruction begins, from word `i` on; `none` when a word spells no instruction or
a vector instruction is cut off or malformed. -/
def textStarts (tables : Nat) : Nat → Nat → List W32 → Option (List Nat)
  | 0, _, _ => some []
  | _ + 1, _, [] => some []
  | n + 1, i, w :: ws =>
    match seqOpOf w with
    | none => none
    | some .vector =>
      match ws with
      | [] => none
      | w1 :: ws' =>
        match vfields w w1 with
        | some f => if f.ok tables then (textStarts tables n (i + 2) ws').map (i :: ·) else none
        | none => none
    | some _ => (textStarts tables n (i + 1) ws).map (i :: ·)

/-- Check 9 of Table 7.17 for one text. -/
def textOk (tables : Nat) (ws : List W32) : Bool :=
  match textStarts tables ws.length 0 ws with
  | none => false
  | some starts =>
    starts.all (fun i =>
      let w := ws.getD i 0
      match seqOpOf w with
      | some .br =>
        let t : Int := i + sext 16 (fld w 15 0)
        decide (0 ≤ t) && starts.elem t.toNat
      | _ => true) &&
    (match starts.getLast? with
      | some i =>
        let w := ws.getD i 0
        match seqOpOf w with
        | some .end_ => true
        | some .br => fld w 25 24 == 0 && fld w 23 23 == 1
        | _ => false
      | none => false)

/-- Check 9 for the image: every text of every Stroke image. -/
def check9 (rd : ImgRd) : Bool :=
  let tables := match secOf? rd 4 with
    | some e => e.count
    | none => 0
  (strokeImages rd).all fun p => (readProgs rd p.1).all fun g => textOk tables g.text

end Sys2Proof.Machine
end

