-- ==== Sys2Proof/Machine/StreamMath.lean ====
section
/-!
DEFINITION. Stream descriptors and walks (08_streams_and_memory, R244 to R249), and the completion record of a task
(R254).
-/

namespace Sys2Proof.Machine

/-- A stream descriptor from its eight body words (Table 8.1). -/
def strDescOf (body : List W64) : StrDesc :=
  let w := fun i => (body.getD i 0).toNat
  { op := bitsOf (w 0) 3 0, line := bitsOf (w 0) 7 4, idxLine := bitsOf (w 0) 11 8, hdrLine := bitsOf (w 0) 15 12
    tileRow := bitsOf (w 0) 19 16, tileDim := bitsOf (w 0) 20 20 == 1, packed := bitsOf (w 0) 21 21 == 1
    pkFmt := bitsOf (w 0) 25 22, seqTag := BitVec.ofNat 32 (bitsOf (w 0) 63 32), base := bitsOf (w 1) 47 0
    bound := bitsOf (w 2) 47 0, n0 := bitsOf (w 2) 63 48 + 1, n1 := bitsOf (w 3) 15 0 + 1
    n2 := bitsOf (w 3) 31 16 + 1, n3 := bitsOf (w 3) 47 32 + 1, stride1 := bitsOf (w 4) 47 0
    stride2 := bitsOf (w 5) 47 0, stride3 := bitsOf (w 6) 47 0, hdrBase := bitsOf (w 7) 47 0
    resv := bitsOf (w 0) 31 26 != 0 || bitsOf (w 1) 63 48 != 0 || bitsOf (w 3) 63 48 != 0 ||
      bitsOf (w 4) 63 48 != 0 || bitsOf (w 5) 63 48 != 0 || bitsOf (w 6) 63 48 != 0 || bitsOf (w 7) 63 48 != 0 }

/-- GATHER and SCATTER take their indices from a stream. -/
def StrDesc.indexed (d : StrDesc) : Bool := d.op == 2 || d.op == 3
/-- LOAD and GATHER write a Line. -/
def StrDesc.loads (d : StrDesc) : Bool := d.op == 0 || d.op == 2

/-- Tiles of the walk, granules and rows in each (R246). -/
def StrDesc.tiles (d : StrDesc) : Nat := if d.tileDim then d.n3 else 1
def StrDesc.granPerTile (d : StrDesc) : Nat := d.n0 * d.n1 * d.n2 * (if d.tileDim then 1 else d.n3)
def StrDesc.rowsPerTile (d : StrDesc) : Nat := (d.granPerTile + 7) / 8
def StrDesc.rows (d : StrDesc) : Nat := d.tiles * d.rowsPerTile

/-- Walk position of granule `w` of row `r`, `none` past the last granule of a tile. -/
def StrDesc.pos (d : StrDesc) (r w : Nat) : Option (Nat × Nat × Nat × Nat) :=
  let ti := r / d.rowsPerTile
  let g := 8 * (r % d.rowsPerTile) + w
  if g < d.granPerTile then
    some (g % d.n0, (g / d.n0) % d.n1, (g / (d.n0 * d.n1)) % d.n2,
      if d.tileDim then ti else g / (d.n0 * d.n1 * d.n2))
  else none

/-- Tile-row of row `r`. -/
def StrDesc.tileOfRow (d : StrDesc) (r : Nat) : Nat := d.tileRow + (if d.tileDim then r / d.rowsPerTile else 0)

/-- Header rows of a packed task: those of one tile, and all. -/
def StrDesc.hdrPerTile (d : StrDesc) : Nat := (d.rowsPerTile + 63) / 64
/-- Header row that describes row `r`. -/
def StrDesc.hdrRow (d : StrDesc) (r : Nat) : Nat := (r / d.rowsPerTile) * d.hdrPerTile + (r % d.rowsPerTile) / 64
/-- First row that header row `h` describes, and how many. -/
def StrDesc.hdrFirst (d : StrDesc) (h : Nat) : Nat := (h / d.hdrPerTile) * d.rowsPerTile + 64 * (h % d.hdrPerTile)
def StrDesc.hdrCount (d : StrDesc) (h : Nat) : Nat := min 64 (d.rowsPerTile - 64 * (h % d.hdrPerTile))

def two47 : Nat := 140737488355328
def two48 : Nat := 281474976710656

/-- Is a field that the op does not use non-zero (Table 8.1, R245)? -/
def StrDesc.unused (d : StrDesc) : Bool :=
  if d.indexed then
    d.packed || d.hdrLine != 0 || d.pkFmt != 0 || d.hdrBase != 0 || d.stride2 != 0 || d.stride3 != 0
  else d.idxLine != 0 || (!d.packed && (d.hdrLine != 0 || d.pkFmt != 0 || d.hdrBase != 0))

/-- Is the descriptor refused (R245)? -/
def StrDesc.bad (d : StrDesc) : Bool :=
  d.resv || d.unused || decide (3 < d.op) || d.base % 64 != 0 || d.stride1 % 64 != 0 || d.stride2 % 64 != 0 ||
  d.stride3 % 64 != 0 || d.hdrBase % 64 != 0 || d.bound == 0 || decide (two48 < d.base + d.bound) ||
  (decide (d.base < two47) && decide (two47 < d.base + d.bound)) ||
  (d.tileDim && decide (15 < d.tileRow + (d.n3 - 1))) ||
  (if d.indexed then
    d.n0 % 8 != 0 || d.n2 != 1 || d.n3 != 1 || d.tileDim || d.idxLine == d.line
  else
    decide (d.bound < (d.n1 - 1) * d.stride1 + (d.n2 - 1) * d.stride2 + (d.n3 - 1) * d.stride3 + 64 * d.n0) ||
    (d.packed && (d.n0 != 8 || d.hdrLine == d.line || decide (d.hdrBase < d.base) ||
      decide (d.base + d.bound < d.hdrBase + 8 * d.rows))))

/-- Granules of a packed row that hold its body. -/
def hdrGranules (h : W64) : Nat := (bitsOf h.toNat 28 19 + 63) / 64

/-- Does a header fail the engine's checks (R248)? -/
def hdrBad (fmt : Nat) (h : W64) : Bool :=
  let n := h.toNat
  let form := bitsOf n 1 0
  let nz := bitsOf n 18 8
  let bytes := bitsOf n 28 19
  match Fmt.ofCode fmt with
  | none => true
  | some f =>
    decide (1 < form) || bitsOf n 7 6 != 0 || bitsOf n 63 29 != 0 || bitsOf n 5 2 != fmt ||
    (form == 0 && bytes != 512) || (form == 1 && (bytes != f.perRow / 8 + (nz * f.width + 7) / 8 || decide (512 < bytes)))

/-! ### Tasks -/

/-- The task as the user of a Line. -/
def StrTask.user (t : StrTask) : User := ⟨5, opId 2 t.engine t.k⟩

/-- First row not delivered. -/
def StrTask.firstLeft (t : StrTask) : Nat :=
  ((List.range t.d.rows).find? (fun r => !NSet.mem t.done r)).getD 0

/-- The completion record of Table 8.2. -/
def StrTask.record (t : StrTask) (status : Nat) (aborted : Bool) : List Byte :=
  let flags := aborted.toNat + 2 * (t.cancelled && !aborted).toNat + 4 * t.faultBit.toNat + 8 * t.zeroGran.toNat
  let p := if aborted then (t.d.pos t.firstLeft 0).getD (0, 0, 0, 0) else (0, 0, 0, 0)
  leBytes 4 t.d.seqTag.toNat ++ leBytes 2 status ++ leBytes 1 flags ++ leBytes 1 0 ++ leBytes 2 p.1 ++
    leBytes 2 p.2.1 ++ leBytes 2 p.2.2.1 ++ leBytes 2 p.2.2.2

def StrTask.same (a b : StrTask) : Bool := a.engine == b.engine && a.slot == b.slot && a.k == b.k

/-- Drop the reserved pegs of an ended task's rows: nothing lands in them any more (R181). -/
def endTask (t : StrTask) (status : Nat) (aborted : Bool) (s : State) : State :=
  let s := s.complete t.slot 2 t.engine t.k (t.record status aborted)
  { s with tasks := s.tasks.filter (fun u => !u.same t) }

/-- Abort the stream tasks of a context; a task whose fault bit raised the cause carries F_STR_PAGE_FAULT (R259). -/
def abortStreams (status : Nat) (c : Nat) (s : State) : State :=
  forEach (s.tasks.filter (fun t => t.slot == c)) (fun t s =>
    endTask t (if t.consumed then Code.strPageFault else status) true s) s

end Sys2Proof.Machine
end

