-- ==== Sys2Proof/Machine/Abort.lean ====
section
/-!
DEFINITION. What ends a context's work in a Stroke: the abort of every engine's operations of the context and the
discard of its remaining commands (R54, R221), and the raising of a cause (Table 2.6).
-/

namespace Sys2Proof.Machine

/-! ### Tile commands -/

def addressed (q : TileCmd) : List Nat :=
  (List.range 512).filter (fun i => q.rowMask.getLsbD (i / 32) && q.colMask.getLsbD (i % 32))

def TileSt.isDone : TileSt → Bool
  | .done => true
  | _ => false

/-- The first failed tile of a command in tile order. -/
def TileCmd.failed? (q : TileCmd) : Option (Nat × Nat × Nat × Nat) :=
  (addressed q).findSome? fun i =>
    match KV.get .waiting q.tiles i with
    | .failed code pc trap => some (i, code, pc, trap)
    | _ => none

/-- The record of Table 7.11; `status` is used when no tile has failed. -/
def TileCmd.record (q : TileCmd) (status : Nat) : List Byte :=
  let done := ((addressed q).filter (fun i => (KV.get .waiting q.tiles i).isDone)).length
  match q.failed? with
  | some (i, code, pc, trap) =>
    leBytes 2 code ++ leBytes 1 (i / 32) ++ leBytes 1 (i % 32) ++ leBytes 2 done ++ leBytes 2 trap ++
      leBytes 2 pc ++ leBytes 2 0 ++ leBytes 4 q.late
  | none =>
    leBytes 2 status ++ leBytes 1 0xFF ++ leBytes 1 0xFF ++ leBytes 2 done ++ leBytes 2 0 ++ leBytes 2 0 ++
      leBytes 2 0 ++ leBytes 4 q.late

/-- Drop the context's queued vector instructions in every tile. -/
def dropVector (c : Nat) (s : State) : State :=
  { s with vunits := s.vunits.map (fun e => (e.1, { e.2 with queue := e.2.queue.filter (fun v => v.ctx != c) })) }

/-- Stop the context's sequencers where they are. -/
def haltSeqs (c : Nat) (s : State) : State :=
  s.modSlot c fun x =>
    { x with
      tileCmds := []
      seqs := x.seqs.map (fun e => (e.1, { e.2 with run := none, wait := .none, ended := false, pend := [] })) }

/-- Abort the tile commands of a context, with a status for the commands that have no fault of their own. -/
def abortTiles (status : Nat) (c : Nat) (s : State) : State :=
  let s := forEach (s.slot c).tileCmds (fun q s => s.complete c 1 0 q.k (q.record status)) s
  dropVector c (haltSeqs c s)

/-! ### Seam operations -/

/-- The completion record of Table 5.7: n_out and n_aux count what has been written to the Lines. -/
def SeamOp.record (o : SeamOp) (status : Nat) (aborted : Bool) : List Byte :=
  let aux := match o.d.opcode with
    | 0 => o.aux.written
    | 2 => o.empties
    | 3 => o.rejected
    | _ => 0
  leBytes 4 o.d.seqTag.toNat ++ leBytes 2 status ++ leBytes 1 (aborted.toNat + 2 * (decide (0 < o.empties)).toNat) ++
    leBytes 1 0 ++ leBytes 4 o.out.written ++ leBytes 4 aux

/-- Abort the Seam operations of a context. -/
def abortSeams (status : Nat) (c : Nat) (s : State) : State :=
  let mine := s.seams.filter (fun e => e.2.slot == c)
  let s := forEach mine (fun e s => s.complete c 5 e.1 e.2.k (e.2.record status true)) s
  { s with seams := s.seams.filter (fun e => e.2.slot != c) }

/-! ### Press jobs -/

/-- Abort the Press jobs of a context (R40, R221): the record of Table 9.8, aborted, with the job's seq_tag. -/
def abortPress (status : Nat) (c : Nat) (s : State) : State :=
  let s := forEach (s.slot c).press.jobs (fun e s =>
    s.complete c 3 e.1 e.2.k (e.2.rec_.take 4 ++ leBytes 2 status ++ leBytes 1 1 ++ List.replicate 9 0)) s
  s.modSlot c fun x => { x with press := { x.press with jobs := [] } }

/-! ### All engines -/

/-- Abort everything the context has in flight, with the given status (R54, R221). -/
def abortAll (status : Nat) (c : Nat) (s : State) : State :=
  abortGhl status c <| abortPress status c (abortStreams status c (abortSeams status c (abortMangle status c (abortTiles status c s))))

/-- A cause of Table 2.6: logged, notified, entered in the tally; the first one ends the context's work
(R54, R221). The command whose check raised it has written its own record. An overrun, at a range end or at the Mangle's
descent bound (R106), is counted (Table 2.11). -/
def raiseCause (s : State) (c code : Nat) (arg : W32) (ext : BitVec 48) : State :=
  let x := s.slot c
  if x.att.on = false then s
  else
    let s := s.log code originHw c arg ext
    let s := s.postCtx c code arg
    let s := s.modSlot c fun x =>
      { x with
        att := { x.att with cause := max x.att.cause (tallyOf code) }
        stk := if code = Code.strokeOverrun then { x.stk with overruns := sat32 x.stk.overruns 1 } else x.stk }
    if x.att.cause = 0 ∧ tallyOf code ≠ 0 then (abortAll Code.strokeDiscard c s).discardRest c else s

end Sys2Proof.Machine
end

