-- ==== Sys2Proof/Machine/Sequencer.lean ====
section
/-!
DEFINITION. The tile sequencer: its registers, RUN, and every scalar instruction of Table 7.13 but those on Lines
(R226 to R231), with the narrow view (R183, R184).
-/

namespace Sys2Proof.Machine

def State.seq (s : State) (c : Nat) (t : Tile) : Seq := KV.get Seq.zero (s.slot c).seqs t.idx
def State.modSeq (s : State) (c : Nat) (t : Tile) (f : Seq → Seq) : State :=
  s.modSlot c fun x => { x with seqs := KV.upd Seq.zero x.seqs t.idx f }
def State.vunit (s : State) (t : Tile) : VUnit := KV.get VUnit.zero s.vunits t.idx
def State.modVunit (s : State) (t : Tile) (f : VUnit → VUnit) : State :=
  { s with vunits := KV.upd VUnit.zero s.vunits t.idx f }

/-- Scalar register; s0 reads as zero (R226). -/
def Seq.rd (q : Seq) (i : Nat) : W32 := if i = 0 then 0 else KV.get 0 q.s i
/-- Write a scalar register; s0 ignores writes (R226). -/
def Seq.wr (q : Seq) (i : Nat) (v : W32) : Seq := if i = 0 then q else { q with s := KV.set 0 q.s i v }
def Seq.rdA (q : Seq) (i : Nat) : BitVec 18 := KV.get 0 q.a i
def Seq.wrA (q : Seq) (i : Nat) (v : BitVec 18) : Seq := { q with a := KV.set 0 q.a i v }
/-- Predicate; p0 reads as 1 (R226). -/
def Seq.rdP (q : Seq) (i : Nat) : Bool := i == 0 || q.p.getLsbD i
/-- Write a predicate; p0 ignores writes (R226). -/
def Seq.wrP (q : Seq) (i : Nat) (b : Bool) : Seq :=
  if i = 0 then q else { q with p := if b then q.p ||| (1#4 <<< i) else q.p &&& ~~~ (1#4 <<< i) }
def Seq.next (q : Seq) : Seq := { q with pc := q.pc + 1 }

/-- Word of the text at `pc + i`. -/
def seqWordAt (s : State) (c : Nat) (t : Tile) (i : Nat) : Option W32 :=
  ((s.slot c).text t)[(s.seq c t).pc.toNat + i]?

/-- Scalar registers that a word reads or writes (R228). -/
def seqRegs (op : SeqOp) (w : W32) : List Nat :=
  match op with
  | .nop | .end_ | .trap | .br | .waitv | .adda | .lrst => []
  | .cmp => [fld w 20 16, fld w 15 11]
  | .cmpi => [fld w 20 16]
  | .mova => [fld w 22 18]
  | .movs | .mfs | .lgen | .locc | .lui => [fld w 25 21]
  | .waitu => [fld w 25 21]
  | .ldp | .stp | .lset => [fld w 25 21, fld w 25 21 + 1]
  | .vector => [fld w 4 0]
  | .addi | .andi | .ori | .xori | .shli | .shri | .srai | .popc | .clz | .ctz => [fld w 25 21, fld w 20 16]
  | _ => [fld w 25 21, fld w 20 16, fld w 15 11]

/-- The word the sequencer of tile `t` executes next for slot `c`, when it spells `op` and may execute: the
context runs, its RUN is in execution and waits for nothing, and no register it names is outstanding (R228). -/
def seqReady (s : State) (c : Nat) (t : Tile) (op : SeqOp) : Option W32 :=
  let x := s.slot c
  let q := s.seq c t
  if x.st = .running ∧ x.att.on = true ∧ x.att.cause = 0 ∧ q.run.isSome = true ∧ q.ended = false ∧
      q.wait = .none then
    match seqWordAt s c t 0 with
    | some w =>
      if seqOpOf w = some op ∧ (seqRegs op w).all (fun r => r == 0 || !q.pend.elem r) = true then some w else none
    | none => none
  else none

/-- Execute `op` by a change of the sequencer's registers alone. -/
def seqDo (op : SeqOp) (f : State → Seq → W32 → Seq) (t : Tile) (c : Nat) (s : State) : State :=
  match seqReady s c t op with
  | some w => s.modSeq c t fun q => f s q w
  | none => s

/-- Three-register form: sd := f(sa, sb). -/
def seqO (op : SeqOp) (f : W32 → W32 → W32) : Tile → Nat → State → State :=
  seqDo op fun _ q w => (q.wr (fld w 25 21) (f (q.rd (fld w 20 16)) (q.rd (fld w 15 11)))).next

/-- Immediate form: sd := f(sa, imm). -/
def seqK (op : SeqOp) (f : W32 → W32 → W32) (signed : Bool) : Tile → Nat → State → State :=
  seqDo op fun _ q w =>
    let imm := BitVec.ofNat 16 (fld w 15 0)
    (q.wr (fld w 25 21) (f (q.rd (fld w 20 16)) (if signed then imm.signExtend 32 else imm.setWidth 32))).next

def shamt (b : W32) : Nat := b.toNat % 32
def mulhS (a b : W32) : W32 := (BitVec.ofInt 64 (a.toInt * b.toInt) >>> 32).setWidth 32
def mulhU (a b : W32) : W32 := BitVec.ofNat 32 (a.toNat * b.toNat / 2 ^ 32)
def popc32 (a : W32) : W32 := BitVec.ofNat 32 ((List.range 32).filter (fun i => a.getLsbD i)).length
def clz32 (a : W32) : W32 := BitVec.ofNat 32 (if a = 0 then 32 else 31 - a.toNat.log2)
def ctz32 (a : W32) : W32 := BitVec.ofNat 32 (((List.range 32).find? (fun i => a.getLsbD i)).getD 32)

/-- The conditions of CMP and CMPI (R230). -/
def seqCond (cond : Nat) (a b : W32) : Bool :=
  match cond with
  | 0 => a == b
  | 1 => a != b
  | 2 => a.slt b
  | 3 => !a.slt b
  | 4 => a.ult b
  | _ => !a.ult b

/-! ### Faults of a tile -/

def setTileSt (c k i : Nat) (v : TileSt) (s : State) : State :=
  s.modSlot c fun x =>
    { x with tileCmds := x.tileCmds.map fun q => if q.k = k then { q with tiles := KV.insert q.tiles i v } else q }

/-- A fault of the sequencer or vector unit of a tile aborts the RUN there; its command carries the code and the
context follows Table 2.6 (R231, R221). `pc` is the word address, `trap` the trap code. -/
def tileFault (c : Nat) (t : Tile) (code pc trap : Nat) (s : State) : State :=
  match (s.seq c t).run with
  | none => s
  | some k =>
    let s := setTileSt c k t.idx (.failed code pc trap) s
    let s := match (s.slot c).tileCmds.find? (fun q => q.k == k) with
      | some q => s.complete c 1 0 k (q.record code)
      | none => s
    let s := s.modSlot c fun x => { x with tileCmds := x.tileCmds.filter (fun q => q.k != k) }
    raiseCause s c code (BitVec.ofNat 32 (if code = Code.seqTrap then trap else 0)) 0

/-! ### RUN -/

/-- A RUN begins on a tile: pc, the packet counter, and fixed Lines of the vector unit from slot 0
(R227, R236). -/
def startTile (c k : Nat) (entry nominal : Nat) (i : Nat) (s : State) : State :=
  let t := tileOf (i / 32) (i % 32)
  let s := s.modSeq c t fun q =>
    { q with pc := BitVec.ofNat 13 entry, run := some k, wait := .none, ended := false }
  let s := s.modVunit t fun u => { u with pktRow := 0, hdrOf := none }
  let p := s.part c
  let s := forEach (List.range p.lineCount.toNat) (fun l s =>
    match lineFor s c t l 3 false with
    | .ok (key, g) => if g.fixed then s.modLine key fun r => { r with head := 0 } else s
    | .error _ => s) s
  s.modSlot c fun x =>
    { x with
      tileCmds := x.tileCmds.map fun q =>
        if q.k = k then { q with tiles := KV.insert q.tiles i .running, late := max q.late (s.now - nominal) }
        else q }

/-- Start the tile's first waiting RUN if its sequencer is free. -/
def nextOnTile (c : Nat) (t : Tile) (s : State) : State :=
  if (s.seq c t).run.isSome then s
  else
    match (s.slot c).tileCmds.find? (fun q => (addressed q).elem t.idx && KV.get .waiting q.tiles t.idx == .waiting) with
    | some q => startTile c q.k q.entry q.started t.idx s
    | none => s

/-- A tile is finished with its RUN when END has issued and its vector unit has no instruction of it left
(R227); its next RUN then starts. -/
def settleTile (c : Nat) (t : Tile) (s : State) : State :=
  let q := s.seq c t
  match q.run with
  | some k =>
    if q.ended && (s.vunit t).queue.all (fun v => v.ctx != c) then
      let s := setTileSt c k t.idx .done s
      nextOnTile c t (s.modSeq c t fun q => { q with run := none, ended := false })
    else s
  | none => s

/-- The next command of the class-1 list, when it is of the kind and may start. -/
def tileNext (s : State) (c kind : Nat) : Option (Cmd × TileCmd) :=
  let x := s.slot c
  match x.nextCmd 1 0 with
  | some q =>
    if x.mayStart s.now 1 q = true ∧ q.kind = kind then
      let w := (q.body.getD 0 0).toNat
      some (q, { k := q.k, rowMask := BitVec.ofNat 16 (bitsOf w 15 0), colMask := BitVec.ofNat 32 (bitsOf w 47 16)
                 entry := bitsOf w 60 48, started := x.dueAt 1 q, late := 0, tiles := [] })
    else none
  | none => none

/-- RUN (R227). -/
def runCmd (c : Nat) (s : State) : State :=
  match tileNext s c 0 with
  | some (_, q) =>
    let s := s.modSlot c fun x => { (x.advance 1 0) with tileCmds := x.tileCmds ++ [q] }
    forEach (addressed q) (fun i s => nextOnTile c (tileOf (i / 32) (i % 32)) s) s
  | none => s

/-- RUN_COMPLETE (R227): the first RUN whose every addressed tile is done writes its record. -/
def runComplete (c : Nat) (s : State) : State :=
  match (s.slot c).tileCmds.find? (fun q => (addressed q).all (fun i => (KV.get .waiting q.tiles i).isDone)) with
  | some q =>
    (s.complete c 1 0 q.k (q.record 0)).modSlot c fun x =>
      { x with tileCmds := x.tileCmds.filter (fun r => r.k != q.k) }
  | none => s

/-! ### The narrow view -/

/-- Effective address and updated address register of a format N word (R230). -/
def narrowEa (q : Seq) (w : W32) : BitVec 18 × Seq :=
  let a := fld w 20 18
  let imm := (BitVec.ofNat 17 (fld w 16 0)).signExtend 18
  if fld w 17 17 = 0 then (q.rdA a + imm, q) else (q.rdA a, q.wrA a (q.rdA a + imm))

/-- Row key and byte of a narrow address; `none` outside the partition (R183). -/
def narrowPlace (s : State) (c : Nat) (t : Tile) (a : BitVec 18) : Option (Nat × Nat) :=
  let row := (a.toNat / 64) % 256
  let bank := a.toNat / 16384
  let p := s.part c
  if row < 16 * p.rowBlocks.toNat then
    some (rowKey (s.physTile t) bank (16 * p.rowBase.toNat + row), 8 * (a.toNat % 64))
  else none

/-- The access of the narrow view to a bank (R180). -/
def narrowAsk (c : Nat) (t : Tile) (a : BitVec 18) : Ask := ⟨t, a.toNat / 16384, 7, c, 0, false⟩

/-- LDP (R184, R230). -/
def seqLdp (t : Tile) (c : Nat) (s : State) : State :=
  match seqReady s c t .ldp with
  | none => s
  | some w =>
    let q := s.seq c t
    let (ea, q') := narrowEa q w
    match narrowPlace s c t ea with
    | none => tileFault c t Code.tubPartition q.pc.toNat 0 s
    | some (k, b) =>
      let s := checkWord k 1 (b / 64) (s.ask (narrowAsk c t ea))
      if s.tub.poisoned k (b / 64) then
        tileFault c t Code.tubPoison q.pc.toNat 0
          { s with tub := { s.tub with poisonReads := sat32 s.tub.poisonReads 1 } }
      else
        let n := fun i => BitVec.ofNat 32 (leNat (KV.getList 0 s.tubMem (512 * k + b + i) 4))
        let r := fld w 25 21
        s.modSeq c t fun _ => (((q'.wr r (n 0)).wr (r + 1) (n 4))).next

/-- STP (R184, R230): read, merge, write; a poisoned word stays poisoned (R202). -/
def seqStp (t : Tile) (c : Nat) (s : State) : State :=
  match seqReady s c t .stp with
  | none => s
  | some w =>
    let q := s.seq c t
    let (ea, q') := narrowEa q w
    match narrowPlace s c t ea with
    | none => tileFault c t Code.tubPartition q.pc.toNat 0 s
    | some (k, b) =>
      let s := checkWord k 1 (b / 64) (s.ask (narrowAsk c t ea))
      let r := fld w 25 21
      let bytes := leBytes 4 (q.rd r).toNat ++ leBytes 4 (q.rd (r + 1)).toNat
      let s := { s with
        tubMem := KV.setList 0 s.tubMem (512 * k + b) bytes
        tub := { s.tub.dropRinse k with errs := KV.set 0 s.tub.errs (8 * k + b / 64) 0 } }
      s.modSeq c t fun _ => q'.next

/-! ### Control -/

/-- Cycle count of the class-1 range in force. -/
def rangeCycle (s : State) (c : Nat) : Nat :=
  match List.find? (fun e => e.1 / 8 == 1) (s.slot c).att.ranges with
  | some e => s.now - e.2
  | none => 0

/-- WAITU (R230): go on if the cycle has come, else wait. The sum s[sa] + imm21 is a two's complement value, and a negative
one has come; imm21, which no words call sign-extended, counts as it stands (log entry 92). -/
def seqWaitu (t : Tile) (c : Nat) (s : State) : State :=
  match seqReady s c t .waitu with
  | none => s
  | some w =>
    let target := (s.seq c t).rd (fld w 25 21) + BitVec.ofNat 32 (fld w 20 0)
    if target.toInt ≤ rangeCycle s c then s.modSeq c t Seq.next
    else s.modSeq c t fun q => { q with wait := .until_ target.toNat }

/-- WAITU_REACHED (R230). -/
def seqWaituReached (t : Tile) (c : Nat) (s : State) : State :=
  match (s.seq c t).wait with
  | .until_ n =>
    if n ≤ rangeCycle s c then s.modSeq c t fun q => { q with wait := .none }.next else s
  | _ => s

/-- Has the vector unit finished every instruction of the context (R230)? -/
def vectorIdle (s : State) (c : Nat) (t : Tile) : Bool := (s.vunit t).queue.all (fun v => v.ctx != c)

/-- WAITV (R230). -/
def seqWaitv (t : Tile) (c : Nat) (s : State) : State :=
  match seqReady s c t .waitv with
  | none => s
  | some _ =>
    if vectorIdle s c t then s.modSeq c t Seq.next else s.modSeq c t fun q => { q with wait := .vector }

/-- WAITV_DRAINED (R230). -/
def seqWaitvDrained (t : Tile) (c : Nat) (s : State) : State :=
  if (s.seq c t).wait = .vector ∧ vectorIdle s c t = true then
    s.modSeq c t fun q => { q with wait := .none }.next
  else s

/-- END (R227). -/
def seqEnd (t : Tile) (c : Nat) (s : State) : State :=
  match seqReady s c t .end_ with
  | none => s
  | some _ => settleTile c t (s.modSeq c t fun q => { q with ended := true })

/-- TRAP (R231). -/
def seqTrap (t : Tile) (c : Nat) (s : State) : State :=
  match seqReady s c t .trap with
  | none => s
  | some w => tileFault c t Code.seqTrap (s.seq c t).pc.toNat (fld w 15 0) s

/-- The special values of Table 7.14. -/
def specialValue (s : State) (c : Nat) (t : Tile) (spr : Nat) : W32 :=
  let x := s.slot c
  match spr with
  | 0 => BitVec.ofNat 32 t.row.val
  | 1 => BitVec.ofNat 32 t.col.val
  | 2 => BitVec.ofNat 32 c
  | 3 => x.stk.index.setWidth 32
  | 4 => (x.stk.index >>> 32).setWidth 32
  | 5 => x.cur.step
  | 6 => BitVec.ofNat 32 x.phase
  | 7 => BitVec.ofNat 32 (16 * (s.part c).rowBlocks.toNat)
  | _ => BitVec.ofNat 32 (s.part c).lineCount.toNat

/-- VECTOR_SEND (R228, R233): a full queue holds the sequencer. -/
def vectorSend (t : Tile) (c : Nat) (s : State) : State :=
  match seqReady s c t .vector, seqWordAt s c t 1 with
  | some w0, some w1 =>
    if (s.vunit t).queue.length < 16 then
      let q := s.seq c t
      let v : VInstr := ⟨w0, w1, q.rd (fld w0 4 0), c, q.pc.toNat, (s.vunit t).sent⟩
      let s := s.modVunit t fun u => { u with queue := u.queue ++ [v], sent := u.sent + 1 }
      s.modSeq c t fun q =>
        { q with
          pc := q.pc + 2
          pend := if vopCode (fld w0 25 21) = some .vmovs then q.pend ++ [fld w0 4 0] else q.pend }
    else s
  | _, _ => s

/-- LGEN and LOCC read a context Line of the tile (R190, R193); a Line not set up raises F_LINE_UNSET (R185). -/
def seqLineRead (op : SeqOp) (f : State → Nat → LineCfg → W32) (t : Tile) (c : Nat) (s : State) : State :=
  match seqReady s c t op with
  | none => s
  | some w =>
    match lineKey? s c t (fld w 20 17) with
    | none => tileFault c t Code.lineUnset (s.seq c t).pc.toNat 0 s
    | some k =>
      match (s.line k).cfg with
      | none => tileFault c t Code.lineUnset (s.seq c t).pc.toNat 0 s
      | some g => s.modSeq c t fun q => (q.wr (fld w 25 21) (f s k g)).next

def execRun (c : Slot) (s : State) : Res := powered s (runCmd c.val s)
def execRunComplete (c : Slot) (s : State) : Res := powered s (runComplete c.val s)
def execSeqAdd (t : Tile) (c : Slot) (s : State) : Res := powered s (seqO .add (· + ·) t c.val s)
def execSeqSub (t : Tile) (c : Slot) (s : State) : Res := powered s (seqO .sub (· - ·) t c.val s)
def execSeqAnd (t : Tile) (c : Slot) (s : State) : Res := powered s (seqO .and_ (· &&& ·) t c.val s)
def execSeqOr (t : Tile) (c : Slot) (s : State) : Res := powered s (seqO .or_ (· ||| ·) t c.val s)
def execSeqXor (t : Tile) (c : Slot) (s : State) : Res := powered s (seqO .xor_ (· ^^^ ·) t c.val s)
def execSeqShl (t : Tile) (c : Slot) (s : State) : Res := powered s (seqO .shl (fun a b => a <<< shamt b) t c.val s)
def execSeqShr (t : Tile) (c : Slot) (s : State) : Res := powered s (seqO .shr (fun a b => a >>> shamt b) t c.val s)
def execSeqSra (t : Tile) (c : Slot) (s : State) : Res :=
  powered s (seqO .sra (fun a b => a.sshiftRight (shamt b)) t c.val s)
def execSeqMul (t : Tile) (c : Slot) (s : State) : Res := powered s (seqO .mul (· * ·) t c.val s)
def execSeqMulh (t : Tile) (c : Slot) (s : State) : Res := powered s (seqO .mulh mulhS t c.val s)
def execSeqMulhu (t : Tile) (c : Slot) (s : State) : Res := powered s (seqO .mulhu mulhU t c.val s)
def execSeqMin (t : Tile) (c : Slot) (s : State) : Res :=
  powered s (seqO .min_ (fun a b => if b.slt a then b else a) t c.val s)
def execSeqMax (t : Tile) (c : Slot) (s : State) : Res :=
  powered s (seqO .max_ (fun a b => if a.slt b then b else a) t c.val s)
def execSeqMinu (t : Tile) (c : Slot) (s : State) : Res :=
  powered s (seqO .minu (fun a b => if b.ult a then b else a) t c.val s)
def execSeqMaxu (t : Tile) (c : Slot) (s : State) : Res :=
  powered s (seqO .maxu (fun a b => if a.ult b then b else a) t c.val s)
def execSeqSel (t : Tile) (c : Slot) (s : State) : Res :=
  powered s (seqDo .sel (fun _ q w =>
    (q.wr (fld w 25 21) (if q.rdP (fld w 10 9) then q.rd (fld w 20 16) else q.rd (fld w 15 11))).next) t c.val s)
def execSeqPopc (t : Tile) (c : Slot) (s : State) : Res := powered s (seqO .popc (fun a _ => popc32 a) t c.val s)
def execSeqClz (t : Tile) (c : Slot) (s : State) : Res := powered s (seqO .clz (fun a _ => clz32 a) t c.val s)
def execSeqCtz (t : Tile) (c : Slot) (s : State) : Res := powered s (seqO .ctz (fun a _ => ctz32 a) t c.val s)
def execSeqAddi (t : Tile) (c : Slot) (s : State) : Res := powered s (seqK .addi (· + ·) true t c.val s)
def execSeqAndi (t : Tile) (c : Slot) (s : State) : Res := powered s (seqK .andi (· &&& ·) false t c.val s)
def execSeqOri (t : Tile) (c : Slot) (s : State) : Res := powered s (seqK .ori (· ||| ·) false t c.val s)
def execSeqXori (t : Tile) (c : Slot) (s : State) : Res := powered s (seqK .xori (· ^^^ ·) false t c.val s)
def execSeqShli (t : Tile) (c : Slot) (s : State) : Res :=
  powered s (seqK .shli (fun a b => a <<< shamt b) false t c.val s)
def execSeqShri (t : Tile) (c : Slot) (s : State) : Res :=
  powered s (seqK .shri (fun a b => a >>> shamt b) false t c.val s)
def execSeqSrai (t : Tile) (c : Slot) (s : State) : Res :=
  powered s (seqK .srai (fun a b => a.sshiftRight (shamt b)) false t c.val s)
def execSeqLui (t : Tile) (c : Slot) (s : State) : Res := powered s (seqK .lui (fun _ b => b <<< 16) false t c.val s)
def execSeqCmp (t : Tile) (c : Slot) (s : State) : Res :=
  powered s (seqDo .cmp (fun _ q w =>
    (q.wrP (fld w 25 24) (seqCond (fld w 23 21) (q.rd (fld w 20 16)) (q.rd (fld w 15 11)))).next) t c.val s)
def execSeqCmpi (t : Tile) (c : Slot) (s : State) : Res :=
  powered s (seqDo .cmpi (fun _ q w =>
    (q.wrP (fld w 25 24) (seqCond (fld w 23 21) (q.rd (fld w 20 16))
      ((BitVec.ofNat 16 (fld w 15 0)).signExtend 32))).next) t c.val s)
def execSeqAdda (t : Tile) (c : Slot) (s : State) : Res :=
  powered s (seqDo .adda (fun _ q w => (q.wrA (fld w 25 23) (q.rdA (fld w 22 20) + BitVec.ofNat 18 (fld w 17 0))).next)
    t c.val s)
def execSeqMova (t : Tile) (c : Slot) (s : State) : Res :=
  powered s (seqDo .mova (fun _ q w => (q.wrA (fld w 25 23) ((q.rd (fld w 22 18)).setWidth 18)).next) t c.val s)
def execSeqMovs (t : Tile) (c : Slot) (s : State) : Res :=
  powered s (seqDo .movs (fun _ q w => (q.wr (fld w 25 21) ((q.rdA (fld w 20 18)).setWidth 32)).next) t c.val s)
def execSeqLdp (t : Tile) (c : Slot) (s : State) : Res := powered s (seqLdp t c.val s)
def execSeqStp (t : Tile) (c : Slot) (s : State) : Res := powered s (seqStp t c.val s)
def execSeqBr (t : Tile) (c : Slot) (s : State) : Res :=
  powered s (seqDo .br (fun _ q w =>
    if q.rdP (fld w 25 24) = (fld w 23 23 == 1) then { q with pc := q.pc + BitVec.ofNat 13 (fld w 15 0) } else q.next)
    t c.val s)
def execSeqWaitu (t : Tile) (c : Slot) (s : State) : Res := powered s (seqWaitu t c.val s)
def execSeqWaituReached (t : Tile) (c : Slot) (s : State) : Res := powered s (seqWaituReached t c.val s)
def execSeqWaitv (t : Tile) (c : Slot) (s : State) : Res := powered s (seqWaitv t c.val s)
def execSeqWaitvDrained (t : Tile) (c : Slot) (s : State) : Res := powered s (seqWaitvDrained t c.val s)
def execSeqEnd (t : Tile) (c : Slot) (s : State) : Res := powered s (seqEnd t c.val s)
def execSeqTrap (t : Tile) (c : Slot) (s : State) : Res := powered s (seqTrap t c.val s)
def execSeqNop (t : Tile) (c : Slot) (s : State) : Res := powered s (seqDo .nop (fun _ q _ => q.next) t c.val s)
def execSeqLgen (t : Tile) (c : Slot) (s : State) : Res :=
  powered s (seqLineRead .lgen (fun s k _ => (lineGen s k).setWidth 32) t c.val s)
def execSeqLocc (t : Tile) (c : Slot) (s : State) : Res :=
  powered s (seqLineRead .locc (fun s k g => BitVec.ofNat 32 ((s.line k).occ g)) t c.val s)
def execSeqMfs (t : Tile) (c : Slot) (s : State) : Res :=
  powered s (seqDo .mfs (fun s q w => (q.wr (fld w 25 21) (specialValue s c.val t (fld w 20 16))).next) t c.val s)
def execVectorSend (t : Tile) (c : Slot) (s : State) : Res := powered s (vectorSend t c.val s)

end Sys2Proof.Machine
end

