-- ==== Sys2Proof/Machine/VectorUnit.lean ====
section
/-!
DEFINITION. The vector unit: every operation of Table 7.16 (R232 to R236), with the packet rows of R160 to R163.
-/

namespace Sys2Proof.Machine

/-! ### Lanes and elements of a row -/

def lane (r : Row) (l : Nat) : W32 := (r >>> (32 * l)).setWidth 32

/-- A number from digits of `w` bits, least significant first. -/
def packNat (w : Nat) : List Nat → Nat
  | [] => 0
  | d :: ds => d % 2 ^ w + 2 ^ w * packNat w ds

def ofLanes (ls : List W32) : Row := BitVec.ofNat 4096 (packNat 32 (ls.map BitVec.toNat))
def lanes : List Nat := List.range 128
def mapLanes (f : Nat → W32) : Row := ofLanes (lanes.map f)

/-- The bits of an element that a format uses: an FP6 element ignores bits [7:6] of its byte (R112). -/
def elemBits (f : Fmt) (n : Nat) : Nat := if f = .e3m2 ∨ f = .e2m3 then n % 64 else n % 2 ^ f.width

/-- Element `e` of a row in a format. -/
def elemAt (f : Fmt) (r : Row) (e : Nat) : Nat := elemBits f (r.toNat / 2 ^ (f.width * e))
def ofElems (f : Fmt) (es : List Nat) : Row := BitVec.ofNat 4096 (packNat f.width es)
def byteAt (r : Row) (b : Nat) : Nat := (r.toNat / 2 ^ (8 * b)) % 256

/-- Is element `e` not all zero bits? FP6 elements are six bits (R112, R161). -/
def elemNz (f : Fmt) (r : Row) (e : Nat) : Bool := elemAt f r e != 0

/-- A row of elements as its writer leaves it: bits [7:6] of an FP6 element zero (R112). -/
def cleanRow (f : Fmt) (r : Row) : Row :=
  if f = .e3m2 ∨ f = .e2m3 then ofElems f ((List.range f.perRow).map (elemAt f r)) else r

/-- The bitmap of a row (R161, VNZB). -/
def bitmapOf (f : Fmt) (r : Row) : Row :=
  BitVec.ofNat 4096 (packNat 1 ((List.range f.perRow).map (fun e => (elemNz f r e).toNat)))

def popcRow (r : Row) : Nat := ((List.range 4096).filter (fun i => r.getLsbD i)).length

/-! ### Packets -/

/-- Body bytes of a bitmap row with `nz` elements (R161). -/
def bodyBytes (f : Fmt) (nz : Nat) : Nat := f.perRow / 8 + (nz * f.width + 7) / 8

/-- The packed row and header of a dense row (R160, R161): the bitmap form when it is shorter than 512. -/
def packRow (f : Fmt) (r : Row) : Row × W64 × Bool :=
  let nzs := (List.range f.perRow).filter (elemNz f r)
  let bytes := bodyBytes f nzs.length
  if bytes < 512 then
    let body := (bitmapOf f r).toNat + 2 ^ f.perRow * packNat f.width (nzs.map (elemAt f r))
    (BitVec.ofNat 4096 body, BitVec.ofNat 64 (1 + 4 * f.code + 256 * nzs.length + 524288 * bytes), true)
  else (cleanRow f r, BitVec.ofNat 64 (4 * f.code + 256 * nzs.length + 524288 * 512), false)

/-- Check a header against its row and the expected format, and give the dense row (R161, R163). -/
def unpackRow (f : Fmt) (hdr : W64) (row : Row) : Option Row :=
  let h := hdr.toNat
  let form := bitsOf h 1 0
  let nz := bitsOf h 18 8
  let bytes := bitsOf h 28 19
  if bitsOf h 7 6 ≠ 0 ∨ bitsOf h 63 29 ≠ 0 ∨ bitsOf h 5 2 ≠ f.code then none
  else if form = 0 then
    (if bytes = 512 then some (cleanRow f row) else none)
  else if form = 1 then
    let map := row.toNat % 2 ^ f.perRow
    let set := (List.range f.perRow).filter (fun e => Nat.testBit map e)
    if nz = set.length ∧ bytes = bodyBytes f nz then
      let body := row.toNat / 2 ^ f.perRow
      let place := fun e =>
        if Nat.testBit map e then
          let k := (set.filter (fun x => decide (x < e))).length
          elemBits f (body / 2 ^ (f.width * k))
        else 0
      some (ofElems f ((List.range f.perRow).map place))
    else none
  else none

/-! ### Conversion -/

/-- Value of element `e` of quarter-form conversion: FP4 under its scale byte (R235). -/
def cvtLane (f : Fmt) (q : Nat) (src : Row) (scales : Row) (vc : Nat) (l : Nat) : FVal :=
  let e := 128 * q + l
  match f with
  | .fp4 => fp4Scaled (elemAt f src e) (byteAt scales (32 * vc + 4 * q + l / 32))
  | _ => f.value (elemAt f src e)

def countNonFinite (vs : List FVal) : Nat := (vs.filter (fun v => !v.isFinite)).length

/-- Encode one FP32 value into a format other than FP4 (R128 to R130, R134): integers saturate, NaN gives 0. -/
def encodeElem (f : Fmt) (md : RMode) (v : FVal) : Nat :=
  match f.ffmt with
  | some g => g.encode md v
  | none =>
    let (lo, hi) := f.intRange
    match v with
    | .nan => 0
    | .inf true => intBits f.width lo
    | .inf false => intBits f.width hi
    | .fin s m e => intBits f.width (clampInt lo hi (roundInt md s m e))

/-- Sum of a list by the fixed tree of R126, each addition rounded to nearest; `n` levels. -/
def treeFold (f : W32 → W32 → W32) : Nat → List W32 → List W32
  | 0, l => l
  | n + 1, l => treeFold f n (pairUp l)
where
  pairUp : List W32 → List W32
    | a :: b :: l => f a b :: pairUp l
    | l => l

/-- Comparison of VCMP (R134, Table 7.16). -/
def vcmpTest (cond : Nat) (a b : W32) : Bool :=
  match cond with
  | 0 => f32eq a b
  | 1 => f32lt a b
  | 2 => f32le a b
  | _ => !f32eq a b

/-! ### Execution -/

def VUnit.reg (u : VUnit) (i : Nat) : Row := KV.get 0 u.v i
def VUnit.setReg (u : VUnit) (i : Nat) (r : Row) : VUnit := { u with v := KV.set 0 u.v i r }

/-- The instruction at the head of the tile's vector queue, when it is `op` of the running context `c`. -/
def vecHead (s : State) (c : Nat) (t : Tile) (op : VOp) : Option (VInstr × VFields) :=
  let x := s.slot c
  match (s.vunit t).queue with
  | v :: _ =>
    match vfields v.w0 v.w1 with
    | some f =>
      if v.ctx = c ∧ f.op = op ∧ x.st = .running ∧ x.att.on = true ∧ x.att.cause = 0 then some (v, f) else none
    | none => none
  | [] => none

/-- Remove the executed instruction; the tile may be finished with its RUN (R227). -/
def vecPop (c : Nat) (t : Tile) (s : State) : State :=
  settleTile c t (s.modVunit t fun u => { u with queue := u.queue.tail })

/-- Execute an operation that changes only the unit's registers and match count. -/
def vecDo (op : VOp) (f : State → VUnit → VInstr → VFields → VUnit) (t : Tile) (c : Nat) (s : State) : State :=
  match vecHead s c t op with
  | some (v, g) => vecPop c t (s.modVunit t fun u => f s u v g)
  | none => s

/-- The Tumble seed of the context (R135). -/
def Ctx.seed (x : Ctx) : W64 :=
  match x.img with
  | some h => h.seed
  | none => 0

/-- Rounding mode of element `i` of an instruction (R235). -/
def vecMode (s : State) (c round layer : Nat) (v : VInstr) (i : Nat) : RMode :=
  let x := s.slot c
  rmodeOf round (tumble x.seed x.cur.step (BitVec.ofNat 16 layer) (v.se + BitVec.ofNat 32 i))

/-- Lanewise arithmetic with the instruction's rounding. -/
def vecArith (op : VOp) (f : FVal → FVal → FVal → FVal) (t : Tile) (c : Nat) : State → State :=
  vecDo op (fun s u v g =>
    u.setReg g.vd (mapLanes fun l =>
      f32round (vecMode s c (g.sub % 4) g.layer v l)
        (f (f32val (lane (u.reg g.va) l)) (f32val (lane (u.reg g.vb) l)) (f32val (lane (u.reg g.vc) l))))) t c

/-- Lanewise function of FP32 words. -/
def vecMap2 (op : VOp) (f : VFields → W32 → W32 → W32) (t : Tile) (c : Nat) : State → State :=
  vecDo op (fun _ u _ g => u.setReg g.vd (mapLanes fun l => f g (lane (u.reg g.va) l) (lane (u.reg g.vb) l))) t c

/-- Function of whole rows. -/
def vecRow (op : VOp) (f : VFields → Row → Row → Row) (t : Tile) (c : Nat) : State → State :=
  vecDo op (fun _ u _ g => u.setReg g.vd (f g (u.reg g.va) (u.reg g.vb))) t c

/-- Signal non-finite values to the context's watch unit (R130, R134, R235). -/
def signalNonFinite (c n : Nat) (s : State) : State :=
  s.modSlot c fun x => { x with nfPending := x.nfPending + n }

/-- A stalled access of the vector unit: with nonconf_fault the wait ends the RUN (R59, R196). -/
def vecStall (c : Nat) (t : Tile) (v : VInstr) (s : State) : State :=
  if nonconf s c then tileFault c t Code.nonconformance v.pc 0 s else s

/-- The vector unit's instruction as the user of a Line. -/
def vecUser (t : Tile) (v : VInstr) : User := ⟨3, opId 1 t.idx v.num⟩

/-- VLD (R236). -/
def vecLd (t : Tile) (c : Nat) (s : State) : State :=
  match vecHead s c t .vld with
  | none => s
  | some (v, g) =>
    match lineRead s c t g.line (vecUser t v) (g.sub == 0) with
    | (.done row, s) => vecPop c t (s.modVunit t fun u => u.setReg g.vd row)
    | (.stall, s) => vecStall c t v s
    | (.fault code, s) => tileFault c t code v.pc 0 s

/-- VST (R236). -/
def vecSt (t : Tile) (c : Nat) (s : State) : State :=
  match vecHead s c t .vst with
  | none => s
  | some (v, g) =>
    match lineWrite s c t g.line (vecUser t v) ((s.vunit t).reg g.vd) with
    | (.done _, s) => vecPop c t s
    | (.stall, s) => vecStall c t v s
    | (.fault code, s) => tileFault c t code v.pc 0 s

/-- VLDP (R163, R236): the header row at every 64th packet row, then the packet, checked and expanded. -/
def vecLdp (t : Tile) (c : Nat) (s : State) : State :=
  match vecHead s c t .vldp with
  | none => s
  | some (v, g) =>
    let n := (s.vunit t).pktRow
    let (acc, s) :=
      if (s.vunit t).hdrOf = some (n / 64) then (LineAcc.done 0, s)
      else
        match lineRead s c t g.line2 (vecUser t v) true with
        | (.done row, s) => (LineAcc.done row, s.modVunit t fun u => { u with hdr := row, hdrOf := some (n / 64) })
        | r => r
    match acc with
    | .stall => vecStall c t v s
    | .fault code => tileFault c t code v.pc 0 s
    | .done _ =>
      match lineRead s c t g.line (vecUser t v) true with
      | (.stall, s) => vecStall c t v s
      | (.fault code, s) => tileFault c t code v.pc 0 s
      | (.done row, s) =>
        let hdr : W64 := ((s.vunit t).hdr >>> (64 * (n % 64))).setWidth 64
        match Fmt.ofCode g.fmt with
        | none => tileFault c t Code.formatFault v.pc 0 s
        | some f =>
          match unpackRow f hdr row with
          | some dense => vecPop c t (s.modVunit t fun u => { u.setReg g.vd dense with pktRow := n + 1 })
          | none => tileFault c t Code.formatFault v.pc 0 s

/-- VCVT (R235). -/
def vecCvt (t : Tile) (c : Nat) (s : State) : State :=
  match vecHead s c t .vcvt with
  | none => s
  | some (_, g) =>
    match Fmt.ofCode g.fmt with
    | none => s
    | some f =>
      let u := s.vunit t
      let vs := lanes.map (cvtLane f g.sub (u.reg g.va) (u.reg g.vb) g.vc)
      let s := signalNonFinite c (countNonFinite vs) s
      vecPop c t (s.modVunit t fun u => u.setReg g.vd (ofLanes (vs.map f32rne)))

/-- Elements of an FP4 row with its 32 scale codes (R118). -/
def packFp4 (md : Nat → RMode) (vs : List FVal) : List Nat × List Nat :=
  let blocks := (List.range 32).map fun b => (vs.drop (32 * b)).take 32
  let scales := blocks.map fp4Scale
  let els := (List.range 1024).map fun e =>
    fp4Elem (scales.getD (e / 32) (0, none)).2 (md e) (vs.getD e (.fin false 0 0))
  (els, scales.map Prod.fst)

/-- Replace bytes `[off, off + n)` of a row. -/
def putBytes (r : Row) (off : Nat) (bs : List Nat) : Row :=
  let w := 8 * bs.length
  let mask : Row := BitVec.ofNat 4096 ((2 ^ w - 1) * 2 ^ (8 * off))
  (r &&& ~~~ mask) ||| BitVec.ofNat 4096 (packNat 8 bs * 2 ^ (8 * off))

/-- VPACK (R235). -/
def vecPack (t : Tile) (c : Nat) (s : State) : State :=
  match vecHead s c t .vpack with
  | none => s
  | some (v, g) =>
    match Fmt.ofCode g.fmt with
    | none => s
    | some f =>
      let u := s.vunit t
      let vs := (List.range f.perRow).map fun e => f32val (lane (u.reg (g.va + e / 128)) (e % 128))
      let md := vecMode s c g.vc g.layer v
      let s := signalNonFinite c (countNonFinite vs) s
      if f = .fp4 then
        let (els, scs) := packFp4 md vs
        vecPop c t (s.modVunit t fun u =>
          (u.setReg g.vd (ofElems f els)).setReg g.vb (putBytes (u.reg g.vb) (32 * g.sub) scs))
      else
        let els := (List.range f.perRow).map fun e => encodeElem f (md e) (vs.getD e (.fin false 0 0))
        vecPop c t (s.modVunit t fun u => u.setReg g.vd (ofElems f els))

/-- The function table a context names by number (R139). -/
def tableOf (s : State) (c n : Nat) : FTable :=
  KV.get ⟨0, 0, 0, 0, 0, 0, 0, 0, 0, 0, 0, 0, 0, 0, []⟩ s.ftabs ((s.slot c).ftMap.getD n 0)

/-- VMATCH: the matched elements of two rows, and their number (R235). -/
def matchRows (f : Fmt) (a b : Row) : Row × Row × Nat :=
  let pos := (List.range f.perRow).filter fun e => elemNz f a e && elemNz f b e
  (ofElems f (pos.map (elemAt f a)), ofElems f (pos.map (elemAt f b)), pos.length)

/-- VMOVS: the scalar register is written and no longer outstanding (R228, R236). -/
def vecMovs (t : Tile) (c : Nat) (s : State) : State :=
  match vecHead s c t .vmovs with
  | none => s
  | some (v, g) =>
    let u := s.vunit t
    let val : W32 := if g.sub = 0 then lane (u.reg g.va) 0 else u.matchCount.setWidth 32
    let r := fld v.w0 4 0
    vecPop c t (s.modSeq c t fun q => { q.wr r val with pend := q.pend.erase r })

def execVld (t : Tile) (c : Slot) (s : State) : Res := powered s (vecLd t c.val s)
def execVst (t : Tile) (c : Slot) (s : State) : Res := powered s (vecSt t c.val s)
def execVldp (t : Tile) (c : Slot) (s : State) : Res := powered s (vecLdp t c.val s)
def execVcvt (t : Tile) (c : Slot) (s : State) : Res := powered s (vecCvt t c.val s)
def execVpack (t : Tile) (c : Slot) (s : State) : Res := powered s (vecPack t c.val s)
def execVadd (t : Tile) (c : Slot) (s : State) : Res := powered s (vecArith .vadd (fun a b _ => a.add b) t c.val s)
def execVsub (t : Tile) (c : Slot) (s : State) : Res := powered s (vecArith .vsub (fun a b _ => a.sub b) t c.val s)
def execVmul (t : Tile) (c : Slot) (s : State) : Res := powered s (vecArith .vmul (fun a b _ => a.mul b) t c.val s)
def execVfma (t : Tile) (c : Slot) (s : State) : Res :=
  powered s (vecArith .vfma (fun a b d => (a.mul b).add d) t c.val s)
def execVmin (t : Tile) (c : Slot) (s : State) : Res := powered s (vecMap2 .vmin (fun _ => f32min) t c.val s)
def execVmax (t : Tile) (c : Slot) (s : State) : Res := powered s (vecMap2 .vmax (fun _ => f32max) t c.val s)
def execVcmp (t : Tile) (c : Slot) (s : State) : Res :=
  powered s (vecMap2 .vcmp (fun g a b => if vcmpTest g.sub a b then f32one else f32zero) t c.val s)
def execVsel (t : Tile) (c : Slot) (s : State) : Res :=
  powered s (vecDo .vsel (fun _ u _ g => u.setReg g.vd (mapLanes fun l =>
    if (f32val (lane (u.reg g.va) l)).isZero then lane (u.reg g.vc) l else lane (u.reg g.vb) l)) t c.val s)
def execVtab (t : Tile) (c : Slot) (s : State) : Res :=
  powered s (vecDo .vtab (fun s u _ g => u.setReg g.vd (mapLanes fun l =>
    (tableOf s c.val g.fmt).eval (lane (u.reg g.va) l))) t c.val s)
def execVreds (t : Tile) (c : Slot) (s : State) : Res :=
  powered s (vecRow .vreds (fun _ a _ => ofLanes (treeFold f32add 7 (lanes.map (lane a)))) t c.val s)
def execVredm (t : Tile) (c : Slot) (s : State) : Res :=
  powered s (vecRow .vredm (fun _ a _ => ofLanes (treeFold f32max 7 (lanes.map (lane a)))) t c.val s)
def execVand (t : Tile) (c : Slot) (s : State) : Res := powered s (vecRow .vand (fun _ a b => a &&& b) t c.val s)
def execVor (t : Tile) (c : Slot) (s : State) : Res := powered s (vecRow .vor (fun _ a b => a ||| b) t c.val s)
def execVxor (t : Tile) (c : Slot) (s : State) : Res := powered s (vecRow .vxor (fun _ a b => a ^^^ b) t c.val s)
def execVnzb (t : Tile) (c : Slot) (s : State) : Res :=
  powered s (vecRow .vnzb (fun g a _ => match Fmt.ofCode g.fmt with
    | some f => bitmapOf f a
    | none => a) t c.val s)
def execVfold (t : Tile) (c : Slot) (s : State) : Res :=
  powered s (vecRow .vfold (fun g a _ =>
    let w := 2 ^ g.sub
    (List.range (4096 / w)).foldl (fun r k => r ||| BitVec.ofNat 4096 ((a.toNat / 2 ^ (k * w)) % 2 ^ w)) 0) t c.val s)
def execVpopc (t : Tile) (c : Slot) (s : State) : Res :=
  powered s (vecDo .vpopc (fun _ u v g => u.setReg g.vd (mapLanes fun l =>
    if l = v.se.toNat % 128 then f32ofNat (popcRow (u.reg g.va)) else lane (u.reg g.vd) l)) t c.val s)
def execVmatch (t : Tile) (c : Slot) (s : State) : Res :=
  powered s (vecDo .vmatch (fun _ u _ g => match Fmt.ofCode g.fmt with
    | some f =>
      let (a, b, n) := matchRows f (u.reg g.va) (u.reg g.vb)
      { (u.setReg g.vd a).setReg (g.vd + 1) b with matchCount := BitVec.ofNat 16 n }
    | none => u) t c.val s)
def execVbcast (t : Tile) (c : Slot) (s : State) : Res :=
  powered s (vecDo .vbcast (fun _ u v g => u.setReg g.vd (mapLanes fun _ => v.se)) t c.val s)
def execVmovs (t : Tile) (c : Slot) (s : State) : Res := powered s (vecMovs t c.val s)

end Sys2Proof.Machine
end

