-- ==== Sys2Proof/Machine/MangleMath.lean ====
section
/-!
DEFINITION. The arithmetic of a PASS: the descriptor and its checks (R73, R83, R101, R107, R108, R120, R147, R159, R162),
operand layouts in rows (R74, R75, R115, R148 to R151), products and sums (R71, R121 to R125), the Hem comparison
(R93 to R95, R126), gating (R155 to R157) and output elements (R118, R127 to R132).
-/

namespace Sys2Proof.Machine

/-- An operation of the Mangle, by a party, as the user of a Line. -/
def MglOp.user (o : MglOp) (party : Nat) : User := ⟨party, opId 0 0 o.k⟩

/-! ### The descriptor -/

/-- The number spelled by 64-bit words, first word lowest. -/
def wordsNat : List W64 → Nat
  | [] => 0
  | w :: ws => w.toNat + 18446744073709551616 * wordsNat ws

/-- A descriptor from its four body words (Tables 3.10 and 3.11). -/
def mdescOf (body : List W64) : MDesc :=
  let n := wordsNat body
  let f := fun hi lo => bitsOf n hi lo
  let b := fun i => bitsOf n i i == 1
  { opcode := f 3 0, aFmt := f 7 4, bFmt := f 11 8, cFmt := f 15 12, m := f 35 16, k := f 47 36, n := f 59 48
    aLine := f 67 64, bLine := f 71 68, cLine := f 75 72, dLine := f 79 76, dEn := b 80, accMode := f 82 81
    accSlot := f 92 83, accSlot2 := f 102 93, accDup := b 103, accNeg := b 104, accShift := f 110 105
    outShift := f 116 111, round := f 118 117, retEn := b 119, retLine := f 123 120, hemEn := b 124
    hemTol := f 132 128, duty := f 139 133, spMode := f 141 140, metaLine := f 145 142, scaleLine := f 149 146
    layer := f 175 160, elemBase := f 223 192, seqTag := BitVec.ofNat 32 (f 255 224)
    resv := f 63 60 != 0 || f 127 125 != 0 || f 159 150 != 0 || f 191 176 != 0 }

/-- Operand class (R73). -/
def mclassOf (a b : Nat) : Option MClass :=
  if a ≤ 3 ∧ b ≤ 3 then some .narrow
  else if a = 4 ∧ b = 4 then some .fp4
  else if (a = 5 ∨ a = 6) ∧ (b = 5 ∨ b = 6) then some .int
  else if (a = 7 ∧ b = 7) ∨ (a = 8 ∧ b = 8) then some .half
  else none

def MDesc.cls (d : MDesc) : MClass := (mclassOf d.aFmt d.bFmt).getD .narrow

/-- Accepted output formats of a class (Table 3.2). -/
def MClass.accepts : MClass → Nat → Bool
  | .int, c => c == 5 || c == 6 || c == 9 || c == 10
  | _, c => decide (c ≤ 4) || c == 7 || c == 8 || c == 9

/-- K_max of a dense pass (Table 3.2). -/
def MClass.kMax : MClass → Nat
  | .fp4 => 2048
  | _ => 1024

def MClass.exact : MClass → Bool
  | .half => false
  | _ => true

/-- Fraction bits f of the accumulator (R121). -/
def MClass.frac : MClass → Nat
  | .int => 0
  | _ => 32

def isIntFmt (c : Nat) : Bool := c == 5 || c == 6 || c == 10

/-- Cycles of one vector slot: r, or 2 for a returned 16-bit output (R83). -/
def MDesc.r (d : MDesc) : Nat :=
  if d.cls = .half ∨ (d.retEn = true ∧ (d.cFmt = 7 ∨ d.cFmt = 8)) then 2 else 1

/-- Is a PASS descriptor refused (R73, R83, R89, R94, R101, R108, R120, R132, R147, R159, R162)? A field counts as unused
where a rule names it unused (log entry 89). -/
def MDesc.passBad (d : MDesc) : Bool :=
  match mclassOf d.aFmt d.bFmt with
  | none => true
  | some cls =>
    let store := d.accMode != 0
    let fp4out := d.cFmt == 4
    d.opcode != 0 || d.resv || !cls.accepts d.cFmt || decide (cls.kMax < d.k) || decide (2048 < d.n) ||
    decide (64 < d.duty) || decide (23 < d.hemTol) || d.round == 3 || (d.round == 1 && isIntFmt d.cFmt) ||
    (cls.exact && d.hemTol != 0) ||
    (!store && (d.accSlot != 0 || d.accSlot2 != 0 || d.accDup)) ||
    (store && (decide (1024 < d.m) || decide (1024 < d.accSlot + d.m))) ||
    (store && d.accDup && decide (1024 < d.accSlot2 + d.m)) ||
    (d.retEn && (d.cFmt == 9 || d.cFmt == 10)) ||
    (d.retEn && decide (1024 < d.n) && decide (15 < d.retLine + 1) && !fp4out) ||
    (fp4out && (decide (14 < d.scaleLine) || d.dEn || (d.retEn && decide (14 < d.retLine)))) ||
    (cls != .fp4 && !fp4out && d.scaleLine != 0) ||
    (!isIntFmt d.cFmt && d.outShift != 0) || (cls != .int && d.accShift != 0) ||
    (d.spMode == 0 && d.metaLine != 0) ||
    (d.spMode == 1 && (cls == .half || d.k % 2 == 1 || d.metaLine == d.aLine || d.metaLine == d.bLine ||
      (cls == .fp4 && d.metaLine == d.scaleLine))) ||
    (d.spMode == 2 && (d.metaLine == d.aLine || (cls == .fp4 && d.metaLine == d.scaleLine))) ||
    (d.spMode == 3 && (d.metaLine == d.cLine || d.metaLine == d.dLine ||
      (fp4out && d.metaLine == d.scaleLine + 1)))

/-- The descriptor with the fields that a DUMMY or a RAMP uses. -/
def MDesc.bare (d : MDesc) : MDesc :=
  { opcode := d.opcode, aFmt := 0, bFmt := 0, cFmt := 0, m := if d.opcode = 1 then d.m else 0, k := 0, n := 0
    aLine := 0, bLine := 0, cLine := 0, dLine := 0, dEn := false, accMode := 0, accSlot := 0, accSlot2 := 0
    accDup := false, accNeg := false, accShift := 0, outShift := 0, round := 0, retEn := false, retLine := 0
    hemEn := false, hemTol := 0, duty := d.duty, spMode := 0, metaLine := 0, scaleLine := 0, layer := 0
    elemBase := 0, seqTag := d.seqTag, resv := false }

/-- Is a DUMMY or RAMP descriptor refused (R104, R107, R108)? -/
def MDesc.otherBad (d : MDesc) : Bool := decide (d ≠ d.bare) || decide (64 < d.duty)

/-! ### Shapes -/

def MDesc.pair (d : MDesc) : Bool := d.spMode == 1

/-- Reduction positions of a tile-row: elements of A that its 64 lanes carry. -/
def MDesc.perTileRow (d : MDesc) : Nat := if d.cls = .fp4 then 128 else 64

/-- Injector tile-rows that k_count reaches (R74). -/
def MDesc.aTiles (d : MDesc) : List Nat := (List.range 16).filter (fun j => decide (d.perTileRow * j < d.k))

/-- Tile-columns below n_count (R75, R76). -/
def MDesc.cols (d : MDesc) : List Nat := (List.range 32).filter (fun c => decide (64 * c < d.n))

/-- Tiles that read pair metadata: all 32 of each tile-row that k_count reaches (R149). -/
def MDesc.mTiles (d : MDesc) : List Nat := d.aTiles.flatMap fun j => (List.range 32).map fun c => 32 * j + c

/-- Tiles that read b_line, in tile order. -/
def MDesc.bTiles (d : MDesc) : List Nat := d.aTiles.flatMap fun j => d.cols.map fun c => 32 * j + c

/-- Rows of a weight block (R75, R150). -/
def MDesc.bRows (d : MDesc) : Nat := if d.pair ∨ d.cls = .half then 16 else 8

/-- Vectors in a row of a_line (R74). -/
def MDesc.aPer (d : MDesc) : Nat := if d.cls = .half then 4 else 8
/-- Vectors that a streamed-scale row serves (R115, R151). -/
def MDesc.sPer (d : MDesc) : Nat := if d.pair then 64 else 128
/-- Vectors that a pair-metadata row serves (R149). -/
def MDesc.mPer (d : MDesc) : Nat := if d.cls = .fp4 then 16 else 32

/-- S_min (R80, R150). -/
def MDesc.sMin (d : MDesc) : Nat :=
  if d.pair then (if d.cls = .fp4 then 256 else 384) else if d.cls = .half then 256 else 192

/-- Number in the byte range `[hi, lo]` bits of a row. -/
def rowBits (r : Row) (lo w : Nat) : Nat := (r.toNat / 2 ^ lo) % 2 ^ w

/-! ### The streamed operand -/

/-- Element code of stored value `i` of vector `m` in the a_line rows of the injector tiles (R74, R148). -/
def aCode (d : MDesc) (rows : KV Row) (m i : Nat) : Nat :=
  match d.cls with
  | .fp4 => rowBits (KV.get 0 rows (i / 128)) (8 * (64 * (m % 8) + (i % 128) / 2) + 4 * (i % 2)) 4
  | .half => rowBits (KV.get 0 rows (i / 64)) (8 * (128 * (m % 4) + 2 * (i % 64))) 16
  | _ => rowBits (KV.get 0 rows (i / 64)) (8 * (64 * (m % 8) + i % 64)) 8

/-- Streamed-scale code of stored value `i` (R115, R151). -/
def aScale (d : MDesc) (rows : KV Row) (m i : Nat) : Nat :=
  if d.pair then
    let p := 4 * (i / 2)
    rowBits (KV.get 0 rows (p / 256)) (8 * (8 * (m % 64) + (p % 256) / 32)) 8
  else rowBits (KV.get 0 rows (i / 128)) (8 * (4 * (m % 128) + (i % 128) / 32)) 8

/-- Pair nibble of group `g` of vector `m` as tile-column `c` decodes it (R149). -/
def pairNib (d : MDesc) (rows : KV Row) (m g c : Nat) : Nat :=
  if d.cls = .fp4 then
    rowBits (KV.get 0 rows (32 * (g / 64) + c)) (8 * (32 * (m % 16) + (g % 64) / 2) + 4 * (g % 2)) 4
  else rowBits (KV.get 0 rows (32 * (g / 32) + c)) (8 * (16 * (m % 32) + (g % 32) / 2) + 4 * (g % 2)) 4

/-- The stored positions (i0, i1) of a nibble. -/
def nibPos (n b : Nat) : Nat := if b = 0 then n % 4 else n / 4

/-- Vector `m` from the rows the injectors hold. -/
def vecOf (d : MDesc) (o : MglOp) (m : Nat) : VecIn :=
  let is := List.range d.k
  { a := is.map (aCode d o.aRows m)
    sa := if d.cls = .fp4 then is.map (aScale d o.sRows m) else []
    nib := if d.pair then
      (List.range 32).map fun c => (List.range (d.k / 2)).map fun g => pairNib d o.mRows m g c else [] }

/-- Does a tile decode a nibble with i0 ≥ i1 (R149)? -/
def nibBad (v : VecIn) : Bool := v.nib.any fun c => c.any fun n => decide (nibPos n 1 ≤ nibPos n 0)

/-! ### The stationary operand -/

/-- Code of B[k, n], zero outside the pass (R75, R150). `k` counts dense positions. -/
def bCode (d : MDesc) (o : MglOp) (k n : Nat) : Nat :=
  let kk := if d.pair then 2 * d.k else d.k
  if kk ≤ k ∨ d.n ≤ n then 0
  else
    let c := n / 64
    let x := n % 64
    let row := fun j q => KV.get 0 o.b (16 * (32 * j + c) + q)
    match d.cls, d.pair with
    | .fp4, false => let l := (k % 128) / 2; rowBits (row (k / 128) (l / 8)) (8 * (64 * (l % 8) + x) + 4 * (k % 2)) 4
    | .fp4, true => let l := (k % 256) / 2; rowBits (row (k / 256) (l / 8)) (8 * (64 * (l % 8) + x) + 4 * (k % 2)) 4
    | .half, _ => let l := k % 64; rowBits (row (k / 64) (l / 4)) (8 * (128 * (l % 4) + 2 * x)) 16
    | _, true => let l := k % 128; rowBits (row (k / 128) (l / 8)) (8 * (64 * (l % 8) + x)) 8
    | _, false => let l := k % 64; rowBits (row (k / 64) (l / 8)) (8 * (64 * (l % 8) + x)) 8

/-- Weight-scale code of B[k, n] (R115, R151). -/
def bScale (d : MDesc) (o : MglOp) (k n : Nat) : Nat :=
  let per := if d.pair then 256 else 128
  rowBits (KV.get 0 o.bs (32 * (k / per) + n / 64)) (8 * (64 * ((k % per) / 32) + n % 64)) 8

/-! ### Sums -/

/-- Dense position that stored value `i` meets in a column that decodes `nib`. -/
def densePos (d : MDesc) (nib : List Nat) (i : Nat) : Nat :=
  if d.pair then 4 * (i / 2) + nibPos (nib.getD (i / 2) 0) (i % 2) else i

def fmtOf (c : Nat) : Fmt := (Fmt.ofCode c).getD .e4m3

/-- Sum of column `n` of an exact class: the accumulator and the number of clamped products (R71, R117, R121). -/
def colExact (d : MDesc) (o : MglOp) (v : VecIn) (nib : List Nat) (n : Nat) : Acc × Nat :=
  (List.range d.k).foldl (fun (s : Acc × Nat) i =>
    let k := densePos d nib i
    if d.cls = .fp4 then
      let (p, cl) := prodFp4 (v.a.getD i 0) (bCode d o k n) (v.sa.getD i 0) (bScale d o k n)
      (s.1.add p, s.2 + cl.toNat)
    else
      (s.1.add (prodAcc d.cls.frac ((fmtOf d.aFmt).value (v.a.getD i 0)) ((fmtOf d.bFmt).value (bCode d o k n))), s.2))
    (Acc.zero, 0)

/-- The PEs beyond k_count of a half-class column: each adds the product of a valid zero and a zero weight (R74, R75,
R125), which one such addition says for all. -/
def addZeros (d : MDesc) (p : W32) : W32 := if d.k < 1024 then f32add p 0#32 else p

/-- Sum of column `n` of the half class, in ascending k from +0 (R125). -/
def colHalf (d : MDesc) (o : MglOp) (v : VecIn) (n : Nat) : W32 :=
  addZeros d ((List.range d.k).foldl (fun p i =>
    f32rne (FVal.add (FVal.mul ((fmtOf d.aFmt).value (v.a.getD i 0)) ((fmtOf d.bFmt).value (bCode d o i n))) (f32val p)))
    0#32)

/-- The 512 column accumulators of a die, with the number of clamped products. -/
def dieSums (d : MDesc) (o : MglOp) (v : VecIn) (die : Nat) : List Acc × Nat :=
  (List.range 512).foldr (fun x (r : List Acc × Nat) =>
    let n := 512 * die + x
    if d.cls = .half then (⟨(colHalf d o v n).setWidth 80, 0⟩ :: r.1, 0)
    else
      let (a, cl) := colExact d o v (v.nib.getD (n / 64) []) n
      (a :: r.1, r.2 + cl)) ([], 0)

/-! ### Hem -/

/-- What the Hem comparison of a vector on a die comes to. -/
inductive HemRes where
  | off | skip | pass | mismatch
  deriving DecidableEq, Repr

/-- Fixed-tree sum of FP32 words (R126). -/
def treeSum (l : List W32) : W32 := (treeFold f32add 9 l).getD 0 0#32

/-- Does |H − S| ≤ 2^(e − t) hold, e the exponent of the larger (R95)? It does not where an overflow has left H or S
non-finite (log entry 88). -/
def hemClose (t : Nat) (h s : W32) : Bool :=
  let hv := f32val h
  let sv := f32val s
  if hv.isZero && sv.isZero then true
  else
    let big := if FVal.cmp hv.abs sv.abs == some .lt then sv else hv
    match big with
    | .fin _ m e => FVal.cmp (FVal.sub hv sv).abs (FVal.pow2 ((m.log2 : Int) + e - t)) != some .gt
    | _ => false

/-- Any non-finite element in the vector or in the die's weights (R95). -/
def halfNonFinite (d : MDesc) (o : MglOp) (v : VecIn) (die : Nat) : Bool :=
  v.a.any (fun a => !((fmtOf d.aFmt).value a).isFinite) ||
  (List.range d.k).any (fun k => (List.range 512).any fun x =>
    !((fmtOf d.bFmt).value (bCode d o k (512 * die + x))).isFinite)

/-- The Hem comparison (R89 step 1, R93 to R95, R124). `delta` is what a faulty data path adds to the Hem
output; 0 is sound hardware. In a PAIR pass the Hem column decodes the copy of its die's last tile-column. -/
def hemCheck (d : MDesc) (o : MglOp) (v : VecIn) (die : Nat) (accs : List Acc) (clamps : Nat) (delta : Int) : HemRes :=
  if !d.hemEn then .off
  else if d.cls = .half then
    if d.hemTol = 0 then .off
    else
      let h := (List.range d.k).foldl (fun p k =>
        let w := treeSum ((List.range 512).map fun x => f32rne ((fmtOf d.bFmt).value (bCode d o k (512 * die + x))))
        f32rne (FVal.add (FVal.mul ((fmtOf d.aFmt).value (v.a.getD k 0)) (f32val w)) (f32val p))) 0#32
      let h := addZeros d h + BitVec.ofInt 32 delta
      let s := treeSum (accs.map fun a => a.f.setWidth 32)
      if halfNonFinite d o v die then .skip
      else if hemClose d.hemTol h s then .pass else .mismatch
  else
    if clamps ≠ 0 ∨ accs.any (fun a => a.tag != 0#2) then .skip
    else
      let hem := if d.pair then
          let nib := v.nib.getD (8 * die + 7) []
          ((List.range 512).map fun x => (colExact d o v nib (512 * die + x)).1)
        else accs
      let sum := fun (l : List Acc) => l.foldl (fun (s : BitVec 90) a => s + a.f.signExtend 90) 0
      if hem.any (fun a => a.tag != 0#2) then .skip
      else if sum hem + BitVec.ofInt 90 delta = sum accs then .pass else .mismatch

/-! ### Drain steps 2 to 4 -/

/-- The accumulator after acc_shift and acc_neg (R89 step 2). -/
def signed (d : MDesc) (a : Acc) : Acc :=
  if d.cls = .half then (if d.accNeg then ⟨(f32neg (a.f.setWidth 32)).setWidth 80, 0⟩ else a)
  else
    let a := { a with f := a.f <<< d.accShift }
    if d.accNeg then a.neg else a

/-- One store combine (R121, R127). -/
def combineAcc (d : MDesc) (a b : Acc) : Acc :=
  if d.cls = .half then ⟨(f32add (a.f.setWidth 32) (b.f.setWidth 32)).setWidth 80, 0⟩ else a.add b

/-- The value after the add-in (R89 step 3, R127). -/
def addIn (d : MDesc) (a : Acc) (dv : Option FVal) : FVal :=
  if d.cls = .half then
    match dv with
    | some x => f32val (f32add (a.f.setWidth 32) (f32rne x))
    | none => f32val (a.f.setWidth 32)
  else
    match dv with
    | some x => FVal.add (a.val d.cls.frac) x
    | none => a.val d.cls.frac

/-- An output element: its code, whether a finite value saturated or overflowed, whether it is non-finite
(R128 to R132). -/
def outElem (d : MDesc) (md : RMode) (v : FVal) : Nat × Bool × Bool :=
  let f := fmtOf d.cFmt
  match f.ffmt with
  | some g =>
    let c := g.encode md v
    let c := if d.cls.exact && c % 2 ^ (g.eb + g.mb) == 0 then 0 else c
    (c, g.saturates md v, !v.isFinite || !(g.decode c).isFinite)
  | none =>
    match v with
    | .fin s m e =>
      let i := roundInt md s m (e - d.outShift)
      let (lo, hi) := f.intRange
      (intBits f.width (clampInt lo hi i), decide (i < lo) || decide (hi < i), false)
    | _ => (0, false, false)

/-- The scale codes and elements of 64 FP4 outputs, `n` of them below n_count; and the elements of blocks whose
scale is NaN (R118, R130). A zero of an exact class is +0 (R131). -/
def outFp4 (exact : Bool) (md : Nat → RMode) (vs : List FVal) : List Nat × List Nat × Nat :=
  let blk := fun b => (vs.drop (32 * b)).take 32
  let sc := [fp4Scale (blk 0), fp4Scale (blk 1)]
  let sc := sc.zipIdx.map fun p => if (blk p.2).isEmpty then (0, none) else p.1
  let els := vs.zipIdx.map fun p =>
    let c := fp4Elem (sc.getD (p.2 / 32) (0, none)).2 (md p.2) p.1
    if exact && c % 8 == 0 then 0 else c
  (sc.map Prod.fst, els,
    ((List.range 2).map fun b => if (sc.getD b (0, none)).1 = 255 then (blk b).length else 0).sum)

/-! ### Gating -/

def gateTick (d : MDesc) (m : Nat) : Nat := (1 + d.r * m) / 192

/-- Live lanes of tile-row `j`: those that carry an element below k_count (R155). -/
def liveLane (d : MDesc) (j l : Nat) : Bool :=
  if d.cls = .fp4 then decide (128 * j + 2 * l < d.k) else decide (64 * j + l < d.k)

/-- row_nf of tile-row `j` (R155). -/
def rowNfOf (d : MDesc) (o : MglOp) (j : Nat) : List Bool :=
  (List.range 64).map fun l =>
    (List.range 2048).any fun n =>
      if d.cls = .fp4 then [0, 1].any fun b =>
          bScale d o (128 * j + 2 * l + b) n == 255 && d.bTiles.elem (32 * j + n / 64)
      else !((fmtOf d.bFmt).value (bCode d o (64 * j + l) n)).isFinite

/-- The allowance list g of a tile-row (R157). -/
def gateAllow (d : MDesc) (live nf : Nat) (dens : List Nat) : List Nat :=
  let tl := gateTick d (d.m - 1)
  let nw := (d.m + 63) / 64
  let cap := fun w => live - dens.getD w 0 - nf
  ((List.range (tl + 1)).foldl (fun (acc : List Nat × Nat) tau =>
    let bound := min 64 (min (acc.2 + 1) (tl - tau))
    let bound := (List.range nw).foldl (fun b w =>
      if tau ≤ gateTick d (min (64 * w + 63) (d.m - 1)) then
        min b (cap w + (gateTick d (64 * w) - tau)) else b) bound
    (acc.1 ++ [bound], bound)) ([], 0)).1

/-- Is lane `l` of tile-row `j` zero in the vector (R155)? -/
def zeroLane (d : MDesc) (v : VecIn) (j l : Nat) : Bool :=
  let z := fun i => ((fmtOf d.aFmt).value (v.a.getD i 0)).isZero
  if d.cls = .fp4 then
    [0, 1].all fun b =>
      let i := 128 * j + 2 * l + b
      decide (d.k ≤ i) || (z i && v.sa.getD i 0 != 255)
  else z (64 * j + l)

end Sys2Proof.Machine
end

