-- ==== Sys2Proof/Machine/Mangle.lean ====
section
/-!
DEFINITION. The Mangle (03_mangle, R68 to R110): the start of an operation, swap, vector slots, the drains, holds and
freezes, completion and aborts, and crossing parity errors (R21).
-/

namespace Sys2Proof.Machine

/-- End an operation by its own check: it takes the code, the context meets the cause (R91, R221). -/
def opFault (o : MglOp) (code : Nat) (ext : BitVec 48) (s : State) : State :=
  raiseCause (abortOp code o s) o.slot code o.d.seqTag ext

/-! ### Start (R70, R100 to R108) -/

/-- The bound on the level in cycle `t` of a range that ends at `e` (R106). -/
def levelBound (e t : Nat) : Nat := (e - t) / 192

def newOp (c : Nat) (q : Cmd) (d : MDesc) : MglOp :=
  { slot := c, k := q.k, range := q.range, d := d
    stage := if d.opcode = 0 ∧ d.m ≠ 0 ∧ d.n ≠ 0 ∧ d.k ≠ 0 then .swap else .hold
    freeAt := 0
    sent := 0, drained := [], aRows := [], sRows := [], mRows := [], b := [], bs := [], dens := [], gate := []
    rowNf := [], vecs := [], parts := [], dRows := [], dGot := [], bubbles := 0, holds := 0, compared := false
    padded := false, abort := none }

/-- The level at which the operation starts, the motion it starts and the cycle of its start (R104, R105). -/
def startLevel (s : State) (d : MDesc) : Level × Nat :=
  let v := s.mgl.level
  let l := v.val s.now
  let t0 := v.next s.now
  if d.opcode = 2 then
    if d.duty = l then (⟨l, l, v.next s.now - 192⟩, s.now)
    else (⟨l, d.duty, if l < d.duty then t0 else s.now⟩, if l < d.duty then t0 else s.now)
  else if l < d.duty then (⟨l, d.duty, t0⟩, t0 + 192 * (d.duty - l - 1))
  else if d.duty = l then (⟨l, l, v.next s.now - 192⟩, s.now)
  else (⟨d.duty, d.duty, s.now⟩, s.now)

def idxTile (i : Nat) : Tile := tileOf (i / 32) (i % 32)

/-- Rows that the readiness tree asks for (R79, R116, R152, R156): pair metadata in every tile of a tile-row that k_count
reaches, the density table in every injector tile. -/
def swapNeeds (d : MDesc) : List (Tile × Nat × Nat) :=
  let nMeta := (d.m + d.mPer - 1) / d.mPer
  let nDens := ((d.m + 63) / 64 + 511) / 512
  (d.bTiles.flatMap fun i =>
    let inj := i % 32 = 0
    [(idxTile i, d.bLine, d.bRows)] ++
    (if d.cls = .fp4 then [(idxTile i, d.scaleLine, if inj then 2 else 1)] else []) ++
    (if inj then [(idxTile i, d.aLine, 1)] else [])) ++
  (if d.pair then d.mTiles.map fun i => (idxTile i, d.metaLine, nMeta) else []) ++
  (if d.spMode = 2 then (List.range 16).map fun j => (idxTile (32 * j), d.metaLine, nDens) else [])

/-- The Mangle takes the command at the head of its queue, when its opcode is one of `ops` (R70). One whose rise would
pass the bound is aborted as it comes to the head (R106; log entry 87). -/
def mglStart (ops : Nat → Bool) (c : Nat) (s : State) : State :=
  let x := s.slot c
  match x.nextCmd 0 0 with
  | none => s
  | some q =>
    let d := mdescOf q.body
    if ops d.opcode = false ∨ x.mayStart s.now 0 q = false ∨ s.mgl.frozen = true ∨
        s.mgl.ops.any (fun o => decide (o.stage ≠ .done)) = true then s
    else
      let s := s.modSlot c (Ctx.advance 0 0)
      let o := newOp c q d
      if (if d.opcode = 1 ∨ d.opcode = 2 then d.otherBad else d.passBad) then
        mglIdle (raiseCause (s.complete c 0 0 q.k (refusal d.seqTag)) c Code.mglDesc d.seqTag 0)
      else
        let l := s.mgl.level.val s.now
        let (v, t) := startLevel s d
        let late := t - x.dueAt 0 q
        let rise := decide (s.now < t)
        let e := rangeEnd s x 0 q.range
        let top := if d.opcode = 2 then min d.duty (l + 1) else d.duty
        let s := s.modMgl fun m => { m with ops := m.ops ++ [o] }
        let s := if o.stage = .swap then forEach (swapNeeds d) (fun n s => startRead c n.1 n.2.1 2 s) s else s
        if l < d.duty ∧ levelBound e t < top then opFault o Code.strokeOverrun 0 s
        else (s.modMgl fun m => { m with level := v }).modCtr fun k =>
          { k with
            lateStart := sat32 k.lateStart late
            slewUp := if rise then sat32 k.slewUp 1 else k.slewUp }
where
  /-- Record of a refused operation: the fault in its status, nothing done (R101). -/
  refusal (tag : W32) : List Byte := leBytes 4 tag.toNat ++ leBytes 2 Code.mglDesc ++ List.replicate 10 0

/-- LEVEL_BOUND (R106): the level of the operation in flight would pass the bound in the next cycle. -/
def levelBoundHit (c : Nat) (s : State) : State :=
  match s.mgl.ops.find? (fun o => o.slot == c && decide (o.stage ≠ .done)) with
  | none => s
  | some o =>
    let e := rangeEnd s (s.slot c) 0 o.range
    if levelBound e (s.now + 1) < s.mgl.level.val (s.now + 1) then opFault o Code.strokeOverrun 0 s else s

/-! ### Bubbles -/

/-- Lanes that gating sends cold in a bubble slot that awaits vector `m` (R158). -/
def bubbleCold (o : MglOp) (m : Nat) : Nat :=
  (o.d.aTiles.map fun j =>
    min ((KV.get [] o.gate j).getD (gateTick o.d m) 0)
      ((List.range 64).filter (liveLane o.d j)).length).sum

/-- One slot of hot bubbles, the named Lines wait (R79, R87, R158, R196). MGL_HOT_BUBBLES counts the slot once, as Table
3.13 has it (log entry 99). -/
def bubble (o : MglOp) (keys : List Nat) (s : State) : State :=
  let r := o.d.r
  let s := forEach keys (addWait 2 r) s
  let s := addStall o.slot r s
  let s := s.modCtr fun k =>
    { k with hotBubbles := sat32 k.hotBubbles 1, gatedLanes := k.gatedLanes + bubbleCold o o.sent }
  let s := s.modOp o.slot o.k fun o => { o with bubbles := o.bubbles + 1 }
  if nonconf s o.slot then opFault o Code.nonconformance 0 s else s

/-! ### Swap (R78, R79, R116, R152, R156) -/

/-- The swap: weights become active, the density tables give the allowances (R78, R157). -/
def doSwap (o : MglOp) (s : State) : State :=
  let d := o.d
  match takeAll o.slot (o.user 2) (d.bTiles.map fun i => (i, idxTile i, d.bLine, d.bRows)) s with
  | (.error e, s) => opFault o e 0 s
  | (.ok b, s) =>
    match (if d.cls = .fp4 then takeAll o.slot (o.user 2) (d.bTiles.map fun i => (i, idxTile i, d.scaleLine, 1)) s
        else (.ok [], s)) with
    | (.error e, s) => opFault o e 0 s
    | (.ok bs16, s) =>
      let bs := bs16.map fun e => (e.1 / 16, e.2)
      let nDens := ((d.m + 63) / 64 + 511) / 512
      match (if d.spMode = 2 then
          takeAll o.slot (o.user 2) ((List.range 16).map fun j => (nDens * j, idxTile (32 * j), d.metaLine, nDens)) s
          else (.ok [], s)) with
      | (.error e, s) => opFault o e 0 s
      | (.ok rows, s) =>
        let dens := (List.range 16).map fun j =>
          (j, (List.range ((d.m + 63) / 64)).map fun w =>
            rowBits (KV.get 0 rows (16 * (nDens * j) + w / 512)) (8 * (w % 512)) 8)
        let o := { o with b := b, bs := bs, dens := if d.spMode = 2 then dens else [], stage := .stream }
        if d.spMode = 2 ∧ dens.any (fun e => e.2.any fun x => decide (64 < x)) then opFault o Code.formatFault 0 s
        else
          let nf := if d.spMode = 2 then d.aTiles.map fun j => (j, rowNfOf d o j) else []
          let gate := if d.spMode = 2 then d.aTiles.map fun j =>
              let live := ((List.range 64).filter (liveLane d j)).length
              let n := ((List.range 64).filter fun l =>
                liveLane d j l && (KV.get [] nf j).getD l false).length
              (j, gateAllow d live n (KV.get [] dens j)) else []
          s.modOp o.slot o.k fun p =>
            { p with b := b, bs := bs, dens := o.dens, rowNf := nf, gate := gate, stage := .stream, freeAt := s.now + d.sMin }

/-- SWAP_INJECT (R79): the swap code when the readiness tree reports true, else a bubble slot. -/
def swapInject (s : State) : State :=
  match s.mgl.ops.find? (fun o => decide (o.stage = .swap)) with
  | none => s
  | some o =>
    if s.mgl.frozen then s
    else
      match probe s o.slot (o.user 2) (swapNeeds o.d) with
      | .error e => opFault o e 0 s
      | .ok [] => doSwap o s
      | .ok ks => bubble o ks s

/-! ### Vector slots (R87) -/

/-- Rows that the injectors need before they read vector `m`. -/
def vecNeeds (d : MDesc) (m : Nat) : List (Tile × Nat × Nat) :=
  (if m % d.aPer = 0 then d.aTiles.map fun j => (idxTile (32 * j), d.aLine, 1) else []) ++
  (if d.cls = .fp4 ∧ m % d.sPer = 0 then d.aTiles.map fun j => (idxTile (32 * j), d.scaleLine, 1) else []) ++
  (if d.pair ∧ m % d.mPer = 0 then d.mTiles.map fun i => (idxTile i, d.metaLine, 1) else [])

/-- Take the rows due at vector `m`. -/
def vecRows (o : MglOp) (m : Nat) (s : State) : Except Nat MglOp × State :=
  let d := o.d
  let inj := fun (l : Nat) => d.aTiles.map fun j => (j, idxTile (32 * j), l, 1)
  let un := fun (k : KV Row) => k.map fun e => (e.1 / 16, e.2)
  match (if m % d.aPer = 0 then takeAll o.slot (o.user 2) (inj d.aLine) s else (.ok [], s)) with
  | (.error e, s) => (.error e, s)
  | (.ok a, s) =>
    match (if d.cls = .fp4 ∧ m % d.sPer = 0 then takeAll o.slot (o.user 2) (inj d.scaleLine) s else (.ok [], s)) with
    | (.error e, s) => (.error e, s)
    | (.ok sc, s) =>
      match (if d.pair ∧ m % d.mPer = 0 then
          takeAll o.slot (o.user 2) (d.mTiles.map fun i => (i, idxTile i, d.metaLine, 1)) s else (.ok [], s)) with
      | (.error e, s) => (.error e, s)
      | (.ok mt, s) =>
        (.ok { o with
          aRows := if m % d.aPer = 0 then un a else o.aRows
          sRows := if d.cls = .fp4 ∧ m % d.sPer = 0 then un sc else o.sRows
          mRows := if d.pair ∧ m % d.mPer = 0 then un mt else o.mRows }, s)

/-- Non-zero live lanes of tile-row `j`, and lanes that gating sends cold (R155 to R157). -/
def gateLanes (o : MglOp) (v : VecIn) (m j : Nat) : Nat × Nat :=
  let live := (List.range 64).filter (liveLane o.d j)
  let zero := live.filter (zeroLane o.d v j)
  let elig := zero.filter fun l => !(KV.get [] o.rowNf j).getD l false
  (live.length - zero.length, min ((KV.get [] o.gate j).getD (gateTick o.d m) 0) elig.length)

/-- Vector `m` enters the array. The padding of a pass shorter than S_min is counted in slots, a half slot as one
(R80; log entry 87). -/
def injectVec (o : MglOp) (m : Nat) (s : State) : State :=
  let d := o.d
  let v := vecOf d o m
  if d.pair ∧ nibBad v = true then opFault o Code.formatFault 0 s
  else if d.spMode = 2 ∧ d.aTiles.any (fun j =>
      decide ((KV.get [] o.dens j).getD (m / 64) 0 < (gateLanes o v m j).1)) = true then
    opFault o Code.formatFault 0 s
  else
    let cold := if d.spMode = 2 then (d.aTiles.map fun j => (gateLanes o v m j).2).sum else 0
    let last := decide (m + 1 = d.m)
    let pad := d.sMin - (1 + d.r * d.m)
    let s := s.modOp o.slot o.k fun _ =>
      { o with
        vecs := KV.insert o.vecs m v, sent := m + 1
        stage := if last then .tail else .stream
        freeAt := if last then max o.freeAt (s.now + d.r) else o.freeAt
        padded := last && decide (0 < pad) }
    s.modCtr fun k =>
      { k with
        gatedLanes := k.gatedLanes + cold
        padSlots := if last then sat32 k.padSlots ((pad + d.r - 1) / d.r) else k.padSlots }

/-- VECTOR_INJECT (R87). -/
def vectorInject (s : State) : State :=
  match s.mgl.ops.find? (fun o => decide (o.stage = .stream)) with
  | none => s
  | some o =>
    if s.mgl.frozen then s
    else
      match probe s o.slot (o.user 2) (vecNeeds o.d o.sent) with
      | .error e => opFault o e 0 s
      | .ok [] =>
        match vecRows o o.sent s with
        | (.error e, s) => opFault o e 0 s
        | (.ok o, s) => injectVec o o.sent s
      | .ok ks => bubble o ks s

/-! ### Rows that leave a drain (R88) -/

/-- Rows a holding buffer can keep. -/
def holdRows : Nat := 16

def HoldDest.user (k : Nat) (d : HoldDest) : User := ⟨d.party, opId 0 0 k⟩

/-- Do two rows of a drain go to one Line? They reach it in the order they were produced. -/
def HoldDest.shares (a b : List HoldDest) : Bool := a.any fun x => b.any fun y => x.tile == y.tile && x.line == y.line

/-- Can every Line take its row now (R88)? Or the fault of the first that refuses it. -/
def destsTake (s : State) (c k : Nat) : List HoldDest → Except Nat Bool
  | [] => .ok true
  | d :: ds =>
    match lineTakes s c (idxTile d.tile) d.line (d.user k) with
    | .error e => .error e
    | .ok (_, ok) =>
      match destsTake s c k ds with
      | .error e => .error e
      | .ok r => .ok (ok && r)

/-- Write a row to every Line it goes to; the first fault. -/
def destsWrite (c k : Nat) : List HoldDest → State → Option Nat × State
  | [], s => (none, s)
  | d :: ds, s =>
    match lineWrite s c (idxTile d.tile) d.line (d.user k) d.row with
    | (.fault e, s) => (some e, s)
    | (_, s) => destsWrite c k ds s

/-- Send a row to its Lines once all can take it, or keep it in the holding buffer of tile-column `col` (R88). -/
def emitRow (o : MglOp) (col : Nat) (ds : List HoldDest) (s : State) : State :=
  let q := KV.get [] s.mgl.buf col
  match destsTake s o.slot o.k ds with
  | .error e => opFault o e 0 s
  | .ok ok =>
    if ok = true ∧ q.any (fun h => HoldDest.shares ds h.dests) = false then
      match destsWrite o.slot o.k ds s with
      | (some e, s) => opFault o e 0 s
      | (none, s) => s
    else if holdRows ≤ q.length then
      opFault o Code.mglHoldOverflow (BitVec.ofNat 48 ((col / 8) * 16777216)) s
    else
      let s := settleHold (s.modMgl fun m => { m with buf := KV.set [] m.buf col (q ++ [⟨ds, o.slot, o.k⟩]) })
      if nonconf s o.slot then opFault o Code.nonconformance 0 s else s

/-- Can the row leave the buffer `q` now: its Lines take it, or refuse it, and no older row goes to one of them? -/
def HoldRow.mayGo (s : State) (q : List HoldRow) (h : HoldRow) : Bool :=
  (match destsTake s h.slot h.k h.dests with
    | .ok ok => ok
    | .error _ => true) &&
  (q.takeWhile (fun g => g != h)).all fun g => !HoldDest.shares g.dests h.dests

/-- DRAIN_BUFFER_WRITE (R88): the first row of the buffer that every Line it goes to can take. -/
def bufferWrite (col : Nat) (s : State) : State :=
  let q := KV.get [] s.mgl.buf col
  match q.find? (HoldRow.mayGo s q) with
  | none => s
  | some h =>
    let s := settleHold (s.modMgl fun m => { m with buf := KV.set [] m.buf col (q.erase h) })
    match destsWrite h.slot h.k h.dests s with
    | (some e, s) =>
      match s.mgl.ops.find? (fun o => o.slot == h.slot && o.k == h.k) with
      | some o => opFault o e 0 s
      | none => s
    | (none, s) => s

/-! ### The drains (R89) -/

/-- The d_line rows that a drain needs for vector `m` on a die: its tile-columns below n_count, and how many rows each
must have taken. -/
def dNeed (d : MDesc) (m : Nat) : Nat := m / ((fmtOf d.cFmt).perRow / 64) + 1

def dieCols (d : MDesc) (die : Nat) : List Nat := d.cols.filter (fun c => c / 8 == die)

/-- Take d_line rows for the tile-columns of a die that lack theirs; the number still lacking (R76, R88). -/
def takeD (c k : Nat) (d : MDesc) (m : Nat) : List Nat → State → Except Nat Nat × State
  | [], s => (.ok 0, s)
  | col :: cs, s =>
    match s.mgl.ops.find? (fun o => o.slot == c && o.k == k) with
    | none => (.ok 0, s)
    | some o =>
      if dNeed d m ≤ KV.get 0 o.dGot col then takeD c k d m cs s
      else
        let s := if KV.get 0 o.dGot col = 0 then startRead c (tileOf 15 col) d.dLine 0 s else s
        match lineHolds s c (tileOf 15 col) d.dLine ⟨0, opId 0 0 k⟩ 1 with
        | .error e => (.error e, s)
        | .ok (_, false) =>
          match takeD c k d m cs s with
          | (.ok n, s) => (.ok (n + 1), s)
          | r => r
        | .ok (_, true) =>
          match takeRows s c (tileOf 15 col) d.dLine ⟨0, opId 0 0 k⟩ 1 with
          | (.error e, s) => (.error e, s)
          | (.ok rs, s) =>
            takeD c k d m cs (s.modOp c k fun o =>
              { o with dRows := KV.set 0 o.dRows col (rs.getD 0 0), dGot := KV.upd 0 o.dGot col (· + 1) })

/-- Store combine of one vector on a die (R89 step 2, R90): the sums, or `none` when a flag is clear. -/
def storeStep (o : MglOp) (die m : Nat) (accs : List Acc) (s : State) : Option (List Acc) × State :=
  let d := o.d
  let accs := accs.map (signed d)
  if d.accMode = 0 then (some accs, s)
  else
    let cls := if d.cls = .half then 2 else 1
    let slots := (d.accSlot + m) :: (if d.accDup then [d.accSlot2 + m] else [])
    if d.accMode ≠ 1 ∧ slots.any (fun sl => KV.get 0 s.mgl.written (1024 * die + sl) == 0) = true then (none, s)
    else
      let one := fun (sl : Nat) (s : State) =>
        let old := KV.get 0 s.mgl.written (1024 * die + sl)
        let open_ := decide (d.accMode ≠ 1) && old != cls
        let vals := accs.zipIdx.map fun p =>
          let n := 512 * die + p.2
          if d.accMode = 1 then p.1
          else if open_ then ⟨(Config.freeValue (s.freeCtr + p.2)).setWidth 80, 0⟩
          else combineAcc d (KV.get Acc.zero s.mgl.store (2048 * sl + n)) p.1
        let s := if open_ then { s with freeCtr := s.freeCtr + 512 } else s
        (vals, s.modMgl fun g =>
          { g with
            store := KV.setList Acc.zero g.store (2048 * sl + 512 * die) vals
            written := KV.set 0 g.written (1024 * die + sl) cls })
      let (v1, s) := one (d.accSlot + m) s
      let s := if d.accDup then (one (d.accSlot2 + m) s).2 else s
      (some v1, s)

/-- Output elements of one tile-column for one vector: codes, FP4 scales, and the counts of saturated and non-finite
elements (R89 steps 3 and 4). -/
def colOut (s : State) (o : MglOp) (m col : Nat) (sums : List Acc) : List Nat × List Nat × Nat × Nat :=
  let d := o.d
  let x := s.slot o.slot
  let md := fun (i : Nat) => rmodeOf d.round (tumble x.seed x.cur.step (BitVec.ofNat 16 d.layer)
    (BitVec.ofNat 32 (d.elemBase + 2048 * m + 64 * col + i)))
  let w := (fmtOf d.cFmt).width
  let pos := m % ((fmtOf d.cFmt).perRow / 64)
  let inN := (sums.zipIdx.filter (fun p => decide (64 * col + p.2 < d.n)))
  let vs := inN.map fun p =>
    addIn d p.1 (if d.dEn then
      some ((fmtOf d.cFmt).value (rowBits (KV.get 0 o.dRows col) (w * (64 * pos + p.2)) w)) else none)
  if d.cFmt = 4 then
    let (sc, els, nan) := outFp4 d.cls.exact md vs
    (els, sc, 0, nan)
  else
    let rs := vs.zipIdx.map fun p => outElem d (md p.2) p.1
    (rs.map (·.1), [], (rs.filter (·.2.1)).length, (rs.filter (·.2.2)).length)

/-- Partial rows by kind: 0 c_line, 1 output scales, 2 packet headers, 3 returned FP4 elements, 4 returned scales. -/
def partKey (kind col : Nat) : Nat := 32 * kind + col

def MglOp.addPart (kind col : Nat) (bits lo : Nat) (o : MglOp) : MglOp :=
  { o with parts := KV.upd 0 o.parts (partKey kind col) (· ||| BitVec.ofNat 4096 (bits * 2 ^ lo)) }
def MglOp.clearPart (kind col : Nat) (o : MglOp) : MglOp :=
  { o with parts := KV.set 0 o.parts (partKey kind col) 0 }
def MglOp.part (kind col : Nat) (o : MglOp) : Row := KV.get 0 o.parts (partKey kind col)

/-- The operation as it stands now. -/
def State.op? (s : State) (o : MglOp) : MglOp :=
  (s.mgl.ops.find? (fun p => p.slot == o.slot && p.k == o.k)).getD o

/-- Emit a finished partial row and clear it. -/
def emitPart (o : MglOp) (kind col src : Nat) (t : Tile) (l party : Nat) (s : State) : State :=
  let row := (s.op? o).part kind col
  emitRow o src [⟨t.idx, l, party, row⟩] (s.modOp o.slot o.k (MglOp.clearPart kind col))

/-- The Lines that an output row of tile-column `col` goes to: c_line with the row as it is stored, and the return path
with the dense row (R76, R83, R162). -/
def rowDests (d : MDesc) (col : Nat) (stored row : Row) : List HoldDest :=
  let below := decide (64 * col < d.n)
  (if below then [⟨(tileOf 15 col).idx, d.cLine, 0, stored⟩] else []) ++
  (if d.retEn = true ∧ d.cFmt ≠ 4 ∧ (below = true ∨ (16 ≤ col ∧ 1024 < d.n)) then
    [⟨(tileOf (col % 16) 0).idx, d.retLine + col / 16, 1, row⟩] else [])

/-- Send an output row on its way; a row that goes nowhere is dropped. -/
def emitDests (o : MglOp) (col : Nat) (ds : List HoldDest) (s : State) : State :=
  if ds.isEmpty then s else emitRow o col ds s

/-- Step 5 for one tile-column with its elements and scales (R76, R83, R119, R160 to R162). -/
def colRows (o : MglOp) (m col : Nat) (els scs : List Nat) (s : State) : State :=
  let d := o.d
  let f := fmtOf d.cFmt
  let v := f.perRow / 64
  let last := decide (m + 1 = d.m)
  let below := decide (64 * col < d.n)
  let s := s.modOp o.slot o.k (MglOp.addPart 0 col (packNat f.width els) (f.width * 64 * (m % v)))
  let s := if d.cFmt = 4 then
      s.modOp o.slot o.k (MglOp.addPart 1 col (packNat 8 scs) (16 * (m % 256)))
    else s
  let s := if (m + 1) % v = 0 ∨ last = true then
      let row := (s.op? o).part 0 col
      let s := s.modOp o.slot o.k (MglOp.clearPart 0 col)
      if below = true ∧ d.spMode = 3 then
        let (packed, hdr, bm) := packRow f row
        let s := s.modCtr fun k =>
          { k with
            packRows := if bm then sat32 k.packRows 1 else k.packRows
            packDense := if bm then k.packDense else sat32 k.packDense 1 }
        let h := m / v
        let s := s.modOp o.slot o.k (MglOp.addPart 2 col hdr.toNat (64 * (h % 64)))
        let s := emitDests o col (rowDests d col packed row) s
        if (h + 1) % 64 = 0 ∨ last = true then emitPart o 2 col col (tileOf 15 col) d.metaLine 0 s else s
      else emitDests o col (rowDests d col row row) s
    else s
  if d.cFmt = 4 ∧ below = true ∧ ((m + 1) % 256 = 0 ∨ last = true) then
    emitPart o 1 col col (tileOf 15 col) (d.scaleLine + 1) 0 s
  else s

/-- Returned FP4 elements and scales of one injector tile-row, from tile-columns 2j and 2j + 1 (R83, R119); a row that
waits does so in the buffer of tile-column 2j (log entry 82). -/
def retFp4 (o : MglOp) (m j : Nat) (outs : Nat → List Nat × List Nat) (s : State) : State :=
  let d := o.d
  let last := decide (m + 1 = d.m)
  let pad := fun (n : Nat) (l : List Nat) => l ++ List.replicate (n - l.length) 0
  let els := pad 64 (outs (2 * j)).1 ++ (outs (2 * j + 1)).1
  let scs := pad 2 (outs (2 * j)).2 ++ (outs (2 * j + 1)).2
  let s := s.modOp o.slot o.k (MglOp.addPart 3 j (packNat 4 els) (512 * (m % 8)))
  let s := s.modOp o.slot o.k (MglOp.addPart 4 j (packNat 8 scs) (32 * (m % 128)))
  let s := if (m + 1) % 8 = 0 ∨ last = true then emitPart o 3 j (2 * j) (tileOf j 0) d.retLine 1 s else s
  if (m + 1) % 128 = 0 ∨ last = true then emitPart o 4 j (2 * j) (tileOf j 0) (d.retLine + 1) 1 s else s

/-- Steps 3 to 5 of one vector on a die (R89). -/
def outStep (o : MglOp) (die m : Nat) (sums : List Acc) (s : State) : State :=
  let d := o.d
  let o := s.op? o
  let cols := (List.range 8).map (8 * die + ·)
  let outs := cols.map fun c => (c, colOut s o m c ((sums.drop (64 * (c % 8))).take 64))
  let sat := (outs.map fun p => p.2.2.2.1).sum
  let nf := (outs.map fun p => p.2.2.2.2).sum
  let s := s.modCtr fun k => { k with saturate := sat32 k.saturate sat, nonfinite := sat32 k.nonfinite nf }
  let s := signalNonFinite o.slot nf s
  let s := forEach outs (fun p s => colRows o m p.1 p.2.1 p.2.2.1 s) s
  if d.retEn = true ∧ d.cFmt = 4 then
    let get := fun c => match outs.find? (fun p => p.1 == c) with
      | some p => (p.2.1, p.2.2.1)
      | none => ([], [])
    forEach (((List.range 4).map (4 * die + ·)).filter (fun j => decide (128 * j < d.n)))
      (fun j s => retFp4 o m j get s) s
  else s

/-- All steps of one vector on a die whose add-in rows are at hand (R89). A vector that fails stays the die's next until
the abort signal reaches the drain, and flag bit 0 is set by any comparison on any die (R91, R92; log entry 88). -/
def drainStep (o : MglOp) (die m : Nat) (delta : Int) (s : State) : State :=
  let d := o.d
  let v := (KV.find? o.vecs m).getD ⟨[], [], []⟩
  let (accs, clamps) := if o.kZero then (List.replicate 512 Acc.zero, 0) else dieSums d o v die
  let hem := if o.kZero then HemRes.off else hemCheck d o v die accs clamps delta
  let s := s.modCtr fun k =>
    { k with
      scaleClamp := sat32 k.scaleClamp clamps
      hemSkip := if hem = .skip then sat32 k.hemSkip 1 else k.hemSkip
      hemFail := if hem = .mismatch then KV.upd 0 k.hemFail die (sat32 · 1) else k.hemFail }
  if hem = .mismatch then
    let s := s.modOp o.slot o.k fun o => { o with compared := true }
    let s := opFault o Code.hemMismatch (BitVec.ofNat 48 (m % 16777216 + die * 16777216)) s
    s.trigger 0 (unitRow die 0)
  else
    match storeStep o die m accs s with
    | (none, s) => opFault o Code.mglStore 0 s
    | (some sums, s) =>
      let s := s.modOp o.slot o.k fun o =>
        { o with
          drained := KV.set 0 o.drained die (m + 1)
          compared := o.compared || decide (hem = .pass)
          vecs := if die = 3 then KV.erase o.vecs m else o.vecs }
      if d.accMode = 0 ∨ d.accMode = 3 then outStep o die m sums s else s

/-- Vectors of an operation that a die may drain: on C0 those injected, on a later die those the die before has drained
(R81); all of them in a K = 0 form (R99). -/
def drainable (o : MglOp) (die : Nat) : Nat :=
  if o.kZero then o.total else if die = 0 then o.sent else KV.get 0 o.drained (die - 1)

/-- DRAIN_VECTOR (R88, R89): the next vector of the oldest operation that the die has not finished. -/
def drainVector (die : Nat) (delta : Int) (s : State) : State :=
  match s.mgl.ops.find? (fun o => decide (KV.get 0 o.drained die < o.total)) with
  | none => s
  | some o =>
    let m := KV.get 0 o.drained die
    if drainable o die ≤ m then s
    else
      let out := decide (o.d.accMode = 0) || decide (o.d.accMode = 3)
      if o.d.dEn = true ∧ out = true then
        match takeD o.slot o.k o.d m (dieCols o.d die) s with
        | (.error e, s) => opFault o e 0 s
        | (.ok 0, s) =>
          let s := settleHold (s.modMgl fun g => { g with dWait := NSet.del g.dWait die })
          if s.mgl.frozen then s else drainStep (s.op? o) die m delta s
        | (.ok _, s) =>
          let s := settleHold (s.modMgl fun g => { g with dWait := NSet.add g.dWait die })
          if nonconf s o.slot then opFault o Code.nonconformance 0 s else s
      else if s.mgl.frozen then s
      else drainStep o die m delta s

/-! ### Freeze, abort signal, completion -/

/-- MANGLE_FREEZE (R88). -/
def mangleFreeze (s : State) : State :=
  if s.mgl.frozen = false ∧ 0 < s.mgl.freezeDue then
    s.modMgl fun m => { m with frozen := true, freezeDue := m.freezeDue - 1 }
  else s

/-- MANGLE_RESUME (R88). -/
def mangleResume (s : State) : State :=
  if s.mgl.frozen = true ∧ 0 < s.mgl.resumeDue then
    s.modMgl fun m => { m with frozen := false, resumeDue := m.resumeDue - 1 }
  else s

/-- Has the operation drained every vector on every die, with none of its rows held back? -/
def opOver (s : State) (o : MglOp) : Bool :=
  [0, 1, 2, 3].all (fun d => decide (o.total ≤ KV.get 0 o.drained d)) &&
  (o.stage = .done || o.stage = .hold || o.stage = .tail) &&
  !s.mgl.buf.any (fun e => e.2.any fun h => h.slot == o.slot && h.k == o.k)

/-- PASS_COMPLETE (R82, R92): the oldest operation ends with its record. -/
def passComplete (s : State) : State :=
  match s.mgl.ops with
  | [] => s
  | o :: _ =>
    if o.abort.isSome ∨ opOver s o = false then s
    else
      let s := s.complete o.slot 0 0 o.k (o.record 0 false)
      let s := s.modCtr fun k =>
        { k with
          passes := if o.d.opcode = 0 then sat32 k.passes 1 else k.passes
          pairPasses := if o.d.opcode = 0 ∧ o.d.pair = true then sat32 k.pairPasses 1 else k.pairPasses }
      let s := s.modMgl fun m => { m with ops := m.ops.tail }
      mglIdle s

/-- The start of a Mangle range: level 0, every written flag clear (R90, R102). -/
def mangleRangeStart (s : State) : State :=
  s.modMgl fun m =>
    { m with level := ⟨0, 0, (m.level.next s.now) - 192⟩, store := [], written := [] }

/-- The Lines that held rows wait for, with the party of each. -/
def bufferWaits (s : State) : List (Nat × Nat) :=
  s.mgl.buf.flatMap fun e => e.2.flatMap fun h => h.dests.filterMap fun d =>
    match lineTakes s h.slot (idxTile d.tile) d.line (d.user h.k) with
    | .ok (k, false) => some (k, d.party)
    | _ => none

/-- The d_lines that drains wait for. -/
def addInWaits (s : State) : List (Nat × Nat) :=
  let m := s.mgl
  m.dWait.flatMap fun die =>
    match m.ops.find? (fun o => decide (KV.get 0 o.drained die < o.total)) with
    | some o => (dieCols o.d die).filterMap fun col =>
        match lineHolds s o.slot (tileOf 15 col) o.d.dLine (o.user 0) 1 with
        | .ok (k, false) => if KV.get 0 o.dGot col < dNeed o.d (KV.get 0 o.drained die) then some (k, 0) else none
        | _ => none
    | none => []

/-- A frozen cycle: counted, and nothing advances (R88). -/
def frozenTick (s : State) : State :=
  (s.modCtr fun k => { k with holdCycles := sat32 k.holdCycles 1 }).modMgl fun m =>
    { m with ops := m.ops.map fun o => { o with holds := o.holds + 1, freeAt := o.freeAt + 1 } }

/-- A cycle in which the array runs: the injectors come free, and the level falls with no operation ready (R80, R105). -/
def freeTick (s : State) : State :=
  let t := s.now
  mglIdle (s.modMgl fun m =>
    { m with ops := m.ops.map fun o => if o.stage = .tail ∧ o.freeAt ≤ t then { o with stage := .done } else o })

/-- One core cycle of the Mangle: the waits of the drains, and frozen cycles, count as stalls of the context at work, or
of the one that raised the hold (R88, R196). -/
def mangleTick (s : State) : State :=
  let m := s.mgl
  let s := forEach (bufferWaits s ++ addInWaits s).eraseDups (fun w s => addWait w.2 1 w.1 s) s
  let s := if m.frozen = true ∨ m.holding = true then addStall ((m.ops.head?.map (·.slot)).getD m.holder) 1 s else s
  if m.frozen then frozenTick s else freeTick s

/-- BRIDGE_PARITY_ERROR (R21): `op` is the place, in queue order, of the operation to which the failing lane cycle
belongs. -/
def bridgeParity (i : Nat) (x : Crossing) (op : Option Nat) (s : State) : State :=
  let s := match op.bind (fun k => s.mgl.ops[k]?) with
    | some o => if o.abort.isSome then s else opFault o Code.bridgeParity 0 s
    | none => s.log Code.bridgeParity originHw 0xFF 0 0
  match x with
  | .array => (s.trigger 1 (unitCrossing i 0)).trigger 0 (unitRow (i + 1) 0)
  | .ret => s.trigger 1 (unitCrossing i 1)

def execPass (c : Slot) (s : State) : Res := powered s (mglStart (fun o => o != 1 && o != 2) c.val s)
def execDummy (c : Slot) (s : State) : Res := powered s (mglStart (fun o => o == 1) c.val s)
def execRamp (c : Slot) (s : State) : Res := powered s (mglStart (fun o => o == 2) c.val s)
def execLevelBound (c : Slot) (s : State) : Res := powered s (levelBoundHit c.val s)
def execSwapInject (s : State) : Res := powered s (swapInject s)
def execVectorInject (s : State) : Res := powered s (vectorInject s)
def execDrainVector (d : Die) (delta : Int) (s : State) : Res := powered s (drainVector d.val delta s)
def execDrainBufferWrite (col : Fin 32) (s : State) : Res := powered s (bufferWrite col.val s)
def execMangleFreeze (s : State) : Res := powered s (mangleFreeze s)
def execMangleResume (s : State) : Res := powered s (mangleResume s)
def execDrainAbortSignal (s : State) : Res := powered s (drainAbort s)
def execPassComplete (s : State) : Res := powered s (passComplete s)
def execBridgeParityError (i : Fin 3) (x : Crossing) (op : Option Nat) (s : State) : Res :=
  powered s (bridgeParity i.val x op s)

end Sys2Proof.Machine
end

