-- ==== Sys2Proof/Machine/Flit.lean ====
section
/-!
DEFINITION. Flits and short flits as bytes (R344 to R348), priority packets (Tables 11.5, 11.7, 11.8), and the choice of a
transmitter for its next flit (R353, R357).
-/

namespace Sys2Proof.Machine

/-! ### Framing -/

/-- Every other byte from `c` on: the data of codeword `c` (R346, R348). -/
def leaved (c n : Nat) (b : List Byte) : List Byte := (List.range n).map fun i => b.getD (2 * i + c) 0

/-- Append the check bytes of both codewords. -/
def withCheck (b : List Byte) : List Byte :=
  b ++ rsCheck (leaved 0 (b.length / 2) b) ++ rsCheck (leaved 1 (b.length / 2) b)

/-- A flit of 256 bytes from its header and seven slots, or a short flit from its header and one slot. -/
def flitBytes (head : W64) (slots : List (List Byte)) : List Byte :=
  let b := leBytes 8 head.toNat ++ slots.flatMap padSlots
  withCheck (b ++ leBytes 4 (crc32c b).toNat ++ List.replicate 4 0)

/-- A decoded flit: the positions of its corrected bytes, and header and slots when it is good (R346). -/
structure FlitIn where
  fixed : List Nat
  good : Option (W64 × List (List Byte))
  deriving DecidableEq, Repr

/-- Decode a flit with `n` slots. -/
def decodeFlit (n : Nat) (raw : List Byte) : FlitIn :=
  let m := 8 + 32 * n
  let d := m + 8
  if raw.length ≠ d + 16 then ⟨[], none⟩
  else
    let word := fun c => leaved c (d / 2) raw ++ (raw.drop (d + 8 * c)).take 8
    let at_ := fun (c : Nat) => List.map fun i => if i < d / 2 then 2 * i + c else d + 8 * c + (i - d / 2)
    match rsDecode (word 0), rsDecode (word 1) with
    | some (a, fa), some (b, fb) =>
      let bytes := (List.range d).map fun i => (if i % 2 = 0 then a else b).getD (i / 2) 0
      let ok := crc32c (bytes.take m) == BitVec.ofNat 32 (pnum bytes m 4)
      ⟨at_ 0 fa ++ at_ 1 fb,
        if ok then some (BitVec.ofNat 64 (leNat (bytes.take 8)), slotsOf n (bytes.drop 8)) else none⟩
    | a, b => ⟨at_ 0 ((a.map (·.2)).getD []) ++ at_ 1 ((b.map (·.2)).getD []), none⟩

/-- State of the scrambler of physical lane `n` at the first flit of ACTIVE or KEEPER (R344). -/
def scrambleInit (n : Nat) : BitVec 31 := BitVec.ofNat 31 ((0x12345678 + 0x0F0F0F0F * n) % 2147483648)

/-- One bit of the scrambler x^31 + x^28 + 1, and its next state (log entry 30). -/
def scrambleStep (st : BitVec 31) : Bool × BitVec 31 :=
  let b := st.getLsbD 30 ^^ st.getLsbD 27
  (b, (st <<< 1) ||| (BitVec.ofBool b).setWidth 31)

/-- Scramble bits, least significant first (R344). -/
def scramble : BitVec 31 → List Bool → List Bool × BitVec 31
  | st, [] => ([], st)
  | st, b :: bs =>
    let (k, st) := scrambleStep st
    let (r, st) := scramble st bs
    ((b ^^ k) :: r, st)

/-- Level of a PAM4 symbol from the bits (low, high) of a pair (R344). -/
def pam4 (lo hi : Bool) : Int :=
  match hi, lo with
  | false, false => -3
  | false, true => -1
  | true, true => 1
  | true, false => 3

/-- Bits of a byte, least significant first. -/
def byteBits (b : Byte) : List Bool := (List.range 8).map b.getLsbD

/-- Bytes of a flit that physical lane `n` carries, given the logical lane moved to the spare (R345, R352). -/
def laneBytes (spare : BitVec 4) (n : Nat) (flit : List Byte) : List Byte :=
  let l := if n = 8 then spare.toNat else if n = spare.toNat then 9 else n
  if 8 ≤ l then [] else (List.range ((flit.length + 7) / 8)).map fun i => flit.getD (8 * i + l) 0

/-- The symbols of a stream of bits: PAM4 by pairs in full mode, NRZ by bits on a keeper lane (R344). -/
def symbols (full : Bool) : List Bool → List Int
  | [] => []
  | a :: rest =>
    if full then
      match rest with
      | [] => [pam4 a false]
      | b :: rest => pam4 a b :: symbols full rest
    else (if a then 1 else 0) :: symbols full rest

/-! ### Headers (Table 11.2) -/

structure FlitHead where
  kind : Nat
  seq : Nat
  ack : Nat
  start : Nat
  prio : Nat
  vc : Nat
  credit : Nat
  again : Bool
  deriving DecidableEq, Repr

def FlitHead.word (h : FlitHead) : W64 :=
  BitVec.ofNat 64 (h.kind + 2 ^ 4 * (h.seq % 4096) + 2 ^ 16 * (h.ack % 4096) + 2 ^ 28 * h.start + 2 ^ 35 * h.prio
    + 2 ^ 42 * h.vc + 2 ^ 44 * h.credit + 2 ^ 54 * h.again.toNat)

def FlitHead.of (w : W64) : FlitHead :=
  let n := w.toNat
  { kind := bitsOf n 3 0, seq := bitsOf n 15 4, ack := bitsOf n 27 16, start := bitsOf n 34 28, prio := bitsOf n 41 35
    vc := bitsOf n 43 42, credit := bitsOf n 53 44, again := bitsOf n 54 54 == 1 }

/-! ### Priority packets -/

/-- The 128 bits of Table 2.1. -/
def Mark.content (m : Mark) : Nat :=
  m.number.toNat + 2 ^ 48 * m.double.toNat + 2 ^ 49 * m.verdict.toNat + 2 ^ 73 * m.period.toNat + 2 ^ 98 * m.root.toNat
    + 2 ^ 109 * m.resv.toNat

def Mark.of (n : Nat) : Mark :=
  { number := BitVec.ofNat 48 n, double := bitsOf n 48 48 == 1, verdict := BitVec.ofNat 24 (bitsOf n 72 49)
    period := BitVec.ofNat 25 (bitsOf n 97 73), root := BitVec.ofNat 11 (bitsOf n 108 98), resv := BitVec.ofNat 19 (bitsOf n 127 109) }

/-- Append the check of MARK and TALLY, over bytes 0 to 23. -/
def withCrc (b : List Byte) : List Byte := b ++ leBytes 4 (crc32c b).toNat ++ List.replicate 4 0

/-- Is the check of a MARK or TALLY good? -/
def crcOk (b : List Byte) : Bool := b.length == 32 && crc32c (b.take 24) == BitVec.ofNat 32 (pnum b 24 4)

/-- A MARK packet (Table 11.7). -/
def markPkt (m : Mark) (copy : Bool) (late me : Nat) : List Byte :=
  withCrc (leBytes 1 Pkt.mark ++ leBytes 1 copy.toNat ++ leBytes 1 late ++ leBytes 1 0 ++ leBytes 16 m.content ++
    leBytes 2 me ++ leBytes 2 0)

/-- A TALLY packet (Table 11.8). -/
def tallyPkt (number : W48) (codes : BitVec 24) (count : Nat) (copy : Bool) (me : Nat) : List Byte :=
  withCrc (leBytes 1 Pkt.tally ++ leBytes 1 copy.toNat ++ leBytes 2 0 ++ leBytes 6 number.toNat ++
    leBytes 3 codes.toNat ++ leBytes 2 (count % 4096) ++ leBytes 1 0 ++ leBytes 2 me ++ List.replicate 6 0)

/-- A LINK packet: subtype and the bytes from byte 2 on (Table 11.5). -/
def linkPkt (sub : Nat) (rest : List Byte) : List Byte := padSlots (leBytes 1 Pkt.link ++ leBytes 1 sub ++ rest)

/-- f, the nominal transmit delay of a mark (R361). -/
def markF : Nat := 64

/-- The slot of a priority packet whose flit begins at cycle `now`, and what remains to be sent. -/
def PrioOut.emit (now me : Nat) : PrioOut → List Byte × Option PrioOut
  | .mark m a copy =>
    (markPkt m copy (min 255 (now - (a + markF))) me, if copy then none else some (.mark m a true))
  | .tally n cs k copy => (tallyPkt n cs k copy me, if copy then none else some (.tally n cs k true))
  | .link b => (padSlots b, none)
  | .echo => (linkPkt 2 (leBytes 2 0 ++ leBytes 4 (now % 4294967296)), none)
  | .echoReply t at_ => (linkPkt 3 (leBytes 2 0 ++ leBytes 4 t.toNat ++ leBytes 2 (min 65535 (now - (at_ + 128)))), none)

/-- May the packet go in a flit that begins at cycle `now`: a mark's first copy from A + f on (R361), a reply 128 cycles
after its echo (R362)? -/
def PrioOut.ready (now : Nat) : PrioOut → Bool
  | .mark _ a false => decide (a + markF ≤ now)
  | .echoReply _ at_ => decide (at_ + 128 ≤ now)
  | _ => true

/-- Order of priority packets: second copies, which follow in the next flit (R361, R365), then MARK, TALLY and LINK. -/
def PrioOut.rank : PrioOut → Nat
  | .mark _ _ copy => if copy then 0 else 1
  | .tally _ _ _ copy => if copy then 0 else 2
  | _ => 3

/-- Does the packet carry a mark or a tally? -/
def PrioOut.timed (e : PrioOut) : Bool := decide (e.rank < 3)

/-- The priority packets that may go now, in their order. -/
def GPort.prioDue (now : Nat) (g : GPort) : List PrioOut :=
  let r := g.prio.filter (·.ready now)
  [0, 1, 2, 3].flatMap fun k => r.filter fun e => e.rank == k

/-! ### The next packet (R357) -/

def TxPkt.vc (q : TxPkt) : Nat := pvc (ptype q.bytes)
def TxPkt.slots (q : TxPkt) : Nat := q.bytes.length / 32

/-- May the packet begin: its channel has credits for all its slots, and the port carries its type. -/
def GPort.eligible (code : Nat) (g : GPort) (q : TxPkt) : Bool :=
  carriesType code (ptype q.bytes) && decide (q.slots ≤ KV.get 0 g.credits q.vc)

/-- The source that begins its packet at a packet boundary: the packet, and the transfer that loses (R357). -/
def GPort.choose (code me : Nat) (g : GPort) : Option (TxPkt × Option TxPkt) :=
  let head := fun (l : List TxPkt) => l.head?.filter (g.eligible code)
  match head g.receipts, head g.reduces, head g.writes, head g.mgmts with
  | some q, _, _, _ => some (q, none)
  | none, some q, w, _ =>
    some (q, if psrc q.bytes = me then w.filter (fun w => psrc w.bytes == me) else none)
  | none, none, some q, _ => some (q, none)
  | none, none, none, some q => some (q, none)
  | none, none, none, none => none

/-- Take a chosen packet out of its queue and use its credits. -/
def GPort.begin (q : TxPkt) (g : GPort) : GPort :=
  let rest := fun (l : List TxPkt) => l.filter fun r => r.num != q.num
  { g with
    receipts := rest g.receipts, reduces := rest g.reduces, writes := rest g.writes, mgmts := rest g.mgmts
    credits := KV.upd 0 g.credits q.vc (· - q.slots)
    cur := some (q, slotsOf q.slots q.bytes) }

/-- Slots taken for a flit, each with whether it begins a packet and the packet's type; the packets they belong to; the
transfers that lost. -/
structure Fill where
  slots : List (Bool × Nat × List Byte)
  pkts : List TxPkt
  losers : List TxPkt
  deriving DecidableEq, Repr

/-- Fill up to `n` non-priority slots. -/
def fillSlots (code me : Nat) : Nat → GPort → Fill × GPort
  | 0, g => (⟨[], [], []⟩, g)
  | n + 1, g =>
    let go := fun (start : Bool) (q : TxPkt) (sl : List Byte) (rest : List (List Byte)) (lose : List TxPkt) (g : GPort) =>
      let (f, g) := fillSlots code me n { g with cur := if rest.isEmpty then none else some (q, rest) }
      (Fill.mk ((start, ptype q.bytes, sl) :: f.slots) (if f.pkts.elem q then f.pkts else q :: f.pkts) (lose ++ f.losers), g)
    match g.cur with
    | some (q, sl :: rest) => if carriesType code (ptype q.bytes) then go false q sl rest [] g else (⟨[], [], []⟩, g)
    | _ =>
      match g.choose code me with
      | none => (⟨[], [], []⟩, g)
      | some (q, lose) =>
        match slotsOf q.slots q.bytes with
        | sl :: rest => go true q sl rest lose.toList (g.begin q)
        | [] => (⟨[], [], []⟩, g)

/-- A number with the given bits set. -/
def maskOf (is : List Nat) : Nat := (is.map (2 ^ ·)).sum

/-- The lowest channel with slots to return, and how many of them fit a header. -/
def GPort.toReturn (g : GPort) : Nat × Nat :=
  match [0, 1, 2, 3].find? (fun v => decide (0 < KV.get 0 g.owed v)) with
  | some v => (v, min 1023 (KV.get 0 g.owed v))
  | none => (0, 0)

def GPort.returned (g : GPort) : GPort :=
  let (v, n) := g.toReturn
  { g with owed := KV.upd 0 g.owed v (· - n) }

/-- The priority packets a flit of `n` free priority places takes; the rest stays queued, with the second copies. -/
def takePrio (now me n : Nat) (g : GPort) : List (List Byte) × GPort :=
  let due := g.prioDue now
  let es := (due.take n).map (PrioOut.emit now me)
  (es.map (·.1), { g with prio := es.filterMap (·.2) ++ due.drop n ++ g.prio.filter fun e => !e.ready now })

/-- Slots of a flit in full mode, or of a short flit. -/
def GPort.slotCount (g : GPort) : Nat := if g.full then 7 else 1

/-- The priority slots of a flit to be resent. -/
def RetryEnt.places (e : RetryEnt) : List Nat :=
  (List.range e.slots.length).filter fun i => Nat.testBit (FlitHead.of e.head).prio i

/-- Resend the next flit, its priority slots filled afresh (R353). -/
def resendFlit (now me : Nat) (e : RetryEnt) (g : GPort) : GPort :=
  let h := FlitHead.of e.head
  let places := e.places
  let (ps, g) := takePrio now me places.length g
  let slots := e.slots.zipIdx.map fun x =>
    match places.findIdx? (· == x.2) with
    | some j => ps.getD j (List.replicate 32 0)
    | none => x.1
  { g with
    resend := g.resend.drop 1
    txFlit := flitBytes ({ h with ack := g.rxSeq, again := true } : FlitHead).word slots }

/-- Empty slots up to `n`. -/
def fillEmpty (n : Nat) (sl : List (List Byte)) : List (List Byte) := sl ++ List.replicate (n - sl.length) (List.replicate 32 0)

/-- A flit that is sent for the first time (R346, R353, R357), an IDLE flit where `idle`; the transfers that lost a packet
boundary. -/
def freshFlit (idle : Bool) (now me code : Nat) (g : GPort) : List TxPkt × GPort :=
  let n := g.slotCount
  let (ps, g) := takePrio now me n g
  let k := ps.length
  let blocked := idle || g.switchLane.isSome || decide (1024 ≤ g.retry.length)
  let (f, g) := if blocked then (Fill.mk [] [] [], g) else fillSlots code me (n - k) g
  let isSwitch := !idle && g.switchLane.isSome && ps.isEmpty && decide (g.retry.length < 1024)
  let kind := if isSwitch then 3 else if f.slots.isEmpty then 1 else 0
  let (v, c) := g.toReturn
  let g := g.returned
  let h : FlitHead :=
    { kind := kind, seq := if kind = 1 then 0 else g.txSeq, ack := g.rxSeq
      start := maskOf ((f.slots.zipIdx.filter (·.1.1)).map fun x => k + x.2)
      prio := maskOf (List.range k), vc := v, credit := c, again := false }
  let slots := fillEmpty n (ps ++ f.slots.map (·.2.2))
  let types := List.replicate k 0 ++ f.slots.map (·.2.1)
  let g := { g with txFlit := flitBytes h.word slots }
  let g := match g.switchLane with
    | some l =>
      if isSwitch then { g with switchLane := none, spareTx := BitVec.ofNat 4 l, spares := sat32 g.spares 1 } else g
    | none => g
  (f.losers, if kind = 1 then g else
    { g with txSeq := (g.txSeq + 1) % 4096, retry := g.retry ++ [⟨g.txSeq, h.word, slots, f.pkts, types⟩] })

/-- A RETRY_REQ flit (R353). -/
def reqFlit (g : GPort) : GPort :=
  let h : FlitHead :=
    { kind := 2, seq := 0, ack := g.rxSeq, start := 0, prio := 0, vc := 0, credit := 0, again := false }
  { g with reqDue := false, txFlit := flitBytes h.word (fillEmpty g.slotCount []) }

/-! ### The lanes (R344, R345, R348) -/

/-- Bytes of the last flit begun by physical lane: in DETECT every lane carries it (Table 11.4). -/
def GPort.lanes (g : GPort) : List (Nat × List Byte) :=
  if g.st = .detect then (List.range 9).map fun n => (n, g.txFlit)
  else
  if g.full then ((List.range 9).map fun n => (n, laneBytes g.spareTx n g.txFlit)).filter fun e => !e.2.isEmpty
  else [(g.keeperLane, g.txFlit)]

/-- Drive the lanes with the last flit begun. A port that is trained scrambles each lane from where its scrambler stands; one
that trains does not (log entry 30). -/
def GPort.drive (g : GPort) : GPort :=
  let outs := g.lanes.map fun e =>
    let bits := e.2.flatMap byteBits
    if g.trained then (e.1, scramble ((KV.find? g.scr e.1).getD (scrambleInit e.1)) bits) else (e.1, bits, 0)
  { g with
    wire := outs.map fun e => (e.1, symbols g.full e.2.1)
    scr := if g.trained then outs.foldl (fun m e => KV.insert m e.1 e.2.2) g.scr else g.scr }

end Sys2Proof.Machine
end

