-- ==== Sys2Proof/Machine/Link.lean ====
section
/-!
DEFINITION. The link between devices: receipts and routing (R358, R359, R373), flits, retry and port-down (R353 to R356),
training, sparing and modes (R349 to R352), marks, tallies and neighbours (R361 to R368).
-/

namespace Sys2Proof.Machine

/-! ### Receipts and routing -/

/-- ext of the record of F_GHL_WINDOW_CLOSED (Table 15.2a): index, source device and window; its arg is the index. -/
def closedExt (index src window : Nat) : BitVec 48 :=
  BitVec.ofNat 48 (index / 4294967296 + 65536 * src + 4294967296 * window)

/-- End a class-4 command by a fault of its own (R54, R373, R377). A sender told that its packet came outside its window
records its own index, identifier and window (R510). -/
def actFault (c : Nat) (a : GhlAct) (code : Nat) (s : State) : State :=
  let i := (s.slot c).stk.index.toNat
  let s' := endAct c a code true s
  if code = Code.ghlWindowClosed then raiseCause s' c code (BitVec.ofNat 32 i) (closedExt i s.myId a.window)
  else raiseCause s' c code a.seq 0


/-- The fault of a receipt's outcome (R373, Table 11.15). -/
def outcomeFault (o : Nat) : Nat :=
  if o = 1 then Code.ghlWindowClosed else if o = 2 then Code.ghlEpoch else if o = 3 then Code.ghlWindowFault
  else Code.ghlLost

def staleDrop (n : Nat) (s : State) : State := s.modGhl fun g => { g with staleDrops := sat32 g.staleDrops n }

/-- LINK(p) (Table 14.3). -/
def triggerLink (p : Nat) (s : State) : State := s.trigger 4 (unitPort p 31)

/-- The port of the route to a device, if any. -/
def portTo (s : State) (dst : Nat) : Option Nat :=
  let r := KV.get Route.none s.ghl.routes dst
  if r.valid ∧ r.here = false then some r.port.toNat else none

/-- A receipt at its command (R373, R377). -/
def receiptIn (b : List Byte) (s : State) : State :=
  let c := pslot b
  let out := min 4 (pnum b 7 1)
  let red := pnum b 18 1 % 2 == 1
  if pnum b 12 6 < s.stroke.mark.toNat then staleDrop 1 s
  else
    match (s.slot c).ghl.acts.find? (fun a =>
        a.tag == pnum b 8 2 && a.kind == (if red then 2 else 0) && (!red || a.tree == pnum b 19 1)) with
    | none => staleDrop 1 s
    | some a =>
      let s := if out = 1 then
          (match portTo s (psrc b) with
            | some p => triggerLink p s
            | none => s)
        else s
      if red then (if out = 0 then s else actFault c a (outcomeFault out) s)
      else
        let j := min a.packets (a.cov + pnum b 10 2)
        if out = 0 then
          let s := s.modAct c a fun a => { a with done := a.done + a.span a.cov j, cov := j }
          if a.packets ≤ j then endAct c a 0 false s else s
        else
          actFault c a (outcomeFault out) (s.modAct c a fun a => { a with refused := a.refused + (j - a.cov), cov := j })

/-- Send a receipt; one that has no route or no port is dropped without another (R359). -/
def sendReceipt (b : List Byte) (s : State) : State :=
  match routeOf s b with
  | .here => receiptIn b s
  | .port p => s.modPort p (GPort.push b)
  | .noRoute => countNoRoute b s
  | .noPort => s

/-- A packet is lost: its source gets a LOST receipt, unless it is a receipt (R355, R359, R367, R373). -/
def losePkt (b : List Byte) (s : State) : State :=
  if ptype b = Pkt.receipt then s else sendReceipt (lostReceipt s.myId b) s

/-- Give a packet that this device does not consume to its route (R358, R359). -/
def forward (b : List Byte) (s : State) : State :=
  match routeOf s b with
  | .here => s
  | .port p => s.modPort p (GPort.push b)
  | .noRoute => losePkt b (countNoRoute b s)
  | .noPort => losePkt b s

/-- A packet received for another device: one hop less, or dropped (R358, R359). -/
def passOn (b : List Byte) (s : State) : State :=
  if phops b = 0 then losePkt b (countNoRoute b s)
  else forward (b.set 1 (b.getD 1 0 - 1)) s

/-- Return the slots of a packet that leaves the receive buffer (R356). -/
def freeSlots (p : Nat) (b : List Byte) (s : State) : State :=
  s.modPort p fun g => { g with owed := KV.upd 0 g.owed (pvc (ptype b)) (· + b.length / 32) }

/-- Take a packet out of a port's receive buffer, when it stands there (log entry 31). -/
def takeIn (p : Nat) (b : List Byte) (s : State) : State :=
  if (s.port p).inbox.elem b then s.modPort p fun g => { g with inbox := g.inbox.erase b } else s

/-! ### Ports going down -/

/-- Every packet a port still holds to send, once each. -/
def GPort.held (g : GPort) : List TxPkt :=
  ((g.retry.flatMap (·.pkts)) ++ (g.cur.map (·.1)).toList ++ g.receipts ++ g.reduces ++ g.writes ++ g.mgmts).eraseDups

/-- The port goes down (R355): partial packets and queues are discarded, their sources are told, and the port retrains. -/
def portDown (p : Nat) (s : State) : State :=
  let g := s.port p
  if g.carries = false ∨ g.st = .detect then s
  else
    let lost := g.held
    let s := s.modPort p fun g =>
      { GPort.reset with
        st := .detect, wantKeeper := g.wantKeeper, laneOk := 0, preset := g.preset, peerId := g.peerId
        peerPort := g.peerPort, peerValid := g.peerValid, peerAdmitted := g.peerAdmitted, wFull := g.wFull
        wKeeper := g.wKeeper, inbox := g.inbox, txNum := g.txNum, fecCorr := g.fecCorr, badFlits := g.badFlits
        retries := g.retries, downs := sat32 g.downs 1, markMisses := g.markMisses, markCheck := g.markCheck
        spares := g.spares }
    (triggerLink p (forEach (lost.map (·.bytes)) losePkt s)).settleHealth

/-- A flit of the retry buffer without what a port that is LOST or in QUARANTINE may not send (R367, R368): the slots of
such packets hold zeros, and the flit keeps its number. -/
def RetryEnt.blank (e : RetryEnt) : RetryEnt :=
  let h := FlitHead.of e.head
  let out := fun i => !([0, Pkt.mgmt] : List Nat).elem (e.types.getD i 0)
  let start := maskOf ((List.range e.slots.length).filter fun i => Nat.testBit h.start i && !out i)
  { e with
    head := ({ h with start := start } : FlitHead).word
    slots := e.slots.zipIdx.map fun x => if out x.2 then List.replicate 32 0 else x.1
    pkts := e.pkts.filter fun q => ptype q.bytes == Pkt.mgmt
    types := e.types.map fun t => if t = Pkt.mgmt then t else 0 }

/-- A port that carries LINK and MGMT alone: what else it holds to send goes (R367, R368). -/
def GPort.quiet (g : GPort) : GPort :=
  { g with
    writes := [], reduces := [], receipts := []
    cur := g.cur.filter fun e => ptype e.1.bytes == Pkt.mgmt
    retry := g.retry.map RetryEnt.blank, resend := g.resend.map RetryEnt.blank
    prio := g.prio.filter fun e => !e.timed }

/-- Quieten a port; the sources of the packets that go are told (R373; log entry 86). -/
def quietPort (p : Nat) (s : State) : State :=
  let lost := (s.port p).held.filter fun q => ptype q.bytes != Pkt.mgmt
  forEach (lost.map (·.bytes)) losePkt (s.modPort p GPort.quiet)

/-! ### Receiving flits -/

/-- Append the slots of an accepted flit to the packets they belong to (R347). -/
def takeSlots : List (List Byte × Bool × Bool) → List Byte → List (List Byte) → List Byte × List (List Byte)
  | [], part, done => (part, done)
  | (sl, start, prio) :: rest, part, done =>
    if prio then takeSlots rest part done
    else
      let part := if start then sl else if part.isEmpty then [] else part ++ sl
      if part.isEmpty = false ∧ part.length = 32 * pslots part then takeSlots rest [] (done ++ [part])
      else takeSlots rest part done

/-- Entries of the retry buffer that an ack does not cover (R353). -/
def uncovered (ack : Nat) (l : List RetryEnt) : List RetryEnt :=
  match l.findIdx? (fun e => e.seq == ack) with
  | some i => l.drop (i + 1)
  | none => l

/-- The transmitter receives RETRY_REQ (R353, R355). -/
def retryReq (p ack : Nat) (s : State) : State :=
  let g := s.port p
  let run := if g.reqRun ≠ 0 ∧ g.reqAck = ack then g.reqRun + 1 else 1
  let s := s.modPort p fun g =>
    { g with retries := sat32 g.retries 1, reqAck := ack, reqRun := run, resend := g.retry }
  if run = 8 then portDown p s else s

/-- Credits of a header (R356). -/
def GPort.credit (h : FlitHead) (g : GPort) : GPort := { g with credits := KV.upd 0 g.credits h.vc (· + h.credit) }

/-- A sequenced flit in order: its packets, and a lane that moves with it (R352, R353). -/
def acceptFlit (p : Nat) (h : FlitHead) (slots : List (List Byte)) (s : State) : State :=
  let tag := slots.zipIdx.map fun x => (x.1, Nat.testBit h.start x.2, Nat.testBit h.prio x.2)
  let (part, done) := takeSlots tag (s.port p).rxPart []
  let s := s.modPort p fun g => (GPort.credit h { g with rxSeq := h.seq, rxPart := part, inbox := g.inbox ++ done })
  match (s.port p).spareAt with
  | some (l, q) =>
    if h.kind = 3 ∧ q = h.seq then
      (s.modPort p fun g => { g with spareRx := BitVec.ofNat 4 l, spareAt := none, asked := none
                                     spares := sat32 g.spares 1 }).log Code.ghlLaneSpared originMp 0xFF 0 0
    else s
  | none => s

/-- Priority slots of a good flit (R354). -/
def prioSlots (h : FlitHead) (slots : List (List Byte)) : List (List Byte) :=
  (slots.zipIdx.filter fun x => Nat.testBit h.prio x.2 && ptype x.1 != Pkt.null).map (·.1)

/-- Does a start slot hold a type that no non-priority packet has (R347)? -/
def badStart (h : FlitHead) (slots : List (List Byte)) : Bool :=
  slots.zipIdx.any fun x => Nat.testBit h.start x.2 && !(([3, 4, 5, 6] : List Nat).elem (ptype x.1))

/-! ### Sending flits -/

/-- The port enters a mode that carries traffic (R349, R368). -/
def GPort.enter (st : PortSt) (g : GPort) : GPort :=
  { g with st := st, changing := false, lost := false, misses := 0, lastMark := none, scr := [] }

/-- Bytes of the CAP that a port sends (Table 11.5). -/
def capPkt (s : State) (p : Nat) : List Byte :=
  let g := s.port p
  linkPkt 1 (leBytes 2 s.myId ++ leBytes 1 p ++ leBytes 1 1 ++ leBytes 2 s.stroke.rootId.toNat ++
    leBytes 2 g.laneOk.toNat ++ leBytes 1 (if s.mp.calNow.origin = 2 then 0 else Config.calPreset s.mp.calNow.record p % 16) ++
    leBytes 1 (s.ghl.admitted.toNat + 2 * g.wantKeeper.toNat) ++
    leBytes 2 2048 ++ leBytes 2 2048 ++ leBytes 2 256 ++ leBytes 2 256)

def pushPrio (p : Nat) (es : List PrioOut) (s : State) : State := s.modPort p fun g => { g with prio := g.prio ++ es }
def pushLink (p sub : Nat) (rest : List Byte) (s : State) : State := pushPrio p [.link (linkPkt sub rest)] s

/-- A transfer lost a packet boundary to the reduction unit (R57, R59, R357). -/
def arbLost (q : TxPkt) (s : State) : State :=
  let c := pslot q.bytes
  let s := s.modSlot c fun x => { x with stk := { x.stk with arbLoss := sat32 x.stk.arbLoss 1 } }
  if nonconf s c then
    match (s.slot c).ghl.acts.find? (fun a => a.kind == 0 && a.tag == pnum q.bytes 30 2) with
    | some a => actFault c a Code.nonconformance s
    | none => s
  else s

/-- No context is RUNNING, as a change of mode asks (R349). -/
def noneRunning (s : State) : Bool := slots8.all fun c => (s.slot c).st != .running

/-- A change of mode that has not been confirmed is off once a context runs (R349). -/
def dropModeAcks (p : Nat) (s : State) : State :=
  let ack := fun (e : PrioOut) => e == .link (linkPkt 7 []) || e == .link (linkPkt 9 [])
  if noneRunning s = true ∨ (s.port p).prio.any ack = false then s
  else s.modPort p fun g => { g with prio := g.prio.filter fun e => !ack e, changing := false }

/-- What the priority packets of the flit just sent bring about: the device's tally has left it (R51), and a change of
mode is confirmed (R349). -/
def prioSent (p : Nat) (es : List PrioOut) (s : State) : State :=
  let mk := s.stroke.mark
  let s := if es.any (fun | .tally n _ _ _ => n == mk | _ => false) then
      s.modStroke fun k => { k with tallyOut := true }
    else s
  if es.any (fun e => e == .link (linkPkt 7 [])) then
    s.modPort p (GPort.enter .keeper)
  else if es.any (fun e => e == .link (linkPkt 9 [])) then s.modPort p fun g => { g with st := .equalise }
  else s

/-- A mark or tally that the RETRY_REQ flit, or the next flit to be resent, has no place for goes in an IDLE flit before
it, so that its copies keep to their flits (R361, R365; log entry 86). -/
def GPort.mustIdle (now : Nat) (g : GPort) : Bool :=
  let timed := ((g.prioDue now).filter (·.timed)).length
  if g.reqDue then decide (0 < timed)
  else match g.resend with
    | e :: _ => decide (e.places.length < timed)
    | [] => false

/-- FLIT_TRANSMIT (R353, R357). -/
def flitTransmit (p : Nat) (s : State) : State :=
  let g := s.port p
  if g.carries = false then s
  else
    let s := if g.st = .detect then s.modPort p fun g => { g with prio := [.link (capPkt s p)] } else dropModeAcks p s
    let g := s.port p
    let now := s.now
    let me := s.myId
    let due := g.prioDue now
    let idle := g.mustIdle now
    if g.reqDue ∧ idle = false then s.modPort p fun g => (reqFlit g).drive
    else
      match idle, g.resend with
      | false, e :: _ => prioSent p (due.take e.places.length) (s.modPort p fun g => (resendFlit now me e g).drive)
      | _, _ =>
        let (lost, g') := freshFlit idle now me (g.code s.ghl.admitted) g
        let s := s.modPort p fun _ => g'.drive
        let s := if g'.spareTx = g.spareTx then s else s.log Code.ghlLaneSpared originMp 0xFF 0 0
        forEach lost arbLost (prioSent p (due.take g.slotCount) s)

/-! ### Training -/

/-- Sixteen echoes (R350). -/
def echoes16 : List PrioOut := List.replicate 16 .echo

/-- Mean of the samples, rounded up (R362). -/
def meanUp (l : List Nat) : Nat := if l.isEmpty then 0 else (l.sum + l.length - 1) / l.length

/-- DETECT_LOCK (R350): `lanes` are the lanes that passed. -/
def detectLock (p : Nat) (lanes : BitVec 9) (s : State) : State :=
  match (List.range 9).find? lanes.getLsbD with
  | none => s
  | some k =>
    if (s.port p).st = .detect then
      let s := s.modPort p fun g => { g with st := .keeperUp, keeperLane := k, laneOk := lanes, samples := [], prio := [] }
      pushPrio p (.link (capPkt s p) :: echoes16) s
    else s

/-- KEEPER_UP_DONE (R350). -/
def keeperUpDone (p : Nat) (s : State) : State :=
  let g := s.port p
  if g.st = .keeperUp ∧ g.peerValid = true ∧ 16 ≤ g.samples.length then
    s.modPort p fun g =>
      let g := { g with wKeeper := meanUp g.samples }
      if g.wantKeeper || g.peerKeeper then g.enter .keeper else { g with st := .equalise }
  else s

/-- EQUALISE_DONE (R350): `bad` are the physical lanes that failed; a marked lane goes onto the spare whatever its
result (R451). -/
def equaliseDone (p : Nat) (bad : BitVec 9) (s : State) : State :=
  if (s.port p).st = .equalise then
    let fs := (List.range 9).filter (bad ||| KV.get 0 s.mp.marked (2 * p)).getLsbD
    let s := s.modPort p fun g => { g with laneOk := ~~~bad, failed := fs, spareRx := 15 }
    match fs with
    | [] => s.modPort p fun g => { g with st := .align }
    | [f] => s.modPort p fun g => { g with st := .align, spareRx := if f < 8 then BitVec.ofNat 4 f else 15 }
    | _ => ((s.modPort p (GPort.enter .degraded)).log Code.ghlPortDegraded originMp 0xFF 0 0).settleHealth
  else s

/-- ALIGN_DONE (R350). -/
def alignDone (p : Nat) (s : State) : State :=
  if (s.port p).st = .align then
    pushPrio p echoes16 (s.modPort p fun g => { g with st := .calibrate, samples := [] })
  else s

/-- Smallest admissible hop_units for a latency and a decode time (R363). -/
def unitsFor (w d : Nat) : Nat := (markF + w + d + 63) / 64

/-- need_units (R363): 0 before both measurements, or when no value up to 63 will do. -/
def GPort.needUnits (g : GPort) : Nat :=
  let full := unitsFor g.wFull 64
  let keep := unitsFor g.wKeeper 128
  let n := max 2 (if g.st = .degraded then keep else max full keep)
  if g.wKeeper = 0 ∨ (g.st ≠ .degraded ∧ g.wFull = 0) ∨ 63 < n then 0 else n

/-- CALIBRATE_DONE (R350); a new need_units beyond hop_units on the upstream port is logged (R442). -/
def calibrateDone (p : Nat) (s : State) : State :=
  if (s.port p).st = .calibrate ∧ 16 ≤ (s.port p).samples.length then
    let s := s.modPort p fun g => { g with wFull := meanUp g.samples }.enter .active
    if s.ghl.upValid = true ∧ s.ghl.upPort.toNat = p ∧ s.stroke.hopUnits.toNat < (s.port p).needUnits then
      s.log Code.ghlHopRange originMp 0xFF 0 0
    else s
  else s

/-- TRAIN_TIMEOUT (R350). -/
def trainTimeout (p : Nat) (s : State) : State :=
  if [PortSt.keeperUp, .equalise, .align, .calibrate].elem (s.port p).st then
    (s.modPort p fun g => { g with st := .detect, changing := false, prio := [], rxPart := [] }).log
      Code.ghlTrain originMp 0xFF 0 0
  else s

/-- rx_pad for the present mode (R362); 0 when it would be negative. -/
def rxPad (s : State) (p : Nat) : Nat :=
  let g := s.port p
  64 * s.stroke.hopUnits.toNat - markF - (if g.st = .active ∨ g.st = .calibrate then g.wFull else g.wKeeper)

/-- A CAP (R351, R368): who the neighbour is, and its buffers as first credits. -/
def capIn (p : Nat) (b : List Byte) (s : State) : State :=
  if (s.port p).carries = false then s
  else
    let flags := pnum b 11 1
    let adm := flags % 2 == 1
    let fell := (s.port p).peerAdmitted && !adm
    let s := s.modPort p fun g =>
      let moved := adm != g.peerAdmitted
      { g with
        peerId := BitVec.ofNat 11 (pnum b 2 2), peerPort := BitVec.ofNat 4 (pnum b 4 1), peerValid := true
        preset := BitVec.ofNat 4 (pnum b 10 1), peerAdmitted := adm, peerKeeper := flags / 2 % 2 == 1
        misses := if moved then 0 else g.misses, lastMark := if moved then none else g.lastMark
        lost := g.lost && !moved
        credits := if g.st = .detect ∨ g.st = .keeperUp then
            (List.range 4).foldl (fun m v => KV.set 0 m v (pnum b (12 + 2 * v) 2)) [] else g.credits }
    if fell then quietPort p s else s

/-- An ECHO is answered (R362). -/
def echoIn (p : Nat) (b : List Byte) (s : State) : State :=
  if (s.port p).carries then pushPrio p [.echoReply (BitVec.ofNat 32 (pnum b 4 4)) s.now] s else s

/-- An ECHO_REPLY gives a sample of w (R362). -/
def echoReplyIn (p : Nat) (b : List Byte) (s : State) : State :=
  if (s.port p).carries then
    let trip := (s.now + 4294967296 - pnum b 4 4) % 4294967296
    s.modPort p fun g => { g with samples := ((trip - 128 - pnum b 8 2 + 1) / 2 :: g.samples).take 16 }
  else s

/-! ### Sparing (R352) -/

/-- Mark a failing receive lane in the repair map (R451). -/
def markLane (p lane : Nat) (s : State) : State :=
  let m := KV.get 0 s.mp.marked (2 * p)
  if m.getLsbD lane then s
  else
    (s.changeTo (s.modMp fun q => { q with marked := KV.set 0 q.marked (2 * p) (m ||| (1#9 <<< lane)) })
      originMp 0 3 p).settleHealth

/-- LANE_FAILING: a logical lane, or 8 for the spare lane in use. -/
def laneFailing (p lane : Nat) (s : State) : State :=
  let g := s.port p
  if g.st ≠ .active ∨ NSet.mem g.failed lane ∨ (8 ≤ lane ∧ g.spareRx = 15) then s
  else
    let s := markLane p lane s
    if g.failed.isEmpty ∧ g.spareRx = 15 then
      pushLink p 4 (leBytes 1 lane) (s.modPort p fun g => { g with failed := NSet.add g.failed lane, asked := some lane })
    else portDown p s

/-- SPARE_REQ: the next sequenced flit is the SWITCH flit that the answer names. -/
def spareReq (p : Nat) (b : List Byte) (s : State) : State :=
  let g := s.port p
  let lane := pnum b 2 1
  if g.st = .active ∧ lane < 8 ∧ g.spareTx = 15 ∧ g.switchLane = none then
    pushLink p 5 (leBytes 1 lane ++ leBytes 1 0 ++ leBytes 2 g.txSeq)
      (s.modPort p fun g => { g with switchLane := some lane })
  else s

/-- SPARE_ACK. -/
def spareAck (p : Nat) (b : List Byte) (s : State) : State :=
  if (s.port p).asked = some (pnum b 2 1) then
    s.modPort p fun g => { g with spareAt := some (pnum b 2 1, pnum b 4 2) }
  else s

/-! ### Flits that arrive -/

/-- Corrections by logical lane: more than 1,024 of a lane within 1 ms make it failing (R352). -/
def countFixed (p : Nat) (at_ : List Nat) (s : State) : State :=
  let g := s.port p
  if g.full = false then s
  else
    let s := forEach at_ (fun b s => s.note (evKey 21 (8 * p + b % 8))) s
    forEach ((at_.map (· % 8)).eraseDups) (fun l s =>
      if 1024 < s.mp.recent (evKey 21 (8 * p + l)) s.now 3000000 then
        laneFailing p (if g.spareRx.toNat = l then 8 else l) s
      else s) s

/-- FLIT_RECEIVE (R346, R353 to R356). -/
def flitReceive (p : Nat) (raw : List Byte) (s : State) : State :=
  let g := s.port p
  if g.carries = false then s
  else
    let f := decodeFlit g.slotCount raw
    let s := countFixed p f.fixed (s.modPort p fun g => { g with fecCorr := g.fecCorr + f.fixed.length })
    if (s.port p).carries = false then s
    else
    let bad := s.modPort p fun g => { g with badFlits := sat32 g.badFlits 1, reqDue := g.st != .detect }
    match f.good with
    | none => bad
    | some (w, slots) =>
      let h := FlitHead.of w
      if badStart h slots then bad
      else
        let s := s.modPort p fun g =>
          { g with
            inbox := g.inbox ++ prioSlots h slots
            retry := uncovered h.ack g.retry, resend := uncovered h.ack g.resend }
        match h.kind with
        | 0 | 3 =>
          if h.seq = (g.rxSeq + 1) % 4096 then acceptFlit p h slots s
          else s.modPort p fun g => { g with reqDue := true }
        | 1 => s.modPort p (GPort.credit h)
        | 2 => retryReq p h.ack (s.modPort p (GPort.credit h))
        | _ => s

/-- RETRY_REQ_RECEIVE: a flit of that kind. -/
def retryReceive (p : Nat) (raw : List Byte) (s : State) : State :=
  match (decodeFlit (s.port p).slotCount raw).good with
  | some (w, _) => if (FlitHead.of w).kind = 2 then flitReceive p raw s else s
  | none => s

/-! ### Keeper mode (R349) -/

/-- The MP asks for keeper mode, or for its end. -/
def askKeeper (p : Nat) (s : State) : State :=
  if (s.port p).st = .active ∧ noneRunning s = true then pushLink p 6 [] (s.modPort p fun g => { g with wantKeeper := true, changing := true })
  else s
def askResume (p : Nat) (s : State) : State :=
  if (s.port p).st = .keeper ∧ noneRunning s = true then pushLink p 8 [] (s.modPort p fun g => { g with wantKeeper := false, changing := true })
  else s

/-- Recalibrate: the exchange of a resumption, from keeper mode or from full mode (R442, log entry 60). -/
def askRecalibrate (p : Nat) (s : State) : State :=
  if ((s.port p).st = .keeper ∨ (s.port p).st = .active) ∧ noneRunning s = true then
    pushLink p 8 [] (s.modPort p fun g => { g with wantKeeper := false, changing := true })
  else s

def keeperReq (p : Nat) (s : State) : State :=
  if (s.port p).st = .active ∧ noneRunning s = true then
    pushLink p 7 [] (s.modPort p fun g => { g with changing := true })
  else s

/-- A confirmation that comes once a context runs changes no mode: the change is off at this end (R349). -/
def lateAck (p : Nat) (s : State) : State := s.modPort p fun g => { g with changing := false }

def keeperAck (p : Nat) (s : State) : State :=
  if (s.port p).st = .active ∧ (s.port p).wantKeeper = true ∧ (s.port p).changing = true then
    if noneRunning s then s.modPort p (GPort.enter .keeper) else lateAck p s
  else s

def resumeReq (p : Nat) (s : State) : State :=
  if ((s.port p).st = .keeper ∨ (s.port p).st = .active) ∧ noneRunning s = true then
    pushLink p 9 [] (s.modPort p fun g => { g with changing := true, wantKeeper := false })
  else s

def resumeAck (p : Nat) (s : State) : State :=
  if ((s.port p).st = .keeper ∨ (s.port p).st = .active) ∧ (s.port p).changing = true ∧
      (s.port p).wantKeeper = false then
    if noneRunning s then s.modPort p fun g => { g with st := .equalise } else lateAck p s
  else s

/-! ### Marks and tallies -/

/-- A MARK or TALLY with a bad check (R361): counted, logged once per Stroke, and watched for LINK(p) (Table 14.3). -/
def badCheck (p : Nat) (s : State) : State :=
  let s := s.modPort p fun g => { g with markCheck := sat32 g.markCheck 1 }
  let s := s.note (evKey 18 p)
  let s := if 16 < s.mp.recent (evKey 18 p) s.now 180000000000 then triggerLink p s else s
  if s.ghl.checkLogged = some s.stroke.mark then s
  else (s.modGhl fun g => { g with checkLogged := some s.stroke.mark }).log Code.ghlMarkCheck originHw 0xFF 0 0

/-- MARK_PACKET_RECEIVE (R361, R362): the raw arrival is `t`. -/
def markIn (p : Nat) (b : List Byte) (t : Nat) (s : State) : State :=
  if s.portUp p = false then s
  else if crcOk b = false then badCheck p s
  else
    let m := Mark.of (pnum b 4 16)
    if (s.port p).lastMark = some m.number then s
    else
      let s := s.modPort p fun g => { g with lastMark := some m.number, misses := 0 }
      if s.stroke.mode = 2#2 ∧ s.ghl.upValid = true ∧ s.ghl.upPort.toNat = p ∧ s.stroke.domainLost = false then
        s.modStroke fun k => { k with rx := some ⟨m, p, t + rxPad s p - pnum b 2 1⟩ }
      else s

/-- MARK_ENTRY (R362): the aligned arrival of the mark. -/
def markEntry (s : State) : State :=
  match s.stroke.rx with
  | some r =>
    if s.stroke.entered = none then
      s.modStroke fun k => { k with rx := none, entered := some r.mark, fwd := some (r.mark, r.at_) }
    else s
  | none => s

/-- MARK_FORWARD (R33, R361): both copies on every port that carries marks. -/
def markForward (s : State) : State :=
  match s.stroke.fwd with
  | none => s
  | some (m, a) =>
    let s := s.modStroke fun k => { k with fwd := none }
    forEach (ports16.filter fun p => s.portUp p) (fun p s => pushPrio p [.mark m a false] s) s

/-- A follower sends its combined tally upstream (R47, R365); none while its CP is down (R463). -/
def sendTally (s : State) : State :=
  let k := s.stroke
  let p := s.ghl.upPort.toNat
  if s.mp.cpHeld then s
  else
  let s := s.modStroke fun k => { k with sent := true }
  if s.ghl.upValid = true ∧ s.portUp p = true then
    pushPrio p [.tally k.mark (packCodes k.codes) k.count false] s
  else s

/-- Downstream ports of the mark tree. -/
def downPorts (s : State) : List Nat := ports16.filter fun p => s.ghl.downMask.getLsbD p

/-- Send once the own tally and one from every downstream port are held (R366). -/
def sendIfAll (s : State) : State :=
  let k := s.stroke
  if k.mode = 2#2 ∧ k.closing = true ∧ k.sent = false ∧ (downPorts s).all (fun p => NSet.mem k.heard p) = true then
    sendTally s
  else s

/-- CLOSING_BAND (R47). -/
def closingBand (s : State) : State :=
  if s.stroke.mayClose then sendIfAll (formTally s) else s

/-- TALLY_PACKET_RECEIVE (R47, R48, R365, R366, R368). Nothing is combined while the CP is down, nor before the closing
band after its restart (R463). -/
def tallyIn (p : Nat) (b : List Byte) (s : State) : State :=
  if s.portUp p = false then s
  else if crcOk b = false then badCheck p s
  else
    let n := BitVec.ofNat 48 (pnum b 4 6)
    if (s.port p).lastTally = some n then s
    else
      let s := s.modPort p fun g => { g with lastTally := some n }
      let k := s.stroke
      if k.mode = 0#2 ∨ s.ghl.downMask.getLsbD p = false ∨ s.mp.cpHeld = true ∨ k.unheard = true then s
      else if n ≠ k.mark ∨ k.sent = true ∨ k.cycle0 = none then
        s.modStroke fun k => { k with staleTallies := sat32 k.staleTallies 1 }
      else
        let s := s.combine (unpackCodes (BitVec.ofNat 24 (pnum b 10 3))) (pnum b 13 2 % 4096)
        sendIfAll (s.modStroke fun k => { k with heard := NSet.add k.heard p })

/-- TALLY_DEADLINE (R366). -/
def tallyDeadline (s : State) : State :=
  let k := s.stroke
  if k.mode = 2#2 ∧ k.closing = true ∧ k.sent = false then sendTally s else s

/-! ### Neighbours and quarantine -/

/-- The neighbour is lost (R367): logged, notified, and what is queued for it is given back. -/
def neighbourLost (p : Nat) (s : State) : State :=
  let g := s.port p
  let id : W32 := g.peerId.setWidth 32
  let s := s.modPort p fun g => { g with lost := true }
  quietPort p ((s.log Code.ghlNeighbourLost originHw 0xFF id 0).postDev Code.ghlNeighbourLost 0)

/-- NEIGHBOUR_MARK_MISS (R349, R367). -/
def neighbourMiss (p : Nat) (s : State) : State :=
  let g := s.port p
  if s.portUp p = false ∨ g.lastMark = none ∨ g.changing = true then s
  else
    let s := s.modPort p fun g => { g with misses := g.misses + 1, markMisses := sat32 g.markMisses 1 }
    if g.misses + 1 < 3 then s else neighbourLost p s

/-- Set or clear GHL_DEVICE_ID.admitted; the neighbours are told and miss counts restart (R368). -/
def setAdmitted (v : Bool) (s : State) : State :=
  if s.ghl.admitted = v then s
  else
    let s := s.modGhl fun g => { g with admitted := v }
    forEach (ports16.filter fun p => (s.port p).carries) (fun p s =>
      let s := s.modPort p fun g => { g with misses := 0, lastMark := none, lost := false }
      let s := if v then s else quietPort p s
      pushPrio p [.link (capPkt s p)] s) s

/-- MARK_MISS (R55, R349, R368). -/
def markMissed (s : State) : State :=
  if s.ghl.upValid = true ∧ (s.port s.ghl.upPort.toNat).changing = true then s
  else
    let t := markMiss s
    if t.stroke.domainLost = true ∧ s.stroke.domainLost = false then setAdmitted false t else t

def execFlitReceive (p : Port) (raw : List Byte) (s : State) : Res := powered s (flitReceive p.val raw s)
def execRetryReqReceive (p : Port) (raw : List Byte) (s : State) : Res := powered s (retryReceive p.val raw s)
def execFlitTransmit (p : Port) (s : State) : Res := powered s (flitTransmit p.val s)
def execGoodFlitTimeout (p : Port) (s : State) : Res := powered s (portDown p.val s)
def execFlitLockLoss (p : Port) (s : State) : Res :=
  powered s (portDown p.val s)
def execLaneFailing (p : Port) (lane : Fin 9) (s : State) : Res := powered s (laneFailing p.val lane.val s)
def execDetectLock (p : Port) (lanes : BitVec 9) (s : State) : Res := powered s (detectLock p.val lanes s)
def execKeeperUpDone (p : Port) (s : State) : Res := powered s (keeperUpDone p.val s)
def execEqualiseDone (p : Port) (bad : BitVec 9) (s : State) : Res := powered s (equaliseDone p.val bad s)
def execAlignDone (p : Port) (s : State) : Res := powered s (alignDone p.val s)
def execCalibrateDone (p : Port) (s : State) : Res := powered s (calibrateDone p.val s)
def execTrainTimeout (p : Port) (s : State) : Res := powered s (trainTimeout p.val s)
def execCap (p : Port) (raw : List Byte) (s : State) : Res := powered s (capIn p.val raw (takeIn p.val raw s))
def execEcho (p : Port) (raw : List Byte) (s : State) : Res := powered s (echoIn p.val raw (takeIn p.val raw s))
def execEchoReply (p : Port) (raw : List Byte) (s : State) : Res := powered s (echoReplyIn p.val raw (takeIn p.val raw s))
def execSpareReq (p : Port) (raw : List Byte) (s : State) : Res := powered s (spareReq p.val raw (takeIn p.val raw s))
def execSpareAck (p : Port) (raw : List Byte) (s : State) : Res := powered s (spareAck p.val raw (takeIn p.val raw s))
def execKeeperReq (p : Port) (raw : List Byte) (s : State) : Res := powered s (keeperReq p.val (takeIn p.val raw s))
def execKeeperAck (p : Port) (raw : List Byte) (s : State) : Res := powered s (keeperAck p.val (takeIn p.val raw s))
def execResumeReq (p : Port) (raw : List Byte) (s : State) : Res := powered s (resumeReq p.val (takeIn p.val raw s))
def execResumeAck (p : Port) (raw : List Byte) (s : State) : Res := powered s (resumeAck p.val (takeIn p.val raw s))
def execMarkIssue (s : State) : Res := powered s (markIssue s)
def execMarkPacketReceive (p : Port) (raw : List Byte) (t : Nat) (s : State) : Res :=
  powered s (markIn p.val raw t (takeIn p.val raw s))
def execMarkEntry (s : State) : Res := powered s (markEntry s)
def execMarkForward (s : State) : Res := powered s (markForward s)
def execTallyPacketReceive (p : Port) (raw : List Byte) (s : State) : Res :=
  powered s (tallyIn p.val raw (takeIn p.val raw s))
def execTallyDeadline (s : State) : Res := powered s (tallyDeadline s)
def execRootTallyCutoff (s : State) : Res := powered s (rootCutoff s)
def execMarkMiss (s : State) : Res := powered s (markMissed s)
def execNeighbourMarkMiss (p : Port) (s : State) : Res := powered s (neighbourMiss p.val s)

end Sys2Proof.Machine
end

