-- ==== Sys2Proof/Machine/Memory.lean ====
section
/-!
DEFINITION. The memory controllers: placement of a block (R263), outcomes of a read (R269), page retirement (R271,
R272), and the pages of a stack that contexts may take (R257, R277).
-/

namespace Sys2Proof.Machine

def stackBytes : Nat := 85899345920
/-- 2 MiB pages of a stack, and pages of its spare pool (R262, R271). -/
def stackPages : Nat := 40960
def sparePages : Nat := 64
/-- Pages of the Press staging region, the top 2 GiB of each stack (R283). -/
def stagingPages : Nat := 1024

/-- First page of the spare pool, below the staging region (log entry 12). -/
def spareBase : Nat := stackPages - stagingPages - sparePages

/-- First and last-plus-one page of stack `j` for images: M0 holds the translation tables at its foot (R255,
log entry 12). -/
def imagePages (j : Nat) : Nat × Nat := (if j = 0 then Config.tablePages else 0, spareBase)

def MemSys.usedOf (m : MemSys) (j : Nat) : NSet := KV.get [] m.used j

/-- pages_free of STR_AVAIL_j (R277). -/
def pagesFree (s : State) (j : Nat) : Nat :=
  (imagePages j).2 - (imagePages j).1 - (s.mem.usedOf j).length

/-- spares_left of STR_AVAIL_j. -/
def sparesLeft (s : State) (j : Nat) : Nat := sparePages - KV.get 0 s.mem.spares j

/-- The lowest pages not in a strictly rising list, `n` of them from `p` on. -/
def freePages : NSet → Nat → Nat → List Nat
  | [], p, n => (List.range n).map (p + ·)
  | u :: us, p, n =>
    if u < p then freePages us p n
    else (List.range (min n (u - p))).map (p + ·) ++ freePages us (u + 1) (n - min n (u - p))

/-- Take `n` pages of stack `j`, lowest first (log entry 13). -/
def takePages (j n : Nat) (s : State) : List Nat × State :=
  let ps := freePages (s.mem.usedOf j) (imagePages j).1 n
  (ps, { s with mem := { s.mem with used := KV.set [] s.mem.used j (ps.foldl NSet.add (s.mem.usedOf j)) } })

/-- Give pages back. -/
def freePage (j p : Nat) (s : State) : State :=
  { s with mem := { s.mem with used := KV.set [] s.mem.used j (NSet.del (s.mem.usedOf j) p) } }

/-- Zero a 2 MiB page. -/
def zeroPage (j p : Nat) (s : State) : State :=
  let a := stackKey j (p * pageBig)
  { s with stackMem := KV.eraseRange s.stackMem a (a + pageBig), mem := s.mem.clean a pageBig }

/-! ### Placement of a block -/

def parity (n : Nat) : Nat := ((List.range 32).filter (fun i => Nat.testBit n i)).length % 2

/-- Channel, bank, row and column of block `b` under a key (R263). -/
def placeBlock (b : Nat) (key : W32) : Nat × Nat × Nat × Nat :=
  let row := bitsOf b 29 14
  let rk := fun n => (key.rotateRight n).toNat
  let bank := ((List.range 5).map fun i =>
    2 ^ i * ((bitsOf b (9 + i) (9 + i) + parity (row &&& (rk (5 * i + 3) % 65536))) % 2)).sum
  let chan := ((List.range 5).map fun i =>
    2 ^ i * ((bitsOf b i i + parity (bitsOf b 29 9 &&& (rk (5 * i) % 2097152))) % 2)).sum
  (chan, bank, row, bitsOf b 8 5)

/-- Physical block of a stack offset, after the remap (R263, R271): spare pages stand below the staging region
(log entry 12). -/
def physBlock (s : State) (j off : Nat) : Nat :=
  match KV.get 0 s.mem.remap (65536 * j + off / pageBig) with
  | 0 => off / 128
  | n + 1 => ((spareBase + n) * pageBig + off % pageBig) / 128

/-- STR_MEM_ERR_LAST for a block and a kind (Table 8.9). -/
def memErrWord (s : State) (j off kind : Nat) : W32 :=
  let (ch, bank, row, _) := placeBlock (physBlock s j off) s.str.hashKey
  BitVec.ofNat 32 (j + 8 * ch + 256 * bank + 8192 * row + 536870912 * kind + 2147483648)

/-- MEM(j, ch, bank) for a block (Table 14.3). -/
def triggerMem (j off : Nat) (s : State) : State :=
  let (ch, bank, _, _) := placeBlock (physBlock s j off) s.str.hashKey
  s.trigger 3 (unitBank j ch bank)

/-! ### Retirement -/

/-- Retire the page of a block (R271), or report an empty pool (R272); the eighth report of a stack within 24 hours
retires the device (Table 14.7). -/
def retirePage (j off : Nat) (s : State) : State :=
  let page := off / pageBig
  if s.mem.retiring.any (fun r => r.stack == j && r.page == page) then s
  else if sparesLeft s j = 0 then
    let s := (s.log Code.strSpareEmpty originHw 0xFF 0 0).note (evKey 17 j)
    if 8 ≤ s.mp.recent (evKey 17 j) s.now day then s.retire else s
  else
    let n := KV.get 0 s.mem.spares j
    let s := { s with
      mem := { s.mem with
        spares := KV.set 0 s.mem.spares j (n + 1)
        retiring := s.mem.retiring ++ [⟨j, page, n, false, []⟩] } }
    (triggerMem j off s).settleHealth

/-- RETIREMENT_COPY_DONE (R271 step 3): blocks that read as uncorrectable are marked in the spare, which no read reaches
before the switch. -/
def retireCopied (j : Nat) (s : State) : State :=
  match s.mem.retiring.find? (fun r => r.stack == j && !r.copied) with
  | none => s
  | some r =>
    let a := stackKey j (r.page * pageBig)
    let bad := (s.mem.err.filter (fun e => decide (a / 32 ≤ e.1) && decide (e.1 < (a + pageBig) / 32) && e.2 == 2)).map
      (fun e => e.1 / 4)
    { s with mem := { s.mem with
      retiring := s.mem.retiring.map fun q =>
        if q = r then { q with copied := true, marks := bad.foldl NSet.add [] } else q } }

/-- The switch of the remap table in the opening band (R271 step 4): from then on the spare's marks count, and neither its
stored bits nor its history of correctable errors is that of the old page. The MP records the change of the table (R470). -/
def switchRemap (s : State) : State :=
  let done := s.mem.retiring.filter (·.copied)
  let s := { s with mem := { s.mem with retiring := s.mem.retiring.filter (fun r => !r.copied) } }
  forEach done (fun r s =>
    let a := stackKey r.stack (r.page * pageBig)
    s.changeTo
      { s with mem := { s.mem with
        remap := KV.set 0 s.mem.remap (65536 * r.stack + r.page) (r.spare + 1)
        err := KV.eraseRange s.mem.err (a / 32) ((a + pageBig) / 32)
        marked := r.marks.foldl NSet.add (NSet.delRange s.mem.marked (a / 128) ((a + pageBig) / 128))
        ceBlocks := s.mem.ceBlocks.filter fun e => e.1 / 16384 != a / pageBig } } originMp 0 4 r.stack) s

/-! ### The bank cap -/

/-- Bank number over all stacks of the block at a stack offset (R263). -/
def bankOf (s : State) (j off : Nat) : Nat :=
  let (ch, bank, _, _) := placeBlock (physBlock s j off) s.str.hashKey
  1024 * j + 32 * ch + bank

/-- Stack blocks with a request outstanding, by stack and offset: reads that rows wait for, and writes (R243). -/
def requestsOut (s : State) : List (Nat × Nat) :=
  (s.tasks.flatMap fun t => t.rows.flatMap fun w => w.wait.filterMap fun b => match b with
    | .dev j o => some (j, o)
    | .host _ => none) ++ s.mem.writes.map fun w => (w.stack, w.block)

/-- Requests for more blocks arrive: each that finds 16 of its bank waits in the arrival queue, counted once (R264). -/
def askBanks (bs : List (Nat × Nat)) (s : State) : State :=
  let out := (requestsOut s).map fun b => bankOf s b.1 b.2
  let late := ((bs.map fun b => bankOf s b.1 b.2).foldl (fun (p : List Nat × List Nat) k =>
    (k :: p.1, if (p.1.filter (· == k)).length < 16 then p.2 else k :: p.2)) (out, [])).2
  forEach late (fun k s =>
    { s with
      str := { s.str with capWaits := sat32 s.str.capWaits 1 }
      mem := { s.mem with caps := KV.upd 0 s.mem.caps k (· + 1) } }) s

/-- The MP's profile record of a Stroke in which requests waited on the cap: the bank with the most waits, the lowest of
several (R268, log entry 91). -/
def profileStroke (s : State) : State :=
  let top := s.mem.caps.foldl (fun (b : Nat × Nat) e => if b.2 < e.2 then e else b) (0, 0)
  if s.mem.caps.isEmpty then s
  else
    { s with mem := { s.mem with caps := [] } }.modMp fun p =>
      { p with profiles := ⟨s.stroke.mark, top.1 / 1024, top.1 / 32 % 32, top.1 % 32, top.2⟩ :: p.profiles }

/-! ### Reads -/

/-- Codewords of the block at `off` with a stored error of a kind. -/
def storedErr (s : State) (j off kind : Nat) : List Nat :=
  [0, 1, 2, 3].filter fun q => KV.get 0 s.mem.err (stackKey j off / 32 + q) == kind

/-- Outcome of one read of the block at `off` (R269): `o` is what codeword `q` read as, `stored` says that its stored
bits are wrong. The granules (0 or 1) delivered poisoned, and the state that has counted and recorded it. -/
def readOutcome (j off q : Nat) (o : EccOutcome) (stored : Bool) (s : State) : List Nat × State :=
  let cw := stackKey j off / 32 + q
  let s :=
    if stored then
      let v := match o with
        | .clean => KV.get 0 s.mem.err cw
        | .correctable => max 1 (KV.get 0 s.mem.err cw)
        | .uncorrectable => 2
      { s with mem := { s.mem with err := KV.set 0 s.mem.err cw v } }
    else s
  if isMarked s j off then
    ([0, 1], { s with str := { s.str with errLast := memErrWord s j off 2 } })
  else
    let ue := storedErr s j off 2 ++ (if o = .uncorrectable then [q] else [])
    let ce := storedErr s j off 1 ++ (if o = .correctable then [q] else [])
    if ue.isEmpty then
      if ce.isEmpty then ([], s)
      else
        let s := { s with str := { s.str with memCe := sat32 s.str.memCe 1, errLast := memErrWord s j off 0 } }
        let blk := stackKey j off / 128
        let old := s.mem.ceBlocks.filter (fun (e : Nat × Nat) => decide (s.now ≤ e.2 + day) && e.1 != blk)
        let s := { s with mem := { s.mem with ceBlocks := (blk, s.now) :: old } }
        let page := stackKey j off / pageBig
        let n : Nat := (s.mem.ceBlocks.filter (fun (e : Nat × Nat) => e.1 / 16384 == page)).length
        ([], if 4 ≤ n then retirePage j off s else s)
    else
      let s := { s with str := { s.str with memUe := sat32 s.str.memUe 1, errLast := memErrWord s j off 1 } }
      let s := triggerMem j off (s.log Code.strMemUe originHw 0xFF 0 0)
      ((ue.map (· / 2)).eraseDups, retirePage j off s)

/-- Stack blocks that `[va, va + n)` meets and that hold a stored error or a mark. -/
def badBlocks (s : State) (x : Ctx) (va n : Nat) : List (Nat × Nat) :=
  if n = 0 ∨ (s.mem.err.isEmpty && s.mem.marked.isEmpty) = true then []
  else ((List.range ((va + n - 1) / 64 + 1 - va / 64)).filterMap fun i =>
    match x.xlat ((va / 64 + i) * 64) with
    | some (.dev j o, _) =>
      let b := o - o % 128
      if isMarked s j b || [0, 1, 2, 3].any (fun q => KV.get 0 s.mem.err (stackKey j b / 32 + q) != 0) then some (j, b) else none
    | _ => none).eraseDups

/-- The controllers read the blocks of `[va, va + n)`: each has an outcome of R269. -/
def readBlocks (x : Ctx) (va n : Nat) (s : State) : State :=
  forEach (badBlocks s x va n) (fun b s => (readOutcome b.1 b.2 0 .clean false s).2) s

end Sys2Proof.Machine
end

