-- ==== Sys2Proof/Machine/PressRules.lean ====
section
/-!
DEFINITION. The arithmetic of the Press: aggregates (R292), the five rules (R298 to R303), inverse fourth roots (R304,
R305), and masks (R145, R306).
-/

namespace Sys2Proof.Machine

/-- A matrix as a list of rows. -/
abbrev Mat := List (List W32)

def transp (n : Nat) (a : Mat) : Mat := (List.range n).map fun j => a.map fun r => r.getD j 0
def rowsOf (n : Nat) (l : List W32) : Nat → Mat
  | 0 => []
  | k + 1 => l.take n :: rowsOf n (l.drop n) k

/-! ### Aggregates (R292) -/

/-- An ordered sum. -/
def osum (l : List W32) : W32 := l.foldl f32add 0#32
/-- A dot product. -/
def dot (x y : List W32) : W32 := (List.zip x y).foldl (fun t p => f32fma p.1 p.2 t) 0#32

/-- A norm accumulator: `A × 2^-149` and its tag. -/
structure NAcc where
  a : BitVec 384
  tag : Tag
  deriving DecidableEq, Repr

def NAcc.zero : NAcc := ⟨0, 0⟩
def NAcc.join (x y : NAcc) : NAcc := ⟨x.a + y.a, Tag.join x.tag y.tag⟩

def sqAcc (x : W32) : NAcc :=
  match f32val (f32mul x x) with
  | .fin _ m e => ⟨BitVec.ofInt 384 (fixedOf 149 false m e), 0⟩
  | .inf _ => ⟨0, 1#2⟩
  | .nan => ⟨0, 3#2⟩

/-- An exact square sum. -/
def sqSum (l : List W32) : NAcc := l.foldl (fun a x => a.join (sqAcc x)) .zero

/-- fp32() of an accumulator. -/
def NAcc.f32 (x : NAcc) : W32 :=
  if x.tag = 0#2 then
    let i := x.a.toInt
    f32rne (.fin (decide (i < 0)) i.natAbs (-149))
  else if x.tag = 1#2 then f32rne (.inf false)
  else if x.tag = 2#2 then f32rne (.inf true)
  else f32rne .nan

/-- pow(b, e) by square-and-multiply from bit 31 to bit 0. -/
def f32pow (b : W32) (e : W32) : W32 :=
  (List.range 32).foldl (fun p i =>
    let p := f32mul p p
    if e.getLsbD (31 - i) then f32mul p b else p) f32one

/-- Products of matrices by dot products over ascending index; `n` columns of `b`. -/
def matMul (n : Nat) (a b : Mat) : Mat :=
  let bt := transp n b
  a.map fun r => bt.map fun c => dot r c

def mapMat (f : W32 → W32) (a : Mat) : Mat := a.map fun r => r.map f
def zipMat (f : W32 → W32 → W32) (a b : Mat) : Mat := List.zipWith (fun x y => List.zipWith f x y) a b

/-! ### Panels -/

/-- The data of a panel that a rule works on; `rows` and `cols` are the panel's own shape. -/
structure PData where
  rows : Nat
  cols : Nat
  first : Nat
  colAxis : Bool
  bigR : Nat
  bigC : Nat
  s : W32
  lr : W32
  /-- The coefficient of the clipped gradient. -/
  cg : W32
  w : List W32
  g : List W32
  /-- State arrays in the order of Table 9.5. -/
  st : List (List W32)
  deriving DecidableEq, Repr

def PData.arr (p : PData) (i : Nat) : List W32 := p.st.getD i []
/-- The clipped gradient (R298). -/
def PData.cgrad (p : PData) : List W32 := p.g.map fun g => f32mul g p.cg

/-- The closing steps of every rule (R298). -/
def finishRule (gr : GroupEnt) (p : PData) (us : List W32) : List W32 :=
  let k := f32mul p.lr gr.wd
  List.zipWith (fun w u => f32fma (f32neg p.lr) u (f32fma (f32neg k) w w)) p.w us

/-- Rule 0 (R299). -/
def rule0 (gr : GroupEnt) (p : PData) : PData :=
  let g := p.cgrad
  let m := List.zipWith (fun m g => f32fma gr.beta1 m g) (p.arr 0) g
  let u := if gr.flags / 2 % 2 = 1 then List.zipWith (fun m g => f32fma gr.beta1 m g) m g else m
  { p with w := finishRule gr p u, st := [m] }

/-- Rule 1 (R300). -/
def rule1 (gr : GroupEnt) (p : PData) : PData :=
  let g := p.cgrad
  let om1 := f32sub f32one gr.beta1
  let om2 := f32sub f32one gr.beta2
  let bc1 := f32sub f32one (f32pow gr.beta1 (p.s + 1))
  let bc2 := f32sub f32one (f32pow gr.beta2 (p.s + 1))
  let m := List.zipWith (fun m g => f32fma gr.beta1 m (f32mul om1 g)) (p.arr 0) g
  let v := List.zipWith (fun v g => f32fma gr.beta2 v (f32mul om2 (f32mul g g))) (p.arr 1) g
  let u := List.zipWith (fun m v =>
    f32div (f32div m bc1) (f32add (f32sqrt (f32div v bc2)) gr.eps)) m v
  { p with w := finishRule gr p u, st := [m, v] }

/-- Rule 2 (R301) for the panels of a layer in panel order. -/
def rule2 (gr : GroupEnt) (ps : List PData) : List PData :=
  match ps with
  | [] => []
  | p0 :: _ =>
    let bigR := f32ofNat p0.bigR
    let bigC := f32ofNat p0.bigC
    let om2 := f32sub f32one gr.beta2
    let q := fun (p : PData) => rowsOf p.cols (p.cgrad.map fun g => f32fma g g gr.eps) p.rows
    let rowSums := fun (p : PData) => (q p).map osum
    let colSums := fun (p : PData) => (transp p.cols (q p)).map osum
    let across := fun (ls : List (List W32)) (n : Nat) => (List.range n).map fun i => osum (ls.map fun l => l.getD i 0)
    let place := fun (x : PData) (l : List PData) =>
      l.takeWhile (fun y => decide (y.first < x.first)) ++ x :: l.dropWhile fun y => decide (y.first < x.first)
    let cs := (if p0.colAxis then (ps.foldr place []).flatMap colSums else across (ps.map colSums) p0.bigC).map fun x => f32div x bigR
    let rsOf := fun (p : PData) =>
      (if p0.colAxis then across (ps.map rowSums) p0.bigR else rowSums p).map fun x => f32div x bigC
    let ps := ps.map fun p =>
      let r := List.zipWith (fun r x => f32fma gr.beta2 r (f32mul om2 x)) (p.arr 0) (rsOf p)
      let c := List.zipWith (fun c x => f32fma gr.beta2 c (f32mul om2 x)) (p.arr 1) cs
      { p with st := r :: c :: p.st.drop 2 }
    let rbarOf := fun (p : PData) =>
      f32div (if p0.colAxis then osum (p.arr 0) else osum (ps.map fun p => osum (p.arr 0))) bigR
    let us := ps.map fun p =>
      let rbar := rbarOf p
      let cols := if p0.colAxis then (p.arr 1).drop p.first else p.arr 1
      (List.zip (p.arr 0) (rowsOf p.cols p.cgrad p.rows)).flatMap fun rr =>
        List.zipWith (fun c g => f32div g (f32sqrt (f32div (f32mul rr.1 c) rbar))) cols rr.2
    let rho := f32sqrt (f32div (sqSum us.flatten).f32 (f32ofNat (p0.bigR * p0.bigC)))
    let den := f32max f32one rho
    List.zipWith (fun (p : PData) u =>
      let u := u.map fun x => f32div x den
      if gr.flags / 8 % 2 = 1 then
        let m := List.zipWith (fun m x => f32fma gr.beta1 m (f32mul (f32sub f32one gr.beta1) x)) (p.arr 2) u
        { p with w := finishRule gr p m, st := [p.arr 0, p.arr 1, m] }
      else { p with w := finishRule gr p u, st := [p.arr 0, p.arr 1] }) ps us

/-- The Newton–Schulz iterations on the blocks X_p, each with `n` columns (R302). -/
def newtonSchulz (gr : GroupEnt) (n : Nat) : Nat → List Mat → List Mat
  | 0, xs => xs
  | k + 1, xs =>
    let sp := xs.map fun x => matMul n (transp n x) x
    let s : Mat := (List.range n).map fun a => (List.range n).map fun b =>
      osum (sp.map fun m => (m.getD a []).getD b 0)
    let t := matMul n s s
    let p0 := zipMat (fun t s => f32fma gr.nsC t (f32mul gr.nsB s)) t s
    let p := p0.zipIdx.map fun r => r.1.zipIdx.map fun e => if e.2 = r.2 then f32add e.1 gr.nsA else e.1
    newtonSchulz gr n k (xs.map fun x => matMul n x p)

/-- Rule 3 (R302). -/
def rule3 (gr : GroupEnt) (ps : List PData) : List PData :=
  match ps with
  | [] => []
  | p0 :: _ =>
    let n := min p0.bigR p0.bigC
    let ms := ps.map fun p => List.zipWith (fun m g => f32fma gr.beta1 m g) (p.arr 0) p.cgrad
    let us := if gr.flags / 2 % 2 = 1 then
        List.zipWith (fun (p : PData) m => List.zipWith (fun m g => f32fma gr.beta1 m g) m p.cgrad) ps ms else ms
    let nrm := f32sqrt (sqSum us.flatten).f32
    let outs : List (List W32) :=
      if nrm = 0#32 then us.map fun u => u.map fun _ => 0#32
      else
        let d := f32add nrm gr.eps
        let xs := List.zipWith (fun (p : PData) u =>
          let b := rowsOf p.cols (u.map fun x => f32div x d) p.rows
          if p.colAxis then transp p.cols b else b) ps us
        List.zipWith (fun (p : PData) (x : Mat) =>
          let x := if p.colAxis then transp p.rows x else x
          (mapMat (fun y => f32mul gr.nsScale y) x).flatten) ps (newtonSchulz gr n 5 xs)
    List.zipWith (fun (p : PData) (mu : List W32 × List W32) =>
      { p with w := finishRule gr p mu.2, st := [mu.1] }) ps (List.zip ms outs)

/-- Rule 4 (R303) with the preconditioners `ql` and `qr`. -/
def rule4 (gr : GroupEnt) (ql qr : List W32) (p : PData) : PData :=
  let om1 := f32sub f32one gr.beta1
  let om2 := f32sub f32one gr.beta2
  let g := rowsOf p.cols p.g p.rows
  let m := List.zipWith (fun m g => f32fma gr.beta1 m (f32mul om1 g)) (p.arr 0) p.cgrad
  let upd := fun (st : List W32) (x : Mat) =>
    List.zipWith (fun a b => f32fma gr.beta2 a (f32mul om2 b)) st x.flatten
  let sl := upd (p.arr 1) (matMul p.rows g (transp p.cols g))
  let sr := upd (p.arr 2) (matMul p.cols (transp p.cols g) g)
  let u := matMul p.cols (rowsOf p.rows ql p.rows)
    (matMul p.cols (rowsOf p.cols m p.rows) (rowsOf p.cols qr p.cols))
  { p with w := finishRule gr p u.flatten, st := [m, sl, sr, ql, qr] }

/-! ### Inverse fourth roots (R304, R305) -/

def entry (a : Mat) (i j : Nat) : W32 := (a.getD i []).getD j 0

/-- Dot product of the first `n` entries with the sign of the first factor exchanged, from `t`. -/
def subDot (t : W32) (x y : List W32) (n : Nat) : W32 :=
  (List.zip (x.take n) (y.take n)).foldl (fun t p => f32fma (f32neg p.1) p.2 t) t

/-- One column of the factor: rows `K` so far, `none` when the pivot fails. -/
def cholColumn (a : Mat) (tau : W32) (n : Nat) (j : Nat) (k : Mat) : Option Mat :=
  let t := subDot (entry a j j) (k.getD j []) (k.getD j []) j
  if f32le tau t then
    let d := f32sqrt t
    some (k.zipIdx.map fun r =>
      if r.2 = j then r.1 ++ [d]
      else if j < r.2 ∧ r.2 < n then r.1 ++ [f32div (subDot (entry a r.2 j) r.1 (k.getD j []) j) d]
      else r.1 ++ [0#32])
  else none

/-- cholesky(A, tau): the lower factor. -/
def cholesky (a : Mat) (tau : W32) (n : Nat) : Option Mat :=
  (List.range n).foldl (fun k j => match k with
    | some k => cholColumn a tau n j k
    | none => none) (some (List.replicate n []))

def polarIter (n : Nat) : Nat → Mat → Mat
  | 0, x => x
  | k + 1, x =>
    let y := matMul n x (matMul n (transp n x) x)
    polarIter n k (zipMat (fun y x => f32fma 0xBF000000#32 y (f32mul 0x3FC00000#32 x)) y x)

/-- polar(K). -/
def polar (n iters : Nat) (k : Mat) : Mat :=
  let f := f32sqrt (sqSum k.flatten).f32
  polarIter n iters (mapMat (fun x => f32div x f) k)

/-- Column `j` of the inverse of a lower-triangular matrix, rows 0 to n − 1. -/
def lowinvCol (k : Mat) (n j : Nat) : List W32 :=
  (List.range n).foldl (fun z i =>
    z ++ [if i < j then 0#32
      else if i = j then f32div f32one (entry k j j)
      else
        let t := (List.range (i - j)).foldl (fun t e => f32fma (entry k i (j + e)) (z.getD (j + e) 0) t) 0#32
        f32div (f32neg t) (entry k i i)]) []

def lowinv (k : Mat) (n : Nat) : Mat := transp n ((List.range n).map (lowinvCol k n))

def identMat (n : Nat) : Mat :=
  (List.range n).map fun i => (List.range n).map fun j => if i = j then f32one else 0#32

/-- What a refresh of one side gave: its preconditioner, whether the first attempt failed, whether both did. -/
structure RootRes where
  q : Mat
  retried : Bool
  fallback : Bool
  deriving DecidableEq, Repr

def addDiag (d : W32) (a : Mat) : Mat :=
  a.zipIdx.map fun r => r.1.zipIdx.map fun e => if e.2 = r.2 then f32add e.1 d else e.1

/-- One attempt with the damping `d`. -/
def rootTry (a : Mat) (n iters : Nat) (d : W32) : Option Mat :=
  match cholesky (addDiag d a) (f32mul d 0x3F000000#32) n with
  | none => none
  | some k =>
    let h := matMul n k (transp n (polar n iters k))
    match cholesky h (f32mul (f32sqrt d) 0x3F000000#32) n with
    | none => none
    | some k2 =>
      let q := matMul n (polar n iters k2) (lowinv k2 n)
      if q.flatten.all f32isFinite then some q else none

/-- The diagonal preconditioner (R305). -/
def diagRoot (a : Mat) (n : Nat) (d : W32) : Mat :=
  (List.range n).map fun i => (List.range n).map fun j =>
    if i = j then f32div f32one (f32sqrt (f32sqrt (f32add (entry a i i) d))) else 0#32

/-- invroot4(A, delta). -/
def invroot4 (a : Mat) (n iters : Nat) (delta : W32) : RootRes :=
  let tr := osum ((List.range n).map fun i => entry a i i)
  if f32eq tr 0#32 then ⟨identMat n, false, false⟩
  else
    let d := f32mul delta (f32div tr (f32ofNat n))
    match rootTry a n iters d with
    | some q => ⟨q, false, false⟩
    | none =>
      let d := f32mul d 0x41200000#32
      match rootTry a n iters d with
      | some q => ⟨q, true, false⟩
      | none => ⟨diagRoot a n d, true, true⟩

/-! ### Masks (R145, R306) -/

/-- Rows of a pattern: the six ways to keep two of four columns, in increasing order. -/
def halfRows : List Nat := [3, 5, 6, 9, 10, 12]

/-- The pattern table of R145. -/
def maskTable : List Nat :=
  halfRows.flatMap fun d => halfRows.flatMap fun c => halfRows.flatMap fun b => halfRows.filterMap fun a =>
    if [0, 1, 2, 3].all (fun i => ([a, b, c, d].filter fun r => r.testBit i).length == 2) then
      some (a + 16 * b + 256 * c + 4096 * d)
    else none

/-- Does mask `p` keep row `r`, column `c` of its block? -/
def keeps (p r c : Nat) : Bool := (maskTable.getD p 0).testBit (4 * r + c)

/-- The new mask of a block of 16 values in order 4r + c (R306). -/
def bestMask (ws : List W32) : Nat :=
  (maskTable.zipIdx.foldl (fun (b : Nat × W32) (e : Nat × Nat) =>
    let sc := osum ((List.range 16).filterMap fun i =>
      if e.1.testBit i then some (f32rne (f32val (ws.getD i 0)).abs) else none)
    if f32lt b.2 sc then (e.2, sc) else b) (0, 0xBF800000#32)).1

end Sys2Proof.Machine
end

