-- ==== Sys2Proof/Machine/Watch.lean ====
section
/-!
DEFINITION. The watch unit and the sequence table (10_training_passes, R333 to R342): configuration, the report records of
a committed Stroke, and the trailer of R399.
-/

namespace Sys2Proof.Machine

def State.modWatch (s : State) (c : Nat) (f : Watch → Watch) : State :=
  s.modSlot c fun x => { x with watch := f x.watch }
def State.seqEnt (s : State) (e : Nat) : SeqEnt := KV.get SeqEnt.cleared s.seqTab e
def State.modSeqEnt (s : State) (e : Nat) (f : SeqEnt → SeqEnt) : State :=
  { s with seqTab := KV.upd SeqEnt.cleared s.seqTab e f }

def noStepTag : W32 := 0xFFFFFFFF#32

/-! ### Configuration (R333, R338) -/

/-- The configuration in 32 bytes, when its fields keep Table 10.3. -/
def watchCfgOf (bs : List Byte) : Option WatchCfg :=
  let f := fun (o n : Nat) => leNat ((bs.drop o).take n)
  let w := fun (o : Nat) => BitVec.ofNat 32 (f o 4)
  let c : WatchCfg :=
    { reportVa := f 0 8, reportHalf := f 8 4, seqShare := f 12 1, warmup := f 14 2, alpha := w 16, spikeRatio := w 20
      absMax := w 24 }
  if c.reportVa % 4096 = 0 ∧ c.reportHalf % 16 = 0 ∧ 16 ≤ c.reportHalf ∧ c.reportHalf ≤ 4096 ∧ c.seqShare ≤ 64 ∧
      f 13 1 = 0 ∧ f 28 4 = 0 ∧ f32lt 0#32 c.alpha = true ∧ f32le c.alpha f32one = true ∧
      (c.spikeRatio = 0#32 ∨ (f32lt f32one c.spikeRatio = true ∧ f32isFinite c.spikeRatio = true)) ∧
      (c.absMax = 0#32 ∨ (f32lt 0#32 c.absMax = true ∧ f32isFinite c.absMax = true)) then some c
  else none

/-- Does `[va, va + n)` lie within one writable, non-demand device region of the context? -/
def inFixedRegion (x : Ctx) (va n : Nat) : Bool :=
  x.regions.any fun g => !g.host && g.writable && !g.demand && decide (g.base ≤ va) && decide (va + n ≤ g.base + g.size)

/-- Entries that slot `c` may take: those free and its own (R338). -/
def seqFree (s : State) (c e : Nat) : Bool :=
  let q := s.seqEnt e
  !q.owned || q.ctx == c

/-- The lowest-numbered run of `n` free entries. -/
def seqRun (s : State) (c n : Nat) : Option Nat :=
  (List.range (65 - n)).find? fun b => (List.range n).all fun i => seqFree s c (b + i)

/-- The context gives up its entries (R338); their fields stay until they are assigned again. -/
def releaseSeq (c : Nat) (s : State) : State :=
  let give := fun (e : Nat × SeqEnt) => (e.1, if e.2.owned = true ∧ e.2.ctx = c then { e.2 with owned := false } else e.2)
  { s with seqTab := (s.seqTab.map give).filter (fun e => decide (e.2 ≠ SeqEnt.cleared)) }

/-- The CP accepts a watch configuration, or refuses it (R333, R338). -/
def configWatch (c : Nat) (bs : List Byte) (s : State) : Except Nat State :=
  match watchCfgOf bs with
  | none => .error Code.watchConfig
  | some g =>
    if inFixedRegion (s.slot c) g.reportVa (2 * g.reportHalf) = false then .error Code.watchConfig
    else
      match seqRun s c g.seqShare with
      | none => .error Code.watchConfig
      | some b =>
        let s := releaseSeq c s
        let s := forEach (List.range g.seqShare) (fun i s =>
          s.modSeqEnt (b + i) fun _ => { SeqEnt.cleared with owned := true, ctx := c }) s
        .ok (s.modWatch c fun w => { w with cfg := some g, seqBase := b })

/-! ### Report records (R334 to R339) -/

/-- A report record (Table 10.4). -/
structure Report where
  kind : Nat
  slot : Nat
  block : Nat
  arg : W32
  resv : Nat
  deriving DecidableEq, Repr

def reportOf (bs : List Byte) : Report :=
  let f := fun (o n : Nat) => leNat ((bs.drop o).take n)
  ⟨f 0 1, f 1 1, f 2 2, BitVec.ofNat 32 (f 4 4), f 8 8⟩

/-- The fields that R339 checks without the sequence table. -/
def Report.fieldsOk (r : Report) (share : Nat) : Bool :=
  let own := decide (r.slot < share)
  r.resv == 0 &&
  match r.kind with
  | 0 => r.slot == 0 && r.block == 0 && r.arg == 0
  | 1 => r.slot == 0 && r.block == 0 && r.arg != noStepTag
  | 2 => own && r.block == 0
  | 3 => own && bitsOf r.block 14 12 == 0 && r.arg == 0
  | 4 => (own || r.slot == 255) && r.block == 0
  | 5 => own && r.block == 0 && r.arg == 0
  | _ => false

/-- Add to the count of the slot tagged with the current step (R335, R337). -/
def Watch.addNf (w : Watch) (n : Nat) : Watch :=
  match w.current with
  | none => w
  | some q =>
    if w.tag0 = q ∧ q.toNat % 2 = 0 then { w with nf0 := sat32 w.nf0 n }
    else if w.tag1 = q ∧ q.toNat % 2 = 1 then { w with nf1 := sat32 w.nf1 n }
    else w

/-- A STEP record (R337). -/
def Watch.step (w : Watch) (q : W32) : Watch :=
  let w := if q.toNat % 2 = 0 then (if w.tag0 = q then w else { w with tag0 := q, nf0 := 0 })
    else (if w.tag1 = q then w else { w with tag1 := q, nf1 := 0 })
  { w with current := some q }

/-- A LOSS record (R336); `k` is the sequence slot, 0xFF for none. -/
def lossRecord (c : Nat) (g : WatchCfg) (k : Nat) (v : W32) (s : State) : State :=
  let w := (s.slot c).watch
  let e := w.seqBase + k
  let has := decide (k ≠ 255)
  if f32isFinite v = false then
    let s := s.modWatch c fun w => w.addNf 1
    if has then s.modSeqEnt e fun q => { q with nonfinite := true } else s
  else
    let ratio := g.spikeRatio != 0#32 && decide (g.warmup ≤ w.losses.toNat) && decide (0 < w.losses.toNat) &&
      f32lt (f32mul w.ema g.spikeRatio) v
    let above := g.absMax != 0#32 && f32lt g.absMax v
    let ema := if w.losses = 0#32 then v else f32fma g.alpha (f32sub v w.ema) w.ema
    let s := s.modWatch c fun w => { w with ema := ema, losses := sat32 w.losses 1 }
    let s := if has then s.modSeqEnt e fun q => { q with loss := v } else s
    if ratio || above then
      let s := s.modWatch c fun w => { w with spikes := sat32 w.spikes 1 }
      let s := if has then s.modSeqEnt e fun q => { q with spike := true } else s
      (s.log Code.lossSpike originHw c v (BitVec.ofNat 48 (w.ema.toNat + 4294967296 * k))).postCtx c Code.lossSpike 0
    else s

/-- Process one record; the flag says that it counts as malformed (R336 to R339). -/
def oneReport (c : Nat) (g : WatchCfg) (r : Report) (s : State) : Bool × State :=
  let w := (s.slot c).watch
  let e := w.seqBase + r.slot
  let opened := (s.seqEnt e).open_
  if r.fieldsOk g.seqShare = false then (true, s)
  else
    match r.kind with
    | 1 => (false, s.modWatch c fun w => w.step r.arg)
    | 2 =>
      if opened then (true, s)
      else (false, s.modSeqEnt e fun q =>
        { q with
          id := r.arg, open_ := true, opened := w.current.getD noStepTag, backward := false, block := 0
          nonfinite := false, spike := false, loss := 0 })
    | 3 =>
      if opened then (false, s.modSeqEnt e fun q =>
        { q with block := bitsOf r.block 11 0, backward := r.block.testBit 15 }) else (true, s)
    | 4 =>
      let closed := decide (r.slot ≠ 255) && !opened
      (closed, lossRecord c g (if closed then 255 else r.slot) r.arg s)
    | 5 => if opened then (false, s.modSeqEnt e fun q => { q with open_ := false }) else (true, s)
    | _ => (false, s)

/-- Process records from offset `off` on, `n` at most, up to the first END; the offset of the first malformed one. -/
def reports (c : Nat) (g : WatchCfg) (va : Nat) : Nat → Nat → Option Nat → State → Option Nat × State
  | 0, _, bad, s => (bad, s)
  | n + 1, off, bad, s =>
    let r := reportOf (s.rdVa (s.slot c) (va + off) 16)
    let (m, s) := oneReport c g r s
    let bad := if m && bad.isNone then some off else bad
    if r.kind = 0 then (bad, s) else reports c g va n (off + 16) bad s

/-- The watch unit's work in the opening band that commits a Stroke of the given phase (R335). -/
def watchCommit (c phase : Nat) (s : State) : State :=
  let s := match (s.slot c).watch.cfg with
    | none => s
    | some g =>
      let (bad, s) := reports c g (g.reportVa + phase * g.reportHalf) (g.reportHalf / 16) 0 none s
      match bad with
      | some off => s.log Code.watchRecord originHw c (BitVec.ofNat 32 off) 0
      | none => s
  let n := (s.slot c).nfPending
  let s := s.modWatch c fun w =>
    if w.current.isSome then w.addNf n else { w with noStep := w.noStep || decide (0 < n) }
  s.modSlot c fun x => { x with nfPending := 0 }

/-- Non-finite count of step `q`; `none` when no slot carries the tag (R337). -/
def Watch.nfFor (w : Watch) (q : W32) : Option W32 :=
  if w.tag0 = q then some w.nf0 else if w.tag1 = q then some w.nf1 else none

/-- The watch trailer (Table 12.3). -/
def Watch.trailer (w : Watch) (resume : Nat) : List Byte :=
  leBytes 4 0x52544157 ++ leBytes 6 resume ++ leBytes 2 0 ++ leBytes 4 w.ema.toNat ++ leBytes 4 w.losses.toNat ++
    leBytes 4 w.spikes.toNat ++ leBytes 4 w.tag0.toNat ++ leBytes 4 w.nf0.toNat ++ leBytes 4 w.tag1.toNat ++
    leBytes 4 w.nf1.toNat ++ List.replicate 24 0

/-- Restore the unit from a trailer; no step is current (R398). -/
def Watch.restore (w : Watch) (t : List Byte) : Watch :=
  let f := fun (o : Nat) => BitVec.ofNat 32 (leNat ((t.drop o).take 4))
  { w with
    ema := f 12, losses := f 16, spikes := f 20, tag0 := f 24, nf0 := f 28, tag1 := f 32, nf1 := f 36
    current := none }

end Sys2Proof.Machine
end

