-- ==== Sys2Proof/Machine/PressData.lean ====
section
/-!
DEFINITION. What a Press reads and writes: slots and their headers (R280 to R282), gradients (R284), published copies
(R306 to R310, R390), Fold records (R316), norm and vote records (R293, R312).
-/

namespace Sys2Proof.Machine

def State.press (s : State) (c : Nat) : Press := (s.slot c).press
def State.modPress (s : State) (c : Nat) (f : Press → Press) : State :=
  s.modSlot c fun x => { x with press := f x.press }
def State.modPrs (s : State) (f : PrsCtr → PrsCtr) : State := { s with prs := f s.prs }

def pad64 (n : Nat) : Nat := (n + 63) / 64 * 64

/-! ### Panels -/

/-- Shape of the panel itself. -/
def PanelDesc.prows (d : PanelDesc) : Nat := if d.colAxis then d.rows else d.count
def PanelDesc.pcols (d : PanelDesc) : Nat := if d.colAxis then d.count else d.cols
def PanelDesc.elems (d : PanelDesc) : Nat := d.prows * d.pcols
/-- First row and column of the panel in its layer. -/
def PanelDesc.row0 (d : PanelDesc) : Nat := if d.colAxis then 0 else d.first
def PanelDesc.col0 (d : PanelDesc) : Nat := if d.colAxis then d.first else 0

/-- Entries of each state array (Table 9.5). -/
def stateArrays (g : GroupEnt) (d : PanelDesc) : List Nat :=
  match g.rule with
  | 1 => [d.elems, d.elems]
  | 2 => [d.prows, d.cols] ++ (if g.flags / 8 % 2 = 1 then [d.elems] else [])
  | 4 => [d.rows * d.cols, d.rows * d.rows, d.cols * d.cols, d.rows * d.rows, d.cols * d.cols]
  | _ => [d.elems]

/-- Offset and entries of each array, from the first state array on (R280). -/
def arrayOffs : Nat → List Nat → List (Nat × Nat)
  | _, [] => []
  | o, n :: ns => (o, n) :: arrayOffs (o + pad64 (4 * n)) ns

def slotArrays (g : GroupEnt) (d : PanelDesc) : List (Nat × Nat) :=
  arrayOffs (64 + pad64 (4 * d.elems)) (stateArrays g d)

/-- Offset of the masks, after the last array. -/
def maskOff (g : GroupEnt) (d : PanelDesc) : Nat :=
  64 + pad64 (4 * d.elems) + ((stateArrays g d).map fun n => pad64 (4 * n)).sum

def maskCount (d : PanelDesc) : Nat := if d.pair then (d.prows / 4) * (d.pcols / 4) else 0

/-- Bytes of a slot. -/
def slotBytes (g : GroupEnt) (d : PanelDesc) : Nat := maskOff g d + maskCount d

def GroupEnt.zero : GroupEnt := ⟨0, 0, 0, 0, 0, 0, 0, 0, 0, 0, 0, 0, 0, 0, 0, 0⟩
def PanelDesc.zero : PanelDesc := ⟨0, 0, 0, 0, 0, false, false, false, 0, 0, 0, 0, 0, 0, 0, 0, 0, 0, 0, 0⟩
def GenEnt.zero : GenEnt := ⟨0, 0, false, false, 0, 0, 0⟩

def Press.panel (p : Press) (i : Nat) : PanelDesc := p.panels.getD i .zero
def Press.gen (p : Press) (i : Nat) : GenEnt := p.gens.getD i .zero
def Press.groupOf (p : Press) (i : Nat) : GroupEnt := p.groups.getD (p.panel i).group .zero
def Press.setGen (p : Press) (i : Nat) (e : GenEnt) : Press := { p with gens := p.gens.set i e }

/-- Panel indices of a Press, in section order. -/
def Press.onPress (p : Press) (j : Nat) : List Nat :=
  (List.range p.panels.length).filter fun i => (p.panel i).press == j

/-- Address of the slot that a generation selects (R280). -/
def PanelDesc.slotVa (d : PanelDesc) (gen : Nat) : Nat := if d.frozen ∨ gen % 2 = 0 then d.slot0 else d.slot1

/-- A slot header (R280). -/
def slotHeader (d : PanelDesc) (gen step : Nat) : List Byte :=
  leBytes 2 d.layerId ++ leBytes 1 d.panel ++ leBytes 1 0 ++ leBytes 4 gen ++ leBytes 4 step ++ List.replicate 52 0

def genWord (e : GenEnt) : List Byte :=
  leBytes 2 e.layerId ++ leBytes 1 e.panel ++ leBytes 1 (e.diagL.toNat + 2 * e.diagR.toNat) ++ leBytes 4 e.gen.toNat ++
    leBytes 4 e.step.toNat ++ leBytes 4 e.pubGen.toNat

def genOf (bs : List Byte) : GenEnt :=
  let f := fun (o n : Nat) => leNat ((bs.drop o).take n)
  ⟨f 0 2, f 2 1, (f 3 1).testBit 0, (f 3 1).testBit 1, BitVec.ofNat 32 (f 4 4), BitVec.ofNat 32 (f 8 4),
    BitVec.ofNat 32 (f 12 4)⟩

/-! ### Reading memory -/

def wordsOf (bs : List Byte) : Nat → List W32
  | 0 => []
  | n + 1 => BitVec.ofNat 32 (leNat (bs.take 4)) :: wordsOf (bs.drop 4) n

def bytesOf32 (ws : List W32) : List Byte := ws.flatMap fun w => leBytes 4 w.toNat

/-- Bytes that the GHL or the Hamper reads (R269); those of a poisoned granule are open (log entry 32). -/
def ghlRead (s : State) (x : Ctx) (va n : Nat) : List Byte × State :=
  let s' := readBlocks x va n s
  match poisonedGran s x va n with
  | [] => (s.rdVa x va n, s')
  | gs =>
    ((List.range n).map fun i =>
      match gs.findIdx? (· == (va + i) / 64 * 64) with
      | some j =>
        BitVec.ofNat 8 ((Config.freeValue (s.freeCtr + 8 * j + (va + i) % 64 / 8)).toNat / 256 ^ ((va + i) % 8))
      | none => s.rdVaByte x (va + i),
    { s' with freeCtr := s'.freeCtr + 8 * gs.length })

/-- Poisoned blocks of 128 bytes that ranges of addresses meet (R311). -/
def poisonedBlocks (s : State) (x : Ctx) (rs : List (Nat × Nat)) : Nat :=
  ((rs.flatMap fun r => poisonedGran s x r.1 r.2).map (· / 128)).eraseDups.length

/-- Header of the slot at `va` agrees with the descriptor and the entry (R282). -/
def headerOk (s : State) (x : Ctx) (d : PanelDesc) (va gen : Nat) : Bool :=
  s.vaNum x va 2 == d.layerId && s.vaNum x (va + 2) 1 == d.panel && s.vaNum x (va + 4) 4 == gen

/-- Address ranges of the current slot of panel `i` that a job reads: all of it, or, for PUBLISH, the header, the master
values and the masks (R307). -/
def slotRanges (s : State) (c i : Nat) (whole : Bool) : List (Nat × Nat) :=
  let x := s.slot c
  let d := x.press.panel i
  let g := x.press.groupOf i
  let va := d.slotVa (x.press.gen i).gen.toNat
  if whole then [(va, slotBytes g d)] else [(va, 64 + 4 * d.elems), (va + maskOff g d, maskCount d)]

/-- Does the header of the current slot of panel `i` disagree with its entry (R282)? -/
def slotMismatch (s : State) (c i : Nat) : Bool :=
  let x := s.slot c
  let d := x.press.panel i
  let e := x.press.gen i
  !headerOk s x d (d.slotVa e.gen.toNat) e.gen.toNat

/-- Why a Press refuses what a job reads of the current slot of panel `i`: the code and the candidate failures it counts
(R282, R311). -/
def slotRefusal (s : State) (c i : Nat) (whole : Bool) : Option (Nat × Nat) :=
  if slotMismatch s c i then some (Code.prsGenMismatch, 1)
  else
    match poisonedBlocks s (s.slot c) (slotRanges s c i whole) with
    | 0 => none
    | n => some (Code.prsPoison, n)

/-- The controller's outcomes of reading the current slot of panel `i` (R269). -/
def readSlot (c i : Nat) (whole : Bool) (s : State) : State :=
  forEach (slotRanges s c i whole) (fun r s => readBlocks (s.slot c) r.1 r.2 s) s

/-- Masks from their bytes; `none` for a bad mask byte (R146). -/
def masksOf (bs : List Byte) : Option (List Nat) :=
  let ms := bs.map BitVec.toNat
  if ms.all (fun m => decide (m < 90)) then some ms else none

/-- Masks of the slot at `va`; `none` for a bad mask byte (R146). -/
def readMasks (s : State) (x : Ctx) (g : GroupEnt) (d : PanelDesc) (va : Nat) : Option (List Nat) :=
  masksOf (s.rdVa x (va + maskOff g d) (maskCount d))

/-- Does the mask keep element (i, j) of the panel? -/
def maskKeeps (d : PanelDesc) (ms : List Nat) (i j : Nat) : Bool :=
  !d.pair || keeps (ms.getD ((i / 4) * (d.pcols / 4) + j / 4) 0) (i % 4) (j % 4)

/-- The gradient of a panel; elements that the mask excludes are +0 (R284). -/
def readGrad (s : State) (x : Ctx) (d : PanelDesc) (ms : List Nat) : List W32 :=
  (wordsOf (s.rdVa x d.grad (4 * d.elems)) d.elems).zipIdx.map fun e =>
    if maskKeeps d ms (e.2 / d.pcols) (e.2 % d.pcols) then e.1 else 0#32

/-- Master values of the slot at `va`. -/
def readMaster (s : State) (x : Ctx) (d : PanelDesc) (va : Nat) : List W32 :=
  wordsOf (s.rdVa x (va + 64) (4 * d.elems)) d.elems

/-- State arrays of the slot at `va`. -/
def readState (s : State) (x : Ctx) (g : GroupEnt) (d : PanelDesc) (va : Nat) : List (List W32) :=
  (slotArrays g d).map fun a => wordsOf (s.rdVa x (va + a.1) (4 * a.2)) a.2

/-! ### Norm and vote records -/

def NormRec.none : NormRec := ⟨0, 0, 0, 0xFFFFFFFF, 0, false, 0⟩

/-- Two norm records combine field by field (Table 9.10). -/
def NormRec.join (a b : NormRec) : NormRec :=
  { acc := a.acc + b.acc, tag := Tag.join a.tag b.tag, nonfinite := sat32 a.nonfinite b.nonfinite.toNat
    stepMin := if b.stepMin.ult a.stepMin then b.stepMin else a.stepMin
    stepMax := if a.stepMax.ult b.stepMax then b.stepMax else a.stepMax
    poison := a.poison || b.poison, contributors := (a.contributors + b.contributors) % 65536 }

def NormRec.bytes (r : NormRec) : List Byte :=
  leBytes 48 r.acc.toNat ++ leBytes 4 r.nonfinite.toNat ++ leBytes 4 r.stepMin.toNat ++ leBytes 4 r.stepMax.toNat ++
    leBytes 1 r.tag.toNat ++ leBytes 1 r.poison.toNat ++ leBytes 2 r.contributors

def NormRec.of (bs : List Byte) : NormRec :=
  let f := fun (o n : Nat) => leNat ((bs.drop o).take n)
  ⟨BitVec.ofNat 384 (f 0 48), BitVec.ofNat 2 (f 60 1), BitVec.ofNat 32 (f 48 4), BitVec.ofNat 32 (f 52 4),
    BitVec.ofNat 32 (f 56 4), (f 61 1).testBit 0, f 62 2⟩

/-- Two vote records combine (R312). -/
def VoteRec.join (a b : VoteRec) : VoteRec :=
  { s := a.s, fails := if a.s = b.s then min 65535 (a.fails + b.fails) else 65535
    contributors := (a.contributors + b.contributors) % 65536 }

def VoteRec.bytes (r : VoteRec) : List Byte := leBytes 4 r.s.toNat ++ leBytes 2 r.fails ++ leBytes 2 r.contributors
def VoteRec.of (bs : List Byte) : VoteRec :=
  ⟨BitVec.ofNat 32 (leNat (bs.take 4)), leNat ((bs.drop 4).take 2), leNat ((bs.drop 6).take 2)⟩

/-! ### Published copies (R307 to R310) -/

/-- Tumble value of element (i, j) of a layer (R308). -/
def pubTumble (seed : W64) (d : PanelDesc) (step : W32) (i j : Nat) : W32 :=
  tumble seed step (BitVec.ofNat 16 d.layerId) (BitVec.ofNat 32 (i * d.cols + j))

/-- Elements of the panel, in natural order: row and column in the layer, and the master value. -/
def panelElems (d : PanelDesc) (w : List W32) : List (Nat × Nat × W32) :=
  w.zipIdx.map fun e => (d.row0 + e.2 / d.pcols, d.col0 + e.2 % d.pcols, e.1)

/-- A stored element of a copy: its index, its position in the reduction block, and the natural element. -/
structure CopyEl where
  idx : Nat
  /-- Index of its scale byte (FP4). -/
  scale : Nat
  row : Nat
  col : Nat
  val : W32
  deriving DecidableEq, Repr

/-- Kept positions of a group of four, in ascending order. -/
def keptOf (k : Nat → Bool) : List Nat := [0, 1, 2, 3].filter k

/-- The elements of the natural copy (`tr` false) or of the transposed copy (`tr` true) that the panel covers, with the
scale index of Table 9.12. `ms` are the panel's masks. -/
def copyEls (d : PanelDesc) (ms : List Nat) (w : List W32) (tr : Bool) : List CopyEl :=
  let cols := if tr then d.rows else d.cols
  (panelElems d w).filterMap fun e =>
    let a := if tr then e.2.1 else e.1
    let b := if tr then e.1 else e.2.1
    if d.pair then
      let mk := fun (q : Nat) =>
        let i := (if tr then 4 * (b / 4) + q else a) - d.row0
        let j := (if tr then a else 4 * (b / 4) + q) - d.col0
        maskKeeps d ms i j
      let kept := keptOf mk
      match kept.findIdx? (· == b % 4) with
      | some n => some ⟨a * cols / 2 + 2 * (b / 4) + n, a * ((cols + 31) / 32) + b / 32, e.1, e.2.1, e.2.2⟩
      | none => none
    else some ⟨a * cols + b, (a / 32) * cols + b, e.1, e.2.1, e.2.2⟩

/-- Bytes from codes by element index, for a width of 4, 8 or 16 bits. -/
def codeBytes (width : Nat) (els : List (Nat × Nat)) : List (Nat × List Byte) :=
  if width = 4 then
    let kv : KV Nat := els.foldl (fun m e => KV.insert m e.1 e.2) []
    ((els.map fun e => e.1 / 2).eraseDups).map fun b =>
      (b, leBytes 1 (KV.get 0 kv (2 * b) + 16 * KV.get 0 kv (2 * b + 1)))
  else els.map fun e => (e.1 * (width / 8), leBytes (width / 8) e.2)

/-- Codes of the copy's elements, and its FP4 scales by scale index (R118, R308). -/
def copyCodes (d : PanelDesc) (md : Nat → Nat → RMode) (els : List CopyEl) : List (Nat × Nat) × List (Nat × Nat) :=
  let f := fmtOf d.wFmt
  if f = .fp4 then
    let ids := (els.map (·.scale)).eraseDups
    let scs := ids.map fun b => (b, fp4Scale ((els.filter fun e => e.scale == b).map fun e => f32val e.val))
    (els.map fun e =>
      let sc := (scs.find? fun p => p.1 == e.scale).map (·.2)
      (e.idx, fp4Elem (sc.getD (0, none)).2 (md e.row e.col) (f32val e.val)),
     scs.map fun p => (p.1, p.2.1))
  else
    match f.ffmt with
    | some g => (els.map fun e => (e.idx, g.encode (md e.row e.col) (f32val e.val)), [])
    | none => ([], [])

/-- Pair nibbles of the panel's groups in a copy (Table 9.12). -/
def pairNibbles (d : PanelDesc) (ms : List Nat) (tr : Bool) : List (Nat × Nat) :=
  let rows := if tr then d.pcols else d.prows
  let groups := (if tr then d.prows else d.pcols) / 4
  let cols := if tr then d.rows else d.cols
  (List.range rows).flatMap fun a => (List.range groups).map fun g =>
    let kept := keptOf fun q => if tr then maskKeeps d ms (4 * g + q) a else maskKeeps d ms a (4 * g + q)
    let la := a + (if tr then d.col0 else d.row0)
    let lg := g + (if tr then d.row0 else d.col0) / 4
    (la * (cols / 4) + lg, kept.getD 0 0 + 4 * kept.getD 1 0)

/-- Master values that the mask excludes and that are not zero (R309). -/
def maskExcess (d : PanelDesc) (ms : List Nat) (w : List W32) : Nat :=
  ((panelElems d w).filter fun e =>
    !maskKeeps d ms (e.1 - d.row0) (e.2.1 - d.col0) && !(f32val e.2.2).isZero).length

/-- Write one copy and its aux data. -/
def publishCopy (c : Nat) (d : PanelDesc) (md : Nat → Nat → RMode) (ms : List Nat) (w : List W32) (tr : Bool) (s : State) :
    State :=
  let x := s.slot c
  let base := if tr then d.tr else d.nat_
  let aux := if tr then d.trAux else d.natAux
  let (codes, scales) := copyCodes d md (copyEls d ms w tr)
  let s := forEach (codeBytes (fmtOf d.wFmt).width codes) (fun e s => s.wrVa x (base + e.1) e.2) s
  let s := if d.pair then
      forEach (codeBytes 4 (pairNibbles d ms tr)) (fun e s => s.wrVa x (aux + e.1) e.2) s else s
  let so := if d.pair then pad64 (d.rows * d.cols / 8) else 0
  forEach scales (fun e s => s.wrVa x (aux + so + e.1) (leBytes 1 e.2)) s

/-- The publication stamp (Table 12.1). -/
def pubStamp (d : PanelDesc) (e : GenEnt) (owner : Nat) (epoch : W32) : List Byte :=
  leBytes 2 d.layerId ++ leBytes 2 0 ++ leBytes 4 e.pubGen.toNat ++ leBytes 4 e.step.toNat ++ leBytes 2 owner ++
    leBytes 2 0 ++ leBytes 4 epoch.toNat ++ List.replicate 44 0

/-! ### Folds (R316) -/

/-- Record of one panel. -/
def foldRecord (s : State) (x : Ctx) (i : Nat) : List Byte :=
  let d := x.press.panel i
  let e := x.press.gen i
  let n := slotBytes (x.press.groupOf i) d
  genWord e ++ List.replicate 48 0 ++ s.rdVa x (d.slotVa e.gen.toNat) n ++ List.replicate (pad64 n - n) 0

/-- Bytes of the records of panels. -/
def foldLen (p : Press) (is : List Nat) : Nat := (is.map fun i => 64 + pad64 (slotBytes (p.groupOf i) (p.panel i))).sum

/-- A Fold header (Table 9.14). -/
def foldHeader (press device panels step resume epoch : Nat) (digest : List Byte) : List Byte :=
  leBytes 4 0x444C4F46 ++ leBytes 2 1 ++ leBytes 1 press ++ leBytes 1 0 ++ leBytes 4 device ++ leBytes 4 panels ++
    leBytes 4 step ++ leBytes 6 resume ++ leBytes 2 0 ++ leBytes 4 epoch ++ digest ++ List.replicate 48 0

/-- Write bytes into a Fold buffer at an offset, extending it with zeros. -/
def putFold (b : List Byte) (o : Nat) (d : List Byte) : List Byte :=
  b.take o ++ List.replicate (o - b.length) 0 ++ d ++ b.drop (o + d.length)

/-- The records of a Fold of Press `j` for the panels `is`, when it passes the checks of R319. -/
def parseFold (p : Press) (j : Nat) (is : List Nat) (b : List Byte) : Option (List (List Byte)) :=
  let f := fun (o n : Nat) => leNat ((b.drop o).take n)
  let n := foldLen p is
  let recs := (is.foldl (fun (acc : List (List Byte) × Nat) i =>
    let k := 64 + pad64 (slotBytes (p.groupOf i) (p.panel i))
    (acc.1 ++ [(b.drop acc.2).take k], acc.2 + k)) ([], 128)).1
  if f 0 4 = 0x444C4F46 ∧ f 4 2 = 1 ∧ f 6 1 = j ∧ f 7 1 = 0 ∧ f 26 2 = 0 ∧
      ((b.drop 80).take 48).all (· == 0#8) = true ∧ f 12 4 = is.length ∧ 128 + n ≤ b.length ∧
      (b.drop 32).take 48 = sha384 ((b.drop 128).take n) ∧
      (List.zip is recs).all (fun e => (genOf e.2).layerId == (p.panel e.1).layerId &&
        (genOf e.2).panel == (p.panel e.1).panel) = true then some recs
  else none

/-- Rewrite the table seal of a Press (R455). -/
def sealTable (j : Nat) (step : Option W32) (p : Press) : Press :=
  let old := (KV.get (0xFFFFFFFF#32, 0#32) p.seals j).1
  let crc := crc32c ((p.onPress j).flatMap fun i => genWord (p.gen i))
  { p with seals := KV.insert p.seals j (step.getD old, crc) }

end Sys2Proof.Machine
end

