-- ==== Sys2Proof/Machine/Press.lean ====
section
/-!
DEFINITION. The Press jobs (09_press, R287 to R320): admission, the ten kinds, ring records and completion. A job does its
work at its command; PRESS_JOB_COMPLETE writes its record and frees the Press (log entry 21).
-/

namespace Sys2Proof.Machine

/-- A job at work: its Press, panels, body fields and the index it runs in. -/
structure PJob where
  press : Nat
  kind : Nat
  k : Nat
  panels : List Nat
  seq : W32
  resume : Nat
  area : Nat
  deriving DecidableEq, Repr

/-- What a job leaves for its completion record. -/
structure PRes where
  status : Nat
  flags : Nat
  refused : Nat
  flagged : Nat
  deriving DecidableEq, Repr

def PRes.ok : PRes := ⟨0, 0, 0, 0⟩
def PRes.flag (b : Nat) (r : PRes) : PRes := { r with flags := r.flags ||| b }

/-- The completion record (Table 9.8). -/
def pressRecord (seq : W32) (r : PRes) (done : Nat) : List Byte :=
  leBytes 4 seq.toNat ++ leBytes 2 r.status ++ leBytes 1 r.flags ++ leBytes 1 0 ++ leBytes 2 (min 65535 done) ++
    leBytes 2 (min 65535 r.refused) ++ leBytes 4 (min 0xFFFFFFFF r.flagged)

/-! ### Holds, refusals and decisions -/

/-- A local hold for the next opening band (R282, R297). -/
def pressHold (c code : Nat) (arg : W32) (s : State) : State :=
  s.modPress c fun p => { p with due := p.due ++ [(code, arg)] }

/-- A panel is refused: counted, logged, a candidate failure, a hold with layer_id and panel (R282, R311, R456). -/
def refusePanel (c i code fails : Nat) (r : PRes) (s : State) : PRes × State :=
  let d := (s.press c).panel i
  let arg := BitVec.ofNat 32 (d.layerId + 65536 * d.panel)
  let s := s.modPrs fun k =>
    if code = Code.prsPoison then { k with poison := sat32 k.poison 1 }
    else { k with genMismatch := sat32 k.genMismatch 1 }
  let s := s.modPress c fun p => { p with fails := KV.set 0 p.fails i fails }
  let s := s.log code originHw c arg 0
  ({ r with refused := r.refused + 1, status := if r.status = 0 then code else r.status }, pressHold c code arg s)

/-- The step record that the Press's last DECIDE wrote (R288). -/
def Press.stepRec (p : Press) (j : Nat) : Option StepRec :=
  match KV.get 0 p.curRec j with
  | 0 => none
  | n + 1 => KV.find? p.recs (2 * j + n)

/-- Once per device for an attempt at a step (R297, R313). -/
def once (c key : Nat) (f : State → State) (s : State) : State :=
  if (s.press c).logged.elem key then s
  else f (s.modPress c fun p => { p with logged := key :: p.logged })

/-- What a decision other than PROCEED brings (Table 9.11, R297). -/
def conclude (c dec code : Nat) (seq : W32) (s : State) : State :=
  let hold := fun (code : Nat) (s : State) => pressHold c code seq (s.log code originHw c seq 0)
  match dec with
  | 1 => s
  | 2 => once c 2 (fun s => (s.log code originHw c seq 0).modPrs fun k => { k with skipped := sat32 k.skipped 1 }) s
  | 3 => once c 3 (fun s => hold Code.prsHalt (s.log code originHw c seq 0)) s
  | 4 => once c 4 (fun s => (hold code s).modPrs fun k => { k with skew := sat32 k.skew 1 }) s
  | _ => once c 5 (hold code) s

/-! ### NORM and the ring (R293 to R295) -/

/-- Contribution of one panel, whose masks are `ms` (R294). -/
def normPanel (s : State) (c i : Nat) (ms : List Nat) : NormRec × Nat :=
  let x := s.slot c
  let p := x.press
  let d := p.panel i
  let e := p.gen i
  let bad := poisonedGran s x d.grad (4 * d.elems)
  let g := ((readGrad s x d ms).zipIdx.filter fun y => !bad.elem ((d.grad + 4 * y.2) / 64 * 64)).map Prod.fst
  let nf := (g.filter fun y => !f32isFinite y).length + bad.length
  let a := if (p.groupOf i).flags % 2 = 1 then sqSum g else .zero
  ({ acc := a.a, tag := a.tag, nonfinite := sat32 0 nf, stepMin := e.step, stepMax := e.step
     poison := !bad.isEmpty, contributors := 0 }, nf)

/-- The record of a Press: its panels' contributions, one contributor (R294). -/
def pressNorm (p : Press) (j : Nat) : NormRec :=
  { (((p.onPress j).filterMap fun i => KV.find? p.norms i).foldl NormRec.join .none) with contributors := 1 }

/-- The lead Press forms the device record anew: the records that have reached it and, once it has run NORM itself and a
record names a step, the watch unit's count of that step (R294, R337, log entry 94). -/
def leadNorm (c : Nat) (s : State) : State :=
  let p := s.press c
  let r := (p.devNorms.map Prod.snd).foldl NormRec.join .none
  let put := fun (n : W32) (s : State) =>
    s.modPress c fun p => { p with devNorm := some { r with nonfinite := sat32 r.nonfinite n.toNat } }
  match p.nfAt with
  | none => put 0 s
  | some nfs =>
    if r.stepMin = noStepTag then put 0 s
    else
      match nfs.find? fun e => e.1 == r.stepMin with
      | some e => put e.2 s
      | none => once c 6 (fun s => s.log Code.watchNoStep originMp c 0 0) (put 0xFFFFFFFF#32 s)

/-- The lead Press forms the device vote anew (R312). -/
def leadVote (c : Nat) (s : State) : State :=
  s.modPress c fun p =>
    { p with devVote := match p.devVotes.map Prod.snd with
        | [] => none
        | v :: vs => some (vs.foldl VoteRec.join v) }

/-- A record for the lead Press: at once from M0's own Press, else over the ring. -/
def sendRing (c : Nat) (r : RingRec) (s : State) : State :=
  s.modPress c fun p => { p with ring := p.ring ++ [r] }

/-- A record reaches the lead Press (R294, R312). -/
def landRing (c : Nat) (r : RingRec) (s : State) : State :=
  let s := match r.norm with
    | some n => leadNorm c (s.modPress c fun p => { p with devNorms := KV.insert p.devNorms r.press n })
    | none => s
  match r.vote with
  | some v => leadVote c (s.modPress c fun p => { p with devVotes := KV.insert p.devVotes r.press v })
  | none => s

def putRing (c : Nat) (r : RingRec) (s : State) : State := if r.press = 0 then landRing c r s else sendRing c r s

/-- RING_RECORD (R294, R312): the oldest record of Press `j` arrives. -/
def ringRecord (j c : Nat) (s : State) : State :=
  match (s.press c).ring.find? (fun r => r.press == j) with
  | some r => landRing c r (s.modPress c fun p => { p with ring := p.ring.erase r })
  | none => s

/-- The first NORM of an attempt at a step, in index `i`, begins it: nothing is logged yet and no candidate failure of an
earlier step counts (R297, R311). -/
def beginStep (c i : Nat) (s : State) : State :=
  let p := s.press c
  if p.normAt = none ∨ (p.decidedAt.isSome = true ∧ p.decidedAt ≠ some i) then
    s.modPress c fun p => { p with decidedAt := none, logged := [], fails := [], normAt := some i }
  else s

/-- The lead Press's NORM takes the watch unit's counts, which no record changes before the next opening band (R337). -/
def takeWatch (c : Nat) (s : State) : State :=
  let w := (s.slot c).watch
  s.modPress c fun p =>
    { p with nfAt := some [(w.tag0, w.nf0), (w.tag1, w.nf1)], logged := p.logged.filter (· != 6) }

/-- NORM (R294). A pair panel's masks lie in its slot, whose header is compared first (R282). -/
def jobNorm (c : Nat) (q : PJob) (s : State) : Except Nat (PRes × State) :=
  let s := beginStep c (s.slot c).stk.index.toNat s
  let s := if q.press = 0 then takeWatch c s else s
  let out := q.panels.foldl (fun (acc : Except Nat (PRes × State)) i =>
    match acc with
    | .error e => .error e
    | .ok (r, s) =>
      let x := s.slot c
      let d := x.press.panel i
      if d.pair = true ∧ slotMismatch s c i = true then .ok (refusePanel c i Code.prsGenMismatch 1 r s)
      else
        let (bs, s) := ghlRead s x (d.slotVa (x.press.gen i).gen.toNat + maskOff (x.press.groupOf i) d) (maskCount d)
        match masksOf bs with
        | none => .error Code.formatFault
        | some ms =>
          let (rec_, nf) := normPanel s c i ms
          .ok ({ r with flagged := r.flagged + nf },
            (readBlocks x d.grad (4 * d.elems) s).modPress c fun p => { p with norms := KV.insert p.norms i rec_ }))
    (.ok (PRes.ok, s))
  match out with
  | .error e => .error e
  | .ok (r, s) =>
    let s := s.modPrs fun k => { k with nonfinite := sat32 k.nonfinite r.flagged }
    .ok (r, putRing c ⟨q.press, some (pressNorm (s.press c) q.press), none⟩ s)

/-! ### DECIDE (R296, R297) -/

/-- The record that DECIDE reads: the global one, in a domain of one device the device record; an empty record when none
has come (log entry 22). -/
def globalNorm (s : State) (c : Nat) : NormRec :=
  let p := s.press c
  match p.gNorm with
  | some r => r
  | none => if s.stroke.domainSize = 1#12 then p.devNorm.getD .none else .none

/-- The decision and the code it logs. -/
def decideCode (p : Press) (r : NormRec) : Nat × Nat :=
  if r.contributors ≠ p.pressCount then (5, Code.prsRecord)
  else if r.stepMin ≠ r.stepMax then (4, Code.prsStepSkew)
  else if r.nonfinite ≠ 0 ∨ r.tag ≠ 0 ∨ r.poison = true then (if p.halt then 3 else 2, Code.prsNonfinite)
  else (1, 0)

/-- The clip coefficient. -/
def clipCoef (clipMax g : W32) : W32 :=
  if clipMax = 0 ∨ f32le g clipMax = true then f32one else f32div clipMax g

def jobDecide (c : Nat) (q : PJob) (s : State) : Except Nat (PRes × State) :=
  let p := s.press c
  let r := globalNorm s c
  let (dec, code) := decideCode p r
  let g := f32sqrt (NAcc.f32 ⟨r.acc, r.tag⟩)
  let cc := clipCoef p.clipMax g
  let n := r.stepMin.toNat % 2
  let i := (s.slot c).stk.index.toNat
  let s := s.modPress c fun p =>
    { p with
      recs := KV.insert p.recs (2 * q.press + n) ⟨r.stepMin, dec, g, cc, 0⟩
      curRec := KV.set 0 p.curRec q.press (n + 1)
      votes := KV.erase p.votes q.press, devVotes := KV.erase p.devVotes q.press
      devVote := none, gVote := none
      ring := p.ring.filter fun r => !(r.press == q.press && r.vote.isSome)
      decidedAt := some (p.decidedAt.getD i), lastDec := dec, lastS := r.stepMin, lastG := g, lastC := cc
      r297 := if dec = 1 then false else p.r297 }
  .ok ((if dec = 1 then PRes.ok else PRes.ok.flag 2), conclude c dec code q.seq s)

/-! ### PREP (R304, R305) -/

/-- Is a refresh of the group due at step `s` (R304)? -/
def refreshDue (g : GroupEnt) (step : W32) : Bool := g.rule == 4 && step.toNat % g.kronEvery == 0

/-- Log of one side's refresh (R304, R305). -/
def rootLog (c layer side : Nat) (r : RootRes) (seq : W32) (s : State) : State :=
  let s := if r.retried then
      (s.log Code.prsCholRetry originHw c seq 0).modPrs fun k => { k with cholRetries := sat32 k.cholRetries 1 }
    else s
  if r.fallback then
    (s.log Code.prsCholFallback originHw c (BitVec.ofNat 32 (layer + 65536 * side)) 0).modPrs
      fun k => { k with cholFallbacks := sat32 k.cholFallbacks 1 }
  else s

/-- Refresh the preconditioners of a panel into its staging slot. -/
def refreshPanel (c i : Nat) (seq : W32) (r : PRes) (s : State) : PRes × State :=
  let x := s.slot c
  let p := x.press
  let d := p.panel i
  let e := p.gen i
  let g := p.groupOf i
  let st := readState s x g d (d.slotVa e.gen.toNat)
  let lft := invroot4 (rowsOf d.rows (st.getD 1 []) d.rows) d.rows g.polarIters g.delta
  let rgt := invroot4 (rowsOf d.cols (st.getD 2 []) d.cols) d.cols g.polarIters g.delta
  let va := d.slotVa (e.gen.toNat + 1)
  let offs := slotArrays g d
  let s := s.wrVa x va (slotHeader d (e.gen + 1).toNat (e.step + 1).toNat)
  let s := s.wrVa x (va + (offs.getD 3 (0, 0)).1) (bytesOf32 lft.q.flatten)
  let s := s.wrVa x (va + (offs.getD 4 (0, 0)).1) (bytesOf32 rgt.q.flatten)
  let s := s.modPress c fun p =>
    { p with staged := KV.insert p.staged i (lft.fallback.toNat + 2 * rgt.fallback.toNat) }
  let s := rootLog c d.layerId 1 rgt seq (rootLog c d.layerId 0 lft seq s)
  (if lft.fallback || rgt.fallback then r.flag 8 else r, s)

def jobPrep (c : Nat) (q : PJob) (s : State) : Except Nat (PRes × State) :=
  .ok (q.panels.foldl (fun (acc : PRes × State) i =>
    let t := readSlot c i true acc.2
    match slotRefusal t c i true with
    | some (code, n) => refusePanel c i code n acc.1 t
    | none =>
      let p := t.press c
      if refreshDue (p.groupOf i) (p.gen i).step then refreshPanel c i q.seq acc.1 t else (acc.1, t)) (PRes.ok, s))

/-! ### CAND (R298 to R303, R306, R311) -/

/-- Step size (R286). -/
def stepSize (p : Press) (g : GroupEnt) (step : W32) : W32 :=
  p.steps.getD (g.lrFirst + min step.toNat (g.lrLen - 1)) 0

/-- A panel's data for its rule, from its current slot; `none` for a bad mask byte. -/
def panelData (s : State) (c : Nat) (clip : W32) (i : Nat) : Option (PData × List Nat) :=
  let x := s.slot c
  let p := x.press
  let d := p.panel i
  let e := p.gen i
  let g := p.groupOf i
  let va := d.slotVa e.gen.toNat
  match readMasks s x g d va with
  | none => none
  | some ms => some
      ({ rows := d.prows, cols := d.pcols, first := d.first, colAxis := d.colAxis, bigR := d.rows, bigC := d.cols
         s := e.step, lr := stepSize p g e.step, cg := if g.flags % 2 = 1 then clip else f32one
         w := readMaster s x d va, g := readGrad s x d ms, st := readState s x g d va }, ms)

/-- Panels of a layer in ascending panel index. -/
def layerPanels (p : Press) (layer : Nat) : List Nat :=
  let is := (List.range p.panels.length).filter fun i => (p.panel i).layerId == layer
  (List.range 8).filterMap fun n => is.find? fun i => (p.panel i).panel == n

/-- The candidate of panel `i`: every panel of its layer takes part over the ring (R301, R302). -/
def candData (s : State) (c : Nat) (clip : W32) (i : Nat) : Option (PData × List Nat) :=
  let x := s.slot c
  let p := x.press
  let d := p.panel i
  let g := p.groupOf i
  let is := layerPanels p d.layerId
  let ds := is.map fun k => panelData s c clip k
  match panelData s c clip i with
  | none => none
  | some (me, ms) =>
    let all := ds.filterMap fun o => o.map Prod.fst
    let pick := fun (out : List PData) =>
      (((List.zip is out).find? fun e => e.1 == i).map Prod.snd).getD me
    some (match g.rule with
      | 0 => rule0 g me
      | 1 => rule1 g me
      | 2 => pick (rule2 g all)
      | 3 => pick (rule3 g all)
      | _ =>
        let e := p.gen i
        let va := d.slotVa (e.gen.toNat + 1)
        let fresh := refreshDue g e.step && headerOk s x d va (e.gen + 1).toNat
        let st := if fresh then readState s x g d va else me.st
        rule4 g (st.getD 3 []) (st.getD 4 []) me, ms)

/-- The masks of the candidate (R306). -/
def candMasks (g : GroupEnt) (d : PanelDesc) (step : W32) (w : List W32) (ms : List Nat) : List Nat :=
  if d.pair = true ∧ g.maskEvery ≠ 0 ∧ (step.toNat + 1) % g.maskEvery = 0 then
    (List.range ms.length).map fun b =>
      let bi := b / (d.pcols / 4)
      let bj := b % (d.pcols / 4)
      bestMask ((List.range 16).map fun e => w.getD ((4 * bi + e / 4) * d.pcols + 4 * bj + e % 4) 0)
  else ms

/-- Values beyond the format's largest finite value (R311). -/
def overRange (wFmt : Nat) (w : List W32) : Nat :=
  if wFmt = 1 ∨ wFmt = 7 ∨ wFmt = 8 then
    match (fmtOf wFmt).ffmt with
    | some f =>
      let top := f.decode f.maxCode
      (w.filter fun v => f32isFinite v && FVal.cmp (f32val v).abs top == some .gt).length
    | none => 0
  else 0

/-- Write a candidate into the staging slot; its failures (R311). -/
def candPanel (c i : Nat) (clip : W32) (r : PRes) (s : State) : Option (PRes × State) :=
  let x := s.slot c
  let p := x.press
  let d := p.panel i
  let e := p.gen i
  let g := p.groupOf i
  match candData s c clip i with
  | none => none
  | some (y, ms) =>
    let ms := candMasks g d e.step y.w ms
    let nf := (y.w.filter fun v => !f32isFinite v).length + (y.st.map fun a => (a.filter fun v => !f32isFinite v).length).sum
    let fails := nf + overRange d.wFmt y.w
    let va := d.slotVa (e.gen.toNat + 1)
    let s := s.wrVa x va (slotHeader d (e.gen + 1).toNat (e.step + 1).toNat)
    let s := s.wrVa x (va + 64) (bytesOf32 y.w)
    let s := forEach (List.zip (slotArrays g d) y.st) (fun a s => s.wrVa x (va + a.1.1) (bytesOf32 a.2)) s
    let s := s.wrVa x (va + maskOff g d) (ms.map (BitVec.ofNat 8))
    let s := s.modPress c fun p =>
      { p with
        fails := KV.set 0 p.fails i fails
        staged := if refreshDue g e.step then p.staged else KV.insert p.staged i (e.diagL.toNat + 2 * e.diagR.toNat) }
    let s := s.modPrs fun k => { k with nonfinite := sat32 k.nonfinite nf }
    some ({ r with flagged := r.flagged + fails }, s)

def jobCand (c : Nat) (q : PJob) (sr : StepRec) (s : State) : Except Nat (PRes × State) :=
  if sr.decision ≠ 1 then .ok (PRes.ok.flag 2, s)
  else
    q.panels.foldl (fun (acc : Except Nat (PRes × State)) i =>
      match acc with
      | .error e => .error e
      | .ok (r, s) =>
        let s := readSlot c i true s
        match slotRefusal s c i true with
        | some (code, n) =>
          let (r, s) := refusePanel c i code n r s
          .ok ({ r with flagged := r.flagged + n }, s)
        | none =>
          match candPanel c i sr.c r s with
          | some out => .ok out
          | none => .error Code.formatFault) (.ok (PRes.ok, s))

/-! ### VOTE, COMMIT, GZERO (R312, R313, R315) -/

def jobVote (c : Nat) (q : PJob) (sr : StepRec) (s : State) : Except Nat (PRes × State) :=
  let p := s.press c
  let fails := ((p.onPress q.press).map fun i => KV.get 0 p.fails i).sum
  let v : VoteRec := ⟨sr.s, min 65535 fails, 1⟩
  let s := s.modPress c fun p => { p with votes := KV.insert p.votes q.press v }
  .ok ((if sr.decision = 1 then PRes.ok else PRes.ok.flag 2), putRing c ⟨q.press, none, some v⟩ s)

/-- The global vote of step `s`, when it has been written (R312). -/
def globalVote (s : State) (c : Nat) (q : W32) : Option VoteRec :=
  let p := s.press c
  let v := match p.gVote with
    | some v => some v
    | none => if s.stroke.domainSize = 1#12 then p.devVote else none
  match v with
  | some v => if v.s = q then some v else none
  | none => none

/-- A failed vote (R313), once per device: under PROCEED the step goes by the non-finite policy, under another decision it
has ended already. -/
def voteFail (c : Nat) (q : W32) (go : Bool) (seq : W32) (s : State) : State :=
  once c 7 (fun s =>
    let halt := (s.press c).halt
    let s := (s.log Code.prsVoteFail originHw c seq 0).modPrs fun k => { k with voteFails := sat32 k.voteFails 1 }
    if go = false then s
    else
      let s := s.modPrs fun k => { k with skipped := if halt then k.skipped else sat32 k.skipped 1 }
      let s := s.modPress c fun p =>
        { p with
          recs := p.recs.map fun e => (e.1, if e.2.s = q then { e.2 with after := if halt then 3 else 2 } else e.2) }
      if halt then pressHold c Code.prsHalt seq (s.log Code.prsHalt originHw c seq 0) else s) s

/-- COMMIT of one panel; the number of entries advanced so far. A panel that is committed already sets flag bit 2. -/
def commitPanel (c i : Nat) (sr : StepRec) (go : Bool) (acc : PRes × Nat × State) : PRes × Nat × State :=
  let (r, adv, s) := acc
  let x := s.slot c
  let p := x.press
  let d := p.panel i
  let e := p.gen i
  if d.frozen then acc
  else if e.step = sr.s + 1 ∧ headerOk s x d (d.slotVa e.gen.toNat) e.gen.toNat = true then (r.flag 4, adv, s)
  else if e.step ≠ sr.s then
    let (r, s) := refusePanel c i Code.prsGenMismatch 1 r s
    (r, adv, s)
  else if go then
    let f := KV.get 0 p.staged i
    let e' := { e with gen := e.gen + 1, step := sr.s + 1, diagL := f.testBit 0, diagR := f.testBit 1 }
    (r, adv + 1, s.modPress c fun p => p.setGen i e')
  else acc

/-- COMMIT (R313). -/
def jobCommit (c : Nat) (q : PJob) (sr : StepRec) (v : VoteRec) (s : State) : Except Nat (PRes × State) :=
  let proceed := decide (sr.decision = 1)
  let passes := decide (v.fails = 0) && decide (v.contributors = (s.press c).pressCount)
  let (r, adv, s) := q.panels.foldl (fun acc i => commitPanel c i sr (proceed && passes) acc)
    (if proceed then PRes.ok else PRes.ok.flag 2, 0, s)
  let s := if 0 < adv then
      (s.modPrs fun k => { k with committed := sat32 k.committed 1 }).modPress c (sealTable q.press (some sr.s)) else s
  let s := s.modPress c fun p => { p with voteFailed := !passes }
  .ok (r, if passes then s else voteFail c sr.s proceed q.seq s)

/-- Zero the gradient buffers of panels; their norm contributions go with them (log entry 23). -/
def zeroGrads (c : Nat) (is : List Nat) (s : State) : State :=
  forEach is (fun i s =>
    let x := s.slot c
    let d := x.press.panel i
    if d.frozen then s
    else (s.wrVa x d.grad (List.replicate (4 * d.elems) 0)).modPress c fun p => { p with norms := KV.erase p.norms i }) s

def jobGzero (c : Nat) (q : PJob) (sr : StepRec) (s : State) : Except Nat (PRes × State) :=
  let dec := if sr.after ≠ 0 then sr.after else sr.decision
  let r := if sr.decision = 1 then PRes.ok else PRes.ok.flag 2
  if dec = 1 ∨ dec = 2 then
    .ok (r, (zeroGrads c q.panels s).modPress c fun p =>
      { p with gNorm := none, devNorms := KV.erase p.devNorms q.press, devNorm := none })
  else .ok (r.flag 4, s)

/-! ### PUBLISH (R307 to R310, R390) -/

/-- Publish one panel from its current slot; `none` for a bad mask byte. -/
def publishPanel (c i owner : Nat) (s : State) : Option State :=
  let x := s.slot c
  let p := x.press
  let d := p.panel i
  let e := p.gen i
  let g := p.groupOf i
  let va := d.slotVa e.gen.toNat
  match readMasks s x g d va with
  | none => none
  | some ms =>
    let w := readMaster s x d va
    let seed := (x.img.map (·.seed)).getD 0
    let md := fun (i j : Nat) =>
      if g.flags / 4 % 2 = 1 then RMode.stochastic (pubTumble seed d e.step i j) else RMode.nearest
    let s := publishCopy c d md ms w true (publishCopy c d md ms w false s)
    let s := s.modPrs fun k => { k with maskExcess := k.maskExcess + maskExcess d ms w }
    let s := s.modPress c fun p => p.setGen i { e with pubGen := e.gen }
    some (if d.panel = 0 then
        let st := pubStamp d { e with pubGen := e.gen } owner x.layoutEpoch
        (s.wrVa x (d.nat_ - 64) st).wrVa x (d.tr - 64) st
      else s)

def jobPublish (c owner : Nat) (q : PJob) (s : State) : Except Nat (PRes × State) :=
  q.panels.foldl (fun (acc : Except Nat (PRes × State)) i =>
    match acc with
    | .error e => .error e
    | .ok (r, s) =>
      let e := (s.press c).gen i
      if e.pubGen = e.gen then .ok (r.flag 4, s)
      else
        let s := readSlot c i false s
        match slotRefusal s c i false with
        | some (code, n) => .ok (refusePanel c i code n r s)
        | none =>
          match publishPanel c i owner s with
          | some s => .ok (r, s)
          | none => .error Code.formatFault) (.ok (PRes.ok, s))

/-! ### FOLD and LOADFOLD (R316 to R319, R399) -/

/-- Steps that the named trainable panels carry (R317). -/
def foldSteps (p : Press) (is : List Nat) : List W32 :=
  ((is.filter fun i => !(p.panel i).frozen).map fun i => (p.gen i).step).eraseDups

/-- Does the step counter in the current slot of panel `i` agree with its entry (R317)? -/
def foldOk (s : State) (c i : Nat) : Bool :=
  let x := s.slot c
  let e := x.press.gen i
  s.vaNum x ((x.press.panel i).slotVa e.gen.toNat + 8) 4 == e.step.toNat

def setFold (c j area : Nat) (b : List Byte) (s : State) : State :=
  s.modPress c fun p => { p with folds := KV.set [] p.folds (2 * j + area) b }

/-- FOLD (R317): a slot that disagrees with its entry or reads as poisoned is refused as well (R282, R311). -/
def jobFold (c owner : Nat) (q : PJob) (s : State) : Except Nat (PRes × State) :=
  let (r, s) := q.panels.foldl (fun (acc : PRes × State) i =>
    let t := readSlot c i true acc.2
    match slotRefusal t c i true with
    | some (code, n) => refusePanel c i code n acc.1 t
    | none => (acc.1, t)) (PRes.ok, s)
  let x := s.slot c
  let p := x.press
  let b := KV.get [] p.folds (2 * q.press + q.area)
  let steps := foldSteps p q.panels
  if r.refused = 0 ∧ steps.length ≤ 1 ∧ q.panels.all (foldOk s c) = true then
    let recs := q.panels.flatMap (foldRecord s x)
    let h := foldHeader q.press owner q.panels.length (steps.headD noStepTag).toNat q.resume x.layoutEpoch.toNat
      (sha384 recs)
    let s := setFold c q.press q.area (putFold b 0 (h ++ recs)) s
    let s := s.modPrs fun k => { k with folds := sat32 k.folds 1 }
    .ok (PRes.ok, if q.press = 0 then
        s.modPress c fun p => { p with leadFold := some (q.area, 128 + recs.length, q.resume) } else s)
  else
    let s := setFold c q.press q.area (putFold b 0 [0, 0, 0, 0]) s
    .ok ({ PRes.ok with status := Code.prsFold, refused := q.panels.length },
      s.log Code.prsFold originHw c q.seq 0)

/-- Write the records of a Fold into the panels' slots and entries (R319). -/
def applyFold (c j : Nat) (is : List Nat) (recs : List (List Byte)) (s : State) : State :=
  let s := forEach (List.zip is recs) (fun e s =>
    let x := s.slot c
    let d := x.press.panel e.1
    let g := genOf e.2
    let s := s.wrVa x (d.slotVa g.gen.toNat) ((e.2.drop 64).take (slotBytes (x.press.groupOf e.1) d))
    let s := if d.frozen then s else s.wrVa x (d.slotVa (g.gen.toNat + 1)) (slotHeader d 0xFFFFFFFF 0)
    s.modPress c fun p => { (p.setGen e.1 { g with pubGen := noStepTag }) with norms := KV.erase p.norms e.1 }) s
  s.modPress c (sealTable j none)

def jobLoadfold (c : Nat) (q : PJob) (s : State) : Except Nat (PRes × State) :=
  let p := s.press c
  match parseFold p q.press q.panels (KV.get [] p.folds (2 * q.press + q.area)) with
  | some recs => .ok (PRes.ok, applyFold c q.press q.panels recs s)
  | none => .ok ({ PRes.ok with status := Code.prsFold, refused := q.panels.length },
      s.log Code.prsFold originHw c q.seq 0)

/-- The watch trailer of a committed FOLD Stroke (R399). -/
def writeTrailer (c : Nat) (s : State) : State :=
  let p := s.press c
  match p.leadFold with
  | none => s
  | some (area, off, resume) =>
    let b := KV.get [] p.folds area
    (setFold c 0 area (putFold b off ((s.slot c).watch.trailer resume)) s).modPress c fun p => { p with leadFold := none }

/-! ### Commands -/

/-- The job in a command of class 3, when the body is well formed (R287, R288). -/
def pjobOf (p : Press) (j : Nat) (q : Cmd) : Except Nat PJob :=
  let n := wordsNat q.body
  let first := bitsOf n 15 0
  let count := bitsOf n 31 16
  let is := (List.range count).map (first + ·)
  let resume := bitsOf n 111 64
  let area := bitsOf n 112 112
  if bitsOf n 255 113 ≠ 0 ∨ 9 < q.kind ∨ (q.kind ≠ 8 ∧ resume ≠ 0) ∨ (q.kind < 8 ∧ area ≠ 0) ∨
      p.panels.length < first + count ∨ is.any (fun i => (p.panel i).press != j) = true ∨
      ([0, 2, 3, 4, 7].elem q.kind = true ∧ is.any (fun i => (p.panel i).frozen) = true) then .error Code.prsDesc
  else .ok ⟨j, q.kind, q.k, is, BitVec.ofNat 32 (bitsOf n 63 32), resume, area⟩

/-- Logical identity of the device in the job (Table 12.1). -/
def ownerOf (x : Ctx) : Nat := x.ghlSelf

/-- Do the work of an admitted job; an error aborts it. -/
def pressWork (c : Nat) (q : PJob) (s : State) : Except Nat (PRes × State) :=
  let p := s.press c
  let steps := fun (sr : StepRec) => q.panels.all fun i => (p.gen i).step == sr.s
  match q.kind, p.stepRec q.press with
  | 0, _ => jobNorm c q s
  | 1, _ => jobDecide c q s
  | 2, _ => jobPrep c q s
  | 3, some sr => if steps sr then jobCand c q sr s else .error Code.prsOrder
  | 4, some sr => if steps sr then jobVote c q sr s else .error Code.prsOrder
  | 5, some sr =>
    match globalVote s c sr.s with
    | some v => jobCommit c q sr v s
    | none => .error Code.prsOrder
  | 6, _ => jobPublish c (ownerOf (s.slot c)) q s
  | 7, some sr => jobGzero c q sr s
  | 8, _ => jobFold c (ownerOf (s.slot c)) q s
  | 9, _ => jobLoadfold c q s
  | _, _ => .error Code.prsOrder

/-- Is a job of this kind the next one of Press `j` in a resume, and may it run now: in a Press range, or with no
Strokes at any time (R398 step 3)? -/
def resumeTurn (s : State) (kind j c : Nat) : Bool :=
  let x := s.slot c
  match x.resume with
  | some r =>
    r.todo.find? (fun e => e.1 == j) == some (j, kind) && x.st != .running &&
      (s.stroke.mode == 0#2 || x.att.ranges.any fun e => e.1 / 8 == 3)
  | none => false

/-- LOADFOLD, PUBLISH or GZERO over every panel of a Press, as a job of a resume (R398 step 3). -/
def resumeJob (kind j c : Nat) (s : State) : State :=
  let x := s.slot c
  match x.resume with
  | none => s
  | some r =>
    let is := x.press.onPress j
    let w : PJob := ⟨j, kind, 0, is, 0, 0, (r.areas / 2 ^ j) % 2⟩
    let res := match kind with
      | 9 => jobLoadfold c w s
      | 6 => jobPublish c (ownerOf x) w s
      | _ => .ok (PRes.ok, zeroGrads c (is.filter fun i => !(x.press.panel i).frozen) s)
    let s := match res with
      | .ok (_, t) => t
      | .error _ => s
    s.modSlot c fun x => { x with resume := some { r with todo := r.todo.filter fun e => e != (j, kind) } }

/-- Start the command at the head of Press `j`'s queue, when it is of the kind (R287), or the job of a resume. -/
def pressStart (kind j c : Nat) (s : State) : State :=
  let x := s.slot c
  if resumeTurn s kind j c then resumeJob kind j c s
  else
  match x.nextCmd 3 j with
  | none => s
  | some q =>
    if q.kind ≠ kind ∨ x.mayStart s.now 3 q = false ∨ (KV.find? x.press.jobs j).isSome = true then s
    else
      let s := s.modSlot c (Ctx.advance 3 j)
      let seq : W32 := BitVec.ofNat 32 (bitsOf (wordsNat q.body) 63 32)
      let fault := fun (e : Nat) =>
        raiseCause (s.complete c 3 j q.k (pressRecord seq ⟨e, 1, 0, 0⟩ 0)) c e seq 0
      match pjobOf x.press j q with
      | .error e => fault e
      | .ok w =>
        match pressWork c w s with
        | .error e => fault e
        | .ok (r, s) => s.modPress c fun p =>
            { p with jobs := KV.insert p.jobs j ⟨q.k, pressRecord seq r (w.panels.length - r.refused)⟩ }

/-- PRESS_JOB_COMPLETE (R289). -/
def pressComplete (j c : Nat) (s : State) : State :=
  match KV.find? (s.press c).jobs j with
  | some q => (s.complete c 3 j q.k q.rec_).modPress c fun p => { p with jobs := KV.erase p.jobs j }
  | none => s

/-- The holds of R297, by code. -/
def r297Codes : List Nat := [Code.prsHalt, Code.prsStepSkew, Code.prsRecord]

/-- The holds that the Presses have asked for take effect in the opening band (R282, R297). -/
def pressHolds (c : Nat) (s : State) : State :=
  let due := (s.press c).due
  if due.isEmpty then s
  else
    let s := s.modSlot c fun x =>
      { x with
        holds := x.holds ||| holdBit 8
        press := { x.press with due := [], r297 := x.press.r297 || due.any fun e => r297Codes.elem e.1 } }
    forEach due (fun e s => s.postCtx c e.1 e.2) s

/-- OP_DECIDE in its opening band (R297). -/
def pressDecision (c flags : Nat) (s : State) : State :=
  let p := s.press c
  let s := if flags % 2 = 1 ∧ p.lastDec ≠ 0 then
      let held := p.r297
      let s := s.modPress c fun p =>
        { p with
          recs := p.recs.map fun e => (e.1, if e.2.s = p.lastS then { e.2 with decision := 2, after := 2 } else e.2)
          lastDec := 2 }
      if held then once c 2 (fun s => s.modPrs fun k => { k with skipped := sat32 k.skipped 1 }) s else s
    else s
  if flags / 2 % 2 = 1 then s.modPress c fun p => { p with halt := flags / 4 % 2 == 1 } else s

def execNorm (j : Stack) (c : Slot) (s : State) : Res := powered s (pressStart 0 j.val c.val s)
def execPressDecide (j : Stack) (c : Slot) (s : State) : Res := powered s (pressStart 1 j.val c.val s)
def execPrep (j : Stack) (c : Slot) (s : State) : Res := powered s (pressStart 2 j.val c.val s)
def execCand (j : Stack) (c : Slot) (s : State) : Res := powered s (pressStart 3 j.val c.val s)
def execPressVote (j : Stack) (c : Slot) (s : State) : Res := powered s (pressStart 4 j.val c.val s)
def execCommit (j : Stack) (c : Slot) (s : State) : Res := powered s (pressStart 5 j.val c.val s)
def execPublish (j : Stack) (c : Slot) (s : State) : Res := powered s (pressStart 6 j.val c.val s)
def execGzero (j : Stack) (c : Slot) (s : State) : Res := powered s (pressStart 7 j.val c.val s)
def execFold (j : Stack) (c : Slot) (s : State) : Res := powered s (pressStart 8 j.val c.val s)
def execLoadfold (j : Stack) (c : Slot) (s : State) : Res := powered s (pressStart 9 j.val c.val s)
def execRingRecord (j : Stack) (c : Slot) (s : State) : Res := powered s (ringRecord j.val c.val s)
def execPressJobComplete (j : Stack) (c : Slot) (s : State) : Res := powered s (pressComplete j.val c.val s)

end Sys2Proof.Machine
end

