-- ==== Sys2Proof/Machine/GhlCmd.lean ====
section
/-!
DEFINITION. Commands of class 4 and the packets they exchange: transfers into windows, waits and reductions
(11_gelhesy_link, R369 to R377).
-/

namespace Sys2Proof.Machine

/-! ### The section of type 0x0008 (R369) -/

def readWindow (rd : ImgRd) (a : Nat) : Window := ⟨rd a 8, rd (a + 8) 8, rd (a + 16) 6, rd (a + 22) 6⟩

def readTree (rd : ImgRd) (a : Nat) : Tree :=
  ⟨rd a 2, rd (a + 3) 1, (List.range (min 16 (rd (a + 2) 1))).map fun i => rd (a + 8 + 2 * i) 2⟩

/-- The section at offset `o`. -/
def readLink (rd : ImgRd) (o : Nat) : LinkSec :=
  let nw := rd o 2
  { nMembers := rd (o + 4) 2, self := rd (o + 6) 2
    windows := (List.range nw).map fun w => readWindow rd (o + 64 + 32 * w)
    trees := (List.range (rd (o + 2) 2)).map fun t => readTree rd (o + 64 + 32 * nw + 48 * t) }

/-- Check 13 of Table 7.17 on the section at `o` of `len` bytes, with the regions of the image and the
class-4 commands with their instances. -/
def linkOk (s : State) (rd : ImgRd) (o len : Nat) (regions : List Region) (cmds : List (Nat × Cmd)) : Bool :=
  let l := readLink rd o
  let nw := l.windows.length
  let nt := l.trees.length
  decide (64 ≤ len) && decide (nw ≤ 256) && decide (nt ≤ 64) && decide (1 ≤ l.nMembers) && decide (l.nMembers ≤ 2048) &&
  decide (l.self < l.nMembers) && rd.zero (o + 8) 56 && len == 64 + 32 * nw + 48 * nt &&
  (List.range nw).all (fun w => rd.zero (o + 64 + 32 * w + 28) 4) &&
  l.windows.all (fun w => w.base % 512 == 0 && w.half != 0 && w.half % 512 == 0 && decide (w.opens < w.closes) &&
    regions.any (fun r => !r.host && r.writable && !r.demand && decide (r.base ≤ w.base) &&
      decide (w.base + 2 * w.half ≤ r.base + r.size))) &&
  (List.range nt).all (fun t =>
    let a := o + 64 + 32 * nw + 48 * t
    let n := rd (a + 2) 1
    rd.zero (a + 4) 4 && rd.zero (a + 40) 8 && decide (n ≤ 16) &&
      (List.range 16).all (fun i => decide (i < n) || rd (a + 8 + 2 * i) 2 == 0xFFFF)) &&
  l.trees.all (fun t =>
    let ids := (if t.parent = 0xFFFF then [] else [t.parent]) ++ t.children
    ids.all (fun i => decide (i < l.nMembers) && i != l.self) && pairwise (fun a b => a != b) ids && s.ioFitted t.unit) &&
  cmds.all (fun e => e.2.kind != 2 ||
    (match l.trees[(e.2.body.getD 0 0).toNat % 64]? with
      | some t => t.unit == e.1
      | none => true))

/-! ### Common -/

/-- Device identifier of a logical identity, when its entry is valid (R360). -/
def peerId? (x : Ctx) (l : Nat) : Option Nat :=
  let e := KV.get 0 x.ghl.peers l
  if e.getLsbD 15 then some (e.toNat % 2048) else none

/-- First address of a range that does not resolve, or, for a write, that may not be written (R370). -/
def firstBad (x : Ctx) (va n : Nat) (w : Bool) : Option (Nat × Nat) :=
  if n = 0 then none
  else (List.range ((va + n - 1) / pageSmall + 1 - va / pageSmall)).findSome? fun i =>
    let a := max va ((va / pageSmall + i) * pageSmall)
    match x.xlatWork a with
    | none => some (Code.strPageFault, a)
    | some (_, wr) => if w && !wr then some (Code.strProtect, a) else none

/-- End a command whose address does not resolve (R261, R370). -/
def addrFault (c : Nat) (a : GhlAct) (w : Bool) (e : Nat × Nat) (s : State) : State :=
  let s :=
    if e.1 = Code.strPageFault then
      let s := { s with str := { s.str with pageFaults := sat32 s.str.pageFaults 1 } }
      s.modSlot c fun x => { x with att := x.att.failed (CtxFault.of e.2 w a.inst a.seq true) }
    else s
  actFault c a e.1 s

/-- A command before its body is read. -/
def freshAct (inst k kind : Nat) : GhlAct :=
  { inst := inst, k := k, kind := kind, tag := k % 4096 + 4096 * inst, seq := 0, bytes := 0, dest := 0, window := 0
    off := 0, line := none, sent := 0, cov := 0, done := 0, refused := 0, expect := 0, slack := 0, waited := 0
    tree := 0, op := 0, dstKind := 0, dst := 0, own := [], seg := 0, child := 0, acc := [], up := false }

/-- The next command of instance `d`, when it is command `k` of a kind and may start (R220). -/
def ghlNext (s : State) (d c k kind : Nat) : Option Cmd :=
  match (s.slot c).nextCmd 4 d with
  | some q => if q.kind = kind ∧ q.k = k ∧ (s.slot c).mayStart s.now 4 q = true then some q else none
  | none => none

/-- Refuse a command body (R370). -/
def refuseBody (c : Nat) (a : GhlAct) (s : State) : State := actFault c a Code.ghlDesc s

/-- Start a command: it leaves its queue and is in execution. -/
def startAct (c : Nat) (a : GhlAct) (s : State) : State :=
  (s.modSlot c (Ctx.advance 4 a.inst)).modCtxGhl c fun g => { g with acts := g.acts ++ [a] }

/-! ### Arrival of writes (R372, R373) -/

/-- What the first four rows of Table 11.12 say of a packet: dropped, an outcome, or nothing. -/
inductive RowVerdict where
  | drop
  | refuse (outcome : Nat)
  | pass
  deriving DecidableEq, Repr

def rowVerdict (s : State) (b : List Byte) : RowVerdict :=
  let x := s.slot (pslot b)
  let m := s.stroke.mark.toNat
  let i := x.stk.index.toNat
  let tm := pnum b 8 6
  let ti := pnum b 14 6
  if x.st ≠ .running then .drop
  else if m < tm ∨ (tm = m ∧ ti ≠ i) then .refuse 3
  else if tm < m ∧ ti = i then .drop
  else if tm < m then .refuse 1
  else .pass

/-- Count an outcome; WINDOW_CLOSED is logged and starts LINK of the receiving port (R372, R381, R510). -/
def countOutcome (port : Option Nat) (b : List Byte) (out : Nat) (s : State) : State :=
  match out with
  | 1 =>
    let i := pnum b 14 6
    let win := if ptype b = Pkt.write then pnum b 7 1 else 0
    let s := s.modGhl fun g => { g with windowClosed := sat32 g.windowClosed 1 }
    let s := s.log Code.ghlWindowClosed originHw (pslot b) (BitVec.ofNat 32 i)
      (closedExt i (psrc b) win)
    match port with
    | some p => triggerLink p s
    | none => s
  | 2 => s.modGhl fun g => { g with epochRefused := sat32 g.epochRefused 1 }
  | 3 => s.modGhl fun g => { g with windowFaults := sat32 g.windowFaults 1 }
  | _ => s

def State.coalAt (s : State) (c src tag : Nat) : Option Coal :=
  (s.slot c).ghl.coal.find? (fun q => q.src == src && q.tag == tag)

/-- Send the receipt gathered for a transfer. -/
def flushCoal (c : Nat) (q : Coal) (s : State) : State :=
  let s := s.modCtxGhl c fun g => { g with coal := g.coal.filter fun r => r != q }
  sendReceipt (receiptPkt s.myId q.src c q.outcome q.tag q.count q.mark.toNat false 0) s

/-- Enter a packet's outcome into the receipt of its transfer (R373). -/
def coalesce (b : List Byte) (out : Nat) (s : State) : State :=
  let c := pslot b
  let src := psrc b
  let tag := pnum b 30 2
  let mk := BitVec.ofNat 48 (pnum b 8 6)
  let s := match s.coalAt c src tag with
    | some q => if q.outcome = out ∧ q.mark = mk then s else flushCoal c q s
    | none => s
  let q : Coal := match s.coalAt c src tag with
    | some q => { q with count := q.count + 1 }
    | none => ⟨src, tag, out, 1, mk⟩
  let s := s.modCtxGhl c fun g =>
    { g with coal := (g.coal.filter fun r => !(r.src == src && r.tag == tag)) ++ [q] }
  if q.count = 16 ∨ pnum b 1 1 / 64 % 2 = 1 then flushCoal c q s else s

/-- A WAIT whose count has reached its expectation completes (R374). -/
def waitDone (c : Nat) (s : State) : State :=
  forEach (s.slot c).ghl.acts (fun a s =>
    if a.kind = 1 ∧ a.expect ≤ KV.get 0 (s.slot c).ghl.counts a.window then endAct c a 0 false s else s) s

/-- The outcome of a WRITE that passes the first four rows (Table 11.12). -/
def windowOutcome (x : Ctx) (b : List Byte) : Nat :=
  let i := x.stk.index.toNat
  let n := b.length - 32
  if BitVec.ofNat 32 (pnum b 20 4) ≠ x.layoutEpoch then 2
  else
    match x.ghl.link.windows[pnum b 7 1]? with
    | none => 3
    | some w =>
      if w.half < pnum b 24 5 + n then 3 else if w.closes ≤ i then 1 else if i < w.opens then 3 else 0

/-- A WRITE is consumed (R372). -/
def writeIn (port : Option Nat) (b : List Byte) (s : State) : State :=
  let c := pslot b
  match rowVerdict s b with
  | .drop => staleDrop 1 s
  | .refuse out => coalesce b out (countOutcome port b out s)
  | .pass =>
    let x := s.slot c
    let out := windowOutcome x b
    if out ≠ 0 then coalesce b out (countOutcome port b out s)
    else
      match x.ghl.link.windows[pnum b 7 1]? with
      | none => s
      | some w =>
        let s := s.wrVa x (w.base + x.phase * w.half + pnum b 24 5) (b.drop 32)
        let s := s.modCtxGhl c fun g => { g with counts := KV.upd 0 g.counts (pnum b 7 1) (· + (b.length - 32)) }
        coalesce b 0 (waitDone c s)

/-! ### Transfers (R371) -/

/-- Packet `i` of a transfer with its data. -/
def writePkt (s : State) (c : Nat) (a : GhlAct) (i : Nat) (data : List Byte) : List Byte :=
  let x := s.slot c
  let d := padSlots data
  routedHead Pkt.write 63 (if i + 1 = a.packets then 64 else 0) a.dest s.myId c ++
    dataHead a.window s.stroke.mark x.stk.index.toNat x.layoutEpoch (a.off + 512 * i) (d.length / 32) a.tag ++ d

/-- Send a packet of this device's own (R358). -/
def sendOwn (b : List Byte) (s : State) : State :=
  match routeOf s b with
  | .here => if ptype b = Pkt.write then writeIn none b s else s
  | _ => forward b s

/-- Send packet `i` of a transfer that is still in execution. -/
def sendWrite (c : Nat) (a : GhlAct) (i : Nat) (data : List Byte) (s : State) : State :=
  if (s.act? c a.inst a.k).isSome then
    sendOwn (writePkt s c a i data) (s.modAct c a fun a => { a with sent := i + 1 })
  else s

/-- The user of a Line for an XFER: party 6 (R370). -/
def xferUser (a : GhlAct) : User := ⟨6, opId 4 a.inst a.k⟩

/-- An XFER from a Line takes its next row when it is held (R181, R371). -/
def xferRow (c : Nat) (a : GhlAct) (s : State) : State :=
  match a.line with
  | none => s
  | some (t, l) =>
    if a.packets ≤ a.sent then s
    else
      match lineHolds s c (tileOf (t / 32) (t % 32)) l (xferUser a) 1 with
      | .error e => actFault c a e s
      | .ok (_, false) => s
      | .ok (_, true) =>
        match lineRead s c (tileOf (t / 32) (t % 32)) l (xferUser a) true with
        | (.done r, s) => sendWrite c a a.sent (rowBytes r) s
        | (.fault e, s) => actFault c a e s
        | (.stall, s) => s

/-- Does the body of an XFER break Table 11.10 (R370)? -/
def xferBad (x : Ctx) (n : Nat) : Bool :=
  let f := fun hi lo => bitsOf n hi lo
  let kind := f 1 0
  let dest := f 26 16
  decide (1 < kind) || f 15 15 != 0 || f 63 35 != 0 || decide (x.ghl.link.nMembers ≤ dest) || dest == x.ghl.link.self ||
  f 127 112 != 0 || f 191 176 != 0 || f 175 128 % 32 != 0 || f 223 192 == 0 ||
  (if kind = 0 then f 111 64 % 32 != 0 || f 223 192 % 32 != 0 else f 111 64 != 0 || f 223 192 % 512 != 0)

/-- XFER (R370, R371): start, or the next row of a Line source. -/
def xfer (d c k : Nat) (s : State) : State :=
  match s.act? c d k with
  | some a => if a.kind = 0 then xferRow c a s else s
  | none =>
    match ghlNext s d c k 0 with
    | none => s
    | some q =>
      let x := s.slot c
      let n := wordsNat q.body
      let f := fun hi lo => bitsOf n hi lo
      let a : GhlAct :=
        { freshAct d k 0 with
          seq := BitVec.ofNat 32 (f 255 224), bytes := f 223 192, window := f 34 27, off := f 175 128
          line := if f 1 0 = 1 then some (32 * f 9 6 + f 14 10, f 5 2) else none }
      let s := startAct c a s
      if xferBad x n then refuseBody c a s
      else
        match peerId? x (f 26 16) with
        | none => actFault c a Code.ghlLost (s.modAct c a fun a => { a with refused := a.packets })
        | some id =>
          let a := { a with dest := id }
          let s := s.modAct c a fun b => { b with dest := id }
          match a.line with
          | some (t, l) =>
            let tile := tileOf (t / 32) (t % 32)
            let s := startRead c tile l 6 s
            (match lineFor s c tile l 6 false with
              | .error e => if (heldOff s c tile l (xferUser a)).isSome then s else actFault c a e s
              | .ok _ => s)
          | none =>
            match firstBad x (f 111 64) a.bytes false with
            | some e => addrFault c a false e s
            | none =>
              let (data, s) := ghlRead s x (f 111 64) a.bytes
              forEach (List.range a.packets) (fun i s => sendWrite c a i ((data.drop (512 * i)).take 512) s) s

/-! ### Waits (R374) -/

/-- A WAIT completes once its count has reached its expectation. -/
def waitRun (c : Nat) (a : GhlAct) (s : State) : State :=
  if a.expect ≤ KV.get 0 (s.slot c).ghl.counts a.window then endAct c a 0 false s else s

/-- A WAIT has waited for `n` more cycles: Line stalls of the context, and too many of them end it. -/
def waitCycles (c n : Nat) (a : GhlAct) (s : State) : State :=
  let s := addStall c n (s.modAct c a fun b => { b with waited := b.waited + n })
  if nonconf s c then actFault c a Code.nonconformance s
  else if a.slack + 1 ≤ a.waited + n then actFault c a Code.ghlWaitLate s
  else s

/-- One core cycle of every WAIT in execution. -/
def waitTick (s : State) : State :=
  forEach slots8 (fun c s => forEach ((s.slot c).ghl.acts.filter fun a => a.kind == 1) (fun a s =>
    if (s.act? c a.inst a.k).isSome then waitCycles c 1 a s else s) s) s

def wait (d c k : Nat) (s : State) : State :=
  match s.act? c d k with
  | some a => if a.kind = 1 then waitRun c a s else s
  | none =>
    match ghlNext s d c k 1 with
    | none => s
    | some q =>
      let n := wordsNat q.body
      let f := fun hi lo => bitsOf n hi lo
      let a : GhlAct :=
        { freshAct d k 1 with
          seq := BitVec.ofNat 32 (f 63 32), window := f 7 0, slack := f 31 8, expect := f 111 64 }
      let s := startAct c a s
      if f 127 112 ≠ 0 ∨ (s.slot c).ghl.link.windows.length ≤ a.window then refuseBody c a s else waitRun c a s

/-- WAIT_SLACK_EXPIRE: the wait has reached slack + 1 cycles. -/
def waitExpire (d c k : Nat) (s : State) : State :=
  match s.act? c d k with
  | some a =>
    if a.kind = 1 ∧ KV.get 0 (s.slot c).ghl.counts a.window < a.expect then
      waitCycles c (a.slack + 1 - a.waited) a s
    else s
  | none => s

/-! ### Reductions (R376, R377) -/

/-- Element size of an op (Table 11.14). -/
def elemSize (op : Nat) : Nat := if op = 3 then 64 else if op = 4 then 8 else 4

/-- combine(a, b) of Table 11.14. -/
def combineOp (op : Nat) (a b : List Byte) : List Byte :=
  let words := fun (f : W32 → W32 → W32) =>
    bytesOf32 (List.zipWith f (wordsOf a (a.length / 4)) (wordsOf b (a.length / 4)))
  match op with
  | 0 => words f32add
  | 1 => words (· + ·)
  | 2 => words f32max
  | 3 => ((NormRec.of a).join (NormRec.of b)).bytes
  | _ => ((VoteRec.of a).join (VoteRec.of b)).bytes

def GhlAct.segBytes (a : GhlAct) : Nat := if 3 ≤ a.op then elemSize a.op else 512
/-- Own contribution to segment `i`. -/
def GhlAct.ownSeg (a : GhlAct) (i : Nat) : List Byte := (a.own.drop (i * a.segBytes)).take a.segBytes
def GhlAct.segs (a : GhlAct) : Nat := (a.bytes + a.segBytes - 1) / a.segBytes

/-- A REDUCE packet (Table 11.11). -/
def reducePkt (s : State) (c : Nat) (a : GhlAct) (dir dst : Nat) (data : List Byte) : List Byte :=
  let x := s.slot c
  let d := padSlots data
  routedHead Pkt.reduce 63 ((if a.seg + 1 = a.segs then 64 else 0) + 128 * dir) dst s.myId c ++
    dataHead a.tree s.stroke.mark x.stk.index.toNat x.layoutEpoch (a.seg * a.segBytes) (d.length / 32) a.tag ++ d

/-- Take a waiting packet of a reduction, its slots returned (R356, R377). -/
def takeRed (c : Nat) (a : GhlAct) (dir src n : Nat) (s : State) : Option (List Byte) × State :=
  match (s.slot c).ghl.redIn.find? (fun r => r.tree == a.tree && r.tag == a.tag && r.dir == dir && r.src == src &&
      r.off == a.seg * a.segBytes) with
  | none => (none, s)
  | some r =>
    let s := s.modCtxGhl c fun g => { g with redIn := g.redIn.erase r }
    let s := match r.port with
      | some p => s.modPort p fun g => { g with owed := KV.upd 0 g.owed 1 (· + (1 + r.data.length / 32)) }
      | none => s
    (some (r.data.take n), s)

/-- A packet of a reduction to this device itself stands among those that wait. -/
def sendReduce (c : Nat) (a : GhlAct) (dir dst : Nat) (data : List Byte) (s : State) : State :=
  let b := reducePkt s c a dir dst data
  match routeOf s b with
  | .here => s.modCtxGhl c fun g =>
      { g with redIn := g.redIn ++ [⟨a.tree, a.tag, dir, s.myId, a.seg * a.segBytes, padSlots data, none⟩] }
  | _ => forward b s

/-- Write a segment's result and send it to every child (R376). -/
def deliver (c : Nat) (a : GhlAct) (kids : List Nat) (res : List Byte) (s : State) : State :=
  let s := match a.dstKind with
    | 0 => s.wrVa (s.slot c) (a.dst + a.seg * a.segBytes) res
    | 1 => s.modPress c fun p => { p with gNorm := some (NormRec.of res) }
    | _ => s.modPress c fun p => { p with gVote := some (VoteRec.of res) }
  let s := s.modAct c a fun b =>
    { b with done := b.done + res.length, seg := b.seg + 1, child := 0, acc := b.ownSeg (b.seg + 1), up := false }
  forEach kids (fun k s => if (s.act? c a.inst a.k).isSome then sendReduce c a 1 k res s else s) s

/-- Advance a reduction as far as the packets that have arrived let it (R376); `n` bounds the work. -/
def reduceRun (c inst k : Nat) (kids : List Nat) (parent : Option Nat) : Nat → State → State
  | 0, s => s
  | n + 1, s =>
    match s.act? c inst k with
    | none => s
    | some a =>
      if a.segs ≤ a.seg then endAct c a 0 false s
      else if a.up then
        match parent with
        | none => s
        | some p =>
          match takeRed c a 1 p a.acc.length s with
          | (some res, s) => reduceRun c inst k kids parent n (deliver c a kids res s)
          | (none, s) => s
      else
        match kids[a.child]? with
        | some kid =>
          (match takeRed c a 0 kid a.acc.length s with
            | (some v, s) =>
              reduceRun c inst k kids parent n
                (s.modAct c a fun b => { b with acc := combineOp a.op b.acc v, child := b.child + 1 })
            | (none, s) => s)
        | none =>
          match parent with
          | none => reduceRun c inst k kids parent n (deliver c a kids a.acc s)
          | some p =>
            reduceRun c inst k kids parent n
              (sendReduce c a 0 p a.acc (s.modAct c a fun b => { b with up := true }))

/-- The children and the parent of a tree as devices; `none` when a peer entry is not valid (R360). -/
def treePeers (x : Ctx) (t : Tree) : Option (List Nat × Option Nat) :=
  let kids := t.children.map (peerId? x)
  if kids.any Option.isNone then none
  else if t.parent = 0xFFFF then some (kids.filterMap id, none)
  else match peerId? x t.parent with
    | some p => some (kids.filterMap id, some p)
    | none => none

/-- Run a reduction that is in execution. -/
def reduceGo (c : Nat) (a : GhlAct) (s : State) : State :=
  match (s.slot c).ghl.link.trees[a.tree]? with
  | none => s
  | some t =>
    match treePeers (s.slot c) t with
    | none => actFault c a Code.ghlLost s
    | some (kids, parent) => reduceRun c a.inst a.k kids parent ((a.segs + 1) * (kids.length + 3)) s

/-- Does the body of a REDUCE break Table 11.10 or R370? -/
def reduceBad (x : Ctx) (n : Nat) : Bool :=
  let f := fun hi lo => bitsOf n hi lo
  let op := f 9 6
  let sk := f 11 10
  let dk := f 13 12
  let bytes := f 231 192
  decide (x.ghl.link.trees.length ≤ f 5 0) || decide (4 < op) || sk == 3 || dk == 3 || f 31 14 != 0 ||
  f 127 112 != 0 || f 191 176 != 0 || f 255 232 != 0 ||
  (if sk = 0 then f 111 64 % 4 != 0 else f 111 64 != 0 || op != sk + 2) ||
  (if dk = 0 then f 175 128 % 4 != 0 else f 175 128 != 0 || op != dk + 2) ||
  (if 3 ≤ op then bytes != elemSize op else bytes % 4 != 0)

/-- REDUCE (R370, R376): start, or go on. -/
def reduce (d c k : Nat) (s : State) : State :=
  match s.act? c d k with
  | some a => if a.kind = 2 then reduceGo c a s else s
  | none =>
    match ghlNext s d c k 2 with
    | none => s
    | some q =>
      let x := s.slot c
      let n := wordsNat q.body
      let f := fun hi lo => bitsOf n hi lo
      let tree := f 5 0
      let a : GhlAct :=
        { freshAct d k 2 with
          tag := KV.get 0 x.ghl.tags tree, seq := BitVec.ofNat 32 (f 63 32), bytes := f 231 192, tree := tree
          op := f 9 6, dstKind := f 13 12, dst := f 175 128 }
      let s := (startAct c a s).modCtxGhl c fun g => { g with tags := KV.upd 0 g.tags tree (· + 1) }
      if reduceBad x n then refuseBody c a s
      else if x.ghl.badEpoch.elem (tree, a.tag) then actFault c a Code.ghlEpoch s
      else
        match (if f 11 10 = 0 then firstBad x (f 111 64) a.bytes false else none),
            (if a.dstKind = 0 then firstBad x a.dst a.bytes true else none) with
        | some e, _ => addrFault c a false e s
        | none, some e => addrFault c a true e s
        | none, none =>
          let (own, s) := match f 11 10 with
            | 0 => ghlRead s x (f 111 64) a.bytes
            | 1 => ((x.press.devNorm.getD NormRec.none).bytes, s)
            | _ => ((x.press.devVote.getD ⟨0, 0, 0⟩).bytes, s)
          let s := s.modAct c a fun b => { b with own := own, acc := own.take a.segBytes }
          reduceGo c { a with own := own, acc := own.take a.segBytes } s

/-- A REDUCE packet is consumed (R377). -/
def reduceIn (port : Option Nat) (b : List Byte) (s : State) : State :=
  let c := pslot b
  let tree := pnum b 7 1
  let tag := pnum b 30 2
  let answer := fun (out : Nat) (s : State) =>
    sendReceipt (receiptPkt s.myId (psrc b) c out tag 1 (pnum b 8 6) true tree) s
  let free := fun (s : State) => match port with
    | some p => freeSlots p b s
    | none => s
  let act := (s.slot c).ghl.acts.find? (fun a => a.kind == 2 && a.tree == tree && a.tag == tag)
  match rowVerdict s b with
  | .drop => staleDrop 1 (free s)
  | .refuse out => answer out (countOutcome port b out (free s))
  | .pass =>
    if BitVec.ofNat 32 (pnum b 20 4) ≠ (s.slot c).layoutEpoch then
      let s := answer 2 (countOutcome port b 2 (free s))
      match act with
      | some a => actFault c a Code.ghlEpoch s
      | none => s.modCtxGhl c fun g => { g with badEpoch := (tree, tag) :: g.badEpoch }
    else
      let s := s.modCtxGhl c fun g =>
        { g with redIn := g.redIn ++ [⟨tree, tag, pnum b 1 1 / 128, psrc b, pnum b 24 5, b.drop 32, port⟩] }
      match act with
      | some a => reduceGo c a s
      | none => s

/-- Cycle 0 of an attempt (R374, R377): counts to zero, unmatched packets dropped. -/
def ghlAttempt (c : Nat) (s : State) : State :=
  let rs := (s.slot c).ghl.redIn
  let s := forEach rs (fun r s => match r.port with
    | some p => s.modPort p fun g => { g with owed := KV.upd 0 g.owed 1 (· + (1 + r.data.length / 32)) }
    | none => s) s
  staleDrop rs.length (s.modCtxGhl c fun g => { g with counts := [], redIn := [], badEpoch := [], tags := [] })

/-- The in-flight count of a context (R393). -/
def inFlight (s : State) (c : Nat) : Nat :=
  let mine := fun (b : List Byte) => pslot b == c && [Pkt.write, Pkt.receipt, Pkt.reduce].elem (ptype b)
  (s.slot c).ghl.redIn.length +
    (s.ghl.ports.map fun e =>
      (e.2.held.filter (fun q => mine q.bytes)).length + (e.2.inbox.filter mine).length).sum

/-! ### Packets that arrive -/

/-- Is the packet whole, and of the type (R347)? -/
def wholePkt (type : Nat) (b : List Byte) : Bool := ptype b == type && b.length == 32 * pslots b

/-- A routed packet from a port that is up: consumed here, or passed on (R358, R359, R367, R368). -/
def routedIn (p type : Nat) (b : List Byte) (here : State → State) (s : State) : State :=
  if wholePkt type b = false ∨ carriesType ((s.port p).code s.ghl.admitted) type = false then s
  else
    let s := takeIn p b s
    match routeOf s b with
    | .here => here s
    | _ => passOn b (freeSlots p b s)

def execXfer (d : IoDie) (c : Slot) (k : Nat) (s : State) : Res := powered s (xfer d.val c.val k s)
def execWait (d : IoDie) (c : Slot) (k : Nat) (s : State) : Res := powered s (wait d.val c.val k s)
def execWaitSlackExpire (d : IoDie) (c : Slot) (k : Nat) (s : State) : Res := powered s (waitExpire d.val c.val k s)
def execReduce (d : IoDie) (c : Slot) (k : Nat) (s : State) : Res := powered s (reduce d.val c.val k s)

/-- WRITE_PACKET_RECEIVE (R372). -/
def execWritePacketReceive (p : Port) (raw : List Byte) (s : State) : Res :=
  powered s (routedIn p.val Pkt.write raw (fun s => writeIn (some p.val) raw (freeSlots p.val raw s)) s)

/-- RECEIPT_PACKET_RECEIVE (R373). -/
def execReceiptPacketReceive (p : Port) (raw : List Byte) (s : State) : Res :=
  powered s (routedIn p.val Pkt.receipt raw (fun s => receiptIn raw (freeSlots p.val raw s)) s)

/-- REDUCE_PACKET_RECEIVE (R377). -/
def execReducePacketReceive (p : Port) (raw : List Byte) (s : State) : Res :=
  powered s (routedIn p.val Pkt.reduce raw (fun s => reduceIn (some p.val) raw s) s)

end Sys2Proof.Machine
end

