-- ==== Sys2Proof/Machine/Seam.lean ====
section
/-!
DEFINITION. The Seam units: sorted-index streams and the four operations (05_sparsity, R164 to R173).
-/

namespace Sys2Proof.Machine

/-- A descriptor from its four body words (Table 5.5). -/
def seamDescOf (body : List W64) : SeamDesc :=
  let n := wordsNat body
  let f := fun hi lo => bitsOf n hi lo
  { opcode := f 3 0, combine := f 5 4, inA := f 11 8, inB := f 15 12, outLine := f 19 16, auxLine := f 23 20
    tileRow := f 27 24, tileCol := f 32 28, extent := f 95 64, nA := f 111 96, nB := f 127 112, kCap := f 143 128
    experts := f 155 144, outMax := f 179 160, seqTag := BitVec.ofNat 32 (f 255 224)
    resv := f 7 6 != 0 || f 63 33 != 0 || f 159 156 != 0 || f 223 180 != 0 }

/-- Does the opcode read B, and does it write aux_line? -/
def SeamDesc.usesB (d : SeamDesc) : Bool := decide (d.opcode ≤ 1)
def SeamDesc.usesAux (d : SeamDesc) : Bool := d.opcode == 0 || d.opcode == 3

def SeamDesc.lines (d : SeamDesc) : List Nat :=
  [d.inA] ++ (if d.usesB then [d.inB] else []) ++ [d.outLine] ++ (if d.usesAux then [d.auxLine] else [])

/-- Is the descriptor refused on a Seam of die `die` (R167, R168)? -/
def SeamDesc.bad (d : SeamDesc) (die : Nat) : Bool :=
  d.resv || decide (3 < d.opcode) || (d.opcode != 1 && d.combine != 0) || d.combine == 3 ||
  (!d.usesB && (d.inB != 0 || d.nB != 0)) || (!d.usesAux && d.auxLine != 0) ||
  (decide (d.opcode ≤ 1) && d.kCap != 0) || (d.opcode != 3 && d.experts != 0) ||
  d.tileCol / 8 != die || !pairwise (fun a b => a != b) d.lines || d.nA == 0 || (d.usesB && d.nB == 0) ||
  (d.opcode == 2 && (d.kCap == 0 || decide (4096 < d.kCap) || decide (d.outMax < d.kCap))) ||
  (d.opcode == 3 && (d.kCap == 0 || decide (d.outMax < (d.experts + 1) * d.kCap)))

/-! ### Streams -/

def allOnes : W32 := 0xFFFFFFFF#32
/-- The terminator and an empty place (R164, R165). -/
def SEntry.term : SEntry := ⟨allOnes, allOnes⟩
def SEntry.empty : SEntry := ⟨allOnes, 0⟩

/-- The 64 entries of a row. -/
def rowEntries (r : Row) : List SEntry :=
  (List.range 64).map fun i => ⟨(r >>> (64 * i)).setWidth 32, (r >>> (64 * i + 32)).setWidth 32⟩

/-- A row from at most 64 entries. -/
def entriesRow (es : List SEntry) : Row :=
  BitVec.ofNat 4096 (packNat 64 (es.map fun e => e.idx.toNat + 4294967296 * e.pay.toNat))

/-- Take the entries of a row into a stream up to its terminator, each one checked (R166). -/
def SIn.take (extent maxN : Nat) : SIn → List SEntry → Except Nat SIn
  | i, [] => .ok i
  | i, e :: es =>
    if e = SEntry.term then .ok { i with ended := true }
    else if maxN ≤ i.count ∨ e.idx = allOnes then .error Code.formatFault
    else if (match i.prev with
        | some p => decide (e.idx.toNat ≤ p.toNat)
        | none => false) = true then .error Code.formatFault
    else if extent ≤ e.idx.toNat then .error Code.indexRange
    else SIn.take extent maxN { i with buf := i.buf ++ [e], count := i.count + 1, prev := some e.idx } es

def SOut.push (e : SEntry) (o : SOut) : SOut := { o with buf := o.buf ++ [e], count := o.count + 1 }
/-- End the stream with its terminator (R169). -/
def SOut.finish (o : SOut) : SOut := if o.ended then o else { o with buf := o.buf ++ [SEntry.term], ended := true }

/-! ### Operations -/

/-- Payload that UNION gives an index present in both streams. -/
def unionPay (combine : Nat) (a b : W32) : W32 :=
  match combine with
  | 1 => f32add a b
  | 2 => a + b
  | _ => a

/-- Merge while both streams can be used, up to the entry that exceeds out_max (R169, R172); `n` bounds the work. -/
def mergeStep : Nat → SeamOp → SeamOp
  | 0, o => o
  | n + 1, o =>
    let d := o.d
    let old := o
    if 64 ≤ o.out.buf.length ∨ 64 ≤ o.aux.buf.length ∨ o.excess = true then o
    else
      let emit := fun (o : SeamOp) (e : SEntry) (x : Option SEntry) =>
        if d.outMax ≤ o.out.count then { old with excess := true }
        else { o with out := o.out.push e, aux := match x with
          | some x => o.aux.push x
          | none => o.aux }
      match o.a.buf, o.b.buf with
      | a :: as, b :: bs =>
        if a.idx = b.idx then
          let o := { o with a := { o.a with buf := as }, b := { o.b with buf := bs } }
          mergeStep n (emit o ⟨a.idx, if d.opcode = 0 then a.pay else unionPay d.combine a.pay b.pay⟩
            (if d.opcode = 0 then some b else none))
        else if a.idx.toNat < b.idx.toNat then
          let o := { o with a := { o.a with buf := as } }
          if d.opcode = 0 then mergeStep n o
          else mergeStep n (emit o a none)
        else
          let o := { o with b := { o.b with buf := bs } }
          if d.opcode = 0 then mergeStep n o
          else mergeStep n (emit o b none)
      | a :: as, [] =>
        if o.b.ended then
          let o := { o with a := { o.a with buf := as } }
          if d.opcode = 0 then mergeStep n o
          else mergeStep n (emit o a none)
        else o
      | [], b :: bs =>
        if o.a.ended then
          let o := { o with b := { o.b with buf := bs } }
          if d.opcode = 0 then mergeStep n o
          else mergeStep n (emit o b none)
        else o
      | [], [] => o

/-- Does entry `a` rank before entry `b` (R169)? -/
def ranksBefore (a b : SEntry) : Bool :=
  let va := f32val a.pay
  let vb := f32val b.pay
  match FVal.cmp va vb with
  | some .gt => true
  | some .lt => false
  | some .eq => decide (a.idx.toNat < b.idx.toNat)
  | none =>
    if va = .nan ∧ vb = .nan then decide (a.idx.toNat < b.idx.toNat) else decide (vb = .nan)

def insertBy {α : Type} (lt : α → α → Bool) (x : α) : List α → List α
  | [] => [x]
  | y :: ys => if lt x y then x :: y :: ys else y :: insertBy lt x ys

def sortBy {α : Type} (lt : α → α → Bool) : List α → List α
  | [] => []
  | x :: xs => insertBy lt x (sortBy lt xs)

/-- TOPK over all of A (R169): the entries to write, and the empty places. -/
def topk (k : Nat) (es : List SEntry) : List SEntry × Nat :=
  let best := (sortBy ranksBefore es).take k
  let kept := es.filter (fun e => best.elem e)
  (kept ++ List.replicate (k - kept.length) SEntry.empty, k - kept.length)

/-- ROUTE over all of A (R170): expert lists, rejected entries, or the fault. -/
def routeAll (experts cap : Nat) : List SEntry → KV (List SEntry) → List SEntry → Except Nat (KV (List SEntry) × List SEntry)
  | [], ls, rej => .ok (ls, rej)
  | e :: es, ls, rej =>
    let x := e.pay.toNat % 4096
    if e.pay.toNat / 4096 ≠ 0 then .error Code.formatFault
    else if experts < x then .error Code.indexRange
    else
      let l := KV.get [] ls x
      if l.length < cap then
        routeAll experts cap es (KV.set [] ls x (l ++ [⟨BitVec.ofNat 32 (e.idx.toNat / 16), e.idx⟩])) rej
      else routeAll experts cap es ls (rej ++ [⟨e.idx, BitVec.ofNat 32 x⟩])

/-- All of A has been read: TOPK and ROUTE produce their outputs. -/
def finishAll (o : SeamOp) : Except Nat SeamOp :=
  let d := o.d
  if d.opcode = 2 then
    let (es, n) := topk d.kCap o.a.buf
    .ok { o with a := { o.a with buf := [] }, empties := n, out := ⟨es ++ [SEntry.term], es.length, 0, true⟩ }
  else
    match routeAll d.experts d.kCap o.a.buf [] [] with
    | .error e => .error e
    | .ok (ls, rej) =>
      let es := (List.range (d.experts + 1)).flatMap fun x =>
        let l := KV.get [] ls x
        l ++ List.replicate (d.kCap - l.length) SEntry.empty
      .ok { o with
        a := { o.a with buf := [] }
        empties := (es.filter (· == SEntry.empty)).length
        rejected := rej.length
        out := ⟨es ++ [SEntry.term], es.length, 0, true⟩
        aux := ⟨rej ++ [SEntry.term], rej.length, 0, true⟩ }

/-! ### Records and faults -/

def setSeam (u : Nat) (o : Option SeamOp) (s : State) : State :=
  { s with seams := match o with
    | some o => KV.insert s.seams u o
    | none => KV.erase s.seams u }

/-- End an operation by its own check (R166, R168, R172). -/
def seamFault (u : Nat) (o : SeamOp) (code : Nat) (s : State) : State :=
  let s := setSeam u none (s.complete o.slot 5 u o.k (o.record code true))
  raiseCause s o.slot code o.d.seqTag 0

/-- A stall of the operation on a Line (R171, R196). -/
def seamStall (u : Nat) (o : SeamOp) (s : State) : State :=
  if nonconf s o.slot then seamFault u o Code.nonconformance s else s

/-- Read one row of an input stream. -/
def seamRead (u : Nat) (o : SeamOp) (second : Bool) (s : State) : State :=
  let d := o.d
  let t := tileOf d.tileRow d.tileCol
  match lineRead s o.slot t (if second then d.inB else d.inA) ⟨4, opId 5 u o.k⟩ true with
  | (.stall, s) => seamStall u o s
  | (.fault e, s) => seamFault u o e s
  | (.done row, s) =>
    match (if second then o.b else o.a).take d.extent (if second then d.nB else d.nA) (rowEntries row) with
    | .error e => seamFault u o e s
    | .ok i => setSeam u (some (if second then { o with b := i } else { o with a := i })) s

/-- Write one row of an output stream; entries after a terminator, or after the last one before an abort, are open values
(log entry 1). -/
def seamWrite (u : Nat) (o : SeamOp) (aux : Bool) (s : State) : State :=
  let d := o.d
  let w := if aux then o.aux else o.out
  let es := w.buf.take 64
  let fill := (List.range (64 - es.length)).map fun i =>
    let v := Config.freeValue (s.freeCtr + i)
    (⟨v.setWidth 32, (v >>> 32).setWidth 32⟩ : SEntry)
  let w' := { w with
    buf := w.buf.drop 64, written := w.written + (es.filter (· != SEntry.term)).length }
  match lineWrite s o.slot (tileOf d.tileRow d.tileCol) (if aux then d.auxLine else d.outLine) ⟨4, opId 5 u o.k⟩
      (entriesRow (es ++ fill)) with
  | (.stall, s) => seamStall u o s
  | (.fault e, s) => seamFault u o e s
  | (.done _, s) =>
    setSeam u (some (if aux then { o with aux := w' } else { o with out := w' }))
      { s with freeCtr := s.freeCtr + fill.length }

/-- One step of the operation: a row out, a row in, or the merge of what has been read. -/
def seamStep (u : Nat) (o : SeamOp) (s : State) : State :=
  let d := o.d
  let full := fun (w : SOut) => decide (64 ≤ w.buf.length) || ((w.ended || o.excess) && !w.buf.isEmpty)
  if full o.out then seamWrite u o false s
  else if full o.aux then seamWrite u o true s
  else if o.excess then seamFault u o Code.seamOutFull s
  else if o.out.ended then s
  else if d.usesB then
    if o.a.buf.isEmpty ∧ o.a.ended = false then seamRead u o false s
    else if o.b.buf.isEmpty ∧ o.b.ended = false then seamRead u o true s
    else if o.a.buf.isEmpty ∧ o.b.buf.isEmpty then
      setSeam u (some { o with out := o.out.finish, aux := if d.usesAux then o.aux.finish else o.aux }) s
    else
      setSeam u (some (mergeStep 256 o)) s
  else if o.a.ended = false then seamRead u o false s
  else
    match finishAll o with
    | .error e => seamFault u o e s
    | .ok o => setSeam u (some o) s

/-- Start the command at the head of the unit's queue, or take one step of the operation in flight, when its opcode is
one of `ops` (R169 to R171). -/
def seamRun (ops : Nat → Bool) (u c : Nat) (s : State) : State :=
  match KV.find? s.seams u with
  | some o => if o.slot = c ∧ ops o.d.opcode = true then seamStep u o s else s
  | none =>
    let x := s.slot c
    match x.nextCmd 5 u with
    | none => s
    | some q =>
      let d := seamDescOf q.body
      if ops d.opcode = false ∨ x.mayStart s.now 5 q = false then s
      else
        let s := s.modSlot c (Ctx.advance 5 u)
        if d.bad (u / 2) then
          raiseCause (s.complete c 5 u q.k (leBytes 4 d.seqTag.toNat ++ leBytes 2 Code.seamDesc ++ List.replicate 10 0))
            c Code.seamDesc d.seqTag 0
        else
          let s := forEach (d.inA :: (if d.usesB then [d.inB] else [])) (startRead c (tileOf d.tileRow d.tileCol) · 4) s
          setSeam u (some ⟨c, q.k, d, .start, .start, .start, .start, 0, 0, false⟩) s

/-- SEAM_COMPLETE (R173): every stream is ended and written. -/
def seamComplete (u c : Nat) (s : State) : State :=
  match KV.find? s.seams u with
  | none => s
  | some o =>
    if o.slot = c ∧ o.out.ended = true ∧ o.out.buf = [] ∧ o.aux.buf = [] then
      setSeam u none (s.complete c 5 u o.k (o.record 0 false))
    else s

def execIntersect (u : SeamUnit) (c : Slot) (s : State) : Res := powered s (seamRun (fun o => o == 0) u.val c.val s)
def execUnion (u : SeamUnit) (c : Slot) (s : State) : Res := powered s (seamRun (fun o => o == 1) u.val c.val s)
def execTopk (u : SeamUnit) (c : Slot) (s : State) : Res := powered s (seamRun (fun o => o == 2) u.val c.val s)
def execRoute (u : SeamUnit) (c : Slot) (s : State) : Res :=
  powered s (seamRun (fun o => decide (3 ≤ o)) u.val c.val s)
def execSeamComplete (u : SeamUnit) (c : Slot) (s : State) : Res := powered s (seamComplete u.val c.val s)

end Sys2Proof.Machine
end

