-- ==== Sys2Proof/Machine/Stream.lean ====
section
/-!
DEFINITION. The stream engines (08_streams_and_memory, R241 to R261): start, reservation, landing, stores, completion, and
the reads and writes of the controllers that serve them.
-/

namespace Sys2Proof.Machine

def State.modTask (s : State) (t : StrTask) (f : StrTask → StrTask) : State :=
  { s with tasks := s.tasks.map fun u => if u.same t then f u else u }

def State.task? (s : State) (e c k : Nat) : Option StrTask :=
  s.tasks.find? (fun t => t.engine == e && t.slot == c && t.k == k)

/-- End a task by its own check (R221, R245, R247, R248, R260). -/
def taskFault (t : StrTask) (code : Nat) (s : State) : State :=
  let t := (s.task? t.engine t.slot t.k).getD t
  raiseCause (endTask t code true s) t.slot code t.d.seqTag 0

/-! ### Translation (R255) -/

/-- Translate a granule through an engine's cache of 128 entries, counting a miss (R255, R259). -/
def strXlate (e c va : Nat) (s : State) : Option (Place × Bool) × State :=
  let x := s.slot c
  let base := match x.page? va with
    | some (b, _) => b
    | none => va
  let es := KV.get [] s.xcache e
  if es.any (fun p => p.slot == c && p.va == base) then (x.xlatWork va, s)
  else
    let s := { s with str := { s.str with xlateMisses := s.str.xlateMisses + 1 } }
    match x.xlatWork va with
    | none => (none, s)
    | some r =>
      let (v, s) := if es.length < 128 then (0#64, s) else s.free
      let es := if es.length < 128 then es else es.eraseIdx (v.toNat % 128)
      (some r, { s with xcache := KV.set [] s.xcache e (es ++ [⟨c, base⟩]) })

/-- Translate a list of granules: the places, or the first address that fails. -/
def strXlateAll (e c : Nat) : List (Option Nat) → State → Except Nat (List (Option (Place × Bool))) × State
  | [], s => (.ok [], s)
  | none :: gs, s =>
    match strXlateAll e c gs s with
    | (.ok ps, s) => (.ok (none :: ps), s)
    | r => r
  | some va :: gs, s =>
    match strXlate e c va s with
    | (none, s) => (.error va, (strXlateAll e c gs s).2)
    | (some p, s) =>
      match strXlateAll e c gs s with
      | (.ok ps, s) => (.ok (some p :: ps), s)
      | r => r

/-- The block of a place. -/
def Place.block : Place → BlockId
  | .dev j o => .dev j (o - o % 128)
  | .host a => .host (a - a % 128)

/-- Distinct blocks of a row (R250). -/
def rowBlocks (ps : List (Option (Place × Bool))) : List BlockId :=
  (ps.filterMap fun p => p.map fun q => q.1.block).eraseDups

/-- Those of them that lie in stacks. -/
def stackBlocks (bs : List BlockId) : List (Nat × Nat) :=
  bs.filterMap fun b => match b with
    | .dev j o => some (j, o)
    | .host _ => none

/-- Requests an engine has outstanding (R243). -/
def outstanding (s : State) (e : Nat) : Nat :=
  ((s.tasks.filter (fun t => t.engine == e)).map fun t =>
    (t.rows.map fun r => r.wait.length).sum + (t.outW.map Prod.snd).sum).sum

/-! ### Start -/

/-- Start the task at the head of the engine's queue, when its op is one of `ops` (R242, R245). -/
def strStart (ops : Nat → Bool) (e c : Nat) (s : State) : State :=
  let x := s.slot c
  match x.nextCmd 2 e with
  | none => s
  | some q =>
    let d := strDescOf q.body
    if ops d.op = false ∨ x.mayStart s.now 2 q = false ∨
        4 ≤ (s.tasks.filter (fun t => t.engine == e && t.slot == c)).length then s
    else
      let s := s.modSlot c (Ctx.advance 2 e)
      let t : StrTask :=
        { engine := e, slot := c, k := q.k, d := d, next := 0, hdrNext := 0, hdrs := [], hdrMiss := [], rows := []
          done := [], outW := [], idx := [], idxRows := 0, lastIdx := none, cancelled := false, faultBit := false
          zeroGran := false, consumed := false }
      if d.bad then
        raiseCause (s.complete c 2 e q.k (leBytes 4 d.seqTag.toNat ++ leBytes 2 Code.strDesc ++ List.replicate 10 0))
          c Code.strDesc d.seqTag 0
      else
        let s := { s with tasks := s.tasks ++ [t] }
        let ls := if d.packed then [d.line, d.hdrLine] else [d.line]
        let rs := (List.range d.tiles).map (d.tileRow + ·)
        let s := forEach rs (fun j s =>
          forEach (if d.loads then [] else ls) (startRead c (tileOf j e) · 5) s) s
        let s := if d.indexed then startRead c (tileOf d.tileRow e) d.idxLine 5 s else s
        let waits := fun (j l : Nat) => (heldOff s c (tileOf j e) l t.user).isSome
        let bad := rs.findSome? fun j => ls.findSome? fun l =>
          match lineFor s c (tileOf j e) l 5 d.loads with
          | .error f => if waits j l then none else some f
          | .ok _ => none
        let bad := match bad with
          | some f => some f
          | none => if d.indexed then
              (match lineFor s c (tileOf d.tileRow e) d.idxLine 5 false with
                | .error f => if waits d.tileRow d.idxLine then none else some f
                | .ok _ => none)
            else none
        match bad with
        | some f => taskFault t f s
        | none => s

/-! ### Indices (R247) -/

/-- Index entry of row `r`; the whole row lies in one run. -/
def StrTask.runOf (t : StrTask) (r : Nat) : Nat := 8 * r / t.d.n0

/-- Take one row of the index stream, if it is held. -/
def takeIndex (t : StrTask) (s : State) : State :=
  let tile := tileOf t.d.tileRow t.engine
  match lineHolds s t.slot tile t.d.idxLine t.user 1 with
  | .error f => taskFault t f s
  | .ok (_, false) => s
  | .ok (_, true) =>
    match takeRows s t.slot tile t.d.idxLine t.user 1 with
    | (.error f, s) => taskFault t f s
    | (.ok rs, s) =>
      let es := (List.range 64).map fun i => ((rs.getD 0 0) >>> (64 * i)).setWidth 32
      s.modTask t fun t => { t with idx := (t.idx ++ es).take t.d.n1, idxRows := t.idxRows + 1 }

/-- Check an index when its run begins (R247): beyond bound, or out of order in a SCATTER. -/
def indexBad (t : StrTask) (x : W32) : Bool :=
  x != 0xFFFFFFFF#32 &&
    (decide (t.d.bound < x.toNat * t.d.stride1 + 64 * t.d.n0) ||
      (t.d.op == 3 && (match t.lastIdx with
        | some p => decide (x.toNat ≤ p.toNat)
        | none => false)))

/-- Addresses of the eight granules of row `r` (R246), `none` for a zero granule or past the last one; `n` granules
are moved. -/
def StrTask.rowAddrs (t : StrTask) (r n : Nat) : List (Option Nat) :=
  let d := t.d
  (List.range 8).map fun w =>
    match d.pos r w with
    | none => none
    | some (i0, i1, i2, i3) =>
      if n ≤ w then none
      else if d.indexed then
        let x := t.idx.getD i1 0
        if x = 0xFFFFFFFF#32 then none else some (d.base + x.toNat * d.stride1 + 64 * i0)
      else some (d.base + i1 * d.stride1 + i2 * d.stride2 + i3 * d.stride3 + 64 * i0)

/-! ### Loads: reservation (R250, R252) -/

/-- Does an earlier task of the engine still have pegs to reserve on one of the Lines this task writes (R252)? -/
def earlierWriter (s : State) (t : StrTask) : Bool :=
  let lines := fun (u : StrTask) => u.d.line :: (if u.d.packed then [u.d.hdrLine] else [])
  let rs := fun (u : StrTask) => (List.range u.d.tiles).map (u.d.tileRow + ·)
  (s.tasks.takeWhile (fun u => !u.same t)).any fun u =>
    u.engine == t.engine && u.slot == t.slot && u.d.loads && !u.cancelled && decide (u.next < u.d.rows) &&
      (lines u).any (fun l => (lines t).elem l) && (rs u).any (fun j => (rs t).elem j)

/-- The Line of a row, its key and fields, when a credit is free. -/
def rowCredit (s : State) (t : StrTask) (j l : Nat) : Except Nat (Option (Nat × LineCfg)) :=
  match lineFor s t.slot (tileOf j t.engine) l 5 true with
  | .error f => .error f
  | .ok (k, g) =>
    let r := s.line k
    .ok (if r.passes t.user && decide (0 < r.credit g) then some (k, g) else none)

/-- Write a landed row to its slot, with its poisoned words, and advance the tail (R191, R250, R270). -/
def landRow (t : StrTask) (w : RowIn) (row : Row) (s : State) : State :=
  let tile := tileOf w.tile t.engine
  match (s.line w.key).cfg with
  | none => s
  | some g =>
    let rk := slotRow s t.slot tile g w.slot
    let s := s.wrRow rk row
    let s := { s with tub := w.poison.foldl (fun u p => u.setPoison rk p true) s.tub }
    s.modLine w.key (LineRec.filled g w.slot)

/-- Set the fault bit and the fill bit of a reserved slot (R250, R259). -/
def markSlot (t : StrTask) (key slot va : Nat) (g : LineCfg) (s : State) : State :=
  s.modLine key fun r =>
    LineRec.filled g slot { r with fault := KV.insert r.fault slot ⟨va, t.engine, t.k, t.d.seqTag⟩ }

/-- Is the landing buffer of the stream port full: do 8 rows that have returned wait to be written to the tile (R181,
log entry 10)? -/
def bufferFull (s : State) (t : StrTask) (j : Nat) : Bool :=
  decide (8 ≤ ((s.tasks.filter fun u => u.engine == t.engine).map fun u =>
    (u.rows.filter fun w => w.tile == j && w.wait.isEmpty).length).sum)

/-- Reserve a peg for a row with the given granules: issue its reads, or set its fault bit (R250). -/
def reserveRow (t : StrTask) (hdr : Bool) (r j l : Nat) (gs : List (Option Nat)) (poison : List Nat) (s : State) :
    State :=
  match rowCredit s t j l with
  | .error f => taskFault t f s
  | .ok none => s
  | .ok (some (key, g)) =>
    let (ps, s') := strXlateAll t.engine t.slot gs s
    let n := match ps with
      | .ok ps => (rowBlocks ps).length
      | .error _ => 0
    if 512 < outstanding s t.engine + n ∨ bufferFull s t j = true then s
    else
      let slot := (s.line key).resv % g.size
      let s := s'.modLine key (LineRec.reserve g)
      let step := fun (t : StrTask) => if hdr then { t with hdrNext := t.hdrNext + 1 } else { t with next := t.next + 1 }
      match ps with
      | .error va =>
        let s := markSlot t key slot va g s
        s.modTask t fun t =>
          let t := step t
          { t with faultBit := true, hdrMiss := if hdr then NSet.add t.hdrMiss r else t.hdrMiss }
      | .ok ps =>
        let w : RowIn := ⟨r, hdr, key, j, l, slot, gs, poison, rowBlocks ps⟩
        if w.wait.isEmpty then
          (landRow t w 0 s).modTask t fun t => { step t with done := NSet.add t.done r }
        else (askBanks (stackBlocks w.wait) s).modTask t fun t => { step t with rows := t.rows ++ [w] }

/-- Addresses of the granules that cover the headers of header row `h`. -/
def StrTask.hdrAddrs (t : StrTask) (h : Nat) : List (Option Nat) :=
  let a := t.d.hdrBase + 8 * t.d.hdrFirst h
  let z := a + 8 * t.d.hdrCount h
  (List.range ((z + 63) / 64 - a / 64)).map fun i => some (64 * (a / 64 + i))

/-- ROW_RESERVE (R250): the next row of a LOAD or GATHER, its header row or its index entries first. -/
def rowReserve (e c k : Nat) (s : State) : State :=
  match s.task? e c k with
  | none => s
  | some t =>
    let d := t.d
    if d.loads = false ∨ t.cancelled = true ∨ d.rows ≤ t.next ∨ earlierWriter s t = true then s
    else
      let r := t.next
      let j := d.tileOfRow r
      if d.indexed then
        let i := t.runOf r
        if t.idx.length ≤ i then takeIndex t s
        else
          let x := t.idx.getD i 0
          if 8 * r % d.n0 = 0 ∧ indexBad t x = true then taskFault t Code.strIndex s
          else
            let s := reserveRow t false r j d.line (t.rowAddrs r 8) [] s
            if x = 0xFFFFFFFF#32 then
              s.modTask t fun u => if r < u.next then { u with zeroGran := true } else u
            else s
      else if d.packed then
        let h := d.hdrRow r
        if t.hdrNext ≤ h then reserveRow t true h j d.hdrLine (t.hdrAddrs h) [] s
        else if t.rows.any (fun w => w.hdr && w.r == h) then s
        else if NSet.mem t.hdrMiss h then
          match rowCredit s t j d.line with
          | .error f => taskFault t f s
          | .ok none => s
          | .ok (some (key, g)) =>
            let slot := (s.line key).resv % g.size
            let s := markSlot t key slot (d.hdrBase + 8 * r) g (s.modLine key (LineRec.reserve g))
            s.modTask t fun t => { t with next := t.next + 1, faultBit := true }
        else
          match KV.find? t.hdrs r with
          | none => reserveRow t false r j d.line (List.replicate 8 none) words8 s
          | some hd =>
            if hdrBad d.pkFmt hd then taskFault t Code.formatFault s
            else reserveRow t false r j d.line (t.rowAddrs r (hdrGranules hd)) [] s
      else reserveRow t false r j d.line (t.rowAddrs r 8) [] s

/-! ### Loads: landing -/

/-- STR_ROW_LAND (R250): a row whose blocks have all returned is written to its slot. -/
def rowLand (e c k : Nat) (s : State) : State :=
  match s.task? e c k with
  | none => s
  | some t =>
    match t.rows.find? (fun w => w.wait.isEmpty) with
    | none => s
    | some w =>
      let x := s.slot c
      let s := s.modTask t fun t => { t with rows := t.rows.erase w }
      if w.hdr then
        let a := t.d.hdrBase + 8 * t.d.hdrFirst w.r
        let n := t.d.hdrCount w.r
        let bytes := s.rdVa x a (8 * n)
        let sh := a % 64
        let bad := fun i => w.poison.any (fun p => p == (sh + 8 * i) / 64)
        let s := s.modTask t fun t =>
          { t with hdrs := (List.range n).foldl (fun m i =>
              if bad i then m else KV.insert m (t.d.hdrFirst w.r + i)
                (BitVec.ofNat 64 (leNat ((bytes.drop (8 * i)).take 8)))) t.hdrs }
        let pw := words8.filter fun p => (List.range 8).any fun i => decide (8 * p + i < n) && bad (8 * p + i)
        landRow t { w with poison := pw } (rowOf bytes) s
      else
        let bytes := w.granules.flatMap fun g =>
          match g with
          | some va => s.rdVa x va 64
          | none => List.replicate 64 0
        let s := landRow t w (rowOf bytes) s
        s.modTask t fun t => { t with done := NSet.add t.done w.r }

/-- Take a returned block off the first row that waits for it, with its poisoned granules (64-byte halves). -/
def blockBack (b : BlockId) (bad : List Nat) (owner : StrTask → Bool) (s : State) : State :=
  match s.tasks.find? (fun t => owner t && t.rows.any (fun w => w.wait.elem b)) with
  | none => s
  | some t =>
    match t.rows.find? (fun w => w.wait.elem b) with
    | none => s
    | some w =>
      let x := s.slot t.slot
      let hit := fun (g : Option Nat) => match g.bind x.xlat with
        | some (p, _) => p.block == b && bad.any (fun h =>
            match p with
            | .dev _ o => (o % 128) / 64 == h
            | .host a => (a % 128) / 64 == h)
        | none => false
      let ps := (w.granules.zipIdx.filter (fun g => hit g.1)).map Prod.snd
      let w' := { w with wait := w.wait.erase b, poison := (w.poison ++ ps).eraseDups }
      s.modTask t fun t => { t with rows := t.rows.map fun v => if v = w then w' else v }

/-- MEM_READ_DONE (R269): a read of a block returns. -/
def memReadDone (j addr q : Nat) (o : EccOutcome) (stored : Bool) (s : State) : State :=
  if stackBytes ≤ addr then s
  else
    let off := addr - addr % 128
    let (bad, s) := readOutcome j off q o stored s
    blockBack (.dev j off) bad (fun _ => true) s

/-- PATROL_READ (R269): the same outcomes, for no engine. -/
def patrolRead (j addr q : Nat) (o : EccOutcome) (stored : Bool) (s : State) : State :=
  if stackBytes ≤ addr ∨ s.power.doze = true then s else (readOutcome j (addr - addr % 128) q o stored s).2

/-- HOST_READ_COMPLETION (R270): the task's oldest host block returns, poisoned by an error completion. -/
def hostRead (e c k : Nat) (err : Bool) (s : State) : State :=
  match s.task? e c k with
  | none => s
  | some t =>
    let isHost := fun (b : BlockId) => match b with
      | .host _ => true
      | .dev _ _ => false
    match (t.rows.flatMap (fun w => w.wait)).find? isHost with
    | none => s
    | some b =>
      let s := blockBack b (if err then [0, 1] else []) (fun u => u.same t) s
      if err then s.log Code.strHostErr originHw c t.d.seqTag 0 else s

/-! ### Stores (R251, R260) -/

/-- The write requests of what a row sends to stacks, one for each block it touches (R243), in walk order. -/
def writeReqs (t : StrTask) (r : Nat) (ws : List (Place × List Byte)) : List MemWrite :=
  let parts := ws.filterMap fun w => match w.1 with
    | .dev j o => some ((j, o - o % 128), (o % 128, w.2))
    | .host _ => none
  (parts.map Prod.fst).eraseDups.map fun b =>
    ⟨b.1, b.2, (parts.filter fun p => p.1 == b).map Prod.snd, t.engine, t.slot, t.k, r⟩

/-- Write what a row sends: its granules, and its header behind them as a request of its own; stack writes wait for their
controller, host writes are posted (R248, R249, R251). -/
def issueRow (t : StrTask) (r : Nat) (ws hdr : List (Place × List Byte)) (s : State) : State :=
  let s := (ws ++ hdr).foldl (fun (s : State) w => match w.1 with
    | .host a => s.wrHost a w.2
    | .dev _ _ => s) s
  let reqs := writeReqs t r ws ++ writeReqs t r hdr
  let s := askBanks (reqs.map fun q => (q.stack, q.block)) s
  let s := { s with mem := { s.mem with writes := s.mem.writes ++ reqs } }
  s.modTask t fun t =>
    { t with
      outW := if reqs.isEmpty then t.outW else KV.set 0 t.outW r reqs.length
      done := if reqs.isEmpty then NSet.add t.done r else t.done }

/-- End a store by a failed write translation (R260, R261). -/
def storeFault (t : StrTask) (va code : Nat) (s : State) : State :=
  if code = Code.strPageFault then
    let s := { s with str := { s.str with pageFaults := sat32 s.str.pageFaults 1 } }
    taskFault t code (s.modSlot t.slot fun x =>
      { x with att := x.att.failed (CtxFault.of va true t.engine t.d.seqTag false) })
  else taskFault t code s

/-- Take one held row of a Line into the landing buffer. -/
def takeHeld (t : StrTask) (j l : Nat) (s : State) : Except Nat (Option Row) × State :=
  match lineHolds s t.slot (tileOf j t.engine) l t.user 1 with
  | .error f => (.error f, s)
  | .ok (_, false) => (.ok none, s)
  | .ok (_, true) =>
    match takeRows s t.slot (tileOf j t.engine) l t.user 1 with
    | (.error f, s) => (.error f, s)
    | (.ok rs, s) => (.ok rs.head?, s)

/-- May the engine have the requests of one more row outstanding (R243)? -/
def roomFor (s : State) (t : StrTask) (r n : Nat) (hdr : Bool) : Bool :=
  let x := s.slot t.slot
  let bs := rowBlocks ((t.rowAddrs r n).map fun g => g.bind x.xlatWork)
  decide (outstanding s t.engine + bs.length + hdr.toNat ≤ 512)

/-- Take one data row and issue its writes; `n` granules are moved, `hdr` is the row's header, `x` the entry of its run in
a SCATTER. Every granule and the header are translated before anything is written (R251, R255). -/
def storeData (t : StrTask) (r n : Nat) (hdr : Option W64) (x : Option W32) (s : State) : State :=
  if roomFor s t r n hdr.isSome = false then s
  else
  match takeHeld t (t.d.tileOfRow r) t.d.line s with
  | (.error f, s) => taskFault t f s
  | (.ok none, s) => s
  | (.ok (some row), s) =>
    let s := s.modTask t fun t =>
      { t with next := r + 1, lastIdx := if x = some 0xFFFFFFFF#32 then t.lastIdx else x.or t.lastIdx }
    let (ps, s) := strXlateAll t.engine t.slot (t.rowAddrs r n) s
    let (hs, s) := match hdr with
      | some _ => strXlateAll t.engine t.slot [some (t.d.hdrBase + 8 * r)] s
      | none => (.ok [], s)
    match ps, hs with
    | .error va, _ => storeFault t va Code.strPageFault s
    | _, .error va => storeFault t va Code.strPageFault s
    | .ok ps, .ok hs =>
      if (ps ++ hs).any (fun p => match p with
          | some (_, w) => !w
          | none => false) then storeFault t 0 Code.strProtect s
      else
        let ws := ps.zipIdx.filterMap fun g => g.1.map fun p => (p.1, ((rowBytes row).drop (64 * g.2)).take 64)
        let hw := hs.filterMap fun p => p.map fun q => (q.1, leBytes 8 (hdr.getD 0).toNat)
        issueRow t r ws hw s

/-- STORE_ROW (R251): the next held row of a STORE or SCATTER, its header row or its index entries first. -/
def storeRow (e c k : Nat) (s : State) : State :=
  match s.task? e c k with
  | none => s
  | some t =>
    let d := t.d
    if d.loads = true ∨ d.rows ≤ t.next then s
    else
      let r := t.next
      if d.indexed then
        let i := t.runOf r
        if t.idx.length ≤ i then takeIndex t s
        else
          let x := t.idx.getD i 0
          if 8 * r % d.n0 = 0 ∧ indexBad t x = true then taskFault t Code.strIndex s
          else storeData t r 8 none (some x) s
      else if d.packed then
        let h := d.hdrRow r
        if t.hdrNext ≤ h then
          match takeHeld t (d.tileOfRow r) d.hdrLine s with
          | (.error f, s) => taskFault t f s
          | (.ok none, s) => s
          | (.ok (some row), s) =>
            s.modTask t fun t =>
              { t with
                hdrNext := t.hdrNext + 1
                hdrs := (List.range (d.hdrCount h)).foldl (fun m i =>
                  KV.insert m (d.hdrFirst h + i) ((row >>> (64 * i)).setWidth 64)) t.hdrs }
        else
          let hd := KV.get 0 t.hdrs r
          if hdrBad d.pkFmt hd then taskFault t Code.formatFault s else storeData t r (hdrGranules hd) (some hd) none s
      else storeData t r 8 none none s

/-- Does a request write all 128 bytes of its block? -/
def MemWrite.full (w : MemWrite) : Bool :=
  [0, 64].all fun o => w.parts.any fun p => p.1 == o && p.2.length == 64

/-- A controller performs one write: the codewords it writes are replaced, a block it writes in full loses its mark, and
its task has one write fewer outstanding (R251, R269, R271). -/
def performWrite (w : MemWrite) (s : State) : State :=
  let s := w.parts.foldl (fun (s : State) p => s.wrBytes (.dev w.stack (w.block + p.1)) p.2) s
  let s := if w.full then { s with mem := s.mem.clean (stackKey w.stack w.block) 128 } else s
  match s.task? w.engine w.slot w.k with
  | none => s
  | some t => s.modTask t fun t =>
      let n := KV.get 0 t.outW w.r - 1
      { t with outW := KV.set 0 t.outW w.r n, done := if n = 0 then NSet.add t.done w.r else t.done }

/-- MEM_WRITE_DONE (R249, R269): the oldest write to the block. -/
def memWriteDone (j addr : Nat) (s : State) : State :=
  match s.mem.writes.find? (fun w => w.stack == j && w.block == addr - addr % 128) with
  | none => s
  | some w => performWrite w { s with mem := { s.mem with writes := s.mem.writes.erase w } }

/-- Every write on its way reaches its controller, in order. -/
def flushWrites (s : State) : State :=
  forEach s.mem.writes performWrite { s with mem := { s.mem with writes := [] } }

/-! ### Completion (R253, R254) -/

/-- Has the task nothing left to do? A LOAD or GATHER has reserved and landed every row, a STORE or SCATTER has every
write accepted; a cancelled task has no read outstanding. -/
def taskOver (t : StrTask) : Bool :=
  t.rows.isEmpty && t.outW.isEmpty && (t.cancelled || decide (t.d.rows ≤ t.next))

/-- STR_TASK_COMPLETE (R254). -/
def taskComplete (e c k : Nat) (s : State) : State :=
  match s.task? e c k with
  | some t => if taskOver t then endTask t 0 false s else s
  | none => s

def execLoad (e : Engine) (c : Slot) (s : State) : Res := powered s (strStart (fun o => o == 0 || decide (3 < o)) e.val c.val s)
def execStore (e : Engine) (c : Slot) (s : State) : Res := powered s (strStart (fun o => o == 1) e.val c.val s)
def execGather (e : Engine) (c : Slot) (s : State) : Res := powered s (strStart (fun o => o == 2) e.val c.val s)
def execScatter (e : Engine) (c : Slot) (s : State) : Res := powered s (strStart (fun o => o == 3) e.val c.val s)
def execRowReserve (e : Engine) (c : Slot) (k : Nat) (s : State) : Res := powered s (rowReserve e.val c.val k s)
def execStrRowLand (e : Engine) (c : Slot) (k : Nat) (s : State) : Res := powered s (rowLand e.val c.val k s)
def execStoreRow (e : Engine) (c : Slot) (k : Nat) (s : State) : Res := powered s (storeRow e.val c.val k s)
def execStrTaskComplete (e : Engine) (c : Slot) (k : Nat) (s : State) : Res := powered s (taskComplete e.val c.val k s)
def execMemReadDone (st : Stack) (addr : Nat) (q : Fin 4) (o : EccOutcome) (stored : Bool) (s : State) : Res :=
  powered s (memReadDone st.val addr q.val o stored s)
def execPatrolRead (st : Stack) (addr : Nat) (q : Fin 4) (o : EccOutcome) (stored : Bool) (s : State) : Res :=
  powered s (patrolRead st.val addr q.val o stored s)
def execMemWriteDone (st : Stack) (addr : Nat) (s : State) : Res := powered s (memWriteDone st.val addr s)
def execRetirementCopyDone (st : Stack) (s : State) : Res := powered s (retireCopied st.val s)
def execHostReadCompletion (e : Engine) (c : Slot) (k : Nat) (err : Bool) (s : State) : Res :=
  powered s (hostRead e.val c.val k err s)

end Sys2Proof.Machine
end

