-- ==== Sys2Proof/Machine/Place.lean ====
section
/-!
DEFINITION. Placement of an image (R238): the checks of Table 7.17 that look at commands, tables and sections (checks 2, 4, 5,
8 and 10 to 14), the assignment of resources, and their release.
-/

namespace Sys2Proof.Machine

/-! ### Check 8: command bodies -/

/-- Body of a Mangle command: reserved fields, and the fields that opcode or acc_mode leaves unused (R89, R104, R107). -/
def mglBodyOk (b : List W64) : Bool :=
  let d := mdescOf b
  !d.resv && (d.opcode != 1 && d.opcode != 2 || decide (d = d.bare)) &&
    (d.opcode != 0 || d.accMode != 0 || (d.accSlot == 0 && d.accSlot2 == 0 && !d.accDup))

/-- Body of a tile command (Tables 7.10 and 6.3). -/
def tileBodyOk (kind : Nat) (b : List W64) : Bool :=
  let w := (b.getD 0 0).toNat
  let l := (b.getD 1 0).toNat
  bitsOf w 63 61 == 0 && (kind == 0 || bitsOf w 60 52 == 0) && (kind != 1 || (bitsOf l 7 7 == 0 && bitsOf l 63 52 == 0))

/-- Body of a Press job (Table 9.6). -/
def pressBodyOk (kind : Nat) (b : List W64) : Bool :=
  let n := wordsNat b
  bitsOf n 255 113 == 0 && (kind == 8 || bitsOf n 111 64 == 0) && (decide (8 ≤ kind) || bitsOf n 112 112 == 0)

/-- Body of a GHL command: reserved fields, and the address words that the source and destination kinds leave unused
(Table 11.10). -/
def ghlBodyOk (kind : Nat) (b : List W64) : Bool :=
  let n := wordsNat b
  let f := fun hi lo => bitsOf n hi lo
  match kind with
  | 0 => f 15 15 == 0 && f 63 35 == 0 && f 127 112 == 0 && f 191 176 == 0 && (f 1 0 == 0 || f 127 64 == 0)
  | 1 => f 127 112 == 0
  | _ =>
    f 31 14 == 0 && f 127 112 == 0 && f 191 176 == 0 && f 255 232 == 0 && (f 11 10 == 0 || f 127 64 == 0) &&
      (f 13 12 == 0 || f 191 128 == 0)

/-- Body of a Seam command: reserved fields and the fields that the opcode does not use (Table 5.5, R167). -/
def seamBodyOk (b : List W64) : Bool :=
  let d := seamDescOf b
  !d.resv && (d.opcode == 1 || d.combine == 0) && (d.usesB || (d.inB == 0 && d.nB == 0)) &&
    (d.usesAux || d.auxLine == 0) && (decide (2 ≤ d.opcode) || d.kCap == 0) && (d.opcode == 3 || d.experts == 0)

def bodyOk (cls : Nat) (q : Cmd) : Bool :=
  match cls with
  | 0 => mglBodyOk q.body
  | 1 => tileBodyOk q.kind q.body
  | 2 => !(strDescOf q.body).resv && !(strDescOf q.body).unused
  | 3 => pressBodyOk q.kind q.body
  | 4 => ghlBodyOk q.kind q.body
  | 5 => seamBodyOk q.body
  | _ => false

/-- Check 8 (R217, R218). -/
def check8 (rd : ImgRd) : Bool := check8Heads rd && (allCmds rd).all fun e => bodyOk e.1 e.2

/-! ### Checks 2, 4 and 5 -/

/-- Commands of a class with their instances. -/
def cmdsOf (rd : ImgRd) (cls : Nat) : List (Nat × Cmd) :=
  (strokeImages rd).flatMap fun p => (readLists rd p.1).flatMap fun l =>
    if l.cls = cls then l.cmds.map fun q => (l.inst, q) else []

def State.stackFitted (s : State) (j : Nat) : Bool := decide (j < 8) && s.fuses.stackFitted.getLsbD j

/-- Check 4: only fitted stacks, ports, Presses and I/O dies (R15). -/
def check4 (s : State) (rd : ImgRd) : Bool :=
  let h := readHdr rd
  (List.range 8).all (fun j => !h.stackMask.testBit j || s.stackFitted j) &&
  (List.range 16).all (fun p => !h.ports.testBit p || s.portFitted p) &&
  (strokeImages rd).all fun p => (readListDir rd p.1).all fun e =>
    (e.cls != 3 || s.stackFitted e.inst) && (e.cls != 4 || s.ioFitted e.inst)

/-! ### Check 10: function tables (R139 to R142) -/

def fsegAt (rd : ImgRd) (a : Nat) : FSeg :=
  let w := fun (o : Nat) => BitVec.ofNat 32 (rd (a + o) 4)
  { base := w 0, c0 := w 4, c1 := w 8, c2 := w 12 }

/-- A signed byte. -/
def sbyte (n : Nat) : Int := if n < 128 then n else (n : Int) - 256

/-- The table at offset `a` (Tables 4.7 and 4.8). -/
def ftableAt (rd : ImgRd) (a : Nat) : FTable :=
  let w := fun (o : Nat) => BitVec.ofNat 32 (rd (a + o) 4)
  let n := rd (a + 2) 2
  { nSeg := n, indexMode := rd (a + 4) 1, symmetry := rd (a + 5) 1, below := rd (a + 6) 1, above := rd (a + 7) 1
    inLo := w 8, wExp := sbyte (rd (a + 12) 1), eLo := rd (a + 13) 1, mBits := rd (a + 14) 1, loVal := w 16
    hiVal := w 20, nanVal := w 24, pinfVal := w 28, ninfVal := w 32
    segs := (List.range (min n 256)).map fun i => fsegAt rd (a + 64 + 16 * i) }

/-- R142 for one table. -/
def ftableOk (rd : ImgRd) (a : Nat) : Bool :=
  let t := ftableAt rd a
  rd a 2 == 1 && decide (1 ≤ t.nSeg) && decide (t.nSeg ≤ 256) && decide (t.indexMode ≤ 1) && decide (t.symmetry ≤ 2) &&
  decide (t.below ≤ 1) && decide (t.above ≤ 1) && rd.zero (a + 15) 1 && rd.zero (a + 36) 28 && f32isFinite t.inLo &&
  (if t.indexMode = 0 then decide (-126 ≤ t.wExp) && t.eLo == 0 && t.mBits == 0
   else t.inLo == 0#32 && t.wExp == 0 && decide (t.eLo ≤ 254) && decide (t.mBits ≤ 4)) &&
  t.segs.all (fun g => f32isFinite g.base && f32isFinite g.c0 && f32isFinite g.c1 && f32isFinite g.c2)

/-- Offsets of `n` tables from `a` on, and the end of the last one rounded up to 64 (R211). -/
def ftableOffs (rd : ImgRd) : Nat → Nat → List Nat × Nat
  | 0, a => ([], a)
  | n + 1, a =>
    let (os, e) := ftableOffs rd n (a + pad64 (64 + 16 * rd (a + 2) 2))
    (a :: os, e)

/-- The tables of the image, when R142 holds of all of them. -/
def ftables (rd : ImgRd) : Option (List FTable) :=
  match secOf? rd 4 with
  | none => some []
  | some e =>
    let (os, stop) := ftableOffs rd e.count e.off
    if stop = e.off + e.len ∧ os.all (fun a => ftableOk rd a &&
        rd.zero (a + 64 + 16 * rd (a + 2) 2) (pad64 (64 + 16 * rd (a + 2) 2) - (64 + 16 * rd (a + 2) 2))) = true then
      some (os.map (ftableAt rd))
    else none

/-! ### Check 11: shares (R225) -/

/-- Shares of the image by engine instance. -/
def imageShares (rd : ImgRd) : KV Nat :=
  ((strokeImages rd).flatMap fun p => readListDir rd p.1).foldl (fun m e =>
    KV.upd 0 m (instKey e.cls e.inst) (max ((e.bytes + 255) / 256 * 256))) []

/-- Largest fetch of the image. -/
def imageFetch (rd : ImgRd) : Nat :=
  ((strokeImages rd).map fun p =>
    ((readListDir rd p.1).map (·.bytes)).sum + ((readProgDir rd p.1).map fun e => 4 * e.words).sum).foldl max 0

/-- Slots other than `c` that hold placement resources. -/
def holders (s : State) (c : Nat) : List Nat := slots8.filter fun d => d != c && (s.slot d).assigned

/-- Slots other than `c` that hold a context. -/
def loaded (s : State) (c : Nat) : List Nat := slots8.filter fun d => d != c && (s.slot d).st != .empty

def imemOf (x : Ctx) : Nat :=
  match x.img with
  | some h => h.imem
  | none => 0

def energyOf (x : Ctx) : Nat :=
  match x.img with
  | some h => h.energy
  | none => 0

/-- Check 11 for shares, instruction words and a fetch, beside the other contexts. -/
def check11 (s : State) (c : Nat) (shares : KV Nat) (imem fetch : Nat) : Bool :=
  let os := (holders s c).map s.slot
  shares.all (fun e => decide (e.2 + (os.map fun x => KV.get 0 x.shares e.1).sum ≤ queueCap (e.1 / 32))) &&
  decide (imem + (os.map imemOf).sum ≤ 8192) &&
  decide (fetch + (os.map (·.fetch)).sum + 8 * (s.stroke.endReserve.toNat + 2048) ≤ 8 * s.stroke.period.toNat)

/-! ### Check 12: the Stroke energy budget -/

/-- Check 12 for an image of `mj` millijoules (R501). -/
def check12 (s : State) (c mj : Nat) : Bool :=
  decide (mj + ((holders s c).map fun d => energyOf (s.slot d)).sum ≤ s.power.budget.toNat)

/-! ### Check 13: memory layout (R257, R258, R266) -/

def regionAt (rd : ImgRd) (a : Nat) : Region :=
  { base := rd a 8, size := rd (a + 8) 8, host := rd (a + 16) 1 == 1, big := rd (a + 17) 1 == 1, stack := rd (a + 18) 1
    writable := (rd (a + 19) 1).testBit 0, demand := (rd (a + 19) 1).testBit 1 }

/-- The regions of the layout section. -/
def readRegions (rd : ImgRd) : List Region :=
  match secOf? rd 7 with
  | some e => (List.range e.count).map fun i => regionAt rd (e.off + 32 + 32 * i)
  | none => []

/-- split_profile of the layout section. -/
def splitOf (rd : ImgRd) : Nat :=
  match secOf? rd 7 with
  | some e => rd e.off 1
  | none => 0

def Region.meets (a b : Region) : Bool := decide (a.base < b.base + b.size) && decide (b.base < a.base + a.size)

/-- Fields of one region entry (Table 8.3). -/
def regionOk (rd : ImgRd) (a stackMask : Nat) : Bool :=
  let g := regionAt rd a
  let ps := if g.big then pageBig else pageSmall
  decide (rd (a + 16) 1 ≤ 1) && decide (rd (a + 17) 1 ≤ 1) && decide (rd (a + 19) 1 < 4) && rd.zero (a + 20) 12 &&
  g.base % ps == 0 && g.size % ps == 0 && g.size != 0 &&
  (if g.host then g.stack == 0 && decide (vaHost ≤ g.base) && decide (g.base + g.size ≤ two48)
   else g.big && decide (g.base + g.size ≤ vaHost) && decide (g.stack < 8) && stackMask.testBit g.stack)

/-- Does a range of addresses lie in one writable, non-demand device region? -/
def inRegion (gs : List Region) (va n : Nat) : Bool :=
  gs.any fun g => !g.host && g.writable && !g.demand && decide (g.base ≤ va) && decide (va + n ≤ g.base + g.size)

/-- Does a region overlap a pre-load page of the slot (R420)? -/
def meetsPreload (x : Ctx) (g : Region) : Bool :=
  x.pages.any fun e => e.2.preload && decide (e.1 < g.base + g.size) && decide (g.base < e.1 + pageBig)

/-- Pages that the regions need of stack `j`. -/
def pagesNeeded (gs : List Region) (j : Nat) : Nat :=
  ((gs.filter fun g => !g.host && !g.demand && g.stack == j).map fun g => g.size / pageBig).sum

/-- Check 13 on the layout section (R258, R266); `avail j` is the number of pages that stack `j` can give. -/
def layoutCheck (s : State) (c : Nat) (rd : ImgRd) (avail : Nat → Nat) : Option Nat :=
  let h := readHdr rd
  let gs := readRegions rd
  let secOk := match secOf? rd 7 with
    | some e => decide (32 + 32 * e.count ≤ e.len) && decide (rd e.off 1 < 8) && rd.zero (e.off + 1) 31 &&
        (List.range e.count).all fun i => regionOk rd (e.off + 32 + 32 * i) h.stackMask
    | none => false
  if !(secOk && pairwise (fun a b => !Region.meets a b) gs && gs.all (fun g => !meetsPreload (s.slot c) g) &&
      inRegion gs h.compBase (2 * h.compHalf)) then some Code.imgLayout
  else if !((List.range 8).all fun j => pagesNeeded gs j == 0 || decide (pagesNeeded gs j ≤ avail j)) then
    some Code.imgMemFull
  else if (loaded s c).length ≠ 0 ∧ s.str.split.toNat ≠ splitOf rd then some Code.imgSplit
  else none

/-! ### Check 13: the Press sections (R321, R390) -/

def groupAt (rd : ImgRd) (a : Nat) : GroupEnt :=
  let w := fun (o : Nat) => BitVec.ofNat 32 (rd (a + o) 4)
  { rule := rd a 1, flags := rd (a + 1) 1, kronEvery := rd (a + 2) 2, lrFirst := rd (a + 4) 4, lrLen := rd (a + 8) 4
    wd := w 12, beta1 := w 16, beta2 := w 20, eps := w 24, nsA := w 28, nsB := w 32, nsC := w 36, nsScale := w 40
    delta := w 44, polarIters := rd (a + 48) 2, maskEvery := rd (a + 52) 4 }

/-- A group entry keeps Table 9.4, with `steps` step sizes in the section. -/
def groupOk (rd : ImgRd) (a steps : Nat) : Bool :=
  let g := groupAt rd a
  let only := fun (rules : List Nat) (zero : Bool) => rules.elem g.rule || zero
  decide (g.rule ≤ 4) && decide (g.flags < 16) && only [0, 3] (!g.flags.testBit 1) && only [2] (!g.flags.testBit 3) &&
  only [4] (g.kronEvery == 0) && only [1, 2, 4] (g.beta2 == 0#32) && only [1, 2, 3, 4] (g.eps == 0#32) &&
  only [3] (g.nsA == 0#32 && g.nsB == 0#32 && g.nsC == 0#32 && g.nsScale == 0#32) && only [4] (g.delta == 0#32) &&
  only [4] (g.polarIters == 0) && rd.zero (a + 50) 2 && rd.zero (a + 56) 8 &&
  (g.rule != 4 || (g.kronEvery != 0 && decide (1 ≤ g.polarIters) && decide (g.polarIters ≤ 64) &&
    f32lt 0#32 g.delta)) &&
  decide (1 ≤ g.lrLen) && decide (g.lrFirst + g.lrLen ≤ steps)

def panelAt (rd : ImgRd) (a : Nat) : PanelDesc :=
  let fl := rd (a + 6) 1
  { layerId := rd a 2, group := rd (a + 2) 2, press := rd (a + 4) 1, panel := bitsOf (rd (a + 5) 1) 3 0
    panels := bitsOf (rd (a + 5) 1) 7 4 + 1, frozen := fl.testBit 0, pair := fl.testBit 1, colAxis := fl.testBit 2
    wFmt := rd (a + 7) 1, rows := rd (a + 8) 4, cols := rd (a + 12) 4, first := rd (a + 16) 4, count := rd (a + 20) 4
    slot0 := rd (a + 24) 8, slot1 := rd (a + 32) 8, grad := rd (a + 40) 8, nat_ := rd (a + 48) 8, tr := rd (a + 56) 8
    natAux := rd (a + 64) 8, trAux := rd (a + 72) 8 }

def genAt (rd : ImgRd) (a : Nat) : GenEnt :=
  let fl := rd (a + 3) 1
  ⟨rd a 2, rd (a + 2) 1, fl.testBit 0, fl.testBit 1, BitVec.ofNat 32 (rd (a + 4) 4), BitVec.ofNat 32 (rd (a + 8) 4),
    BitVec.ofNat 32 (rd (a + 12) 4)⟩

/-- What the Press sections of an image hold. -/
structure PressSec where
  policy : Nat
  clipMax : W32
  pressCount : Nat
  groups : List GroupEnt
  steps : List W32
  panels : List PanelDesc
  gens : List GenEnt
  deriving DecidableEq, Repr

/-- Panels of the layer section, as its header counts them (R279), as far as the section's bytes go. The directory counts
layers (Table 7.3). -/
def panelCount (rd : ImgRd) (l : SecEntry) : Nat := min (rd l.off 4) ((l.len - 64) / 144)

def readPress (rd : ImgRd) : Option PressSec :=
  match secOf? rd 5 with
  | none => none
  | some e =>
    let so := e.off + 64 + 64 * e.count
    let (ps, gs) := match secOf? rd 6 with
      | some l =>
        let n := panelCount rd l
        ((List.range n).map fun i => panelAt rd (l.off + 64 + 128 * i),
         (List.range n).map fun i => genAt rd (l.off + 64 + 128 * n + 16 * i))
      | none => ([], [])
    some
      { policy := rd e.off 1, clipMax := BitVec.ofNat 32 (rd (e.off + 4) 4), pressCount := rd (e.off + 8) 4
        groups := (List.range e.count).map fun i => groupAt rd (e.off + 64 + 64 * i)
        steps := (List.range (rd (e.off + 12) 4)).map fun i => BitVec.ofNat 32 (rd (so + 4 * i) 4)
        panels := ps, gens := gs }

/-- A panel descriptor with its generation entry keeps Tables 9.1 and 9.2 (R279, R321). -/
def panelOk (s : State) (rd : ImgRd) (a ga groups stackMask : Nat) : Bool :=
  let d := panelAt rd a
  let g := genAt rd ga
  let side := if d.colAxis then d.cols else d.rows
  let aux := d.wFmt == 4 || d.pair
  decide (d.group < groups) && s.stackFitted d.press && stackMask.testBit d.press && decide (rd (a + 6) 1 < 8) &&
  [0, 1, 2, 3, 4, 7, 8].elem d.wFmt && decide (1 ≤ d.rows) && decide (d.rows ≤ 65536) && decide (1 ≤ d.cols) &&
  decide (d.cols ≤ 65536) && decide (1 ≤ d.count) && decide (d.first + d.count ≤ side) && decide (d.panels ≤ 8) &&
  decide (d.panel < d.panels) && (!d.frozen || (d.slot1 == 0 && d.grad == 0)) &&
  ((d.natAux != 0) == aux) && ((d.trAux != 0) == aux) && rd.zero (a + 80) 48 &&
  g.layerId == d.layerId && g.panel == d.panel && decide (rd (ga + 3) 1 < 4)

/-- Bytes of a published copy, of its natural aux data and of its transposed aux data (Table 9.12). -/
def copyBytes (d : PanelDesc) : Nat :=
  let n := if d.pair then d.rows * d.cols / 2 else d.rows * d.cols
  (n * (fmtOf d.wFmt).width + 7) / 8

def auxBytes (d : PanelDesc) (tr : Bool) : Nat :=
  let r := if tr then d.cols else d.rows
  let c := if tr then d.rows else d.cols
  if d.pair then
    if d.wFmt = 4 then pad64 (d.rows * d.cols / 8) + r * ((c + 31) / 32) else d.rows * d.cols / 8
  else ((r + 31) / 32) * c

/-- Address ranges of a panel: slots, gradient, aux data, and each copy with its publication stamp below it (R390), which
lies in the copy's own region. The panels of a layer stand on different Presses (R278), so no two panels share a range
(R321). -/
def panelSpans (gs : List GroupEnt) (d : PanelDesc) : List (Nat × Nat) :=
  let n := slotBytes (gs.getD d.group .zero) d
  [(d.slot0, n)] ++ (if d.frozen then [] else [(d.slot1, n), (d.grad, 4 * d.elems)]) ++
  [(d.nat_ - 64, 64 + copyBytes d), (d.tr - 64, 64 + copyBytes d)] ++
  (if d.natAux = 0 then [] else [(d.natAux, auxBytes d false), (d.trAux, auxBytes d true)])

/-- Byte and scale-block conditions of R307 at the boundaries between panels. -/
def boundaryOk (d : PanelDesc) : Bool :=
  let side := if d.colAxis then d.cols else d.rows
  let other := if d.colAxis then d.rows else d.cols
  d.first == 0 || ((d.wFmt != 4 || d.first % 32 == 0) &&
    (if d.pair then d.first % 8 == 0 && side % 8 == 0 else d.wFmt != 4 || side % 2 == 0 || other == 1))

/-- The panels `ds` of one layer agree, cover their axis once, and keep R302, R307 and rule 4's shape. -/
def layerOk (gs : List GroupEnt) (ds : List PanelDesc) : Bool :=
  match ds with
  | [] => true
  | d :: _ =>
    let side := if d.colAxis then d.cols else d.rows
    let rule := (gs.getD d.group .zero).rule
    ds.all (fun e => e.rows == d.rows && e.cols == d.cols && e.group == d.group && e.frozen == d.frozen &&
      e.pair == d.pair && e.colAxis == d.colAxis && e.wFmt == d.wFmt && e.panels == d.panels && boundaryOk e) &&
    ds.length == d.panels && pairwise (fun a b => a.press != b.press && a.panel != b.panel &&
      (decide (a.first + a.count ≤ b.first) || decide (b.first + b.count ≤ a.first))) ds &&
    (ds.map (·.count)).sum == side &&
    (rule != 3 || (d.colAxis == decide (d.rows < d.cols) && decide (min d.rows d.cols ≤ 8192))) &&
    (rule != 4 || (ds.length == 1 && decide (d.rows ≤ 8192) && decide (d.cols ≤ 8192))) &&
    (!d.pair || (d.rows % 4 == 0 && d.cols % 4 == 0 && decide (d.wFmt ≤ 4)))

/-- Size of each Fold buffer of Press `j`: the header, the records of all its panels, and a trailer (R316, R399). -/
def foldBytes (p : PressSec) (j : Nat) : Nat :=
  192 + ((p.panels.filter fun d => d.press == j).map fun d => 64 + pad64 (slotBytes (p.groups.getD d.group .zero) d)).sum

/-- Matrix scratch that a panel needs: rule 3 keeps S, T and P, each n × n FP32 values (R302). The sizes of the other
uses are not given (log entry 93). -/
def scratchOf (gs : List GroupEnt) (d : PanelDesc) : Nat :=
  if !d.frozen && (gs.getD d.group .zero).rule == 3 then 12 * min d.rows d.cols * min d.rows d.cols else 0

/-- Matrix scratch on Press `j` for the panels `ps`: the Press works on one panel at a time. -/
def scratchBytes (gs : List GroupEnt) (ps : List PanelDesc) (j : Nat) : Nat :=
  ((ps.filter fun d => d.press == j).map (scratchOf gs)).foldl max 0

/-- Bytes of the staging region that the context takes on Press `j` (R283): generation table, group section, step, norm
and vote records, Fold buffers. -/
def stagingBytes (p : PressSec) (j : Nat) : Nat :=
  2 * foldBytes p j + 64 + 64 * p.groups.length + 4 * p.steps.length + 16 * p.panels.length + 2 * 64 + 64 + 8

/-- The staging need of a loaded context. -/
def stagingOf (x : Ctx) (j : Nat) : Nat :=
  if x.press.present then
    2 * KV.get 0 x.press.foldSize j + 64 + 64 * x.press.groups.length + 4 * x.press.steps.length +
      16 * x.press.panels.length + 2 * 64 + 64 + 8
  else 0

/-- Staging bytes that Press `j` must hold once the sections `p` stand beside the contexts `ds`: what each keeps, and one
matrix scratch, which is the Press's (R283). -/
def stagingNeed (s : State) (ds : List Nat) (p : PressSec) (j : Nat) : Nat :=
  stagingBytes p j + (ds.map fun d => stagingOf (s.slot d) j).sum +
  (ds.map fun d => scratchBytes (s.slot d).press.groups (s.slot d).press.panels j).foldl max (scratchBytes p.groups p.panels j)

/-- Check 13 on the Press sections. -/
def pressCheck (s : State) (c : Nat) (rd : ImgRd) : Bool :=
  match secOf? rd 5, secOf? rd 6 with
  | none, none => true
  | none, some _ => false
  | some e, l =>
    match readPress rd with
    | none => false
    | some p =>
      let h := readHdr rd
      let regs := readRegions rd
      let lsec := match l with
        | some l => decide (64 + 144 * rd l.off 4 ≤ l.len) && rd.zero (l.off + 4) 60 &&
            l.count == ((p.panels.map (·.layerId)).eraseDups).length &&
            (List.range (panelCount rd l)).all fun i =>
              panelOk s rd (l.off + 64 + 128 * i) (l.off + 64 + 128 * panelCount rd l + 16 * i) e.count h.stackMask
        | none => true
      decide (64 + 64 * e.count + 4 * p.steps.length ≤ e.len) && decide (p.policy ≤ 1) && rd.zero (e.off + 1) 3 &&
      rd.zero (e.off + 16) 48 && decide (1 ≤ p.pressCount) && decide (p.pressCount ≤ 16384) &&
      decide (e.count ≤ 1024) && (List.range e.count).all (fun i => groupOk rd (e.off + 64 + 64 * i) p.steps.length) &&
      lsec &&
      p.panels.all (fun d => (panelSpans p.groups d).all fun q =>
        regs.any fun g => !g.host && g.writable && !g.demand && g.stack == d.press && decide (64 ≤ d.nat_) &&
          decide (64 ≤ d.tr) && decide (g.base ≤ q.1) && decide (q.1 + q.2 ≤ g.base + g.size)) &&
      pairwise (fun a b => disjoint a.1 a.2 b.1 b.2) (p.panels.flatMap (panelSpans p.groups)) &&
      ((p.panels.map (·.layerId)).eraseDups).all (fun i => layerOk p.groups (p.panels.filter fun d => d.layerId == i)) &&
      (cmdsOf rd 3).all (fun q =>
        let w := (q.2.body.getD 0 0).toNat
        decide (bitsOf w 15 0 + bitsOf w 31 16 ≤ p.panels.length) &&
          (List.range (bitsOf w 31 16)).all fun i => (p.panels.getD (bitsOf w 15 0 + i) .zero).press == q.1) &&
      (List.range 8).all fun j =>
        !s.stackFitted j || decide (stagingNeed s (loaded s c) p j ≤ 2147483648)

/-- Press jobs of an image without a Press section name panels outside it. -/
def pressAbsent (rd : ImgRd) : Bool :=
  (secOf? rd 5).isSome || (cmdsOf rd 3).all fun q => bitsOf (q.2.body.getD 0 0).toNat 31 0 == 0

/-- Check 13 on the link section (R369). -/
def linkCheck (s : State) (rd : ImgRd) : Bool :=
  match secOf? rd 8 with
  | none => true
  | some e => linkOk s rd e.off e.len (readRegions rd) (cmdsOf rd 4)

/-- Check 13: the Press, memory-layout and link sections, in that order (log entry 42). -/
def check13 (s : State) (c : Nat) (rd : ImgRd) (avail : Nat → Nat) : Option Nat :=
  if !(pressCheck s c rd && pressAbsent rd) then some Code.imgPress
  else
    match layoutCheck s c rd avail with
    | some e => some e
    | none => if linkCheck s rd then none else some Code.imgLink

/-! ### Check 14: the partition (R199) -/

/-- The lowest run of `n` among 16 places that no partition holds, one that is being cleared included. -/
def freeRun (n : Nat) (taken : Nat → Bool) : Option Nat :=
  (List.range (17 - n)).find? fun b => (List.range n).all fun i => !taken (b + i)

/-- Row base and Line base of a partition of `b` row blocks and `n` Lines for slot `c`, whose own record must be free of
a clear that runs (R200, log entry 43). -/
def findPart (s : State) (c b n : Nat) : Option (Nat × Nat) :=
  if (s.part c).clearing then none
  else
  let rowTaken := fun (i : Nat) => s.tub.parts.any fun e =>
    decide (e.2.rowBase.toNat ≤ i) && decide (i < e.2.rowBase.toNat + e.2.rowBlocks.toNat)
  let lineTaken := fun (i : Nat) => s.tub.parts.any fun e =>
    decide (e.2.lineBase.toNat ≤ i) && decide (i < e.2.lineBase.toNat + e.2.lineCount.toNat)
  match freeRun b rowTaken, freeRun n lineTaken with
  | some r, some l => some (r, l)
  | _, _ => none

def setPart (c r b l n : Nat) (s : State) : State :=
  let p : TubPart := ⟨BitVec.ofNat 4 r, BitVec.ofNat 5 b, BitVec.ofNat 4 l, BitVec.ofNat 5 n, false⟩
  { s with tub := { s.tub with parts := KV.set TubPart.none s.tub.parts c p } }

/-! ### Table 7.17 -/

/-- The first check that fails, for the image that `rd` reads (R238). -/
def placeCheck (s : State) (c : Nat) (rd : ImgRd) (avail : Nat → Nat) : Option Nat :=
  let h := readHdr rd
  if !check1 rd then some Code.imgFormat
  else if h.release ≠ 3 then some Code.imgRelease
  else if !check3 rd then some Code.imgDigest
  else if !check4 s rd then some Code.imgUnfitted
  else if h.period ≠ s.stroke.period.toNat then some Code.periodMismatch
  else if !check6 s rd ((loaded s c).flatMap fun d => (s.slot d).panels) then some Code.panelInvalid
  else if !check7 rd then some Code.imgFormat
  else if !check8 rd then some Code.imgCommand
  else if !check9 rd then some Code.imgProgram
  else
    match ftables rd with
    | none => some Code.imgFtable
    | some ts =>
      if 16 < ts.length + ((holders s c).map fun d => (s.slot d).ftMap.length).sum then some Code.imgFtableFull
      else if !check11 s c (imageShares rd) h.imem (imageFetch rd) then some Code.imgQueueFull
      else if !check12 s c h.energy then some Code.imgEnergy
      else
        match check13 s c rd avail with
        | some e => some e
        | none => if (findPart s c h.rowBlocks h.lineCount).isNone then some Code.imgTubFull else none

/-! ### Assignment -/

/-- Load function tables into the lowest free slots of the vector units (R139). -/
def loadTables (c : Nat) (ts : List FTable) (s : State) : State :=
  let used := (holders s c).flatMap fun d => (s.slot d).ftMap
  let free := (List.range 16).filter fun i => !used.elem i
  let m := List.zip free ts
  let k := m.foldl (fun (k : KV FTable) (e : Nat × FTable) => KV.insert k e.1 e.2) s.ftabs
  let s := { s with ftabs := k }
  s.modSlot c fun x => { x with ftMap := m.map (·.1) }

/-- Give a region its device pages, zeroed (R257). -/
def placeRegion (c : Nat) (g : Region) (s : State) : State :=
  if g.host || g.demand then s
  else
    let (ps, s) := takePages g.stack (g.size / pageBig) s
    let s := forEach ps (zeroPage g.stack) s
    s.modSlot c fun x => { x with
      pages := ps.zipIdx.foldl (fun m e => KV.insert m (g.base + e.2 * pageBig)
        ⟨false, true, g.stack, e.1 * pageBig, g.writable, false⟩) x.pages }

/-- The Press data of a context at placement (R281, R283, R285). -/
def placePress (c : Nat) (rd : ImgRd) (s : State) : State :=
  match readPress rd with
  | none => s.modPress c fun _ => Press.empty
  | some p =>
    let s := s.modPress c fun _ =>
      { Press.empty with
        present := true, halt := p.policy == 1, clipMax := p.clipMax, pressCount := p.pressCount, groups := p.groups
        steps := p.steps, panels := p.panels, gens := p.gens.map fun e => { e with pubGen := noStepTag }
        foldSize := (List.range 8).map fun j => (j, foldBytes p j) }
    let x := s.slot c
    let s := forEach (List.zip p.panels p.gens) (fun e s =>
      let s := s.wrVa x (e.1.slotVa e.2.gen.toNat) (slotHeader e.1 e.2.gen.toNat e.2.step.toNat)
      if e.1.frozen then s else s.wrVa x (e.1.slotVa (e.2.gen.toNat + 1)) (slotHeader e.1 0xFFFFFFFF 0)) s
    s.modPress c fun q => (List.range 8).foldl (fun q j => sealTable j none q) q

/-- The CP reads the Stroke image of index `i` for a half: its blocks have the outcomes of R269, and an uncorrectable error,
stored or met while reading (`ue`), makes the half invalid (R224). -/
def fetchRead (c i : Nat) (ue : Bool) (s : State) : Half × State :=
  let x := s.slot c
  let h := fetchHalf s x i
  let h := { h with bad := h.bad || ue }
  let s := match strokeSpan s x i with
    | some (va, n) => readBlocks x va n s
    | none => s
  (h, if h.bad then s.log Code.imgFetch originCp c 0 0 else s)

/-- Fetch an index into the current halves and the next one into the next halves (R223, R224). -/
def fetchBoth (c : Nat) (s : State) : State :=
  let i := (s.slot c).stk.index.toNat
  let (h, s) := fetchRead c i false s
  let (h', s) := fetchRead c (i + 1) false s
  s.modSlot c fun x => { x with cur := h, next := h' }

/-- FETCH_NEXT (R222, R224): read index i + 1 into the next half of a context that runs, unless it is there;
`ue` is an uncorrectable error met while reading. -/
def fetchNext (s : State) (c : Nat) (ue : Bool) : State :=
  let x := s.slot c
  let i := x.stk.index.toNat + 1
  if x.st = .running ∧ x.att.on = true ∧ x.next.index ≠ some i then
    let (h, s) := fetchRead c i ue s
    s.modSlot c fun x => { x with next := h }
  else s

def execFetchNext (c : Slot) (ue : Bool) (s : State) : Res := powered s (fetchNext s c.val ue)

/-- Bytes of a save area (R430). -/
def saveBytes (rowBlocks lines : Nat) : Nat := 4096 + 512 * 1088 * lines + 512 * 131328 * rowBlocks

/-- Assign everything and make the context LOADED (R238). -/
def placeImage (c va : Nat) (rd : ImgRd) (job layout : W32) (s : State) : State :=
  let h := readHdr rd
  let gs := readRegions rd
  let s := match findPart s c h.rowBlocks h.lineCount with
    | some (r, l) => setPart c r h.rowBlocks l h.lineCount s
    | none => s
  let s := if (loaded s c).length = 0 then { s with str := { s.str with split := BitVec.ofNat 3 (splitOf rd) } } else s
  let s := loadTables c ((ftables rd).getD []) s
  let link := match secOf? rd 8 with
    | some e => readLink rd e.off
    | none => LinkSec.none
  let gen := s.mp.tileGen
  let s := s.modSlot c fun x =>
    { x with
      assigned := true, shares := imageShares rd, fetch := imageFetch rd, img := some h, imgVa := va
      panels := readPanels rd, regions := gs, jobEpoch := job, layoutEpoch := layout
      saveKib := BitVec.ofNat 32 (saveBytes h.rowBlocks h.lineCount / 1024), startMark := 0, armed := false
      stk := StkCtx.zero, feed := none, att := .none, pos := [], seqs := [], tileCmds := [], fault := .zero
      nfPending := 0, tileGen := gen, ghlSelf := link.self, ghl := { CtxGhl.empty with link := link }
      watch := .cleared, resume := none, viaResume := false, unload := false, savedLines := [] }
  let s := forEach gs (placeRegion c) s
  let s := fetchBoth c (placePress c rd s)
  s.setCtx c fun x => { x with st := .loaded, stopped := false, holds := 0 }

/-! ### Release -/

/-- Return the device pages of slot `c` that `drop` selects to their pools, and forget all selected pages (R258, R420). -/
def releasePages (c : Nat) (drop : Page → Bool) (s : State) : State :=
  let x := s.slot c
  let s := forEach (x.pages.filter fun e => drop e.2 && !e.2.host) (fun e s => freePage e.2.stack (e.2.addr / pageBig) s) s
  s.modSlot c fun x => { x with pages := x.pages.filter fun e => !drop e.2 }

/-- Give up shares, instruction memory and function-table slots (R427, R429). -/
def releaseShares (c : Nat) (s : State) : State :=
  s.modSlot c fun x =>
    { x with assigned := false, ftMap := [], cur := .none, next := .none, pos := [], seqs := [], tileCmds := [] }

/-- Drop the cached translations of the slot in every engine. -/
def dropXlat (c : Nat) (s : State) : State :=
  let k := s.xcache.map fun (e : Nat × List XEnt) => (e.1, e.2.filter fun q => q.slot != c)
  { s with xcache := k.filter fun e => !e.2.isEmpty }

/-- Remove the context of slot `c` (R427); `keep` selects pages that stay. The registers that a load clears keep
their values until then. -/
def removeCtx (c : Nat) (keep : Page → Bool) (s : State) : State :=
  let s := partitionRelease c s
  let s := releaseShares c s
  let s := dropXlat c (releasePages c (fun p => !keep p) s)
  let s := releaseSeq c s
  s.setCtx c fun x =>
    { Ctx.empty with
      st := .empty, owner := x.owner, acct := x.acct, savedSince := x.savedSince, pages := x.pages, stk := x.stk
      fault := x.fault, watch := { x.watch with cfg := none, seqBase := 0 }
      press := { Press.empty with
        lastDec := x.press.lastDec, lastS := x.press.lastS, lastG := x.press.lastG, lastC := x.press.lastC
        halt := x.press.halt, voteFailed := x.press.voteFailed } }

end Sys2Proof.Machine
end

