-- ==== Sys2Proof/Machine/Save.lean ====
section
/-!
DEFINITION. Save and restore of a context (R429 to R432), the resume from Folds (R398, R399), and the generation sweep of
the Presses (R456). The layout of the save area inside the sizes of R430 is the model's (log entry 44).
-/

namespace Sys2Proof.Machine

/-! ### Ranges of context addresses -/

/-- The pieces of `[va, va + n)` that are resident: in host memory or not, key of the first byte, offset from `va`,
length. -/
def Ctx.spans (x : Ctx) (va n : Nat) : List (Bool × Nat × Nat × Nat) :=
  x.pages.filterMap fun e =>
    let size := if e.2.big then pageBig else pageSmall
    let lo := max va e.1
    let hi := min (va + n) (e.1 + size)
    let key := if e.2.host then e.2.addr else stackKey e.2.stack e.2.addr
    if lo < hi then some (e.2.host, key + (lo - e.1), lo - va, hi - lo) else none

/-- Write zeros to `[va, va + n)`. -/
def State.zeroVa (s : State) (x : Ctx) (va n : Nat) : State :=
  (x.spans va n).foldl (fun (s : State) g =>
    if g.1 then { s with hostMem := KV.eraseRange s.hostMem g.2.1 (g.2.1 + g.2.2.2) }
    else { s with
      stackMem := KV.eraseRange s.stackMem g.2.1 (g.2.1 + g.2.2.2), mem := s.mem.clean g.2.1 g.2.2.2 }) s

/-- The bytes of `[va, va + n)` that are not zero, by offset from `va`. -/
def State.nonzeroVa (s : State) (x : Ctx) (va n : Nat) : List (Nat × Byte) :=
  (x.spans va n).flatMap fun g =>
    ((if g.1 then s.hostMem else s.stackMem).filter fun e =>
      decide (g.2.1 ≤ e.1) && decide (e.1 < g.2.1 + g.2.2.2)).map fun e => (e.1 - g.2.1 + g.2.2.1, e.2)

/-- Does `[va, va + n)` lie within one writable, non-demand region of the layout (R428, R429)? -/
def inSteadyRegion (x : Ctx) (va n : Nat) : Bool :=
  x.regions.any fun g => g.writable && !g.demand && decide (g.base ≤ va) && decide (va + n ≤ g.base + g.size)

/-! ### The save area -/

/-- Logical tiles in order of their number. -/
def allTiles : List Tile := (List.range 16).flatMap fun j => (List.range 32).map fun c => tileOf j c

def tileNum (t : Tile) : Nat := 32 * t.row.val + t.col.val

/-- Row blocks and Lines of the placed image. -/
def Ctx.blocks (x : Ctx) : Nat :=
  match x.img with
  | some h => h.rowBlocks
  | none => 0
def Ctx.lineCount (x : Ctx) : Nat :=
  match x.img with
  | some h => h.lineCount
  | none => 0

/-- S of R430. -/
def Ctx.saveSize (x : Ctx) : Nat := saveBytes x.blocks x.lineCount

/-- First bytes of the header of a save area. -/
def saveHead (c b n : Nat) : List Byte := leBytes 1 c ++ leBytes 1 b ++ leBytes 1 n ++ leBytes 1 0 ++ leBytes 4 0x45564153

/-- A setup record of fields (Table 6.3). -/
def LineCfg.word (g : LineCfg) : Nat :=
  g.fixed.toNat + 2 * g.writer + 16 * g.reader + 256 * g.bankFirst + 4096 * (g.banks - 1) + 65536 * g.rowFirst +
    16777216 * (g.rows - 1) + 4294967296 * g.slack

/-- Bits of a set, 4,096 of them. -/
def setBytes (l : NSet) : List Byte := leBytes 512 (l.foldl (fun n i => n + 2 ^ i) 0)

/-- The record of one Line: fields, set flag, tail peg, generation, slots read; then fill bits and fault bits. -/
def SavedLine.bytes (q : SavedLine) : List Byte :=
  let w := match q.state.cfg with
    | some g => g.word
    | none => 0
  leBytes 8 w ++ leBytes 2 q.state.cfg.isSome.toNat ++ leBytes 2 q.state.tail ++ leBytes 2 q.gen.toNat ++
    leBytes 2 q.state.seen ++ List.replicate 48 0 ++ setBytes q.state.fill ++ setBytes (q.state.fault.map Prod.fst)

/-- The Lines of a slot as a save writes them (R429): at a held index every Line stands in its committed state. -/
def linesOf (s : State) (c : Nat) : List SavedLine :=
  allTiles.flatMap fun t => (List.range (s.part c).lineCount.toNat).filterMap fun l =>
    (lineKey? s c t l).map fun k =>
      let r := s.line k
      ⟨tileNum t, l, ⟨r.cfg, r.tail, r.fill, r.fault, r.seen⟩, lineGen s k⟩

/-- Offset in the save area of the data of row `row` of a bank, and of its poison byte; `b` row blocks, `n` Lines,
`base` the first row block. -/
def rowPlace (b n base t bank row : Nat) : Nat × Nat :=
  let i := 16 * bank + row % 16
  let o := 4096 + 1088 * 512 * n + (t * b + (row / 16 - base)) * 131328
  (o + 512 * i, o + 131072 + i)

/-- Rows of the partition in a physical tile, as bank and row. -/
def partRows (p : TubPart) : List (Nat × Nat) :=
  (List.range 16).flatMap fun bank =>
    (List.range (16 * p.rowBlocks.toNat)).map fun r => (bank, 16 * p.rowBase.toNat + r)

/-- Poison bits of a row, one for each word. -/
def poisonByte (s : State) (k : Nat) : Nat :=
  (words8.map fun w => if s.tub.poisoned k w then 2 ^ w else 0).sum

/-- Row keys of the partition that may hold poison. -/
def poisonRows (s : State) (c : Nat) (pt : Nat) : List Nat :=
  let p := s.part c
  if (List.range p.rowBlocks.toNat).any fun i => NSet.mem s.tub.poisonBlocks (p.rowBase.toNat + i) then
    (partRows p).map fun e => rowKey pt e.1 e.2
  else
    ((s.tub.poisonExc.map (· / 8)).eraseDups).filter fun k => k / 4096 == pt &&
      decide (p.rowBase.toNat ≤ blockOf k) && decide (blockOf k < p.rowBase.toNat + p.rowBlocks.toNat)

/-- Every read of a save checks its row (R201, R429). -/
def checkPart (c : Nat) (s : State) : State :=
  let p := s.part c
  let rows := ((s.tub.errs.map fun e => e.1 / 8).eraseDups).filter fun k =>
    decide (p.rowBase.toNat ≤ blockOf k) && decide (blockOf k < p.rowBase.toNat + p.rowBlocks.toNat)
  forEach rows (fun k s => checkRow k 0 s) s

/-- Write the save area of slot `c` (R429 step 2). -/
def writeSave (c va : Nat) (s : State) : State :=
  let s := checkPart c s
  let x := s.slot c
  let p := s.part c
  let b := p.rowBlocks.toNat
  let n := p.lineCount.toNat
  let base := p.rowBase.toNat
  let ls := linesOf s c
  let tub := s.tubMem
  let old := s
  let s := (s.zeroVa x va x.saveSize).wrVa x va (saveHead c x.blocks x.lineCount)
  let s := forEach ls (fun q s => s.wrVa x (va + 4096 + 1088 * (q.tile * n + q.line)) q.bytes) s
  let s := forEach allTiles (fun t s =>
    let pt := old.physTile t
    let mine := tub.filter fun e => e.1 / 2097152 == pt && decide (base ≤ blockOf (e.1 / 512)) &&
      decide (blockOf (e.1 / 512) < base + b)
    let s := forEach mine (fun e s =>
      let k := e.1 / 512
      s.wrVa x (va + (rowPlace b n base (tileNum t) (k / 256 % 16) (k % 256)).1 + e.1 % 512) [e.2]) s
    forEach (poisonRows old c pt) (fun k s =>
      s.wrVa x (va + (rowPlace b n base (tileNum t) (k / 256 % 16) (k % 256)).2) (leBytes 1 (poisonByte old k))) s) s
  s.modSlot c fun x => { x with savedLines := ls }

/-- Write the rows of the partition back from the save area, with their poison (R432 step 2). -/
def readRows (c va : Nat) (s : State) : State :=
  let x := s.slot c
  let p := s.part c
  let b := p.rowBlocks.toNat
  let n := p.lineCount.toNat
  let base := p.rowBase.toNat
  let start := 4096 + 1088 * 512 * n
  let s := clearBlocks base b s
  forEach (s.nonzeroVa x va x.saveSize) (fun e s =>
    if e.1 < start then s
    else
      let o := e.1 - start
      let i := o % 131328
      let t := tileOf (o / 131328 / b / 32) (o / 131328 / b % 32)
      let block := base + o / 131328 % b
      let place := fun (i : Nat) => rowKey (s.physTile t) (i / 16) (16 * block + i % 16)
      if i < 131072 then { s with tubMem := KV.set 0 s.tubMem (512 * place (i / 512) + i % 512) e.2 }
      else
        let k := place (i - 131072)
        { s with tub := words8.foldl (fun u w => if e.2.getLsbD w then u.setPoison k w true else u) s.tub }) s

/-- Members of a set of the save area. -/
def setOfBytes (b : List Byte) : NSet := (List.range (8 * b.length)).filter fun i => (b.getD (i / 8) 0).getLsbD (i % 8)

/-- The Line that a record of the save area describes. What a fault bit remembers beside its slot has no place in the
record: `kept` has it (R429, R432, log entry 44). -/
def savedLineOf (b : List Byte) (tile line : Nat) (kept : List SavedLine) : SavedLine :=
  let num := fun (o n : Nat) => leNat ((b.drop o).take n)
  let old := kept.find? fun q => q.tile == tile && q.line == line
  let bit := fun (i : Nat) => match old.bind fun q => KV.find? q.state.fault i with
    | some f => f
    | none => ⟨0, tile % 32, 0, 0⟩
  ⟨tile, line,
    ⟨if num 8 2 = 0 then none else some (lineCfgOf (BitVec.ofNat 64 (num 0 8))), num 10 2, setOfBytes ((b.drop 64).take 512),
      (setOfBytes ((b.drop 576).take 512)).map fun i => (i, bit i), num 14 2⟩, BitVec.ofNat 16 (num 12 2)⟩

/-- Restore the Lines from the records of the save area (R432 step 3). -/
def restoreLines (c va : Nat) (s : State) : State :=
  let x := s.slot c
  let n := (s.part c).lineCount.toNat
  forEach ((List.range (512 * n)).map fun i =>
    savedLineOf (s.rdVa x (va + 4096 + 1088 * i) 1088) (i / n) (i % n) x.savedLines) (fun q s =>
    match lineKey? s c (tileOf (q.tile / 32) (q.tile % 32)) q.line with
    | some k =>
      let gen := q.gen - s.tub.genBase - KV.get 0 s.tub.genLine (k % 16)
      s.modLine k fun _ =>
        { LineRec.unset with
          cfg := q.state.cfg, tail := q.state.tail, resv := q.state.tail, fill := q.state.fill
          fault := q.state.fault, seen := q.state.seen, gen := gen
          ckpt := if q.state.cfg.isSome then some q.state else none }
    | none => s) s

/-! ### Steps of a save -/

/-- The mailbox whose accepted command of opcode `op` for slot `c` is under way. -/
def busyMbox (s : State) (op c : Nat) : Option Nat :=
  mboxes.find? fun m =>
    let b := s.mbx m
    b.st == .accepted && b.stage == .busy && match b.req with
      | some r => r.opcode == op && r.slot == some c
      | none => false

/-- Complete the command of opcode `op` for slot `c`. -/
def finishCmd (op c status : Nat) (s : State) : State :=
  match busyMbox s op c with
  | some m => s.respond m status []
  | none => s

/-- Why OP_SAVE is refused (R429), beside its state and fields. -/
def saveRefused (s : State) (c va : Nat) : Bool :=
  let x := s.slot c
  va % 4096 != 0 || !inSteadyRegion x va x.saveSize ||
    ((x.panels.filter fun p => p.cls == 2).isEmpty && !(loaded s c).isEmpty)

/-- Step 1 of R429. -/
def saveBegin (c va : Nat) (s : State) : State :=
  let s := s.setCtx c fun x => { x with st := .held, holds := x.holds ||| holdBit 10, att := { x.att with on := false } }
  s.modSlot c fun x =>
    { x with save := some ⟨va, true, false⟩, acct := { x.acct with preempts := sat32 x.acct.preempts 1 } }

/-- Step 3 of R429. -/
def saveFinish (c : Nat) (s : State) : State :=
  match (s.slot c).save with
  | some j =>
    if j.written then
      let s := releaseShares c (partitionRelease c s)
      let s := s.setCtx c fun x => { x with st := .saved, save := none, saveVa := j.va }
      finishCmd Op.save c 0 s
    else s
  | none => s

/-- SAVE_WRITE_DONE: the last byte of the save area is written. -/
def saveWritten (c : Nat) (s : State) : State :=
  match (s.slot c).save with
  | some j =>
    if j.begun ∧ j.written = false then
      let s := (writeSave c j.va s).modSlot c fun x => { x with save := some { j with written := true } }
      if s.stroke.mode = 0#2 then saveFinish c s else s
    else s
  | none => s

/-! ### Steps of a restore -/

/-- The checks of R432: 10, 11, 12 and 14 of Table 7.17, then the header of the save area. -/
def restoreCheck (s : State) (c : Nat) : Option Nat :=
  let x := s.slot c
  match x.img with
  | none => some Code.saveArea
  | some h =>
    match ftables (imgRd s x x.imgVa) with
    | none => some Code.imgFtable
    | some ts =>
      if 16 < ts.length + ((holders s c).map fun d => (s.slot d).ftMap.length).sum then some Code.imgFtableFull
      else if !check11 s c x.shares h.imem x.fetch then some Code.imgQueueFull
      else if !check12 s c h.energy then some Code.imgEnergy
      else if (findPart s c h.rowBlocks h.lineCount).isNone then some Code.imgTubFull
      else if s.rdVa x x.saveVa 8 ≠ saveHead c h.rowBlocks h.lineCount then some Code.saveArea
      else none

/-- Step 1 of R432. -/
def restoreBegin (c : Nat) (s : State) : State :=
  let x := s.slot c
  let s := match findPart s c x.blocks x.lineCount with
    | some (r, l) => setPart c r x.blocks l x.lineCount s
    | none => s
  let s := loadTables c ((ftables (imgRd s x x.imgVa)).getD []) s
  s.modSlot c fun x => { x with assigned := true, restore := some ⟨x.saveVa, true, false⟩ }

/-- Step 5 of R432. -/
def restoreFinish (c : Nat) (s : State) : State :=
  match (s.slot c).restore with
  | some j =>
    if j.written then
      let s := s.setCtx c fun x =>
        { x with st := .held, holds := x.holds &&& ~~~ holdBit 10, restore := none, savedLines := [] }
      finishCmd Op.restore c 0 s
    else s
  | none => s

/-! ### The generation sweep -/

/-- A mismatched or poisoned panel found by a sweep (R456, R510). -/
def sweepPanel (c i code : Nat) (s : State) : State :=
  let d := (s.press c).panel i
  let arg := BitVec.ofNat 32 (d.layerId + 65536 * d.panel)
  let s := s.modPrs fun k =>
    if code = Code.prsPoison then { k with poison := sat32 k.poison 1 }
    else { k with genMismatch := sat32 k.genMismatch 1 }
  ((s.log code originHw c arg 0).postCtx c code arg).modSlot c fun x => { x with holds := x.holds ||| holdBit 8 }

/-- Does the table seal of Press `j` match its generation entries (R455)? -/
def sealOk (p : Press) (j : Nat) : Bool :=
  match KV.find? p.seals j with
  | some q => q.2 == crc32c ((p.onPress j).flatMap fun i => genWord (p.gen i))
  | none => true

/-- The sweep of one context (R456). -/
def sweepCtx (c : Nat) (s : State) : State :=
  let x := s.slot c
  if x.press.present = false ∨ [CtxSt.loaded, CtxSt.held, CtxSt.saved].elem x.st = false then s
  else
    forEach (List.range 8) (fun j s =>
      let whole := sealOk (s.press c) j
      forEach ((s.press c).onPress j) (fun i s =>
        if whole = false then sweepPanel c i Code.prsGenMismatch s
        else
          let s := readSlot c i true s
          match slotRefusal s c i true with
          | some (code, _) => sweepPanel c i code s
          | none => s) s) s

/-- RESTORE_WRITE_DONE: steps 2 to 4 of R432 are done, the tile generations are recorded (R439) and the Presses have
swept (R456). -/
def restoreWritten (c : Nat) (s : State) : State :=
  match (s.slot c).restore with
  | some j =>
    if j.written then s
    else
      let s := fetchBoth c (restoreLines c j.va (readRows c j.va s))
      let gen := s.mp.tileGen
      let s := s.modSlot c fun x => { x with tileGen := gen, restore := some { j with written := true } }
      let s := forEach slots8 sweepCtx s
      if s.stroke.mode = 0#2 then restoreFinish c s else s
  | none => s

/-! ### Resume from a Fold (R398) -/

/-- Presses whose Folds a resume reads: those with panels, and the lead Press. -/
def resumePresses (p : Press) : List Nat := (List.range 8).filter fun j => j == 0 || !(p.onPress j).isEmpty

/-- Offset of the watch trailer in a Fold of Press `j` (R399). -/
def trailerOff (p : Press) (j : Nat) : Nat := 128 + foldLen p (p.onPress j)

/-- What the Folds that `areas` names agree on, when R398 accepts them: resume_index, layout_epoch, trailer. -/
def resumeCheck (s : State) (c areas : Nat) : Option (Nat × W32 × List Byte) :=
  let p := s.press c
  let js := resumePresses p
  let buf := fun (j : Nat) => KV.get [] p.folds (2 * j + (areas / 2 ^ j) % 2)
  let f := fun (j o n : Nat) => leNat ((buf j).drop o |>.take n)
  let ok := js.all fun j => (parseFold p j (p.onPress j) (buf j)).isSome
  let resume := f 0 20 6
  let epoch := f 0 28 4
  let steps := ((js.map fun j => f j 16 4).filter fun n => n != 0xFFFFFFFF).eraseDups
  let t := ((buf 0).drop (trailerOff p 0)).take 64
  let g := fun (o n : Nat) => leNat ((t.drop o).take n)
  if s.stackFitted 0 = true ∧ p.present = true ∧ ok = true ∧
      js.all (fun j => f j 20 6 == resume && f j 28 4 == epoch) = true ∧ steps.length ≤ 1 ∧ t.length = 64 ∧
      g 0 4 = 0x52544157 ∧ g 4 6 = resume ∧ g 10 2 = 0 ∧ (t.drop 40).all (· == 0#8) = true then
    some (resume, BitVec.ofNat 32 epoch, t)
  else none

/-- Steps 1 and 2 of R398, and the jobs of step 3. -/
def resumeApply (c areas mark : Nat) (r : Nat × W32 × List Byte) (s : State) : State :=
  let js := resumePresses (s.press c)
  let s := s.setCtx c fun x =>
    { x with
      st := .loaded, stopped := false, holds := 0, layoutEpoch := r.2.1, armed := true
      startMark := BitVec.ofNat 48 mark, viaResume := true
      stk := { x.stk with index := BitVec.ofNat 48 r.1 }
      att := .none, fault := .zero
      watch := x.watch.restore r.2.2
      resume := some ⟨areas, js.flatMap fun j => [(j, 9), (j, 6), (j, 7)]⟩
      press := { x.press with r297 := false, due := [], jobs := [], normAt := none, nfAt := none, fails := [], curRec := [], recs := [], leadFold := none } }
  let w := (s.slot c).watch
  let s := forEach (List.range (match w.cfg with
      | some g => g.seqShare
      | none => 0)) (fun i s =>
    s.modSeqEnt (w.seqBase + i) fun _ => { SeqEnt.cleared with owned := true, ctx := c }) s
  fetchBoth c s

def execSaveWriteDone (c : Slot) (s : State) : Res := powered s (saveWritten c.val s)
def execRestoreWriteDone (c : Slot) (s : State) : Res := powered s (restoreWritten c.val s)

end Sys2Proof.Machine
end

