-- ==== Sys2Proof/Machine/SlotCmds.lean ====
section
/-!
DEFINITION. The commands that the CP serves (R418 to R428, R333, R360, R384 to R393, R429, R432, R457), and the resets of
R404. A command that acts in an opening band has its effect here and is run by Band.lean.
-/

namespace Sys2Proof.Machine

/-! ### Fields -/

/-- Are all payload bytes but byte 0 and the named fields (offset and length) zero (R419)? -/
def Request.only (r : Request) (fs : List (Nat × Nat)) : Bool :=
  (List.range r.payload.length).all fun i =>
    i == 0 || fs.any (fun f => decide (f.1 ≤ i) && decide (i < f.1 + f.2)) || r.payload.getD i 0 == 0#8

/-- Named fields of a slot command (Table 13.5). -/
def fieldsOf (op : Nat) : List (Nat × Nat) :=
  if op = Op.load then [(8, 8), (16, 4), (20, 4)]
  else if op = Op.start then [(8, 6)]
  else if op = Op.save then [(8, 8)]
  else if op = Op.reshard then [(8, 8), (16, 4)]
  else if op = Op.resume then [(8, 6), (16, 1)]
  else if op = Op.pageMap ∨ op = Op.pageUnmap then [(1, 4), (8, 8), (16, 8), (24, 4)]
  else if op = Op.copy then [(1, 4), (8, 8), (16, 8), (24, 8)]
  else if op = Op.watch then [(16, 32)]
  else if op = Op.decide then [(1, 1)]
  else if op = Op.feed then [(8, 8), (16, 4), (20, 2), (22, 2), (24, 6)]
  else if op = Op.peerMap then [(8, 8), (16, 4)]
  else []

/-- States in which a slot command is allowed (Table 13.3). -/
def stateOk (op : Nat) (x : Ctx) : Bool :=
  let is := fun (l : List CtxSt) => l.elem x.st
  if op = Op.load then is [.empty]
  else if op = Op.start then is [.loaded]
  else if op = Op.unload ∨ op = Op.decide then !is [.empty]
  else if op = Op.release then is [.held] && !x.stopped
  else if op = Op.reshard then is [.held]
  else if op = Op.save then is [.running, .held]
  else if op = Op.restore then is [.saved]
  else if op = Op.resume then is [.loaded, .held]
  else if op = Op.pageUnmap then !is [.running]
  else if op = Op.watch ∨ op = Op.feed then is [.loaded, .held]
  else if op = Op.peerMap then is [.loaded, .held, .saved]
  else true

/-- Commands that need the stacks, which DOZE keeps in self-refresh with the memory-side dies off (Table 16.7, log
entry 98). -/
def needsStacks (op : Nat) : Bool := [Op.load, Op.restore, Op.pageMap, Op.pageUnmap, Op.copy].elem op

/-- The slot of a request and the refusal of its format and state, if any (log entry 45). -/
def slotCheck (r : Request) (s : State) : Except Nat Nat :=
  match r.slot with
  | none => .error Code.mbxFormat
  | some c =>
    if 8 ≤ c ∨ r.only (fieldsOf r.opcode) = false then .error Code.mbxFormat
    else if stateOk r.opcode (s.slot c) = false ∨ (s.power.doze && needsStacks r.opcode) = true then .error Code.mbxState
    else .ok c

/-- What a command comes to when it is applied: refused, complete, or still under way. -/
inductive CmdRes where
  | refuse (code : Nat)
  | done (s : State)
  | wait (s : State)

/-! ### OP_LOAD and OP_START -/

/-- Do `n` bytes at `va` lie in pre-load pages of the slot (R420)? -/
def inPreload (x : Ctx) (va n : Nat) : Bool :=
  (List.range ((va % pageBig + n + pageBig - 1) / pageBig)).all fun i =>
    match KV.find? x.pages (va - va % pageBig + i * pageBig) with
    | some p => p.preload
    | none => false

/-- Does the image at `va` lie in pre-load pages: first its header, then all of it? -/
def imageInPreload (s : State) (x : Ctx) (va : Nat) : Bool :=
  inPreload x va 128 && inPreload x va (max 128 (s.vaNum x (va + 64) 4))

/-- OP_LOAD (R238, R419). -/
def loadCmd (r : Request) (c : Nat) (s : State) : CmdRes :=
  let x := s.slot c
  let va := r.num 8 8
  if imageInPreload s x va = false then .refuse Code.mbxAddr
  else
    let rd := imgRd s x va
    match placeCheck s c rd (pagesFree s) with
    | some e => .refuse e
    | none => .done (placeImage c va rd (BitVec.ofNat 32 (r.num 16 4)) (BitVec.ofNat 32 (r.num 20 4)) s)

/-- OP_START (R426). -/
def startCmd (r : Request) (c : Nat) (s : State) : CmdRes :=
  let m := r.num 8 6
  if s.stroke.mode = 0#2 ∨ (s.slot c).armed = true then .refuse Code.mbxState
  else if m ≤ s.stroke.mark.toNat + 1 then .refuse Code.ctxStartLate
  else .done (s.modSlot c fun x => { x with armed := true, startMark := BitVec.ofNat 48 m, viaResume := false })

/-! ### OP_UNLOAD, OP_RELEASE and the resets of R404 -/

/-- The context leaves in this band, or, when it runs, is stopped for the next one (R427). -/
def unloadStep (c : Nat) (s : State) : State :=
  if (s.slot c).st = .running then
    s.setCtx c fun x => { x with st := .held, stopped := true, unload := true, att := { x.att with on := false } }
  else finishCmd Op.unload c 0 (removeCtx c (fun _ => false) s)

/-- OP_UNLOAD in its opening band. -/
def unloadCmd (c : Nat) (s : State) : CmdRes :=
  if (s.slot c).st = .running then .wait (unloadStep c s) else .done (removeCtx c (fun _ => false) s)

/-- OP_RELEASE (R275, R425). -/
def releaseCmd (c : Nat) (s : State) : CmdRes :=
  .done (s.modSlot c fun x =>
    { x with holds := x.holds &&& 0b110000#6, fault := .zero, press := { x.press with r297 := false } })

/-- A function level reset takes the context of slot `c` away as OP_UNLOAD does (R404). -/
def resetSlot (c : Nat) (s : State) : State :=
  if (s.slot c).st = .empty then s
  else if s.stroke.mode = 0#2 then removeCtx c (fun _ => false) s
  else s.modSlot c fun x => { x with unload := true }

def dropRing (m : Nat) (s : State) : State := s.modMbx m fun b => { b with ring := none }

/-- FLR_VF (R404). -/
def flrVf (v : Fin 8) (s : State) : State :=
  if s.hamper.vfEnabled = true ∧ v ≠ 0 ∧ v.val ≤ s.hamper.numVfs.val then
    let s := dropRing (1 + v.val) s
    if (s.slot v.val).owner = v then resetSlot v.val s else s
  else s

/-- FLR_PF (R404). -/
def flrPf (s : State) : State := forEach slots8 resetSlot (forEach mboxes dropRing s)

/-- VF_ENABLE_CHANGE (R404). -/
def vfChange (en : Bool) (n : Fin 8) (s : State) : State :=
  let s := s.modHamper fun h => { h with vfEnabled := en, numVfs := n }
  forEach slots8 (fun c s => s.modSlot c fun x => x.own s.hamper c) s

/-! ### Pages (R256, R420) -/

/-- The fields of a page command. -/
structure PageCmd where
  host : Bool
  big : Bool
  stack : Nat
  writable : Bool
  va : Nat
  hostAddr : Nat
  pages : Nat

def PageCmd.size (q : PageCmd) : Nat := if q.big then pageBig else pageSmall
def PageCmd.bytes (q : PageCmd) : Nat := q.pages * q.size

/-- The fields, or F_MBX_FORMAT, or F_MBX_ADDR for a range that is misaligned or crosses 2^47 (R420). -/
def pageCmdOf (s : State) (r : Request) : Except Nat PageCmd :=
  let q : PageCmd := ⟨r.num 1 1 == 1, r.num 2 1 == 1, r.num 3 1, (r.num 4 1).testBit 0, r.num 8 8, r.num 16 8, r.num 24 4⟩
  if 1 < r.num 1 1 ∨ 1 < r.num 2 1 ∨ 1 < r.num 4 1 ∨ q.pages = 0 ∨ 65536 < q.pages ∨ (!q.host && !q.big) = true ∨
      (!q.host && !s.stackFitted q.stack) = true ∨ (q.host = true ∧ q.stack ≠ 0) then .error Code.mbxFormat
  else if q.va % q.size ≠ 0 ∨ two48 < q.va + q.bytes ∨ (q.host = false ∧ vaHost < q.va + q.bytes) ∨
      (q.host = true ∧ q.va < vaHost) then .error Code.mbxAddr
  else .ok q

/-- The layout region that the range lies in, of its kind, page size and stack (R420). -/
def pageRegion (x : Ctx) (q : PageCmd) : Option Region :=
  x.regions.find? fun g => g.host == q.host && g.big == q.big && g.stack == q.stack && (q.host || g.demand) &&
    decide (g.base ≤ q.va) && decide (q.va + q.bytes ≤ g.base + g.size)

/-- Addresses of the pages of a range. -/
def PageCmd.addrs (q : PageCmd) : List Nat := (List.range q.pages).map fun i => q.va + i * q.size

/-- Does a range touch a resident page? -/
def touchesPage (x : Ctx) (q : PageCmd) : Bool :=
  x.pages.any fun e => decide (e.1 < q.va + q.bytes) && decide (q.va < e.1 + (if e.2.big then pageBig else pageSmall))

/-- May the range become pre-load pages: the slot is EMPTY, or it is HELD and the range meets no region (R419, R420,
log entry 41)? -/
def mayPreload (x : Ctx) (q : PageCmd) : Bool :=
  !q.host && (x.st == .empty || (x.st == .held && x.regions.all fun g =>
    decide (g.base + g.size ≤ q.va) || decide (q.va + q.bytes ≤ g.base)))

/-- Every engine forgets the changed pages (R255). -/
def forgetPages (c : Nat) (q : PageCmd) (s : State) : State :=
  let keep := fun (e : XEnt) => e.slot != c || decide (e.va < q.va) || decide (q.va + q.bytes ≤ e.va)
  let k := s.xcache.map fun (e : Nat × List XEnt) => (e.1, e.2.filter keep)
  { s with xcache := k.filter fun e => !e.2.isEmpty }

/-- Make device pages resident, zeroed. -/
def mapDevice (c : Nat) (q : PageCmd) (writable preload : Bool) (s : State) : State :=
  let (ps, s) := takePages q.stack q.pages s
  let s := forEach ps (zeroPage q.stack) s
  s.modSlot c fun x => { x with
    pages := (List.zip q.addrs ps).foldl (fun (m : KV Page) e =>
      KV.insert m e.1 ⟨false, true, q.stack, e.2 * pageBig, writable, preload⟩) x.pages }

/-- Make host pages resident. -/
def mapHost (c : Nat) (q : PageCmd) (writable : Bool) (s : State) : State :=
  s.modSlot c fun x => { x with
    pages := q.addrs.foldl (fun (m : KV Page) a =>
      KV.insert m a ⟨true, q.big, 0, q.hostAddr + (a - q.va), writable, false⟩) x.pages }

/-- OP_PAGE_MAP (R420). -/
def mapCmd (r : Request) (c : Nat) (s : State) : CmdRes :=
  let x := s.slot c
  match pageCmdOf s r with
  | .error e => .refuse e
  | .ok q =>
    let short := !q.host && decide (pagesFree s q.stack < q.pages)
    if touchesPage x q then .refuse Code.mbxAddr
    else
      match (if x.st = .empty then none else pageRegion x q), mayPreload x q with
      | some g, _ =>
        if q.host = true ∧ q.hostAddr % q.size ≠ 0 then .refuse Code.mbxAddr
        else if short then .refuse Code.mbxNoPages
        else
          let w := q.writable && g.writable
          .done (forgetPages c q (if q.host then mapHost c q w s else mapDevice c q w false s))
      | none, true => if short then .refuse Code.mbxNoPages else .done (mapDevice c q true true s)
      | none, false => .refuse Code.mbxAddr

/-- OP_PAGE_UNMAP (R256, R420). -/
def unmapCmd (r : Request) (c : Nat) (s : State) : CmdRes :=
  let x := s.slot c
  match pageCmdOf s r with
  | .error e => .refuse e
  | .ok q =>
    let mine := fun (p : Page) => p.host == q.host && p.big == q.big && p.stack == q.stack &&
      (p.preload == (x.st == .empty))
    let all := q.addrs.all fun a =>
      match KV.find? x.pages a with
      | some p => mine p
      | none => false
    if all = false ∨ (x.st ≠ .empty ∧ (pageRegion x q).isNone = true) then .refuse Code.mbxAddr
    else
      let gone := x.pages.filter fun e => decide (q.va ≤ e.1) && decide (e.1 < q.va + q.bytes)
      let s := forEach (gone.filter fun e => !e.2.host) (fun e s => freePage e.2.stack (e.2.addr / pageBig) s) s
      let s := s.modSlot c fun x => { x with
        pages := x.pages.filter fun e => decide (e.1 < q.va) || decide (q.va + q.bytes ≤ e.1) }
      .done (forgetPages c q s)

/-! ### OP_COPY (R421) -/

/-- Why OP_COPY is refused before any byte moves (log entry 40 for an EMPTY slot). -/
def copyCheck (r : Request) (c : Nat) (s : State) : Option Nat :=
  let x := s.slot c
  let va := r.num 8 8
  let n := r.num 24 8
  if 1 < r.num 1 1 ∨ 1 < r.num 2 1 ∨ n = 0 ∨ n % 64 ≠ 0 ∨ va % 64 ≠ 0 ∨ r.num 16 8 % 64 ≠ 0 ∨
      (r.num 2 1 = 1 ∧ (7 < r.num 3 1 ∨ 1 < r.num 4 1)) then some Code.mbxFormat
  else if r.num 2 1 = 1 then
    if [CtxSt.loaded, CtxSt.held].elem x.st = false then some Code.mbxState
    else if s.stackFitted (r.num 3 1) = false ∨ KV.get 0 x.press.foldSize (r.num 3 1) < va + n then some Code.mbxAddr
    else none
  else if vaHost < va + n ∨ x.mapped va n (r.num 1 1 == 0) = false then some Code.mbxAddr
  else none

/-- Move `n` bytes (R421). -/
def copyMove (r : Request) (c n : Nat) (s : State) : State :=
  let x := s.slot c
  let va := r.num 8 8
  let ha := r.num 16 8
  let area := 2 * r.num 3 1 + r.num 4 1
  if r.num 2 1 = 1 then
    let b := KV.get [] x.press.folds area
    if r.num 1 1 = 0 then
      s.modPress c fun p => { p with folds := KV.set [] p.folds area (putFold b va (s.rdHost ha n)) }
    else s.wrHost ha ((b.drop va).take n ++ List.replicate (n - (b.drop va).length) 0)
  else if r.num 1 1 = 0 then s.wrVa x va (s.rdHost ha n)
  else
    let (data, s) := ghlRead s x va n
    s.wrHost ha data

/-- COPY_COMPLETE: the copy ends, after `err` bytes when a PCIe error ends it (R421). -/
def copyDone (m : Nat) (err : Option Nat) (s : State) : State :=
  let b := s.mbx m
  match b.req with
  | some r =>
    if b.st = .accepted ∧ b.stage = .busy ∧ r.opcode = Op.copy then
      let c := r.slot.getD 0
      let all := r.num 24 8
      let n := match err with
        | some k => min all (k / 64 * 64)
        | none => all
      (copyMove r c n s).respond m (if err.isSome then Code.mbxDma else 0) (leBytes 8 n)
    else s
  | none => s

/-! ### OP_WATCH, OP_DECIDE, OP_FEED, OP_PEER_MAP -/

def watchCmd (r : Request) (c : Nat) (s : State) : CmdRes :=
  match configWatch c ((r.payload.drop 16).take 32) s with
  | .ok t => .done t
  | .error e => .refuse e

def decideCmd (r : Request) (c : Nat) (s : State) : CmdRes :=
  if 7 < r.num 1 1 then .refuse Code.mbxFormat else .done (pressDecision c (r.num 1 1) s)

/-- OP_FEED (R428). -/
def feedCmd (r : Request) (c : Nat) (s : State) : CmdRes :=
  let f : Feed := ⟨r.num 8 8, r.num 16 4, r.num 20 2, r.num 22 2, r.num 24 6⟩
  if f.nSlots = 0 then
    .done (s.modSlot c fun x => { x with feed := none, holds := x.holds &&& ~~~ holdBit 9 })
  else if f.va % 512 ≠ 0 ∨ f.slotBytes = 0 ∨ f.slotBytes % 512 ≠ 0 ∨ 256 < f.nSlots ∨ f.every = 0 then
    .refuse Code.mbxFormat
  else if inSteadyRegion (s.slot c) f.va (f.slotBytes * f.nSlots) = false then .refuse Code.mbxAddr
  else
    let fresh := (s.slot c).feed.isNone
    let s := s.modSlot c fun x => { x with feed := some f }
    .done (if fresh then s.modMbx (1 + c) fun b => { b with feedPosted := 0, feedDone := 0 } else s)

/-- OP_PEER_MAP as it is served: the map joins the request, and takes effect in the band (R360, R385); a PCIe error leaves
the request without it (R422). -/
def peerServe (r : Request) (s : State) : Request :=
  if s.hostFails (r.num 8 8) 4096 then r else { r with payload := r.payload ++ s.rdHost (r.num 8 8) 4096 }

/-- OP_PEER_MAP with its map behind the payload. -/
def peerCmd (r : Request) (c : Nat) (s : State) : CmdRes :=
  let e := r.num 16 4
  let bs := r.payload.drop 24
  let ents := (List.range 2048).map fun l => leNat ((bs.drop (2 * l)).take 2)
  if e ≤ (s.slot c).jobEpoch.toNat then .refuse Code.epochOrder
  else if bs.isEmpty then .refuse Code.mbxDma
  else if ents.any (fun v => bitsOf v 14 11 != 0) then .refuse Code.mbxFormat
  else
    let peers : KV W16 := ents.zipIdx.filterMap fun v =>
      if v.1.testBit 15 then some (v.2, BitVec.ofNat 16 v.1) else none
    .done ((s.modSlot c fun x => { x with jobEpoch := BitVec.ofNat 32 e }).modCtxGhl c fun g => { g with peers := peers })

/-! ### OP_SAVE, OP_RESTORE, OP_RESHARD, OP_RESUME -/

def saveCmd (r : Request) (c : Nat) (s : State) : CmdRes :=
  if saveRefused s c (r.num 8 8) then .refuse Code.saveArea else .wait (saveBegin c (r.num 8 8) s)

def restoreCmd (c : Nat) (s : State) : CmdRes :=
  match restoreCheck s c with
  | some e => .refuse e
  | none => .wait (restoreBegin c s)

/-- Received REDUCE packets that are still unmatched are dropped and counted (R393). -/
def dropReduces (c : Nat) (s : State) : State :=
  let rs := (s.slot c).ghl.redIn
  let s := forEach rs (fun r s => match r.port with
    | some p => s.modPort p fun g => { g with owed := KV.upd 0 g.owed 1 (· + (1 + r.data.length / 32)) }
    | none => s) s
  staleDrop rs.length (s.modCtxGhl c fun g => { g with redIn := [] })

/-- OP_RESHARD is accepted, or refused for its epoch (R393). -/
def reshardCmd (r : Request) (c : Nat) (s : State) : CmdRes :=
  if r.num 16 4 ≤ (s.slot c).layoutEpoch.toNat then .refuse Code.epochOrder else .wait (dropReduces c s)

/-- Pages that slot `c` gives back to stack `j` when its pre-load pages stay. -/
def ownPages (x : Ctx) (j : Nat) : Nat := (x.pages.filter fun e => !e.2.host && !e.2.preload && e.2.stack == j).length

/-- The old context leaves and the new image takes its place; a placement check that fails leaves the old one
(R238, R393). -/
def reshardPlace (r : Request) (c : Nat) (s : State) : Except Nat State :=
  let x := s.slot c
  let va := r.num 8 8
  let rd := imgRd s x va
  let free := { s with tub := { s.tub with parts := KV.erase s.tub.parts c } }
  if imageInPreload s x va = false then .error Code.mbxAddr
  else
    match placeCheck free c rd (fun j => pagesFree s j + ownPages x j) with
    | some e => .error e
    | none =>
      let s := releaseShares c (partitionClear c s)
      let s := releaseSeq c (dropXlat c (releasePages c (fun p => !p.preload) s))
      .ok (placeImage c va rd x.jobEpoch (BitVec.ofNat 32 (r.num 16 4)) s)

/-- The re-shard of slot `c` that is under way. -/
def reshardOf (s : State) (c : Nat) : Option (Nat × Request) :=
  match busyMbox s Op.reshard c with
  | some m => (s.mbx m).req.map fun r => (m, r)
  | none => none

/-- RESHARD_QUIESCENT (R393). -/
def reshardQuiet (c : Nat) (s : State) : State :=
  match reshardOf s c with
  | some (m, r) =>
    if (s.slot c).st = .held ∧ inFlight s c = 0 then
      match reshardPlace r c s with
      | .ok t => t.respond m 0 []
      | .error e => s.respond m e []
    else s
  | none => s

/-- RESHARD_TIMEOUT (R393): 1 s has passed without quiescence, which needs the context HELD and nothing of it in flight. -/
def reshardLate (c : Nat) (s : State) : State :=
  match reshardOf s c with
  | some (m, _) => if (s.slot c).st = .held ∧ inFlight s c = 0 then s else s.respond m Code.reshardTimeout []
  | none => s

/-- OP_RESUME (R398). -/
def resumeCmd (r : Request) (c : Nat) (s : State) : CmdRes :=
  match resumeCheck s c (r.num 16 1) with
  | some f => .done (resumeApply c (r.num 16 1) (r.num 8 6) f s)
  | none => .refuse Code.resumeRefused

/-! ### Device commands -/

/-- Power limit and floor of a profile (Table 16.9): 1 air, 2 liquid, 3 immersion. -/
def profileLimit (p : Nat) : Nat := if p = 2 ∨ p = 3 then 1900 else 1250
def profileFloor (p : Nat) : Nat := if p = 2 ∨ p = 3 then 360 else 400

/-- B(P) in millijoules (R501). -/
def strokeBudget (profile p : Nat) : Nat := (profileLimit profile - profileFloor profile) * p * 1000 / 3000000000 - 4

/-- The CP computes the budget at a domain configuration (R501). -/
def setBudget (s : State) : State :=
  { s with power := { s.power with
    budget := BitVec.ofNat 24 (strokeBudget s.power.profile s.stroke.period.toNat) } }

/-- The fields of Table 13.4 in order. -/
def domainFieldsOk (s : State) (r : Request) : Bool :=
  let mode := r.num 4 1
  let up := r.num 14 1
  let depth := r.num 15 1
  let down := r.num 16 2
  decide (mode ≤ 2) && decide (1 ≤ r.num 5 1) && decide (r.num 5 1 ≤ 7) && decide (r.num 6 1 ≤ 31) &&
  decide (r.num 7 1 ≤ 63) && decide (r.num 8 2 ≤ 2047) && decide (1 ≤ r.num 10 2) && decide (r.num 10 2 ≤ 2048) &&
  decide (r.num 12 2 ≤ 2047) && r.zero 18 6 && r.num 24 8 % 4096 == 0 &&
  (List.range 16).all (fun p => !down.testBit p || s.portFitted p) &&
  (if mode = 2 then decide (up < 16) && s.portFitted up && decide (1 ≤ depth) && decide (depth ≤ r.num 6 1) &&
     !down.testBit up
   else up == 0 && depth == 0 && r.num 8 2 == r.num 12 2)

/-- Checks of R418 in its order. -/
def domainCheck (s : State) (r : Request) : Option Nat :=
  let p := r.num 0 4
  let e := endReserve (r.num 6 1) (r.num 7 1) p
  if slots8.any (fun c => [CtxSt.running, CtxSt.held].elem (s.slot c).st) then some Code.strokeBusy
  else if domainFieldsOk s r = false then some Code.mbxFormat
  else if p < 30000 ∨ 30000000 < p ∨ p < e + 2048 then some Code.periodRange
  else if r.num 4 1 = 2 ∧
      ((s.port (r.num 14 1)).needUnits = 0 ∨ r.num 7 1 < (s.port (r.num 14 1)).needUnits) then some Code.ghlHopRange
  else none

/-- Routing table from an image of GHL_ROUTE_0 to GHL_ROUTE_1023 (Table 11.19). -/
def routesAt (s : State) (addr : Nat) : KV Route :=
  (List.range 2048).filterMap fun d =>
    let w := leNat (s.rdHost (addr + 2 * d) 2)
    let q : Route := ⟨BitVec.ofNat 4 (w % 16), w.testBit 4, w.testBit 5⟩
    if q = Route.none then none else some (d, q)

/-- Write the domain configuration (R418). The Stroke in progress ends; mark_number stays. -/
def domainApply (r : Request) (s : State) : State :=
  let s := s.modStroke fun k =>
    { k with
      mode := BitVec.ofNat 2 (r.num 4 1), replayLimit := BitVec.ofNat 3 (r.num 5 1)
      treeDepth := BitVec.ofNat 5 (r.num 6 1), hopUnits := BitVec.ofNat 6 (r.num 7 1)
      period := BitVec.ofNat 25 (r.num 0 4), rootId := BitVec.ofNat 11 (r.num 8 2)
      domainSize := BitVec.ofNat 12 (r.num 10 2)
      endReserve := BitVec.ofNat 20 (endReserve (r.num 6 1) (r.num 7 1) (r.num 0 4))
      double := false, cycle0 := none, closing := false, codes := [], count := 0, heard := [], sent := false
      nextVerdict := [], rx := none, entered := none, fwd := none, mismatch := false }
  let rs := if r.num 24 8 = 0 then s.ghl.routes else routesAt s (r.num 24 8)
  let s := s.modGhl fun g =>
    { g with
      deviceId := BitVec.ofNat 11 (r.num 12 2), valid := true, upPort := BitVec.ofNat 4 (r.num 14 1)
      upValid := r.num 4 1 == 2, depth := BitVec.ofNat 5 (r.num 15 1), downMask := BitVec.ofNat 16 (r.num 16 2)
      routes := rs }
  setBudget s

/-- OP_DOMAIN (R31, R36, R363, R418); a PCIe error in reading the routing table ends it (R422). -/
def domainCmd (r : Request) (s : State) : CmdRes :=
  match domainCheck s r with
  | some e => .refuse e
  | none =>
    if r.num 24 8 ≠ 0 ∧ s.hostFails (r.num 24 8) 4096 = true then .refuse Code.mbxDma else .done (domainApply r s)

/-- OP_ADMIT (R386, R457). -/
def admitCmd (r : Request) (s : State) : CmdRes :=
  if (r.zero 4 4 && r.zero 40 8) = false then .refuse Code.mbxFormat
  else if s.mp.retired then .refuse Code.deviceRetired
  else if s.ghl.valid = false ∨ s.stroke.mode = 0#2 then .refuse Code.mbxState
  else if BitVec.ofNat 32 (r.num 0 4) ≠ s.mp.deviceGen then .refuse Code.admitGen
  else if slots8.all (fun c => (s.slot c).st == .empty ||
      (s.slot c).jobEpoch == BitVec.ofNat 32 (r.num (8 + 4 * c) 4)) = false then .refuse Code.admitEpoch
  else if s.ghl.admitted then .done s
  else
    .done (setAdmitted true (s.modStroke fun k =>
      { k with
        domainLost := false, missed := 0
        cycle0 := if k.domainLost then none else k.cycle0
        closing := k.closing && !k.domainLost }))

/-! ### Serving -/

/-- The effect of a slot command whose format and state have passed. -/
def slotEffect (r : Request) (c : Nat) (s : State) : CmdRes :=
  if r.opcode = Op.load then loadCmd r c s
  else if r.opcode = Op.start then startCmd r c s
  else if r.opcode = Op.unload then unloadCmd c s
  else if r.opcode = Op.release then releaseCmd c s
  else if r.opcode = Op.save then saveCmd r c s
  else if r.opcode = Op.restore then restoreCmd c s
  else if r.opcode = Op.reshard then reshardCmd r c s
  else if r.opcode = Op.resume then resumeCmd r c s
  else if r.opcode = Op.pageMap then mapCmd r c s
  else if r.opcode = Op.pageUnmap then unmapCmd r c s
  else if r.opcode = Op.copy then
    match copyCheck r c s with
    | some e => .refuse e
    | none => .wait s
  else if r.opcode = Op.watch then watchCmd r c s
  else if r.opcode = Op.decide then decideCmd r c s
  else if r.opcode = Op.feed then feedCmd r c s
  else peerCmd r c s

/-- A slot command as its payload of Table 13.5 gives it: the map behind an OP_PEER_MAP is no part of the payload. -/
def Request.bare (r : Request) : Request :=
  { r with payload := if r.opcode = Op.peerMap then r.payload.take 24 else r.payload }

/-- The effect of a CP-served command. -/
def effect (r : Request) (s : State) : CmdRes :=
  if r.opcode = Op.domain then domainCmd r s
  else if r.opcode = Op.admission then admitCmd r s
  else
    match slotCheck r.bare s with
    | .error e => .refuse e
    | .ok c => slotEffect r c s

/-- The effect of a command in its opening band (R414). Its slot's state was checked when the CP accepted it, and the
verdict that the band applies first is no reason to refuse it; a slot that a reset has emptied since then is. -/
def bandEffect (r : Request) (s : State) : CmdRes :=
  match r.slot with
  | none => .refuse Code.mbxFormat
  | some c =>
    if (s.slot c).st = .empty ∧ stateOk r.opcode (s.slot c) = false then .refuse Code.mbxState else slotEffect r c s

/-- Payload of a refusal: OP_COPY reports the bytes copied (R419). -/
def refusalPayload (op : Nat) : List Byte := if op = Op.copy then List.replicate 8 0 else []

/-- Carry the outcome of an effect to the mailbox. -/
def settle (m : Nat) (r : Request) (s : State) : CmdRes → State
  | .refuse e => s.respond m e (refusalPayload r.opcode)
  | .done t => t.respond m 0 []
  | .wait t => t.modMbx m fun b => { b with stage := .busy }

/-- Serve an accepted command at once. -/
def serveNow (op m : Nat) (s : State) : State :=
  match s.request m op with
  | none => s
  | some r => settle m r s (effect r s)

/-- Serve a command that takes effect in an opening band (R414): refused at once when its checks fail, applied at
once with no Strokes, else left for the band. -/
def serveBand (op m : Nat) (s : State) : State :=
  match s.request m op with
  | none => s
  | some r =>
    let r := if op = Op.peerMap then peerServe r s else r
    match effect r s with
    | .refuse e => s.respond m e []
    | res =>
      if s.stroke.mode = 0#2 then settle m r s res
      else s.modMbx m fun b => { b with stage := .band, req := some r }

/-- The band applies the waiting command of mailbox `m`. -/
def bandCmd (m : Nat) (s : State) : State :=
  let b := s.mbx m
  match b.req with
  | some r => if b.st = .accepted ∧ b.stage = .band then settle m r s (bandEffect r s) else s
  | none => s

/-- Put a mailbox into a list ordered by acceptance. -/
def putOrder (s : State) (m : Nat) : List Nat → List Nat
  | [] => [m]
  | n :: l => if (s.mbx m).accSeq < (s.mbx n).accSeq then m :: n :: l else n :: putOrder s m l

/-- Mailboxes in the order in which their commands were accepted. -/
def bandOrder (s : State) : List Nat := mboxes.foldl (fun l m => putOrder s m l) []

def execOpDomain (m : Mbox) (s : State) : Res := powered s (serveNow Op.domain m.val s)
def execOpAdmit (m : Mbox) (s : State) : Res := powered s (serveNow Op.admission m.val s)
def execOpLoad (m : Mbox) (s : State) : Res := powered s (serveNow Op.load m.val s)
def execOpStart (m : Mbox) (s : State) : Res := powered s (serveNow Op.start m.val s)
def execOpUnload (m : Mbox) (s : State) : Res := powered s (serveBand Op.unload m.val s)
def execOpRelease (m : Mbox) (s : State) : Res := powered s (serveBand Op.release m.val s)
def execOpSave (m : Mbox) (s : State) : Res := powered s (serveBand Op.save m.val s)
def execOpRestore (m : Mbox) (s : State) : Res := powered s (serveNow Op.restore m.val s)
def execOpReshard (m : Mbox) (s : State) : Res := powered s (serveNow Op.reshard m.val s)
def execReshardQuiescent (c : Slot) (s : State) : Res := powered s (reshardQuiet c.val s)
def execReshardTimeout (c : Slot) (s : State) : Res := powered s (reshardLate c.val s)
def execOpResume (m : Mbox) (s : State) : Res := powered s (serveNow Op.resume m.val s)
def execOpPageMap (m : Mbox) (s : State) : Res := powered s (serveBand Op.pageMap m.val s)
def execOpPageUnmap (m : Mbox) (s : State) : Res := powered s (serveBand Op.pageUnmap m.val s)
def execOpCopy (m : Mbox) (s : State) : Res := powered s (serveNow Op.copy m.val s)
def execCopyComplete (m : Mbox) (err : Option Nat) (s : State) : Res := powered s (copyDone m.val err s)
def execOpWatch (m : Mbox) (s : State) : Res := powered s (serveBand Op.watch m.val s)
def execOpDecide (m : Mbox) (s : State) : Res := powered s (serveBand Op.decide m.val s)
def execOpFeed (m : Mbox) (s : State) : Res := powered s (serveBand Op.feed m.val s)
def execOpPeerMap (m : Mbox) (s : State) : Res := powered s (serveBand Op.peerMap m.val s)
def execVfEnableChange (en : Bool) (n : Fin 8) (s : State) : Res := powered s (vfChange en n s)
def execFlrVf (v : Fin 8) (s : State) : Res := powered s (flrVf v s)
def execFlrPf (s : State) : Res := powered s (flrPf s)

end Sys2Proof.Machine
end

