-- ==== Sys2Proof/Machine/Band.lean ====
section
/-!
DEFINITION. The shape of a Stroke on the device (02_stroke): the opening band with everything that happens in it
(R33, R44 to R56, R194, R223 to R228, R335, R399, R414, R424 to R432, R439, R454), the panel ranges (R37 to R41), and the
closing band.
-/

namespace Sys2Proof.Machine

/-! ### Panel ranges -/

/-- A RESUME has Press jobs to run (R398 step 3). -/
def resuming (x : Ctx) : Bool :=
  match x.resume with
  | some r => !r.todo.isEmpty
  | none => false

/-- The context has work in range `r` of class `k`: it runs, or it resumes in a Press range. -/
def rangeFor (x : Ctx) (k : Nat) : Bool :=
  (x.st == .running && x.att.on) || (k == 3 && x.st != .running && resuming x)

/-- Is a range of class `k` of another context in force (R38)? -/
def rangeBusy (s : State) (k : Nat) : Bool :=
  slots8.any fun d => (s.slot d).att.ranges.any fun e => e.1 / 8 == k

/-- Vector registers and match counts of every tile become +0 (R232). -/
def zeroVectors (s : State) : State :=
  let us := s.vunits.map fun (e : Nat × VUnit) => (e.1, { e.2 with v := [], matchCount := 0 })
  { s with vunits := us.filter fun e => decide (e.2 ≠ VUnit.zero) }

/-- RANGE_START (R39, R90, R102, R232). -/
def rangeBegin (c k r : Nat) (s : State) : State :=
  let x := s.slot c
  let key := 8 * k + r
  if s.stroke.cycle0.isNone ∨ s.stroke.closing = true ∨ rangeFor x k = false ∨ (rangesOf x.panels k)[r]?.isNone = true ∨
      NSet.mem x.att.begun key = true ∨ rangeBusy s k = true then s
  else
    let t := s.now
    let s := s.modSlot c fun x =>
      { x with att := { x.att with ranges := KV.insert x.att.ranges key t, begun := NSet.add x.att.begun key } }
    if k = 0 then mangleRangeStart s else if k = 1 then zeroVectors s else s

/-- Is work of class `k` of the context in flight? -/
def inFlightOf (s : State) (c k : Nat) : Bool :=
  let x := s.slot c
  match k with
  | 0 => s.mgl.ops.any fun o => o.slot == c && o.abort.isNone
  | 1 => !x.tileCmds.isEmpty
  | 2 => s.tasks.any fun t => t.slot == c
  | 3 => !x.press.jobs.isEmpty
  | 4 => !x.ghl.acts.isEmpty
  | _ => s.seams.any fun e => e.2.slot == c

/-- Has a list of class `k` a command of range `r`, or of an earlier one, that has not started? -/
def unstarted (x : Ctx) (k r : Nat) : Bool :=
  x.cur.lists.any fun l => l.cls == k &&
    (l.cmds.drop (KV.get 0 x.pos (instKey l.cls l.inst))).any fun q => decide (q.range ≤ r)

/-- Abort what the context has in flight in one class (R40). -/
def abortClass (k status c : Nat) (s : State) : State :=
  match k with
  | 0 => abortMangle status c s
  | 1 => abortTiles status c s
  | 2 => abortStreams status c s
  | 3 => abortPress status c s
  | 4 => abortGhl status c s
  | _ => abortSeams status c s

/-- Work unfinished at the end of a range (R40). -/
def overrun (c k : Nat) (s : State) : State :=
  raiseCause (abortClass k Code.strokeOverrun c s) c Code.strokeOverrun 0 0

/-- RANGE_END (R40). -/
def rangeEndAt (c k r : Nat) (s : State) : State :=
  let x := s.slot c
  let key := 8 * k + r
  if (KV.find? x.att.ranges key).isNone then s
  else
    let left := x.att.on && (inFlightOf s c k || (x.att.cause == 0 && unstarted x k r))
    let s := if left then overrun c k s else s
    s.modSlot c fun x => { x with att := { x.att with ranges := KV.erase x.att.ranges key } }

/-- End every range in force: none lasts into the closing band (R38). -/
def endRanges (s : State) : State :=
  forEach slots8 (fun c s => forEach (s.slot c).att.ranges (fun e s => rangeEndAt c (e.1 / 8) (e.1 % 8) s) s) s

/-- A context whose ranges never began has commands left (R40, R220). -/
def unbegun (c : Nat) (s : State) : State :=
  let x := s.slot c
  if x.st = .running ∧ x.att.on = true ∧ x.att.cause = 0 then
    match (List.range 6).find? fun k => inFlightOf s c k || unstarted x k 7 with
    | some k => overrun c k s
    | none => s
  else s

/-! ### The closing band -/

/-- CLOSING_BAND (R47): no tally while the CP is held in reset (R463). -/
def closeStroke (s : State) : State :=
  if s.stroke.mayClose then
    let s := forEach slots8 unbegun (endRanges s)
    if s.mp.cpHeld then s.modStroke fun k => { k with closing := true } else closingBand s
  else s

/-! ### The opening band -/

/-- An early mark ends all work in flight (R56); the same clears what a Stroke without its CP has left. -/
def cutShort (c : Nat) (s : State) : State :=
  if (s.slot c).att.on then
    ((abortAll Code.strokeDiscard c s).discardRest c).modSlot c fun x =>
      { x with att := { x.att with sentCode := 0, ranges := [] } }
  else s.modSlot c fun x => { x with att := { x.att with sentCode := 0, ranges := [] } }

/-- The Stroke timer enters the Stroke that the mark begins. -/
def beginStroke (m : Mark) (s : State) : State :=
  let t := s.now
  let len := if s.stroke.cycle0.isSome then s.stroke.len else 0
  { s with power := { s.power with lastLen := len } }.modStroke fun k =>
    { k with
      mark := m.number, double := m.double, missed := 0, cycle0 := some t, closing := false, formed := false, codes := [], count := 0
      heard := [], sent := false, nextVerdict := [], entered := none }

/-- A running or held context meets every Stroke with its Lines in the committed state (R194). -/
def linesStep (c : Nat) (keep : Bool) (s : State) : State :=
  if [CtxSt.running, CtxSt.held].elem (s.slot c).st then lineStrokeReset c keep s else s

/-- The verdict of one slot, and the watch unit, the lead Fold and the Lines after it (R50, R194, R335, R399). -/
def verdictStep (m : Mark) (c : Nat) (s : State) : State :=
  let phase := (s.slot c).phase
  let s := s.modSlot c fun x => { x with att := { x.att with committed := false } }
  let s := applyVerdict c (codeAt m.verdict c) s
  let done := (s.slot c).att.committed
  let s := if done then writeTrailer c (watchCommit c phase s)
    else (s.modSlot c fun x => { x with nfPending := 0 }).modPress c fun p => { p with leadFold := none }
  linesStep c done s

/-- Holds that arose in the Stroke just ended take effect (R282, R297, R424). -/
def holdStep (c : Nat) (s : State) : State := takeHolds c (pressHolds c s)

/-- RETIRED reaches every loaded context in the next opening band (R454). -/
def retireStep (s : State) : State :=
  if s.mp.retireDue then (forEach slots8 stopSlot s).modMp fun p => { p with retireDue := false } else s

/-- The second band of an unload, and the saves and restores whose last byte is written (R427, R429, R432). -/
def jobStep (c : Nat) (s : State) : State :=
  let s := if (s.slot c).unload then unloadStep c s else s
  restoreFinish c (saveFinish c s)

/-- Start a context whose mark has come, or refuse the start (R398, R426); its Lines are as they stand (R194). -/
def startStep (c : Nat) (s : State) : State :=
  let x := s.slot c
  if x.st = .loaded ∧ x.armed = true ∧ x.startMark.toNat ≤ s.stroke.mark.toNat then
    if resuming x then
      (s.modSlot c fun x => { x with armed := false }).postCtx c Code.resumeRefused 0
    else if x.startMark = s.stroke.mark then
      let s := (lineStrokeReset c true s).setCtx c fun x => { x with st := .running, armed := false, resume := none }
      s.modSlot c fun x => { x with att := { x.att with reruns := 0 } }
    else
      (s.modSlot c fun x => { x with armed := false }).postCtx c
        (if x.viaResume then Code.resumeRefused else Code.ctxStartLate) 0
  else s

/-- The tile generations are compared before every attempt (R439). -/
def genStep (c : Nat) (s : State) : State :=
  let x := s.slot c
  if x.st = .running ∧ x.tileGen ≠ s.mp.tileGen then
    let s := s.setCtx c fun x => { x with st := .held, stopped := true }
    (s.log Code.tileGen originCp c 0 0).postCtx c Code.tileGen 0
  else s

/-- Begin an attempt, or keep the slot idle for this Stroke (R54, R63, R223, R224, R226, R374, R435). -/
def attemptStep (c : Nat) (s : State) : State :=
  let x := s.slot c
  if x.st = .running then
    let s := if x.cur.index = some x.stk.index.toNat then s else fetchBoth c s
    let bad := (s.slot c).cur.bad
    let double := s.stroke.double
    let s := s.modSlot c fun x =>
      { x with
        att := { x.att with
          on := !bad, cause := if bad then 6 else 0, sentCode := 0, ranges := [], begun := [], pageFault := none }
        pos := [], seqs := [], tileCmds := [], nfPending := 0
        acct := if bad then x.acct else { x.acct with runStrokes := sat32 x.acct.runStrokes 1 }
        stk := if bad || !double then x.stk else { x.stk with doubles := sat32 x.stk.doubles 1 } }
    ghlAttempt c s
  else
    s.modSlot c fun x =>
      { x with
        att := { x.att with
          on := false, cause := 0, sentCode := 0, ranges := [], begun := [], pageFault := none }
        acct := if x.st = .held then
            { x.acct with
              heldStrokes := sat32 x.acct.heldStrokes 1
              feedStrokes := if x.holds &&& holdBit 9 ≠ 0 then sat32 x.acct.feedStrokes 1 else x.acct.feedStrokes }
          else x.acct }

/-- What the CP does for every slot after the verdicts. -/
def slotSteps (foreign : Bool) (s : State) : State :=
  let s := forEach slots8 holdStep s
  let s := forEach slots8 jobStep (retireStep s)
  let s := forEach (bandOrder s) bandCmd s
  let s := if foreign then s else forEach slots8 startStep s
  forEach slots8 attemptStep (forEach slots8 feedCheck (forEach slots8 genStep s))

/-- The Stroke boundary in the engines: aborted operations leave, the last writes land, retired pages switch, and the
Stroke's waits on the bank caps are recorded (R91, R249, R268, R271). -/
def enginesStep (s : State) : State := profileStroke (switchRemap (flushWrites (drainAbort s)))

/-- STROKE_START: cycle 0 and the opening band (R33, R50, R56, R414, R463). -/
def strokeStart (s : State) : State :=
  match s.stroke.entered with
  | none => s
  | some m =>
    if s.stroke.mode = 0#2 then s
    else
      let early := s.stroke.cycle0.isSome && !s.stroke.closing
      let foreign := s.stroke.foreign m
      let s := if early then
          (forEach slots8 cutShort s).modStroke fun k => { k with earlyMarks := sat32 k.earlyMarks 1 }
        else s
      let s := (beginStroke m (enginesStep s)).modMp fun p => { p with resendLogged := [] }
      if s.mp.cpHeld then
        forEach slots8 (fun c s => (cutShort c s).modSlot c fun x => { x with att := { x.att with on := false } }) s
      else
        let t := s.now
        let s := s.modMp fun p => { p with beat := t }
        let s := if foreign then forEach slots8 (fun c s => linesStep c false s) (reportForeign (holdDomain s))
          else forEach slots8 (verdictStep m) s
        slotSteps foreign s

/-- MODE0_HEARTBEAT (R463). -/
def heartbeat (s : State) : State :=
  let t := s.now
  if s.stroke.mode = 0#2 ∧ s.hamper.ready = true ∧ s.mp.cpHeld = false then s.modMp fun p => { p with beat := t } else s

def execRangeStart (c : Slot) (k : EngClass) (r : Fin 8) (s : State) : Res := powered s (rangeBegin c.val k.code r.val s)
def execRangeEnd (c : Slot) (k : EngClass) (r : Fin 8) (s : State) : Res := powered s (rangeEndAt c.val k.code r.val s)
def execClosingBand (s : State) : Res := powered s (closeStroke s)
def execStrokeStart (s : State) : Res := powered s (strokeStart s)
def execMode0Heartbeat (s : State) : Res := powered s (heartbeat s)

end Sys2Proof.Machine
end

