-- ==== Sys2Proof/Machine/LineCmd.lean ====
section
/-!
DEFINITION. Setups and resets of Lines: LSET, LRST and the tile commands LINE_SETUP and LINE_RESET (R186, R187, R193,
R227, R253), waits beyond the slack (R196, R197), and Rinse (R204, R205).
-/

namespace Sys2Proof.Machine

/-! ### The operations on a Line -/

/-- Does a pass name context Line `l` in tile `t` (R74 to R76, R83, R116, R149, R156)? -/
def mglNames (d : MDesc) (t : Tile) (l : Nat) : Bool :=
  let fp4 := decide (d.cls = .fp4)
  let inj := t.col.val == 0 && d.aTiles.elem t.row.val
  let south := t.row.val == 15 && d.cols.elem t.col.val
  (d.bTiles.elem t.idx && (l == d.bLine || (fp4 && l == d.scaleLine))) || (d.mTiles.elem t.idx && d.pair && l == d.metaLine) ||
  (t.col.val == 0 && d.spMode == 2 && l == d.metaLine) || (inj && (l == d.aLine || (fp4 && l == d.scaleLine))) ||
  (south && (l == d.cLine || (d.dEn && l == d.dLine) || (d.spMode == 3 && l == d.metaLine) ||
    (d.cFmt == 4 && l == d.scaleLine + 1))) ||
  (d.retEn && t.col.val == 0 && (l == d.retLine || l == d.retLine + 1))

/-- Does a vector instruction name the Line? -/
def vecNames (v : VInstr) (l : Nat) : Bool :=
  match vfields v.w0 v.w1 with
  | some f =>
    match f.op with
    | .vld | .vst => f.line == l
    | .vldp => f.line == l || f.line2 == l
    | _ => false
  | none => false

/-- Does a stream task name the Line in tile `t`? -/
def StrTask.names (k : StrTask) (t : Tile) (l : Nat) : Bool :=
  let d := k.d
  k.engine == t.col.val &&
    ((decide (d.tileRow ≤ t.row.val) && decide (t.row.val < d.tileRow + d.tiles) &&
        (l == d.line || (d.packed && l == d.hdrLine))) ||
      (d.indexed && t.row.val == d.tileRow && l == d.idxLine))

/-- The operations of the context that have started on the Line and have not ended (R193). A vector instruction counts
by itself, from its entry in the vector queue (DEDUCED, log entry 20). -/
def lineUsers (s : State) (c : Nat) (t : Tile) (l : Nat) : List Nat :=
  ((s.mgl.ops.filter (fun o => o.slot == c && o.d.opcode == 0 && mglNames o.d t l)).map fun o => opId 0 0 o.k) ++
  (((s.vunit t).queue.filter (fun v => v.ctx == c && vecNames v l)).map fun v => opId 1 t.idx v.num) ++
  ((s.tasks.filter (fun k => k.slot == c && k.names t l)).map fun k => opId 2 k.engine k.k) ++
  ((s.seams.filter (fun e => e.2.slot == c && e.2.d.tileRow == t.row.val && e.2.d.tileCol == t.col.val &&
      e.2.d.lines.elem l)).map fun e => opId 5 e.1 e.2.k) ++
  (((s.slot c).ghl.acts.filter (fun a => a.line == some (t.idx, l))).map fun a => opId 4 a.inst a.k)

/-! ### Setup and reset -/

/-- An active LOAD or GATHER that writes the Line is cancelled (R253). -/
def cancelLoads (c : Nat) (t : Tile) (l : Nat) (s : State) : State :=
  { s with tasks := s.tasks.map fun k =>
    if k.slot = c ∧ k.d.loads = true ∧ k.names t l = true ∧ (k.d.indexed = true → l = k.d.line) then
      { k with cancelled := true } else k }

/-- Issue a setup or a reset: it takes effect at once when no operation has started on the Line, else when the last of
them has ended (R193). -/
def issuePend (c : Nat) (t : Tile) (l key : Nat) (g : Option LineCfg) (s : State) : State :=
  let before := lineUsers s c t l
  let first := (s.line key).pend.isEmpty
  let s := cancelLoads c t l s
  let s := s.modLine key fun r => { r with pend := r.pend ++ [⟨g, before⟩] }
  if first && before.isEmpty then applyPend key s else s

/-- A setup of context Line `l` (R186, R187), or the fault that refuses it. -/
def setupLine (c : Nat) (t : Tile) (l : Nat) (w : W64) (s : State) : Except Nat State :=
  match lineKey? s c t l with
  | none => .error Code.lineUnset
  | some k => if setupOk s c t l w then .ok (issuePend c t l k (some (lineCfgOf w)) s) else .error Code.lineSetup

/-- A reset of context Line `l` (R193). -/
def resetLine (c : Nat) (t : Tile) (l : Nat) (s : State) : Except Nat State :=
  match lineKey? s c t l with
  | none => .error Code.lineUnset
  | some k =>
    if (s.line k).cfg.isSome || !(s.line k).pend.isEmpty then .ok (issuePend c t l k none s)
    else .error Code.lineUnset

/-- The context whose partition holds tile Line `l` (R198). -/
def lineOwner (s : State) (l : Nat) : Option Nat :=
  slots8.find? fun c =>
    let p := s.part c
    decide (p.lineBase.toNat ≤ l) && decide (l < p.lineBase.toNat + p.lineCount.toNat)

/-- LINE_SETUP_EFFECT (R193): the operations before the oldest waiting setup or reset have ended. -/
def setupEffect (t : Tile) (l : Nat) (s : State) : State :=
  let key := 16 * s.physTile t + l
  match (s.line key).pend, lineOwner s l with
  | p :: _, some c =>
    let busy := lineUsers s c t (l - (s.part c).lineBase.toNat)
    if p.before.any (fun i => busy.elem i) then s else applyPend key s
  | _, _ => s

/-- A tile command on Lines: every addressed tile, in tile order (R227). -/
def lineCmd (kind : Nat) (f : Nat → Tile → Nat → List W64 → State → Except Nat State) (c : Nat) (s : State) : State :=
  match tileNext s c kind with
  | none => s
  | some (q, tc) =>
    let l := tc.entry % 16
    let (tc, s) := (addressed tc).foldl (fun (acc : TileCmd × State) i =>
      match f c (tileOf (i / 32) (i % 32)) l q.body acc.2 with
      | .ok s => ({ acc.1 with tiles := KV.insert acc.1.tiles i .done }, s)
      | .error e => ({ acc.1 with tiles := KV.insert acc.1.tiles i (.failed e 0 0) }, acc.2))
      ({ tc with late := s.now - tc.started }, s.modSlot c (Ctx.advance 1 0))
    let s := s.complete c 1 0 q.k (tc.record 0)
    match tc.failed? with
    | some (_, code, _, _) => raiseCause s c code 0 0
    | none => s

def lineSetupCmd (c : Nat) (s : State) : State :=
  lineCmd 1 (fun c t l body s => setupLine c t l (body.getD 1 0) s) c s
def lineResetCmd (c : Nat) (s : State) : State := lineCmd 2 (fun c t l _ s => resetLine c t l s) c s

/-- LSET (R186, R230): the record stands in the pair s, s + 1. -/
def seqLset (t : Tile) (c : Nat) (s : State) : State :=
  match seqReady s c t .lset with
  | none => s
  | some w =>
    let q := s.seq c t
    let r := fld w 25 21
    match setupLine c t (fld w 20 17) ((q.rd (r + 1)) ++ (q.rd r)) s with
    | .ok s => s.modSeq c t Seq.next
    | .error e => tileFault c t e q.pc.toNat 0 s

/-- LRST (R193, R230). -/
def seqLrst (t : Tile) (c : Nat) (s : State) : State :=
  match seqReady s c t .lrst with
  | none => s
  | some w =>
    match resetLine c t (fld w 20 17) s with
    | .ok s => s.modSeq c t Seq.next
    | .error e => tileFault c t e (s.seq c t).pc.toNat 0 s

/-! ### Slack -/

/-- The Seam operation that waits on context Line `l` of a tile, and whether it writes it: a full Line stalls its writer,
any other its reader (R196). -/
def seamWaiter (s : State) (c : Nat) (t : Tile) (l : Nat) (g : LineCfg) (r : LineRec) : Option ((Nat × SeamOp) × Bool) :=
  let mine := s.seams.filter fun (e : Nat × SeamOp) =>
    e.2.slot == c && e.2.d.tileRow == t.row.val && e.2.d.tileCol == t.col.val && e.2.d.lines.elem l
  let writes := fun (e : Nat × SeamOp) => e.2.d.outLine == l || (e.2.d.usesAux && e.2.d.auxLine == l)
  let w := (mine.find? writes).map fun e => (e, true)
  let rd := (mine.find? fun e => !writes e).map fun e => (e, false)
  if g.fixed = false ∧ g.size ≤ r.occ g then w.or rd else rd.or w

/-- Does the party wait as a writer: the drain's waits count as overruns (R88, R196)? -/
def waitsToWrite (s : State) (c : Nat) (t : Tile) (l : Nat) (g : LineCfg) (r : LineRec) (p : Party) : Bool :=
  match p with
  | .drain | .returnPath => true
  | .vector =>
    match (s.vunit t).queue with
    | v :: _ => ((vfields v.w0 v.w1).map (fun f => decide (f.op = .vst))).getD false
    | [] => false
  | .seam => ((seamWaiter s c t l g r).map Prod.snd).getD (g.writer == 4)
  | _ => false

/-- The task of a party at a Line of a tile ends with a fault (R59, R196). -/
def slackAbort (c : Nat) (t : Tile) (l : Nat) (p : Party) (code : Nat) (s : State) : State :=
  match p with
  | .feeder =>
    match s.mgl.ops.find? (fun o => o.slot == c && decide (o.stage ≠ .done)) with
    | some o => opFault o code 0 s
    | none => s
  | .drain | .returnPath =>
    let held := (s.mgl.buf.flatMap Prod.snd).find? (fun h => h.slot == c && h.dests.any fun d => d.tile == t.idx && d.line == l)
    let op := match held with
      | some h => s.mgl.ops.find? (fun o => o.slot == c && o.k == h.k)
      | none => s.mgl.ops.find? (fun o => o.slot == c)
    match op with
    | some o => opFault o code 0 s
    | none => s
  | .vector =>
    match (s.vunit t).queue with
    | v :: _ => if v.ctx = c then tileFault c t code v.pc 0 s else s
    | [] => s
  | .seam =>
    let key := 16 * s.physTile t + (s.part c).lineBase.toNat + l
    match (s.line key).cfg.bind fun g => seamWaiter s c t l g (s.line key) with
    | some ((u, o), _) => seamFault u o code s
    | none => s
  | .narrow => tileFault c t code (s.seq c t).pc.toNat 0 s
  | _ => s

def parties8 : List Party := [.drain, .returnPath, .feeder, .vector, .seam, .stream, .mesh, .narrow]

/-- The arbitration losses of the cycle end the losing tasks of contexts with nonconf_fault (R59). -/
def lossTick (s : State) : State :=
  forEach s.tub.losses (fun a s =>
    match parties8.find? fun p => p.code == a.party with
    | some p => slackAbort a.slot a.tile a.line p Code.nonconformance s
    | none => s) { s with tub := { s.tub with losses := [] } }

/-- LINE_SLACK_EXCEEDED (R196): a single wait has reached slack + 1 cycles. -/
def slackExceeded (t : Tile) (l : Nat) (p : Party) (s : State) : State :=
  let key := 16 * s.physTile t + l
  match (s.line key).cfg, lineOwner s l with
  | some g, some c =>
    if g.slack < KV.get 0 (s.line key).wait p.code then
      let w := waitsToWrite s c t (l - (s.part c).lineBase.toNat) g (s.line key) p
      let s := s.modLine key fun r => { r with wait := KV.set 0 r.wait p.code 0 }
      let u := s.tub
      let s := { s with tub :=
        if w then { u with overruns := sat32 u.overruns 1 } else { u with underruns := sat32 u.underruns 1 } }
      slackAbort c t (l - (s.part c).lineBase.toNat) p (if w then Code.lineOverrun else Code.lineUnderrun) s
    else s
  | _, _ => s

/-! ### Rinse -/

/-- RINSE_READ (R204, R205): `o` is what the stored symbols of word `w` of the row have become. Rinse reads the row when it
is the next one of its bank; an error in any other row stays unseen until a port or Rinse reads it (R201, log entry 90). In
DOZE the compute dies are off, and in IDLE they clock the Tub banks in the opening band alone (R497). -/
def rinseRead (pt bank row w : Nat) (o : EccOutcome) (s : State) : State :=
  if s.tubsClocked = false then s
  else
  let k := rowKey pt bank row
  let e := match o with
    | .clean => KV.get 0 s.tub.errs (8 * k + w)
    | .correctable => max 1 (KV.get 0 s.tub.errs (8 * k + w))
    | .uncorrectable => 2
  if KV.get 0 s.tub.rinsePos (16 * pt + bank) ≠ row then
    { s with tub := { s.tub with errs := KV.set 0 s.tub.errs (8 * k + w) e } }
  else
    let first := decide (pt = s.physTile (tileOf 0 0)) && bank == 0 && row == 255
    let s := { s with tub :=
      { s.tub with
        errs := KV.set 0 s.tub.errs (8 * k + w) e
        rinsePos := KV.set 0 s.tub.rinsePos (16 * pt + bank) ((row + 1) % 256)
        rinseRows := s.tub.rinseRows + 1
        rinseSweeps := if first then sat32 s.tub.rinseSweeps 1 else s.tub.rinseSweeps } }
    forEach words8 (fun w s => if s.tub.poisoned k w then s else checkWord k 2 w s) s

/-- RINSE_WRITEBACK (R204): the oldest queued row of the tile is written back, corrected. -/
def rinseWriteback (pt : Nat) (s : State) : State :=
  match s.tub.rinseQ.find? (fun i => i.tile == pt) with
  | none => s
  | some i =>
    let k := rowKey i.tile i.bank i.row
    { s with tub :=
      { s.tub with
        rinseQ := s.tub.rinseQ.erase i
        errs := words8.foldl (fun e w => if KV.get 0 e (8 * k + w) = 1 then KV.set 0 e (8 * k + w) 0 else e)
          s.tub.errs } }

def execLineSetup (c : Slot) (s : State) : Res := powered s (lineSetupCmd c.val s)
def execLineReset (c : Slot) (s : State) : Res := powered s (lineResetCmd c.val s)
def execLineSetupEffect (t : Tile) (l : LineNo) (s : State) : Res := powered s (setupEffect t l.val s)
def execLineSlackExceeded (t : Tile) (l : LineNo) (p : Party) (s : State) : Res := powered s (slackExceeded t l.val p s)
def execRinseRead (pt : Fin 544) (bank : Fin 16) (row : Fin 256) (w : Fin 8) (o : EccOutcome) (s : State) : Res :=
  powered s (rinseRead pt.val bank.val row.val w.val o s)
def execRinseWriteback (pt : Fin 544) (s : State) : Res := powered s (rinseWriteback pt.val s)
def execSeqLset (t : Tile) (c : Slot) (s : State) : Res := powered s (seqLset t c.val s)
def execSeqLrst (t : Tile) (c : Slot) (s : State) : Res := powered s (seqLrst t c.val s)

end Sys2Proof.Machine
end

