-- ==== Sys2Proof/Machine/SelfTest.lean ====
section
/-!
DEFINITION. Targeted self-tests (R440 to R444), Darn (R445 to R450) and the resends of credit bridges (R20).
-/

namespace Sys2Proof.Machine

/-! ### Unit words (Table 14.2) -/

def unitA (u : W32) : Nat := bitsOf u.toNat 7 4
def unitB (u : W32) : Nat := bitsOf u.toNat 12 8
def unitC (u : W32) : Nat := bitsOf u.toNat 15 13
def unitD (u : W32) : Nat := bitsOf u.toNat 20 16
def unitE (u : W32) : Nat := bitsOf u.toNat 28 21
def unitF (u : W32) : Nat := bitsOf u.toNat 31 29

/-- Kind of the unit of a test (Table 14.3); a recalibration names a port. -/
def testKind (t : Nat) : Nat := min t 4

/-- Does the unit word name a fitted unit of the test's kind, with unused fields zero (R437, R444)? -/
def unitOk (s : State) (test : Nat) (u : W32) : Bool :=
  let k := testKind test
  bitsOf u.toNat 3 0 == k &&
  (if k = 0 then decide (unitA u < 4) && decide (unitB u ≤ 16) && decide (u.toNat < 8192)
   else if k = 1 then decide (unitA u < 3) && decide (unitB u ≤ 1) && decide (u.toNat < 8192)
   else if k = 2 then decide (unitA u < 4) && decide (unitB u ≤ 16) && decide (unitD u < 16)
   else if k = 3 then s.stackFitted (unitA u) && unitC u == 0 && unitE u == 0 && unitF u == 0
   else s.portFitted (unitA u) && (decide (unitB u ≤ 8) || unitB u == 31) && decide (u.toNat < 8192))

/-- Key of the Tub word that a unit word of kind 2 names: row key and word. -/
def unitRowKey (u : W32) : Nat :=
  ((unitA u * 136 + unitB u * 8 + unitC u) * 16 + unitD u) * 256 + unitE u

/-! ### Free spans (R441) -/

/-- Core cycles of a Stroke that ranges of class 0 of the loaded contexts take up, by the nominal lengths (R37, R41,
R441). -/
def class0 (s : State) (double : Bool) : List (Nat × Nat) :=
  slots8.flatMap fun c =>
    let x := s.slot c
    if x.st = .empty then []
    else (rangesOf x.panels 0).map fun p =>
      if double then (128 * p.start, 128 * p.stop) else (64 * p.start, 64 * p.stop)

/-- Smallest of a list, or `d`. -/
def leastOf (d : Nat) (l : List Nat) : Nat := l.foldl min d

/-- Cycles until a range of class 0 can begin, by the nominal Stroke lengths; 0 within one. A span may cross the mark
(R441). -/
def spanLeft (s : State) : Nat :=
  let t := s.cycle
  let rs := class0 s s.stroke.double
  let next := leastOf s.stroke.len ((rs.map (·.1)).filter fun a => decide (t ≤ a))
  if rs.any (fun r => decide (r.1 ≤ t) && decide (t < r.2)) then 0
  else if next < s.stroke.len then next - t
  else s.stroke.len - t + leastOf s.stroke.period.toNat ((class0 s false).map (·.1))

/-- Is a context with a range of class 0 RUNNING (R441)? -/
def class0Runs (s : State) : Bool :=
  slots8.any fun c => (s.slot c).st == .running && !(rangesOf (s.slot c).panels 0).isEmpty

/-- Cycles of a step of ARRAY or CROSS (Table 14.3). -/
def stepCycles : Nat := 4096

/-- May a step of class 0 run now: no operation in flight, no range in force, and room for the whole step, or no RUNNING
context with a range of the class (R441)? -/
def freeSpan (s : State) : Bool :=
  s.mgl.ops.isEmpty && slots8.all (fun c => (s.slot c).att.ranges.all fun e => e.1 / 8 != 0) &&
    (!class0Runs s || decide (stepCycles ≤ spanLeft s))

/-! ### Steps -/

/-- Steps of a test: 4 patterns for each of the 16 active rows, or 256 for the next ARRAY of a die that came to
F_UNIT_UNLOCATED (R443); 8 for CROSS; one for the others. -/
def tstLen (s : State) (t : Tst) : Nat :=
  if t.test = 0 then (if NSet.mem s.mp.deep (unitA t.unit) then 4096 else 64) else if t.test = 1 then 8 else 1

/-- Does a row lie in a partition (R198)? -/
def inPartition (s : State) (row : Nat) : Bool :=
  s.tub.parts.any fun e =>
    decide (16 * e.2.rowBase.toNat ≤ row) && decide (row < 16 * (e.2.rowBase.toNat + e.2.rowBlocks.toNat))

/-- TUB(word) (R442): a word outside every partition is left as zero, a poisoned word stays poisoned; live data is
only read. -/
def tubTest (u : W32) (s : State) : State :=
  let k := unitRowKey u
  let w := unitF u
  if s.tub.poisoned k w then { s with tub := { s.tub with errs := KV.set 0 s.tub.errs (8 * k + w) 0 } }
  else if inPartition s (unitE u) then s
  else
    { s with
      tubMem := KV.eraseRange s.tubMem (512 * k + 64 * w) (512 * k + 64 * (w + 1))
      tub := { s.tub with errs := KV.set 0 s.tub.errs (8 * k + w) 0 } }

/-- May a port be recalibrated now (R349, R442)? -/
def mayRecalibrate (s : State) (p : Nat) : Bool :=
  noneRunning s && !(s.port p).changing && ((s.port p).st == .active || (s.port p).st == .keeper)

/-- What a step of a test does to the machine beside its own result. -/
def tstEffect (t : Tst) (s : State) : State :=
  if t.test = 2 then tubTest t.unit s
  else if t.test = 4 then
    let p := unitA t.unit
    if (s.port p).trained then pushPrio p echoes16 (s.modPort p fun g => { g with samples := [] }) else s
  else if t.test = 5 then askRecalibrate (unitA t.unit) s
  else s

/-- TST_STEP (R440, R441): the next step of the first queued test; `cut` when an early mark, a rise of double or the
start of a range cuts it short. A step of class 0 ramps to duty 2 and back within itself, so its last change of level is
its end (R102). A recalibration waits for a moment that R349 allows. In DOZE the compute and memory-side dies are off, and
their tests wait (Table 16.7). -/
def tstStep (cut : Bool) (s : State) : State :=
  match s.mp.tstQ with
  | [] => s
  | t :: _ =>
    if tstLen s t ≤ s.mp.tstSteps then s
    else if s.power.doze = true ∧ t.test ≤ 3 then s
    else if t.test ≤ 1 then
      if freeSpan s = false then s
      else
        let s := s.modMgl fun m => { m with level := ⟨0, 0, s.now⟩ }
        if cut then s.modMp fun p => { p with tstBusy := true, tstAbandoned := sat32 p.tstAbandoned 1 }
        else s.modMp fun p => { p with tstBusy := true, tstSteps := p.tstSteps + 1 }
    else if t.test = 5 ∧ mayRecalibrate s (unitA t.unit) = false then s
    else (tstEffect t s).modMp fun p => { p with tstBusy := true, tstSteps := p.tstSteps + 1 }

/-! ### Results -/

/-- Log a record whose arg is a unit word, and post it (R437, R444). -/
def unitEvent (code : Nat) (u : W32) (s : State) : State := (s.log code originMp 0xFF u 0).postDev code u

/-- A lasting-faulty tile-row (R86, R446, R450): pending, or beyond repair when the die's spare is in use or its map
holds another faulty row. -/
def rowFaulty (die row origin role : Nat) (s : State) : State :=
  let f := KV.get 0 s.mp.faulty die
  let s := s.changeTo (s.modMp fun p => { p with faulty := KV.set 0 p.faulty die (f ||| 2 ^ row) }) origin role 3 die
  if KV.get 16 s.bypass die = 16 ∧ (f = 0 ∨ f = 2 ^ row) then
    (s.modMp fun p => { p with pendingRow := KV.insert p.pendingRow die row }).settleHealth
  else (unitEvent Code.darnBeyond (unitRow die row) s).retire

/-- The unit that a lasting result names: the located row of ARRAY, the tile-row of a TUB word. -/
def located (t : Tst) (row : Nat) : W32 :=
  if t.test = 0 then unitRow (unitA t.unit) row
  else if t.test = 2 then unitRow (unitA t.unit) (unitB t.unit)
  else t.unit

/-- A condition of Table 14.7 stands, or no longer stands, on a unit (R477). -/
def State.stand (u : W32) (on : Bool) (s : State) : State :=
  s.modMp fun p => { p with standing := p.standing.filter (· != u) ++ if on then [u] else [] }

/-- A lasting result (R443, Table 14.7). -/
def lastingResult (t : Tst) (row : Nat) (s : State) : State :=
  let u := located t row
  let s := unitEvent Code.unitLasting u (s.modMp fun p => { p with tstLasting := sat32 p.tstLasting 1 })
  if t.test = 0 ∨ t.test = 2 then rowFaulty (unitA u) (unitB u) originMp 0 s
  else if t.test = 1 ∨ t.test = 3 then (s.stand u true).retire
  else (s.modMp fun p => { p with lastingLink := NSet.add p.lastingLink (unitA u) }).settleHealth

/-- A transient result; the eighth of ARRAY on a die within 24 hours leaves it unlocated (R443). -/
def transientResult (t : Tst) (s : State) : State :=
  let s := unitEvent Code.unitTransient t.unit (s.stand t.unit false)
  if t.test = 0 then
    let d := unitA t.unit
    let s := s.note (evKey 20 d)
    if 8 ≤ s.mp.recent (evKey 20 d) s.now day ∧ NSet.mem s.mp.unlocated d = false then
      ((unitEvent Code.unitUnlocated t.unit s).modMp fun p =>
        { p with unlocated := NSet.add p.unlocated d, deep := NSet.add p.deep d }).settleHealth
    else s
  else s

/-- The lasting results of a test: its own condition, which ARRAY cannot meet by the bypassed row of its die (R440), and
an error in another row that TUB marches through (R442). -/
def lastingCount (s : State) (t : Tst) (found : TstFound) (row : Nat) : Nat :=
  (found.lasting && !(t.test == 0 && KV.get 16 s.bypass (unitA t.unit) == row)).toNat + (found.march && t.test == 2).toNat

/-- TST_RESULT (R443): the first test of the queue has run every step. -/
def tstResult (found : TstFound) (row : Nat) (s : State) : State :=
  match s.mp.tstQ with
  | [] => s
  | t :: q =>
    if s.mp.tstSteps < tstLen s t then s
    else
      let s := s.modMp fun p =>
        { p with
          tstQ := q, tstBusy := false, tstSteps := 0, tstRuns := sat32 p.tstRuns 1
          deep := if t.test = 0 then NSet.del p.deep (unitA t.unit) else p.deep }
      match lastingCount s t found row with
      | 0 => transientResult t s
      | n => forEach (List.range n) (fun _ s => lastingResult t row s) s

/-! ### OP_SELFTEST (R444) -/

def selftest (m : Nat) (s : State) : State :=
  match s.request m Op.selftest with
  | none => s
  | some r =>
    let t := r.num 0 1
    let u : W32 := BitVec.ofNat 32 (r.num 4 4)
    if 5 < t ∨ r.zero 1 3 = false ∨ unitOk s t u = false then s.respond m Code.mbxFormat []
    else if t = 5 ∧ mayRecalibrate s (unitA u) = false then s.respond m Code.mbxState []
    else (s.trigger t u).respond m 0 []

/-! ### OP_DARN (R447 to R449) -/

def dies4 : List Nat := [0, 1, 2, 3]

/-- Are the fields of an OP_DARN payload in their ranges (Table 14.4)? -/
def darnOk (s : State) (r : Request) : Bool :=
  r.zero 4 4 && decide (r.num 0 1 ≤ 3) &&
  (if r.num 0 1 = 2 then decide (r.num 1 1 < 4) && decide (r.num 2 1 ≤ 16)
   else if r.num 0 1 = 3 then s.portFitted (r.num 1 1) && decide (r.num 1 1 < 16) && decide (r.num 2 1 ≤ 8) &&
     decide (r.num 3 1 ≤ 1)
   else true)

/-- The request of an action, when its fields are right. -/
def State.darn (s : State) (m action : Nat) : Option Request :=
  match s.request m Op.darn with
  | some r => if darnOk s r = true ∧ r.num 0 1 = action then some r else none
  | none => none

/-- The 72 bytes of Table 14.5. -/
def darnBytes (s : State) : List Byte :=
  (dies4.flatMap fun i =>
    leBytes 1 (KV.get 16 s.bypass i) ++ leBytes 1 ((KV.find? s.mp.pendingRow i).getD 255) ++
      leBytes 4 (KV.get 0 s.mp.faulty i)) ++
  (ports16.flatMap fun p => leBytes 2 (KV.get 0 s.mp.marked (2 * p)).toNat) ++
  (slots8.flatMap fun j => leBytes 2 (KV.get 0 s.mem.spares j))

/-- DARN_READ; a request whose fields are wrong is refused here whatever its action. -/
def darnRead (m : Nat) (s : State) : State :=
  match s.request m Op.darn with
  | none => s
  | some r =>
    if darnOk s r = false then s.respond m Code.mbxFormat []
    else if r.num 0 1 = 0 then s.respond m 0 (darnBytes s)
    else s

/-- Advance the tile generation of a die and the device generation (R438). -/
def bumpDie (die : Nat) (s : State) : State :=
  s.modMp fun p =>
    let g := (p.tileGen >>> (8 * die)).setWidth 8 + 1#8
    { p with
      deviceGen := p.deviceGen + 1
      tileGen := (p.tileGen &&& ~~~(0xFF#32 <<< (8 * die))) ||| (g.setWidth 32 <<< (8 * die)) }

/-- Steps 1, 4 and 5 of Table 14.6 for a die: the generations advance when the bypass changes (R438). -/
def darnDie (die row role : Nat) (s : State) : State :=
  let changed := KV.get 16 s.bypass die ≠ row
  let s := s.changeTo { (s.modMp fun p => { p with pendingRow := KV.erase p.pendingRow die }) with
    bypass := KV.set 16 s.bypass die row } 1 role 3 die
  if changed then bumpDie die s else s

/-- A failure of Table 14.6 on die `f`, while `e` is the die under repair: delay lines that do not converge (step 2), or
a faulty row that verification finds (step 3, R450). The answer carries its fault (log entry 61). -/
def darnFail (m : Nat) (e : Nat × Nat) (f : Nat × Option Nat) (role : Nat) (s : State) : State :=
  match f.2 with
  | none =>
    let u := unitRow e.1 e.2
    ((unitEvent Code.darnVerify u ((darnDie e.1 e.2 role s).stand u true)).retire).respond m Code.darnVerify []
  | some r =>
    let s := s.changeTo (s.modMp fun p => { p with faulty := KV.upd 0 p.faulty f.1 (· ||| 2 ^ r) }) 1 role 3 f.1
    let s := darnDie e.1 e.2 role s
    ((unitEvent Code.darnBeyond (unitRow f.1 r) s).retire).respond m Code.darnBeyond []

/-- DARN_APPLY (R449, R450), die by pending die. Steps 2 and 3 cover all four dies: `fail` names a die where one fails,
met in the round of that die, or in the first when the die has no pending row. -/
def darnApply (m : Nat) (fail : Option (Nat × Option Nat)) (s : State) : State :=
  match s.darn m 1 with
  | none => s
  | some _ =>
    if s.mp.pendingRow.isEmpty ∨ slots8.any (fun c => (s.slot c).st != .empty) = true then s.respond m Code.mbxState []
    else
      let role := KV.get 0 s.mp.roles 1
      let at_ := fail.map fun f => if (KV.find? s.mp.pendingRow f.1).isSome then f.1 else ((s.mp.pendingRow.map (·.1)).headD 0)
      let go := s.mp.pendingRow.takeWhile fun e => at_ != some e.1
      let s' := forEach go (fun e s => darnDie e.1 e.2 role s) s
      match fail, s.mp.pendingRow.drop go.length with
      | some f, e :: _ => darnFail m e f role s'
      | _, _ =>
        let s' := forEach s.mp.pendingRow (fun e s => s.stand (unitRow e.1 e.2) false) s'
        ((s'.modMp fun p => { p with darnApplies := sat32 p.darnApplies 1 }).settleHealth).respond m 0 []

/-- DARN_MARK. -/
def darnMark (m : Nat) (s : State) : State :=
  match s.darn m 2 with
  | none => s
  | some r => (rowFaulty (r.num 1 1) (r.num 2 1) 1 (KV.get 0 s.mp.roles 1) s).respond m 0 []

/-- DARN_CLEAR_LANE. -/
def darnClearLane (m : Nat) (s : State) : State :=
  match s.darn m 3 with
  | none => s
  | some r =>
    let key := 2 * r.num 1 1 + r.num 3 1
    let old := KV.get 0 s.mp.marked key
    let s := if old.getLsbD (r.num 2 1) then
        (s.changeTo (s.modMp fun p => { p with marked := KV.set 0 p.marked key (old &&& ~~~(1#9 <<< r.num 2 1)) }) 1
          (KV.get 0 s.mp.roles 1) 3 (r.num 1 1)).settleHealth
      else s
    s.respond m 0 []

/-! ### BRIDGE_RESEND -/

/-- A resend of credit bridge `b` (R20): counted, logged once per Stroke, and fatal beyond 10,000 an hour
(Table 14.7). The record's code 0, arg 0, origin MP and slot 0xFF, which do not name the bridge, are the model's choice
(log entry 100). -/
def bridgeResend (b : Nat) (s : State) : State :=
  let s := s.note (evKey 19 b)
  let s := if NSet.mem s.mp.resendLogged b then s
    else (s.modMp fun p => { p with resendLogged := NSet.add p.resendLogged b }).log 0 originMp 0xFF 0 0
  if 10000 < s.mp.recent (evKey 19 b) s.now (day / 24) then s.retire else s

def execTstStep (cut : Bool) (s : State) : Res := powered s (tstStep cut s)
def execTstResult (found : TstFound) (row : Fin 17) (s : State) : Res := powered s (tstResult found row.val s)
def execOpSelftest (m : Mbox) (s : State) : Res := powered s (selftest m.val s)
def execDarnRead (m : Mbox) (s : State) : Res := powered s (darnRead m.val s)
def execDarnApply (m : Mbox) (fail : Option (Die × Option (Fin 17))) (s : State) : Res :=
  powered s (darnApply m.val (fail.map fun f => (f.1.val, f.2.map (·.val))) s)
def execDarnMark (m : Mbox) (s : State) : Res := powered s (darnMark m.val s)
def execDarnClearLane (m : Mbox) (s : State) : Res := powered s (darnClearLane m.val s)
def execBridgeResend (b : Nat) (s : State) : Res := powered s (bridgeResend b s)

end Sys2Proof.Machine
end

