-- ==== Sys2Proof/Machine/Mgmt.lean ====
section
/-!
DEFINITION. Requests to the management processor (15_management_and_security, R462 to R484): roles, MCTP control, PLDM,
SPDM and the vendor commands, the transports that carry them, and firmware updates. Each request answers with the
bytes that follow its header; the fields of the standards' messages are PRESUMED (log entry 70), the bodies of the vendor
commands are the model's (log entry 71).
-/

namespace Sys2Proof.Machine

/-! ### Interfaces and roles -/

/-- An answer and the state after the request. -/
abbrev Answer := List Byte × State

/-- Is the interface an MCTP endpoint (R483)? -/
def mctpOn : Iface → Bool
  | .mailbox | .i3c | .smbus | .ghlMgmt => true
  | .uart | .doe => false

/-- Longest answer on an interface: 1,960 bytes on the mailbox (R484), else 4,096 (R483). -/
def limitOf : Iface → Nat
  | .mailbox => 1960
  | _ => 4096

/-- Role of an interface (R468). -/
def roleOf (s : State) (i : Iface) : Nat := KV.get 0 s.mp.roles i.origin

/-- Serve a request that needs a role, or refuse it with F_ROLE_DENIED (R469); `no` is the refusal's answer. -/
def withRole (i : Iface) (role : Nat) (no : List Byte) (f : State → Answer) (s : State) : Answer :=
  if roleOf s i < role then (no, s.log Code.roleDenied originMp 0xFF 0 0) else f s

/-- Serve MCTP control and PLDM on an MCTP endpoint only. -/
def onMctp (i : Iface) (f : State → Answer) (s : State) : Answer := if mctpOn i then f s else ([], s)

/-- Field of a request body. -/
def bnum (b : List Byte) (off n : Nat) : Nat := leNat ((b.drop off).take n)

/-! ### MCTP control (R483) -/

def setEid (i : Iface) (b : List Byte) (s : State) : Answer :=
  let op := bnum b 0 1 % 4
  let eid := b.getD 1 0
  if b.length < 2 then ([3], s)
  else if op ≤ 1 then
    if eid = 0 ∨ eid = 0xFF then ([2], s)
    else ([0, 0, eid, 0], s.modMp fun p => { p with eids := KV.set 0 p.eids i.origin eid })
  else ([2], s)

def getEid (i : Iface) (s : State) : Answer := ([0, KV.get 0 s.mp.eids i.origin, 0, 0], s)

def verBytes (k : Nat) : List Byte := leBytes 4 (Config.protocolVersion k).toNat

/-- Versions by message type of Table 15.10. -/
def mctpVersion (b : List Byte) (s : State) : Answer :=
  let t := bnum b 0 1
  if [0, 1, 5, 0x7E, 0xFF].elem t then ([0, 1] ++ verBytes t, s) else ([0x80], s)

def messageTypes (s : State) : Answer := ([0, 4, 0x00, 0x01, 0x05, 0x7E], s)

def factoryBytes (kind n : Nat) : List Byte := (List.range n).map (Config.factory kind)

def endpointUuid (s : State) : Answer := (0 :: factoryBytes 6 16, s)

/-! ### PLDM base -/

def tid (s : State) : Answer := ([0, Config.factory 7 0], s)

def crcBitsP (poly : W32) : Nat → W32 → W32
  | 0, c => c
  | n + 1, c => crcBitsP poly n (if c.getLsbD 0 then (c >>> 1) ^^^ poly else c >>> 1)

/-- The CRC-32 of PLDM transfers. -/
def crc32 (bs : List Byte) : W32 :=
  ~~~ (bs.foldl (fun c b => crcBitsP 0xEDB88320#32 8 (c ^^^ b.setWidth 32)) 0xFFFFFFFF#32)

/-- PLDM types 0, 2 and 5. -/
def pldmVersion (b : List Byte) (s : State) : Answer :=
  let t := bnum b 5 1
  if [0, 2, 5].elem t then
    let v := verBytes (256 + t)
    ([0, 0, 0, 0, 0, 5] ++ v ++ leBytes 4 (crc32 v).toNat, s)
  else ([0x83], s)

def pldmTypes (s : State) : Answer := ([0, 0x25, 0, 0, 0, 0, 0, 0, 0], s)

/-- Command codes of a PLDM type. -/
def pldmCodes (t : Nat) : List Nat :=
  if t = 0 then [2, 3, 4, 5]
  else if t = 2 then [0x04, 0x0A, 0x11, 0x50, 0x51]
  else if t = 5 then [0x01, 0x02, 0x10, 0x13, 0x14, 0x15, 0x16, 0x17, 0x18, 0x1A, 0x1B, 0x1C, 0x1D]
  else []

/-- A 32-byte bitmap. -/
def bitmap32 (l : List Nat) : List Byte := leBytes 32 (l.foldl (fun a k => a + 2 ^ k) 0)

def pldmCommands (b : List Byte) (s : State) : Answer :=
  let t := bnum b 0 1
  if [0, 2, 5].elem t then (0 :: bitmap32 (pldmCodes t), s) else ([0x83], s)

/-! ### PLDM platform -/

/-- The serial number of the device. -/
def serial : List Byte := factoryBytes 0 16

/-- The sensors of Table 15.1. -/
def sensors22 : List Nat := (List.range 22).map (· + 1)

/-- Does the sensor's die exist (R464)? Sensors 5 to 12 belong to stacks, 13 to 16 to I/O dies. -/
def sensorFitted (s : State) (id : Nat) : Bool :=
  if 5 ≤ id ∧ id ≤ 12 then s.stackFitted (id - 5)
  else if 13 ≤ id ∧ id ≤ 16 then s.ioFitted (id - 13)
  else true

def pdrInfo (s : State) : Answer :=
  let sizes := sensors22.map fun k => (Config.pdr k).length
  ([0, 0] ++ factoryBytes 8 26 ++ leBytes 4 22 ++ leBytes 4 sizes.sum ++ leBytes 4 (sizes.foldl max 0) ++ [0], s)

/-- GetPDR: one part of a record. -/
def pdr (b : List Byte) (s : State) : Answer :=
  let h := if bnum b 0 4 = 0 then 1 else bnum b 0 4
  if 22 < h then ([0x82], s)
  else
    let off := if bnum b 8 1 = 1 then 0 else bnum b 4 4
    let rest := (Config.pdr h).drop off
    let part := rest.take (bnum b 9 2)
    let last := part.length == rest.length
    let flag := if off = 0 then (if last then 5 else 0) else (if last then 4 else 1)
    ([0] ++ leBytes 4 (if h = 22 then 0 else h + 1) ++ leBytes 4 (if last then 0 else off + part.length) ++
      leBytes 1 flag ++ leBytes 2 part.length ++ part, s)

/-- Two's complement of a reading in 32 bits. -/
def reading32 (v : Int) : List Byte := leBytes 4 (BitVec.ofInt 32 v).toNat

/-- GetSensorReading: enabled or unavailable, its state, its reading in units of its resolution. -/
def sensorReading (b : List Byte) (s : State) : Answer :=
  let id := bnum b 0 2
  if sensors22.elem id = false then ([0x80], s)
  else if sensorFitted s id = false then ([0, 5, 2, 0, 0, 0, 0] ++ reading32 0, s)
  else
    let st : Byte := if NSet.mem s.power.hot id then 3 else if NSet.mem s.power.warm id then 2 else 1
    ([0, 5, 0, 0, st, 0, st] ++ reading32 (KV.get 0 s.mp.sensors id), s)

def setEventReceiver (i : Iface) (b : List Byte) (s : State) : Answer :=
  withRole i 2 [1] (fun s =>
    if bnum b 0 1 = 0 then ([0], s.modMp fun p => { p with eventRx := none })
    else if bnum b 1 1 ≠ 0 then ([0x80], s)
    else ([0], s.modMp fun p => { p with eventRx := some (leBytes 1 i.origin ++ [b.getD 2 0]) })) s

/-! ### PLDM firmware update (R479, R483) -/

def deviceIds (s : State) : Answer := ([0] ++ leBytes 4 6 ++ [1, 0, 0, 2, 0] ++ factoryBytes 5 2, s)

def FwSlot.version (f : FwSlot) : W32 :=
  BitVec.ofNat 32 (f.patch.toNat + 256 * f.minor.toNat + 65536 * f.major.toNat + 16777216 * f.svn.toNat)

/-- Put the slot numbered 0 (A) or 1 (B). -/
def Mp.setFw (p : Mp) (n : Nat) (f : FwSlot) : Mp := if n = 0 then { p with slotA := f } else { p with slotB := f }

/-- A candidate of R480. -/
def Mp.candidate (p : Mp) (n : Nat) : Bool := (p.fw n).verifies && decide (p.floor ≤ (p.fw n).svn.toNat)

/-- Component identifiers with the version word of the running bundle; the calibration record shows its origin. -/
def firmwareParameters (s : State) : Answer :=
  let v := ((s.mp.fw s.mp.running).version).toNat
  ([0] ++ leBytes 4 0 ++ leBytes 2 4 ++
    ([1, 2, 3].flatMap fun c => leBytes 2 c ++ leBytes 4 v) ++ leBytes 2 4 ++ leBytes 4 s.mp.calNow.origin, s)

def requestUpdate (i : Iface) (s : State) : Answer :=
  withRole i 2 [1] (fun s =>
    if s.mp.update.isSome then ([0x81], s)
    else ([0, 0, 0, 0], s.modMp fun p => { p with update := some ⟨i.origin, [], none, [], [], false, none⟩ })) s

/-- Serve a request of the update in progress, for the interface that began it. -/
def inUpdate (i : Iface) (f : FwUpdate → State → Answer) (s : State) : Answer :=
  withRole i 2 [1] (fun s =>
    match s.mp.update with
    | some u => if u.iface = i.origin then f u s else ([0x80], s)
    | none => ([0x80], s)) s

def setUpdate (u : Option FwUpdate) (s : State) : State := s.modMp fun p => { p with update := u }

def passComponent (i : Iface) (b : List Byte) (s : State) : Answer :=
  inUpdate i (fun u s =>
    let id := bnum b 3 2
    if id < 1 ∨ 4 < id then ([0, 1, 6], s)
    else ([0, 0, 0], setUpdate (some { u with table := u.table ++ (if u.table.elem id then [] else [id]) }) s)) s

/-- Ask for the next part of a component, at most 4,096 bytes. -/
def askData (u : FwUpdate) (s : State) : State :=
  match u.cur with
  | some (_, size) =>
    s.originate u.iface ([1, 0x80, 5, 0x15] ++ leBytes 4 u.got.length ++ leBytes 4 (min 4096 (size - u.got.length)))
  | none => s

def updateComponent (i : Iface) (b : List Byte) (s : State) : Answer :=
  inUpdate i (fun u s =>
    let id := bnum b 2 2
    if u.table.elem id = false ∨ u.cur.isSome = true then ([0, 1, 6] ++ leBytes 4 0 ++ leBytes 2 0, s)
    else
      let u := { u with cur := some (id, bnum b 9 4), got := [] }
      ([0, 0, 0] ++ leBytes 4 0 ++ leBytes 2 0, askData u (setUpdate (some u) s))) s

/-- A message of the MP to the update agent: TransferComplete 0x16, VerifyComplete 0x17, ApplyComplete 0x18. -/
def tellUpdate (code : Nat) (body : List Byte) (u : FwUpdate) (s : State) : State :=
  s.originate u.iface ([1, 0x80, 5] ++ leBytes 1 code ++ body)

/-- VerifyComplete with a refusal: the result is 0x90 plus the low byte of its fault code (log entry 96). -/
def tellRefusal (code : Nat) (u : FwUpdate) (s : State) : State := tellUpdate 0x17 (leBytes 1 (0x90 + code % 256)) u s

/-- VerifyComplete with success, then ApplyComplete. -/
def tellApplied (u : FwUpdate) (s : State) : State := tellUpdate 0x18 [0, 0, 0] u (tellUpdate 0x17 [0] u s)

/-- Limits of a die's supply voltage in millivolts (Table 16.4): compute dies 0 to 3, memory-side dies 4 to 11, X0 12,
whose rail is fixed, X1 to X3 13 to 15. -/
def voltLimits (die : Nat) : Nat × Nat :=
  if die < 4 then (650, 850) else if die < 12 then (800, 920) else if die = 12 then (800, 800) else (780, 900)

/-- Does every value of a calibration record lie in its limits (R475)? An offset of a temperature sensor lies within 8
degrees, which is 64 units. -/
def calInRange (raw : List Byte) : Bool :=
  raw.length == 16384 && Config.calSerial raw == serial &&
  ((List.range 16).all fun d => (List.range 8).all fun k =>
    decide ((voltLimits d).1 ≤ Config.calVolt raw d k) && decide (Config.calVolt raw d k ≤ (voltLimits d).2)) &&
  ((List.range 16).all fun p => decide (Config.calPreset raw p ≤ 15)) &&
  sensors22.all fun id =>
    if 17 ≤ id ∧ id ≤ 20 then Config.calPercentOk raw id else decide ((Config.calOffset raw id).natAbs ≤ 64)

/-- A calibration record arrives whole (R475, R476). -/
def takeCal (raw : List Byte) (u : FwUpdate) (role : Nat) (s : State) : State :=
  if calInRange raw = false then tellRefusal Code.calRange u s
  else if Config.calFactory raw = true ∧ Config.calSigOk raw = false then tellRefusal Code.calSignature u s
  else
    tellApplied u (s.changeTo (s.modMp fun p => { p with cal := ⟨if Config.calFactory raw then 0 else 1, raw⟩ })
      u.iface role 2 4)

/-- Components of the bundle that the table names. -/
def FwUpdate.bundle (u : FwUpdate) : List Nat := u.table.filter (· ≤ 3)

/-- Put the slot that does not run, and record the change from the slot as it stood before the update (R470). -/
def recordSlot (f : FwSlot) (u : FwUpdate) (role : Nat) (s : State) : State :=
  let n := 1 - s.mp.running
  let t := s.modMp fun p => p.setFw n f
  t.change u.iface role 5 n (u.old.getD (s.formHash 5 n)) (t.formHash 5 n)

/-- VerifyComplete of a bundle in the slot that does not run (R479). -/
def takeBundle (u : FwUpdate) (role : Nat) (s : State) : State :=
  let refuse := fun (code : Nat) =>
    tellRefusal code u (setUpdate (some { u with old := none }) (recordSlot .none u role s))
  match Config.bundle u.done with
  | none => refuse Code.fwSignature
  | some v =>
    if bitsOf v.toNat 29 24 < s.mp.floor then refuse Code.fwRollback
    else
      let f : FwSlot :=
        { verifies := true, patch := v.setWidth 8, minor := (v >>> 8).setWidth 8, major := (v >>> 16).setWidth 8
          svn := (v >>> 24).setWidth 8 &&& 0x3F, digests := u.done.foldl (fun m e => KV.insert m e.1 (sha384 e.2)) []
          good := false, tries := 0 }
      tellApplied u (setUpdate (some { u with ready := true, old := none }) (recordSlot f u role s))

/-- Component data that the MP asked for arrives and is written to flash (R479): the first of a bundle leaves the slot that
does not run without a valid one. -/
def firmwareData (i : Iface) (b : List Byte) (s : State) : Answer :=
  inUpdate i (fun u s =>
    match u.cur with
    | none => ([], s)
    | some (id, size) =>
      let role := roleOf s i
      let got := (u.got ++ b.drop 1).take size
      let n := 1 - s.mp.running
      let u := if id ≤ 3 then { u with old := some (u.old.getD (s.formHash 5 n)), ready := false } else u
      let s := if id ≤ 3 then s.modMp fun p => p.setFw n .none else s
      if got.length < size then
        let u := { u with got := got }
        ([], askData u (setUpdate (some u) s))
      else
        let keep := u.done.filter fun e => e.1 != id
        let u := { u with cur := none, got := [], done := if id ≤ 3 then keep ++ [(id, got)] else keep }
        let s := tellUpdate 0x16 [0] u (setUpdate (some u) s)
        if id = 4 then ([], takeCal got u role s)
        else if u.bundle.all (fun c => u.done.any fun e => e.1 == c) then ([], takeBundle u role s)
        else ([], s)) s

/-- ACTIVATE_FIRMWARE (R480): the newly written slot becomes active. -/
def activateFirmware (i : Iface) (s : State) : Answer :=
  inUpdate i (fun u s =>
    if u.cur.isSome = true ∨ (u.bundle.isEmpty = false ∧ u.ready = false) then ([0x85], s)
    else
      let s := s.modMp fun p => { p with active := if u.ready then 1 - p.running else p.active, update := none }
      ([0, 0, 0], s)) s

/-- State of the update: idle, learning components, ready for a transfer, downloading. -/
def updateStatus (s : State) : Answer :=
  let st := match s.mp.update with
    | none => 0
    | some u => if u.cur.isSome then 3 else if u.table.isEmpty then 1 else 2
  ([0] ++ leBytes 1 st ++ [0, 3, 0, 0x65, 0] ++ leBytes 4 0, s)

def cancelComponent (i : Iface) (s : State) : Answer :=
  inUpdate i (fun u s =>
    if u.cur.isNone then ([0x80], s) else ([0], setUpdate (some { u with cur := none, got := [] }) s)) s

/-- CancelUpdate: a slot that the update had begun to write stays without a valid bundle, which is a change (R470). -/
def cancelUpdate (i : Iface) (s : State) : Answer :=
  inUpdate i (fun u s =>
    let s := if u.old.isSome then recordSlot .none u (roleOf s i) s else s
    ([0, 0] ++ leBytes 8 0, setUpdate none s)) s

/-! ### Measurements (R481) -/

/-- Digest of a component of the booted slot (measurements 2 to 4). -/
def compDigest (s : State) (c : Nat) : List Byte :=
  (KV.find? (s.mp.fw s.mp.running).digests c).getD (factoryBytes (1 + c) 48)

/-- Configuration and role map. -/
def configNats (s : State) : List Nat :=
  [1, 2, 3].flatMap s.mp.config.item ++ [256] ++ s.form 8 0

/-- Rollback floor, debug_unlocked, owner key hash. -/
def fuseNats (s : State) : List Nat :=
  [s.mp.floor, s.mp.debugUnlocked.toNat] ++ nats ((s.mp.ownerKey.map sha384).getD [])

/-- Measurement `k` of Table 15.9. -/
def measurement (s : State) (k : Nat) : List Byte :=
  if k = 1 then factoryBytes 1 48
  else if k ≤ 4 then compDigest s (k - 1)
  else if k = 5 then s.formHash 2 4
  else if k = 6 then s.formHash 3 0
  else if k = 7 then formBytes 10 (configNats s)
  else if k = 8 then (s.mp.changes.head?.map fun r => sha384 r.bytes).getD (formBytes 0 [])
  else formBytes 9 (fuseNats s)

def nine : List Nat := [1, 2, 3, 4, 5, 6, 7, 8, 9]

/-! ### SPDM (R482) -/

/-- SPDM runs over MCTP and over PCIe DOE. -/
def onSpdm (i : Iface) (f : State → Answer) (s : State) : Answer := if mctpOn i || i == .doe then f s else ([], s)

def modSpdm (f : Spdm → Spdm) (s : State) : State := s.modMp fun p => { p with spdm := f p.spdm }

/-- An SPDM ERROR message: 1 invalid request, 4 unexpected request. -/
def spdmError (e : Byte) (s : State) : Answer := ([0x7F, e, 0], s)

/-- Versions 1.2 and 1.3. -/
def spdmVersion (s : State) : Answer :=
  ([0x04, 0, 0, 0, 2, 0x00, 0x12, 0x00, 0x13], modSpdm (fun _ => ⟨some 0, false, false⟩) s)

/-- CERT_CAP, CHAL_CAP and MEAS_CAP with signature. -/
def spdmCaps (s : State) : Answer :=
  if s.mp.spdm.version.isNone then spdmError 4 s
  else ([0x61, 0, 0, 0, Config.factory 9 0, 0, 0] ++ leBytes 4 0x16 ++ leBytes 4 4096 ++ leBytes 4 4096,
    modSpdm (fun p => { p with caps := true, algs := false }) s)

/-- ECDSA P-384 with SHA-384, where the requester offers them. -/
def spdmAlgs (b : List Byte) (s : State) : Answer :=
  if s.mp.spdm.caps = false then spdmError 4 s
  else
    ([0x63, 0, 0] ++ leBytes 2 36 ++ [1, 0] ++ leBytes 4 4 ++ leBytes 4 (bnum b 6 4 &&& 0x80) ++
      leBytes 4 (bnum b 10 4 &&& 2) ++ List.replicate 12 0 ++ leBytes 4 0, modSpdm (fun p => { p with algs := true }) s)

/-- The chain of certificate slot 0. -/
def chain0 (s : State) : List Byte := Config.certChain ([1, 2, 3].flatMap fun c => nats (compDigest s c))

/-- Requests after NEGOTIATE_ALGORITHMS. -/
def afterAlgs (f : State → Answer) (s : State) : Answer := if s.mp.spdm.algs then f s else spdmError 4 s

def spdmDigests (s : State) : Answer := afterAlgs (fun s => ([0x01, 0, 1] ++ sha384 (chain0 s), s)) s

def spdmCert (b : List Byte) (s : State) : Answer :=
  afterAlgs (fun s =>
    let rest := (chain0 s).drop (bnum b 2 2)
    if bnum b 0 1 % 16 ≠ 0 ∨ (chain0 s).length ≤ bnum b 2 2 then spdmError 1 s
    else
      let part := rest.take (min (bnum b 4 2) 1024)
      ([0x02, 0, 0] ++ leBytes 2 part.length ++ leBytes 2 (rest.length - part.length) ++ part, s)) s

/-- Open bytes: a nonce, or a signature by the Alias key, which no requester holds (log entry 1). -/
def freeBytes : Nat → State → List Byte × State
  | 0, s => ([], s)
  | n + 1, s =>
    let (v, s) := s.free
    let (bs, s) := freeBytes n s
    (leBytes 8 v.toNat ++ bs, s)

def spdmChallenge (b : List Byte) (s : State) : Answer :=
  afterAlgs (fun s =>
    if bnum b 0 1 % 16 ≠ 0 then spdmError 1 s
    else
      let sum := if bnum b 1 1 = 0 then [] else sha384 (nine.flatMap (measurement s))
      let (nonce, s1) := freeBytes 4 s
      let (sig, s2) := freeBytes 12 s1
      ([0x03, 0, 1] ++ sha384 (chain0 s) ++ nonce ++ sum ++ [0, 0] ++ sig, s2)) s

/-- A measurement block. -/
def measBlock (s : State) (k : Nat) : List Byte :=
  leBytes 1 k ++ [1] ++ leBytes 2 51 ++ leBytes 1 (if k = 1 ∨ k = 9 then 0 else 1) ++ leBytes 2 48 ++ measurement s k

def spdmMeasurements (b : List Byte) (s : State) : Answer :=
  afterAlgs (fun s =>
    let op := bnum b 1 1
    let ks := if op = 0 then [] else if op = 255 then nine else [op]
    if op ≠ 0 ∧ op ≠ 255 ∧ 9 < op then spdmError 1 s
    else
      let recs := ks.flatMap (measBlock s)
      let head := [0x60] ++ leBytes 1 (if op = 0 then 9 else 0) ++ [0] ++ leBytes 1 ks.length ++ leBytes 3 recs.length ++ recs
      let (nonce, s) := freeBytes 4 s
      if bnum b 0 1 % 2 = 1 then
        let (sig, s) := freeBytes 12 s
        (head ++ nonce ++ [0, 0] ++ sig, s)
      else (head ++ nonce ++ [0, 0], s)) s

/-! ### Vendor commands (Table 15.6) -/

/-- Serve a vendor command on every interface of the role map. -/
def onVendor (i : Iface) (role : Nat) (f : State → Answer) (s : State) : Answer :=
  if i = .doe then ([], s) else withRole i role (leBytes 2 Code.roleDenied) f s

/-- The 32 bytes of Table 15.2. -/
def EvRec.bytes (r : EvRec) : List Byte :=
  leBytes 4 r.seq.toNat ++ leBytes 8 r.time.toNat ++ leBytes 2 r.code ++ leBytes 1 r.origin ++ leBytes 1 r.slot ++
    leBytes 4 r.arg.toNat ++ leBytes 6 r.mark.toNat ++ leBytes 6 r.ext.toNat

/-- GET_LOG: records from a seq on, oldest first, out of the RAM ring and the older ones of the flash ring. -/
def getLog (i : Iface) (b : List Byte) (s : State) : Answer :=
  onVendor i 1 (fun s =>
    let ram := s.mp.log.reverse
    let old := s.mp.flashLog.reverse.filter fun r => !ram.any fun q => q.seq == r.seq
    let rs := (old ++ ram).filter fun r => decide (bnum b 0 4 ≤ r.seq.toNat)
    (leBytes 2 0 ++ (rs.take ((limitOf i - 6) / 32)).flatMap EvRec.bytes, s)) s

/-- GET_CHANGES. -/
def getChanges (i : Iface) (b : List Byte) (s : State) : Answer :=
  onVendor i 1 (fun s =>
    let rs := s.mp.changes.reverse.filter fun r => decide (bnum b 0 8 ≤ r.seq)
    (leBytes 2 0 ++ (rs.take ((limitOf i - 6) / 192)).flatMap ChangeRec.bytes, s)) s

/-- SET_TIME (R466). -/
def setTime (i : Iface) (b : List Byte) (s : State) : Answer :=
  onVendor i 2 (fun s =>
    let v := bnum b 0 8
    if 2 ^ 63 ≤ v ∨ (s.mp.wall.isSome = true ∧ v < s.time.toNat) then (leBytes 2 Code.mgmtTime, s)
    else
      let t := s.now
      (leBytes 2 0, s.modMp fun p => { p with wall := some (v, t) })) s

/-- A configuration with an item changed (Table 15.7). -/
def MpConfig.put (c : MpConfig) (item : Nat) (v : List Byte) : Option MpConfig :=
  if item = 1 then
    if bnum v 0 4 = 0 then some { c with hashKey := none }
    else if bnum v 0 4 = 1 then some { c with hashKey := some (BitVec.ofNat 32 (bnum v 4 4)) }
    else none
  else if item = 2 then if bnum v 0 1 ≤ 3 then some { c with cooling := bnum v 0 1 } else none
  else if item = 3 then some { c with receiver := if bnum v 0 1 = 0 then [] else v.take 2 }
  else none

/-- SET_CONFIG (R472): the item, then its value. -/
def setConfig (i : Iface) (b : List Byte) (s : State) : Answer :=
  onVendor i 2 (fun s =>
    match s.mp.config.put (bnum b 0 1) (b.drop 1) with
    | none => (leBytes 2 Code.mbxFormat, s)
    | some c =>
      let role := roleOf s i
      (leBytes 2 0, s.changeTo (s.modMp fun p => { p with config := c }) i.origin role 1 (bnum b 0 1))) s

/-- COMMIT_SVN (R480). -/
def commitSvn (i : Iface) (s : State) : Answer :=
  onVendor i 2 (fun s =>
    let f := s.mp.fw s.mp.running
    if f.good = false ∨ 63 < f.svn.toNat then (leBytes 2 Code.fwRollback, s)
    else if f.svn.toNat ≤ s.mp.floor then (leBytes 2 0, s)
    else
      let role := roleOf s i
      (leBytes 2 0, s.changeTo (s.modMp fun p => { p with floor := f.svn.toNat }) i.origin role 6 0)) s

/-- Is `sig` the owner's signature over the body, the serial number and the owner counter (R469)? -/
def ownerSigned (s : State) (body sig : List Byte) : Bool :=
  match s.mp.ownerKey with
  | some k => ecdsaVerify k (sha384 (body ++ serial ++ leBytes 4 s.mp.ownerCtr.toNat)) sig
  | none => false

/-- Serve a command that needs OWNER: its body, then 96 bytes of signature (R469, log entry 73). The owner counter rises
when the command is accepted: its answer begins with the code 0. -/
def asOwner (n : Nat) (b : List Byte) (f : List Byte → State → Answer) (s : State) : Answer :=
  if ownerSigned s (b.take n) (b.drop n) then
    let (r, t) := f (b.take n) s
    (r, if r.take 2 = leBytes 2 0 then t.modMp fun p => { p with ownerCtr := p.ownerCtr + 1 } else t)
  else (leBytes 2 Code.ownerAuth, s.log Code.ownerAuth originMp 0xFF 0 0)

/-- Install an owner key. -/
def installOwner (i : Iface) (role : Nat) (key : List Byte) (s : State) : Answer :=
  if key.length ≠ 96 then (leBytes 2 Code.mbxFormat, s)
  else (leBytes 2 0, s.changeTo (s.modMp fun p => { p with ownerKey := some key }) i.origin role 7 0)

/-- TAKE_OWNERSHIP (R469): the key's 96 bytes, then a signature when the device is owned. -/
def takeOwnership (i : Iface) (b : List Byte) (s : State) : Answer :=
  if i = .doe then ([], s)
  else if s.mp.ownerKey.isNone then onVendor i 2 (fun s => installOwner i (roleOf s i) b s) s
  else asOwner 96 b (installOwner i 3) s

/-- SET_ROLES (R468): five role codes for origins 1 to 5, then a signature; the mailbox keeps at least READER. -/
def setRoles (i : Iface) (b : List Byte) (s : State) : Answer :=
  if i = .doe then ([], s)
  else
    asOwner 5 b (fun b s =>
      let rs := nats b
      if rs.any (fun r => decide (3 < r)) ∨ rs.headD 0 = 0 then (leBytes 2 Code.mbxFormat, s)
      else
        let m : KV Nat := rs.zipIdx.foldl (fun m e => KV.set 0 m (e.2 + 1) e.1) []
        (leBytes 2 0, s.changeTo (s.modMp fun p => { p with roles := m }) i.origin 3 8 0)) s

def serviceChallenge (i : Iface) (s : State) : Answer :=
  onVendor i 1 (fun s => (leBytes 2 0 ++ leBytes 4 s.mp.serviceCtr.toNat, s)) s

/-- Is a service record valid (R477)? -/
def serviceOk (s : State) (b : List Byte) : Bool :=
  b.length == 192 && bnum b 0 4 == 0x56435253 && (b.drop 4).take 16 == serial &&
    (bnum b 20 4 == 1 || bnum b 20 4 == 2) && bnum b 24 4 == s.mp.serviceCtr.toNat && bnum b 28 68 == 0 &&
    ecdsaVerify (((List.range 96).map Config.serviceKey)) (sha384 (b.take 96)) (b.drop 96)

/-- Conditions of Table 14.7 that are still present after RETIRED is cleared (R477): resends and empty pools within their
windows, a die that holds two faulty rows, and the units of a lasting CROSS or MEM result or of F_DARN_VERIFY. -/
def stillRetired (s : State) : Bool :=
  let bs := (s.mp.events.filter fun e => e.1 / 4294967296 == 19).map (·.1)
  bs.any (fun k => decide (10000 < s.mp.recent k s.now (day / 24))) ||
    slots8.any (fun j => decide (8 ≤ s.mp.recent (evKey 17 j) s.now day)) ||
    dies4.any (fun d => decide (2 ≤ ((List.range 17).filter (KV.get 0 s.mp.faulty d).testBit).length)) ||
    !s.mp.standing.isEmpty

/-- SERVICE_RECORD (R477). -/
def serviceRecord (i : Iface) (b : List Byte) (s : State) : Answer :=
  onVendor i 1 (fun s =>
    if serviceOk s b then
      let s := s.modMp fun p => { p with serviceCtr := p.serviceCtr + 1 }
      if bnum b 20 4 = 2 then (leBytes 2 0, s.modMp fun p => { p with debugUnlocked := true })
      else
        let s := (s.changeTo (s.modMp fun p => { p with retired := false, retireDue := false }) 0x20 4 9 0).settleHealth
        (leBytes 2 0, if stillRetired s then s.retire else s)
    else (leBytes 2 Code.serviceRecord, s.log Code.serviceRecord originMp 0xFF 0 0)) s

/-! ### Messages -/

/-- MCTP control by command code. -/
def controlMsg (i : Iface) (code : Nat) (b : List Byte) (s : State) : Answer :=
  if code = 1 then setEid i b s
  else if code = 2 then getEid i s
  else if code = 3 then endpointUuid s
  else if code = 4 then mctpVersion b s
  else if code = 5 then messageTypes s
  else ([5], s)

/-- PLDM by type and command code. -/
def pldmMsg (i : Iface) (type code : Nat) (b : List Byte) (s : State) : Answer :=
  if type = 0 ∧ code = 2 then tid s
  else if type = 0 ∧ code = 3 then pldmVersion b s
  else if type = 0 ∧ code = 4 then pldmTypes s
  else if type = 0 ∧ code = 5 then pldmCommands b s
  else if type = 2 ∧ code = 0x50 then withRole i 1 [1] pdrInfo s
  else if type = 2 ∧ code = 0x51 then withRole i 1 [1] (pdr b) s
  else if type = 2 ∧ code = 0x11 then withRole i 1 [1] (sensorReading b) s
  else if type = 2 ∧ code = 4 then setEventReceiver i b s
  else if type = 5 ∧ code = 1 then deviceIds s
  else if type = 5 ∧ code = 2 then firmwareParameters s
  else if type = 5 ∧ code = 0x10 then requestUpdate i s
  else if type = 5 ∧ code = 0x13 then passComponent i b s
  else if type = 5 ∧ code = 0x14 then updateComponent i b s
  else if type = 5 ∧ code = 0x15 then firmwareData i b s
  else if type = 5 ∧ code = 0x1A then activateFirmware i s
  else if type = 5 ∧ code = 0x1B then updateStatus s
  else if type = 5 ∧ code = 0x1C then cancelComponent i s
  else if type = 5 ∧ code = 0x1D then cancelUpdate i s
  else ([5], s)

/-- SPDM by request code; the body begins with the two parameters. -/
def spdmMsg (code : Nat) (b : List Byte) (s : State) : Answer :=
  if code = 0x84 then spdmVersion s
  else if code = 0xE1 then spdmCaps s
  else if code = 0xE3 then spdmAlgs b s
  else if code = 0x81 then spdmDigests s
  else if code = 0x82 then spdmCert b s
  else if code = 0x83 then spdmChallenge b s
  else if code = 0xE0 then spdmMeasurements b s
  else ([0x7F, 7, 0], s)

/-- Vendor commands by code (Table 15.6). -/
def vendorMsg (i : Iface) (code : Nat) (b : List Byte) (s : State) : Answer :=
  if code = 1 then getLog i b s
  else if code = 2 then getChanges i b s
  else if code = 3 then setTime i b s
  else if code = 4 then setConfig i b s
  else if code = 5 then commitSvn i s
  else if code = 6 then takeOwnership i b s
  else if code = 7 then setRoles i b s
  else if code = 8 then serviceChallenge i s
  else if code = 9 then serviceRecord i b s
  else (leBytes 2 Code.mbxOpcode, s)

/-- One MCTP message, from its type byte on (Table 15.10), and its response; a message of no supported type, or a
response to the MP, has none. -/
def serveMsg (i : Iface) (m : List Byte) (s : State) : Answer :=
  let t := bnum m 0 1
  if t = 0 then
    let (r, s) := controlMsg i (bnum m 2 1) (m.drop 3) s
    ([0, m.getD 1 0 &&& 0x7F, m.getD 2 0] ++ r, s)
  else if t = 1 then
    let (r, s) := pldmMsg i (bnum m 2 1 % 64) (bnum m 3 1) (m.drop 4) s
    if bnum m 1 1 < 128 then ([], s) else ([1, m.getD 1 0 &&& 0x7F, m.getD 2 0, m.getD 3 0] ++ r, s)
  else if t = 5 then
    let (r, s) := spdmMsg (bnum m 2 1) (m.drop 3) s
    ([5, m.getD 1 0] ++ r, s)
  else if t = 0x7E ∧ (m.drop 1).take 2 = factoryBytes 5 2 then
    let (r, s) := vendorMsg i (bnum m 3 1) (m.drop 4) s
    (m.take 4 ++ r, s)
  else ([], s)

/-- OP_MCTP (R484). -/
def opMctp (m : Nat) (s : State) : State :=
  match s.request m Op.mctp with
  | none => s
  | some r =>
    let n := r.num 0 2
    let poll := r.num 2 1
    if 1 < poll ∨ r.zero 3 5 = false ∨ (poll = 1 ∧ n ≠ 0) then s.respond m Code.mbxFormat []
    else
      let (msg, s) :=
        if poll = 1 then (s.mp.mbxQ.headD [], s.modMp fun p => { p with mbxQ := p.mbxQ.drop 1 })
        else if n = 0 then ([], s)
        else serveMsg .mailbox (r.payload.drop 8) s
      let msg := msg.take 1960
      s.respond m 0 (leBytes 2 msg.length ++ leBytes 1 (!s.mp.mbxQ.isEmpty).toNat ++ List.replicate 5 0 ++ msg)

/-! ### MCTP over MGMT packets (R483, log entry 72) -/

/-- A MGMT packet with one transmission unit of a message: four bytes of transport header, whose last holds the start and
end bits, the packet sequence number and the tag; bytes 30 to 31 of the header slot hold the unit's length. -/
def mgmtPkt (me dst : Nat) (eid own : Byte) (flags : Nat) (u : List Byte) : List Byte :=
  let body := padSlots ([1, eid, own] ++ leBytes 1 flags ++ u)
  routedHead Pkt.mgmt 63 0 dst me 0 ++ List.replicate 22 0 ++ leBytes 1 (body.length / 32 - 1) ++ leBytes 2 u.length ++ body

/-- The MGMT packets of a message, in transmission units of 64 bytes. -/
def mgmtPkts (me dst : Nat) (eid own : Byte) (tag : Nat) (msg : List Byte) : List (List Byte) :=
  let n := (msg.length + 63) / 64
  (List.range n).map fun i =>
    mgmtPkt me dst eid own (128 * (i == 0).toNat + 64 * (i + 1 == n).toNat + 16 * (i % 4) + tag) ((msg.drop (64 * i)).take 64)

/-- The assembly that a unit with start bit, source and tag goes into; others stay. -/
def asmOf (s : State) (start : Bool) (src tag seq : Nat) : Option MctpAsm :=
  if start then some ⟨src, tag, seq, []⟩ else s.mp.asm.find? fun a => a.src == src && a.tag == tag

/-- A MGMT packet for this device: its unit joins the message of its source and tag, which the MP serves when it is whole
and answers. A unit out of sequence, or beyond 4,096 bytes, ends the assembly. -/
def mgmtHere (b : List Byte) (s : State) : State :=
  let h := b.drop 32
  let own := KV.get 0 s.mp.eids 4
  let f := bnum h 3 1
  let u := (h.drop 4).take (bnum b 30 2)
  let rest := s.mp.asm.filter fun a => a.src != psrc b || a.tag != f % 16
  if h.getD 0 0 ≠ 1 ∨ u.isEmpty = true ∨ 64 < bnum b 30 2 ∨ (h.getD 1 0 ≠ 0 ∧ h.getD 1 0 ≠ own) then s
  else
    match asmOf s (f.testBit 7) (psrc b) (f % 16) (bitsOf f 5 4) with
    | none => s
    | some a =>
      let s := s.modMp fun p => { p with asm := rest }
      if a.seq ≠ bitsOf f 5 4 ∨ 4096 < a.got.length + u.length then s
      else if f.testBit 6 = false then
        s.modMp fun p => { p with asm := rest ++ [{ a with seq := (a.seq + 1) % 4, got := a.got ++ u }] }
      else
        let (r, s) := serveMsg .ghlMgmt (a.got ++ u) s
        forEach (mgmtPkts s.myId (psrc b) (h.getD 2 0) own (f % 8) r) forward { s with readData := r }

/-- MGMT_PACKET_RECEIVE. -/
def mgmtIn (p : Nat) (b : List Byte) (s : State) : State :=
  routedIn p Pkt.mgmt b (fun s => mgmtHere b (freeSlots p b s)) s

/-- A request answered on its interface. -/
def answer (a : Answer) : State := { a.2 with readData := a.1 }

/-! ### Pins of the service connector and the management bus (R490) -/

/-- BOUNDARY_SCAN: the scan captures the pins of Connector A that the state holds, in the order of Table 16.1: PWR_EN,
PWR_GOOD, the MGMT_ADDR straps, PERST#; the other pins, and what the scan drives, lie outside the model (log entry 97).
With no rail up the port is dead. -/
def boundaryScan (s : State) : State :=
  if s.power.rails.isEmpty then s
  else { s with readData := leBytes 1 (s.power.on.toNat + 2 * s.power.on.toNat + 4 * s.straps.toNat + 32 * (!s.power.perst).toNat) }

/-- I3C_ADDRESS_ASSIGNMENT: a 7-bit dynamic address, given by ENTDAA, or by SETDASA to the device's static address 0x60 +
MGMT_ADDR (Table 16.2). -/
def i3cAssign : I3cAssign → State → State
  | .entdaa a, s => if a < 128 then s.modMp fun p => { p with i3cAddr := some a } else s
  | .setdasa sa a, s =>
    if a < 128 ∧ sa = 0x60 + s.straps.toNat then s.modMp fun p => { p with i3cAddr := some a } else s

/-- A message on MCTP that is longer than the 4,096 bytes that the MP assembles is dropped (R483, log entry 72); `n` is
the length of its body. -/
def assembled (i : Iface) (n : Nat) (f : State → Answer) (s : State) : Answer :=
  if mctpOn i && decide (4096 < n) then ([], s) else f s

def execSetEndpointId (i : Iface) (body : List Byte) (s : State) : Res :=
  powered s (answer (assembled i body.length (onMctp i (setEid i body)) s))
def execGetEndpointId (i : Iface) (body : List Byte) (s : State) : Res :=
  powered s (answer (assembled i body.length (onMctp i (getEid i)) s))
def execGetMctpVersionSupport (i : Iface) (body : List Byte) (s : State) : Res :=
  powered s (answer (assembled i body.length (onMctp i (mctpVersion body)) s))
def execGetMessageTypeSupport (i : Iface) (body : List Byte) (s : State) : Res :=
  powered s (answer (assembled i body.length (onMctp i messageTypes) s))
def execGetEndpointUuid (i : Iface) (body : List Byte) (s : State) : Res :=
  powered s (answer (assembled i body.length (onMctp i endpointUuid) s))
def execGetTid (i : Iface) (body : List Byte) (s : State) : Res :=
  powered s (answer (assembled i body.length (onMctp i tid) s))
def execGetPldmVersion (i : Iface) (body : List Byte) (s : State) : Res :=
  powered s (answer (assembled i body.length (onMctp i (pldmVersion body)) s))
def execGetPldmTypes (i : Iface) (body : List Byte) (s : State) : Res :=
  powered s (answer (assembled i body.length (onMctp i pldmTypes) s))
def execGetPldmCommands (i : Iface) (body : List Byte) (s : State) : Res :=
  powered s (answer (assembled i body.length (onMctp i (pldmCommands body)) s))
def execGetPdrRepositoryInfo (i : Iface) (body : List Byte) (s : State) : Res :=
  powered s (answer (assembled i body.length (onMctp i (withRole i 1 [1] pdrInfo)) s))
def execGetPdr (i : Iface) (body : List Byte) (s : State) : Res :=
  powered s (answer (assembled i body.length (onMctp i (withRole i 1 [1] (pdr body))) s))
def execGetSensorReading (i : Iface) (body : List Byte) (s : State) : Res :=
  powered s (answer (assembled i body.length (onMctp i (withRole i 1 [1] (sensorReading body))) s))
def execSetEventReceiver (i : Iface) (body : List Byte) (s : State) : Res :=
  powered s (answer (assembled i body.length (onMctp i (setEventReceiver i body)) s))
def execQueryDeviceIdentifiers (i : Iface) (body : List Byte) (s : State) : Res :=
  powered s (answer (assembled i body.length (onMctp i deviceIds) s))
def execGetFirmwareParameters (i : Iface) (body : List Byte) (s : State) : Res :=
  powered s (answer (assembled i body.length (onMctp i firmwareParameters) s))
def execRequestUpdate (i : Iface) (body : List Byte) (s : State) : Res :=
  powered s (answer (assembled i body.length (onMctp i (requestUpdate i)) s))
def execPassComponentTable (i : Iface) (body : List Byte) (s : State) : Res :=
  powered s (answer (assembled i body.length (onMctp i (passComponent i body)) s))
def execUpdateComponent (i : Iface) (body : List Byte) (s : State) : Res :=
  powered s (answer (assembled i body.length (onMctp i (updateComponent i body)) s))
def execFirmwareDataResponse (i : Iface) (body : List Byte) (s : State) : Res :=
  powered s (answer (assembled i (body.length - 1) (onMctp i (firmwareData i body)) s))
def execActivateFirmware (i : Iface) (body : List Byte) (s : State) : Res :=
  powered s (answer (assembled i body.length (onMctp i (activateFirmware i)) s))
def execGetStatus (i : Iface) (body : List Byte) (s : State) : Res :=
  powered s (answer (assembled i body.length (onMctp i updateStatus) s))
def execCancelUpdateComponent (i : Iface) (body : List Byte) (s : State) : Res :=
  powered s (answer (assembled i body.length (onMctp i (cancelComponent i)) s))
def execCancelUpdate (i : Iface) (body : List Byte) (s : State) : Res :=
  powered s (answer (assembled i body.length (onMctp i (cancelUpdate i)) s))
def execGetVersion (i : Iface) (body : List Byte) (s : State) : Res :=
  powered s (answer (assembled i body.length (onSpdm i spdmVersion) s))
def execGetCapabilities (i : Iface) (body : List Byte) (s : State) : Res :=
  powered s (answer (assembled i body.length (onSpdm i spdmCaps) s))
def execNegotiateAlgorithms (i : Iface) (body : List Byte) (s : State) : Res :=
  powered s (answer (assembled i body.length (onSpdm i (spdmAlgs body)) s))
def execGetDigests (i : Iface) (body : List Byte) (s : State) : Res :=
  powered s (answer (assembled i body.length (onSpdm i spdmDigests) s))
def execGetCertificate (i : Iface) (body : List Byte) (s : State) : Res :=
  powered s (answer (assembled i body.length (onSpdm i (spdmCert body)) s))
def execChallenge (i : Iface) (body : List Byte) (s : State) : Res :=
  powered s (answer (assembled i body.length (onSpdm i (spdmChallenge body)) s))
def execGetMeasurements (i : Iface) (body : List Byte) (s : State) : Res :=
  powered s (answer (assembled i body.length (onSpdm i (spdmMeasurements body)) s))
def execGetLog (i : Iface) (body : List Byte) (s : State) : Res :=
  powered s (answer (assembled i body.length (getLog i body) s))
def execGetChanges (i : Iface) (body : List Byte) (s : State) : Res :=
  powered s (answer (assembled i body.length (getChanges i body) s))
def execSetTime (i : Iface) (body : List Byte) (s : State) : Res :=
  powered s (answer (assembled i body.length (setTime i body) s))
def execSetConfig (i : Iface) (body : List Byte) (s : State) : Res :=
  powered s (answer (assembled i body.length (setConfig i body) s))
def execCommitSvn (i : Iface) (body : List Byte) (s : State) : Res :=
  powered s (answer (assembled i body.length (commitSvn i) s))
def execTakeOwnership (i : Iface) (body : List Byte) (s : State) : Res :=
  powered s (answer (assembled i body.length (takeOwnership i body) s))
def execSetRoles (i : Iface) (body : List Byte) (s : State) : Res :=
  powered s (answer (assembled i body.length (setRoles i body) s))
def execServiceChallenge (i : Iface) (body : List Byte) (s : State) : Res :=
  powered s (answer (assembled i body.length (serviceChallenge i) s))
def execServiceRecord (i : Iface) (body : List Byte) (s : State) : Res :=
  powered s (answer (assembled i body.length (serviceRecord i body) s))
def execMgmtPacketReceive (p : Port) (raw : List Byte) (s : State) : Res := powered s (mgmtIn p.val raw s)
def execOpMctp (m : Mbox) (s : State) : Res := powered s (opMctp m.val s)
def execBoundaryScan (_io : IoDie) (s : State) : Res := .next (s.effectOf (boundaryScan s))
def execI3cAddressAssignment (a : I3cAssign) (s : State) : Res := powered s (i3cAssign a s)

end Sys2Proof.Machine
end

