-- ==== Sys2Proof/Machine/Power.lean ====
section
/-!
DEFINITION. Power, start-up and protection (16_module_power_startup, R473, R476, R480, R492 to R504), the watchdog of the
CP (R463) and the resets of the PCIe link (R495, R496).
-/

namespace Sys2Proof.Machine

/-! ### OFF -/

/-- What of the MP outlives OFF: module flash and fuses (R438, R452, R465, R470, R472, R478). -/
def Mp.flashOnly (p : Mp) : Mp :=
  { Mp.factory with
    flashLog := p.flashLog, seq := p.seq, deviceGen := p.deviceGen, tileGen := p.tileGen, retired := p.retired
    faulty := p.faulty, marked := p.marked, health := if p.retired then 3 else 0, changes := p.changes
    changeSeq := p.changeSeq, config := p.config, configNow := p.configNow, cal := p.cal, calNow := p.calNow
    roles := p.roles, ownerKey := p.ownerKey, ownerCtr := p.ownerCtr, serviceCtr := p.serviceCtr
    slotA := p.slotA, slotB := p.slotB, active := p.active, floor := p.floor }

/-- Lower up to `n` rails, the last one raised first (R493). -/
def dropRails : Nat → List Rail → List Rail
  | n + 1, _ :: rs => dropRails n rs
  | _, rs => rs

/-- Raise rails, in order (R493). -/
def raiseRails (rs up : List Rail) : List Rail := rs.foldl (fun up r => r :: up) up

/-- Rails 2 to 5 of Table 16.4 in power-up order. -/
def runRails : List Rail := [.xio, .msd, .dram1, .dram2, .dramQ, .core0, .core1, .core2, .core3]

/-- Lower rails of DOZE, V_CORE0 to V_CORE3 and V_MSD; and raise them again (R498). -/
def dozeRails : List Rail := [.msd, .core0, .core1, .core2, .core3]

/-- The module moves to OFF and keeps its flash (Tables 16.6 and 16.7); `cause` is PWR_STATUS.last_off. -/
def powerOff (cause : Nat) (s : State) : State :=
  { s with
    readData := [], hamper := .reset, stroke := .reset, slots := [], tub := .reset, vunits := [], ftabs := []
    mgl := .reset, seams := [], tasks := [], xcache := [], prs := .zero, ghl := .reset, seqTab := [], str := .reset
    mem := { MemSys.reset with remap := s.mem.remap, spares := s.mem.spares }
    mp := s.mp.flashOnly
    power := { Power.off with lastOff := BitVec.ofNat 3 cause, perst := s.power.perst, rails := dropRails 10 s.power.rails }
    tubMem := [], stackMem := [] }

/-- Log a fault and move to OFF (R492, R493, R504). -/
def faultOff (code : Nat) (arg : W32) (cause : Nat) (s : State) : State :=
  powerOff cause (s.log code originMp 0xFF arg 0)

/-! ### Cold start -/

/-- The slot the boot ROM boots, and whether it fell back (R480). -/
def bootChoice (p : Mp) : Option (Nat × Bool) :=
  if p.candidate p.active = true ∧ (p.fw p.active).tries < 3 then some (p.active, false)
  else if p.candidate (1 - p.active) then some (1 - p.active, true)
  else none

/-- Boot a slot: its try count rises (R480). -/
def bootSlot (n : Nat) (fell : Bool) (s : State) : State :=
  let s := s.modMp fun p => (p.setFw n { p.fw n with tries := (p.fw n).tries + 1 })
  let s := s.modMp fun p => { p with running := n, fallback := fell }
  if fell then s.log Code.fwBootFallback originMp 0xFF 0 0 else s

/-- One flash copy of a pair is repaired from the other, or both are lost (R473). -/
def flashPair (a b : Bool) (lost : State → State) (s : State) : State :=
  if a = false ∧ b = false then s
  else
    let s := s.log Code.flashCopy originMp 0xFF 0 0
    if a && b then lost s else s.modMp fun p => { p with copyRepaired := true }

/-- The configuration, the calibration record and the repair map (R473, R476): bits 2i and 2i + 1 of `flash` say that
copies 1 and 2 of object i fail their hash. -/
def readFlash (flash : BitVec 6) (s : State) : State :=
  let s := flashPair (flash.getLsbD 0) (flash.getLsbD 1) (fun s => s.modMp fun p => { p with config := .default }) s
  let s := flashPair (flash.getLsbD 2) (flash.getLsbD 3) (fun s => s.modMp fun p => { p with cal := ⟨2, []⟩ }) s
  let s := flashPair (flash.getLsbD 4) (flash.getLsbD 5) (fun s =>
    State.retire { (s.modMp fun p => { p with faulty := [], marked := [] }) with bypass := [] }) s
  let s := if s.mp.cal.origin = 2 then s.log Code.calMissing originMp 0xFF 0 0 else s
  s.modMp fun p =>
    { p with
      configNow := p.config, calNow := p.cal
      eventRx := match p.config.receiver with
        | e :: b :: _ => some [b, e]
        | _ => none }

/-- The sensor of a die: compute dies 0 to 3, memory-side dies 4 to 11, I/O dies 12 to 15 (Table 15.1). -/
def sensorOf (die : Nat) : Nat := die + 1

/-- The MP sets the supply voltage of a die: the record's at the die's temperature, or without a valid record the highest of
the limits (R474, R476). -/
def setVolt (die : Nat) (s : State) : State :=
  let t := KV.get 0 s.mp.sensors (sensorOf die)
  s.modMp fun p =>
    { p with
      volts := KV.set 0 p.volts die
        (if p.calNow.origin = 2 then (voltLimits die).2 else Config.calVolt p.calNow.record die (Config.calPoint t)) }

/-- Every fitted die. -/
def setVolts (s : State) : State := forEach ((List.range 16).filter fun d => sensorFitted s (sensorOf d)) setVolt s

/-- The cooling solution's record, when it reads and checks, its reserved bytes zero (Table 16.8, R6, R500). -/
def coolingOk (c : List Byte) : Bool :=
  decide (32 ≤ c.length) && bnum c 0 4 == 0x4C4F4F43 && bnum c 4 1 == 1 && decide (1 ≤ bnum c 5 1) &&
    decide (bnum c 5 1 ≤ 3) && bnum c 7 1 == 0 && bnum c 15 13 == 0 && bnum c 28 4 == (crc32c (c.take 28)).toNat

/-- The profile that a record names: 0 none (R500). -/
def identified (cool : Option (List Byte)) : Nat :=
  match cool with
  | some c =>
    if coolingOk c = false ∨ bnum c 8 2 < 1250 then 0
    else
      let k := bnum c 5 1
      let p := if k = 3 ∧ (bnum c 6 1 < 1 ∨ 3 < bnum c 6 1) then 1 else k
      if bnum c 8 2 < profileLimit p then 1 else p
  | none => 0

/-- The choice of the profile, and the inlet threshold (R499 to R501, R504). -/
def chooseProfile (cool : Option (List Byte)) (s : State) : State :=
  let id := identified cool
  let ovr := s.mp.configNow.cooling
  let prof := if ovr ≠ 0 then ovr else if id = 0 then 1 else id
  let src := if ovr ≠ 0 then 1 else if id = 0 then 2 else 0
  let inlet := match cool with
    | some c => if coolingOk c = true ∧ bnum c 14 1 = 1 then bnum c 10 2 else 0
    | none => 0
  let s := { s with power := { s.power with
    profile := prof, source := src, inletMax := inlet
    budget := BitVec.ofNat 24 (strokeBudget prof s.stroke.period.toNat) } }
  if ovr ≠ 0 then s.log Code.pwrOverride originMp 0xFF (BitVec.ofNat 32 (ovr + 256 * id)) 0
  else if id = 0 then s.log Code.pwrCoolingId originMp 0xFF 0 0
  else s

/-- Fitted stacks and I/O dies of a part code (Table 1.2). -/
def partOf (code : Nat) : Option (Nat × Nat) :=
  if code = 1 then some (0xFF, 0xF)
  else if code = 2 then some (0xFF, 0x9)
  else if code = 3 then some (0x7D, 0x9)
  else if code = 4 then some (0x55, 0xF)
  else if code = 5 then some (0x55, 0x1)
  else none

/-- The assembly check of R14: `dies` are the dies that answer, stacks in bits 0 to 7, I/O dies in 8 to 11, compute
dies in 12 to 15. -/
def assemblyOk (f : Fuses) (dies : W16) : Bool :=
  partOf f.partCode.toNat == some (f.stackFitted.toNat, f.ioFitted.toNat) &&
    (List.range 16).all fun i =>
      dies.getLsbD i || !(if i < 8 then f.stackFitted.getLsbD i else if i < 12 then f.ioFitted.getLsbD (i - 8) else true)

/-- Every tile generation and the device generation advance (R203, R438). -/
def bumpAll (s : State) : State :=
  s.modMp fun p =>
    { p with
      deviceGen := p.deviceGen + 1
      tileGen := dies4.foldl (fun (g : W32) d =>
        g ||| ((((p.tileGen >>> (8 * d)).setWidth 8 + 1#8).setWidth 32) <<< (8 * d))) 0 }

/-- Power-on of the compute dies: Tub words poisoned, Lines unset, generations advanced (R203, R438). -/
def wakeTubs (s : State) : State := bumpAll (poisonAll { s with tubMem := [] })

/-- The delay lines that start-up equalises from the stored map do not converge on a die (R450, Table 16.5). -/
def stuckLines (stuck : Option Nat) (s : State) : State :=
  match stuck with
  | some d =>
    let u := unitRow d (KV.get 16 s.bypass d)
    (unitEvent Code.darnVerify u (s.stand u true)).retire
  | none => s

/-- STR_HASH_KEY from the configuration, or drawn (R263, Table 15.7). -/
def setHashKey (s : State) : State :=
  match s.mp.configNow.hashKey with
  | some k => { s with str := { s.str with hashKey := k } }
  | none =>
    let (v, s) := s.free
    { s with str := { s.str with hashKey := v.setWidth 32 } }

/-- Ports of fitted I/O dies are enabled (R350). -/
def enablePorts (s : State) : State :=
  forEach (ports16.filter s.portFitted) (fun p s => s.modPort p fun g => { g with st := .detect }) s

/-- What Table 16.5 does after the boot, from 170 ms to 1,260 ms. -/
def startUp (cool : Option (List Byte)) (dies : W16) (flash : BitVec 6) (stuck : Option Nat) (s : State) : State :=
  let s := chooseProfile cool (setVolts (readFlash flash s))
  let s := { s with power := { s.power with rails := raiseRails runRails s.power.rails } }
  let s := if assemblyOk s.fuses dies then s
    else (s.log Code.assemblyMismatch originMp 0xFF 0 0).modHamper fun h => { h with assemblyFault := true }
  enablePorts (setHashKey (stuckLines stuck (wakeTubs s))).settleHealth

/-- COLD_START (R493, R494): the rails rise in order; with no bootable slot nothing but the standby rail comes up (log entry 62). -/
def coldStart (cool : Option (List Byte)) (dies : W16) (flash : BitVec 6) (stuck : Option Nat) (s : State) : State :=
  if s.power.on then s
  else
    let t := s.now
    let s := (powerOff s.power.lastOff.toNat s).modMp fun p => { p with startAt := t, beat := t }
    let s := { s with power := { s.power with on := true, enAt := t, rails := raiseRails [.stby] [] } }
    match bootChoice s.mp with
    | none => s.modMp fun p => { p with cpDead := true, cpHeld := true }
    | some (n, fell) => startUp cool dies flash stuck (bootSlot n fell s)

/-- Dies whose array passes at start-up mismatch (Table 16.5). -/
def startHem (hem : BitVec 4) (s : State) : State :=
  forEach (dies4.filter hem.getLsbD) (fun d s =>
    (s.log Code.hemMismatch originHw 0xFF 0 (BitVec.ofNat 48 (d * 16777216))).trigger 0 (unitRow d 0)) s

/-- HAMPER_READY (R480, R494): the CP has started and cleared every partition. -/
def hamperReady (hem : BitVec 4) (s : State) : State :=
  if s.hamper.ready || s.hamper.assemblyFault || s.mp.cpHeld then s
  else
    let t := s.now
    let s := startHem hem (forEach slots8 partitionClear s)
    let s := s.modHamper fun h => { h with ready := true }
    s.modMp fun p =>
      { (p.setFw p.running { p.fw p.running with good := true, tries := 0 }) with beat := t }

/-! ### DOZE (R497, R498) -/

def State.powerReq (s : State) (m : Nat) : Option Request :=
  match s.request m Op.power with
  | some r => if r.zero 1 7 then some r else none
  | none => none

/-- Entry into DOZE: ports to keeper mode, stacks into self-refresh, the compute and memory-side dies off. -/
def enterDoze (s : State) : State :=
  let s := forEach (ports16.filter s.portFitted) (fun p s =>
    if (s.port p).st = .active then askKeeper p s else s.modPort p fun g => { g with wantKeeper := true }) s
  { s with
    mgl := { Mgl.reset with ctr := s.mgl.ctr }, vunits := [], ftabs := [], xcache := [], tubMem := []
    power := { s.power with
      doze := true, selfRefresh := true, pcieWidth := 1
      rails := s.power.rails.filter fun r => !dozeRails.elem r } }

/-- POWER_DOZE; a request with another target than RUN or DOZE is refused here. -/
def powerDoze (m : Nat) (s : State) : State :=
  match s.request m Op.power with
  | none => s
  | some r =>
    if r.zero 1 7 = false ∨ (r.num 0 1 ≠ 0 ∧ r.num 0 1 ≠ 2) then s.respond m Code.mbxFormat []
    else if r.num 0 1 = 0 then s
    else if slots8.all (fun c => (s.slot c).st == .empty || (s.slot c).st == .saved) then
      (if s.power.doze then s else enterDoze s).respond m 0 []
    else s.respond m Code.mbxState []

/-- Wake (R203, R438, R456, R498). -/
def wake (hem : BitVec 4) (stuck : Option Nat) (s : State) : State :=
  let s := stuckLines stuck (wakeTubs { s with power := { s.power with
    doze := false, selfRefresh := false, pcieWidth := 8, rails := raiseRails dozeRails s.power.rails } })
  let s := startHem hem (forEach slots8 partitionClear s)
  let s := forEach (ports16.filter s.portFitted) (fun p s =>
    if (s.port p).st = .keeper then askResume p s else s.modPort p fun g => { g with wantKeeper := false }) s
  forEach slots8 sweepCtx s

/-- POWER_WAKE. -/
def powerWake (m : Nat) (hem : BitVec 4) (stuck : Option Nat) (s : State) : State :=
  match s.powerReq m with
  | none => s
  | some r =>
    if r.num 0 1 ≠ 0 then s
    else if s.power.doze then (wake hem stuck s).respond m 0 []
    else s.respond m Code.mbxState []

/-! ### Input, rails and sensors -/

/-- INPUT_LOW_WARNING: logged at most once a minute (R492). -/
def inputLow (s : State) : State :=
  let t := s.now
  let s := { s with power := { s.power with inputLow := true } }
  if s.power.lowAt.any (fun a => decide (t < a + 180000000000)) then s
  else { (s.log Code.pwrInputLow originMp 0xFF 0 0) with power := { s.power with lowAt := some t } }

/-- Warning and critical thresholds of a sensor in units of 0.125 degrees (R504). -/
def thresholds (s : State) (id : Nat) : Option (Nat × Option Nat) :=
  if (1 ≤ id ∧ id ≤ 4) ∨ (13 ≤ id ∧ id ≤ 16) then some (760, some 840)
  else if 5 ≤ id ∧ id ≤ 12 then some (680, some 760)
  else if id = 21 ∧ s.power.inletMax ≠ 0 then some (s.power.inletMax, none)
  else none

/-- Temperature thresholds (R504): each passage is logged once; critical is notified. -/
def thermal (id : Nat) (v : Int) (s : State) : State :=
  match thresholds s id with
  | none => s
  | some (w, c) =>
    let warm := decide ((w : Int) ≤ v)
    let hot := match c with
      | some c => decide ((c : Int) ≤ v)
      | none => false
    let newWarm := warm && !NSet.mem s.power.warm id
    let newHot := hot && !NSet.mem s.power.hot id
    let s := { s with power := { s.power with warm := NSet.put s.power.warm id warm, hot := NSet.put s.power.hot id hot } }
    let s := if newWarm then
        (s.log Code.thermWarn originMp 0xFF 0 0).platformEvent 0 (leBytes 2 id ++ [2, 2, 1, 5] ++ reading32 v)
      else s
    if newHot then (s.log Code.thermCrit originMp 0xFF 0 0).postDev Code.thermCrit 0 else s

/-- Sensor 20: the Stroke's energy against L (R502). -/
def strokeEnergy (v : Int) (s : State) : State :=
  let t := s.now
  let s := { s with power := { s.power with energy := BitVec.ofInt 32 v } }
  if s.power.lastLen ≠ 0 ∧ (profileLimit s.power.profile * s.power.lastLen : Nat) < v * 3000000 then
    let s := { s with power := { s.power with overStrokes := sat32 s.power.overStrokes 1 } }
    if s.power.overAt.any (fun a => decide (t < a + 3000000000)) then s
    else { (s.log Code.pwrStrokeOver originMp 0xFF 0 0) with power := { s.power with overAt := some t } }
  else s

/-- The mean of a full second of readings exceeds L by more than 5 %. -/
def sustained (l : Nat) (ws : List Int) : Bool := ws.length == 1000 && decide ((l * 105000 : Nat) < ws.sum * 100)

/-- Sensor 19: the mean input power over 1 s (R502). -/
def inputPower (v : Int) (s : State) : State :=
  let l := profileLimit s.power.profile
  let was := sustained l s.power.watts
  let s := { s with power := { s.power with watts := (v :: s.power.watts).take 1000 } }
  if sustained l s.power.watts = true ∧ was = false then
    (s.log Code.pwrSustained originMp 0xFF 0 0).postDev Code.pwrSustained 0
  else s

/-- SENSOR_SAMPLE (R464, R502, R504). -/
def sensorSample (id : Nat) (raw : Int) (s : State) : State :=
  if sensors22.elem id = false ∨ sensorFitted s id = false then s
  else
    let v := raw + (if s.mp.calNow.origin = 2 then 0 else Config.calOffset s.mp.calNow.record id)
    let s := s.modMp fun p => { p with sensors := KV.set 0 p.sensors id v }
    let s := if id ≤ 16 then setVolt (id - 1) s else s
    if id = 17 then { s with power := { s.power with inputLow := decide (4600 ≤ v) && decide (v < 4800) } }
    else if id = 19 then inputPower v s
    else if id = 20 then strokeEnergy v s
    else thermal id v s

/-! ### The CP watchdog (R463) -/

/-- Restarts in the last 24 hours. -/
def recentRestarts (s : State) : Nat := (s.mp.restarts.filter fun a => decide (s.now ≤ a + day)).length

/-- CP_WATCHDOG: no heartbeat for 10 ms. -/
def cpWatchdog (s : State) : State :=
  if s.hamper.ready = false ∨ s.mp.cpHeld = true then s
  else
    let t := s.now
    let again := decide (recentRestarts s < 3)
    let s := s.log Code.cpWatchdog originMp 0xFF 0 0
    let s := (cpFailed s).modHamper fun h => { h with ready := false }
    s.modMp fun p =>
      { p with cpHeld := true, cpDead := !again, restarts := if again then t :: p.restarts else p.restarts }

/-- CP_RESTART: every slot EMPTY, every partition and resource released. -/
def cpRestart (s : State) : State :=
  if s.mp.cpHeld = false ∨ s.mp.cpDead = true then s
  else
    let t := s.now
    let s := forEach slots8 (fun c s =>
      if (s.slot c).st = .empty then s
      else removeCtx c (fun _ => false) (drainAbort (abortAll Code.strokeDiscard c s))) s
    let s := forEach slots8 partitionClear s
    (s.modHamper fun h => { h with ready := true, cpFault := false }).modMp fun p => { p with cpHeld := false, beat := t }

/-! ### PCIe -/

/-- PERST_RESET (R496): the configuration space returns to its reset state, and the Hamper acts as on a function level
reset of the physical function. -/
def perstReset (hot : Bool) (s : State) : State :=
  let s := vfChange false 0 (flrPf s)
  { s with power := { s.power with perst := s.power.perst || !hot } }

/-- Value of a field of the configuration space (R404, R490, R495, Table 16.2): the readiness time in milliseconds, TotalVFs,
the largest payload and read request in bytes, the width of the link. The layout of the space, and the fields that the
spec names without a value, lie outside the model (log entry 97). -/
def cfgValue (s : State) : CfgField → Nat
  | .readinessTime => 100
  | .totalVfs => 7
  | .maxPayload => 512
  | .maxReadRequest => 4096
  | .linkWidth => s.power.pcieWidth

/-- PCIE_CONFIG_REQUEST (R495): Request Retry Status (2), or successful completion (0), after which the model shows every
field that has a value (log entry 97). -/
def configRequest (s : State) : State :=
  let ok := decide (s.power.enAt + 1200000000 ≤ s.now) && !s.power.perst && decide (s.power.perstAt + 300000000 ≤ s.now)
  { s with readData := if ok then 0 :: CfgField.all.flatMap (fun f => leBytes 4 (cfgValue s f)) else [2] }

def execColdStart (cool : Option (List Byte)) (dies : W16) (flash : BitVec 6) (stuck : Option Die) (s : State) : Res :=
  .next (s.effectOf (coldStart cool dies flash (stuck.map (·.val)) s))
def execHamperReady (hem : BitVec 4) (s : State) : Res := powered s (hamperReady hem s)
def execPowerDown (s : State) : Res := powered s (powerOff 0 s)
def execPowerDoze (m : Mbox) (s : State) : Res := powered s (powerDoze m.val s)
def execPowerWake (m : Mbox) (hem : BitVec 4) (stuck : Option Die) (s : State) : Res :=
  powered s (powerWake m.val hem (stuck.map (·.val)) s)
def execInputUndervoltage (s : State) : Res := powered s (faultOff Code.pwrInputLoss 0 3 s)
def execInputOvervoltage (s : State) : Res := powered s (faultOff Code.pwrInputHigh 0 3 s)
def execInputOvercurrent (s : State) : Res := powered s (faultOff Code.pwrOvercurrent 0 5 s)
def execInputLowWarning (s : State) : Res := powered s (inputLow s)
def execRailFault (rail : Nat) (s : State) : Res := powered s (faultOff Code.pwrRail (BitVec.ofNat 32 rail) 4 s)
def execSensorSample (id : Nat) (raw : Int) (s : State) : Res := powered s (sensorSample id raw s)
def execThermCritTimeout (id : Nat) (s : State) : Res := powered s (if NSet.mem s.power.hot id then powerOff 2 s else s)
def execThermtrip (s : State) : Res := powered s (faultOff Code.thermTrip 0 1 s)
def execCpWatchdog (s : State) : Res := powered s (cpWatchdog s)
def execCpRestart (s : State) : Res := powered s (cpRestart s)
def execPerstReset (hot : Bool) (s : State) : Res := .next (s.effectOf (perstReset hot s))
def execPerstDeassertion (s : State) : Res :=
  .next { s with power := { s.power with perst := false, perstAt := s.now } }
def execPcieConfigRequest (s : State) : Res := powered s (configRequest s)

end Sys2Proof.Machine
end

