-- ==== Sys2Proof/Machine/Registers.lean ====
section
/-!
DEFINITION. The registers as the host sees them: BAR 0 of the physical function, the mailbox pages of BAR 2 and BAR 0 of a
virtual function (R4, R5, R60 to R63, R109, R110, R207 to R209, R274 to R277, R322, R323, R340, R341, R379 to R382, R404,
R406, R407, R433 to R435, R460, R461, R486, R509), the reads that latch and the writes.
-/

namespace Sys2Proof.Machine

/-- A register from its fields, lowest first: width and value. -/
def packF (l : List (Nat × Nat)) : W32 :=
  BitVec.ofNat 32 (l.foldr (fun f a => f.2 % 2 ^ f.1 + 2 ^ f.1 * a) 0)

/-- A counter shown in units of 1,024; it saturates. -/
def units1024 (n : Nat) : W32 := BitVec.ofNat 32 (min (n / 1024) 0xFFFFFFFF)

/-- A saturating count. -/
def clamp32 (n : Nat) : W32 := BitVec.ofNat 32 (min n 0xFFFFFFFF)

/-- A register word out of a list of consecutive ones. -/
def pick (base off : Nat) (l : List W32) : Option W32 :=
  if off < base ∨ off % 4 ≠ 0 then none else l[(off - base) / 4]?

/-! ### Management processor (Tables 1.4, 14.9, 14.10, 15.12) -/

def mpAssembly (s : State) : W32 :=
  packF [(8, s.fuses.stackFitted.toNat), (4, s.fuses.ioFitted.toNat), (4, 15), (4, s.fuses.partCode.toNat)]

def mpHealth (s : State) : W32 :=
  packF [(2, s.healthNow),
    (4, (dies4.map fun d => if (KV.find? s.mp.pendingRow d).isSome then 2 ^ d else 0).sum),
    (4, (dies4.map fun d => if KV.get 16 s.bypass d = 16 then 0 else 2 ^ d).sum),
    (1, (!s.mp.unlocated.isEmpty).toNat), (1, s.linkDegraded.toNat), (1, s.sparesLow.toNat)]

def mpTstStatus (s : State) : W32 :=
  let busy := s.mp.tstBusy.toNat
  let u : W32 := if s.mp.tstBusy then (s.mp.tstQ.head?.map (·.unit)).getD 0 else 0
  packF [(4, u.toNat), (4, unitA u), (6, s.mp.tstQ.length - busy), (1, busy)]

def mpFwStatus (s : State) : W32 :=
  packF [(1, s.mp.running), (1, s.mp.fallback.toNat), (1, (s.mp.candidate 0).toNat), (1, (s.mp.candidate 1).toNat),
    (6, s.mp.floor), (1, s.mp.debugUnlocked.toNat), (1, s.mp.ownerKey.isSome.toNat), (1, s.mp.wall.isSome.toNat),
    (2, recentRestarts s)]

def regMp (s : State) (off : Nat) : Option W32 :=
  if off = 0x10 then some (mpAssembly s)
  else if off < 0x50 then
    pick 0x20 off [mpHealth s, s.mp.deviceGen, s.mp.tileGen, mpTstStatus s, s.mp.tstRuns, s.mp.tstLasting,
      s.mp.tstDropped, s.mp.tstAbandoned, s.mp.darnApplies]
  else
    pick 0x50 off [(s.mp.fw s.mp.running).version, mpFwStatus s,
      packF [(2, s.mp.calNow.origin), (1, s.mp.copyRepaired.toNat)]]

/-! ### Strokes and contexts (Tables 2.8 to 2.11, 10.5, 10.6) -/

def Stroke.regs (k : Stroke) : List W32 :=
  [packF [(2, k.mode.toNat), (3, k.replayLimit.toNat), (5, k.treeDepth.toNat), (6, k.hopUnits.toNat)],
   k.period.setWidth 32, packF [(12, k.rootId.toNat), (12, k.domainSize.toNat)], k.endReserve.setWidth 32,
   packF [(1, k.double.toNat), (2, k.missed.toNat), (1, k.domainLost.toNat)]]

def Stroke.counters (k : Stroke) : List W32 :=
  [k.missedMarks, k.earlyMarks, k.staleTallies, k.shortTallies, k.verdictFaults]

/-- STK_CTX_INDEX_HI as a read of the low word latches it. -/
def Ctx.indexHi (x : Ctx) : W32 :=
  packF [(16, x.stk.index.toNat / 4294967296), (1, x.phase), (3, x.stk.lastVerdict.toNat), (3, x.stk.lastTally.toNat),
    (1, (decide (x.holds ≠ 0)).toNat)]

/-- The 16 registers of a context's STK_ block. STK_CTX_INDEX_HI shows all its fields as they stood at the last read of
STK_CTX_INDEX_LO, 0 before one (R63; log entry 101). -/
def Ctx.stkRegs (x : Ctx) : List W32 :=
  let w := x.watch
  [x.stk.index.setWidth 32, x.stk.hi, x.stk.arbLoss, x.stk.stallCycles, x.stk.overruns, x.stk.replays, x.stk.holds,
   x.stk.doubles, w.ema, w.losses, w.spikes, w.tag0, w.nf0, w.tag1, w.nf1,
   packF [(6, w.seqBase), (7, (w.cfg.map (·.seqShare)).getD 0), (1, w.cfg.isSome.toNat), (1, w.noStep.toNat)]]

def SeqEnt.regs (e : SeqEnt) : List W32 :=
  [e.id, packF [(1, e.open_.toNat), (3, e.ctx), (1, e.backward.toNat), (12, e.block), (1, e.nonfinite.toNat),
    (1, e.spike.toNat)], e.loss, e.opened]

def regStk (s : State) (off : Nat) : Option W32 :=
  if off < 0x1014 then pick 0x1000 off s.stroke.regs
  else if off < 0x1020 then pick 0x1018 off [s.stroke.mark.setWidth 32, s.stroke.markHi.setWidth 32]
  else if off < 0x1100 then pick 0x1020 off s.stroke.counters
  else if off < 0x1300 then pick (off - off % 64) off (s.slot ((off - 0x1100) / 64)).stkRegs
  else if 0x1400 ≤ off ∧ off < 0x1800 then
    pick (off - off % 16) off (KV.get SeqEnt.cleared s.seqTab ((off - 0x1400) / 16)).regs
  else none

/-! ### Mangle, Tubs, streams and memory, Presses (Tables 3.12, 3.13, 4.9, 5.11, 6.5 to 6.7, 8.6 to 8.9, 9.16, 9.17) -/

def MglCtr.regs (k : MglCtr) : List W32 :=
  [k.passes, k.aborts, k.lateStart, k.padSlots] ++ (dies4.map fun d => KV.get 0 k.hemFail d) ++
    [k.hotBubbles, k.holdCycles, k.slewUp, k.slewDown, k.nonfinite, k.saturate, k.scaleClamp, k.hemSkip, k.pairPasses,
     units1024 k.gatedLanes, k.packRows, k.packDense]

def regMgl (s : State) (off : Nat) : Option W32 :=
  if off = 0x2000 then some (packF (dies4.map fun d => (5, KV.get 16 s.bypass d))) else pick 0x2010 off s.mgl.ctr.regs

def TubPart.reg (p : TubPart) : W32 :=
  packF [(4, p.rowBase.toNat), (5, p.rowBlocks.toNat), (4, p.lineBase.toNat), (5, p.lineCount.toNat), (1, p.clearing.toNat)]

def regTub (s : State) (off : Nat) : Option W32 :=
  let u := s.tub
  pick 0x3000 off ((slots8.map fun c => (s.part c).reg) ++
    [u.errLast, u.ce, u.ue, u.poisonReads, units1024 u.rinseRows, u.rinseSweeps, u.rinseDropped, u.pacedYields,
     u.underruns, u.overruns])

/-- STR_AVAIL_j. -/
def strAvail (s : State) (j : Nat) : W32 :=
  if s.stackFitted j then packF [(16, pagesFree s j), (7, sparesLeft s j)] else 0

/-- Pages retired since manufacture. -/
def pagesRetired (s : State) : W32 := clamp32 (s.mem.spares.map (·.2)).sum

def CtxFault.regs (f : CtxFault) : List W32 := [f.lo, f.hiLatch, f.tag]

def regStr (s : State) (off : Nat) : Option W32 :=
  let r := s.str
  if off < 0x4010 then pick 0x4000 off [r.split.setWidth 32, r.hashKey]
  else if off < 0x4038 then
    pick 0x4010 off [r.pageFaults, r.poisonDropped, r.discardBytes, r.capWaits, units1024 r.shareLends, r.memCe, r.memUe,
      pagesRetired s, units1024 r.xlateMisses, r.errLast]
  else if off < 0x4100 then pick 0x4040 off (slots8.map (strAvail s))
  else if off < 0x4180 then pick (off - off % 16) off (s.slot ((off - 0x4100) / 16)).fault.regs
  else none

def PrsCtr.regs (k : PrsCtr) : List W32 :=
  [k.committed, k.skipped, k.nonfinite, k.voteFails, k.skew, k.genMismatch, units1024 k.maskExcess, k.cholRetries,
   k.cholFallbacks, k.poison, k.folds]

def Press.regs (p : Press) : List W32 :=
  [packF [(3, p.lastDec), (1, p.halt.toNat), (1, p.voteFailed.toNat), (1, p.r297.toNat)], p.lastS, p.lastG, p.lastC]

def regPrs (s : State) (off : Nat) : Option W32 :=
  if off < 0x5100 then pick 0x5000 off s.prs.regs
  else if off < 0x5180 then pick (off - off % 16) off (s.slot ((off - 0x5100) / 16)).press.regs
  else none

/-! ### The link (Tables 11.16 to 11.19) -/

def Ghl.regs (g : Ghl) : List W32 :=
  [packF [(11, g.deviceId.toNat), (1, g.valid.toNat), (1, g.admitted.toNat)],
   packF [(4, g.upPort.toNat), (1, g.upValid.toNat), (5, g.depth.toNat), (16, g.downMask.toNat)]]

/-- The block of a port; zero for an unfitted I/O die (R380). -/
def portRegs (s : State) (p : Nat) : List W32 :=
  let g := s.port p
  if s.portFitted p then
    [packF [(4, g.code s.ghl.admitted), (4, g.spareRx.toNat), (4, g.spareTx.toNat), (9, g.laneOk.toNat), (4, g.preset.toNat),
       (6, g.needUnits)],
     packF [(11, g.peerId.toNat), (4, g.peerPort.toNat), (1, g.peerValid.toNat)],
     packF [(10, g.wFull), (10, g.wKeeper), (12, rxPad s p)],
     units1024 g.fecCorr, g.badFlits, g.retries, g.downs, g.markMisses, g.markCheck, g.spares]
  else List.replicate 10 0

def Route.bits (r : Route) : Nat := r.port.toNat + 16 * r.valid.toNat + 32 * r.here.toNat

def regGhl (s : State) (off : Nat) : Option W32 :=
  let g := s.ghl
  if off < 0x6008 then pick 0x6000 off g.regs
  else if off < 0x6100 then pick 0x6020 off [g.windowClosed, g.staleDrops, g.epochRefused, g.windowFaults, g.hopLimit]
  else if off < 0x6500 then pick (off - off % 64) off (portRegs s ((off - 0x6100) / 64))
  else if 0x7000 ≤ off ∧ off < 0x8000 ∧ off % 4 = 0 then
    let k := (off - 0x7000) / 4
    some (packF [(16, (KV.get Route.none g.routes (2 * k)).bits), (16, (KV.get Route.none g.routes (2 * k + 1)).bits)])
  else none

/-! ### The Hamper and power (Tables 13.10 to 13.12, 16.12) -/

/-- The 16 words of a context's MBX_ block; the last four are reserved. -/
def Ctx.mbxRegs (x : Ctx) : List W32 :=
  let a := x.acct
  [x.word, x.jobEpoch, x.layoutEpoch, x.saveKib, clamp32 (a.queueCyc / 3000), a.cmds, a.runStrokes, a.commits,
   a.heldStrokes, a.feedStrokes, a.preempts, clamp32 (a.savedCyc / 3000000), 0, 0, 0, 0]

/-- A slot's MBX_ block; the time SAVED runs on while it is SAVED. -/
def ctxMbxRegs (s : State) (c : Nat) : List W32 :=
  let x := s.slot c
  Ctx.mbxRegs (if x.st = .saved then
    { x with acct := { x.acct with savedCyc := x.acct.savedCyc + (s.now - x.savedSince) } } else x)

def hamperRegs (h : Hamper) : List W32 :=
  [packF [(1, h.cpUp.toNat), (1, h.cpFault.toNat), (1, h.assemblyFault.toNat), (1, h.vfEnabled.toNat), (3, h.numVfs.val)],
   h.lateDone, h.cpTimeouts]

def regMbx (s : State) (off : Nat) : Option W32 :=
  if off < 0x8200 then pick (off - off % 64) off (ctxMbxRegs s ((off - 0x8000) / 64)) else pick 0x8200 off (hamperRegs s.hamper)

/-- PWR_PROFILE.state (Table 16.7): 0 RUN, 1 IDLE, which needs the RUN-level rails up, 2 DOZE. -/
def powerState (s : State) : Nat :=
  if s.power.doze then 2 else if s.power.rails.elem .core3 && noneRunning s then 1 else 0

def regPwr (s : State) (off : Nat) : Option W32 :=
  let p := s.power
  pick 0x9000 off
    [packF [(2, p.profile), (2, p.source), (2, powerState s)], p.budget.setWidth 32, p.energy,
     packF [(1, (!p.warm.isEmpty).toNat), (1, (!p.hot.isEmpty).toNat), (1, p.inputLow.toNat), (3, p.lastOff.toNat)],
     p.overStrokes]

/-- The register at an offset of BAR 0 of the physical function; `none` where the spec places none. -/
def reg0 (s : State) (off : Nat) : Option W32 :=
  if off < 0x1000 then regMp s off
  else if off < 0x2000 then regStk s off
  else if off < 0x3000 then regMgl s off
  else if off < 0x4000 then regTub s off
  else if off < 0x5000 then regStr s off
  else if off < 0x6000 then regPrs s off
  else if off < 0x8000 then regGhl s off
  else if off < 0x9000 then regMbx s off
  else regPwr s off

/-! ### Mailbox pages (Tables 13.1 and 13.2) -/

/-- The control registers of mailbox `m`; WO registers read as zero. -/
def mbxCtl (s : State) (m : Nat) : List W32 :=
  let b := s.mbx m
  [0, packF [(8, b.st.code), (8, b.doneCount.toNat)], b.irq.setWidth 32, b.irqEn.setWidth 32, b.head.setWidth 32,
   b.tail.setWidth 32, b.lost, 0, if m = 0 then 0 else b.feedPosted, if m = 0 then 0 else b.feedDone]

/-- A word of a mailbox page; offsets 0xFE8 to 0xFFF are reserved. -/
def mbxWord (s : State) (m off : Nat) : Option W32 :=
  if off % 4 ≠ 0 ∨ 0x1000 ≤ off then none
  else if off < 0xFC0 then some (BitVec.ofNat 32 ((s.mbx m).field off 4))
  else some ((pick 0xFC0 off (mbxCtl s m)).getD 0)

/-- A word of BAR 0 of virtual function `v`: its mailbox, and the mirrors of its slot's blocks (R404). -/
def vfWord (s : State) (v off : Nat) : Option W32 :=
  if off < 0x1000 then mbxWord s (1 + v) off
  else if off < 0x1040 then pick 0x1000 off (ctxMbxRegs s v)
  else if 0x1100 ≤ off ∧ off < 0x1140 then pick 0x1100 off (s.slot v).stkRegs
  else if 0x1200 ≤ off ∧ off < 0x1210 then pick 0x1200 off (s.slot v).fault.regs
  else if 0x1300 ≤ off ∧ off < 0x1310 then pick 0x1300 off (s.slot v).press.regs
  else none

/-- What an access names. -/
inductive Target where
  /-- A mailbox page. -/
  | page (m off : Nat)
  /-- A register that no access code but RO covers, or a reserved word. -/
  | readOnly
  | nothing
  deriving DecidableEq, Repr

/-- The target of an access by function `fn` (R403, R404). -/
def targetOf (s : State) (fn : Nat) (bar : Bar) (off : Nat) : Target :=
  if fn = 0 then
    match bar with
    | .bar0 => if (reg0 s off).isSome then .readOnly else .nothing
    | .bar2 => if off < 0x9000 ∧ off % 4 = 0 then .page (off / 0x1000) (off % 0x1000) else .nothing
  else if s.hamper.vfEnabled = false ∨ s.hamper.numVfs.val < fn then .nothing
  else
    match bar with
    | .bar0 =>
      if off < 0x1000 ∧ off % 4 = 0 then .page (1 + fn) off
      else if (vfWord s fn off).isSome then .readOnly else .nothing
    | .bar2 => .nothing

/-- The value that a read of a register returns (R4, R5). -/
def readReg (s : State) (fn : Nat) (bar : Bar) (off : Nat) : Option W32 :=
  match targetOf s fn bar off with
  | .page m o => mbxWord s m o
  | .readOnly => if fn = 0 then reg0 s off else vfWord s fn off
  | .nothing => none

/-! ### Reads that latch -/

/-- STK_MARK_LO_READ (R62). -/
def markLoRead (s : State) : State :=
  { (s.modStroke fun k => { k with markHi := (k.mark >>> 32).setWidth 16 }) with
    readData := leBytes 4 (s.stroke.mark.toNat % 4294967296) }

/-- STK_CTX_INDEX_LO_READ (R63). -/
def indexLoRead (c : Nat) (s : State) : State :=
  { (s.modSlot c fun x => { x with stk := { x.stk with hi := x.indexHi } }) with
    readData := leBytes 4 ((s.slot c).stk.index.toNat % 4294967296) }

/-- STR_CTX_FAULT_LO_READ (R275). -/
def faultLoRead (c : Nat) (s : State) : State :=
  { (s.modSlot c fun x => { x with fault := { x.fault with hiLatch := x.fault.hi } }) with
    readData := leBytes 4 (s.slot c).fault.lo.toNat }

/-! ### Writes -/

/-- A write to a word of mailbox page `m` by function `fn` (Tables 13.1 and 13.2). -/
def pageWrite (m off fn : Nat) (v : W32) (s : State) : State :=
  if off < 0x800 then s.modMbx m fun b => { b with page := KV.setList 0 b.page off (leBytes 4 v.toNat) }
  else if off = 0xFC0 then (if v.getLsbD 0 then sealWrite s m (Fin.ofNat 8 fn) else s)
  else if off = 0xFC8 then s.modMbx m fun b => { b with irq := b.irq &&& ~~~(v.setWidth 5) }
  else if off = 0xFCC then s.modMbx m fun b => { b with irqEn := v.setWidth 2 }
  else if off = 0xFD4 then evtTailWrite s m v
  else if off = 0xFDC then feedPost s m v
  else s

/-- REGISTER_WRITE (R4, R5): RO and reserved fields ignore the write; there is no effect to give where there is no
register. -/
def registerWrite (fn : Nat) (bar : Bar) (off : Nat) (v : W32) (s : State) : Res :=
  match targetOf s fn bar off with
  | .page m o => .next (s.effectOf (pageWrite m o fn v s))
  | .readOnly => .next s
  | .nothing => .fault .noRegister

def execStkMarkLoRead (s : State) : Res := powered s (markLoRead s)
def execStkCtxIndexLoRead (c : Slot) (s : State) : Res := powered s (indexLoRead c.val s)
def execStrCtxFaultLoRead (c : Slot) (s : State) : Res := powered s (faultLoRead c.val s)
def execRegisterWrite (fn : Fin 8) (bar : Bar) (off : Nat) (v : W32) (s : State) : Res :=
  if s.power.on then registerWrite fn.val bar off v s else .next s

end Sys2Proof.Machine
end

