-- ==== Sys2Proof/Machine/Dispatch.lean ====
section
/-!
DEFINITION. The dispatch: one arm per command, each one direct call of its meaning.
-/

namespace Sys2Proof.Machine

/-- The effect of a command on everything but the queue. -/
def exec (i : Instr) (s : State) : Host.Outcome State Fault Refusal :=
  match i with
  | .sealingWrite m fn => Sys2Proof.Machine.execSealingWrite m fn s
  | .acknowledgement m => Sys2Proof.Machine.execAcknowledgement m s
  | .cpAccept m => Sys2Proof.Machine.execCpAccept m s
  | .cpAcceptTimeout => Sys2Proof.Machine.execCpAcceptTimeout s
  | .boundReport m bound => Sys2Proof.Machine.execBoundReport m bound s
  | .completionBoundTimeout m => Sys2Proof.Machine.execCompletionBoundTimeout m s
  | .lateDone m => Sys2Proof.Machine.execLateDone m s
  | .mbxEvtTailWrite m v => Sys2Proof.Machine.execMbxEvtTailWrite m v s
  | .mbxEvtLostRead m => Sys2Proof.Machine.execMbxEvtLostRead m s
  | .mbxFeedPostWrite m v => Sys2Proof.Machine.execMbxFeedPostWrite m v s
  | .stkMarkLoRead => Sys2Proof.Machine.execStkMarkLoRead s
  | .stkCtxIndexLoRead c => Sys2Proof.Machine.execStkCtxIndexLoRead c s
  | .strCtxFaultLoRead c => Sys2Proof.Machine.execStrCtxFaultLoRead c s
  | .registerWrite fn bar off v => Sys2Proof.Machine.execRegisterWrite fn bar off v s
  | .opNop m => Sys2Proof.Machine.execOpNop m s
  | .opEvents m => Sys2Proof.Machine.execOpEvents m s
  | .opDomain m => Sys2Proof.Machine.execOpDomain m s
  | .opAdmit m => Sys2Proof.Machine.execOpAdmit m s
  | .powerDoze m => Sys2Proof.Machine.execPowerDoze m s
  | .powerWake m hem stuck => Sys2Proof.Machine.execPowerWake m hem stuck s
  | .darnRead m => Sys2Proof.Machine.execDarnRead m s
  | .darnApply m fail => Sys2Proof.Machine.execDarnApply m fail s
  | .darnMark m => Sys2Proof.Machine.execDarnMark m s
  | .darnClearLane m => Sys2Proof.Machine.execDarnClearLane m s
  | .opSelftest m => Sys2Proof.Machine.execOpSelftest m s
  | .opLoad m => Sys2Proof.Machine.execOpLoad m s
  | .opStart m => Sys2Proof.Machine.execOpStart m s
  | .opUnload m => Sys2Proof.Machine.execOpUnload m s
  | .opRelease m => Sys2Proof.Machine.execOpRelease m s
  | .opSave m => Sys2Proof.Machine.execOpSave m s
  | .saveWriteDone c => Sys2Proof.Machine.execSaveWriteDone c s
  | .opRestore m => Sys2Proof.Machine.execOpRestore m s
  | .restoreWriteDone c => Sys2Proof.Machine.execRestoreWriteDone c s
  | .opReshard m => Sys2Proof.Machine.execOpReshard m s
  | .reshardQuiescent c => Sys2Proof.Machine.execReshardQuiescent c s
  | .reshardTimeout c => Sys2Proof.Machine.execReshardTimeout c s
  | .opResume m => Sys2Proof.Machine.execOpResume m s
  | .opPageMap m => Sys2Proof.Machine.execOpPageMap m s
  | .opPageUnmap m => Sys2Proof.Machine.execOpPageUnmap m s
  | .opCopy m => Sys2Proof.Machine.execOpCopy m s
  | .copyComplete m err => Sys2Proof.Machine.execCopyComplete m err s
  | .opWatch m => Sys2Proof.Machine.execOpWatch m s
  | .opDecide m => Sys2Proof.Machine.execOpDecide m s
  | .opFeed m => Sys2Proof.Machine.execOpFeed m s
  | .opPeerMap m => Sys2Proof.Machine.execOpPeerMap m s
  | .opMctp m => Sys2Proof.Machine.execOpMctp m s
  | .vfEnableChange en n => Sys2Proof.Machine.execVfEnableChange en n s
  | .flrVf v => Sys2Proof.Machine.execFlrVf v s
  | .flrPf => Sys2Proof.Machine.execFlrPf s
  | .perstReset hot => Sys2Proof.Machine.execPerstReset hot s
  | .pcieConfigRequest => Sys2Proof.Machine.execPcieConfigRequest s
  | .coldStart cool dies flash stuck => Sys2Proof.Machine.execColdStart cool dies flash stuck s
  | .hamperReady hem => Sys2Proof.Machine.execHamperReady hem s
  | .powerDown => Sys2Proof.Machine.execPowerDown s
  | .inputUndervoltage => Sys2Proof.Machine.execInputUndervoltage s
  | .inputOvervoltage => Sys2Proof.Machine.execInputOvervoltage s
  | .inputOvercurrent => Sys2Proof.Machine.execInputOvercurrent s
  | .inputLowWarning => Sys2Proof.Machine.execInputLowWarning s
  | .railFault rail => Sys2Proof.Machine.execRailFault rail s
  | .sensorSample id raw => Sys2Proof.Machine.execSensorSample id raw s
  | .thermCritTimeout id => Sys2Proof.Machine.execThermCritTimeout id s
  | .thermtrip => Sys2Proof.Machine.execThermtrip s
  | .cpWatchdog => Sys2Proof.Machine.execCpWatchdog s
  | .cpRestart => Sys2Proof.Machine.execCpRestart s
  | .markIssue => Sys2Proof.Machine.execMarkIssue s
  | .markPacketReceive p raw t => Sys2Proof.Machine.execMarkPacketReceive p raw t s
  | .markEntry => Sys2Proof.Machine.execMarkEntry s
  | .markForward => Sys2Proof.Machine.execMarkForward s
  | .strokeStart => Sys2Proof.Machine.execStrokeStart s
  | .fetchNext c ue => Sys2Proof.Machine.execFetchNext c ue s
  | .closingBand => Sys2Proof.Machine.execClosingBand s
  | .tallyPacketReceive p raw => Sys2Proof.Machine.execTallyPacketReceive p raw s
  | .tallyDeadline => Sys2Proof.Machine.execTallyDeadline s
  | .rootTallyCutoff => Sys2Proof.Machine.execRootTallyCutoff s
  | .markMiss => Sys2Proof.Machine.execMarkMiss s
  | .rangeStart c k r => Sys2Proof.Machine.execRangeStart c k r s
  | .rangeEnd c k r => Sys2Proof.Machine.execRangeEnd c k r s
  | .pass c => Sys2Proof.Machine.execPass c s
  | .dummy c => Sys2Proof.Machine.execDummy c s
  | .ramp c => Sys2Proof.Machine.execRamp c s
  | .levelBound c => Sys2Proof.Machine.execLevelBound c s
  | .swapInject => Sys2Proof.Machine.execSwapInject s
  | .vectorInject => Sys2Proof.Machine.execVectorInject s
  | .drainVector d delta => Sys2Proof.Machine.execDrainVector d delta s
  | .mangleFreeze => Sys2Proof.Machine.execMangleFreeze s
  | .drainBufferWrite col => Sys2Proof.Machine.execDrainBufferWrite col s
  | .mangleResume => Sys2Proof.Machine.execMangleResume s
  | .drainAbortSignal => Sys2Proof.Machine.execDrainAbortSignal s
  | .passComplete => Sys2Proof.Machine.execPassComplete s
  | .bridgeParityError j x op => Sys2Proof.Machine.execBridgeParityError j x op s
  | .bridgeResend b => Sys2Proof.Machine.execBridgeResend b s
  | .intersect u c => Sys2Proof.Machine.execIntersect u c s
  | .union u c => Sys2Proof.Machine.execUnion u c s
  | .topk u c => Sys2Proof.Machine.execTopk u c s
  | .route u c => Sys2Proof.Machine.execRoute u c s
  | .seamComplete u c => Sys2Proof.Machine.execSeamComplete u c s
  | .load e c => Sys2Proof.Machine.execLoad e c s
  | .store e c => Sys2Proof.Machine.execStore e c s
  | .gather e c => Sys2Proof.Machine.execGather e c s
  | .scatter e c => Sys2Proof.Machine.execScatter e c s
  | .rowReserve e c k => Sys2Proof.Machine.execRowReserve e c k s
  | .strRowLand e c k => Sys2Proof.Machine.execStrRowLand e c k s
  | .storeRow e c k => Sys2Proof.Machine.execStoreRow e c k s
  | .strTaskComplete e c k => Sys2Proof.Machine.execStrTaskComplete e c k s
  | .memReadDone st addr q o stored => Sys2Proof.Machine.execMemReadDone st addr q o stored s
  | .patrolRead st addr q o stored => Sys2Proof.Machine.execPatrolRead st addr q o stored s
  | .run c => Sys2Proof.Machine.execRun c s
  | .runComplete c => Sys2Proof.Machine.execRunComplete c s
  | .lineSetup c => Sys2Proof.Machine.execLineSetup c s
  | .lineReset c => Sys2Proof.Machine.execLineReset c s
  | .lineSetupEffect t l => Sys2Proof.Machine.execLineSetupEffect t l s
  | .lineSlackExceeded t l p => Sys2Proof.Machine.execLineSlackExceeded t l p s
  | .rinseRead pt bank row w o => Sys2Proof.Machine.execRinseRead pt bank row w o s
  | .rinseWriteback pt => Sys2Proof.Machine.execRinseWriteback pt s
  | .seqAdd t c => Sys2Proof.Machine.execSeqAdd t c s
  | .seqSub t c => Sys2Proof.Machine.execSeqSub t c s
  | .seqAnd t c => Sys2Proof.Machine.execSeqAnd t c s
  | .seqOr t c => Sys2Proof.Machine.execSeqOr t c s
  | .seqXor t c => Sys2Proof.Machine.execSeqXor t c s
  | .seqShl t c => Sys2Proof.Machine.execSeqShl t c s
  | .seqShr t c => Sys2Proof.Machine.execSeqShr t c s
  | .seqSra t c => Sys2Proof.Machine.execSeqSra t c s
  | .seqMul t c => Sys2Proof.Machine.execSeqMul t c s
  | .seqMulh t c => Sys2Proof.Machine.execSeqMulh t c s
  | .seqMulhu t c => Sys2Proof.Machine.execSeqMulhu t c s
  | .seqMin t c => Sys2Proof.Machine.execSeqMin t c s
  | .seqMax t c => Sys2Proof.Machine.execSeqMax t c s
  | .seqMinu t c => Sys2Proof.Machine.execSeqMinu t c s
  | .seqMaxu t c => Sys2Proof.Machine.execSeqMaxu t c s
  | .seqSel t c => Sys2Proof.Machine.execSeqSel t c s
  | .seqPopc t c => Sys2Proof.Machine.execSeqPopc t c s
  | .seqClz t c => Sys2Proof.Machine.execSeqClz t c s
  | .seqCtz t c => Sys2Proof.Machine.execSeqCtz t c s
  | .seqAddi t c => Sys2Proof.Machine.execSeqAddi t c s
  | .seqAndi t c => Sys2Proof.Machine.execSeqAndi t c s
  | .seqOri t c => Sys2Proof.Machine.execSeqOri t c s
  | .seqXori t c => Sys2Proof.Machine.execSeqXori t c s
  | .seqShli t c => Sys2Proof.Machine.execSeqShli t c s
  | .seqShri t c => Sys2Proof.Machine.execSeqShri t c s
  | .seqSrai t c => Sys2Proof.Machine.execSeqSrai t c s
  | .seqLui t c => Sys2Proof.Machine.execSeqLui t c s
  | .seqCmp t c => Sys2Proof.Machine.execSeqCmp t c s
  | .seqCmpi t c => Sys2Proof.Machine.execSeqCmpi t c s
  | .seqAdda t c => Sys2Proof.Machine.execSeqAdda t c s
  | .seqMova t c => Sys2Proof.Machine.execSeqMova t c s
  | .seqMovs t c => Sys2Proof.Machine.execSeqMovs t c s
  | .seqLdp t c => Sys2Proof.Machine.execSeqLdp t c s
  | .seqStp t c => Sys2Proof.Machine.execSeqStp t c s
  | .seqBr t c => Sys2Proof.Machine.execSeqBr t c s
  | .seqWaitu t c => Sys2Proof.Machine.execSeqWaitu t c s
  | .seqWaituReached t c => Sys2Proof.Machine.execSeqWaituReached t c s
  | .seqWaitv t c => Sys2Proof.Machine.execSeqWaitv t c s
  | .seqWaitvDrained t c => Sys2Proof.Machine.execSeqWaitvDrained t c s
  | .seqEnd t c => Sys2Proof.Machine.execSeqEnd t c s
  | .seqTrap t c => Sys2Proof.Machine.execSeqTrap t c s
  | .seqNop t c => Sys2Proof.Machine.execSeqNop t c s
  | .seqLset t c => Sys2Proof.Machine.execSeqLset t c s
  | .seqLrst t c => Sys2Proof.Machine.execSeqLrst t c s
  | .seqLgen t c => Sys2Proof.Machine.execSeqLgen t c s
  | .seqLocc t c => Sys2Proof.Machine.execSeqLocc t c s
  | .seqMfs t c => Sys2Proof.Machine.execSeqMfs t c s
  | .vectorSend t c => Sys2Proof.Machine.execVectorSend t c s
  | .vld t c => Sys2Proof.Machine.execVld t c s
  | .vst t c => Sys2Proof.Machine.execVst t c s
  | .vldp t c => Sys2Proof.Machine.execVldp t c s
  | .vcvt t c => Sys2Proof.Machine.execVcvt t c s
  | .vpack t c => Sys2Proof.Machine.execVpack t c s
  | .vadd t c => Sys2Proof.Machine.execVadd t c s
  | .vsub t c => Sys2Proof.Machine.execVsub t c s
  | .vmul t c => Sys2Proof.Machine.execVmul t c s
  | .vfma t c => Sys2Proof.Machine.execVfma t c s
  | .vmin t c => Sys2Proof.Machine.execVmin t c s
  | .vmax t c => Sys2Proof.Machine.execVmax t c s
  | .vcmp t c => Sys2Proof.Machine.execVcmp t c s
  | .vsel t c => Sys2Proof.Machine.execVsel t c s
  | .vtab t c => Sys2Proof.Machine.execVtab t c s
  | .vreds t c => Sys2Proof.Machine.execVreds t c s
  | .vredm t c => Sys2Proof.Machine.execVredm t c s
  | .vand t c => Sys2Proof.Machine.execVand t c s
  | .vor t c => Sys2Proof.Machine.execVor t c s
  | .vxor t c => Sys2Proof.Machine.execVxor t c s
  | .vnzb t c => Sys2Proof.Machine.execVnzb t c s
  | .vfold t c => Sys2Proof.Machine.execVfold t c s
  | .vpopc t c => Sys2Proof.Machine.execVpopc t c s
  | .vmatch t c => Sys2Proof.Machine.execVmatch t c s
  | .vbcast t c => Sys2Proof.Machine.execVbcast t c s
  | .vmovs t c => Sys2Proof.Machine.execVmovs t c s
  | .norm j c => Sys2Proof.Machine.execNorm j c s
  | .pressDecide j c => Sys2Proof.Machine.execPressDecide j c s
  | .prep j c => Sys2Proof.Machine.execPrep j c s
  | .cand j c => Sys2Proof.Machine.execCand j c s
  | .pressVote j c => Sys2Proof.Machine.execPressVote j c s
  | .commit j c => Sys2Proof.Machine.execCommit j c s
  | .publish j c => Sys2Proof.Machine.execPublish j c s
  | .gzero j c => Sys2Proof.Machine.execGzero j c s
  | .fold j c => Sys2Proof.Machine.execFold j c s
  | .loadfold j c => Sys2Proof.Machine.execLoadfold j c s
  | .ringRecord j c => Sys2Proof.Machine.execRingRecord j c s
  | .pressJobComplete j c => Sys2Proof.Machine.execPressJobComplete j c s
  | .xfer d c k => Sys2Proof.Machine.execXfer d c k s
  | .wait d c k => Sys2Proof.Machine.execWait d c k s
  | .waitSlackExpire d c k => Sys2Proof.Machine.execWaitSlackExpire d c k s
  | .reduce d c k => Sys2Proof.Machine.execReduce d c k s
  | .flitReceive p raw => Sys2Proof.Machine.execFlitReceive p raw s
  | .retryReqReceive p raw => Sys2Proof.Machine.execRetryReqReceive p raw s
  | .flitTransmit p => Sys2Proof.Machine.execFlitTransmit p s
  | .goodFlitTimeout p => Sys2Proof.Machine.execGoodFlitTimeout p s
  | .flitLockLoss p => Sys2Proof.Machine.execFlitLockLoss p s
  | .laneFailing p lane => Sys2Proof.Machine.execLaneFailing p lane s
  | .detectLock p lanes => Sys2Proof.Machine.execDetectLock p lanes s
  | .keeperUpDone p => Sys2Proof.Machine.execKeeperUpDone p s
  | .equaliseDone p bad => Sys2Proof.Machine.execEqualiseDone p bad s
  | .alignDone p => Sys2Proof.Machine.execAlignDone p s
  | .calibrateDone p => Sys2Proof.Machine.execCalibrateDone p s
  | .trainTimeout p => Sys2Proof.Machine.execTrainTimeout p s
  | .cap p raw => Sys2Proof.Machine.execCap p raw s
  | .echo p raw => Sys2Proof.Machine.execEcho p raw s
  | .echoReply p raw => Sys2Proof.Machine.execEchoReply p raw s
  | .spareReq p raw => Sys2Proof.Machine.execSpareReq p raw s
  | .spareAck p raw => Sys2Proof.Machine.execSpareAck p raw s
  | .keeperReq p raw => Sys2Proof.Machine.execKeeperReq p raw s
  | .keeperAck p raw => Sys2Proof.Machine.execKeeperAck p raw s
  | .resumeReq p raw => Sys2Proof.Machine.execResumeReq p raw s
  | .resumeAck p raw => Sys2Proof.Machine.execResumeAck p raw s
  | .writePacketReceive p raw => Sys2Proof.Machine.execWritePacketReceive p raw s
  | .receiptPacketReceive p raw => Sys2Proof.Machine.execReceiptPacketReceive p raw s
  | .reducePacketReceive p raw => Sys2Proof.Machine.execReducePacketReceive p raw s
  | .mgmtPacketReceive p raw => Sys2Proof.Machine.execMgmtPacketReceive p raw s
  | .neighbourMarkMiss p => Sys2Proof.Machine.execNeighbourMarkMiss p s
  | .tstStep cut => Sys2Proof.Machine.execTstStep cut s
  | .tstResult found row => Sys2Proof.Machine.execTstResult found row s
  | .setEndpointId via body => Sys2Proof.Machine.execSetEndpointId via body s
  | .getEndpointId via body => Sys2Proof.Machine.execGetEndpointId via body s
  | .getMctpVersionSupport via body => Sys2Proof.Machine.execGetMctpVersionSupport via body s
  | .getMessageTypeSupport via body => Sys2Proof.Machine.execGetMessageTypeSupport via body s
  | .getEndpointUuid via body => Sys2Proof.Machine.execGetEndpointUuid via body s
  | .getTid via body => Sys2Proof.Machine.execGetTid via body s
  | .getPldmVersion via body => Sys2Proof.Machine.execGetPldmVersion via body s
  | .getPldmTypes via body => Sys2Proof.Machine.execGetPldmTypes via body s
  | .getPldmCommands via body => Sys2Proof.Machine.execGetPldmCommands via body s
  | .getPdrRepositoryInfo via body => Sys2Proof.Machine.execGetPdrRepositoryInfo via body s
  | .getPdr via body => Sys2Proof.Machine.execGetPdr via body s
  | .getSensorReading via body => Sys2Proof.Machine.execGetSensorReading via body s
  | .setEventReceiver via body => Sys2Proof.Machine.execSetEventReceiver via body s
  | .queryDeviceIdentifiers via body => Sys2Proof.Machine.execQueryDeviceIdentifiers via body s
  | .getFirmwareParameters via body => Sys2Proof.Machine.execGetFirmwareParameters via body s
  | .requestUpdate via body => Sys2Proof.Machine.execRequestUpdate via body s
  | .passComponentTable via body => Sys2Proof.Machine.execPassComponentTable via body s
  | .updateComponent via body => Sys2Proof.Machine.execUpdateComponent via body s
  | .firmwareDataResponse via body => Sys2Proof.Machine.execFirmwareDataResponse via body s
  | .activateFirmware via body => Sys2Proof.Machine.execActivateFirmware via body s
  | .getStatus via body => Sys2Proof.Machine.execGetStatus via body s
  | .cancelUpdateComponent via body => Sys2Proof.Machine.execCancelUpdateComponent via body s
  | .cancelUpdate via body => Sys2Proof.Machine.execCancelUpdate via body s
  | .getVersion via body => Sys2Proof.Machine.execGetVersion via body s
  | .getCapabilities via body => Sys2Proof.Machine.execGetCapabilities via body s
  | .negotiateAlgorithms via body => Sys2Proof.Machine.execNegotiateAlgorithms via body s
  | .getDigests via body => Sys2Proof.Machine.execGetDigests via body s
  | .getCertificate via body => Sys2Proof.Machine.execGetCertificate via body s
  | .challenge via body => Sys2Proof.Machine.execChallenge via body s
  | .getMeasurements via body => Sys2Proof.Machine.execGetMeasurements via body s
  | .getLog via body => Sys2Proof.Machine.execGetLog via body s
  | .getChanges via body => Sys2Proof.Machine.execGetChanges via body s
  | .setTime via body => Sys2Proof.Machine.execSetTime via body s
  | .setConfig via body => Sys2Proof.Machine.execSetConfig via body s
  | .commitSvn via body => Sys2Proof.Machine.execCommitSvn via body s
  | .takeOwnership via body => Sys2Proof.Machine.execTakeOwnership via body s
  | .setRoles via body => Sys2Proof.Machine.execSetRoles via body s
  | .serviceChallenge via body => Sys2Proof.Machine.execServiceChallenge via body s
  | .serviceRecord via body => Sys2Proof.Machine.execServiceRecord via body s
  | .mode0Heartbeat => Sys2Proof.Machine.execMode0Heartbeat s
  | .hostReadCompletion e c k err => Sys2Proof.Machine.execHostReadCompletion e c k err s
  | .memWriteDone st addr => Sys2Proof.Machine.execMemWriteDone st addr s
  | .retirementCopyDone st => Sys2Proof.Machine.execRetirementCopyDone st s
  | .perstDeassertion => Sys2Proof.Machine.execPerstDeassertion s
  | .boundaryScan io => Sys2Proof.Machine.execBoundaryScan io s
  | .i3cAddressAssignment a => Sys2Proof.Machine.execI3cAddressAssignment a s

end Sys2Proof.Machine
end

