-- ==== Sys2Proof/Machine/Tick.lean ====
section
/-!
DEFINITION. A core cycle that passes while no command waits (log entry 2).
-/

namespace Sys2Proof.Machine

/-- One core cycle: the arbitration losses of the cycle that ends (R59), the clock, what the Mangle counts in every cycle
(R88, R196), the WAITs that wait (R374), and the clear of released partitions (R200). -/
def tick (s : State) : State :=
  let s := if s.power.on then lossTick s else s
  let s := { s with now := s.now + 1 }
  if s.power.on then clearTick (mangleTick (waitTick s)) else s

end Sys2Proof.Machine
end

