-- ==== Sys2Proof/WellFormed.lean ====
section
/-!
DEFINITION. Which commands are well formed: operands that a type does not already bound lie in the ranges the spec gives
them.
-/

namespace Sys2Proof

/-- A sensor of Table 15.1. -/
def sensorId (id : Nat) : Bool := decide (1 ≤ id) && decide (id ≤ 22)

/-- A 128-byte block of a stack of 80 GiB (R262, R263). -/
def blockAddr (a : Nat) : Bool := decide (a % 128 = 0) && decide (a < 85899345920)

/-- A flit of full mode or a short flit (R345, R348). -/
def flitLen (raw : List Byte) : Bool := decide (raw.length = 256) || decide (raw.length = 64)

/-- A packet of 2 to 17 slots (Table 11.3). -/
def packetLen (raw : List Byte) : Bool :=
  decide (raw.length % 32 = 0) && decide (64 ≤ raw.length) && decide (raw.length ≤ 544)

/-- The operands of a command lie in their ranges. -/
def WellFormed : Instr → Bool
  | .sealingWrite _ _ => true
  | .acknowledgement _ => true
  | .cpAccept _ => true
  | .cpAcceptTimeout => true
  | .boundReport _ _ => true
  | .completionBoundTimeout _ => true
  | .lateDone _ => true
  | .mbxEvtTailWrite _ _ => true
  | .mbxEvtLostRead _ => true
  | .mbxFeedPostWrite _ _ => true
  | .stkMarkLoRead => true
  | .stkCtxIndexLoRead _ => true
  | .strCtxFaultLoRead _ => true
  | .registerWrite _ _ off _ => decide (off % 4 = 0)
  | .opNop _ => true
  | .opEvents _ => true
  | .opDomain _ => true
  | .opAdmit _ => true
  | .powerDoze _ => true
  | .powerWake _ _ _ => true
  | .darnRead _ => true
  | .darnApply _ _ => true
  | .darnMark _ => true
  | .darnClearLane _ => true
  | .opSelftest _ => true
  | .opLoad _ => true
  | .opStart _ => true
  | .opUnload _ => true
  | .opRelease _ => true
  | .opSave _ => true
  | .saveWriteDone _ => true
  | .opRestore _ => true
  | .restoreWriteDone _ => true
  | .opReshard _ => true
  | .reshardQuiescent _ => true
  | .reshardTimeout _ => true
  | .opResume _ => true
  | .opPageMap _ => true
  | .opPageUnmap _ => true
  | .opCopy _ => true
  | .copyComplete _ err => err.all (fun n => decide (n % 64 = 0))
  | .opWatch _ => true
  | .opDecide _ => true
  | .opFeed _ => true
  | .opPeerMap _ => true
  | .opMctp _ => true
  | .vfEnableChange _ _ => true
  | .flrVf _ => true
  | .flrPf => true
  | .perstReset _ => true
  | .pcieConfigRequest => true
  | .coldStart cool _ _ _ => cool.all (fun c => decide (32 ≤ c.length))
  | .hamperReady _ => true
  | .powerDown => true
  | .inputUndervoltage => true
  | .inputOvervoltage => true
  | .inputOvercurrent => true
  | .inputLowWarning => true
  | .railFault rail => decide (1 ≤ rail) && decide (rail ≤ 5)
  | .sensorSample id _ => sensorId id
  | .thermCritTimeout id => sensorId id
  | .thermtrip => true
  | .cpWatchdog => true
  | .cpRestart => true
  | .markIssue => true
  | .markPacketReceive _ raw _ => decide (raw.length = 32)
  | .markEntry => true
  | .markForward => true
  | .strokeStart => true
  | .fetchNext _ _ => true
  | .closingBand => true
  | .tallyPacketReceive _ raw => decide (raw.length = 32)
  | .tallyDeadline => true
  | .rootTallyCutoff => true
  | .markMiss => true
  | .rangeStart _ _ _ => true
  | .rangeEnd _ _ _ => true
  | .pass _ => true
  | .dummy _ => true
  | .ramp _ => true
  | .levelBound _ => true
  | .swapInject => true
  | .vectorInject => true
  | .drainVector _ _ => true
  | .mangleFreeze => true
  | .drainBufferWrite _ => true
  | .mangleResume => true
  | .drainAbortSignal => true
  | .passComplete => true
  | .bridgeParityError _ _ _ => true
  -- the 23 bridges of R20 and their numbers: log entry 100
  | .bridgeResend b => decide (b < 23)
  | .intersect _ _ => true
  | .union _ _ => true
  | .topk _ _ => true
  | .route _ _ => true
  | .seamComplete _ _ => true
  | .load _ _ => true
  | .store _ _ => true
  | .gather _ _ => true
  | .scatter _ _ => true
  | .rowReserve _ _ _ => true
  | .strRowLand _ _ _ => true
  | .storeRow _ _ _ => true
  | .strTaskComplete _ _ _ => true
  | .memReadDone _ addr _ _ _ => blockAddr addr
  | .patrolRead _ addr _ _ _ => blockAddr addr
  | .run _ => true
  | .runComplete _ => true
  | .lineSetup _ => true
  | .lineReset _ => true
  | .lineSetupEffect _ _ => true
  | .lineSlackExceeded _ _ _ => true
  | .rinseRead _ _ _ _ _ => true
  | .rinseWriteback _ => true
  | .seqAdd _ _ => true
  | .seqSub _ _ => true
  | .seqAnd _ _ => true
  | .seqOr _ _ => true
  | .seqXor _ _ => true
  | .seqShl _ _ => true
  | .seqShr _ _ => true
  | .seqSra _ _ => true
  | .seqMul _ _ => true
  | .seqMulh _ _ => true
  | .seqMulhu _ _ => true
  | .seqMin _ _ => true
  | .seqMax _ _ => true
  | .seqMinu _ _ => true
  | .seqMaxu _ _ => true
  | .seqSel _ _ => true
  | .seqPopc _ _ => true
  | .seqClz _ _ => true
  | .seqCtz _ _ => true
  | .seqAddi _ _ => true
  | .seqAndi _ _ => true
  | .seqOri _ _ => true
  | .seqXori _ _ => true
  | .seqShli _ _ => true
  | .seqShri _ _ => true
  | .seqSrai _ _ => true
  | .seqLui _ _ => true
  | .seqCmp _ _ => true
  | .seqCmpi _ _ => true
  | .seqAdda _ _ => true
  | .seqMova _ _ => true
  | .seqMovs _ _ => true
  | .seqLdp _ _ => true
  | .seqStp _ _ => true
  | .seqBr _ _ => true
  | .seqWaitu _ _ => true
  | .seqWaituReached _ _ => true
  | .seqWaitv _ _ => true
  | .seqWaitvDrained _ _ => true
  | .seqEnd _ _ => true
  | .seqTrap _ _ => true
  | .seqNop _ _ => true
  | .seqLset _ _ => true
  | .seqLrst _ _ => true
  | .seqLgen _ _ => true
  | .seqLocc _ _ => true
  | .seqMfs _ _ => true
  | .vectorSend _ _ => true
  | .vld _ _ => true
  | .vst _ _ => true
  | .vldp _ _ => true
  | .vcvt _ _ => true
  | .vpack _ _ => true
  | .vadd _ _ => true
  | .vsub _ _ => true
  | .vmul _ _ => true
  | .vfma _ _ => true
  | .vmin _ _ => true
  | .vmax _ _ => true
  | .vcmp _ _ => true
  | .vsel _ _ => true
  | .vtab _ _ => true
  | .vreds _ _ => true
  | .vredm _ _ => true
  | .vand _ _ => true
  | .vor _ _ => true
  | .vxor _ _ => true
  | .vnzb _ _ => true
  | .vfold _ _ => true
  | .vpopc _ _ => true
  | .vmatch _ _ => true
  | .vbcast _ _ => true
  | .vmovs _ _ => true
  | .norm _ _ => true
  | .pressDecide _ _ => true
  | .prep _ _ => true
  | .cand _ _ => true
  | .pressVote _ _ => true
  | .commit _ _ => true
  | .publish _ _ => true
  | .gzero _ _ => true
  | .fold _ _ => true
  | .loadfold _ _ => true
  | .ringRecord _ _ => true
  | .pressJobComplete _ _ => true
  | .xfer _ _ _ => true
  | .wait _ _ _ => true
  | .waitSlackExpire _ _ _ => true
  | .reduce _ _ _ => true
  | .flitReceive _ raw => flitLen raw
  | .retryReqReceive _ raw => flitLen raw
  | .flitTransmit _ => true
  | .goodFlitTimeout _ => true
  | .flitLockLoss _ => true
  | .laneFailing _ _ => true
  | .detectLock _ _ => true
  | .keeperUpDone _ => true
  | .equaliseDone _ _ => true
  | .alignDone _ => true
  | .calibrateDone _ => true
  | .trainTimeout _ => true
  | .cap _ raw => decide (raw.length = 32)
  | .echo _ raw => decide (raw.length = 32)
  | .echoReply _ raw => decide (raw.length = 32)
  | .spareReq _ raw => decide (raw.length = 32)
  | .spareAck _ raw => decide (raw.length = 32)
  | .keeperReq _ raw => decide (raw.length = 32)
  | .keeperAck _ raw => decide (raw.length = 32)
  | .resumeReq _ raw => decide (raw.length = 32)
  | .resumeAck _ raw => decide (raw.length = 32)
  | .writePacketReceive _ raw => packetLen raw
  | .receiptPacketReceive _ raw => decide (raw.length = 32)
  | .reducePacketReceive _ raw => packetLen raw
  | .mgmtPacketReceive _ raw => packetLen raw
  | .neighbourMarkMiss _ => true
  | .tstStep _ => true
  | .tstResult _ _ => true
  | .setEndpointId _ body => decide (body.length ≤ 4096)
  | .getEndpointId _ body => decide (body.length ≤ 4096)
  | .getMctpVersionSupport _ body => decide (body.length ≤ 4096)
  | .getMessageTypeSupport _ body => decide (body.length ≤ 4096)
  | .getEndpointUuid _ body => decide (body.length ≤ 4096)
  | .getTid _ body => decide (body.length ≤ 4096)
  | .getPldmVersion _ body => decide (body.length ≤ 4096)
  | .getPldmTypes _ body => decide (body.length ≤ 4096)
  | .getPldmCommands _ body => decide (body.length ≤ 4096)
  | .getPdrRepositoryInfo _ body => decide (body.length ≤ 4096)
  | .getPdr _ body => decide (body.length ≤ 4096)
  | .getSensorReading _ body => decide (body.length ≤ 4096)
  | .setEventReceiver _ body => decide (body.length ≤ 4096)
  | .queryDeviceIdentifiers _ body => decide (body.length ≤ 4096)
  | .getFirmwareParameters _ body => decide (body.length ≤ 4096)
  | .requestUpdate _ body => decide (body.length ≤ 4096)
  | .passComponentTable _ body => decide (body.length ≤ 4096)
  | .updateComponent _ body => decide (body.length ≤ 4096)
  | .firmwareDataResponse _ body => decide (body.length ≤ 4096)
  | .activateFirmware _ body => decide (body.length ≤ 4096)
  | .getStatus _ body => decide (body.length ≤ 4096)
  | .cancelUpdateComponent _ body => decide (body.length ≤ 4096)
  | .cancelUpdate _ body => decide (body.length ≤ 4096)
  | .getVersion _ body => decide (body.length ≤ 4096)
  | .getCapabilities _ body => decide (body.length ≤ 4096)
  | .negotiateAlgorithms _ body => decide (body.length ≤ 4096)
  | .getDigests _ body => decide (body.length ≤ 4096)
  | .getCertificate _ body => decide (body.length ≤ 4096)
  | .challenge _ body => decide (body.length ≤ 4096)
  | .getMeasurements _ body => decide (body.length ≤ 4096)
  | .getLog _ body => decide (body.length ≤ 4096)
  | .getChanges _ body => decide (body.length ≤ 4096)
  | .setTime _ body => decide (body.length ≤ 4096)
  | .setConfig _ body => decide (body.length ≤ 4096)
  | .commitSvn _ body => decide (body.length ≤ 4096)
  | .takeOwnership _ body => decide (body.length ≤ 4096)
  | .setRoles _ body => decide (body.length ≤ 4096)
  | .serviceChallenge _ body => decide (body.length ≤ 4096)
  | .serviceRecord _ body => decide (body.length ≤ 4096)
  | .mode0Heartbeat => true
  | .hostReadCompletion _ _ _ _ => true
  | .memWriteDone _ addr => decide (addr < 85899345920)
  | .retirementCopyDone _ => true
  | .perstDeassertion => true
  | .boundaryScan _ => true
  | .i3cAddressAssignment (.entdaa a) => decide (a < 128)
  | .i3cAddressAssignment (.setdasa sa a) => decide (a < 128 ∧ sa < 128)

end Sys2Proof
end

