-- ==== Sys2Proof/Safety.lean ====
section
/-!
DEFINITION. What a safe run is, in the terms that claims use.
-/

namespace Sys2Proof

open Machine

/-- The fuses name an assembly of Table 1.2 (R12, R13). -/
def AssemblyLegal (s : State) : Prop :=
  partOf s.fuses.partCode.toNat = some (s.fuses.stackFitted.toNat, s.fuses.ioFitted.toNat)

/-- The three memories are in canonical form. -/
def MemoryCanonical (s : State) : Prop :=
  KV.wf 0 s.tubMem = true ∧ KV.wf 0 s.stackMem = true ∧ KV.wf 0 s.hostMem = true

/-- What the module's stores always satisfy: the memories are canonical, the fuses name an assembly of Table 1.2, and no
log or queue of the MP outgrows the room the spec gives it: the event log in RAM and in flash (R465), the change log
(R471), the queue of self-tests beside the one under way (R440), and the mailbox requester's queue (R484); the health is
one of the four values of R452. -/
structure StoreInv (s : State) : Prop where
  memory : MemoryCanonical s
  assembly : AssemblyLegal s
  log : s.mp.log.length ≤ 8192
  flash : s.mp.flashLog.length ≤ 16384
  changes : s.mp.changes.length < 15360
  tests : s.mp.tstQ.length ≤ 32 + s.mp.tstBusy.toNat
  queue : s.mp.mbxQ.length ≤ 16
  health : s.mp.health ≤ 3

/-- A step that answers a next state. -/
def Steps (s t : State) : Prop := step s = .next t

/-- A run of steps. -/
inductive Reaches (s : State) : State → Prop where
  | refl : Reaches s s
  | tail {t u : State} : Reaches s t → Steps t u → Reaches s u

/-- A run is safe when no state of it stops with a fault or a refusal. -/
def Safe (s : State) : Prop := ∀ t, Reaches s t → ∃ u, Steps t u

/-! ### Tables that claims quantify over -/

/-- A sequencer command, the instruction it executes and the value that the instruction gives its destination. -/
structure ScalarRow (α : Type) where
  cmd : Tile → Slot → Instr
  op : SeqOp
  f : α

/-- Table 7.13, the three-register instructions: the destination's value from sa and sb. -/
def scalarThree : List (ScalarRow (W32 → W32 → W32)) :=
  [⟨.seqAdd, .add, fun a b => BitVec.ofNat 32 (a.toNat + b.toNat)⟩,
   ⟨.seqSub, .sub, fun a b => BitVec.ofInt 32 (a.toInt - b.toInt)⟩,
   ⟨.seqAnd, .and_, fun a b => BitVec.ofNat 32 (a.toNat &&& b.toNat)⟩,
   ⟨.seqOr, .or_, fun a b => BitVec.ofNat 32 (a.toNat ||| b.toNat)⟩,
   ⟨.seqXor, .xor_, fun a b => BitVec.ofNat 32 (a.toNat ^^^ b.toNat)⟩,
   ⟨.seqShl, .shl, fun a b => BitVec.ofNat 32 (a.toNat * 2 ^ (b.toNat % 32))⟩,
   ⟨.seqShr, .shr, fun a b => BitVec.ofNat 32 (a.toNat / 2 ^ (b.toNat % 32))⟩,
   ⟨.seqSra, .sra, fun a b => BitVec.ofInt 32 (a.toInt / 2 ^ (b.toNat % 32))⟩,
   ⟨.seqMul, .mul, fun a b => BitVec.ofNat 32 (a.toNat * b.toNat)⟩,
   ⟨.seqMulh, .mulh, fun a b => BitVec.ofInt 32 (a.toInt * b.toInt / 2 ^ 32)⟩,
   ⟨.seqMulhu, .mulhu, fun a b => BitVec.ofNat 32 (a.toNat * b.toNat / 2 ^ 32)⟩,
   ⟨.seqMin, .min_, fun a b => BitVec.ofInt 32 (min a.toInt b.toInt)⟩,
   ⟨.seqMax, .max_, fun a b => BitVec.ofInt 32 (max a.toInt b.toInt)⟩,
   ⟨.seqMinu, .minu, fun a b => BitVec.ofNat 32 (min a.toNat b.toNat)⟩,
   ⟨.seqMaxu, .maxu, fun a b => BitVec.ofNat 32 (max a.toNat b.toNat)⟩]

/-- Table 7.13, the immediate instructions: the destination's value from sa and the 16-bit immediate. -/
def scalarImm : List (ScalarRow (W32 → BitVec 16 → W32)) :=
  [⟨.seqAddi, .addi, fun a i => BitVec.ofInt 32 (a.toInt + i.toInt)⟩,
   ⟨.seqAndi, .andi, fun a i => BitVec.ofNat 32 (a.toNat &&& i.toNat)⟩,
   ⟨.seqOri, .ori, fun a i => BitVec.ofNat 32 (a.toNat ||| i.toNat)⟩,
   ⟨.seqXori, .xori, fun a i => BitVec.ofNat 32 (a.toNat ^^^ i.toNat)⟩,
   ⟨.seqShli, .shli, fun a i => BitVec.ofNat 32 (a.toNat * 2 ^ (i.toNat % 32))⟩,
   ⟨.seqShri, .shri, fun a i => BitVec.ofNat 32 (a.toNat / 2 ^ (i.toNat % 32))⟩,
   ⟨.seqSrai, .srai, fun a i => BitVec.ofInt 32 (a.toInt / 2 ^ (i.toNat % 32))⟩,
   ⟨.seqLui, .lui, fun _ i => BitVec.ofNat 32 (i.toNat * 2 ^ 16)⟩]

/-- A comparison of CMP and CMPI by its code (R230): EQ, NE, LT, GE, LTU, GEU. -/
def compares (code : Nat) (a b : W32) : Prop :=
  match code with
  | 0 => a = b
  | 1 => a ≠ b
  | 2 => a.toInt < b.toInt
  | 3 => b.toInt ≤ a.toInt
  | 4 => a.toNat < b.toNat
  | _ => b.toNat ≤ a.toNat

/-- A setup or a reset has taken effect on a Line (R193): pegs at 0, fill and fault bits clear, generation plus one. -/
def LineRestarted (s u : State) (k : Nat) (cfg : Option LineCfg) : Prop :=
  (u.line k).cfg = cfg ∧ (u.line k).head = 0 ∧ (u.line k).tail = 0 ∧ (u.line k).fill = [] ∧ (u.line k).fault = [] ∧
    (u.line k).gen = (s.line k).gen + 1

/-- A vector command and the operation it executes. -/
structure VectorRow (α : Type) where
  cmd : Tile → Slot → Instr
  op : VOp
  f : α

/-- Table 7.16, the rounded lanewise instructions: the exact value of a lane from lanes of va, vb and vc. -/
def vectorRounded : List (VectorRow (FVal → FVal → FVal → FVal)) :=
  [⟨.vadd, .vadd, fun a b _ => a.add b⟩, ⟨.vsub, .vsub, fun a b _ => a.sub b⟩, ⟨.vmul, .vmul, fun a b _ => a.mul b⟩,
   ⟨.vfma, .vfma, fun a b d => (a.mul b).add d⟩]

/-- Table 7.16, the other lanewise instructions: a lane from the state, the fields and the lanes of va, vb and vc. -/
def vectorLanes : List (VectorRow (State → Nat → VInstr → VFields → W32 → W32 → W32 → W32)) :=
  [⟨.vmin, .vmin, fun _ _ _ _ a b _ => f32min a b⟩, ⟨.vmax, .vmax, fun _ _ _ _ a b _ => f32max a b⟩,
   ⟨.vcmp, .vcmp, fun _ _ _ g a b _ => if vcmpTest g.sub a b then f32one else f32zero⟩,
   ⟨.vsel, .vsel, fun _ _ _ _ a b d => if (f32val a).isZero then d else b⟩,
   ⟨.vtab, .vtab, fun s c _ g a _ _ => (tableOf s c g.fmt).eval a⟩,
   ⟨.vbcast, .vbcast, fun _ _ v _ _ _ _ => v.se⟩]

/-- Table 7.16, the instructions on whole rows: the row of vd from the fields and the rows of va and vb. -/
def vectorRows : List (VectorRow (VFields → Row → Row → Row)) :=
  [⟨.vand, .vand, fun _ a b => BitVec.ofNat 4096 (a.toNat &&& b.toNat)⟩,
   ⟨.vor, .vor, fun _ a b => BitVec.ofNat 4096 (a.toNat ||| b.toNat)⟩,
   ⟨.vxor, .vxor, fun _ a b => BitVec.ofNat 4096 (a.toNat ^^^ b.toNat)⟩,
   ⟨.vreds, .vreds, fun _ a _ => ofLanes (treeFold f32add 7 (lanes.map (lane a)))⟩,
   ⟨.vredm, .vredm, fun _ a _ => ofLanes (treeFold f32max 7 (lanes.map (lane a)))⟩]

/-- The vector instruction has left its tile's queue; of the unit's registers only those listed may differ, and no byte of
memory does. -/
def VectorDone (s u : State) (t : Tile) (written : List Nat) : Prop :=
  (u.vunit t).queue = (s.vunit t).queue.tail ∧ u.tubMem = s.tubMem ∧ u.stackMem = s.stackMem ∧ u.hostMem = s.hostMem ∧
    ∀ i, i ∉ written → (u.vunit t).reg i = (s.vunit t).reg i

/-! ### Answers of the mailboxes -/

/-- Mailbox `m` shows a completed command: DONE, its interrupt flag set, and the response area holding the status, the
payload's length and the payload (Table 13.1). -/
def Answered (u : State) (m status : Nat) (payload : List Byte) : Prop :=
  (u.mbx m).st = .done ∧ (u.mbx m).req = none ∧ (u.mbx m).irq.getLsbD 0 = true ∧
    KV.getList 0 (u.mbx m).page 0x800 2 = leBytes 2 status ∧
    KV.getList 0 (u.mbx m).page 0x808 2 = leBytes 2 payload.length ∧
    KV.getList 0 (u.mbx m).page 0x810 payload.length = payload

/-- Mailbox `m` carries the accepted command `r` of opcode `op`, whose fields and slot `c` pass the checks of R417 and
R419. -/
def Serves (s : State) (m op : Nat) (r : Request) (c : Nat) : Prop :=
  s.power.on = true ∧ s.request m op = some r ∧ slotCheck r s = .ok c

/-! ### Slot commands -/

/-- A slot command (Table 13.3): its opcode, the states in which it is allowed, the payload bytes that Table 13.5 names
beside byte 0 (offset and length), and the payload of its refusal (R419). -/
structure SlotRow where
  cmd : Mbox → Instr
  op : Nat
  states : List CtxSt
  fields : List (Nat × Nat)
  refused : List Byte

/-- Table 13.3, the commands that name a slot. -/
def slotRows : List SlotRow :=
  [⟨.opLoad, Op.load, [.empty], [(8, 16)], []⟩, ⟨.opStart, Op.start, [.loaded], [(8, 6)], []⟩,
   ⟨.opUnload, Op.unload, [.loaded, .running, .held, .saved], [], []⟩, ⟨.opRelease, Op.release, [.held], [], []⟩,
   ⟨.opSave, Op.save, [.running, .held], [(8, 8)], []⟩, ⟨.opRestore, Op.restore, [.saved], [], []⟩,
   ⟨.opReshard, Op.reshard, [.held], [(8, 12)], []⟩, ⟨.opResume, Op.resume, [.loaded, .held], [(8, 6), (16, 1)], []⟩,
   ⟨.opPageMap, Op.pageMap, [.empty, .loaded, .running, .held, .saved], [(1, 4), (8, 20)], []⟩,
   ⟨.opPageUnmap, Op.pageUnmap, [.empty, .loaded, .held, .saved], [(1, 4), (8, 20)], []⟩] ++
  [⟨.opCopy, Op.copy, [.empty, .loaded, .running, .held, .saved], [(1, 4), (8, 24)], List.replicate 8 0⟩,
   ⟨.opWatch, Op.watch, [.loaded, .held], [(16, 32)], []⟩,
   ⟨.opDecide, Op.decide, [.loaded, .running, .held, .saved], [(1, 1)], []⟩,
   ⟨.opFeed, Op.feed, [.loaded, .held], [(8, 8), (16, 8), (24, 6)], []⟩,
   ⟨.opPeerMap, Op.peerMap, [.loaded, .held, .saved], [(8, 12)], []⟩]

/-- A payload byte that the command does not name is set (R419). -/
def SlotRow.reservedSet (e : SlotRow) (r : Request) : Prop :=
  ∃ i, 0 < i ∧ i < r.payload.length ∧ (∀ f ∈ e.fields, i < f.1 ∨ f.1 + f.2 ≤ i) ∧ r.payload.getD i 0 ≠ 0

/-- The slot keeps its state, its pages and its holds. -/
def SameContexts (s u : State) : Prop :=
  ∀ d, (u.slot d).st = (s.slot d).st ∧ (u.slot d).pages = (s.slot d).pages ∧ (u.slot d).holds = (s.slot d).holds

/-- Mailbox `m` carries the accepted command `r` of opcode `op` for slot `c`, which waits for the opening band (R414). -/
def WaitsForBand (s : State) (m op : Nat) (r : Request) (c : Nat) : Prop :=
  (s.mbx m).st = .accepted ∧ (s.mbx m).stage = .band ∧ (s.mbx m).req = some r ∧ r.opcode = op ∧ r.slot = some c

/-- OP_PAGE_MAP of range `q` may act on slot `c` (R420): no page of the range is resident, device pages are free, and the
range lies in a region of its kind, or becomes pre-load pages (`pre`) of a slot that is EMPTY or HELD. `w` is the permission. -/
def PageTarget (s : State) (c : Nat) (q : PageCmd) (w pre : Bool) : Prop :=
  touchesPage (s.slot c) q = false ∧ (q.host = false → q.pages ≤ pagesFree s q.stack) ∧
    ((pre = false ∧ (s.slot c).st ≠ .empty ∧ (∃ g, pageRegion (s.slot c) q = some g ∧ w = (q.writable && g.writable)) ∧
        (q.host = true → q.hostAddr % q.size = 0)) ∨
      (pre = true ∧ w = true ∧ q.host = false ∧ ((s.slot c).st = .empty ∨ (s.slot c).st = .held ∧
        ∀ g ∈ (s.slot c).regions, g.base + g.size ≤ q.va ∨ q.va + q.bytes ≤ g.base)))

/-- The pages of range `q` are resident in slot `c` (R255, R420): a host page at the host address of its offset, a device
page on a page of its stack, each on one of its own, that was free and reads as zeros. Every other page is as before. -/
def PagesResident (s u : State) (c : Nat) (q : PageCmd) (w pre : Bool) : Prop :=
  (q.host = true → ∀ a ∈ q.addrs,
    KV.find? (u.slot c).pages a = some ⟨true, q.big, 0, q.hostAddr + (a - q.va), w, pre⟩) ∧
  (q.host = false → ∃ ps : List Nat, ps.length = q.pages ∧ ps.Nodup ∧
    ((s.mem.usedOf q.stack).Pairwise (· < ·) → ∀ p ∈ ps, p ∉ s.mem.usedOf q.stack) ∧
    (∀ i (h : i < ps.length), KV.find? (u.slot c).pages (q.va + i * q.size) =
      some ⟨false, true, q.stack, ps[i] * pageBig, w, pre⟩) ∧
    ∀ p ∈ ps, ∀ o, o < pageBig → KV.get 0 u.stackMem (stackKey q.stack (p * pageBig + o)) = 0) ∧
  (∀ a, a ∉ q.addrs → KV.find? (u.slot c).pages a = KV.find? (s.slot c).pages a) ∧ (u.slot c).st = (s.slot c).st

/-- OP_PAGE_UNMAP of range `q` may act on slot `c` (R420): each page of the range is resident and of its kind, in a region, or
a pre-load page of an EMPTY slot. -/
def PagesOwned (s : State) (c : Nat) (q : PageCmd) : Prop :=
  ((s.slot c).st ≠ .empty → (pageRegion (s.slot c) q).isSome = true) ∧
    ∀ a ∈ q.addrs, ∃ p, KV.find? (s.slot c).pages a = some p ∧ p.host = q.host ∧ p.big = q.big ∧ p.stack = q.stack ∧
      (p.preload = true ↔ (s.slot c).st = .empty)

/-- No page of range `q` is resident in slot `c`, and every other page is as before (R256). -/
def PagesGone (s u : State) (c : Nat) (q : PageCmd) : Prop :=
  (∀ a, q.va ≤ a → a < q.va + q.bytes → KV.find? (u.slot c).pages a = none) ∧
    (∀ a, a < q.va ∨ q.va + q.bytes ≤ a → KV.find? (u.slot c).pages a = KV.find? (s.slot c).pages a) ∧
    (u.slot c).st = (s.slot c).st

/-! ### Links -/

/-- With the corrections at places `at_` of a flit no lane of port `p` comes to more than 1,024 within 1 ms (R352). -/
def CorrectionsBearable (s : State) (p : Nat) (at_ : List Nat) : Prop :=
  ∀ l, l < 8 → s.mp.recent (evKey 21 (8 * p + l)) s.now 3000000 + at_.countP (fun b => b % 8 == l) ≤ 1024

/-! ### Press jobs -/

/-- Press `j` takes command `q`, a well-formed job `w` of its kind, for context `c`: it is the next command of the queue, in
its range, and the Press is free (R39, R287). -/
def PressTakes (s : State) (kind : Nat) (j : Stack) (c : Slot) (q : Cmd) (w : PJob) : Prop :=
  s.power.on = true ∧ resumeTurn s kind j c = false ∧ (s.slot c).nextCmd 3 j = some q ∧ q.kind = kind ∧
    (s.slot c).mayStart s.now 3 q = true ∧ KV.find? (s.slot c).press.jobs j = none ∧ pjobOf (s.slot c).press j q = .ok w

end Sys2Proof
end

