-- ==== Sys2Proof/Certificates/Slice0/Obligations.lean ====
section
/-!
DEFINITION. The claims about the model, one proposition each; every docstring names the rule or section of the spec it
formalises.
-/

open Sys2Proof Sys2Proof.Machine

/-! ### The machine -/

/-- A step takes the command at the front of the queue and runs it on the state with the queue's rest. The queue is the
model's own (log entry 2). -/
def Obligations.StepRunsFrontCommand : Prop :=
  ∀ (c : Instr) (rest : List Instr) (s : State), s.pending = c :: rest → step s = exec c { s with pending := rest }

/-- With no command waiting a step is one core cycle: the clock advances by one and nothing waits still (the model's choice,
log entry 2; R28). Where no WAIT is in execution and no arbitration loss is to be reported, no mailbox, memory or MP record
changes. -/
def Obligations.IdleStepIsOneCycle : Prop :=
  ∀ s : State, s.pending = [] → ∃ t, step s = .next t ∧ t.now = s.now + 1 ∧ t.pending = [] ∧ t.fuses = s.fuses ∧
    (s.tub.losses = [] → (∀ c, c < 8 → ∀ a ∈ (s.slot c).ghl.acts, a.kind ≠ 1) →
      t.hamper = s.hamper ∧ t.mp = s.mp ∧ t.tubMem = s.tubMem ∧ t.stackMem = s.stackMem ∧ t.hostMem = s.hostMem)

/-- Every command but a register write answers a next state, whatever the state. R13: no command changes the fuses; none
changes the queue or the clock either (the model's choice, log entry 3). -/
def Obligations.EveryCommandAnswers : Prop :=
  (∀ (i : Instr) (s : State), (∀ (f : Fin 8) (b : Bar) (off : Nat) (v : W32), i ≠ .registerWrite f b off v) →
      ∃ t, exec i s = .next t) ∧
  (∀ (i : Instr) (s t : State), exec i s = .next t → t.fuses = s.fuses ∧ t.pending = s.pending ∧ t.now = s.now)

/-- What every step keeps (`StoreInv`): the three memories stay canonical, the fuses name an assembly of Table 1.2, the
event log holds at most 8,192 records in RAM and 16,384 in flash (R465), the change log fewer than 15,360 (R471), at most
32 self-tests wait beside the one under way (R440), at most 16 messages wait for the mailbox requester (R484), and the
health is one of the four values of R452. -/
def Obligations.EveryStepKeepsStores : Prop :=
  ∀ s t : State, StoreInv s → step s = .next t → StoreInv t

/-! ### Tile sequencer (07_tile_program) -/

/-- Table 7.13, ADD to MAXU and ADDI to LUI: with the word `w` next on the tile, sd takes the value of the table from sa and sb,
or from sa and the immediate of the word, and pc moves on by one; the sequencer's other registers, and all else, stay. -/
def Obligations.ScalarArithmetic : Prop :=
  (∀ e ∈ scalarThree, ∀ (t : Tile) (c : Slot) (s : State) (w : W32), s.power.on = true →
      seqReady s c t e.op = some w →
      exec (e.cmd t c) s = .next (s.modSeq c t fun q =>
        (q.wr (fld w 25 21) (e.f (q.rd (fld w 20 16)) (q.rd (fld w 15 11)))).next)) ∧
  (∀ e ∈ scalarImm, ∀ (t : Tile) (c : Slot) (s : State) (w : W32), s.power.on = true →
      seqReady s c t e.op = some w →
      exec (e.cmd t c) s = .next (s.modSeq c t fun q =>
        (q.wr (fld w 25 21) (e.f (q.rd (fld w 20 16)) (BitVec.ofNat 16 (fld w 15 0)))).next))

/-- Table 7.13, POPC, CLZ and CTZ: the value written is at most 32; POPC counts the ones; below the place that CLZ names
from the top, and that CTZ names from the bottom, every bit is zero and the bit there is one, 32 standing for a zero
operand. CMP and CMPI write the predicate pd with the comparison of R230, and a write to p0 changes nothing (R226); SEL takes sa
where its predicate is 1, else sb. -/
def Obligations.ScalarCountsAndPredicates : Prop :=
  (∀ (t : Tile) (c : Slot) (s : State) (w : W32), s.power.on = true →
      (seqReady s c t .popc = some w → ∃ u n, exec (.seqPopc t c) s = .next u ∧
        u = s.modSeq c t (fun q => (q.wr (fld w 25 21) (BitVec.ofNat 32 n)).next) ∧
        n = (((List.range 32).filter fun i => ((s.seq c t).rd (fld w 20 16)).getLsbD i).length)) ∧
      (seqReady s c t .clz = some w → ∃ u n, exec (.seqClz t c) s = .next u ∧
        u = s.modSeq c t (fun q => (q.wr (fld w 25 21) (BitVec.ofNat 32 n)).next) ∧ n ≤ 32 ∧
        (∀ i, i < n → ((s.seq c t).rd (fld w 20 16)).getLsbD (31 - i) = false) ∧
        (n < 32 → ((s.seq c t).rd (fld w 20 16)).getLsbD (31 - n) = true)) ∧
      (seqReady s c t .ctz = some w → ∃ u n, exec (.seqCtz t c) s = .next u ∧
        u = s.modSeq c t (fun q => (q.wr (fld w 25 21) (BitVec.ofNat 32 n)).next) ∧ n ≤ 32 ∧
        (∀ i, i < n → ((s.seq c t).rd (fld w 20 16)).getLsbD i = false) ∧
        (n < 32 → ((s.seq c t).rd (fld w 20 16)).getLsbD n = true))) ∧
  (∀ (t : Tile) (c : Slot) (s : State) (w : W32), s.power.on = true →
      (seqReady s c t .cmp = some w → ∃ u, exec (.seqCmp t c) s = .next u ∧
        (∀ p, p < 4 → ((u.seq c t).rdP p = true ↔
          (if p = fld w 25 24 ∧ p ≠ 0 then
            compares (fld w 23 21) ((s.seq c t).rd (fld w 20 16)) ((s.seq c t).rd (fld w 15 11))
          else (s.seq c t).rdP p = true))) ∧
        (u.seq c t).pc = (s.seq c t).pc + 1 ∧ (u.seq c t).s = (s.seq c t).s ∧ (u.seq c t).a = (s.seq c t).a) ∧
      (seqReady s c t .cmpi = some w → ∃ u, exec (.seqCmpi t c) s = .next u ∧
        (∀ p, p < 4 → ((u.seq c t).rdP p = true ↔
          (if p = fld w 25 24 ∧ p ≠ 0 then
            compares (fld w 23 21) ((s.seq c t).rd (fld w 20 16)) ((BitVec.ofNat 16 (fld w 15 0)).signExtend 32)
          else (s.seq c t).rdP p = true))) ∧
        (u.seq c t).pc = (s.seq c t).pc + 1 ∧ (u.seq c t).s = (s.seq c t).s ∧ (u.seq c t).a = (s.seq c t).a) ∧
      (seqReady s c t .sel = some w → exec (.seqSel t c) s = .next (s.modSeq c t fun q =>
        (q.wr (fld w 25 21)
          (if fld w 10 9 = 0 ∨ q.p.getLsbD (fld w 10 9) = true then q.rd (fld w 20 16) else q.rd (fld w 15 11))).next)))

/-- Table 7.13, ADDA, MOVA, MOVS, MFS, BR and NOP: address registers hold 18 bits and wrap; MFS gives the special value
of Table 7.14 (`specialValue`); BR goes to pc + disp where its predicate equals sense and to the next word elsewhere. -/
def Obligations.ScalarMovesAndBranch : Prop :=
  ∀ (t : Tile) (c : Slot) (s : State) (w : W32), s.power.on = true →
    (seqReady s c t .adda = some w → exec (.seqAdda t c) s = .next (s.modSeq c t fun q =>
      (q.wrA (fld w 25 23) (BitVec.ofNat 18 ((q.rdA (fld w 22 20)).toNat + fld w 17 0))).next)) ∧
    (seqReady s c t .mova = some w → exec (.seqMova t c) s = .next (s.modSeq c t fun q =>
      (q.wrA (fld w 25 23) (BitVec.ofNat 18 (q.rd (fld w 22 18)).toNat)).next)) ∧
    (seqReady s c t .movs = some w → exec (.seqMovs t c) s = .next (s.modSeq c t fun q =>
      (q.wr (fld w 25 21) (BitVec.ofNat 32 (q.rdA (fld w 20 18)).toNat)).next)) ∧
    (seqReady s c t .mfs = some w → exec (.seqMfs t c) s = .next (s.modSeq c t fun q =>
      (q.wr (fld w 25 21) (specialValue s c t (fld w 20 16))).next)) ∧
    (seqReady s c t .br = some w → exec (.seqBr t c) s = .next (s.modSeq c t fun q =>
      if q.rdP (fld w 25 24) = decide (fld w 23 23 = 1) then { q with pc := q.pc + BitVec.ofNat 13 (fld w 15 0) }
      else q.next)) ∧
    (seqReady s c t .nop = some w → exec (.seqNop t c) s = .next (s.modSeq c t Seq.next))

/-- R183, R184, R230: LDP on a word that holds no poison and no error gives s the bytes 0 to 3 and s + 1 the bytes 4 to 7
of the narrow unit, little-endian; STP puts s and s + 1 there and leaves every other byte of the Tubs. The address is that of
format N, and a post-increment moves the address register. Each is an access to its bank in the cycle (R180). -/
def Obligations.NarrowAccess : Prop :=
  ∀ (t : Tile) (c : Slot) (s : State) (w : W32) (k b : Nat), s.power.on = true →
    narrowPlace s c t (narrowEa (s.seq c t) w).1 = some (k, b) → KV.get 0 s.tub.errs (8 * k + b / 64) = 0 →
    (seqReady s c t .ldp = some w → s.tub.poisoned k (b / 64) = false → exec (.seqLdp t c) s =
      .next ((s.ask (narrowAsk c t (narrowEa (s.seq c t) w).1)).modSeq c t fun _ => (((narrowEa (s.seq c t) w).2.wr (fld w 25 21)
        (BitVec.ofNat 32 (leNat (KV.getList 0 s.tubMem (512 * k + b) 4)))).wr (fld w 25 21 + 1)
        (BitVec.ofNat 32 (leNat (KV.getList 0 s.tubMem (512 * k + b + 4) 4)))).next)) ∧
    (seqReady s c t .stp = some w → ∃ u, exec (.seqStp t c) s = .next u ∧
      u.seq c t = (narrowEa (s.seq c t) w).2.next ∧
      KV.getList 0 u.tubMem (512 * k + b) 8 =
        leBytes 4 ((s.seq c t).rd (fld w 25 21)).toNat ++ leBytes 4 ((s.seq c t).rd (fld w 25 21 + 1)).toNat ∧
      (∀ a, a < 512 * k + b ∨ 512 * k + b + 8 ≤ a → KV.get 0 u.tubMem a = KV.get 0 s.tubMem a) ∧
      u.stackMem = s.stackMem ∧ u.hostMem = s.hostMem ∧ u.tub.lines = s.tub.lines)

/-- Table 7.13, WAITU and WAITV and the ends of their waits: each goes on at once when what it waits for has come, and else
holds the sequencer until it has (R230; the sum of WAITU is a two's complement value, log entry 92). R227, R231: END ends the RUN on its tile; while the vector unit still holds an
instruction of the context it only marks the sequencer ended. TRAP aborts the RUN with F_SEQ_TRAP and imm16 as the trap code
(`tileFault`). -/
def Obligations.WaitsEndAndTrap : Prop :=
  (∀ (t : Tile) (c : Slot) (s : State) (w : W32), s.power.on = true →
      (seqReady s c t .waitu = some w → exec (.seqWaitu t c) s = .next (s.modSeq c t fun q =>
        if ((s.seq c t).rd (fld w 25 21) + BitVec.ofNat 32 (fld w 20 0)).toInt ≤ rangeCycle s c then q.next
        else { q with wait := .until_ ((s.seq c t).rd (fld w 25 21) + BitVec.ofNat 32 (fld w 20 0)).toNat })) ∧
      (∀ n, (s.seq c t).wait = .until_ n → n ≤ rangeCycle s c → exec (.seqWaituReached t c) s =
        .next (s.modSeq c t fun q => { q with wait := .none, pc := q.pc + 1 })) ∧
      (seqReady s c t .waitv = some w → exec (.seqWaitv t c) s = .next (s.modSeq c t fun q =>
        if ∀ v ∈ (s.vunit t).queue, v.ctx ≠ c then q.next else { q with wait := .vector })) ∧
      ((s.seq c t).wait = .vector → (∀ v ∈ (s.vunit t).queue, v.ctx ≠ c) → exec (.seqWaitvDrained t c) s =
        .next (s.modSeq c t fun q => { q with wait := .none, pc := q.pc + 1 }))) ∧
  (∀ (t : Tile) (c : Slot) (s : State) (w : W32) (k : Nat), s.power.on = true → (s.seq c t).run = some k →
      (seqReady s c t .end_ = some w → (∃ v ∈ (s.vunit t).queue, v.ctx = c) →
        exec (.seqEnd t c) s = .next (s.modSeq c t fun q => { q with ended := true })) ∧
      (seqReady s c t .end_ = some w → (∀ v ∈ (s.vunit t).queue, v.ctx ≠ c) →
        (∀ q ∈ (s.slot c).tileCmds, q.k = k) →
        ∃ u, exec (.seqEnd t c) s = .next u ∧ (u.seq c t).run = none ∧ (u.seq c t).ended = false ∧
          (∀ q ∈ (u.slot c).tileCmds, KV.get .waiting q.tiles t.idx = .done) ∧
          (u.seq c t).s = (s.seq c t).s ∧ u.tubMem = s.tubMem ∧ u.stackMem = s.stackMem ∧ u.hostMem = s.hostMem) ∧
      (seqReady s c t .trap = some w → exec (.seqTrap t c) s =
        .next (s.effectOf (tileFault c t Code.seqTrap (s.seq c t).pc.toNat (fld w 15 0) s))))

/-- R186, R187, R193: with no operation on the Line and nothing waiting on it, LSET and LINE_SETUP load the record's fields
and restart the Line, LRST and LINE_RESET restart it with its fields; when the operations that held a setup or a reset off have
ended, LINE_SETUP_EFFECT applies the oldest. R190: LGEN gives s the generation of the Line, LOCC its occupancy; on a Line that
is not set up they abort the RUN with F_LINE_UNSET (R185). -/
def Obligations.LineSetupsAndResets : Prop :=
  (∀ (t : Tile) (c : Slot) (s : State) (w : W32) (l k : Nat), s.power.on = true → lineKey? s c t l = some k →
      lineUsers s c t l = [] → (s.line k).pend = [] →
      (seqReady s c t .lset = some w → fld w 20 17 = l →
        setupOk s c t l ((s.seq c t).rd (fld w 25 21 + 1) ++ (s.seq c t).rd (fld w 25 21)) = true →
        ∃ u, exec (.seqLset t c) s = .next u ∧ (u.seq c t) = (s.seq c t).next ∧
          LineRestarted s u k
            (some (lineCfgOf ((s.seq c t).rd (fld w 25 21 + 1) ++ (s.seq c t).rd (fld w 25 21))))) ∧
      (seqReady s c t .lrst = some w → fld w 20 17 = l → (s.line k).cfg.isSome = true →
        ∃ u, exec (.seqLrst t c) s = .next u ∧ (u.seq c t) = (s.seq c t).next ∧ LineRestarted s u k (s.line k).cfg) ∧
      (∀ q tc, tileNext s c 1 = some (q, tc) → addressed tc = [t.idx] → tc.entry % 16 = l →
        setupOk s c t l (q.body.getD 1 0) = true →
        ∃ u, exec (.lineSetup c) s = .next u ∧ LineRestarted s u k (some (lineCfgOf (q.body.getD 1 0)))) ∧
      (∀ q tc, tileNext s c 2 = some (q, tc) → addressed tc = [t.idx] → tc.entry % 16 = l →
        (s.line k).cfg.isSome = true →
        ∃ u, exec (.lineReset c) s = .next u ∧ LineRestarted s u k (s.line k).cfg)) ∧
  (∀ (t : Tile) (l : LineNo) (c : Nat) (s : State) (p : LinePend) (ps : List LinePend), s.power.on = true →
      (s.line (16 * s.physTile t + l)).pend = p :: ps → lineOwner s l = some c →
      (∀ i ∈ p.before, i ∉ lineUsers s c t (l - (s.part c).lineBase.toNat)) →
      ∃ u, exec (.lineSetupEffect t l) s = .next u ∧
        LineRestarted s u (16 * s.physTile t + l)
          (match p.cfg with
            | some g => some g
            | none => (s.line (16 * s.physTile t + l)).cfg) ∧
        (u.line (16 * s.physTile t + l)).pend = ps ∧
        ∀ j, j ≠ 16 * s.physTile t + l → u.line j = s.line j) ∧
  (∀ (t : Tile) (c : Slot) (s : State) (w : W32) (k : Nat) (g : LineCfg), s.power.on = true →
      lineKey? s c t (fld w 20 17) = some k →
      ((s.line k).cfg = some g → seqReady s c t .lgen = some w → exec (.seqLgen t c) s = .next (s.modSeq c t fun q =>
        (q.wr (fld w 25 21) (BitVec.ofNat 32 (lineGen s k).toNat)).next)) ∧
      ((s.line k).cfg = some g → seqReady s c t .locc = some w → exec (.seqLocc t c) s = .next (s.modSeq c t fun q =>
        (q.wr (fld w 25 21) (BitVec.ofNat 32
          (if g.fixed then (s.line k).tail else ((s.line k).tail + 2 * g.size - (s.line k).head) % (2 * g.size)))).next)) ∧
      ((s.line k).cfg = none → seqReady s c t .lgen = some w → exec (.seqLgen t c) s =
        .next (s.effectOf (tileFault c t Code.lineUnset (s.seq c t).pc.toNat 0 s))))

/-- R220, R227: RUN on one free tile sets its pc to the entry and starts it; every register keeps its value. RUN_COMPLETE
writes the record of the first RUN that is done on every tile it names. VECTOR_SEND puts the two words, with s[se], at the
end of a queue that has room, and pc moves by two (R228, R233). -/
def Obligations.RunsAndVectorSends : Prop :=
  (∀ (c : Slot) (s : State) (q : Cmd) (tc : TileCmd) (i : Nat), s.power.on = true → tileNext s c 0 = some (q, tc) →
    addressed tc = [i] → (s.slot c).tileCmds = [] → (s.seq c (tileOf (i / 32) (i % 32))).run = none → i < 512 →
    ∃ u, exec (.run c) s = .next u ∧
      u.seq c (tileOf (i / 32) (i % 32)) = { s.seq c (tileOf (i / 32) (i % 32)) with
        pc := BitVec.ofNat 13 tc.entry, run := some tc.k, wait := .none, ended := false } ∧
      (u.slot c).nextCmd 1 0 = ((s.slot c).advance 1 0).nextCmd 1 0 ∧ u.tubMem = s.tubMem ∧ u.stackMem = s.stackMem ∧
      u.hostMem = s.hostMem) ∧
  (∀ (c : Slot) (s : State) (q : TileCmd), s.power.on = true →
    (s.slot c).tileCmds.find? (fun q => (addressed q).all fun i => (KV.get .waiting q.tiles i).isDone) = some q →
    exec (.runComplete c) s = .next (s.effectOf ((s.complete c 1 0 q.k (q.record 0)).modSlot c fun x =>
      { x with tileCmds := x.tileCmds.filter fun r => r.k != q.k }))) ∧
  (∀ (t : Tile) (c : Slot) (s : State) (w0 w1 : W32), s.power.on = true → seqReady s c t .vector = some w0 →
    seqWordAt s c t 1 = some w1 → (s.vunit t).queue.length < 16 →
    ∃ u, exec (.vectorSend t c) s = .next u ∧ (u.seq c t).pc = (s.seq c t).pc + 2 ∧ (u.seq c t).s = (s.seq c t).s ∧
      (u.vunit t).queue = (s.vunit t).queue ++
        [⟨w0, w1, (s.seq c t).rd (fld w0 4 0), c, (s.seq c t).pc.toNat, (s.vunit t).sent⟩] ∧
      (u.vunit t).v = (s.vunit t).v ∧ u.tubMem = s.tubMem)

/-! ### Vector unit (07_tile_program) -/

/-- Table 7.16: each of the 128 lanes that VADD, VSUB, VMUL and VFMA write is the exact result rounded once in the mode of R235;
the lanes of VMIN, VMAX, VCMP, VSEL, VTAB and VBCAST take the table's values; VPOPC puts the count of ones of va into lane
s[se] mod 128 and leaves the other lanes. The instruction leaves the queue; no other register and no memory changes. -/
def Obligations.VectorLanes : Prop :=
  (∀ e ∈ vectorRounded, ∀ (t : Tile) (c : Slot) (s : State) (v : VInstr) (g : VFields), s.power.on = true →
      vecHead s c t e.op = some (v, g) → ∃ u, exec (e.cmd t c) s = .next u ∧ VectorDone s u t [g.vd] ∧
        ∀ l, l < 128 → lane ((u.vunit t).reg g.vd) l = f32round (vecMode s c (g.sub % 4) g.layer v l)
          (e.f (f32val (lane ((s.vunit t).reg g.va) l)) (f32val (lane ((s.vunit t).reg g.vb) l))
            (f32val (lane ((s.vunit t).reg g.vc) l)))) ∧
  ((∀ e ∈ vectorLanes, ∀ (t : Tile) (c : Slot) (s : State) (v : VInstr) (g : VFields), s.power.on = true →
      vecHead s c t e.op = some (v, g) → ∃ u, exec (e.cmd t c) s = .next u ∧ VectorDone s u t [g.vd] ∧
        ∀ l, l < 128 → lane ((u.vunit t).reg g.vd) l = e.f s c v g (lane ((s.vunit t).reg g.va) l)
          (lane ((s.vunit t).reg g.vb) l) (lane ((s.vunit t).reg g.vc) l)) ∧
    (∀ (t : Tile) (c : Slot) (s : State) (v : VInstr) (g : VFields), s.power.on = true →
      vecHead s c t .vpopc = some (v, g) → ∃ u, exec (.vpopc t c) s = .next u ∧ VectorDone s u t [g.vd] ∧
        ∀ l, l < 128 → lane ((u.vunit t).reg g.vd) l =
          if l = v.se.toNat % 128 then f32ofNat (popcRow ((s.vunit t).reg g.va)) else lane ((s.vunit t).reg g.vd) l))

/-- Table 7.16, VAND, VOR, VXOR, VREDS and VREDM: vd takes the table's row; VNZB takes the bitmap of non-zero elements;
VFOLD ORs the groups of 2^sub bits of va into one. VCVT widens a quarter of va, VPACK narrows n registers into one row, VMATCH
gathers the elements that are non-zero in both rows and counts them, VMOVS writes a scalar register, which is then outstanding
no longer (R228). -/
def Obligations.VectorRowsAndConversions : Prop :=
  ((∀ e ∈ vectorRows, ∀ (t : Tile) (c : Slot) (s : State) (v : VInstr) (g : VFields), s.power.on = true →
      vecHead s c t e.op = some (v, g) → ∃ u, exec (e.cmd t c) s = .next u ∧ VectorDone s u t [g.vd] ∧
        (u.vunit t).reg g.vd = e.f g ((s.vunit t).reg g.va) ((s.vunit t).reg g.vb)) ∧
    (∀ (t : Tile) (c : Slot) (s : State) (v : VInstr) (g : VFields) (f : Fmt), s.power.on = true →
      vecHead s c t .vnzb = some (v, g) → Fmt.ofCode g.fmt = some f → ∃ u, exec (.vnzb t c) s = .next u ∧
        VectorDone s u t [g.vd] ∧ (u.vunit t).reg g.vd = bitmapOf f ((s.vunit t).reg g.va)) ∧
    (∀ (t : Tile) (c : Slot) (s : State) (v : VInstr) (g : VFields), s.power.on = true → g.sub ≤ 12 →
      vecHead s c t .vfold = some (v, g) → ∃ u, exec (.vfold t c) s = .next u ∧ VectorDone s u t [g.vd] ∧
        ∀ i, i < 4096 → (((u.vunit t).reg g.vd).getLsbD i = true ↔
          i < 2 ^ g.sub ∧ ∃ k, k * 2 ^ g.sub + i < 4096 ∧ ((s.vunit t).reg g.va).getLsbD (k * 2 ^ g.sub + i) = true))) ∧
  (∀ (t : Tile) (c : Slot) (s : State) (v : VInstr) (g : VFields) (f : Fmt), s.power.on = true →
      (vecHead s c t .vcvt = some (v, g) → Fmt.ofCode g.fmt = some f → ∃ u, exec (.vcvt t c) s = .next u ∧
        VectorDone s u t [g.vd] ∧
        (u.vunit t).reg g.vd = ofLanes (lanes.map fun l =>
          f32rne (cvtLane f g.sub ((s.vunit t).reg g.va) ((s.vunit t).reg g.vb) g.vc l))) ∧
      (vecHead s c t .vpack = some (v, g) → Fmt.ofCode g.fmt = some f → f ≠ .fp4 → ∃ u, exec (.vpack t c) s = .next u ∧
        VectorDone s u t [g.vd] ∧
        (u.vunit t).reg g.vd = ofElems f ((List.range f.perRow).map fun e =>
          encodeElem f (vecMode s c g.vc g.layer v e)
            (f32val (lane ((s.vunit t).reg (g.va + e / 128)) (e % 128))))) ∧
      (vecHead s c t .vpack = some (v, g) → Fmt.ofCode g.fmt = some .fp4 → g.vb ≠ g.vd → ∃ u, exec (.vpack t c) s = .next u ∧
        VectorDone s u t [g.vd, g.vb] ∧
        (∀ els scs, packFp4 (vecMode s c g.vc g.layer v) ((List.range 1024).map fun e =>
            f32val (lane ((s.vunit t).reg (g.va + e / 128)) (e % 128))) = (els, scs) →
          (u.vunit t).reg g.vd = ofElems .fp4 els ∧
          (u.vunit t).reg g.vb = putBytes ((s.vunit t).reg g.vb) (32 * g.sub) scs)) ∧
      (vecHead s c t .vmatch = some (v, g) → Fmt.ofCode g.fmt = some f → ∃ u, exec (.vmatch t c) s = .next u ∧
        VectorDone s u t [g.vd, g.vd + 1] ∧
        (u.vunit t).reg g.vd = (matchRows f ((s.vunit t).reg g.va) ((s.vunit t).reg g.vb)).1 ∧
        (u.vunit t).reg (g.vd + 1) = (matchRows f ((s.vunit t).reg g.va) ((s.vunit t).reg g.vb)).2.1 ∧
        (u.vunit t).matchCount =
          BitVec.ofNat 16 (matchRows f ((s.vunit t).reg g.va) ((s.vunit t).reg g.vb)).2.2) ∧
      (vecHead s c t .vmovs = some (v, g) → ∃ u, exec (.vmovs t c) s = .next u ∧
        VectorDone s u t [] ∧
        (u.seq c t).rd (fld v.w0 4 0) =
          if fld v.w0 4 0 = 0 then 0
          else if g.sub = 0 then lane ((s.vunit t).reg g.va) 0 else BitVec.ofNat 32 (s.vunit t).matchCount.toNat))

/-- Table 7.16, VLD, VST and VLDP on Lines that let them go on (R190 to R193): VLD takes the next row of its Line into vd,
VST writes vd as the next row, VLDP expands the next packet under its header (R163) and counts it. -/
def Obligations.VectorLineAccess : Prop :=
  ∀ (t : Tile) (c : Slot) (s s' : State) (v : VInstr) (g : VFields) (row : Row), s.power.on = true →
    (vecHead s c t .vld = some (v, g) → lineRead s c t g.line (vecUser t v) (g.sub == 0) = (.done row, s') →
      ∃ u, exec (.vld t c) s = .next u ∧ (u.vunit t).reg g.vd = row ∧ VectorDone s' u t [g.vd] ∧ u.tubMem = s'.tubMem) ∧
    (vecHead s c t .vst = some (v, g) →
      lineWrite s c t g.line (vecUser t v) ((s.vunit t).reg g.vd) = (.done row, s') →
      ∃ u, exec (.vst t c) s = .next u ∧ VectorDone s' u t [] ∧ u.tubMem = s'.tubMem) ∧
    (∀ f dense, vecHead s c t .vldp = some (v, g) → (s.vunit t).hdrOf = some ((s.vunit t).pktRow / 64) →
      lineRead s c t g.line (vecUser t v) true = (.done row, s') → Fmt.ofCode g.fmt = some f →
      unpackRow f (((s'.vunit t).hdr >>> (64 * ((s.vunit t).pktRow % 64))).setWidth 64) row = some dense →
      ∃ u, exec (.vldp t c) s = .next u ∧ (u.vunit t).reg g.vd = dense ∧ VectorDone s' u t [g.vd])

/-! ### Mailboxes (13_hamper_and_contexts) -/

/-- R408 to R410: a sealing write seals an IDLE or DONE mailbox and elsewhere only sets seal_dropped; acknowledgement
queues the copied request, answers OP_NOP with success, or answers the code of the first check that fails; the CP accepts
the command that R410 lets it take. The other mailboxes stay. R405: an opcode that is not listed, a length that is not the
opcode's or a reserved byte that is set, an opcode that a context mailbox may not issue and a slot of another function are refused, in this order. -/
def Obligations.MailboxFlow : Prop :=
  (∀ (m : Mbox) (s : State), s.power.on = true →
      (∀ fn, (s.mbx m).st = .idle ∨ (s.mbx m).st = .done →
        exec (.sealingWrite m fn) s = .next (s.modMbx m fun b => { b with st := .sealed, fn := fn })) ∧
      (∀ fn, (s.mbx m).st = .sealed ∨ (s.mbx m).st = .queued ∨ (s.mbx m).st = .accepted →
        exec (.sealingWrite m fn) s = .next (s.modMbx m fun b => { b with irq := b.irq ||| 4#5 })) ∧
      ((s.mbx m).st = .sealed → ackCheck s m = none → (s.mbx m).field 0 2 ≠ Op.nop →
        ∃ u, exec (.acknowledgement m) s = .next u ∧ (u.mbx m).st = .queued ∧
          (u.mbx m).req = some ((s.mbx m).copy m) ∧ (u.mbx m).ackSeq = s.hamper.ackNext ∧
          u.hamper.ackNext = s.hamper.ackNext + 1 ∧ ∀ n, n ≠ m.val → u.mbx n = s.mbx n) ∧
      (∀ code, (s.mbx m).st = .sealed → ackCheck s m = some code → ∃ u, exec (.acknowledgement m) s = .next u ∧
        Answered u m code [] ∧ (u.mbx m).doneCount = (s.mbx m).doneCount + 1 ∧ ∀ n, n ≠ m.val → u.mbx n = s.mbx n) ∧
      ((s.mbx m).st = .sealed → ackCheck s m = none → (s.mbx m).field 0 2 = Op.nop → ∃ u, exec (.opNop m) s = .next u ∧
        Answered u m 0 [] ∧ ∀ n, n ≠ m.val → u.mbx n = s.mbx n) ∧
      (mayAccept s m = true → ∃ u, exec (.cpAccept m) s = .next u ∧ (u.mbx m).st = .accepted ∧
        (u.mbx m).accSeq = s.hamper.accNext ∧ (∀ n, n ≠ m.val → u.mbx n = s.mbx n) ∧
        (m.val ≠ 0 → (u.slot (m.val - 1)).acct.queueCyc =
          (s.slot (m.val - 1)).acct.queueCyc + (s.now - (s.mbx m).queuedAt)))) ∧
  (∀ (m : Mbox) (s : State), s.power.on = true → (s.mbx m).st = .sealed →
      (opRow? ((s.mbx m).field 0 2) = none → ∃ u, exec (.acknowledgement m) s = .next u ∧ Answered u m 0x0801 []) ∧
      (∀ r, opRow? ((s.mbx m).field 0 2) = some r →
        (r.lenOk (s.mbx m) = false → ∃ u, exec (.acknowledgement m) s = .next u ∧ Answered u m 0x0802 []) ∧
        ((s.mbx m).field 8 8 ≠ 0 → ∃ u, exec (.acknowledgement m) s = .next u ∧ Answered u m 0x0802 []) ∧
        (r.lenOk (s.mbx m) = true → (s.mbx m).field 8 8 = 0 → m.val ≠ 0 → r.ctx = false →
          ∃ u, exec (.acknowledgement m) s = .next u ∧ Answered u m 0x0803 []) ∧
        (r.lenOk (s.mbx m) = true → (s.mbx m).field 8 8 = 0 → m.val ≠ 0 → r.ctx = true → r.slot = true →
          (s.slot (m.val - 1)).owner ≠ (s.mbx m).fn →
          ∃ u, exec (.acknowledgement m) s = .next u ∧ Answered u m 0x0804 [])))

/-- R411, R412: when the accept time passes with a command allowed, every QUEUED and ACCEPTED command is completed with
F_MBX_CP_TIMEOUT and cp_fault is set; a bound report fixes the bound; past its bound the Hamper completes an ACCEPTED
command; and the CP's late completion of it sets late_done and is counted. R463: without a heartbeat for 10 ms the CP is held in
reset and every command it had is completed with F_MBX_CP_TIMEOUT; a fourth time within a day it stays held; a restart leaves
every slot EMPTY and ready set. With no Strokes the heartbeat is written while the CP runs. -/
def Obligations.TimeoutsAndWatchdog : Prop :=
  ((∀ s : State, s.power.on = true → (∃ m, m < 9 ∧ mayAccept s m = true) → ∃ u, exec .cpAcceptTimeout s = .next u ∧
      u.hamper.cpFault = true ∧ u.hamper.cpTimeouts = sat32 s.hamper.cpTimeouts 1 ∧
      ∀ m, m < 9 → ((s.mbx m).st = .queued ∨ (s.mbx m).st = .accepted → Answered u m Code.mbxCpTimeout []) ∧
        ((s.mbx m).st ≠ .queued ∧ (s.mbx m).st ≠ .accepted → u.mbx m = s.mbx m)) ∧
    (∀ (m : Mbox) (s : State), s.power.on = true →
      (∀ r n, (s.mbx m).st = .accepted → (s.mbx m).bound = none → (s.mbx m).req = some r →
        [Op.load, Op.reshard, Op.resume, Op.save, Op.restore].elem r.opcode = true →
        exec (.boundReport m n) s = .next (s.modMbx m fun b => { b with bound := some n })) ∧
      ((s.mbx m).st = .accepted → ∃ u, exec (.completionBoundTimeout m) s = .next u ∧
        Answered u m Code.mbxCpTimeout [] ∧ (u.mbx m).timedOut = true ∧ ∀ n, n ≠ m.val → u.mbx n = s.mbx n) ∧
      ((s.mbx m).timedOut = true → ∃ u, exec (.lateDone m) s = .next u ∧ (u.mbx m).timedOut = false ∧
        (u.mbx m).irq = (s.mbx m).irq ||| 8#5 ∧ u.hamper.lateDone = sat32 s.hamper.lateDone 1))) ∧
  ((∀ s : State, s.power.on = true → s.hamper.ready = true → s.mp.cpHeld = false → ∃ u, exec .cpWatchdog s = .next u ∧
      u.hamper.ready = false ∧ u.hamper.cpFault = true ∧ u.mp.cpHeld = true ∧
      u.mp.cpDead = decide (3 ≤ (s.mp.restarts.filter fun a => decide (s.now ≤ a + day)).length) ∧
      ∀ m, m < 9 → (s.mbx m).st = .queued ∨ (s.mbx m).st = .accepted → Answered u m Code.mbxCpTimeout []) ∧
    (∀ s : State, s.power.on = true → s.mp.cpHeld = true → s.mp.cpDead = false → ∃ u, exec .cpRestart s = .next u ∧
      u.hamper.ready = true ∧ u.hamper.cpFault = false ∧ u.mp.cpHeld = false ∧ u.mp.beat = s.now ∧
      ∀ c, c < 8 → (u.slot c).st = .empty ∧ u.part c = TubPart.none) ∧
    (∀ s : State, s.power.on = true → s.stroke.mode = 0 → s.hamper.ready = true → s.mp.cpHeld = false →
      exec .mode0Heartbeat s = .next (s.modMp fun p => { p with beat := s.now })))

/-- R62, R63, R275, R407, R415, R428: the control registers with side effects. A write of the tail takes it; a read of
MBX_EVT_LOST, STK_MARK_LO, STK_CTX_INDEX_LO and STR_CTX_FAULT_LO returns the register and clears or latches; a feed post adds
to the posted batches up to what the ring has room for, else it sets feed_over.
R416: OP_EVENTS gives its mailbox the ring it describes, with head and tail 0, but for the record of lost events that it may write at once; a
description that breaks R416 is refused with F_MBX_FORMAT. -/
def Obligations.ControlRegisters : Prop :=
  ((∀ (m : Mbox) (s : State) (v : W32), s.power.on = true →
      ((s.mbx m).lostOwn = 0 →
        exec (.mbxEvtTailWrite m v) s = .next (s.modMbx m fun b => { b with tail := v.setWidth 12 })) ∧
      (∃ u, exec (.mbxEvtTailWrite m v) s = .next u ∧ (u.mbx m).tail = v.setWidth 12) ∧
      (∃ u, exec (.mbxEvtLostRead m) s = .next u ∧ u.readData = leBytes 4 (s.mbx m).lost.toNat ∧ (u.mbx m).lost = 0 ∧
        (u.mbx m).lostOwn = (s.mbx m).lostOwn) ∧
      (m.val = 0 → exec (.mbxFeedPostWrite m v) s = .next s) ∧
      (m.val ≠ 0 → (s.slot (m.val - 1)).feed = none →
        exec (.mbxFeedPostWrite m v) s = .next (s.modMbx m fun b => { b with irq := b.irq ||| 16#5 })) ∧
      (∀ f, m.val ≠ 0 → (s.slot (m.val - 1)).feed = some f → ∃ u, exec (.mbxFeedPostWrite m v) s = .next u ∧
        (u.mbx m).feedPosted = BitVec.ofNat 32 (min ((s.mbx m).feedPosted.toNat + v.toNat % 65536)
          ((s.mbx m).feedDone.toNat + f.nSlots)) ∧
        ((u.mbx m).irq.getLsbD 4 = true ↔ (s.mbx m).irq.getLsbD 4 = true ∨
          (s.mbx m).feedDone.toNat + f.nSlots < (s.mbx m).feedPosted.toNat + v.toNat % 65536))) ∧
    (∀ s : State, s.power.on = true → ∃ u, exec .stkMarkLoRead s = .next u ∧
      u.readData = leBytes 4 (s.stroke.mark.toNat % 2 ^ 32) ∧ u.stroke.markHi.toNat = s.stroke.mark.toNat / 2 ^ 32) ∧
    (∀ (c : Slot) (s : State), s.power.on = true → ∃ u, exec (.stkCtxIndexLoRead c) s = .next u ∧
      u.readData = leBytes 4 ((s.slot c).stk.index.toNat % 2 ^ 32) ∧
      (u.slot c).stk.hi.toNat % 2 ^ 16 = (s.slot c).stk.index.toNat / 2 ^ 32) ∧
    (∀ (c : Slot) (s : State), s.power.on = true → ∃ u, exec (.strCtxFaultLoRead c) s = .next u ∧
      u.readData = leBytes 4 (s.slot c).fault.lo.toNat ∧ (u.slot c).fault.hiLatch = (s.slot c).fault.hi)) ∧
  (∀ (m : Mbox) (s : State) (r : Request), s.power.on = true → s.request m Op.events = some r →
      (∀ ring, eventsRing r = some ring → ∃ u, exec (.opEvents m) s = .next u ∧ Answered u m 0 [] ∧
        (u.mbx m).tail = 0 ∧ ((s.mbx m).lostOwn = 0 → (u.mbx m).ring = ring ∧ (u.mbx m).head = 0) ∧
        (s.hostErr = [] → (u.mbx m).ring = ring)) ∧
      (eventsRing r = none → ∃ u, exec (.opEvents m) s = .next u ∧ Answered u m Code.mbxFormat [] ∧
        (u.mbx m).ring = (s.mbx m).ring))

/-! ### Context slots (13_hamper_and_contexts) -/

/-- R417, R419: a slot command is refused with F_MBX_FORMAT where its slot is none of the eight or a payload byte that it does
not name is set, and with F_MBX_STATE where its slot is in a state that its row of Table 13.3 omits; the contexts stay.
R414, R425, R427: OP_UNLOAD of a context that does not run leaves the slot EMPTY, and OP_RELEASE clears the hold causes 5 to 8
and keeps 9 and 10; both act at once with no Strokes, and with Strokes wait for the next opening band, which gives them the same
effect. OP_UNLOAD of a running context makes it HELD for the band after. With Strokes every command that acts in the opening
band waits for it. -/
def Obligations.RefusalsUnloadAndRelease : Prop :=
  (∀ e ∈ slotRows, ∀ (m : Mbox) (s : State) (r : Request), s.power.on = true → s.request m e.op = some r →
      (e.op = Op.peerMap → r.payload.length = 24) →
      ((∀ c, r.slot = some c → 8 ≤ c ∨ e.reservedSet r) →
        ∃ u, exec (e.cmd m) s = .next u ∧ Answered u m 0x0802 e.refused ∧ SameContexts s u) ∧
      (∀ c, r.slot = some c → c < 8 → ¬ e.reservedSet r →
        ((s.slot c).st ∉ e.states ∨ (e.op = Op.release ∧ (s.slot c).stopped = true)) →
        ∃ u, exec (e.cmd m) s = .next u ∧ Answered u m 0x0805 e.refused ∧ SameContexts s u)) ∧
  ((∀ (m : Mbox) (s : State) (r : Request) (c : Nat), Serves s m Op.unload r c →
      (s.stroke.mode = 0 → (s.slot c).st ≠ .running → ∃ u, exec (.opUnload m) s = .next u ∧ Answered u m 0 [] ∧
        (u.slot c).st = .empty ∧ (u.slot c).img = none ∧ (u.slot c).pages = [] ∧ u.part c = TubPart.none) ∧
      (s.stroke.mode = 0 → (s.slot c).st = .running → ∃ u, exec (.opUnload m) s = .next u ∧ (u.mbx m).stage = .busy ∧
        (u.slot c).st = .held ∧ (u.slot c).stopped = true ∧ (u.slot c).unload = true) ∧
      (s.stroke.mode ≠ 0 →
        exec (.opUnload m) s = .next (s.modMbx m fun b => { b with stage := .band, req := some r }))) ∧
    (∀ (m : Mbox) (s : State) (r : Request) (c : Nat), Serves s m Op.release r c →
      (s.stroke.mode = 0 → ∃ u, exec (.opRelease m) s = .next u ∧ Answered u m 0 [] ∧ (u.slot c).st = (s.slot c).st ∧
        ∀ i, i < 6 → (u.slot c).holds.getLsbD i = (decide (4 ≤ i) && (s.slot c).holds.getLsbD i)) ∧
      (s.stroke.mode ≠ 0 →
        exec (.opRelease m) s = .next (s.modMbx m fun b => { b with stage := .band, req := some r }))) ∧
    (∀ (m : Mbox) (s : State) (r : Request) (c : Nat), WaitsForBand s m Op.unload r c →
      ((s.slot c).st ≠ .empty → (s.slot c).st ≠ .running → Answered (bandCmd m s) m 0 [] ∧
        ((bandCmd m s).slot c).st = .empty ∧ ((bandCmd m s).slot c).img = none ∧ ((bandCmd m s).slot c).pages = []) ∧
      ((s.slot c).st = .running → ((bandCmd m s).mbx m).stage = .busy ∧ ((bandCmd m s).slot c).st = .held ∧
        ((bandCmd m s).slot c).stopped = true ∧ ((bandCmd m s).slot c).unload = true)) ∧
    (∀ (m : Mbox) (s : State) (r : Request) (c : Nat), WaitsForBand s m Op.release r c → (s.slot c).st ≠ .empty →
      Answered (bandCmd m s) m 0 [] ∧ ((bandCmd m s).slot c).st = (s.slot c).st ∧
        ∀ i, i < 6 → ((bandCmd m s).slot c).holds.getLsbD i = (decide (4 ≤ i) && (s.slot c).holds.getLsbD i)) ∧
    (∀ (m : Mbox) (s : State) (r : Request) (op : Nat) (i : Instr), s.power.on = true →
      (i, op) ∈ [(Instr.opUnload m, Op.unload), (.opRelease m, Op.release), (.opSave m, Op.save),
        (.opPageMap m, Op.pageMap), (.opPageUnmap m, Op.pageUnmap), (.opWatch m, Op.watch), (.opDecide m, Op.decide),
        (.opFeed m, Op.feed)] →
      s.request m op = some r → (∀ e, effect r s ≠ .refuse e) → s.stroke.mode ≠ 0 →
      exec i s = .next (s.modMbx m fun b => { b with stage := .band, req := some r })))

/-- R238: OP_LOAD of an image that passes every check of Table 7.17 makes the context LOADED under the job and layout
epochs of the command; the first check that fails gives the answer, and the slot stays. R426: OP_START arms a LOADED context
when start_mark lies beyond the next mark; it is refused with F_CTX_START_LATE when it does not, and with F_MBX_STATE without
Strokes or when armed already. -/
def Obligations.LoadAndStart : Prop :=
  (∀ (m : Mbox) (s : State) (r : Request) (c : Nat), Serves s m Op.load r c →
      imageInPreload s (s.slot c) (r.num 8 8) = true →
      (placeCheck s c (imgRd s (s.slot c) (r.num 8 8)) (pagesFree s) = none → ∃ u, exec (.opLoad m) s = .next u ∧
        Answered u m 0 [] ∧ (u.slot c).st = .loaded ∧ (u.slot c).stopped = false ∧ (u.slot c).holds = 0 ∧
        (u.slot c).armed = false ∧ (u.slot c).img = some (readHdr (imgRd s (s.slot c) (r.num 8 8))) ∧
        (u.slot c).jobEpoch = BitVec.ofNat 32 (r.num 16 4) ∧ (u.slot c).layoutEpoch = BitVec.ofNat 32 (r.num 20 4)) ∧
      (∀ e, placeCheck s c (imgRd s (s.slot c) (r.num 8 8)) (pagesFree s) = some e → ∃ u, exec (.opLoad m) s = .next u ∧
        Answered u m e [] ∧ (u.slot c).st = (s.slot c).st ∧ u.tub = s.tub)) ∧
  (∀ (m : Mbox) (s : State) (r : Request) (c : Nat), Serves s m Op.start r c →
      (s.stroke.mode ≠ 0 → (s.slot c).armed = false → s.stroke.mark.toNat + 1 < r.num 8 6 →
        ∃ u, exec (.opStart m) s = .next u ∧ Answered u m 0 [] ∧ (u.slot c).armed = true ∧
          (u.slot c).startMark.toNat = r.num 8 6 ∧ (u.slot c).st = (s.slot c).st) ∧
      (s.stroke.mode ≠ 0 → (s.slot c).armed = false → r.num 8 6 ≤ s.stroke.mark.toNat + 1 →
        ∃ u, exec (.opStart m) s = .next u ∧ Answered u m Code.ctxStartLate [] ∧ (u.slot c).armed = false) ∧
      (s.stroke.mode = 0 ∨ (s.slot c).armed = true →
        ∃ u, exec (.opStart m) s = .next u ∧ Answered u m Code.mbxState [] ∧ (u.slot c).armed = (s.slot c).armed))

/-- R429, R432 with no Strokes: OP_SAVE holds the context with cause 10 and opens its save; the last byte written makes
it SAVED and answers the command. OP_RESTORE of a context that passes its checks takes a partition; its end makes the context
HELD without cause 10 and answers. -/
def Obligations.SaveAndRestore : Prop :=
  (∀ (m : Mbox) (s : State) (r : Request) (c : Nat), Serves s m Op.save r c → s.stroke.mode = 0 →
    (saveRefused s c (r.num 8 8) = false → ∃ u, exec (.opSave m) s = .next u ∧ (u.mbx m).stage = .busy ∧
      (u.slot c).st = .held ∧ (u.slot c).holds = (s.slot c).holds ||| holdBit 10 ∧
      (u.slot c).save = some ⟨r.num 8 8, true, false⟩ ∧
      (u.slot c).acct.preempts = sat32 (s.slot c).acct.preempts 1) ∧
    (saveRefused s c (r.num 8 8) = true → ∃ u, exec (.opSave m) s = .next u ∧ Answered u m Code.saveArea [] ∧
      (u.slot c).st = (s.slot c).st)) ∧
  (∀ (c : Slot) (s : State) (m va : Nat), s.power.on = true → s.stroke.mode = 0 →
    (s.slot c).save = some ⟨va, true, false⟩ → busyMbox s Op.save c = some m →
    ∃ u, exec (.saveWriteDone c) s = .next u ∧ Answered u m 0 [] ∧ (u.slot c).st = .saved ∧ (u.slot c).save = none ∧
      (u.slot c).saveVa = va ∧ (u.slot c).assigned = false ∧ u.part c = TubPart.none) ∧
  (∀ (m : Mbox) (s : State) (r : Request) (c : Nat), Serves s m Op.restore r c →
    (restoreCheck s c = none → ∃ u, exec (.opRestore m) s = .next u ∧ (u.mbx m).stage = .busy ∧
      (u.slot c).assigned = true ∧ (u.slot c).restore = some ⟨(s.slot c).saveVa, true, false⟩) ∧
    (∀ e, restoreCheck s c = some e → ∃ u, exec (.opRestore m) s = .next u ∧ Answered u m e [] ∧
      (u.slot c).st = (s.slot c).st)) ∧
  (∀ (c : Slot) (s : State) (va : Nat), s.power.on = true → s.stroke.mode = 0 →
    (s.slot c).restore = some ⟨va, true, false⟩ →
    ∃ u, exec (.restoreWriteDone c) s = .next u ∧ (u.slot c).st = .held ∧ (u.slot c).restore = none ∧
      (u.slot c).tileGen = s.mp.tileGen ∧ (u.slot c).holds.getLsbD 5 = false)

/-- R393, R398: OP_RESHARD with a newer layout epoch begins to drain the context; quiescence places the new image and
answers, or answers the check that fails; past its time it is refused. OP_RESUME arms the context at the resume index of the
Folds, for the start mark it names. -/
def Obligations.ReshardAndResume : Prop :=
  (∀ (m : Mbox) (s : State) (r : Request) (c : Nat), Serves s m Op.reshard r c →
    ((s.slot c).layoutEpoch.toNat < r.num 16 4 → ∃ u, exec (.opReshard m) s = .next u ∧ (u.mbx m).stage = .busy ∧
      (u.slot c).ghl.redIn = [] ∧ (u.slot c).st = (s.slot c).st) ∧
    (r.num 16 4 ≤ (s.slot c).layoutEpoch.toNat → ∃ u, exec (.opReshard m) s = .next u ∧
      Answered u m Code.epochOrder [] ∧ (u.slot c).st = (s.slot c).st)) ∧
  (∀ (c : Slot) (s : State) (m : Nat) (r : Request), s.power.on = true → reshardOf s c = some (m, r) →
    ((s.slot c).st = .held → inFlight s c = 0 → (∃ t, reshardPlace r c s = .ok t) →
      ∃ u, exec (.reshardQuiescent c) s = .next u ∧ Answered u m 0 [] ∧ (u.slot c).st = .loaded ∧
        (u.slot c).jobEpoch = (s.slot c).jobEpoch ∧ (u.slot c).layoutEpoch = BitVec.ofNat 32 (r.num 16 4)) ∧
    (∀ e, (s.slot c).st = .held → inFlight s c = 0 → reshardPlace r c s = .error e →
      ∃ u, exec (.reshardQuiescent c) s = .next u ∧ Answered u m e [] ∧ (u.slot c).st = .held) ∧
    ((s.slot c).st ≠ .held ∨ inFlight s c ≠ 0 → ∃ u, exec (.reshardTimeout c) s = .next u ∧
      Answered u m Code.reshardTimeout [] ∧ (u.slot c).st = (s.slot c).st)) ∧
  (∀ (m : Mbox) (s : State) (r : Request) (c : Nat), Serves s m Op.resume r c →
    (∀ f, resumeCheck s c (r.num 16 1) = some f → ∃ u, exec (.opResume m) s = .next u ∧ Answered u m 0 [] ∧
      (u.slot c).st = .loaded ∧ (u.slot c).stopped = false ∧ (u.slot c).armed = true ∧
      (u.slot c).startMark = BitVec.ofNat 48 (r.num 8 6) ∧ (u.slot c).stk.index = BitVec.ofNat 48 f.1 ∧ (u.slot c).layoutEpoch = f.2.1) ∧
    (resumeCheck s c (r.num 16 1) = none → ∃ u, exec (.opResume m) s = .next u ∧ Answered u m Code.resumeRefused [] ∧
      (u.slot c).st = (s.slot c).st))

/-- R255, R256, R420: OP_PAGE_MAP of a range inside a region of its kind, or of one that may become pre-load pages, makes its
pages resident; OP_PAGE_UNMAP makes the range not resident; pages outside the range stay. Both act at once with no Strokes, and
with Strokes wait for the next opening band, which gives them the same effect (R414). A range that meets a resident page, or for
which the stack has too few pages, is refused. R421: OP_COPY that passes its checks starts the copy; its end answers with the
number of bytes, cut to whole 64-byte pieces when a PCIe error ended the copy. Host memory then holds the bytes of a context's
memory without stored errors, a resident page the bytes of host memory, and a Fold staging area those of host memory. -/
def Obligations.PagesAndCopies : Prop :=
  ((∀ (m : Mbox) (s : State) (r : Request) (c : Nat) (q : PageCmd) (w pre : Bool), pageCmdOf s r = .ok q →
      (Serves s m Op.pageMap r c → PageTarget s c q w pre →
        (s.stroke.mode = 0 →
          ∃ u, exec (.opPageMap m) s = .next u ∧ Answered u m 0 [] ∧ PagesResident s u c q w pre) ∧
        (s.stroke.mode ≠ 0 →
          exec (.opPageMap m) s = .next (s.modMbx m fun b => { b with stage := .band, req := some r }))) ∧
      (WaitsForBand s m Op.pageMap r c → PageTarget s c q w pre →
        Answered (bandCmd m s) m 0 [] ∧ PagesResident s (bandCmd m s) c q w pre) ∧
      (Serves s m Op.pageMap r c → touchesPage (s.slot c) q = true → ∃ u, exec (.opPageMap m) s = .next u ∧
        Answered u m Code.mbxAddr [] ∧ SameContexts s u) ∧
      (∀ g, Serves s m Op.pageMap r c → (s.slot c).st ≠ .empty → touchesPage (s.slot c) q = false →
        pageRegion (s.slot c) q = some g → q.host = false → pagesFree s q.stack < q.pages →
        ∃ u, exec (.opPageMap m) s = .next u ∧ Answered u m Code.mbxNoPages [] ∧ SameContexts s u)) ∧
    (∀ (m : Mbox) (s : State) (r : Request) (c : Nat) (q : PageCmd), pageCmdOf s r = .ok q → PagesOwned s c q →
      (Serves s m Op.pageUnmap r c →
        (s.stroke.mode = 0 → ∃ u, exec (.opPageUnmap m) s = .next u ∧ Answered u m 0 [] ∧ PagesGone s u c q) ∧
        (s.stroke.mode ≠ 0 →
          exec (.opPageUnmap m) s = .next (s.modMbx m fun b => { b with stage := .band, req := some r }))) ∧
      (WaitsForBand s m Op.pageUnmap r c → Answered (bandCmd m s) m 0 [] ∧ PagesGone s (bandCmd m s) c q))) ∧
  ((∀ (m : Mbox) (s : State) (r : Request) (c : Nat), Serves s m Op.copy r c →
      (copyCheck r c s = none → exec (.opCopy m) s = .next (s.modMbx m fun b => { b with stage := .busy })) ∧
      (r.num 1 1 ≤ 1 → r.num 2 1 = 0 → r.num 24 8 ≠ 0 → r.num 24 8 % 64 = 0 → r.num 8 8 % 64 = 0 →
        r.num 16 8 % 64 = 0 → r.num 8 8 + r.num 24 8 ≤ vaHost →
        (s.slot c).mapped (r.num 8 8) (r.num 24 8) (r.num 1 1 == 0) = true →
        exec (.opCopy m) s = .next (s.modMbx m fun b => { b with stage := .busy })) ∧
      (r.num 1 1 ≤ 1 → r.num 2 1 = 1 → r.num 24 8 ≠ 0 → r.num 24 8 % 64 = 0 → r.num 8 8 % 64 = 0 →
        r.num 16 8 % 64 = 0 → r.num 3 1 ≤ 7 → r.num 4 1 ≤ 1 → ((s.slot c).st = .loaded ∨ (s.slot c).st = .held) →
        s.stackFitted (r.num 3 1) = true → r.num 8 8 + r.num 24 8 ≤ KV.get 0 (s.slot c).press.foldSize (r.num 3 1) →
        exec (.opCopy m) s = .next (s.modMbx m fun b => { b with stage := .busy })) ∧
      (∀ e, copyCheck r c s = some e → ∃ u, exec (.opCopy m) s = .next u ∧ Answered u m e (List.replicate 8 0))) ∧
    (∀ (m : Mbox) (s : State) (r : Request) (c : Nat), s.power.on = true → (s.mbx m).st = .accepted →
      (s.mbx m).stage = .busy → (s.mbx m).req = some r → r.opcode = Op.copy → r.slot = some c →
      (∃ u, exec (.copyComplete m none) s = .next u ∧ Answered u m 0 (leBytes 8 (r.num 24 8)) ∧
        (r.num 2 1 = 0 → r.num 1 1 = 1 → s.mem.err = [] → s.mem.marked = [] →
          KV.getList 0 u.hostMem (r.num 16 8) (r.num 24 8) = s.rdVa (s.slot c) (r.num 8 8) (r.num 24 8) ∧
          (∀ a, a < r.num 16 8 ∨ r.num 16 8 + r.num 24 8 ≤ a → KV.get 0 u.hostMem a = KV.get 0 s.hostMem a) ∧
          u.stackMem = s.stackMem ∧ u.tubMem = s.tubMem) ∧
        (∀ b pg, r.num 2 1 = 0 → r.num 1 1 = 0 → (s.slot c).page? (r.num 8 8) = some (b, pg) →
          (pg.big = true → b % pageBig = 0) → r.num 8 8 + r.num 24 8 ≤ b + (if pg.big then pageBig else pageSmall) →
          u.rdVa (u.slot c) (r.num 8 8) (r.num 24 8) = s.rdHost (r.num 16 8) (r.num 24 8) ∧ u.tubMem = s.tubMem) ∧
        (r.num 2 1 = 1 → r.num 1 1 = 0 → r.num 4 1 ≤ 1 →
          ((KV.get [] (u.slot c).press.folds (2 * r.num 3 1 + r.num 4 1)).drop (r.num 8 8)).take (r.num 24 8) =
            s.rdHost (r.num 16 8) (r.num 24 8) ∧ u.hostMem = s.hostMem ∧ u.stackMem = s.stackMem ∧ u.tubMem = s.tubMem)) ∧
      (∀ k, ∃ u, exec (.copyComplete m (some k)) s = .next u ∧
        Answered u m 0x0806 (leBytes 8 (min (r.num 24 8) (k / 64 * 64))))))

/-- R297, R333, R360, R385, R428 with no Strokes: OP_WATCH installs an accepted configuration, OP_DECIDE with bit 1 sets
the policy to bit 2, OP_FEED installs its ring or removes it, and OP_PEER_MAP with a newer epoch sets the job epoch. R422: a
PCIe error in reading the map answers F_MBX_DMA. -/
def Obligations.WatchDecideFeedPeers : Prop :=
  (∀ (m : Mbox) (s : State) (r : Request) (c : Nat) (g : WatchCfg), Serves s m Op.watch r c → s.stroke.mode = 0 →
    watchCfgOf ((r.payload.drop 16).take 32) = some g →
    inFixedRegion (s.slot c) g.reportVa (2 * g.reportHalf) = true → (seqRun s c g.seqShare).isSome = true →
    ∃ u, exec (.opWatch m) s = .next u ∧ Answered u m 0 [] ∧ (u.slot c).watch.cfg = some g ∧
      ∀ i, i < g.seqShare → (u.seqEnt ((u.slot c).watch.seqBase + i)).owned = true ∧
        (u.seqEnt ((u.slot c).watch.seqBase + i)).ctx = c) ∧
  (∀ (m : Mbox) (s : State) (r : Request) (c : Nat), Serves s m Op.decide r c → s.stroke.mode = 0 → r.num 1 1 ≤ 7 →
    ∃ u, exec (.opDecide m) s = .next u ∧ Answered u m 0 [] ∧
      (u.slot c).press.halt = (if r.num 1 1 / 2 % 2 = 1 then r.num 1 1 / 4 % 2 == 1 else (s.slot c).press.halt)) ∧
  (∀ (m : Mbox) (s : State) (r : Request) (c : Nat), Serves s m Op.feed r c → s.stroke.mode = 0 →
    (r.num 20 2 = 0 → ∃ u, exec (.opFeed m) s = .next u ∧ Answered u m 0 [] ∧ (u.slot c).feed = none ∧
      (u.slot c).holds.getLsbD 4 = false) ∧
    (1 ≤ r.num 20 2 → r.num 20 2 ≤ 256 → r.num 8 8 % 512 = 0 → r.num 16 4 % 512 = 0 → 0 < r.num 16 4 → 0 < r.num 22 2 →
      inSteadyRegion (s.slot c) (r.num 8 8) (r.num 16 4 * r.num 20 2) = true →
      ∃ u, exec (.opFeed m) s = .next u ∧ Answered u m 0 [] ∧
        (u.slot c).feed = some ⟨r.num 8 8, r.num 16 4, r.num 20 2, r.num 22 2, r.num 24 6⟩)) ∧
  (∀ (m : Mbox) (s : State) (r : Request) (c : Nat), Serves s m Op.peerMap r c → s.stroke.mode = 0 →
    r.payload.length = 24 → (s.slot c).jobEpoch.toNat < r.num 16 4 →
    (s.hostFails (r.num 8 8) 4096 = false →
      (∀ l, l < 2048 → bitsOf (leNat (s.rdHost (r.num 8 8 + 2 * l) 2)) 14 11 = 0) →
      ∃ u, exec (.opPeerMap m) s = .next u ∧ Answered u m 0 [] ∧ (u.slot c).jobEpoch.toNat = r.num 16 4) ∧
    (s.hostFails (r.num 8 8) 4096 = true → ∃ u, exec (.opPeerMap m) s = .next u ∧ Answered u m Code.mbxDma [] ∧
      (u.slot c).jobEpoch = (s.slot c).jobEpoch))

/-- R31, R418: OP_DOMAIN with a payload that passes the checks writes the domain configuration; it starts no Stroke, and
mark_number stays. R422: a PCIe error in reading the routing table answers F_MBX_DMA. R386, R457: OP_ADMIT that names the device generation and the job epochs admits the device. -/
def Obligations.DomainAndAdmission : Prop :=
  (∀ (m : Mbox) (s : State) (r : Request), s.power.on = true → s.request m Op.domain = some r →
    (domainCheck s r = none → r.num 24 8 ≠ 0 → s.hostFails (r.num 24 8) 4096 = true →
      ∃ u, exec (.opDomain m) s = .next u ∧ Answered u m Code.mbxDma [] ∧ u.stroke = s.stroke) ∧
    (domainCheck s r = none → (r.num 24 8 = 0 ∨ s.hostFails (r.num 24 8) 4096 = false) →
      ∃ u, exec (.opDomain m) s = .next u ∧ Answered u m 0 [] ∧
      u.stroke.mode = BitVec.ofNat 2 (r.num 4 1) ∧ u.stroke.period = BitVec.ofNat 25 (r.num 0 4) ∧
      u.stroke.replayLimit = BitVec.ofNat 3 (r.num 5 1) ∧ u.stroke.treeDepth = BitVec.ofNat 5 (r.num 6 1) ∧
      u.stroke.hopUnits = BitVec.ofNat 6 (r.num 7 1) ∧ u.stroke.rootId = BitVec.ofNat 11 (r.num 8 2) ∧
      u.stroke.domainSize = BitVec.ofNat 12 (r.num 10 2) ∧ u.stroke.cycle0 = none ∧ u.stroke.mark = s.stroke.mark ∧
      u.ghl.deviceId = BitVec.ofNat 11 (r.num 12 2) ∧ u.ghl.valid = true) ∧
    (∀ e, domainCheck s r = some e → ∃ u, exec (.opDomain m) s = .next u ∧ Answered u m e [] ∧ u.stroke = s.stroke)) ∧
  (∀ (m : Mbox) (s : State) (r : Request), s.power.on = true → s.request m Op.admission = some r → r.zero 4 4 = true →
    r.zero 40 8 = true → s.mp.retired = false → s.ghl.valid = true → s.stroke.mode ≠ 0 →
    BitVec.ofNat 32 (r.num 0 4) = s.mp.deviceGen →
    (∀ c, c < 8 → (s.slot c).st ≠ .empty → (s.slot c).jobEpoch = BitVec.ofNat 32 (r.num (8 + 4 * c) 4)) →
    ∃ u, exec (.opAdmit m) s = .next u ∧ Answered u m 0 [] ∧ u.ghl.admitted = true ∧
      (s.ghl.admitted = false → u.stroke.domainLost = false ∧ u.stroke.missed = 0))

/-- R404: VF_ENABLE_CHANGE sets VF Enable and NumVFs, and an EMPTY slot's ownership follows; a function level reset of a
virtual function disables its event ring and, with no Strokes, empties the slot it owns; one of the physical function does so
for every mailbox and slot. R495, R496: so does a reset of the PCIe link, which clears VF Enable; deassertion of PERST# starts
its 100 ms; a configuration request is answered with Request Retry Status (2) until 400 ms after PWR_EN and 100 ms after PERST#,
and completes (0) with the value of its field from then on. -/
def Obligations.FunctionAndLinkResets : Prop :=
  ((∀ (en : Bool) (n : Fin 8) (s : State), s.power.on = true → ∃ u, exec (.vfEnableChange en n) s = .next u ∧
      u.hamper.vfEnabled = en ∧ u.hamper.numVfs = n ∧
      ∀ c : Nat, c < 8 → ((s.slot c).st = .empty →
          ((u.slot c).owner.val = if en = true ∧ 1 ≤ c ∧ c ≤ n.val then c else 0)) ∧
        ((s.slot c).st ≠ .empty → u.slot c = s.slot c)) ∧
    (∀ (v : Fin 8) (s : State), s.power.on = true → s.hamper.vfEnabled = true → v ≠ 0 → v ≤ s.hamper.numVfs →
      ∃ u, exec (.flrVf v) s = .next u ∧ (u.mbx (1 + v.val)).ring = none ∧
        ((s.slot v).owner = v → s.stroke.mode = 0 → (u.slot v).st = .empty) ∧
        ((s.slot v).owner = v → s.stroke.mode ≠ 0 → (s.slot v).st ≠ .empty → (u.slot v).unload = true)) ∧
    (∀ s : State, s.power.on = true → ∃ u, exec .flrPf s = .next u ∧ (∀ m, m < 9 → (u.mbx m).ring = none) ∧
      (s.stroke.mode = 0 → ∀ c, c < 8 → (u.slot c).st = .empty))) ∧
  ((∀ (hot : Bool) (s : State), ∃ u, exec (.perstReset hot) s = .next u ∧ u.hamper.vfEnabled = false ∧
      u.hamper.numVfs = 0 ∧ (∀ m, m < 9 → (u.mbx m).ring = none) ∧ u.power.perst = (s.power.perst || !hot) ∧
      (s.stroke.mode = 0 → ∀ c, c < 8 → (u.slot c).st = .empty)) ∧
    (∀ s : State, exec .perstDeassertion s =
      .next { s with power := { s.power with perst := false, perstAt := s.now } }) ∧
    (∀ s : State, s.power.on = true →
      (s.power.enAt + 1200000000 ≤ s.now ∧ s.power.perst = false ∧ s.power.perstAt + 300000000 ≤ s.now →
        exec .pcieConfigRequest s = .next { s with readData :=
          0 :: (leBytes 4 100 ++ leBytes 4 7 ++ leBytes 4 512 ++ leBytes 4 4096 ++ leBytes 4 s.power.pcieWidth) }) ∧
      (s.now < s.power.enAt + 1200000000 ∨ s.power.perst = true ∨ s.now < s.power.perstAt + 300000000 →
        exec .pcieConfigRequest s = .next { s with readData := [2] })))

/-! ### Registers (R4, R5) -/

/-- R4, R5, R406, R407: a write to a word of the request area stores its four bytes and leaves every other byte; MBX_IRQ is
cleared by ones; MBX_IRQ_EN takes the value; bit 0 of MBX_SEAL seals an IDLE mailbox; a write to a register that only reads
changes nothing; and where the spec places no register the write stops with `noRegister` (the model's choice). -/
def Obligations.RegisterWrites : Prop :=
  ∀ (fn : Fin 8) (bar : Bar) (off : Nat) (v : W32) (s : State), s.power.on = true →
    (∀ m o, targetOf s fn bar off = .page m o → o < 0x800 → ∃ u, exec (.registerWrite fn bar off v) s = .next u ∧
      KV.getList 0 (u.mbx m).page o 4 = leBytes 4 v.toNat ∧
      (∀ a, a < o ∨ o + 4 ≤ a → KV.get 0 (u.mbx m).page a = KV.get 0 (s.mbx m).page a) ∧
      (u.mbx m).st = (s.mbx m).st ∧ (∀ n, n ≠ m → u.mbx n = s.mbx n) ∧ u.tubMem = s.tubMem ∧ u.stackMem = s.stackMem ∧
      u.hostMem = s.hostMem) ∧
    (∀ m, targetOf s fn bar off = .page m 0xFC8 → ∃ u, exec (.registerWrite fn bar off v) s = .next u ∧
      ∀ i, i < 5 → (u.mbx m).irq.getLsbD i = ((s.mbx m).irq.getLsbD i && !v.getLsbD i)) ∧
    (∀ m, targetOf s fn bar off = .page m 0xFCC → ∃ u, exec (.registerWrite fn bar off v) s = .next u ∧
      (u.mbx m).irqEn = v.setWidth 2) ∧
    (∀ m, targetOf s fn bar off = .page m 0xFC0 → v.getLsbD 0 = true → (s.mbx m).st = .idle →
      ∃ u, exec (.registerWrite fn bar off v) s = .next u ∧ (u.mbx m).st = .sealed ∧ (u.mbx m).fn = fn) ∧
    (targetOf s fn bar off = .readOnly → exec (.registerWrite fn bar off v) s = .next s) ∧
    (targetOf s fn bar off = .nothing → exec (.registerWrite fn bar off v) s = .fault .noRegister)

/-! ### Power and start-up (16_module_power_startup) -/

/-- R480, R494, R438, R203: a cold start boots the chosen slot, advances the device generation, poisons every Tub word and
leaves the Hamper not ready; with no slot to boot the CP stays down (the model's choice, log entry 62). HAMPER_READY then sets
ready and marks the running slot good.
R497, R498: OP_POWER to DOZE with every slot EMPTY or SAVED, and back to RUN; another target, or a reserved byte set, is
F_MBX_FORMAT, and a loaded slot at entry F_MBX_STATE; the wake advances the device generation. -/
def Obligations.StartUpAndDoze : Prop :=
  ((∀ (cool : Option (List Byte)) (dies : W16) (flash : BitVec 6) (stuck : Option Die) (s : State), s.power.on = false →
      (∀ n fell, bootChoice s.mp = some (n, fell) → ∃ u, exec (.coldStart cool dies flash stuck) s = .next u ∧
        u.power.on = true ∧ u.power.enAt = s.now ∧ u.mp.running = n ∧ u.mp.fallback = fell ∧
        u.mp.deviceGen = s.mp.deviceGen + 1 ∧ u.hamper.ready = false ∧
        u.hamper.assemblyFault = !(assemblyOk s.fuses dies) ∧ u.power.rails.reverse = .stby :: runRails ∧ u.tub.poisonBlocks = List.range 16 ∧ u.tub.poisonExc = [] ∧
        u.stackMem = [] ∧ u.hostMem = s.hostMem ∧ ∀ c, u.slot c = Ctx.empty) ∧
      (bootChoice s.mp = none → ∃ u, exec (.coldStart cool dies flash stuck) s = .next u ∧ u.power.on = true ∧
        u.mp.cpDead = true ∧ u.hamper.ready = false)) ∧
    (∀ (hem : BitVec 4) (s : State), s.power.on = true → s.hamper.ready = false → s.hamper.assemblyFault = false →
      s.mp.cpHeld = false → ∃ u, exec (.hamperReady hem) s = .next u ∧ u.hamper.ready = true ∧ u.mp.beat = s.now ∧
        ∀ c, c < 8 → u.part c = TubPart.none)) ∧
  (∀ (m : Mbox) (s : State) (r : Request), s.power.on = true → s.request m Op.power = some r →
      (r.zero 1 7 = false ∨ (r.num 0 1 ≠ 0 ∧ r.num 0 1 ≠ 2) →
        ∃ u, exec (.powerDoze m) s = .next u ∧ Answered u m Code.mbxFormat [] ∧ u.power = s.power) ∧
      (r.zero 1 7 = true → r.num 0 1 = 2 → (∀ c, c < 8 → (s.slot c).st = .empty ∨ (s.slot c).st = .saved) →
        s.power.doze = false → ∃ u, exec (.powerDoze m) s = .next u ∧ Answered u m 0 [] ∧ u.power.doze = true ∧
          u.power.selfRefresh = true ∧ u.power.pcieWidth = 1 ∧ u.vunits = [] ∧ u.tubMem = [] ∧ u.stackMem = s.stackMem) ∧
      (r.zero 1 7 = true → r.num 0 1 = 2 → (∃ c, c < 8 ∧ (s.slot c).st ≠ .empty ∧ (s.slot c).st ≠ .saved) →
        ∃ u, exec (.powerDoze m) s = .next u ∧ Answered u m Code.mbxState [] ∧ u.power = s.power) ∧
      (∀ hem stuck, r.zero 1 7 = true → r.num 0 1 = 0 → s.power.doze = true →
        ∃ u, exec (.powerWake m hem stuck) s = .next u ∧ Answered u m 0 [] ∧ u.power.doze = false ∧
          u.power.selfRefresh = false ∧ u.power.pcieWidth = 8 ∧ u.mp.deviceGen = s.mp.deviceGen + 1 ∧ u.tubMem = []) ∧
      (∀ hem stuck, r.zero 1 7 = true → r.num 0 1 = 0 → s.power.doze = false →
        ∃ u, exec (.powerWake m hem stuck) s = .next u ∧ Answered u m Code.mbxState [] ∧ u.power = s.power))

/-- R492, R493, R496, R504: POWER_DOWN and each fault of the input, of a rail and of the hardware trip move the module to
OFF with its last_off code; what is not in flash is lost, and the fault stands in the flash ring. R464: a sample of a fitted
sensor is stored with its calibration offset, and the sets of sensors above their warning and critical thresholds follow it; a
sample of an unfitted die's sensor changes nothing; the input-low warning is shown. -/
def Obligations.PowerOffAndSensors : Prop :=
  ((∀ s : State, s.power.on = true → ∃ u, exec .powerDown s = .next u ∧ u.power.on = false ∧ u.power.lastOff = 0 ∧
      (s.power.rails.length ≤ 10 → u.power.rails = []) ∧
      u.slots = [] ∧ u.tubMem = [] ∧ u.stackMem = [] ∧ u.hostMem = s.hostMem ∧ u.mp.flashLog = s.mp.flashLog ∧
      u.mp.changes = s.mp.changes ∧ u.mp.deviceGen = s.mp.deviceGen ∧ u.mp.faulty = s.mp.faulty ∧
      u.mem.remap = s.mem.remap) ∧
    (∀ e ∈ [(Instr.inputUndervoltage, 0x0A0B, 3), (.inputOvervoltage, 0x0A09, 3), (.inputOvercurrent, 0x0A0C, 5),
        (.thermtrip, 0x0A07, 1)], ∀ s : State, s.power.on = true →
      ∃ u, exec e.1 s = .next u ∧ u.power.on = false ∧ u.power.lastOff.toNat = e.2.2 ∧ u.slots = [] ∧
        ∃ r, u.mp.flashLog.head? = some r ∧ r.code = e.2.1) ∧
    (∀ (rail : Nat) (s : State), s.power.on = true → ∃ u, exec (.railFault rail) s = .next u ∧ u.power.on = false ∧
      u.power.lastOff = 4 ∧ ∃ r, u.mp.flashLog.head? = some r ∧ r.code = 0x0A0A ∧ r.arg = BitVec.ofNat 32 rail) ∧
    (∀ (id : Nat) (s : State), s.power.on = true →
      (NSet.mem s.power.hot id = true → ∃ u, exec (.thermCritTimeout id) s = .next u ∧ u.power.on = false ∧
        u.power.lastOff = 2) ∧
      (NSet.mem s.power.hot id = false → exec (.thermCritTimeout id) s = .next s))) ∧
  ((∀ (id : Nat) (raw v : Int) (s : State), s.power.on = true →
      v = raw + (if s.mp.calNow.origin = 2 then 0 else Config.calOffset s.mp.calNow.record id) →
      (1 ≤ id → id ≤ 22 → sensorFitted s id = true → ∃ u, exec (.sensorSample id raw) s = .next u ∧
        KV.get 0 u.mp.sensors id = v ∧
        (id ≤ 16 → KV.get 0 u.mp.volts (id - 1) = (if s.mp.calNow.origin = 2 then (voltLimits (id - 1)).2
          else Config.calVolt s.mp.calNow.record (id - 1) (Config.calPoint v))) ∧
        (id = 17 → u.power.inputLow = (decide (4600 ≤ v) && decide (v < 4800))) ∧
        (id = 20 → u.power.energy = BitVec.ofInt 32 v) ∧
        (id ≠ 17 → id ≠ 19 → id ≠ 20 → ∀ w k, thresholds s id = some (w, some k) →
          (NSet.mem u.power.warm id = true ↔ (w : Int) ≤ v) ∧ (NSet.mem u.power.hot id = true ↔ (k : Int) ≤ v))) ∧
      (sensorFitted s id = false → exec (.sensorSample id raw) s = .next s)) ∧
    (∀ s : State, s.power.on = true → ∃ u, exec .inputLowWarning s = .next u ∧ u.power.inputLow = true ∧
      u.power.on = true))

/-- A module that is OFF takes no command but a cold start, the reset of the PCIe link and the deassertion of PERST#: every
other leaves the state (Table 16.7; the model's choice, log entry 4). -/
def Obligations.OffChangesNothing : Prop :=
  ∀ (i : Instr) (s : State), s.power.on = false → (∀ a b c d, i ≠ .coldStart a b c d) → (∀ h, i ≠ .perstReset h) →
    i ≠ .perstDeassertion → exec i s = .next s

/-- R438, R445, R478, R494 and the Reset columns: after reset the module is OFF with PERST# asserted, every slot EMPTY, every
mailbox IDLE, replay_limit 3, the period 600,000 cycles, no repair in force, both generations zero, and firmware slot A
good and active. The fuses are those of an SLN512-M8X4, and memory reads as zero (the model's choices, log entries 5 and 8).
The invariant of EveryStepKeepsStores holds there. -/
def Obligations.ResetState : Prop :=
  (State.reset.power.on = false ∧ State.reset.power.perst = true ∧ State.reset.pending = [] ∧
      (∀ c, (State.reset.slot c).st = .empty) ∧ (∀ m, (State.reset.mbx m).st = .idle) ∧
      State.reset.stroke.replayLimit = 3 ∧ State.reset.stroke.period = 600000 ∧ State.reset.stroke.mode = 0 ∧
      State.reset.stroke.domainSize = 1 ∧ State.reset.hamper.ready = false ∧ (∀ d, KV.get 16 State.reset.bypass d = 16) ∧
      State.reset.mp.deviceGen = 0 ∧ State.reset.mp.tileGen = 0 ∧ State.reset.mp.active = 0 ∧
      (State.reset.mp.fw 0).good = true ∧ State.reset.mp.health = 0 ∧
      partOf State.reset.fuses.partCode.toNat = some (0xFF, 0xF) ∧
      (∀ p a, State.reset.rdByte p = 0 ∧ KV.get 0 State.reset.tubMem a = 0)) ∧
  (StoreInv State.reset)

/-! ### Self-tests and Darn (14_faults_and_darn) -/

/-- R440 to R444: OP_SELFTEST puts its test at the end of the queue, but not beside a queued test of its unit nor into a full
queue; a step of the first test is counted, or abandoned
when it is cut short; a result ends the test and the lasting ones are counted. R445 to R449: OP_DARN READ answers 72 bytes; MARK
adds the tile-row to the faulty ones, which makes it pending on a die whose spare is free and that has no other faulty row, and retires the device elsewhere;
APPLY with every slot EMPTY puts the pending rows into the bypass and leaves none pending; CLEAR_LANE unmarks a lane. -/
def Obligations.SelfTestsAndDarn : Prop :=
  ((∀ (m : Mbox) (s : State) (r : Request), s.power.on = true → s.request m Op.selftest = some r → r.num 0 1 ≤ 5 →
      r.zero 1 3 = true → unitOk s (r.num 0 1) (BitVec.ofNat 32 (r.num 4 4)) = true →
      (r.num 0 1 = 5 → mayRecalibrate s (unitA (BitVec.ofNat 32 (r.num 4 4))) = true) →
      ∃ u, exec (.opSelftest m) s = .next u ∧ Answered u m 0 [] ∧
        u.mp.tstQ = (if (∃ t ∈ s.mp.tstQ, testUnit t.test t.unit = testUnit (r.num 0 1) (BitVec.ofNat 32 (r.num 4 4))) ∨
            32 + s.mp.tstBusy.toNat ≤ s.mp.tstQ.length then s.mp.tstQ
          else s.mp.tstQ ++ [⟨r.num 0 1, BitVec.ofNat 32 (r.num 4 4)⟩])) ∧
    (∀ (s : State) (t : Tst) (q : List Tst), s.power.on = true → s.mp.tstQ = t :: q → s.mp.tstSteps < tstLen s t →
      (t.test ≤ 1 → freeSpan s = true) → (t.test ≤ 3 → s.power.doze = false) →
      (t.test = 5 → mayRecalibrate s (unitA t.unit) = true) →
      (∃ u, exec (.tstStep false) s = .next u ∧ u.mp.tstSteps = s.mp.tstSteps + 1 ∧ u.mp.tstBusy = true) ∧
      (t.test ≤ 1 → ∃ u, exec (.tstStep true) s = .next u ∧ u.mp.tstSteps = s.mp.tstSteps ∧
        u.mp.tstAbandoned = sat32 s.mp.tstAbandoned 1)) ∧
    (∀ (s : State) (t : Tst) (q : List Tst) (found : TstFound) (row : Fin 17), s.power.on = true →
      s.mp.tstQ = t :: q → tstLen s t ≤ s.mp.tstSteps → ∃ u, exec (.tstResult found row) s = .next u ∧
        u.mp.tstBusy = false ∧ u.mp.tstSteps = 0 ∧ u.mp.tstQ = q ∧ u.mp.tstRuns = sat32 s.mp.tstRuns 1 ∧
        (t.test = 2 → u.mp.tstLasting = sat32 s.mp.tstLasting (found.lasting.toNat + found.march.toNat)) ∧
        (t.test ≠ 2 → (t.test = 0 → KV.get 16 s.bypass (unitA t.unit) ≠ row.val) →
          u.mp.tstLasting = sat32 s.mp.tstLasting found.lasting.toNat) ∧
        (t.test = 0 → KV.get 16 s.bypass (unitA t.unit) = row.val → u.mp.tstLasting = s.mp.tstLasting))) ∧
  ((∀ (m : Mbox) (s : State) (r : Request), s.power.on = true → s.darn m 0 = some r →
      (darnBytes s).length = 72 ∧ ∃ u, exec (.darnRead m) s = .next u ∧ Answered u m 0 (darnBytes s)) ∧
    (∀ (m : Mbox) (s : State) (r : Request), s.power.on = true → s.darn m 2 = some r →
      ∃ u, exec (.darnMark m) s = .next u ∧ Answered u m 0 [] ∧
        KV.get 0 u.mp.faulty (r.num 1 1) = KV.get 0 s.mp.faulty (r.num 1 1) ||| 2 ^ r.num 2 1 ∧
        (KV.get 16 s.bypass (r.num 1 1) = 16 →
          KV.get 0 s.mp.faulty (r.num 1 1) = 0 ∨ KV.get 0 s.mp.faulty (r.num 1 1) = 2 ^ r.num 2 1 →
          KV.find? u.mp.pendingRow (r.num 1 1) = some (r.num 2 1)) ∧
        (KV.get 16 s.bypass (r.num 1 1) ≠ 16 ∨
          (KV.get 0 s.mp.faulty (r.num 1 1) ≠ 0 ∧ KV.get 0 s.mp.faulty (r.num 1 1) ≠ 2 ^ r.num 2 1) →
          u.mp.retired = true)) ∧
    (∀ (m : Mbox) (s : State) (r : Request), s.power.on = true → s.darn m 1 = some r → s.mp.pendingRow ≠ [] →
      (∀ c, c < 8 → (s.slot c).st = .empty) → ∃ u, exec (.darnApply m none) s = .next u ∧ Answered u m 0 [] ∧
        u.mp.pendingRow = [] ∧ u.mp.darnApplies = sat32 s.mp.darnApplies 1 ∧
        ∀ d, (KV.find? s.mp.pendingRow d = none → KV.get 16 u.bypass d = KV.get 16 s.bypass d) ∧
          ((KV.find? s.mp.pendingRow d).isSome = true → (d, KV.get 16 u.bypass d) ∈ s.mp.pendingRow)) ∧
    (∀ (m : Mbox) (s : State) (r : Request), s.power.on = true → s.darn m 3 = some r →
      ∃ u, exec (.darnClearLane m) s = .next u ∧ Answered u m 0 [] ∧
        (KV.get 0 u.mp.marked (2 * r.num 1 1 + r.num 3 1)).getLsbD (r.num 2 1) = false) ∧
    (∀ (b : Nat) (s : State), s.power.on = true → ∃ u, exec (.bridgeResend b) s = .next u ∧
      u.mp.events = (evKey 19 b, s.now) :: s.mp.events ∧ NSet.mem u.mp.resendLogged b = true))

/-! ### Tubs (06_tubs_and_lines) -/

/-- R196: a wait of more than slack cycles counts an overrun where a writer of R88 waited and an underrun elsewhere, and ends
the waiting task with that fault (`slackAbort`). R204, R205: Rinse reads the rows of a bank in turn while the banks are clocked (log entry 98), leaves the
data as it is, and counts the row; a queued row is written back with its correctable errors gone. -/
def Obligations.SlackAndRinse : Prop :=
  (∀ (t : Tile) (l : LineNo) (s : State) (g : LineCfg) (c : Nat) (w : Party → Bool), s.power.on = true →
    (s.line (16 * s.physTile t + l)).cfg = some g → lineOwner s l = some c →
    w = waitsToWrite s c t (l - (s.part c).lineBase.toNat) g (s.line (16 * s.physTile t + l)) →
    ∀ e ∈ [(Party.drain, 0), (.returnPath, 1), (.feeder, 2), (.vector, 3), (.seam, 4)],
      (g.slack < KV.get 0 (s.line (16 * s.physTile t + l)).wait e.2 → ∃ v, v.mgl = s.mgl ∧ v.slots = s.slots ∧
        v.tub.overruns = (if w e.1 = true then sat32 s.tub.overruns 1 else s.tub.overruns) ∧
        v.tub.underruns = (if w e.1 = true then s.tub.underruns else sat32 s.tub.underruns 1) ∧
        exec (.lineSlackExceeded t l e.1) s = .next (s.effectOf (slackAbort c t (l - (s.part c).lineBase.toNat) e.1
          (if w e.1 = true then Code.lineOverrun else Code.lineUnderrun) v))) ∧
      (KV.get 0 (s.line (16 * s.physTile t + l)).wait e.2 ≤ g.slack → exec (.lineSlackExceeded t l e.1) s = .next s)) ∧
  (∀ (pt : Fin 544) (bank : Fin 16) (row : Fin 256) (w : Fin 8) (o : EccOutcome) (s : State), s.power.on = true →
    s.tubsClocked = true → KV.get 0 s.tub.rinsePos (16 * pt.val + bank.val) = row.val →
    ∃ u, exec (.rinseRead pt bank row w o) s = .next u ∧
      KV.get 0 u.tub.rinsePos (16 * pt.val + bank.val) = (row.val + 1) % 256 ∧
      u.tub.rinseRows = s.tub.rinseRows + 1 ∧ u.tubMem = s.tubMem ∧ u.stackMem = s.stackMem ∧
      u.tub.poisonBlocks = s.tub.poisonBlocks ∧ u.tub.lines = s.tub.lines) ∧
  (∀ (pt : Fin 544) (s : State) (i : RinseItem), s.power.on = true →
    s.tub.rinseQ.find? (fun i => i.tile == pt.val) = some i →
    ∃ u, exec (.rinseWriteback pt) s = .next u ∧ u.tub.rinseQ = s.tub.rinseQ.erase i ∧ u.tubMem = s.tubMem ∧
      ∀ w, w < 8 → KV.get 0 u.tub.errs (8 * rowKey i.tile i.bank i.row + w) =
        if KV.get 0 s.tub.errs (8 * rowKey i.tile i.bank i.row + w) = 1 then 0
        else KV.get 0 s.tub.errs (8 * rowKey i.tile i.bank i.row + w))

/-! ### Strokes (02_stroke) -/

/-- R33, R48, R361, R362: a root issues the mark after the current one with the verdicts it has formed; a device takes a good
new mark of its upstream port with its aligned arrival, counts a bad check and takes nothing; the mark enters the mark lines,
and goes out, both copies, on every port that carries marks. -/
def Obligations.MarksTravel : Prop :=
  (∀ s : State, s.power.on = true → s.stroke.mode = 1 → s.stroke.entered = none →
    s.stroke.cycle0 = none ∨ s.stroke.sent = true ∨ s.hamper.cpUp = false ∨ s.stroke.unheard = true →
    ∃ u k, exec .markIssue s = .next u ∧
      u = s.modStroke (fun x => { x with entered := some k, fwd := some (k, s.now) }) ∧
      k.number = s.stroke.mark + 1 ∧ k.period = s.stroke.period ∧ k.root = s.stroke.rootId ∧
      k.verdict = packCodes (nextVerdicts s) ∧ (k.double = true ↔ ∃ v ∈ nextVerdicts s, v = 2 ∨ v = 4)) ∧
  (∀ (p : Port) (b : List Byte) (n : Nat) (s : State), s.power.on = true → s.portUp p = true →
    (crcOk b = true → s.stroke.mode = 2 → s.ghl.upValid = true → s.ghl.upPort.toNat = p.val →
      s.stroke.domainLost = false → (s.port p).lastMark ≠ some (Mark.of (pnum b 4 16)).number →
      ∃ u, exec (.markPacketReceive p b n) s = .next u ∧
        u.stroke.rx = some ⟨Mark.of (pnum b 4 16), p.val, n + rxPad s p - pnum b 2 1⟩ ∧
        (u.port p).lastMark = some (Mark.of (pnum b 4 16)).number ∧ (u.port p).misses = 0) ∧
    (crcOk b = false → ∃ u, exec (.markPacketReceive p b n) s = .next u ∧ u.stroke = s.stroke ∧
      (u.port p).markCheck = sat32 (s.port p).markCheck 1)) ∧
  (∀ (s : State) (r : MarkIn), s.power.on = true → s.stroke.rx = some r → s.stroke.entered = none →
    exec .markEntry s = .next (s.modStroke fun k =>
      { k with rx := none, entered := some r.mark, fwd := some (r.mark, r.at_) })) ∧
  (∀ (s : State) (m : Mark) (a : Nat), s.power.on = true → s.stroke.fwd = some (m, a) →
    ∃ u, exec .markForward s = .next u ∧ u.stroke.fwd = none ∧
      ∀ p, p < 16 → (u.port p).prio = if s.portUp p = true then (s.port p).prio ++ [.mark m a false] else (s.port p).prio)

/-- R47, R48, R365, R366: the closing band reports every slot's tally code (R261: a HOLD that a page fault caused sets
hold cause 6 and records the fault); a tally of a downstream port joins the device's
own, none while the CP is held in reset or before the closing band after it (R463); at the deadline a follower sends what it holds upstream; a root ends its collection and raises the codes 1 to 4 to 4 when
members are missing. R55, R367, R368: each expected mark that does not come is counted; the third in a row loses the domain,
holds every RUNNING context with cause 7 and ends admission; a neighbour that misses three marks is lost. -/
def Obligations.TalliesAndMisses : Prop :=
  ((∀ s : State, s.power.on = true → s.stroke.mayClose = true → s.mp.cpHeld = false →
      ∃ u, exec .closingBand s = .next u ∧ u.stroke.closing = true ∧ u.stroke.mark = s.stroke.mark ∧
        ∀ c, c < 8 → (u.slot c).stk.lastTally = BitVec.ofNat 3 (u.slot c).tally ∧ (u.slot c).att.sentCode = (u.slot c).tally ∧
          ((s.slot c).st = .running → (s.slot c).att.cause = 5 →
            (u.slot c).holds = (s.slot c).holds ||| holdBit 6 ∧
            ∀ f, (s.slot c).att.pageFault = some f → (u.slot c).fault = { f with hiLatch := (s.slot c).fault.hiLatch })) ∧
    (∀ (p : Port) (b : List Byte) (s : State), s.power.on = true → s.portUp p = true → crcOk b = true →
      (s.port p).lastTally ≠ some (BitVec.ofNat 48 (pnum b 4 6)) → s.stroke.mode ≠ 0 → s.ghl.downMask.getLsbD p = true →
      (s.mp.cpHeld = true ∨ s.stroke.unheard = true →
        ∃ u, exec (.tallyPacketReceive p b) s = .next u ∧ u.stroke = s.stroke) ∧
      (s.mp.cpHeld = false → s.stroke.unheard = false → BitVec.ofNat 48 (pnum b 4 6) = s.stroke.mark → s.stroke.sent = false → s.stroke.cycle0 ≠ none →
        ∃ u, exec (.tallyPacketReceive p b) s = .next u ∧ NSet.mem u.stroke.heard p = true ∧
          u.stroke.codes = joinCodes s.stroke.codes (unpackCodes (BitVec.ofNat 24 (pnum b 10 3))) ∧
          u.stroke.count = s.stroke.count + pnum b 13 2 % 4096) ∧
      (s.mp.cpHeld = false → s.stroke.unheard = false → BitVec.ofNat 48 (pnum b 4 6) ≠ s.stroke.mark ∨ s.stroke.sent = true →
        ∃ u, exec (.tallyPacketReceive p b) s = .next u ∧ u.stroke.codes = s.stroke.codes ∧
          u.stroke.count = s.stroke.count ∧ u.stroke.staleTallies = sat32 s.stroke.staleTallies 1)) ∧
    (∀ s : State, s.power.on = true → s.stroke.mode = 2 → s.stroke.closing = true → s.stroke.sent = false →
      s.mp.cpHeld = false → ∃ u, exec .tallyDeadline s = .next u ∧ u.stroke.sent = true ∧
        (s.ghl.upValid = true → s.portUp s.ghl.upPort.toNat = true → (u.port s.ghl.upPort.toNat).prio =
          (s.port s.ghl.upPort.toNat).prio ++ [.tally s.stroke.mark (packCodes s.stroke.codes) s.stroke.count false])) ∧
    (∀ s : State, s.power.on = true → s.stroke.mode = 1 → s.stroke.closing = true → s.stroke.formed = true →
      s.stroke.sent = false → s.mp.cpHeld = false → ∃ u, exec .rootTallyCutoff s = .next u ∧ u.stroke.sent = true ∧
        u.stroke.nextVerdict = (if s.stroke.count < s.stroke.domainSize.toNat then
          s.stroke.codes.map (fun c => if 1 ≤ c ∧ c ≤ 4 then 4 else c) else s.stroke.codes) ∧
        u.stroke.shortTallies = (if s.stroke.count < s.stroke.domainSize.toNat then sat32 s.stroke.shortTallies 1
          else s.stroke.shortTallies))) ∧
  ((∀ s : State, s.power.on = true → s.stroke.mode = 2 → s.stroke.cycle0.isSome = true → s.stroke.rx = none →
      s.stroke.entered = none → s.stroke.domainLost = false →
      (s.ghl.upValid = true → (s.port s.ghl.upPort.toNat).changing = false) →
      (s.stroke.missed.toNat < 2 → ∃ u, exec .markMiss s = .next u ∧
        u.stroke.missed.toNat = s.stroke.missed.toNat + 1 ∧ u.stroke.missedMarks = sat32 s.stroke.missedMarks 1 ∧
        u.stroke.domainLost = false ∧ ∀ c, u.slot c = s.slot c) ∧
      (2 ≤ s.stroke.missed.toNat → ∃ u, exec .markMiss s = .next u ∧ u.stroke.domainLost = true ∧
        u.ghl.admitted = false ∧ ∀ c, c < 8 → (s.slot c).st = .running →
          (u.slot c).st = .held ∧ (u.slot c).holds = (s.slot c).holds ||| holdBit 7)) ∧
    (∀ (p : Port) (s : State), s.power.on = true → s.portUp p = true → (s.port p).lastMark ≠ none →
      (s.port p).changing = false → ∃ u, exec (.neighbourMarkMiss p) s = .next u ∧
        (u.port p).misses = (s.port p).misses + 1 ∧ (u.port p).markMisses = sat32 (s.port p).markMisses 1 ∧
        ((s.port p).misses < 2 → u.stroke = s.stroke ∧ (u.port p).lost = (s.port p).lost) ∧
        (2 ≤ (s.port p).misses → (u.port p).lost = true)))

/-- R33, R50, R414: a Stroke starts with the mark in the mark lines: cycle 0 is now, the mark is consumed, the verdicts are
applied slot by slot, and then everything else of the opening band runs (`slotSteps`). R39, R40: a range of a running
context begins once in a Stroke and is in force until its end. R222 to R224: FETCH_NEXT reads the next index into the next
half; an uncorrectable error makes it invalid and is logged. -/
def Obligations.StrokesAndRanges : Prop :=
  (∀ (s : State) (m : Mark), s.power.on = true → s.stroke.mode ≠ 0 → s.stroke.entered = some m → s.mp.cpHeld = false →
    s.stroke.cycle0 = none ∨ s.stroke.closing = true → s.stroke.foreign m = false →
    ∃ v, v.stroke.mark = m.number ∧ v.stroke.double = m.double ∧ v.stroke.cycle0 = some s.now ∧
      v.stroke.entered = none ∧ v.stroke.closing = false ∧ v.stroke.sent = false ∧ v.mp.beat = s.now ∧
      (∀ c, (v.slot c).stk = (s.slot c).stk) ∧
      exec .strokeStart s = .next (s.effectOf (slotSteps false (forEach slots8 (verdictStep m) v)))) ∧
  (∀ (c : Slot) (k : EngClass) (r : Fin 8) (s : State), s.power.on = true →
    (s.stroke.cycle0.isSome = true → s.stroke.closing = false → rangeFor (s.slot c) k.code = true →
      (rangesOf (s.slot c).panels k.code)[r.val]?.isSome = true →
      NSet.mem (s.slot c).att.begun (8 * k.code + r.val) = false → rangeBusy s k.code = false →
      ∃ u, exec (.rangeStart c k r) s = .next u ∧
        KV.find? (u.slot c).att.ranges (8 * k.code + r.val) = some s.now ∧
        NSet.mem (u.slot c).att.begun (8 * k.code + r.val) = true) ∧
    (∃ u, exec (.rangeEnd c k r) s = .next u ∧ KV.find? (u.slot c).att.ranges (8 * k.code + r.val) = none)) ∧
  (∀ (c : Slot) (s : State), s.power.on = true → (s.slot c).st = .running → (s.slot c).att.on = true →
    (s.slot c).next.index ≠ some ((s.slot c).stk.index.toNat + 1) →
    (∃ u, exec (.fetchNext c false) s = .next u ∧
      (u.slot c).next = fetchHalf s (s.slot c) ((s.slot c).stk.index.toNat + 1) ∧ (u.slot c).cur = (s.slot c).cur ∧
      (u.slot c).stk = (s.slot c).stk ∧ u.stackMem = s.stackMem ∧ u.tubMem = s.tubMem) ∧
    ∃ u r, exec (.fetchNext c true) s = .next u ∧ (u.slot c).next.bad = true ∧ u.mp.log.head? = some r ∧
      r.code = Code.imgFetch)

/-- Table 2.5, R50 to R52: on a RUNNING slot COMMIT after an OK tally that was sent makes the next index current (R51), and stops the slot after any
other; REPLAY and REPLAY_LONG
rerun the index up to the limit and hold the slot with cause 5 past it, HOLD holds it, STOP stops it; WAIT starts a HELD slot
that has no cause; a reserved code counts and acts as STOP; an EMPTY slot takes no verdict. -/
def Obligations.VerdictEffects : Prop :=
  ∀ (c : Nat) (s : State), c < 8 →
    ((s.slot c).st = .running → (s.slot c).att.sentCode = 1 → s.stroke.tallyOut = true →
      ((applyVerdict c 1 s).slot c).stk.index = (s.slot c).stk.index + 1 ∧
      ((applyVerdict c 1 s).slot c).cur = (s.slot c).next ∧ ((applyVerdict c 1 s).slot c).att.reruns = 0 ∧
      ((applyVerdict c 1 s).slot c).acct.commits = sat32 (s.slot c).acct.commits 1 ∧
      ((applyVerdict c 1 s).slot c).st = .running) ∧
    ((s.slot c).st = .running → (s.slot c).att.sentCode ≠ 1 ∨ s.stroke.tallyOut = false →
      ((applyVerdict c 1 s).slot c).stk.index = (s.slot c).stk.index ∧ ((applyVerdict c 1 s).slot c).st = .held ∧
      ((applyVerdict c 1 s).slot c).stopped = true) ∧
    (∀ v, v = 3 ∨ v = 4 → (s.slot c).st = .running →
      ((s.slot c).att.reruns + 1 ≤ s.stroke.replayLimit.toNat →
        ((applyVerdict c v s).slot c).st = .running ∧
        ((applyVerdict c v s).slot c).att.reruns = (s.slot c).att.reruns + 1 ∧
        ((applyVerdict c v s).slot c).stk.index = (s.slot c).stk.index) ∧
      (s.stroke.replayLimit.toNat < (s.slot c).att.reruns + 1 → ((applyVerdict c v s).slot c).st = .held ∧
        ((applyVerdict c v s).slot c).holds = (s.slot c).holds ||| holdBit 5)) ∧
    ((s.slot c).st = .running → ((applyVerdict c 5 s).slot c).st = .held ∧
      ((applyVerdict c 5 s).slot c).stopped = (s.slot c).stopped) ∧
    ((s.slot c).st = .held → (s.slot c).stopped = false → (s.slot c).holds = 0 →
      ((applyVerdict c 2 s).slot c).st = .running) ∧
    (∀ v, v = 6 ∨ v = 7 → (s.slot c).st = .running ∨ (s.slot c).st = .loaded ∨ (s.slot c).st = .held →
      ((applyVerdict c v s).slot c).st = .held ∧ ((applyVerdict c v s).slot c).stopped = true ∧
      ((applyVerdict c v s).slot c).armed = false) ∧
    ((applyVerdict c 7 s).stroke.verdictFaults = sat32 s.stroke.verdictFaults 1) ∧
    (∀ v, (s.slot c).st = .empty → (applyVerdict c v s).slot c = s.slot c)

/-! ### The Gelhesy link (11_gelhesy_link) -/

/-- R350, R451: a port trains through its states: lock, keeper lane, equalisation (one failed or marked lane goes onto the
spare, more leave the port DEGRADED), alignment, calibration with the mean latency, ACTIVE; a step that takes too long falls
back to DETECT. -/
def Obligations.LinkTraining : Prop :=
  ∀ (p : Port) (s : State), s.power.on = true →
    (∀ lanes k, (s.port p).st = .detect → k < 9 → lanes.getLsbD k = true → (∀ i, i < k → lanes.getLsbD i = false) →
      ∃ u, exec (.detectLock p lanes) s = .next u ∧ (u.port p).st = .keeperUp ∧ (u.port p).keeperLane = k ∧
        (u.port p).laneOk = lanes ∧ (u.port p).samples = [] ∧ (u.port p).prio.length = 17) ∧
    ((s.port p).st = .keeperUp → (s.port p).peerValid = true → 16 ≤ (s.port p).samples.length →
      ∃ u, exec (.keeperUpDone p) s = .next u ∧ (u.port p).wKeeper = meanUp (s.port p).samples ∧
        (u.port p).st = if (s.port p).wantKeeper = true ∨ (s.port p).peerKeeper = true then .keeper else .equalise) ∧
    (∀ bad fs, (s.port p).st = .equalise →
      fs = (List.range 9).filter (fun i => (bad ||| KV.get 0 s.mp.marked (2 * p.val)).getLsbD i) →
      ∃ u, exec (.equaliseDone p bad) s = .next u ∧ (u.port p).laneOk = ~~~bad ∧
        (fs = [] → (u.port p).st = .align ∧ (u.port p).spareRx = 15) ∧
        (∀ f, fs = [f] → (u.port p).st = .align ∧ (u.port p).spareRx = if f < 8 then BitVec.ofNat 4 f else 15) ∧
        (2 ≤ fs.length → (u.port p).st = .degraded ∧ (u.port p).spareRx = 15)) ∧
    ((s.port p).st = .align → ∃ u, exec (.alignDone p) s = .next u ∧ (u.port p).st = .calibrate ∧
      (u.port p).samples = [] ∧ (u.port p).prio = (s.port p).prio ++ List.replicate 16 .echo) ∧
    ((s.port p).st = .calibrate → 16 ≤ (s.port p).samples.length → ∃ u, exec (.calibrateDone p) s = .next u ∧
      (u.port p).st = .active ∧ (u.port p).wFull = meanUp (s.port p).samples ∧ (u.port p).lost = false) ∧
    ([PortSt.keeperUp, .equalise, .align, .calibrate].elem (s.port p).st = true →
      ∃ u, exec (.trainTimeout p) s = .next u ∧ (u.port p).st = .detect ∧ (u.port p).prio = [] ∧
        ∃ r, u.mp.log.head? = some r ∧ r.code = 0x0708)

/-- R349, R351, R352, R362: the LINK packets of a port: CAP gives the neighbour's identity; ECHO is answered with its time
and ECHO_REPLY gives a latency sample; SPARE_REQ is acknowledged with the seq at which the lane moves and SPARE_ACK is
remembered; KEEPER and RESUME change the mode by request and acknowledgement, with no context RUNNING; a first failing lane of an ACTIVE port asks for
the spare. -/
def Obligations.LinkPackets : Prop :=
  ∀ (p : Port) (b : List Byte) (s : State), s.power.on = true →
    ((s.port p).carries = true → ∃ u, exec (.cap p b) s = .next u ∧ (u.port p).peerValid = true ∧
      (u.port p).peerId = BitVec.ofNat 11 (pnum b 2 2) ∧ (u.port p).peerPort = BitVec.ofNat 4 (pnum b 4 1) ∧
      (u.port p).peerAdmitted = (pnum b 11 1 % 2 == 1)) ∧
    ((s.port p).carries = true → ∃ u, exec (.echo p b) s = .next u ∧
      (u.port p).prio = (s.port p).prio ++ [.echoReply (BitVec.ofNat 32 (pnum b 4 4)) s.now]) ∧
    ((s.port p).carries = true → ∃ u, exec (.echoReply p b) s = .next u ∧ (u.port p).samples.head? =
      some (((s.now + 4294967296 - pnum b 4 4) % 4294967296 - 128 - pnum b 8 2 + 1) / 2)) ∧
    ((s.port p).st = .active → pnum b 2 1 < 8 → (s.port p).spareTx = 15 → (s.port p).switchLane = none →
      ∃ u, exec (.spareReq p b) s = .next u ∧ (u.port p).switchLane = some (pnum b 2 1) ∧
        (u.port p).prio = (s.port p).prio ++
          [.link (linkPkt 5 (leBytes 1 (pnum b 2 1) ++ leBytes 1 0 ++ leBytes 2 (s.port p).txSeq))]) ∧
    ((s.port p).asked = some (pnum b 2 1) → ∃ u, exec (.spareAck p b) s = .next u ∧
      (u.port p).spareAt = some (pnum b 2 1, pnum b 4 2)) ∧
    ((s.port p).st = .active → (∀ c, c < 8 → (s.slot c).st ≠ .running) →
      ∃ u, exec (.keeperReq p b) s = .next u ∧ (u.port p).changing = true ∧
        (u.port p).prio = (s.port p).prio ++ [.link (linkPkt 7 [])]) ∧
    ((s.port p).st = .active → (s.port p).wantKeeper = true → (s.port p).changing = true →
      (∀ c, c < 8 → (s.slot c).st ≠ .running) → ∃ u, exec (.keeperAck p b) s = .next u ∧ (u.port p).st = .keeper ∧ (u.port p).changing = false) ∧
    ((s.port p).st = .keeper ∨ (s.port p).st = .active → (∀ c, c < 8 → (s.slot c).st ≠ .running) →
      ∃ u, exec (.resumeReq p b) s = .next u ∧ (u.port p).changing = true ∧ (u.port p).wantKeeper = false ∧
        (u.port p).prio = (s.port p).prio ++ [.link (linkPkt 9 [])]) ∧
    ((s.port p).st = .keeper ∨ (s.port p).st = .active → (s.port p).changing = true → (s.port p).wantKeeper = false →
      (∀ c, c < 8 → (s.slot c).st ≠ .running) → ∃ u, exec (.resumeAck p b) s = .next u ∧ (u.port p).st = .equalise) ∧
    (∀ lane : Fin 9, (s.port p).st = .active → (s.port p).failed = [] → (s.port p).spareRx = 15 → lane.val < 8 →
      ∃ u, exec (.laneFailing p lane) s = .next u ∧ (u.port p).asked = some lane.val ∧
        (KV.get 0 u.mp.marked (2 * p.val)).getLsbD lane = true ∧
        (u.port p).prio = (s.port p).prio ++ [.link (linkPkt 4 (leBytes 1 lane))])

/-- R353 to R356: a good PAYLOAD flit in order advances the receiver's seq and returns credits; one out of order, and a bad
flit, make a RETRY_REQ due; RETRY_REQ makes the transmitter resend what its retry buffer holds; a RETRY_REQ that is due goes out
before any other flit but an IDLE flit that a mark's or a tally's copy needs (R361, R365), and R344: lane n carries bytes n, n + 8, … of an ACTIVE port's flit as PAM4 symbols of the scrambled bits; a
port that loses its flits goes down to DETECT with its queues empty. -/
def Obligations.FlitExchange : Prop :=
  ∀ (p : Port) (s : State), s.power.on = true → (s.port p).carries = true →
    (∀ raw w slots, CorrectionsBearable s p (decodeFlit (s.port p).slotCount raw).fixed →
      (decodeFlit (s.port p).slotCount raw).good = some (w, slots) → badStart (FlitHead.of w) slots = false →
      ((FlitHead.of w).kind = 0 → (FlitHead.of w).seq = ((s.port p).rxSeq + 1) % 4096 →
        ∃ u, exec (.flitReceive p raw) s = .next u ∧ (u.port p).rxSeq = (FlitHead.of w).seq ∧
          KV.get 0 (u.port p).credits (FlitHead.of w).vc =
            KV.get 0 (s.port p).credits (FlitHead.of w).vc + (FlitHead.of w).credit) ∧
      ((FlitHead.of w).kind = 0 → (FlitHead.of w).seq ≠ ((s.port p).rxSeq + 1) % 4096 →
        ∃ u, exec (.flitReceive p raw) s = .next u ∧ (u.port p).rxSeq = (s.port p).rxSeq ∧
          (u.port p).reqDue = true) ∧
      ((FlitHead.of w).kind = 2 → ((s.port p).reqAck ≠ (FlitHead.of w).ack ∨ (s.port p).reqRun ≠ 7) →
        ∃ u, exec (.retryReqReceive p raw) s = .next u ∧ (u.port p).retries = sat32 (s.port p).retries 1 ∧
          (u.port p).resend = (u.port p).retry ∧ (u.port p).retry = uncovered (FlitHead.of w).ack (s.port p).retry)) ∧
    (∀ raw, CorrectionsBearable s p (decodeFlit (s.port p).slotCount raw).fixed →
      (decodeFlit (s.port p).slotCount raw).good = none → (s.port p).st ≠ .detect →
      ∃ u, exec (.flitReceive p raw) s = .next u ∧ (u.port p).badFlits = sat32 (s.port p).badFlits 1 ∧
        (u.port p).reqDue = true ∧ (u.port p).rxSeq = (s.port p).rxSeq) ∧
    (∀ g, g = (dropModeAcks p s).port p → (s.port p).st ≠ .detect → (s.port p).reqDue = true →
      g.mustIdle s.now = false → ∃ u, exec (.flitTransmit p) s = .next u ∧ u.port p = (reqFlit g).drive ∧
      ((s.port p).st = .active → ∀ n, n < 8 → n ≠ (s.port p).spareTx.toNat → KV.find? (u.port p).wire n = some (symbols true
        (scramble ((KV.find? (s.port p).scr n).getD (scrambleInit n))
          ((List.range 32).flatMap fun i => byteBits ((u.port p).txFlit.getD (8 * i + n) 0))).1))) ∧
    (∀ g, g = (dropModeAcks p s).port p → (s.port p).st ≠ .detect → (s.port p).reqDue = false →
      (s.port p).resend ≠ [] → g.mustIdle s.now = false →
      ∃ u, exec (.flitTransmit p) s = .next u ∧ (u.port p).resend = (s.port p).resend.drop 1) ∧
    (∀ g, g = (dropModeAcks p s).port p → (s.port p).st ≠ .detect → (s.port p).reqDue = false →
      (s.port p).resend = [] → ∃ g' lost u, (lost, g') = freshFlit false s.now s.myId (g.code s.ghl.admitted) g ∧
      exec (.flitTransmit p) s = .next u ∧ (u.port p).txFlit = g'.txFlit ∧ (u.port p).txSeq = g'.txSeq ∧
      (u.port p).retry = g'.retry) ∧
    (∀ g, g = (dropModeAcks p s).port p → (s.port p).st ≠ .detect → g.mustIdle s.now = true →
      ∃ g' lost u, (lost, g') = freshFlit true s.now s.myId (g.code s.ghl.admitted) g ∧
      exec (.flitTransmit p) s = .next u ∧ (u.port p).txFlit = g'.txFlit ∧ (u.port p).txSeq = (s.port p).txSeq ∧
      (u.port p).reqDue = (s.port p).reqDue ∧ (u.port p).resend = (s.port p).resend) ∧
    (∀ i ∈ [Instr.goodFlitTimeout p, .flitLockLoss p], (s.port p).st ≠ .detect → ∃ u, exec i s = .next u ∧
      (u.port p).st = .detect ∧ (u.port p).retry = [] ∧ (u.port p).laneOk = 0 ∧
      (u.port p).downs = sat32 (s.port p).downs 1)

/-- R358, R370, R371, R374: an XFER of resident memory whose peer lies behind an ACTIVE port queues its packets there; a
WAIT whose window has its bytes completes at once, and otherwise waits, each core cycle counted; at slack + 1 cycles it ends. R376: a REDUCE whose tree
has no child sends its first segment to its parent, and with no parent either it completes at once. -/
def Obligations.TransfersWaitsReductions : Prop :=
  ((∀ (d : IoDie) (c : Slot) (k n id : Nat) (s : State) (q : Cmd) (a : GhlAct) (r : Route), s.power.on = true →
      s.act? c d k = none → ghlNext s d c k 0 = some q → n = wordsNat q.body → xferBad (s.slot c) n = false →
      bitsOf n 1 0 = 0 → peerId? (s.slot c) (bitsOf n 26 16) = some id → id ≠ s.myId →
      firstBad (s.slot c) (bitsOf n 111 64) (bitsOf n 223 192) false = none →
      poisonedGran s (s.slot c) (bitsOf n 111 64) (bitsOf n 223 192) = [] → r = KV.get Route.none s.ghl.routes id →
      r.valid = true → r.here = false → (s.port r.port.toNat).code s.ghl.admitted = 6 → s.portFitted r.port.toNat = true →
      a = { freshAct d k 0 with
        seq := BitVec.ofNat 32 (bitsOf n 255 224), bytes := bitsOf n 223 192, window := bitsOf n 34 27
        off := bitsOf n 175 128, dest := id } →
      ∃ u, exec (.xfer d c k) s = .next u ∧ (u.act? c d k).isSome = true ∧
        (u.slot c).nextCmd 4 d = ((s.slot c).advance 4 d).nextCmd 4 d ∧
        (u.port r.port.toNat).writes.map (·.bytes) = (s.port r.port.toNat).writes.map (·.bytes) ++
          (List.range a.packets).map fun i => writePkt s c a i
            (((s.rdVa (s.slot c) (bitsOf n 111 64) a.bytes).drop (512 * i)).take 512)) ∧
    (∀ (d : IoDie) (c : Slot) (k n : Nat) (s : State) (q : Cmd), s.power.on = true → s.act? c d k = none →
      ghlNext s d c k 1 = some q → n = wordsNat q.body → bitsOf n 127 112 = 0 →
      bitsOf n 7 0 < (s.slot c).ghl.link.windows.length →
      (bitsOf n 111 64 ≤ KV.get 0 (s.slot c).ghl.counts (bitsOf n 7 0) → ∃ u, exec (.wait d c k) s = .next u ∧
        u.act? c d k = none ∧ (u.slot c).nextCmd 4 d = ((s.slot c).advance 4 d).nextCmd 4 d) ∧
      (KV.get 0 (s.slot c).ghl.counts (bitsOf n 7 0) < bitsOf n 111 64 →
        ∃ u a, exec (.wait d c k) s = .next u ∧ u.act? c d k = some a ∧ a.waited = 0 ∧ a.expect = bitsOf n 111 64)) ∧
    (∀ (c : Slot) (s : State) (a : GhlAct), s.power.on = true → s.pending = [] → s.tub.losses = [] → a.kind = 1 →
      (s.slot c).ghl.acts = [a] → (∀ e : Nat, e < 8 → e ≠ c.val → (s.slot e).ghl.acts = []) → nonconf s c = false →
      a.waited < a.slack → ∃ t, step s = .next t ∧ (t.slot c).ghl.acts = [{ a with waited := a.waited + 1 }] ∧
        (t.slot c).stk.stallCycles.toNat ≠ 0) ∧
    (∀ (d : IoDie) (c : Slot) (k : Nat) (s : State) (a : GhlAct), s.power.on = true → s.act? c d k = some a →
      a.kind = 1 → KV.get 0 (s.slot c).ghl.counts a.window < a.expect →
      ∃ u, exec (.waitSlackExpire d c k) s = .next u ∧ u.act? c d k = none)) ∧
  (∀ (d : IoDie) (c : Slot) (k n : Nat) (s : State) (q : Cmd) (t : Tree), s.power.on = true →
      s.act? c d k = none → ghlNext s d c k 2 = some q → n = wordsNat q.body → reduceBad (s.slot c) n = false →
      (s.slot c).ghl.link.trees[bitsOf n 5 0]? = some t → t.children = [] →
      (s.slot c).ghl.badEpoch.elem (bitsOf n 5 0, KV.get 0 (s.slot c).ghl.tags (bitsOf n 5 0)) = false →
      bitsOf n 11 10 = 0 → bitsOf n 13 12 = 0 →
      firstBad (s.slot c) (bitsOf n 111 64) (bitsOf n 231 192) false = none →
      firstBad (s.slot c) (bitsOf n 175 128) (bitsOf n 231 192) true = none →
      poisonedGran s (s.slot c) (bitsOf n 111 64) (bitsOf n 231 192) = [] → 0 < bitsOf n 231 192 →
      (t.parent = 0xFFFF → ∃ u, exec (.reduce d c k) s = .next u ∧ u.act? c d k = none) ∧
      (∀ id r, t.parent ≠ 0xFFFF → peerId? (s.slot c) t.parent = some id → id ≠ s.myId →
        r = KV.get Route.none s.ghl.routes id → r.valid = true → r.here = false →
        (s.port r.port.toNat).code s.ghl.admitted = 6 → s.portFitted r.port.toNat = true →
        (s.slot c).ghl.redIn = [] → ∃ u p, exec (.reduce d c k) s = .next u ∧ (u.act? c d k).isSome = true ∧
          (u.port r.port.toNat).reduces.map (·.bytes) = (s.port r.port.toNat).reduces.map (·.bytes) ++ [p] ∧
          ptype p = Pkt.reduce ∧ pdst p = id ∧
          (p.drop 32).take (min 512 (bitsOf n 231 192)) =
            s.rdVa (s.slot c) (bitsOf n 111 64) (min 512 (bitsOf n 231 192))))

/-- R358, R359, R372, R373, R377: a packet for another device goes to the port of its route with one hop less; a WRITE that
Table 11.12 accepts adds to its window's count; a RECEIPT of success covers packets of its transfer; a REDUCE packet that comes
before its command waits for it; a packet of a Stroke that is over is dropped and counted. -/
def Obligations.PacketArrivals : Prop :=
  ∀ (p : Port) (b : List Byte) (s : State), s.power.on = true →
    carriesType ((s.port p).code s.ghl.admitted) (ptype b) = true → b.length = 32 * pslots b →
    (∀ o, routeOf s b = .port o → phops b ≠ 0 →
      (ptype b = Pkt.write → ∃ u, exec (.writePacketReceive p b) s = .next u ∧
        (u.port o).writes.map (·.bytes) = (s.port o).writes.map (·.bytes) ++ [b.set 1 (b.getD 1 0 - 1)]) ∧
      (ptype b = Pkt.receipt → ∃ u, exec (.receiptPacketReceive p b) s = .next u ∧
        (u.port o).receipts.map (·.bytes) = (s.port o).receipts.map (·.bytes) ++ [b.set 1 (b.getD 1 0 - 1)]) ∧
      (ptype b = Pkt.reduce → ∃ u, exec (.reducePacketReceive p b) s = .next u ∧
        (u.port o).reduces.map (·.bytes) = (s.port o).reduces.map (·.bytes) ++ [b.set 1 (b.getD 1 0 - 1)])) ∧
    (routeOf s b = .here →
      (ptype b = Pkt.write → rowVerdict s b = .pass → windowOutcome (s.slot (pslot b)) b = 0 →
        ∃ u, exec (.writePacketReceive p b) s = .next u ∧
          KV.get 0 (u.slot (pslot b)).ghl.counts (pnum b 7 1) =
            KV.get 0 (s.slot (pslot b)).ghl.counts (pnum b 7 1) + (b.length - 32)) ∧
      (ptype b = Pkt.write → rowVerdict s b = .drop → ∃ u, exec (.writePacketReceive p b) s = .next u ∧
        u.ghl.staleDrops = sat32 s.ghl.staleDrops 1 ∧ u.stackMem = s.stackMem ∧ u.hostMem = s.hostMem) ∧
      (∀ a, ptype b = Pkt.receipt → s.stroke.mark.toNat ≤ pnum b 12 6 → pnum b 7 1 = 0 → pnum b 18 1 % 2 = 0 →
        (s.slot (pslot b)).ghl.acts.find? (fun a => a.tag == pnum b 8 2 && a.kind == 0) = some a →
        a.cov + pnum b 10 2 < a.packets → s.act? (pslot b) a.inst a.k = some a →
        ∃ u e, exec (.receiptPacketReceive p b) s = .next u ∧ u.act? (pslot b) a.inst a.k = some e ∧
          e.cov = a.cov + pnum b 10 2 ∧ e.done = a.done + a.span a.cov (a.cov + pnum b 10 2)) ∧
      (ptype b = Pkt.reduce → rowVerdict s b = .pass →
        BitVec.ofNat 32 (pnum b 20 4) = (s.slot (pslot b)).layoutEpoch →
        (∀ a ∈ (s.slot (pslot b)).ghl.acts, ¬ (a.kind = 2 ∧ a.tree = pnum b 7 1 ∧ a.tag = pnum b 30 2)) →
        ∃ u, exec (.reducePacketReceive p b) s = .next u ∧ (u.slot (pslot b)).ghl.redIn =
          (s.slot (pslot b)).ghl.redIn ++
            [⟨pnum b 7 1, pnum b 30 2, pnum b 1 1 / 128, psrc b, pnum b 24 5, b.drop 32, some p.val⟩]) ∧
      (ptype b = Pkt.reduce → rowVerdict s b = .drop → ∃ u, exec (.reducePacketReceive p b) s = .next u ∧
        u.ghl.staleDrops = sat32 s.ghl.staleDrops 1))

/-! ### Mangle (03_mangle) -/

/-- R70, R71, R104 to R106: with the injectors free, PASS, DUMMY and RAMP take the well-formed command at the head of the
Mangle's queue, in its range, from its start time on and while the Mangle is not frozen; before that time and while it is
frozen nothing starts. The operation is in flight, the level moves to its duty, the lateness is counted, and no memory
changes. The levels that would pass the bound of R106 are excluded. -/
def Obligations.MangleStarts : Prop :=
  ∀ e ∈ [(fun c : Slot => Instr.pass c, 0), (fun c => .dummy c, 1), (fun c => .ramp c, 2)],
    ∀ (c : Slot) (s : State) (q : Cmd) (d : MDesc), s.power.on = true → (s.slot c).nextCmd 0 0 = some q →
    (s.now < (s.slot c).dueAt 0 q ∨ s.mgl.frozen = true ∨ (∃ o ∈ s.mgl.ops, o.stage ≠ .done) → exec (e.1 c) s = .next s) ∧
    ((s.slot c).mayStart s.now 0 q = true → s.mgl.frozen = false → (∀ o ∈ s.mgl.ops, o.stage = .done) →
      d = mdescOf q.body → d.opcode = e.2 → (if e.2 = 0 then d.passBad else d.otherBad) = false →
      d.duty ≤ s.mgl.level.val s.now ∨
        d.duty ≤ levelBound (rangeEnd s (s.slot c) 0 q.range) (startLevel s d).2 →
      ∃ u, exec (e.1 c) s = .next u ∧ u.mgl.ops = s.mgl.ops ++ [newOp c q d] ∧ u.mgl.level.hi = d.duty ∧
        u.slot c = (s.slot c).advance 0 0 ∧
        u.mgl.ctr.lateStart = sat32 s.mgl.ctr.lateStart ((startLevel s d).2 - (s.slot c).dueAt 0 q) ∧
        u.tubMem = s.tubMem ∧ u.stackMem = s.stackMem ∧ u.hostMem = s.hostMem)

/-- R78, R79, R87, R106: with its rows held a pass takes its weights at the swap, and its vectors one by one, after the last of
which it keeps the injectors for its tail (R80); a slot whose rows are not held is a hot bubble and a stall of every cycle of the
slot (one slot of MGL_HOT_BUBBLES: Table 3.13, log entry 99); an operation whose level would pass the bound in the next
cycle ends with F_STROKE_OVERRUN, and no other does. -/
def Obligations.MangleStreams : Prop :=
  ∀ (s : State) (o : MglOp), s.power.on = true →
    (∀ c : Slot, s.mgl.ops.find? (fun o => o.slot == c.val && decide (o.stage ≠ .done)) = some o →
      (levelBound (rangeEnd s (s.slot c) 0 o.range) (s.now + 1) < s.mgl.level.val (s.now + 1) →
        exec (.levelBound c) s = .next (s.effectOf (opFault o 0x0101 0 s))) ∧
      (s.mgl.level.val (s.now + 1) ≤ levelBound (rangeEnd s (s.slot c) 0 o.range) (s.now + 1) →
        exec (.levelBound c) s = .next s)) ∧
    (s.mgl.frozen = false → s.mgl.ops.find? (fun o => decide (o.stage = .swap)) = some o →
      (∀ b v, probe s o.slot (o.user 2) (swapNeeds o.d) = .ok [] → o.d.cls ≠ .fp4 → o.d.spMode ≠ 2 →
        takeAll o.slot (o.user 2) (o.d.bTiles.map fun i => (i, idxTile i, o.d.bLine, o.d.bRows)) s = (.ok b, v) →
        ∃ u, exec .swapInject s = .next u ∧ u.tubMem = s.tubMem ∧
          ∀ p ∈ u.mgl.ops, p.slot = o.slot → p.k = o.k → p.stage = .stream ∧ p.b = b) ∧
      (∀ k ks, probe s o.slot (o.user 2) (swapNeeds o.d) = .ok (k :: ks) → nonconf s o.slot = false →
        ∃ u, exec .swapInject s = .next u ∧ u.mgl.ctr.hotBubbles = sat32 s.mgl.ctr.hotBubbles 1 ∧
          (u.slot o.slot).stk.stallCycles = sat32 (s.slot o.slot).stk.stallCycles o.d.r ∧ u.tubMem = s.tubMem)) ∧
    (s.mgl.frozen = false → s.mgl.ops.find? (fun o => decide (o.stage = .stream)) = some o →
      (∀ g v, probe s o.slot (o.user 2) (vecNeeds o.d o.sent) = .ok [] → vecRows o o.sent s = (.ok g, v) →
        o.d.spMode ≠ 1 → o.d.spMode ≠ 2 → ∃ u, exec .vectorInject s = .next u ∧ u.tubMem = s.tubMem ∧
          ∀ p ∈ u.mgl.ops, p.slot = o.slot → p.k = o.k → p.sent = o.sent + 1 ∧
            KV.find? p.vecs o.sent = some (vecOf o.d g o.sent) ∧
            p.stage = if o.sent + 1 = o.d.m then .tail else .stream) ∧
      (∀ k ks, probe s o.slot (o.user 2) (vecNeeds o.d o.sent) = .ok (k :: ks) → nonconf s o.slot = false →
        ∃ u, exec .vectorInject s = .next u ∧ u.mgl.ctr.hotBubbles = sat32 s.mgl.ctr.hotBubbles 1 ∧
          u.tubMem = s.tubMem))

/-- R89, R90, R95: a die drains the next vector of the oldest operation it has not finished. OVERWRITE (1) stores the sums of
the pass and sets the written flag to its class; ADD (2) adds to what the store holds, where the flag is set; where it is clear
the operation ends with F_MGL_STORE; a Hem mismatch is counted on its die and ends the operation, as one that was compared, with F_HEM_MISMATCH. -/
def Obligations.MangleDrains : Prop :=
  ∀ (die : Die) (delta : Int) (s : State) (o : MglOp) (m : Nat) (v : VecIn) (accs : List Acc), s.power.on = true →
    s.mgl.frozen = false → s.mgl.ops.find? (fun o => decide (KV.get 0 o.drained die < o.total)) = some o →
    m = KV.get 0 o.drained die → m < drainable o die → o.kZero = false →
    v = (KV.find? o.vecs m).getD ⟨[], [], []⟩ → accs = (dieSums o.d o v die).1 → o.d.accDup = false →
    (hemCheck o.d o v die accs (dieSums o.d o v die).2 delta ≠ .mismatch →
      (o.d.accMode = 1 → ∃ u, exec (.drainVector die delta) s = .next u ∧
        (∀ p ∈ u.mgl.ops, p.slot = o.slot → p.k = o.k → KV.get 0 p.drained die = m + 1) ∧
        KV.getList Acc.zero u.mgl.store (2048 * (o.d.accSlot + m) + 512 * die) 512 = accs.map (signed o.d) ∧
        KV.get 0 u.mgl.written (1024 * die + (o.d.accSlot + m)) = (if o.d.cls = .half then 2 else 1) ∧
        u.tubMem = s.tubMem ∧ u.stackMem = s.stackMem ∧ u.hostMem = s.hostMem) ∧
      (o.d.accMode = 2 → KV.get 0 s.mgl.written (1024 * die + (o.d.accSlot + m)) = (if o.d.cls = .half then 2 else 1) →
        ∃ u, exec (.drainVector die delta) s = .next u ∧
          (∀ p ∈ u.mgl.ops, p.slot = o.slot → p.k = o.k → KV.get 0 p.drained die = m + 1) ∧
          ∀ x, x < 512 → KV.get Acc.zero u.mgl.store (2048 * (o.d.accSlot + m) + 512 * die + x) =
            combineAcc o.d (KV.get Acc.zero s.mgl.store (2048 * (o.d.accSlot + m) + 512 * die + x))
              ((accs.map (signed o.d)).getD x Acc.zero)) ∧
      (o.d.accMode = 2 → KV.get 0 s.mgl.written (1024 * die + (o.d.accSlot + m)) = 0 → ∃ w, w.slots = s.slots ∧
        w.mgl.ops = s.mgl.ops ∧ w.mgl.store = s.mgl.store ∧
        exec (.drainVector die delta) s = .next (s.effectOf (opFault o 0x0204 0 w)))) ∧
    (hemCheck o.d o v die accs (dieSums o.d o v die).2 delta = .mismatch →
      (o.d.dEn = false ∨ o.d.accMode = 1 ∨ o.d.accMode = 2) → ∃ w, w.slots = s.slots ∧
        w.mgl.ops = (s.modOp o.slot o.k fun p => { p with compared := true }).mgl.ops ∧ w.mgl.store = s.mgl.store ∧
        KV.get 0 w.mgl.ctr.hemFail die = sat32 (KV.get 0 s.mgl.ctr.hemFail die) 1 ∧
        exec (.drainVector die delta) s = .next (s.effectOf
          ((opFault o 0x0220 (BitVec.ofNat 48 (m % 16777216 + die * 16777216)) w).trigger 0 (unitRow die 0))))

/-- R21, R82, R88, R91, R92: the oldest held row whose Lines can all take it goes to every one of them, and while no row can go
nothing changes; the hold request freezes the Mangle and its
drop lets it go on; the abort signal ends every aborted operation and drops its held rows; a finished operation leaves the
Mangle and a PASS is counted; a parity error of a crossing ends the operation it fell in, or is logged when there is none. -/
def Obligations.MangleEnds : Prop :=
  ∀ s : State, s.power.on = true →
    (∀ (col : Fin 32) q, KV.get [] s.mgl.buf col = q →
      (q.find? (HoldRow.mayGo s q) = none → exec (.drainBufferWrite col) s = .next s) ∧
      (∀ h d k g, q.find? (HoldRow.mayGo s q) = some h → h.dests = [d] →
        lineTakes s h.slot (idxTile d.tile) d.line (d.user h.k) = .ok (k, true) → (s.line k).cfg = some g →
        ∃ u, exec (.drainBufferWrite col) s = .next u ∧ KV.get [] u.mgl.buf col = q.erase h ∧
          KV.getList 0 u.tubMem (512 * slotRow s h.slot (idxTile d.tile) g ((s.line k).tail % g.size)) 512 =
            rowBytes d.row ∧ u.mgl.ops = s.mgl.ops) ∧
      (∀ h d e k l g j, q.find? (HoldRow.mayGo s q) = some h → h.dests = [d, e] → k ≠ l →
        lineTakes s h.slot (idxTile d.tile) d.line (d.user h.k) = .ok (k, true) → (s.line k).cfg = some g →
        lineTakes s h.slot (idxTile e.tile) e.line (e.user h.k) = .ok (l, true) → (s.line l).cfg = some j →
        ∃ u, exec (.drainBufferWrite col) s = .next u ∧ KV.get [] u.mgl.buf col = q.erase h ∧
          (u.line k).tail = (LineRec.filled g ((s.line k).tail % g.size) (s.line k)).tail ∧
          (u.line l).tail = (LineRec.filled j ((s.line l).tail % j.size) (s.line l)).tail ∧ u.mgl.ops = s.mgl.ops)) ∧
    (s.mgl.frozen = false → 0 < s.mgl.freezeDue → exec .mangleFreeze s =
      .next (s.modMgl fun m => { m with frozen := true, freezeDue := m.freezeDue - 1 })) ∧
    (s.mgl.frozen = true → 0 < s.mgl.resumeDue → exec .mangleResume s =
      .next (s.modMgl fun m => { m with frozen := false, resumeDue := m.resumeDue - 1 })) ∧
    (∃ u, exec .drainAbortSignal s = .next u ∧ u.mgl.ops = s.mgl.ops.filter (fun o => o.abort.isNone) ∧
      ∀ e ∈ u.mgl.buf, ∀ h ∈ e.2, ∀ o ∈ s.mgl.ops, o.abort.isSome = true → ¬ (o.slot = h.slot ∧ o.k = h.k)) ∧
    (∀ o rest, s.mgl.ops = o :: rest → o.abort = none → opOver s o = true → ∃ u, exec .passComplete s = .next u ∧
      u.mgl.ops = rest ∧ u.mgl.ctr.passes = if o.d.opcode = 0 then sat32 s.mgl.ctr.passes 1 else s.mgl.ctr.passes) ∧
    (∀ (j : Fin 3) x, ∃ u, exec (.bridgeParityError j x none) s = .next u ∧
      ∃ r, u.mp.log.head? = some r ∧ r.code = 0x0210) ∧
    (∀ (j : Fin 3) k o, s.mgl.ops[k]? = some o → o.abort = none → exec (.bridgeParityError j .ret (some k)) s =
      .next (s.effectOf ((opFault o 0x0210 0 s).trigger 1 (unitCrossing j 1))))

/-- R54, R221 on Table 2.6: a cause enters the tally by the greatest code; the first one aborts every operation of the
context in the Mangle, in the Seams, in the stream engines, in the Presses and in the tiles. A slot whose attempt is over takes
no cause. An overrun raises STK_CTX_OVERRUNS, and no other cause does (Table 2.11). -/
def Obligations.CausesEndWork : Prop :=
  ∀ (s : State) (c code : Nat) (arg : W32) (ext : BitVec 48),
    ((s.slot c).att.on = false → raiseCause s c code arg ext = s) ∧
    ((s.slot c).att.on = true →
      ((raiseCause s c code arg ext).slot c).att.cause = max (s.slot c).att.cause (tallyOf code) ∧
      ((raiseCause s c code arg ext).slot c).stk.overruns =
        (if code = 0x0101 then sat32 (s.slot c).stk.overruns 1 else (s.slot c).stk.overruns) ∧
      ((s.slot c).att.cause = 0 → tallyOf code ≠ 0 →
        (∀ o ∈ (raiseCause s c code arg ext).mgl.ops, o.slot = c → o.abort.isSome = true) ∧
        (∀ e ∈ (raiseCause s c code arg ext).seams, e.2.slot ≠ c) ∧
        (∀ t ∈ (raiseCause s c code arg ext).tasks, t.slot ≠ c) ∧
        ((raiseCause s c code arg ext).slot c).press.jobs = [] ∧
        ((raiseCause s c code arg ext).slot c).tileCmds = []))

/-! ### Seams (05_sparsity) -/

/-- R167, R169, R171, R172: a Seam takes the well-formed command at the head of its queue; a merge that met an entry past
out_max ends with F_SEAM_OUT_FULL once the entries before it are written; it reads an input row by row; over all of
two rising streams INTERSECT gives the entries whose index both have and UNION one entry of each index of either; TOPK keeps the
order of its input and fills up with empty places; ROUTE gives every expert k_cap places; SEAM_COMPLETE ends the operation. -/
def Obligations.SeamOperations : Prop :=
  ∀ (n : SeamUnit) (c : Slot) (s : State), s.power.on = true →
    (∀ e ∈ [(Instr.intersect n c, 0), (.union n c, 1), (.topk n c, 2), (.route n c, 3)], ∀ (q : Cmd) (d : SeamDesc),
      KV.find? s.seams n = none → (s.slot c).nextCmd 5 n = some q → (s.slot c).mayStart s.now 5 q = true →
      d = seamDescOf q.body → d.opcode = e.2 → d.bad (n / 2) = false →
      ∃ u, exec e.1 s = .next u ∧ u.slot c = (s.slot c).advance 5 n ∧ u.tubMem = s.tubMem ∧
        KV.find? u.seams n = some ⟨c, q.k, d, .start, .start, .start, .start, 0, 0, false⟩) ∧
    (∀ o, KV.find? s.seams n = some o → o.slot = c →
      (∀ e ∈ [(Instr.intersect n c, 0), (.union n c, 1), (.topk n c, 2), (.route n c, 3)], ∀ row i v,
        o.d.opcode = e.2 → o.excess = false → o.out = .start → o.aux = .start → o.a.buf = [] → o.a.ended = false →
        lineRead s c (tileOf o.d.tileRow o.d.tileCol) o.d.inA ⟨4, opId 5 n o.k⟩ true = (.done row, v) →
        o.a.take o.d.extent o.d.nA (rowEntries row) = .ok i →
        ∃ u, exec e.1 s = .next u ∧ KV.find? u.seams n = some { o with a := i } ∧ u.tubMem = s.tubMem) ∧
      (∀ e ∈ [(Instr.intersect n c, 0), (.union n c, 1)], o.d.opcode = e.2 → o.excess = true → o.out.buf = [] →
        o.aux.buf = [] → exec e.1 s = .next (s.effectOf (seamFault n o 0x0304 s))) ∧
      (o.excess = false → o.out = .start → o.aux = .start → o.a.ended = true → o.b.ended = true →
        (o.a.buf ≠ [] ∨ o.b.buf ≠ []) → o.a.buf.length + o.b.buf.length ≤ 64 → 64 ≤ o.d.outMax →
        o.a.buf.Pairwise (fun x y => x.idx.toNat < y.idx.toNat) →
        o.b.buf.Pairwise (fun x y => x.idx.toNat < y.idx.toNat) →
        (o.d.opcode = 0 → ∃ u p, exec (.intersect n c) s = .next u ∧ KV.find? u.seams n = some p ∧
          p.out.buf = o.a.buf.filter (fun x => o.b.buf.any fun y => y.idx == x.idx) ∧
          p.aux.buf = o.b.buf.filter (fun y => o.a.buf.any fun x => x.idx == y.idx)) ∧
        (o.d.opcode = 1 → ∃ u p, exec (.union n c) s = .next u ∧ KV.find? u.seams n = some p ∧
          p.out.buf.Pairwise (fun x y => x.idx.toNat < y.idx.toNat) ∧
          ∀ i, (∃ x ∈ p.out.buf, x.idx = i) ↔ (∃ x ∈ o.a.buf, x.idx = i) ∨ ∃ y ∈ o.b.buf, y.idx = i)) ∧
      (o.d.opcode = 2 → o.excess = false → o.out = .start → o.aux = .start → o.a.ended = true →
        o.a.buf.Pairwise (fun x y => x.idx.toNat < y.idx.toNat) → ∃ u p kept, exec (.topk n c) s = .next u ∧
          KV.find? u.seams n = some p ∧ kept.Sublist o.a.buf ∧ kept.length = min o.d.kCap o.a.buf.length ∧
          p.out.buf = kept ++ List.replicate (o.d.kCap - kept.length) SEntry.empty ++ [SEntry.term] ∧
          p.empties = o.d.kCap - kept.length) ∧
      (∀ ls rej, o.d.opcode = 3 → o.excess = false → o.out = .start → o.aux = .start → o.a.ended = true →
        routeAll o.d.experts o.d.kCap o.a.buf [] [] = .ok (ls, rej) → ∃ u p, exec (.route n c) s = .next u ∧
          KV.find? u.seams n = some p ∧ p.out.buf.length = (o.d.experts + 1) * o.d.kCap + 1 ∧
          p.aux.buf = rej ++ [SEntry.term] ∧ p.rejected = rej.length) ∧
      (o.out.ended = true → o.out.buf = [] → o.aux.buf = [] → ∃ u, exec (.seamComplete n c) s = .next u ∧
        KV.find? u.seams n = none ∧ (∀ j, j ≠ n.val → KV.find? u.seams j = KV.find? s.seams j) ∧
        u.tubMem = s.tubMem))

/-! ### Streams and memory (08_streams_and_memory) -/

/-- R242, R244 to R247: LOAD, STORE, GATHER and SCATTER take the well-formed command at the head of the engine's queue when
fewer than four tasks of the context are active and the Lines it names are set up for the engine. -/
def Obligations.StreamStarts : Prop :=
  ∀ (g : Engine) (c : Slot) (s : State), s.power.on = true →
    ∀ e ∈ [(Instr.load g c, 0), (.store g c, 1), (.gather g c, 2), (.scatter g c, 3)], ∀ (q : Cmd) (d : StrDesc),
      (s.slot c).nextCmd 2 g = some q → (s.slot c).mayStart s.now 2 q = true → d = strDescOf q.body → d.op = e.2 →
      (s.tasks.filter (fun t => t.engine == g.val && t.slot == c.val)).length < 4 → d.bad = false → d.packed = false →
      (∀ j, j < d.tiles → ∃ p, lineFor s c (tileOf (d.tileRow + j) g) d.line 5 d.loads = .ok p) →
      (d.indexed = true → ∃ p, lineFor s c (tileOf d.tileRow g) d.idxLine 5 false = .ok p) →
      ∃ u t, exec e.1 s = .next u ∧ u.tasks = s.tasks ++ [t] ∧ t.engine = g.val ∧ t.slot = c.val ∧ t.k = q.k ∧ t.d = d ∧
        t.next = 0 ∧ t.rows = [] ∧ t.outW = [] ∧ t.cancelled = false ∧ u.slot c = (s.slot c).advance 2 g ∧
        u.tubMem = s.tubMem ∧ u.stackMem = s.stackMem ∧ u.hostMem = s.hostMem

/-- R250, R251, R254: a LOAD with a credit reserves the next peg and asks for the row's blocks; a row whose blocks have come
goes to its slot, the rest of the Tubs stays; a STORE whose row is held hands the controllers one write for each block it touches (R243), and no row is reserved while the
landing buffer is full (R181, log entry 10); a task with
nothing left to do ends, and no other does. -/
def Obligations.StreamRows : Prop :=
  ∀ (e : Engine) (c : Slot) (k : Nat) (s : State) (t : StrTask), s.power.on = true → s.task? e c k = some t →
    (∀ key g ps v, t.d.op = 0 → t.d.packed = false → t.cancelled = false → t.next < t.d.rows →
      earlierWriter s t = false → rowCredit s t (t.d.tileOfRow t.next) t.d.line = .ok (some (key, g)) →
      strXlateAll e c (t.rowAddrs t.next 8) s = (.ok ps, v) → rowBlocks ps ≠ [] →
      outstanding s e + (rowBlocks ps).length ≤ 512 → bufferFull s t (t.d.tileOfRow t.next) = false → ∃ u w, exec (.rowReserve e c k) s = .next u ∧
        u.task? e c k = some { t with next := t.next + 1, rows := t.rows ++ [w] } ∧ w.r = t.next ∧ w.key = key ∧
        w.wait = rowBlocks ps ∧ w.slot = (s.line key).resv % g.size ∧
        (u.line key).resv = (LineRec.reserve g (s.line key)).resv ∧ u.tubMem = s.tubMem) ∧
    (∀ w g, t.rows.find? (fun w => w.wait.isEmpty) = some w → w.hdr = false → (s.line w.key).cfg = some g →
      w.granules.length = 8 → ∃ u, exec (.strRowLand e c k) s = .next u ∧
        u.task? e c k = some { t with rows := t.rows.erase w, done := NSet.add t.done w.r } ∧
        KV.getList 0 u.tubMem (512 * slotRow s c (tileOf w.tile e) g w.slot) 512 = (w.granules.flatMap fun a =>
          match a with
          | some va => s.rdVa (s.slot c) va 64
          | none => List.replicate 64 0) ∧
        (∀ a, a < 512 * slotRow s c (tileOf w.tile e) g w.slot ∨
          512 * slotRow s c (tileOf w.tile e) g w.slot + 512 ≤ a → KV.get 0 u.tubMem a = KV.get 0 s.tubMem a) ∧
        u.stackMem = s.stackMem ∧ u.hostMem = s.hostMem) ∧
    (∀ row ps v w, t.d.op = 1 → t.d.packed = false → t.next < t.d.rows → outstanding s e ≤ 504 →
      takeHeld t (t.d.tileOfRow t.next) t.d.line s = (.ok (some row), v) →
      strXlateAll e c (t.rowAddrs t.next 8) (v.modTask t fun x => { x with next := t.next + 1 }) = (.ok ps, w) →
      (∀ p ∈ ps, ∀ q, p = some q → q.2 = true) → (∀ p ∈ ps, ∀ a b, p ≠ some (.host a, b)) →
      ∃ u, exec (.storeRow e c k) s = .next u ∧ u.stackMem = s.stackMem ∧ u.hostMem = s.hostMem ∧
        u.mem.writes.length = s.mem.writes.length + (rowBlocks ps).length) ∧
    (taskOver t = true → ∃ u, exec (.strTaskComplete e c k) s = .next u ∧ u.tasks = s.tasks.filter (fun x => !x.same t) ∧
      u.tubMem = s.tubMem) ∧
    (taskOver t = false → exec (.strTaskComplete e c k) s = .next s)

/-- R249, R269 to R271: a clean read gives its block to the row that waits for it; correctable and uncorrectable reads are
counted, by a task's read and by the patrol alike, and an uncorrectable one names its place; a write done stores its bytes and
no other; a host block comes back to its task; the copy of a retired page ends, its uncorrectable blocks marked in the spare (R271 step 3). In DOZE, in which nothing runs
(R497, log entry 98), the patrol reads nothing. -/
def Obligations.MemoryReadsAndWrites : Prop :=
  ∀ (j : Stack) (addr : Nat) (s : State), s.power.on = true →
    (addr < 85899345920 → isMarked s j (addr - addr % 128) = false → storedErr s j (addr - addr % 128) 2 = [] →
      (∀ q, storedErr s j (addr - addr % 128) 1 = [] →
        exec (.patrolRead j addr q .clean false) s = .next s ∧
        ∀ t w, s.tasks.find? (fun t => t.rows.any fun w => w.wait.elem (.dev j (addr - addr % 128))) = some t →
          t.rows.find? (fun w => w.wait.elem (.dev j (addr - addr % 128))) = some w →
          ∃ u, exec (.memReadDone j addr q .clean false) s = .next u ∧ u.tasks = s.tasks.map (fun x =>
            if x.same t = true then { x with rows := x.rows.map fun v => if v = w then { w with
              wait := w.wait.erase (.dev j (addr - addr % 128)), poison := w.poison.eraseDups } else v } else x)) ∧
      (∀ q st, ∀ i ∈ [Instr.memReadDone j addr q .correctable st, .patrolRead j addr q .correctable st],
        (s.power.doze = true → i = .memReadDone j addr q .correctable st) → ∃ u, exec i s = .next u ∧ u.str.memCe = sat32 s.str.memCe 1 ∧ u.str.memUe = s.str.memUe ∧
          u.stackMem = s.stackMem) ∧
      (∀ q st, ∀ i ∈ [Instr.memReadDone j addr q .uncorrectable st, .patrolRead j addr q .uncorrectable st],
        (s.power.doze = true → i = .memReadDone j addr q .uncorrectable st) → ∃ u, exec i s = .next u ∧ u.str.memUe = sat32 s.str.memUe 1 ∧ u.str.memCe = s.str.memCe ∧
          u.str.errLast = memErrWord s j (addr - addr % 128) 1 ∧ u.stackMem = s.stackMem)) ∧
    (∀ w, s.mem.writes.find? (fun w => w.stack == j.val && w.block == addr - addr % 128) = some w →
      ∃ u, exec (.memWriteDone j addr) s = .next u ∧ u.mem.writes = s.mem.writes.erase w ∧
        (w.parts.Pairwise (fun p q => p.1 + p.2.length ≤ q.1 ∨ q.1 + q.2.length ≤ p.1) → ∀ p ∈ w.parts,
          KV.getList 0 u.stackMem (stackKey w.stack (w.block + p.1)) p.2.length = p.2) ∧
        (∀ a, (∀ p ∈ w.parts, a < stackKey w.stack (w.block + p.1) ∨
            stackKey w.stack (w.block + p.1) + p.2.length ≤ a) →
          KV.get 0 u.stackMem a = KV.get 0 s.stackMem a) ∧ u.tubMem = s.tubMem ∧ u.hostMem = s.hostMem) ∧
    (∀ r, s.mem.retiring.find? (fun r => r.stack == j.val && !r.copied) = some r →
      ∃ u m, exec (.retirementCopyDone j) s = .next u ∧
        u.mem.retiring = s.mem.retiring.map (fun q => if q = r then { q with copied := true, marks := m } else q) ∧
        (∀ b, b ∈ m ↔ ∃ e ∈ s.mem.err, e.2 = 2 ∧ e.1 / 4 = b ∧ stackKey j (r.page * pageBig) / 32 ≤ e.1 ∧
          e.1 < (stackKey j (r.page * pageBig) + pageBig) / 32) ∧
        u.stackMem = s.stackMem ∧ u.mem.marked = s.mem.marked) ∧
    (∀ (e : Engine) (c : Slot) (k : Nat) (t : StrTask) (w : RowIn) (a : Nat), s.task? e c k = some t → t.rows = [w] →
      w.wait = [.host a] → ∃ u, exec (.hostReadCompletion e c k false) s = .next u ∧ u.hostMem = s.hostMem ∧
        u.task? e c k = some { t with rows := [{ w with wait := [], poison := w.poison.eraseDups }] })

/-! ### Presses (09_press) -/

/-- R287, R289: every Press takes the well-formed job at the head of its queue, does its work (`pressWork`), and keeps the
record of Table 9.8 until the job completes; PRESS_JOB_COMPLETE frees the Press (log entry 21). -/
def Obligations.PressJobs : Prop :=
  ∀ (j : Stack) (c : Slot) (s : State),
    (∀ e ∈ [(Instr.norm j c, 0), (.pressDecide j c, 1), (.prep j c, 2), (.cand j c, 3), (.pressVote j c, 4),
        (.commit j c, 5), (.publish j c, 6), (.gzero j c, 7), (.fold j c, 8), (.loadfold j c, 9)],
      ∀ q w r v, PressTakes s e.2 j c q w → pressWork c w (s.modSlot c (Ctx.advance 3 j)) = .ok (r, v) →
      ∃ u, exec e.1 s = .next u ∧
        KV.find? (u.slot c).press.jobs j = some ⟨q.k, pressRecord w.seq r (w.panels.length - r.refused)⟩ ∧
        u.tubMem = v.tubMem ∧ u.stackMem = v.stackMem ∧ u.hostMem = v.hostMem ∧ u.mp = v.mp) ∧
    (∀ q w sr, PressTakes s 3 j c q w → (s.slot c).press.stepRec j = some sr → sr.decision ≠ 1 →
      (∀ i ∈ w.panels, ((s.slot c).press.gen i).step = sr.s) → ∃ u, exec (.cand j c) s = .next u ∧
        u.stackMem = s.stackMem ∧ u.hostMem = s.hostMem ∧ (u.slot c).press.fails = (s.slot c).press.fails) ∧
    (∀ q w, PressTakes s 6 j c q w →
      (∀ i ∈ w.panels, ((s.slot c).press.gen i).pubGen = ((s.slot c).press.gen i).gen) →
      ∃ u, exec (.publish j c) s = .next u ∧ u.stackMem = s.stackMem ∧ u.hostMem = s.hostMem ∧
        (u.slot c).press.gens = (s.slot c).press.gens) ∧
    (∀ q w, PressTakes s 8 j c q w → (foldSteps (s.slot c).press w.panels).length ≤ 1 →
      (∀ i ∈ w.panels, foldOk s c i = true ∧ slotRefusal s c i true = none) → ∃ u h, exec (.fold j c) s = .next u ∧ h.length = 128 ∧
        u.prs.folds = sat32 s.prs.folds 1 ∧ u.stackMem = s.stackMem ∧
        (KV.get [] (u.slot c).press.folds (2 * j + w.area)).take
          (128 + (w.panels.flatMap (foldRecord s (s.slot c))).length) =
            h ++ w.panels.flatMap (foldRecord s (s.slot c))) ∧
    (∀ q w, PressTakes s 9 j c q w →
      parseFold (s.slot c).press j w.panels (KV.get [] (s.slot c).press.folds (2 * j + w.area)) = none →
      ∃ u, exec (.loadfold j c) s = .next u ∧ u.stackMem = s.stackMem ∧
        (u.slot c).press.gens = (s.slot c).press.gens ∧ ∃ e, u.mp.log.head? = some e ∧ e.code = 0x060C) ∧
    (∀ q, s.power.on = true → KV.find? (s.slot c).press.jobs j = some q → ∃ u, exec (.pressJobComplete j c) s = .next u ∧
      KV.find? (u.slot c).press.jobs j = none ∧
      ∀ i, i ≠ j.val → KV.find? (u.slot c).press.jobs i = KV.find? (s.slot c).press.jobs i)

/-- R286, R294 to R297, R304, R312, R313, R323: DECIDE writes the step record of Table 9.11 from the record it reads; NORM and VOTE of
a Press other than M0's put a record with one contributor on the ring, and a ring record reaches the lead Press; COMMIT after a
vote that passes makes the candidates current, and after one that fails, whatever the decision, makes none current, sets
vote_failed and counts the vote once per attempt; PREP with no refresh due writes nothing. -/
def Obligations.PressDecisions : Prop :=
  ∀ (j : Stack) (c : Slot) (s : State),
    (∀ q w r, PressTakes s 1 j c q w → r = globalNorm s c → ∃ u sr, exec (.pressDecide j c) s = .next u ∧
      KV.find? (u.slot c).press.recs (2 * j + r.stepMin.toNat % 2) = some sr ∧ sr.s = r.stepMin ∧
      sr.decision = (if r.contributors ≠ (s.slot c).press.pressCount then 5 else if r.stepMin ≠ r.stepMax then 4
        else if r.nonfinite ≠ 0 ∨ r.tag ≠ 0 ∨ r.poison = true then (if (s.slot c).press.halt = true then 3 else 2)
        else 1) ∧
      sr.g = f32sqrt (NAcc.f32 ⟨r.acc, r.tag⟩) ∧
      sr.c = (if (s.slot c).press.clipMax = 0 ∨ f32le sr.g (s.slot c).press.clipMax = true then f32one
        else f32div (s.slot c).press.clipMax sr.g) ∧
      (u.slot c).press.lastDec = sr.decision ∧ u.stackMem = s.stackMem ∧ u.tubMem = s.tubMem) ∧
    (∀ q w r v, PressTakes s 0 j c q w → j.val ≠ 0 → pressWork c w (s.modSlot c (Ctx.advance 3 j)) = .ok (r, v) →
      ∃ u n, exec (.norm j c) s = .next u ∧ (u.slot c).press.ring = (s.slot c).press.ring ++ [⟨j, some n, none⟩] ∧
        n.contributors = 1 ∧ u.stackMem = s.stackMem) ∧
    (∀ q w sr, PressTakes s 4 j c q w → (s.slot c).press.stepRec j = some sr → j.val ≠ 0 →
      (∀ i ∈ w.panels, ((s.slot c).press.gen i).step = sr.s) → ∃ u v, exec (.pressVote j c) s = .next u ∧
        KV.find? (u.slot c).press.votes j = some v ∧ v.s = sr.s ∧ v.contributors = 1 ∧
        v.fails = min 65535 (((s.slot c).press.onPress j).map fun i => KV.get 0 (s.slot c).press.fails i).sum ∧
        (u.slot c).press.ring = (s.slot c).press.ring ++ [⟨j, none, some v⟩]) ∧
    (∀ r n, s.power.on = true → (s.slot c).press.ring.find? (fun r => r.press == j.val) = some r → r.vote = none →
      r.norm = some n → ∃ u, exec (.ringRecord j c) s = .next u ∧ KV.find? (u.slot c).press.devNorms j = some n ∧
        (u.slot c).press.devNorm.isSome = true ∧ (u.slot c).press.ring = (s.slot c).press.ring.erase r) ∧
    (∀ q w sr v, PressTakes s 5 j c q w → (s.slot c).press.stepRec j = some sr → sr.decision = 1 →
      globalVote s c sr.s = some v → v.fails = 0 → v.contributors = (s.slot c).press.pressCount →
      (s.slot c).press.gens.length = (s.slot c).press.panels.length →
      (∀ i ∈ w.panels, ((s.slot c).press.panel i).frozen = false ∧ ((s.slot c).press.gen i).step = sr.s) →
      ∃ u, exec (.commit j c) s = .next u ∧ u.stackMem = s.stackMem ∧ ∀ i ∈ w.panels,
        ((u.slot c).press.gen i).gen = ((s.slot c).press.gen i).gen + 1 ∧
        ((u.slot c).press.gen i).step = ((s.slot c).press.gen i).step + 1) ∧
    (∀ q w sr v, PressTakes s 5 j c q w → (s.slot c).press.stepRec j = some sr → globalVote s c sr.s = some v →
      v.fails ≠ 0 ∨ v.contributors ≠ (s.slot c).press.pressCount → ∃ u, exec (.commit j c) s = .next u ∧
        (u.slot c).press.voteFailed = true ∧ (u.slot c).press.gens = (s.slot c).press.gens ∧ u.stackMem = s.stackMem ∧
        u.prs.voteFails =
          (if (s.slot c).press.logged.elem 7 = true then s.prs.voteFails else sat32 s.prs.voteFails 1)) ∧
    (∀ q w, PressTakes s 2 j c q w →
      (∀ i ∈ w.panels, slotRefusal s c i true = none ∧
        refreshDue ((s.slot c).press.groupOf i) ((s.slot c).press.gen i).step = false) →
      ∃ u, exec (.prep j c) s = .next u ∧ u.stackMem = s.stackMem ∧ u.hostMem = s.hostMem)

/-- R315: GZERO writes +0 to every element of the named gradient buffers under PROCEED and SKIP, and under HALT, SKEW and
REFUSED writes nothing and sets flag bit 2; `after` is what a failed vote has made of the step (R313). -/
def Obligations.GzeroClearsGradients : Prop :=
  ∀ (j : Stack) (c : Slot) (s : State) (q : Cmd) (w : PJob) (sr : StepRec), PressTakes s 7 j c q w →
    (s.slot c).press.stepRec j = some sr →
    ((if sr.after ≠ 0 then sr.after else sr.decision) = 1 ∨ (if sr.after ≠ 0 then sr.after else sr.decision) = 2 →
      ∃ u, exec (.gzero j c) s = .next u ∧ ∀ i ∈ w.panels, ∀ a, ((s.slot c).press.panel i).grad ≤ a →
        a < ((s.slot c).press.panel i).grad + 4 * ((s.slot c).press.panel i).elems → u.rdVaByte (s.slot c) a = 0) ∧
    (3 ≤ (if sr.after ≠ 0 then sr.after else sr.decision) → ∃ u f, exec (.gzero j c) s = .next u ∧
      u.stackMem = s.stackMem ∧ u.hostMem = s.hostMem ∧ u.tubMem = s.tubMem ∧ Nat.testBit f 2 = true ∧
      KV.find? (u.slot c).press.jobs j = some ⟨q.k, pressRecord w.seq ⟨0, f, 0, 0⟩ w.panels.length⟩)

/-! ### Tubs (06_tubs_and_lines) -/

/-- R188: slot i of a Line lies in bank bank_first + (i mod B), at relative row row_first + i ÷ B: a write by the Line's writer
puts its row at the slot of the tail peg and changes no other byte, and a read by its reader gives the row at the slot of the
head peg. -/
def Obligations.LineRowsLieInSlots : Prop :=
  ∀ (s v : State) (c l k i : Nat) (t : Tile) (n : User) (g : LineCfg) (row got : Row), lineKey? s c t l = some k →
    (s.line k).cfg = some g →
    (lineWrite s c t l n row = (.done got, v) → i = (s.line k).tail % g.size →
      KV.getList 0 v.tubMem (512 * rowKey (s.physTile t) (g.bankFirst + i % g.banks)
        (16 * (s.part c).rowBase.toNat + (g.rowFirst + i / g.banks))) 512 = rowBytes row ∧
      (∀ a, a < 512 * rowKey (s.physTile t) (g.bankFirst + i % g.banks)
          (16 * (s.part c).rowBase.toNat + (g.rowFirst + i / g.banks)) ∨
        512 * rowKey (s.physTile t) (g.bankFirst + i % g.banks)
          (16 * (s.part c).rowBase.toNat + (g.rowFirst + i / g.banks)) + 512 ≤ a →
        KV.get 0 v.tubMem a = KV.get 0 s.tubMem a) ∧ v.stackMem = s.stackMem ∧ v.hostMem = s.hostMem) ∧
    (∀ adv, lineRead s c t l n adv = (.done got, v) → i = (s.line k).head % g.size →
      got = s.rdRow (rowKey (s.physTile t) (g.bankFirst + i % g.banks)
        (16 * (s.part c).rowBase.toNat + (g.rowFirst + i / g.banks))) ∧ v.tubMem = s.tubMem)

/-! ### Mailboxes (13_hamper_and_contexts) -/

/-- R409: a sealing write that arrives while the state is SEALED, QUEUED or ACCEPTED is ignored and sets
MBX_IRQ.seal_dropped (bit 2): the mailbox keeps its one command. -/
def Obligations.SealedMailboxIgnoresWrites : Prop :=
  ∀ (m : Mbox) (fn : Fin 8) (s : State), s.power.on = true →
    (s.mbx m).st = .sealed ∨ (s.mbx m).st = .queued ∨ (s.mbx m).st = .accepted →
    ∃ u, exec (.sealingWrite m fn) s = .next u ∧ (u.mbx m).irq.getLsbD 2 = true ∧
      u = s.modMbx m (fun b => { b with irq := (u.mbx m).irq }) ∧
      ∀ i, i < 5 → i ≠ 2 → (u.mbx m).irq.getLsbD i = (s.mbx m).irq.getLsbD i

/-! ### Management (15_management_and_security) -/

/-- R463 to R469, R483: the MCTP control and PLDM requests that only ask answer from what the MP holds and change nothing but
the answer; the platform requests need READER, and a refusal for want of a role is logged as F_ROLE_DENIED (R469). A sensor of a
die that is not fitted answers unavailable (R464). A body above 4,096 bytes is more than the MP assembles (R483). The bytes of the
standards' messages are presumed (log entry 70). -/
def Obligations.ManagementQueries : Prop :=
  ∀ (i : Iface) (b : List Byte) (s : State), s.power.on = true → mctpOn i = true →
    (4096 < b.length → ∀ e ∈ [Instr.getEndpointId i b, .getMessageTypeSupport i b, .getEndpointUuid i b, .getTid i b,
        .getPldmTypes i b, .queryDeviceIdentifiers i b, .getStatus i b, .getFirmwareParameters i b,
        .getMctpVersionSupport i b, .getPldmCommands i b, .getPldmVersion i b, .getPdrRepositoryInfo i b, .getPdr i b,
        .getSensorReading i b], exec e s = .next { s with readData := [] }) ∧
    (b.length ≤ 4096 →
    (∀ e ∈ ([(Instr.getEndpointId i b, [0, KV.get 0 s.mp.eids i.origin, 0, 0]),
        (.getMessageTypeSupport i b, [0, 4, 0x00, 0x01, 0x05, 0x7E]),
        (.getEndpointUuid i b, 0 :: (List.range 16).map (Config.factory 6)), (.getTid i b, [0, Config.factory 7 0]),
        (.getPldmTypes i b, [0, 0x25, 0, 0, 0, 0, 0, 0, 0]),
        (.queryDeviceIdentifiers i b,
          ([0, 6, 0, 0, 0, 1, 0, 0, 2, 0] : List Byte) ++ (List.range 2).map (Config.factory 5)),
        (.getStatus i b, ([0] : List Byte) ++ leBytes 1 (match s.mp.update with
            | none => 0
            | some u => if u.cur.isSome = true then 3 else if u.table = [] then 1 else 2) ++
          [0, 3, 0, 0x65, 0, 0, 0, 0, 0]),
        (.getFirmwareParameters i b, ([0, 0, 0, 0, 0, 4, 0] : List Byte) ++ ([1, 2, 3].flatMap fun c => leBytes 2 c ++
          leBytes 4 ((s.mp.fw s.mp.running).version).toNat) ++ [4, 0] ++ leBytes 4 s.mp.calNow.origin)] : List (Instr × List Byte)),
      exec e.1 s = .next { s with readData := e.2 }) ∧
    (∀ t, b = [t] → (t ∈ [0#8, 1#8, 5#8, 0x7E#8, 0xFF#8] → exec (.getMctpVersionSupport i b) s =
        .next { s with readData := [0, 1] ++ leBytes 4 (Config.protocolVersion t.toNat).toNat }) ∧
      (t ∉ [0#8, 1#8, 5#8, 0x7E#8, 0xFF#8] → exec (.getMctpVersionSupport i b) s = .next { s with readData := [0x80] }) ∧
      (t ∈ [0#8, 2#8, 5#8] → ∃ r, r.length = 33 ∧ exec (.getPldmCommands i b) s = .next { s with readData := r } ∧
        ∀ k, k < 256 → ((BitVec.ofNat 256 (leNat (r.drop 1))).getLsbD k = true ↔ k ∈ pldmCodes t.toNat))) ∧
    (∀ t, b.drop 5 = [t] → (t ∈ [0#8, 2#8, 5#8] → exec (.getPldmVersion i b) s = .next { s with
        readData :=
          [0, 0, 0, 0, 0, 5] ++ leBytes 4 (Config.protocolVersion (256 + t.toNat)).toNat ++
          leBytes 4 (crc32 (leBytes 4 (Config.protocolVersion (256 + t.toNat)).toNat)).toNat }) ∧
      (t ∉ [0#8, 2#8, 5#8] → exec (.getPldmVersion i b) s = .next { s with readData := [0x83] })) ∧
    (1 ≤ roleOf s i →
      (∃ r, exec (.getPdrRepositoryInfo i b) s = .next { s with readData := r } ∧ r.head? = some 0 ∧ r.length = 41) ∧
      (1 ≤ bnum b 0 4 → bnum b 0 4 ≤ 22 → bnum b 8 1 = 1 → ∃ n, n = min (bnum b 9 2) (Config.pdr (bnum b 0 4)).length ∧
        exec (.getPdr i b) s = .next { s with
            readData :=
              [0] ++ leBytes 4 (if bnum b 0 4 = 22 then 0 else bnum b 0 4 + 1) ++
              leBytes 4 (if n = (Config.pdr (bnum b 0 4)).length then 0 else n) ++
              leBytes 1 (if n = (Config.pdr (bnum b 0 4)).length then 5 else 0) ++
              leBytes 2 n ++ (Config.pdr (bnum b 0 4)).take n }) ∧
      (1 ≤ bnum b 0 2 → bnum b 0 2 ≤ 22 → sensorFitted s (bnum b 0 2) = true → ∃ v : Byte,
        v = (if NSet.mem s.power.hot (bnum b 0 2) = true then 3 else
          if NSet.mem s.power.warm (bnum b 0 2) = true then 2 else 1) ∧
        exec (.getSensorReading i b) s = .next { s with
            readData := [0, 5, 0, 0, v, 0, v] ++
              leBytes 4 (BitVec.ofInt 32 (KV.get 0 s.mp.sensors (bnum b 0 2))).toNat }) ∧
      (1 ≤ bnum b 0 2 → bnum b 0 2 ≤ 22 → sensorFitted s (bnum b 0 2) = false →
        exec (.getSensorReading i b) s = .next { s with readData := [0, 5, 2] ++ List.replicate 8 0 })) ∧
    (roleOf s i = 0 → ∀ e ∈ [Instr.getPdrRepositoryInfo i b, .getPdr i b, .getSensorReading i b],
      ∃ u r, exec e s = .next u ∧ u.readData = [1] ∧ u.mp.log.head? = some r ∧ r.code = 0x0908))

/-- R463, R483, R484, R490: SetEndpointID gives the endpoint its identifier and SetEventReceiver names the receiver of
platform events; OP_MCTP serves a message or hands over the oldest one queued; the unit of a MGMT packet for the device that
begins a message is kept until the rest comes, and one that ends a message has it served; the I3C controller gives the device
its address, by SETDASA only to its static address 0x60 + MGMT_ADDR; boundary scan shows the pins of Connector A that the model
holds, with no rail up nothing (log entry 97). -/
def Obligations.ManagementTransports : Prop :=
  (∀ (i : Iface) (b : List Byte) (s : State), s.power.on = true → mctpOn i = true →
    (∀ op eid, b = [op, eid] → op.toNat % 4 ≤ 1 → eid ≠ 0 → eid ≠ 0xFF → ∃ u, exec (.setEndpointId i b) s = .next u ∧
      u.readData = [0, 0, eid, 0] ∧ ∀ k, KV.get 0 u.mp.eids k = if k = i.origin then eid else KV.get 0 s.mp.eids k) ∧
    (∀ g e, 2 ≤ roleOf s i → b = [g, 0, e] → ∃ u, exec (.setEventReceiver i b) s = .next u ∧ u.readData = [0] ∧
      u.mp.eventRx = if g = 0 then none else some (leBytes 1 i.origin ++ [e]))) ∧
  (∀ (m : Mbox) (s : State) (r : Request), s.power.on = true → s.request m Op.mctp = some r → r.zero 3 5 = true →
    (r.num 0 2 = 0 → r.num 2 1 = 1 → ∃ u, exec (.opMctp m) s = .next u ∧ u.mp.mbxQ = s.mp.mbxQ.drop 1 ∧
      Answered u m 0 (leBytes 2 ((s.mp.mbxQ.headD []).take 1960).length ++
        leBytes 1 (if s.mp.mbxQ.length ≤ 1 then 0 else 1) ++ List.replicate 5 0 ++ (s.mp.mbxQ.headD []).take 1960)) ∧
    (∀ a v, 0 < r.num 0 2 → r.num 2 1 = 0 → serveMsg .mailbox (r.payload.drop 8) s = (a, v) →
      ∃ u more, exec (.opMctp m) s = .next u ∧
        Answered u m 0 (leBytes 2 (a.take 1960).length ++ leBytes 1 more ++ List.replicate 5 0 ++ a.take 1960)) ∧
    (r.num 2 1 = 1 → r.num 0 2 ≠ 0 → ∃ u, exec (.opMctp m) s = .next u ∧ Answered u m 0x0802 [])) ∧
  (∀ (p : Port) (b : List Byte) (s : State), s.power.on = true → carriesType ((s.port p).code s.ghl.admitted) Pkt.mgmt = true →
    ptype b = Pkt.mgmt → b.length = 32 * pslots b → routeOf s b = .here → (s.port p).inbox = [] →
    bnum b 32 1 = 1 → bnum b 33 1 = 0 ∨ bnum b 33 1 = (KV.get 0 s.mp.eids 4).toNat → (bnum b 35 1).testBit 7 = true →
    ((bnum b 35 1).testBit 6 = true → bnum b 30 2 = 3 → (b.drop 36).take 3 = [0, 0x80, 5] →
      ∃ u, exec (.mgmtPacketReceive p b) s = .next u ∧
        u.readData = [0, 0, 5, 0, 4, 0x00, 0x01, 0x05, 0x7E] ∧ u.mp.update = s.mp.update) ∧
    ((bnum b 35 1).testBit 6 = false → bnum b 30 2 ≤ 64 → (b.drop 36).take (bnum b 30 2) ≠ [] →
      ∃ u, exec (.mgmtPacketReceive p b) s = .next u ∧ ∃ a ∈ u.mp.asm, a.src = psrc b ∧ a.tag = bnum b 35 1 % 16 ∧
        a.seq = (bnum b 35 1 / 16 + 1) % 4 ∧ a.got = (b.drop 36).take (bnum b 30 2))) ∧
  (∀ (io : IoDie) (s : State), (s.power.rails = [] → exec (.boundaryScan io) s = .next s) ∧
    (s.power.rails ≠ [] → ∃ x : Byte, exec (.boundaryScan io) s = .next { s with readData := [x] } ∧
      x.getLsbD 0 = s.power.on ∧ x.getLsbD 1 = s.power.on ∧ x.toNat / 4 % 8 = s.straps.toNat ∧
      x.getLsbD 5 = !s.power.perst)) ∧
  (∀ (w : I3cAssign) (a : Nat) (s : State), s.power.on = true → a < 128 →
    (w = .entdaa a ∨ w = .setdasa (0x60 + s.straps.toNat) a →
      exec (.i3cAddressAssignment w) s = .next (s.modMp fun p => { p with i3cAddr := some a })) ∧
    (∀ t, w = .setdasa t a → t ≠ 0x60 + s.straps.toNat → exec (.i3cAddressAssignment w) s = .next s))

/-- R479, R480, R483: an OPERATOR begins an update, names its components and transfers them; data of a component of the bundle
leaves the slot that does not run unable to boot until the bundle verifies; a verified bundle not below the rollback floor fills
it, and either outcome is a change record (R470); ACTIVATE_FIRMWARE makes it the active slot; an update can be given up, and a slot
that it had begun to write then stays without a bundle, which is a change too. -/
def Obligations.FirmwareUpdates : Prop :=
  ∀ (i : Iface) (b : List Byte) (s : State), s.power.on = true → mctpOn i = true → 2 ≤ roleOf s i → b.length ≤ 4096 →
    (s.mp.update = none → exec (.requestUpdate i b) s = .next { s with
      readData := [0, 0, 0, 0], mp := { s.mp with update := some ⟨i.origin, [], none, [], [], false, none⟩ } }) ∧
    (s.mp.update.isSome = true → exec (.requestUpdate i b) s = .next { s with readData := [0x81] }) ∧
    (∀ g, s.mp.update = some g → g.iface = i.origin →
      (1 ≤ bnum b 3 2 → bnum b 3 2 ≤ 4 → bnum b 3 2 ∉ g.table → exec (.passComponentTable i b) s = .next { s with
        readData := [0, 0, 0], mp := { s.mp with update := some { g with table := g.table ++ [bnum b 3 2] } } }) ∧
      (bnum b 2 2 ∈ g.table → g.cur = none → ∃ u, exec (.updateComponent i b) s = .next u ∧
        u.mp.update = some { g with cur := some (bnum b 2 2, bnum b 9 4), got := [] }) ∧
      (∀ id size, g.cur = some (id, size) → g.got.length + (b.length - 1) < size →
        ∃ u, exec (.firmwareDataResponse i b) s = .next u ∧
          (id ≤ 3 → u.mp.update = some { g with
              got := g.got ++ b.drop 1, ready := false, old := some (g.old.getD (s.formHash 5 (1 - s.mp.running))) } ∧
            (u.mp.fw (1 - s.mp.running)).verifies = false) ∧
          (3 < id → u.mp.update = some { g with got := g.got ++ b.drop 1 }) ∧ u.mp.active = s.mp.active) ∧
      (∀ id, g.cur = some (id, g.got.length + (b.length - 1)) → 1 ≤ id → id ≤ 3 →
        (∃ k ∈ g.table, k ≤ 3 ∧ k ≠ id ∧ ∀ e ∈ g.done, e.1 ≠ k) → ∃ u, exec (.firmwareDataResponse i b) s = .next u ∧
          u.mp.update = some { g with
            cur := none, got := [], done := g.done.filter (fun e => e.1 != id) ++ [(id, g.got ++ b.drop 1)]
            ready := false, old := some (g.old.getD (s.formHash 5 (1 - s.mp.running))) }) ∧
      (g.cur = none → g.ready = true → exec (.activateFirmware i b) s = .next { s with
        readData := [0, 0, 0], mp := { s.mp with active := 1 - s.mp.running, update := none } }) ∧
      (g.cur.isSome = true → exec (.activateFirmware i b) s = .next { s with readData := [0x85] }) ∧
      (g.cur.isSome = true → exec (.cancelUpdateComponent i b) s = .next { s with
        readData := [0], mp := { s.mp with update := some { g with cur := none, got := [] } } }) ∧
      (g.old = none → exec (.cancelUpdate i b) s = .next { s with
        readData := List.replicate 10 0, mp := { s.mp with update := none } }) ∧
      (g.old.isSome = true → ∃ u, exec (.cancelUpdate i b) s = .next u ∧ u.readData = List.replicate 10 0 ∧
        u.mp.update = none ∧ (u.mp.fw (1 - s.mp.running)).verifies = false ∧ s.mp.changeSeq < u.mp.changeSeq) ∧
      (∀ id, g.cur = some (id, g.got.length + (b.length - 1)) → 1 ≤ id → id ≤ 3 → id ∈ g.table →
        (∀ k ∈ g.table, k ≤ 3 → k ≠ id → ∃ e ∈ g.done, e.1 = k) → ∃ u, exec (.firmwareDataResponse i b) s = .next u ∧
          (u.mp.fw (1 - s.mp.running)).good = false ∧ ((u.mp.fw (1 - s.mp.running)).verifies =
            match Config.bundle (g.done.filter (fun e => e.1 != id) ++ [(id, g.got ++ b.drop 1)]) with
            | some v => decide (s.mp.floor ≤ bitsOf v.toNat 29 24)
            | none => false) ∧ s.mp.changeSeq < u.mp.changeSeq))

/-- R481, R482: over MCTP and DOE the responder gives its versions, then its capabilities, then its algorithms, and serves the
other requests only after these; digests and certificates are those of slot 0, a challenge and the measurements are signed
with bytes the model leaves open (log entry 1). -/
def Obligations.SpdmRequests : Prop :=
  ∀ (i : Iface) (b : List Byte) (s : State), s.power.on = true → i ≠ .uart → (i ≠ .doe → b.length ≤ 4096) →
    (exec (.getVersion i b) s = .next { s with
        readData := [0x04, 0, 0, 0, 2, 0x00, 0x12, 0x00, 0x13]
        mp := { s.mp with spdm := ⟨some 0, false, false⟩ } }) ∧
    (s.mp.spdm.version.isSome = true → ∃ r, exec (.getCapabilities i b) s = .next { s with
        readData := r
        mp := { s.mp with spdm := { s.mp.spdm with caps := true, algs := false } } } ∧ r.head? = some 0x61) ∧
    (s.mp.spdm.caps = true → ∃ r, exec (.negotiateAlgorithms i b) s = .next { s with
        readData := r
        mp := { s.mp with spdm := { s.mp.spdm with algs := true } } } ∧ r.head? = some 0x63) ∧
    (s.mp.spdm.algs = false → ∀ e ∈ [Instr.getDigests i b, .getCertificate i b, .challenge i b, .getMeasurements i b],
      exec e s = .next { s with readData := [0x7F, 4, 0] }) ∧
    (s.mp.spdm.algs = true →
      exec (.getDigests i b) s = .next { s with readData := [0x01, 0, 1] ++ sha384 (chain0 s) } ∧
      (bnum b 0 1 % 16 = 0 → ∃ n, n = min (bnum b 4 2) 1024 ∧
        exec (.getCertificate i b) s = .next { s with
            readData := if (chain0 s).length ≤ bnum b 2 2 then [0x7F, 1, 0] else [0x02, 0, 0] ++
              leBytes 2 (((chain0 s).drop (bnum b 2 2)).take n).length ++
              leBytes 2 (((chain0 s).drop (bnum b 2 2)).length - (((chain0 s).drop (bnum b 2 2)).take n).length) ++
              ((chain0 s).drop (bnum b 2 2)).take n }) ∧
      (bnum b 0 1 % 16 = 0 → ∃ r, exec (.challenge i b) s = .next { s with readData := r, freeCtr := s.freeCtr + 16 } ∧
        r.take 51 = [0x03, 0, 1] ++ sha384 (chain0 s)) ∧
      (1 ≤ bnum b 1 1 → bnum b 1 1 ≤ 9 → bnum b 0 1 % 2 = 0 → ∃ r,
        exec (.getMeasurements i b) s = .next { s with readData := r, freeCtr := s.freeCtr + 4 } ∧
        r.take 4 = [0x60, 0, 0, 1] ∧ (r.drop 7).take (measBlock s (bnum b 1 1)).length = measBlock s (bnum b 1 1)) ∧
      (bnum b 1 1 = 0 → bnum b 0 1 % 2 = 0 → ∃ r,
        exec (.getMeasurements i b) s = .next { s with readData := r, freeCtr := s.freeCtr + 4 } ∧
        r.take 4 = [0x60, 9, 0, 0]))

/-- R465 to R472, R477, R480 and Table 15.6: the vendor commands with the role they need. A command that lacks its role answers
F_ROLE_DENIED and logs it; OWNER commands need the owner's signature, and only an accepted one raises the owner counter; a
service record that clears RETIRED leaves it where a condition of Table 14.7 still stands. -/
def Obligations.VendorCommands : Prop :=
  ∀ (i : Iface) (b : List Byte) (s : State), s.power.on = true → i ≠ .doe → (i ≠ .uart → b.length ≤ 4096) →
    (∀ e ∈ [(Instr.getLog i b, 1), (.getChanges i b, 1), (.serviceChallenge i b, 1), (.serviceRecord i b, 1),
        (.setTime i b, 2), (.setConfig i b, 2), (.commitSvn i b, 2)],
      roleOf s i < e.2 → ∃ u r, exec e.1 s = .next u ∧ u.readData = leBytes 2 0x0908 ∧ u.mp.log.head? = some r ∧
        r.code = 0x0908 ∧ u.mp.config = s.mp.config ∧ u.mp.floor = s.mp.floor) ∧
    (1 ≤ roleOf s i →
      (s.mp.flashLog = [] → 32 * s.mp.log.length ≤ limitOf i - 6 → bnum b 0 4 = 0 → exec (.getLog i b) s =
        .next { s with readData := [0, 0] ++ s.mp.log.reverse.flatMap EvRec.bytes }) ∧
      (192 * s.mp.changes.length ≤ limitOf i - 6 → bnum b 0 8 = 0 → exec (.getChanges i b) s =
        .next { s with readData := [0, 0] ++ s.mp.changes.reverse.flatMap ChangeRec.bytes }) ∧
      exec (.serviceChallenge i b) s = .next { s with readData := [0, 0] ++ leBytes 4 s.mp.serviceCtr.toNat } ∧
      (∃ u, exec (.serviceRecord i b) s = .next u ∧
        if serviceOk s b = true then
          u.readData = [0, 0] ∧ u.mp.serviceCtr = s.mp.serviceCtr + 1 ∧
          (bnum b 20 4 = 2 → u.mp.debugUnlocked = true) ∧ (bnum b 20 4 = 1 → u.mp.retired = stillRetired s)
        else u.readData = leBytes 2 0x090C ∧ u.mp.serviceCtr = s.mp.serviceCtr ∧
          ∃ r, u.mp.log.head? = some r ∧ r.code = 0x090C)) ∧
    (2 ≤ roleOf s i →
      (bnum b 0 8 < 2 ^ 63 → (s.mp.wall.isSome = true → s.time.toNat ≤ bnum b 0 8) → exec (.setTime i b) s =
        .next { s with readData := [0, 0], mp := { s.mp with wall := some (bnum b 0 8, s.now) } }) ∧
      (s.mp.wall.isSome = true → bnum b 0 8 < s.time.toNat →
        exec (.setTime i b) s = .next { s with readData := leBytes 2 0x090D }) ∧
      (∀ g, s.mp.config.put (bnum b 0 1) (b.drop 1) = some g → ∃ u, exec (.setConfig i b) s = .next u ∧
        u.readData = [0, 0] ∧ u.mp.config = g ∧ s.mp.changeSeq < u.mp.changeSeq) ∧
      (s.mp.config.put (bnum b 0 1) (b.drop 1) = none → exec (.setConfig i b) s =
        .next { s with readData := leBytes 2 0x0802 }) ∧
      ((s.mp.fw s.mp.running).good = true → (s.mp.fw s.mp.running).svn.toNat ≤ 63 →
        s.mp.floor < (s.mp.fw s.mp.running).svn.toNat → ∃ u, exec (.commitSvn i b) s = .next u ∧ u.readData = [0, 0] ∧
          u.mp.floor = (s.mp.fw s.mp.running).svn.toNat) ∧
      (s.mp.ownerKey = none → b.length = 96 → ∃ u, exec (.takeOwnership i b) s = .next u ∧ u.readData = [0, 0] ∧
        u.mp.ownerKey = some b)) ∧
    ((∀ x ∈ b.take 5, x.toNat ≤ 3) → 1 ≤ (b.headD 0).toNat → 5 ≤ b.length → ∃ u, exec (.setRoles i b) s = .next u ∧
      if ownerSigned s (b.take 5) (b.drop 5) = true then
        u.readData = [0, 0] ∧ u.mp.ownerCtr = s.mp.ownerCtr + 1 ∧
          ∀ k, k < 5 → KV.get 0 u.mp.roles (k + 1) = (b.getD k 0).toNat
      else u.readData = leBytes 2 0x090A ∧ u.mp.roles = s.mp.roles ∧ u.mp.ownerCtr = s.mp.ownerCtr ∧
        ∃ r, u.mp.log.head? = some r ∧ r.code = 0x090A) ∧
    (ownerSigned s (b.take 5) (b.drop 5) = true → (∃ x ∈ b.take 5, 3 < x.toNat) ∨ b.headD 0 = 0 →
      exec (.setRoles i b) s = .next { s with readData := leBytes 2 0x0802 }) ∧
    (s.mp.ownerKey = none → ∃ u, exec (.setRoles i b) s = .next u ∧ u.readData = leBytes 2 0x090A ∧
      u.mp.roles = s.mp.roles)
end

