-- ==== Sys2Proof/Laws/Sparse.lean ====
section
/-!
SUPPORT. Laws of the sparse tables: a read after a write, and that every operation keeps the canonical form.
-/

namespace Sys2Proof.KV

variable {α : Type}

/-! ### Reads after writes -/

theorem get_erase_self (d : α) (m : KV α) (k : Nat) : get d (erase m k) k = d := by
  induction m with
  | nil => rfl
  | cons e m ih =>
    obtain ⟨k', v⟩ := e
    by_cases h : k' = k <;> simp [erase, get, h, ih]

theorem get_erase_other (d : α) (m : KV α) {k j : Nat} (h : j ≠ k) : get d (erase m k) j = get d m j := by
  induction m with
  | nil => rfl
  | cons e m ih =>
    obtain ⟨k', v⟩ := e
    by_cases hk : k' = k
    · have : k' ≠ j := fun e => h (e.symm.trans hk)
      simp [erase, get, hk, ih]; intro e; exact absurd e.symm h
    · simp [erase, get, hk, ih]

theorem get_insert_self (d : α) (m : KV α) (k : Nat) (v : α) : get d (insert m k v) k = v := by
  induction m with
  | nil => simp [insert, get]
  | cons e m ih =>
    obtain ⟨k', v'⟩ := e
    by_cases h : k < k'
    · simp [insert, get, h]
    · by_cases h2 : k = k'
      · simp [insert, get, h2]
      · have : k' ≠ k := fun e => h2 e.symm
        simp [insert, get, h, h2, this, ih]

theorem get_insert_other (d : α) (m : KV α) {k j : Nat} (v : α) (h : j ≠ k) :
    get d (insert m k v) j = get d m j := by
  induction m with
  | nil => simp [insert, get]; intro e; exact absurd e.symm h
  | cons e m ih =>
    obtain ⟨k', v'⟩ := e
    have hkj : k ≠ j := fun e => h e.symm
    by_cases h1 : k < k'
    · simp [insert, get, h1, hkj]
    · by_cases h2 : k = k'
      · subst h2; simp [insert, get, hkj]
      · simp [insert, get, h1, h2, ih]

/-- A read of the key just written gives the value written. -/
@[simp] theorem get_set_self [DecidableEq α] (d : α) (m : KV α) (k : Nat) (v : α) : get d (set d m k v) k = v := by
  unfold set
  split
  · rename_i h; rw [get_erase_self, h]
  · rw [get_insert_self]

/-- A write leaves every other key as it was. -/
theorem get_set_other [DecidableEq α] (d : α) (m : KV α) {k j : Nat} (v : α) (h : j ≠ k) :
    get d (set d m k v) j = get d m j := by
  unfold set
  split
  · rw [get_erase_other d m h]
  · rw [get_insert_other d m v h]

theorem get_set [DecidableEq α] (d : α) (m : KV α) (k j : Nat) (v : α) :
    get d (set d m k v) j = if j = k then v else get d m j := by
  split
  · rename_i h; rw [h, get_set_self]
  · rename_i h; rw [get_set_other d m v h]

@[simp] theorem get_upd_self [DecidableEq α] (d : α) (m : KV α) (k : Nat) (f : α → α) :
    get d (upd d m k f) k = f (get d m k) := get_set_self d m k _

theorem get_upd_other [DecidableEq α] (d : α) (m : KV α) {k j : Nat} (f : α → α) (h : j ≠ k) :
    get d (upd d m k f) j = get d m j := get_set_other d m _ h

theorem get_upd [DecidableEq α] (d : α) (m : KV α) (k j : Nat) (f : α → α) :
    get d (upd d m k f) j = if j = k then f (get d m k) else get d m j := get_set d m k j _

@[simp] theorem get_nil (d : α) (k : Nat) : get d [] k = d := rfl

/-- A write of a list leaves every key outside it as it was. -/
theorem get_setList_outside [DecidableEq α] (d : α) (vs : List α) :
    ∀ (m : KV α) (k j : Nat), (j < k ∨ k + vs.length ≤ j) → get d (setList d m k vs) j = get d m j := by
  induction vs with
  | nil => intro m k j _; rfl
  | cons v vs ih =>
    intro m k j h
    simp only [List.length_cons] at h
    rw [setList, ih _ _ _ (by omega), get_set_other d m v (by omega)]

/-- A read inside a list just written gives its value there. -/
theorem get_setList_inside [DecidableEq α] (d : α) (vs : List α) :
    ∀ (m : KV α) (k i : Nat) (h : i < vs.length), get d (setList d m k vs) (k + i) = vs[i] := by
  induction vs with
  | nil => intro m k i h; exact absurd h (by simp)
  | cons v vs ih =>
    intro m k i h
    cases i with
    | zero => rw [setList, get_setList_outside d vs _ _ _ (by omega)]; simp
    | succ i =>
      rw [setList, show k + (i + 1) = k + 1 + i by omega, ih _ _ _ (by simpa using h)]; simp

/-- Reading back a list just written gives the list. -/
theorem getList_setList [DecidableEq α] (d : α) (m : KV α) (k : Nat) (vs : List α) :
    getList d (setList d m k vs) k vs.length = vs := by
  have key : ∀ (n k : Nat) (m : KV α), getList d m k n = (List.range n).map (fun i => get d m (k + i)) := by
    intro n
    induction n with
    | zero => intro k m; rfl
    | succ n ih =>
      intro k m
      rw [getList, ih, List.range_succ_eq_map]
      simp [Function.comp_def, Nat.add_assoc, Nat.add_comm 1]
  rw [key]
  apply List.ext_getElem
  · simp
  · intro i h1 h2
    simp only [List.getElem_map, List.getElem_range]
    exact get_setList_inside d vs m k i h2

/-! ### The canonical form -/

theorem wf_iff [DecidableEq α] (d : α) (m : KV α) :
    wf d m = true ↔ (m.map Prod.fst).Pairwise (· < ·) ∧ ∀ e ∈ m, e.2 ≠ d := by
  simp [wf]

theorem wf_nil [DecidableEq α] (d : α) : wf d ([] : KV α) = true := by simp [wf]

theorem wf_sub [DecidableEq α] {d : α} {m m' : KV α} (h : wf d m = true) (hs : m'.Sublist m) : wf d m' = true := by
  rw [wf_iff] at h ⊢
  exact ⟨h.1.sublist (hs.map _), fun e he => h.2 e (hs.subset he)⟩

theorem erase_sublist (m : KV α) (k : Nat) : (erase m k).Sublist m := by
  induction m with
  | nil => exact List.Sublist.refl _
  | cons e m ih =>
    obtain ⟨k', v⟩ := e
    by_cases h : k' = k
    · simp only [erase, h, if_true]; exact ih.cons _
    · simp only [erase, h, if_false]; exact ih.cons₂ _

theorem wf_erase [DecidableEq α] {d : α} {m : KV α} (h : wf d m = true) (k : Nat) : wf d (erase m k) = true :=
  wf_sub h (erase_sublist m k)

theorem wf_filter [DecidableEq α] {d : α} {m : KV α} (h : wf d m = true) (p : Nat × α → Bool) :
    wf d (m.filter p) = true := wf_sub h (List.filter_sublist)

theorem wf_eraseRange [DecidableEq α] {d : α} {m : KV α} (h : wf d m = true) (lo hi : Nat) :
    wf d (eraseRange m lo hi) = true := wf_filter h _

theorem mem_insert (m : KV α) (k : Nat) (v : α) : ∀ e, e ∈ insert m k v → e = (k, v) ∨ e ∈ m := by
  induction m with
  | nil => intro e he; simpa [insert] using he
  | cons a m ih =>
    obtain ⟨k', v'⟩ := a
    intro e he
    by_cases h1 : k < k'
    · simpa [insert, h1] using he
    · by_cases h2 : k = k'
      · simp only [insert, h2, lt_irrefl, if_false, if_true, List.mem_cons] at he ⊢
        rcases he with he | he
        · exact .inl he
        · exact .inr (.inr he)
      · simp only [insert, h1, h2, if_false, List.mem_cons] at he ⊢
        rcases he with he | he
        · exact .inr (.inl he)
        · rcases ih e he with h | h
          · exact .inl h
          · exact .inr (.inr h)

theorem wf_insert [DecidableEq α] {d : α} {m : KV α} (h : wf d m = true) (k : Nat) {v : α} (hv : v ≠ d) :
    wf d (insert m k v) = true := by
  rw [wf_iff] at h ⊢
  refine ⟨?_, fun e he => ?_⟩
  · induction m with
    | nil => simp [insert]
    | cons a m ih =>
      obtain ⟨k', v'⟩ := a
      obtain ⟨hp, hd⟩ := h
      simp only [List.map_cons, List.pairwise_cons] at hp
      have hd' : ∀ e ∈ m, e.2 ≠ d := fun e he => hd e (by simp [he])
      by_cases h1 : k < k'
      · simp only [insert, h1, if_true, List.map_cons, List.pairwise_cons]
        refine ⟨fun x hx => ?_, hp.1, hp.2⟩
        rcases List.mem_cons.1 hx with hx | hx
        · omega
        · have := hp.1 x hx; omega
      · by_cases h2 : k = k'
        · subst h2
          simp only [insert, lt_irrefl, if_false, if_true, List.map_cons, List.pairwise_cons]
          exact hp
        · simp only [insert, h1, h2, if_false, List.map_cons, List.pairwise_cons]
          refine ⟨fun x hx => ?_, ih ⟨hp.2, hd'⟩⟩
          obtain ⟨e, he, rfl⟩ := List.mem_map.1 hx
          rcases mem_insert m k v e he with h | h
          · subst h; show k' < k; omega
          · exact hp.1 _ (List.mem_map_of_mem h)
  · rcases mem_insert m k v e he with h' | h'
    · subst h'; exact hv
    · exact h.2 e h'

/-- A write keeps the canonical form. -/
theorem wf_set [DecidableEq α] {d : α} {m : KV α} (h : wf d m = true) (k : Nat) (v : α) :
    wf d (set d m k v) = true := by
  unfold set
  split
  · exact wf_erase h k
  · rename_i hv; exact wf_insert h k hv

theorem wf_upd [DecidableEq α] {d : α} {m : KV α} (h : wf d m = true) (k : Nat) (f : α → α) :
    wf d (upd d m k f) = true := wf_set h k _

theorem wf_setList [DecidableEq α] {d : α} (vs : List α) :
    ∀ {m : KV α} (_ : wf d m = true) (k : Nat), wf d (setList d m k vs) = true := by
  induction vs with
  | nil => intro m h k; exact h
  | cons v vs ih => intro m h k; exact ih (wf_set h k v) (k + 1)

/-- Two canonical tables that read alike are equal. -/
theorem ext [DecidableEq α] {d : α} : ∀ {m m' : KV α}, wf d m = true → wf d m' = true →
    (∀ k, get d m k = get d m' k) → m = m' := by
  have low : ∀ {m : KV α} {k : Nat}, (∀ x ∈ m.map Prod.fst, k < x) → get d m k = d := by
    intro m k
    induction m with
    | nil => intro _; rfl
    | cons a m ih =>
      obtain ⟨k', v'⟩ := a
      intro h
      have : k < k' := h k' (by simp)
      simp only [get, show k' ≠ k by omega, if_false]
      exact ih (fun x hx => h x (by simp only [List.map_cons, List.mem_cons]; exact .inr hx))
  intro m
  induction m with
  | nil =>
    intro m' _ h' hg
    cases m' with
    | nil => rfl
    | cons b m' =>
      obtain ⟨k, v⟩ := b
      have := hg k
      rw [wf_iff] at h'
      simp only [get_nil, get, if_true] at this
      exact absurd this.symm (h'.2 (k, v) (by simp))
  | cons a m ih =>
    obtain ⟨k, v⟩ := a
    intro m' h h' hg
    have hw := (wf_iff d _).1 h
    have hp := hw.1
    simp only [List.map_cons, List.pairwise_cons] at hp
    cases m' with
    | nil =>
      have := hg k
      simp only [get_nil, get, if_true] at this
      exact absurd this (hw.2 (k, v) (by simp))
    | cons b m' =>
      obtain ⟨k2, v2⟩ := b
      have hw' := (wf_iff d _).1 h'
      have hp' := hw'.1
      simp only [List.map_cons, List.pairwise_cons] at hp'
      have hk : k = k2 := by
        rcases Nat.lt_trichotomy k k2 with hlt | heq | hgt
        · have := hg k
          simp only [get, if_true, show k2 ≠ k by omega, if_false] at this
          rw [low (fun x hx => Nat.lt_trans hlt (hp'.1 x hx))] at this
          exact absurd this (hw.2 (k, v) (by simp))
        · exact heq
        · have := hg k2
          simp only [get, if_true, show k ≠ k2 by omega, if_false] at this
          rw [low (fun x hx => Nat.lt_trans hgt (hp.1 x hx))] at this
          exact absurd this.symm (hw'.2 (k2, v2) (by simp))
      subst hk
      have hv : v = v2 := by simpa [get] using hg k
      subst hv
      congr 1
      refine ih (wf_sub h (List.sublist_cons_self _ _)) (wf_sub h' (List.sublist_cons_self _ _)) (fun j => ?_)
      by_cases hj : k = j
      · subst hj
        rw [low hp.1, low hp'.1]
      · simpa [get, hj] using hg j

end Sys2Proof.KV
end

