-- ==== Sys2Proof/Laws/Store.lean ====
section
/-!
SUPPORT. The stores' invariant (`StoreInv`): what it needs of a state, and that the named operations keep it. Answers that
carry a state beside other data keep it in the sense of the predicates below.
-/

namespace Sys2Proof.Laws

open Machine

/-- The state of a pair satisfies the invariant. -/
def PairOk {α : Type} (p : α × State) : Prop := StoreInv p.2
/-- The state of an answer, if it has one, satisfies the invariant. -/
def OptOk (o : Option State) : Prop := ∀ t, o = some t → StoreInv t
def OptPairOk {α : Type} (o : Option (α × State)) : Prop := ∀ p, o = some p → StoreInv p.2
def ExOk (r : Except Nat State) : Prop := ∀ t, r = .ok t → StoreInv t
def ExPairOk {α : Type} (r : Except Nat (α × State)) : Prop := ∀ p, r = .ok p → StoreInv p.2
def ExTripOk {α β : Type} (r : Except Nat (α × β × State)) : Prop := ∀ p, r = .ok p → StoreInv p.2.2
def CmdOk : CmdRes → Prop
  | .refuse _ => True
  | .done s => StoreInv s
  | .wait s => StoreInv s
/-- The next state of a command, if it has one, satisfies the invariant. -/
def ResOk (r : Res) : Prop := ∀ t, r = .next t → StoreInv t

section Shapes

variable {α β γ : Type}

theorem PairOk.mk {a : α} {s : State} (h : StoreInv s) : PairOk (a, s) := h
theorem PairOk.of {p : α × State} (h : PairOk p) {a : α} {t : State} (e : p = (a, t)) : StoreInv t := by
  subst e; exact h
theorem OptOk.some {s : State} (h : StoreInv s) : OptOk (some s) := by intro t e; cases e; exact h
theorem OptOk.none : OptOk none := by intro t e; cases e
theorem OptOk.of {o : Option State} (h : OptOk o) {t : State} (e : o = Option.some t) : StoreInv t := h t e
theorem OptPairOk.some {a : α} {s : State} (h : StoreInv s) : OptPairOk (some (a, s)) := by
  intro t e; cases e; exact h
theorem OptPairOk.none : OptPairOk (none : Option (α × State)) := by intro t e; cases e
theorem OptPairOk.of {o : Option (α × State)} (h : OptPairOk o) {a : α} {t : State} (e : o = Option.some (a, t)) :
    StoreInv t := h _ e
theorem ExOk.ok {s : State} (h : StoreInv s) : ExOk (.ok s) := by intro t e; cases e; exact h
theorem ExOk.error {n : Nat} : ExOk (.error n) := by intro t e; cases e
theorem ExOk.of {r : Except Nat State} (h : ExOk r) {t : State} (e : r = .ok t) : StoreInv t := h t e
theorem ExPairOk.ok {a : α} {s : State} (h : StoreInv s) : ExPairOk (.ok (a, s)) := by
  intro t e; cases e; exact h
theorem ExPairOk.error {n : Nat} : ExPairOk (.error n : Except Nat (α × State)) := by intro t e; cases e
theorem ExPairOk.of {r : Except Nat (α × State)} (h : ExPairOk r) {a : α} {t : State} (e : r = .ok (a, t)) :
    StoreInv t := h _ e
theorem ExTripOk.ok {a : α} {b : β} {s : State} (h : StoreInv s) : ExTripOk (.ok (a, b, s)) := by
  intro t e; cases e; exact h
theorem ExTripOk.error {n : Nat} : ExTripOk (.error n : Except Nat (α × β × State)) := by intro t e; cases e
theorem ExTripOk.of {r : Except Nat (α × β × State)} (h : ExTripOk r) {a : α} {b : β} {t : State}
    (e : r = .ok (a, b, t)) : StoreInv t := h _ e
theorem CmdOk.refused {n : Nat} : CmdOk (.refuse n) := trivial
theorem CmdOk.completed {s : State} (h : StoreInv s) : CmdOk (.done s) := h
theorem CmdOk.waits {s : State} (h : StoreInv s) : CmdOk (.wait s) := h
theorem CmdOk.ofDone {r : CmdRes} (h : CmdOk r) {s : State} (e : r = .done s) : StoreInv s := by subst e; exact h
theorem CmdOk.ofWait {r : CmdRes} (h : CmdOk r) {s : State} (e : r = .wait s) : StoreInv s := by subst e; exact h
theorem ResOk.next {s : State} (h : StoreInv s) : ResOk (.next s) := by intro t e; cases e; exact h
theorem ResOk.fault {f : Fault} : ResOk (.fault f) := by intro t e; cases e

/-- A named state that satisfies the invariant is one that what follows may use. -/
theorem bound_state {x v : State} {Q : Prop} (e : x = v) (h : StoreInv v) (k : StoreInv x → Q) : Q := k (e ▸ h)
theorem bound_pair {x v : α × State} {Q : Prop} (e : x = v) (h : PairOk v) (k : PairOk x → Q) : Q := k (e ▸ h)
theorem bound_ex {x v : Except Nat (α × State)} {Q : Prop} (e : x = v) (h : ExPairOk v) (k : ExPairOk x → Q) : Q :=
  k (e ▸ h)
theorem bound_trip {x v : Except Nat (α × β × State)} {Q : Prop} (e : x = v) (h : ExTripOk v) (k : ExTripOk x → Q) :
    Q := k (e ▸ h)
theorem bound_fun {x v : α → State} {Q : Prop} (e : x = v) (h : ∀ a, StoreInv (v a)) (k : (∀ a, StoreInv (x a)) → Q) :
    Q := k (e ▸ h)
theorem bound_map {x v : State → State} {Q : Prop} (e : x = v) (h : ∀ s, StoreInv s → StoreInv (v s))
    (k : (∀ s, StoreInv s → StoreInv (x s)) → Q) : Q := k (e ▸ h)
theorem ite_either {P : β → Prop} {c : Prop} [Decidable c] {a b : β} (ha : P a) (hb : P b) :
    P (if c then a else b) := by split <;> assumption

theorem snd_ok {p : α × State} (h : PairOk p) : StoreInv p.2 := h

end Shapes

/-- A state whose stores are those of one that satisfies the invariant. -/
theorem of_same {s t : State} (h1 : t.tubMem = s.tubMem) (h2 : t.stackMem = s.stackMem) (h3 : t.hostMem = s.hostMem)
    (h4 : t.fuses = s.fuses) (h5 : t.mp.log = s.mp.log) (h6 : t.mp.flashLog = s.mp.flashLog)
    (h7 : t.mp.changes = s.mp.changes) (h8 : t.mp.tstQ = s.mp.tstQ) (h9 : t.mp.tstBusy = s.mp.tstBusy)
    (h10 : t.mp.mbxQ = s.mp.mbxQ) (h11 : t.mp.health = s.mp.health) (h : StoreInv s) : StoreInv t := by
  obtain ⟨⟨a, b, c⟩, d, e, f, g, i, j, k⟩ := h
  refine ⟨⟨?_, ?_, ?_⟩, ?_, ?_, ?_, ?_, ?_, ?_, ?_⟩
  · rw [h1]; exact a
  · rw [h2]; exact b
  · rw [h3]; exact c
  · unfold AssemblyLegal; rw [h4]; exact d
  · rw [h5]; exact e
  · rw [h6]; exact f
  · rw [h7]; exact g
  · rw [h8, h9]; exact i
  · rw [h10]; exact j
  · rw [h11]; exact k

/-- A change of anything but the stores. -/
theorem of_fields {s : State} {f_now f_pending f_freeCtr f_readData f_straps f_hamper f_stroke f_slots f_tub f_vunits f_ftabs
  f_bypass f_mgl f_seams f_tasks f_xcache f_mem f_prs f_ghl f_seqTab f_str f_power f_hostErr} (h : StoreInv s) :
    StoreInv
      ⟨f_now, f_pending, f_freeCtr, f_readData, s.fuses, f_straps, f_hamper, f_stroke, f_slots, f_tub, f_vunits, f_ftabs,
        f_bypass, f_mgl, f_seams, f_tasks, f_xcache, f_mem, f_prs, f_ghl, f_seqTab, f_str, s.mp, f_power, s.tubMem,
        s.stackMem, s.hostMem, f_hostErr⟩ :=
  of_same (s := s) rfl rfl rfl rfl rfl rfl rfl rfl rfl rfl rfl h

/-- A change of anything but the stores, the MP's record among it. -/
theorem of_fields_mp {s : State} {f_now f_pending f_freeCtr f_readData f_straps f_hamper f_stroke f_slots f_tub f_vunits
  f_ftabs f_bypass f_mgl f_seams f_tasks f_xcache f_mem f_prs f_ghl f_seqTab f_str f_power f_hostErr} {m : Mp} (h5 : m.log =
  s.mp.log)
    (h6 : m.flashLog = s.mp.flashLog) (h7 : m.changes = s.mp.changes) (h8 : m.tstQ = s.mp.tstQ)
    (h9 : m.tstBusy = s.mp.tstBusy) (h10 : m.mbxQ = s.mp.mbxQ) (h11 : m.health = s.mp.health) (h : StoreInv s) :
    StoreInv
      ⟨f_now, f_pending, f_freeCtr, f_readData, s.fuses, f_straps, f_hamper, f_stroke, f_slots, f_tub, f_vunits, f_ftabs,
        f_bypass, f_mgl, f_seams, f_tasks, f_xcache, f_mem, f_prs, f_ghl, f_seqTab, f_str, m, f_power, s.tubMem,
        s.stackMem, s.hostMem, f_hostErr⟩ :=
  of_same (s := s) rfl rfl rfl rfl h5 h6 h7 h8 h9 h10 h11 h

/-- The memories change and keep their form; all else of the stores is the same. -/
theorem of_memory {s t : State} (h1 : KV.wf 0 s.tubMem = true → KV.wf 0 t.tubMem = true)
    (h2 : KV.wf 0 s.stackMem = true → KV.wf 0 t.stackMem = true)
    (h3 : KV.wf 0 s.hostMem = true → KV.wf 0 t.hostMem = true)
    (h4 : t.fuses = s.fuses) (h5 : t.mp = s.mp) (h : StoreInv s) : StoreInv t := by
  obtain ⟨⟨a, b, c⟩, d, e, f, g, i, j, k⟩ := h
  refine ⟨⟨h1 a, h2 b, h3 c⟩, ?_, ?_, ?_, ?_, ?_, ?_, ?_⟩
  · unfold AssemblyLegal; rw [h4]; exact d
  all_goals (rw [h5]; assumption)

/-- A change of the memories that keeps their form. -/
theorem of_fields_mem {s : State} {f_now f_pending f_freeCtr f_readData f_straps f_hamper f_stroke f_slots f_tub f_vunits
      f_ftabs f_bypass f_mgl f_seams f_tasks f_xcache f_mem f_prs f_ghl f_seqTab f_str f_power f_hostErr} {m1 m2 m3 : KV Byte}
    (h1 : KV.wf 0 s.tubMem = true → KV.wf 0 m1 = true) (h2 : KV.wf 0 s.stackMem = true → KV.wf 0 m2 = true)
    (h3 : KV.wf 0 s.hostMem = true → KV.wf 0 m3 = true) (h : StoreInv s) :
    StoreInv
      ⟨f_now, f_pending, f_freeCtr, f_readData, s.fuses, f_straps, f_hamper, f_stroke, f_slots, f_tub, f_vunits, f_ftabs,
      f_bypass, f_mgl, f_seams, f_tasks, f_xcache, f_mem, f_prs, f_ghl, f_seqTab, f_str, s.mp, f_power, m1, m2, m3, f_hostErr⟩ :=
  of_memory (s := s) h1 h2 h3 rfl rfl h

/-- A change of the MP's record that leaves its logs and queues. -/
theorem modMp_same {f : Mp → Mp} {s : State} (h5 : (f s.mp).log = s.mp.log) (h6 : (f s.mp).flashLog = s.mp.flashLog)
    (h7 : (f s.mp).changes = s.mp.changes) (h8 : (f s.mp).tstQ = s.mp.tstQ) (h9 : (f s.mp).tstBusy = s.mp.tstBusy)
    (h10 : (f s.mp).mbxQ = s.mp.mbxQ) (h11 : (f s.mp).health = s.mp.health) (h : StoreInv s) :
    StoreInv (s.modMp f) := of_same (s := s) rfl rfl rfl rfl h5 h6 h7 h8 h9 h10 h11 h

/-- A test goes under way: one more may wait beside it (R440). -/
theorem modMp_busy {f : Mp → Mp} {s : State} (h5 : (f s.mp).log = s.mp.log) (h6 : (f s.mp).flashLog = s.mp.flashLog)
    (h7 : (f s.mp).changes = s.mp.changes) (h8 : (f s.mp).tstQ = s.mp.tstQ) (h9 : (f s.mp).tstBusy = true)
    (h10 : (f s.mp).mbxQ = s.mp.mbxQ) (h11 : (f s.mp).health = s.mp.health) (h : StoreInv s) :
    StoreInv (s.modMp f) := by
  obtain ⟨a, b, c, d, e, g, i, j⟩ := h
  refine ⟨a, b, ?_, ?_, ?_, ?_, ?_, ?_⟩ <;> simp only [State.modMp]
  · rw [h5]; exact c
  · rw [h6]; exact d
  · rw [h7]; exact e
  · rw [h8, h9]
    have : s.mp.tstBusy.toNat ≤ true.toNat := by cases s.mp.tstBusy <;> decide
    omega
  · rw [h10]; exact i
  · rw [h11]; exact j

/-- The test under way leaves the queue (R440). -/
theorem modMp_taken {f : Mp → Mp} {s : State} {t : Tst} {q : List Tst} (hq : s.mp.tstQ = t :: q)
    (h5 : (f s.mp).log = s.mp.log) (h6 : (f s.mp).flashLog = s.mp.flashLog)
    (h7 : (f s.mp).changes = s.mp.changes) (h8 : (f s.mp).tstQ = q)
    (h10 : (f s.mp).mbxQ = s.mp.mbxQ) (h11 : (f s.mp).health = s.mp.health) (h : StoreInv s) :
    StoreInv (s.modMp f) := by
  obtain ⟨a, b, c, d, e, g, i, j⟩ := h
  refine ⟨a, b, ?_, ?_, ?_, ?_, ?_, ?_⟩ <;> simp only [State.modMp]
  · rw [h5]; exact c
  · rw [h6]; exact d
  · rw [h7]; exact e
  · rw [h8]
    rw [hq, List.length_cons] at g
    have : s.mp.tstBusy.toNat ≤ 1 := by cases s.mp.tstBusy <;> decide
    omega
  · rw [h10]; exact i
  · rw [h11]; exact j

theorem foldl_ok {α : Type} {f : State → α → State} (hf : ∀ s x, StoreInv s → StoreInv (f s x)) {xs : List α}
    {s : State} (h : StoreInv s) : StoreInv (xs.foldl f s) := by
  induction xs generalizing s with
  | nil => exact h
  | cons x xs ih => exact ih (hf s x h)

theorem forEach_ok {α : Type} {f : α → State → State} (hf : ∀ x s, StoreInv s → StoreInv (f x s)) {xs : List α}
    {s : State} (h : StoreInv s) : StoreInv (forEach xs f s) := foldl_ok (fun s x h => hf x s h) h

/-- A fold keeps what its step keeps. -/
theorem foldl_any {α β : Type} (P : β → Prop) {f : β → α → β} (hf : ∀ b x, P b → P (f b x)) {xs : List α} {b : β}
    (h : P b) : P (xs.foldl f b) := by
  induction xs generalizing b with
  | nil => exact h
  | cons x xs ih => exact ih (hf b x h)

end Sys2Proof.Laws
end

