-- ==== Sys2Proof/Laws/KeepsOps.lean ====
section
/-!
SUPPORT. What Ops.lean defines keeps the stores' invariant.
-/

namespace Sys2Proof.Laws

open Machine

theorem freeHash_keeps {s : State} (h : StoreInv s) :
    PairOk (State.freeHash s) := by
  unfold State.freeHash
  repeat' first
    | with_reducible assumption
    | fail_if_no_progress with_reducible refine of_fields ?_
    | with_reducible refine PairOk.mk ?_

theorem chain_keeps {s : State} (h : StoreInv s) :
    PairOk (State.chain s) := by
  unfold State.chain
  repeat' first
    | with_reducible assumption
    | with_reducible refine freeHash_keeps ?_
    | with_reducible refine snd_ok (freeHash_keeps ?_)
    | with_reducible refine PairOk.of ?_ (by assumption)
    | split
    | with_reducible refine PairOk.mk ?_

/-- The rings hold 8,192 and 16,384 records (R465). -/
theorem log_keeps {a1 a2 a3 a4 a5} {s : State} (h : StoreInv s) : StoreInv (State.log s a1 a2 a3 a4 a5) := by
  obtain ⟨a, b, c, d, e, f, g, i⟩ := h
  refine ⟨a, b, ?_, ?_, e, f, g, i⟩
  · simp only [State.log, State.modMp, List.length_take]; omega
  · simp only [State.log, State.modMp]
    split
    · simp only [List.length_take]; omega
    · exact d

/-- At 15,360 records the change log gives up its oldest 4,096 (R471). -/
theorem rollChanges_short {s : State} (h : s.mp.changes.length ≤ 15360)
    (h' : StoreInv { s with mp := { s.mp with changes := [] } }) : StoreInv (rollChanges s) := by
  obtain ⟨a, b, c, d, e, f, g, i⟩ := h'
  unfold rollChanges
  split
  · rename_i hl; exact ⟨a, b, c, d, hl, f, g, i⟩
  · refine log_keeps ⟨a, b, c, d, ?_, f, g, i⟩
    simp only [State.modMp, List.length_cons, List.length_take]; omega

theorem rollChanges_keeps {s : State} (h : StoreInv s) : StoreInv (rollChanges s) :=
  rollChanges_short (Nat.le_of_lt h.changes)
    ⟨h.memory, h.assembly, h.log, h.flash, by simp, h.tests, h.queue, h.health⟩

theorem change_keeps {a1 a2 a3 a4 a5 a6} {s : State} (h : StoreInv s) :
    StoreInv (State.change s a1 a2 a3 a4 a5 a6) := by
  have hc : StoreInv s.chain.2 := snd_ok (chain_keeps h)
  unfold State.change
  obtain ⟨a, b, c, d, e, f, g, i⟩ := hc
  refine rollChanges_short ?_ ⟨a, b, c, d, by simp, f, g, i⟩
  simp only [State.modMp, List.length_cons]
  exact e

theorem changeTo_keeps {s : State} {t : State} {a1} {a2} {a3} {a4} (h : StoreInv s) (h2 : StoreInv t) :
    StoreInv (State.changeTo s t a1 a2 a3 a4) := by
  unfold State.changeTo
  repeat' first
    | with_reducible assumption
    | with_reducible refine change_keeps ?_

/-- Writing bytes keeps the memories' form. -/
theorem wrBytes_keeps {a1} {a2} {s : State} (h : StoreInv s) : StoreInv (State.wrBytes s a1 a2) := by
  unfold State.wrBytes
  split
  · exact of_memory (s := s) id (fun w => KV.wf_setList _ w _) id rfl rfl h
  · exact of_memory (s := s) id id (fun w => KV.wf_setList _ w _) rfl rfl h

theorem wrVa_keeps {s : State} {a1} {a2} {a3} (h : StoreInv s) :
    StoreInv (State.wrVa s a1 a2 a3) := by
  unfold State.wrVa
  repeat' first
    | with_reducible assumption
    | (extract_lets +onlyGivenNames x; clear_value x)
    | with_reducible refine foldl_ok (fun _ _ _ => ?_) ?_
    | with_reducible refine wrBytes_keeps ?_
    | split

theorem complete_keeps {s : State} {a1} {a2} {a3} {a4} {a5} (h : StoreInv s) :
    StoreInv (State.complete s a1 a2 a3 a4 a5) := by
  unfold State.complete
  repeat' first
    | with_reducible assumption
    | (extract_lets +onlyGivenNames x; clear_value x)
    | with_reducible refine wrVa_keeps ?_
    | split

theorem modSlot_keeps {a} {b} {s : State} (h : StoreInv s) : StoreInv (State.modSlot s a b) :=
  of_same (s := s) rfl rfl rfl rfl rfl rfl rfl rfl rfl rfl rfl h

theorem discardRest_keeps {s : State} {a1} (h : StoreInv s) :
    StoreInv (State.discardRest s a1) := by
  unfold State.discardRest
  repeat' first
    | with_reducible assumption
    | (extract_lets +onlyGivenNames x; clear_value (e : x = _); with_reducible refine bound_state e ?_ (fun _ => ?_))
    | (extract_lets +onlyGivenNames x; clear_value x)
    | with_reducible refine forEach_ok (fun _ _ _ => ?_) ?_
    | with_reducible refine foldl_ok (fun _ _ _ => ?_) ?_
    | with_reducible refine complete_keeps ?_
    | with_reducible refine modSlot_keeps ?_

theorem modMbx_keeps {a} {b} {s : State} (h : StoreInv s) : StoreInv (State.modMbx s a b) :=
  of_same (s := s) rfl rfl rfl rfl rfl rfl rfl rfl rfl rfl rfl h

theorem dropEvent_keeps {s : State} {a1} (h : StoreInv s) :
    StoreInv (State.dropEvent s a1) := by
  unfold State.dropEvent
  repeat' first
    | with_reducible assumption
    | with_reducible refine modMbx_keeps ?_

theorem effectOf_keeps {s t : State} (h : StoreInv s) (ht : StoreInv t) : StoreInv (s.effectOf t) := by
  obtain ⟨a, _, c, d, e, f, g, i⟩ := ht
  exact ⟨a, h.assembly, c, d, e, f, g, i⟩

theorem wrHost_keeps {a1} {a2} {s : State} (h : StoreInv s) : StoreInv (State.wrHost s a1 a2) :=
  of_memory (s := s) id id (fun w => KV.wf_setList _ w _) rfl rfl h

theorem modHamper_keeps {a} {s : State} (h : StoreInv s) : StoreInv (State.modHamper s a) :=
  of_same (s := s) rfl rfl rfl rfl rfl rfl rfl rfl rfl rfl rfl h

theorem msix_keeps {s : State} {a1} (h : StoreInv s) :
    StoreInv (State.msix s a1) := by
  unfold State.msix
  repeat' first
    | with_reducible assumption
    | with_reducible refine modHamper_keeps ?_

theorem putEvent_keeps {s : State} {a1} {a2} (h : StoreInv s) :
    StoreInv (State.putEvent s a1 a2) := by
  unfold State.putEvent
  repeat' first
    | with_reducible assumption
    | (extract_lets +onlyGivenNames x; clear_value (e : x = _); with_reducible refine bound_state e ?_ (fun _ => ?_))
    | (extract_lets +onlyGivenNames x; clear_value x)
    | with_reducible refine ite_either ?_ ?_
    | with_reducible refine dropEvent_keeps ?_
    | with_reducible refine modMbx_keeps ?_
    | with_reducible refine wrHost_keeps ?_
    | with_reducible refine msix_keeps ?_
    | split

theorem flushLost_keeps {s : State} {a1} (h : StoreInv s) :
    StoreInv (State.flushLost s a1) := by
  unfold State.flushLost
  repeat' first
    | with_reducible assumption
    | (extract_lets +onlyGivenNames x; clear_value x)
    | with_reducible refine ite_either ?_ ?_
    | with_reducible refine modMbx_keeps ?_
    | with_reducible refine putEvent_keeps ?_

theorem free_keeps {s : State} (h : StoreInv s) :
    PairOk (State.free s) := by
  unfold State.free
  repeat' first
    | with_reducible assumption
    | fail_if_no_progress with_reducible refine of_fields ?_
    | with_reducible refine PairOk.mk ?_

theorem modStroke_keeps {a} {s : State} (h : StoreInv s) : StoreInv (State.modStroke s a) :=
  of_same (s := s) rfl rfl rfl rfl rfl rfl rfl rfl rfl rfl rfl h

theorem note_keeps {s : State} {a1} (h : StoreInv s) :
    StoreInv (State.note s a1) := by
  unfold State.note
  repeat' first
    | with_reducible assumption
    | with_reducible refine modMp_same rfl rfl rfl rfl rfl rfl rfl ?_

/-- The mailbox requester's queue holds 16 messages (R484). -/
theorem originate_keeps {a1 a2} {s : State} (h : StoreInv s) : StoreInv (State.originate s a1 a2) := by
  obtain ⟨a, b, c, d, e, f, g, i⟩ := h
  unfold State.originate State.modMp
  by_cases ho : a1 = 1
  · simp only [ho, if_true]
    refine ⟨a, b, c, d, e, f, ?_, i⟩
    simp only [List.length_drop, List.length_append, List.length_singleton]; omega
  · simp only [ho, if_false]
    exact ⟨a, b, c, d, e, f, g, i⟩

theorem platformEvent_keeps {s : State} {a1} {a2} (h : StoreInv s) :
    StoreInv (State.platformEvent s a1 a2) := by
  unfold State.platformEvent
  repeat' first
    | with_reducible assumption
    | with_reducible refine originate_keeps ?_
    | split

theorem post_keeps {s : State} {a1} {a2} {a3} {a4} {a5} (h : StoreInv s) :
    StoreInv (State.post s a1 a2 a3 a4 a5) := by
  unfold State.post
  repeat' first
    | with_reducible assumption
    | (extract_lets +onlyGivenNames x; clear_value (e : x = _); with_reducible refine bound_state e ?_ (fun _ => ?_))
    | with_reducible refine ite_either ?_ ?_
    | with_reducible refine flushLost_keeps ?_
    | with_reducible refine putEvent_keeps ?_
    | with_reducible refine dropEvent_keeps ?_

theorem postCtx_keeps {s : State} {a1} {a2} {a3} (h : StoreInv s) :
    StoreInv (State.postCtx s a1 a2 a3) := by
  unfold State.postCtx
  repeat' first
    | with_reducible assumption
    | with_reducible refine post_keeps ?_

theorem postDev_keeps {s : State} {a1} {a2} (h : StoreInv s) :
    StoreInv (State.postDev s a1 a2) := by
  unfold State.postDev
  repeat' first
    | with_reducible assumption
    | with_reducible refine platformEvent_keeps ?_
    | with_reducible refine post_keeps ?_

theorem healthNow_le (s : State) : s.healthNow ≤ 3 := by
  unfold State.healthNow; repeat' split
  all_goals omega

theorem settleHealth_keeps {s : State} (h : StoreInv s) : StoreInv s.settleHealth := by
  unfold State.settleHealth
  dsimp only
  split
  · exact h
  · refine post_keeps (log_keeps ?_)
    obtain ⟨a, b, c, d, e, f, g, _⟩ := h
    exact ⟨a, b, c, d, e, f, g, healthNow_le s⟩

theorem retire_keeps {s : State} (h : StoreInv s) :
    StoreInv (State.retire s) := by
  unfold State.retire
  repeat' first
    | with_reducible assumption
    | with_reducible refine ite_either ?_ ?_
    | with_reducible refine settleHealth_keeps ?_
    | with_reducible refine log_keeps ?_
    | with_reducible refine modMp_same rfl rfl rfl rfl rfl rfl rfl ?_

theorem setCtx_keeps {s : State} {a1} {a2} (h : StoreInv s) :
    StoreInv (State.setCtx s a1 a2) := by
  unfold State.setCtx
  repeat' first
    | with_reducible assumption
    | (extract_lets +onlyGivenNames x; clear_value (e : x = _); with_reducible refine bound_state e ?_ (fun _ => ?_))
    | (extract_lets +onlyGivenNames x; clear_value x)
    | with_reducible refine ite_either ?_ ?_
    | with_reducible refine modSlot_keeps ?_
    | with_reducible refine post_keeps ?_

/-- Thirty-two self-tests wait beside the one under way (R440). -/
theorem trigger_keeps {a1 a2} {s : State} (h : StoreInv s) : StoreInv (State.trigger s a1 a2) := by
  unfold State.trigger
  extract_lets k
  split
  · exact note_keeps h
  · split
    · exact modMp_same rfl rfl rfl rfl rfl rfl rfl h
    · rename_i hn
      obtain ⟨a, b, c, d, e, f, g, i⟩ := h
      refine ⟨a, b, c, d, e, ?_, g, i⟩
      simp only [State.note, State.modMp, List.length_append, List.length_singleton]
      omega

theorem powered_keeps {s t : State} (h : StoreInv s) (ht : StoreInv t) : ResOk (powered s t) := by
  unfold powered
  refine ResOk.next ?_
  split
  · exact effectOf_keeps h ht
  · exact h

end Sys2Proof.Laws
end

