-- ==== Sys2Proof/Laws/KeepsHamper.lean ====
section
/-!
SUPPORT. What Hamper.lean defines keeps the stores' invariant.
-/

namespace Sys2Proof.Laws

open Machine

theorem respond_keeps {s : State} {a1} {a2} {a3} (h : StoreInv s) :
    StoreInv (State.respond s a1 a2 a3) := by
  unfold State.respond
  repeat' first
    | with_reducible assumption
    | (extract_lets +onlyGivenNames x; clear_value x)
    | with_reducible refine ite_either ?_ ?_
    | with_reducible refine modMbx_keeps ?_
    | with_reducible refine msix_keeps ?_
    | with_reducible refine modSlot_keeps ?_

theorem chargeQueue_keeps {a1} {s : State} (h : StoreInv s) :
    StoreInv (chargeQueue a1 s) := by
  unfold chargeQueue
  repeat' first
    | with_reducible assumption
    | (extract_lets +onlyGivenNames x; clear_value x)
    | with_reducible refine ite_either ?_ ?_
    | with_reducible refine modSlot_keeps ?_

theorem accept_keeps {s : State} {a1} (h : StoreInv s) :
    StoreInv (accept s a1) := by
  unfold accept
  repeat' first
    | with_reducible assumption
    | (extract_lets +onlyGivenNames x; clear_value x)
    | with_reducible refine ite_either ?_ ?_
    | with_reducible refine chargeQueue_keeps ?_
    | with_reducible refine modHamper_keeps ?_
    | with_reducible refine modMbx_keeps ?_

theorem timeOutCmd_keeps {a1} {s : State} (h : StoreInv s) :
    StoreInv (timeOutCmd a1 s) := by
  unfold timeOutCmd
  repeat' first
    | with_reducible assumption
    | with_reducible refine respond_keeps ?_
    | with_reducible refine chargeQueue_keeps ?_
    | with_reducible refine modMbx_keeps ?_
    | split

theorem cpFailed_keeps {s : State} (h : StoreInv s) :
    StoreInv (cpFailed s) := by
  unfold cpFailed
  repeat' first
    | with_reducible assumption
    | (extract_lets +onlyGivenNames x; clear_value (e : x = _); with_reducible refine bound_state e ?_ (fun _ => ?_))
    | with_reducible refine forEach_ok (fun _ _ _ => ?_) ?_
    | with_reducible refine timeOutCmd_keeps ?_
    | with_reducible refine modHamper_keeps ?_
    | with_reducible refine log_keeps ?_

theorem acceptTimeout_keeps {s : State} (h : StoreInv s) :
    StoreInv (acceptTimeout s) := by
  unfold acceptTimeout
  repeat' first
    | with_reducible assumption
    | with_reducible refine ite_either ?_ ?_
    | with_reducible refine cpFailed_keeps ?_

theorem acknowledge_keeps {s : State} {a1} (h : StoreInv s) :
    StoreInv (acknowledge s a1) := by
  unfold acknowledge
  repeat' first
    | with_reducible assumption
    | (extract_lets +onlyGivenNames x; clear_value x)
    | with_reducible refine ite_either ?_ ?_
    | with_reducible refine respond_keeps ?_
    | with_reducible refine modHamper_keeps ?_
    | with_reducible refine modMbx_keeps ?_
    | split

theorem boundTimeout_keeps {s : State} {a1} (h : StoreInv s) :
    StoreInv (boundTimeout s a1) := by
  unfold boundTimeout
  repeat' first
    | with_reducible assumption
    | with_reducible refine ite_either ?_ ?_
    | with_reducible refine timeOutCmd_keeps ?_

theorem eventsCmd_keeps {s : State} {a1} (h : StoreInv s) :
    StoreInv (eventsCmd s a1) := by
  unfold eventsCmd
  repeat' first
    | with_reducible assumption
    | with_reducible refine respond_keeps ?_
    | with_reducible refine flushLost_keeps ?_
    | with_reducible refine modMbx_keeps ?_
    | split

theorem evtLostRead_keeps {s : State} {a1} (h : StoreInv s) :
    StoreInv (evtLostRead s a1) := by
  unfold evtLostRead
  repeat' first
    | with_reducible assumption
    | (extract_lets +onlyGivenNames x; clear_value (e : x = _); with_reducible refine bound_state e ?_ (fun _ => ?_))
    | with_reducible refine modMbx_keeps ?_
    | fail_if_no_progress with_reducible refine of_fields ?_

theorem evtTailWrite_keeps {s : State} {a1} {a2} (h : StoreInv s) :
    StoreInv (evtTailWrite s a1 a2) := by
  unfold evtTailWrite
  repeat' first
    | with_reducible assumption
    | with_reducible refine flushLost_keeps ?_
    | with_reducible refine modMbx_keeps ?_

theorem execAcknowledgement_keeps {a1} {s : State} (h : StoreInv s) :
    ResOk (execAcknowledgement a1 s) := by
  unfold execAcknowledgement
  repeat' first
    | with_reducible assumption
    | with_reducible refine powered_keeps ?_ ?_
    | with_reducible refine acknowledge_keeps ?_

theorem reportBound_keeps {s : State} {a1} {a2} (h : StoreInv s) :
    StoreInv (reportBound s a1 a2) := by
  unfold reportBound
  repeat' first
    | with_reducible assumption
    | (extract_lets +onlyGivenNames x; clear_value x)
    | with_reducible refine ite_either ?_ ?_
    | with_reducible refine modMbx_keeps ?_

theorem execBoundReport_keeps {a1} {a2} {s : State} (h : StoreInv s) :
    ResOk (execBoundReport a1 a2 s) := by
  unfold execBoundReport
  repeat' first
    | with_reducible assumption
    | with_reducible refine powered_keeps ?_ ?_
    | with_reducible refine reportBound_keeps ?_

theorem execCompletionBoundTimeout_keeps {a1} {s : State} (h : StoreInv s) :
    ResOk (execCompletionBoundTimeout a1 s) := by
  unfold execCompletionBoundTimeout
  repeat' first
    | with_reducible assumption
    | with_reducible refine powered_keeps ?_ ?_
    | with_reducible refine boundTimeout_keeps ?_

theorem execCpAccept_keeps {a1} {s : State} (h : StoreInv s) :
    ResOk (execCpAccept a1 s) := by
  unfold execCpAccept
  repeat' first
    | with_reducible assumption
    | with_reducible refine powered_keeps ?_ ?_
    | with_reducible refine accept_keeps ?_

theorem execCpAcceptTimeout_keeps {s : State} (h : StoreInv s) :
    ResOk (execCpAcceptTimeout s) := by
  unfold execCpAcceptTimeout
  repeat' first
    | with_reducible assumption
    | with_reducible refine powered_keeps ?_ ?_
    | with_reducible refine acceptTimeout_keeps ?_

theorem lateDoneAt_keeps {s : State} {a1} (h : StoreInv s) :
    StoreInv (lateDoneAt s a1) := by
  unfold lateDoneAt
  repeat' first
    | with_reducible assumption
    | with_reducible refine ite_either ?_ ?_
    | with_reducible refine modHamper_keeps ?_
    | with_reducible refine modMbx_keeps ?_

theorem execLateDone_keeps {a1} {s : State} (h : StoreInv s) :
    ResOk (execLateDone a1 s) := by
  unfold execLateDone
  repeat' first
    | with_reducible assumption
    | with_reducible refine powered_keeps ?_ ?_
    | with_reducible refine lateDoneAt_keeps ?_

theorem execMbxEvtLostRead_keeps {a1} {s : State} (h : StoreInv s) :
    ResOk (execMbxEvtLostRead a1 s) := by
  unfold execMbxEvtLostRead
  repeat' first
    | with_reducible assumption
    | with_reducible refine powered_keeps ?_ ?_
    | with_reducible refine evtLostRead_keeps ?_

theorem execMbxEvtTailWrite_keeps {a1} {a2} {s : State} (h : StoreInv s) :
    ResOk (execMbxEvtTailWrite a1 a2 s) := by
  unfold execMbxEvtTailWrite
  repeat' first
    | with_reducible assumption
    | with_reducible refine powered_keeps ?_ ?_
    | with_reducible refine evtTailWrite_keeps ?_

theorem feedPost_keeps {s : State} {a1} {a2} (h : StoreInv s) :
    StoreInv (feedPost s a1 a2) := by
  unfold feedPost
  repeat' first
    | with_reducible assumption
    | (extract_lets +onlyGivenNames x; clear_value x)
    | with_reducible refine ite_either ?_ ?_
    | with_reducible refine modMbx_keeps ?_
    | split

theorem execMbxFeedPostWrite_keeps {a1} {a2} {s : State} (h : StoreInv s) :
    ResOk (execMbxFeedPostWrite a1 a2 s) := by
  unfold execMbxFeedPostWrite
  repeat' first
    | with_reducible assumption
    | with_reducible refine powered_keeps ?_ ?_
    | with_reducible refine feedPost_keeps ?_

theorem execOpEvents_keeps {a1} {s : State} (h : StoreInv s) :
    ResOk (execOpEvents a1 s) := by
  unfold execOpEvents
  repeat' first
    | with_reducible assumption
    | with_reducible refine powered_keeps ?_ ?_
    | with_reducible refine eventsCmd_keeps ?_

theorem execOpNop_keeps {a1} {s : State} (h : StoreInv s) :
    ResOk (execOpNop a1 s) := by
  unfold execOpNop
  repeat' first
    | with_reducible assumption
    | with_reducible refine ite_either ?_ ?_
    | with_reducible refine powered_keeps ?_ ?_
    | with_reducible refine acknowledge_keeps ?_

theorem sealWrite_keeps {s : State} {a1} {a2} (h : StoreInv s) :
    StoreInv (sealWrite s a1 a2) := by
  unfold sealWrite
  repeat' first
    | with_reducible assumption
    | with_reducible refine modMbx_keeps ?_
    | split

theorem execSealingWrite_keeps {a1} {a2} {s : State} (h : StoreInv s) :
    ResOk (execSealingWrite a1 a2 s) := by
  unfold execSealingWrite
  repeat' first
    | with_reducible assumption
    | with_reducible refine powered_keeps ?_ ?_
    | with_reducible refine sealWrite_keeps ?_

end Sys2Proof.Laws
end

