-- ==== Sys2Proof/Laws/KeepsStroke.lean ====
section
/-!
SUPPORT. What Stroke.lean defines keeps the stores' invariant.
-/

namespace Sys2Proof.Laws

open Machine

theorem combine_keeps {s : State} {a1} {a2} (h : StoreInv s) :
    StoreInv (State.combine s a1 a2) := by
  unfold State.combine
  repeat' first
    | with_reducible assumption
    | with_reducible refine modStroke_keeps ?_

theorem commitSlot_keeps {a1} {s : State} (h : StoreInv s) :
    StoreInv (commitSlot a1 s) := by
  unfold commitSlot
  repeat' first
    | with_reducible assumption
    | (extract_lets +onlyGivenNames x; clear_value (e : x = _); with_reducible refine bound_state e ?_ (fun _ => ?_))
    | with_reducible refine modSlot_keeps ?_
    | with_reducible refine modMbx_keeps ?_
    | split

theorem stopSlot_keeps {a1} {s : State} (h : StoreInv s) :
    StoreInv (stopSlot a1 s) := by
  unfold stopSlot
  repeat' first
    | with_reducible assumption
    | with_reducible refine setCtx_keeps ?_

theorem rerun_keeps {a1} {s : State} (h : StoreInv s) :
    StoreInv (rerun a1 s) := by
  unfold rerun
  repeat' first
    | with_reducible assumption
    | (extract_lets +onlyGivenNames x; clear_value (e : x = _); with_reducible refine bound_state e ?_ (fun _ => ?_))
    | (extract_lets +onlyGivenNames x; clear_value x)
    | with_reducible refine ite_either ?_ ?_
    | with_reducible refine log_keeps ?_
    | with_reducible refine setCtx_keeps ?_
    | with_reducible refine postCtx_keeps ?_
    | with_reducible refine modSlot_keeps ?_

theorem applyVerdict_keeps {a1} {a2} {s : State} (h : StoreInv s) :
    StoreInv (applyVerdict a1 a2 s) := by
  unfold applyVerdict
  repeat' first
    | with_reducible assumption
    | (extract_lets +onlyGivenNames x; clear_value (e : x = _); with_reducible refine bound_state e ?_ (fun _ => ?_))
    | (extract_lets +onlyGivenNames x; clear_value x)
    | with_reducible refine ite_either ?_ ?_
    | with_reducible refine modStroke_keeps ?_
    | with_reducible refine modSlot_keeps ?_
    | with_reducible refine commitSlot_keeps ?_
    | with_reducible refine log_keeps ?_
    | with_reducible refine postCtx_keeps ?_
    | with_reducible refine stopSlot_keeps ?_
    | with_reducible refine setCtx_keeps ?_
    | with_reducible refine rerun_keeps ?_
    | split

theorem feedCheck_keeps {a1} {s : State} (h : StoreInv s) :
    StoreInv (feedCheck a1 s) := by
  unfold feedCheck
  repeat' first
    | with_reducible assumption
    | (extract_lets +onlyGivenNames x; clear_value x)
    | with_reducible refine ite_either ?_ ?_
    | with_reducible refine setCtx_keeps ?_
    | with_reducible refine modSlot_keeps ?_

theorem pageHold_keeps {a1} {s : State} (h : StoreInv s) :
    StoreInv (pageHold a1 s) := by
  unfold pageHold
  repeat' first
    | with_reducible assumption
    | (extract_lets +onlyGivenNames x; clear_value x)
    | with_reducible refine ite_either ?_ ?_
    | with_reducible refine modSlot_keeps ?_

theorem formTally_keeps {s : State} (h : StoreInv s) :
    StoreInv (formTally s) := by
  unfold formTally
  repeat' first
    | with_reducible assumption
    | (extract_lets +onlyGivenNames x; clear_value (e : x = _); with_reducible refine bound_state e ?_ (fun _ => ?_))
    | (extract_lets +onlyGivenNames x; clear_value x)
    | with_reducible refine forEach_ok (fun _ _ _ => ?_) ?_
    | with_reducible refine modSlot_keeps ?_
    | with_reducible refine combine_keeps ?_
    | with_reducible refine pageHold_keeps ?_
    | with_reducible refine modStroke_keeps ?_

theorem holdDomain_keeps {s : State} (h : StoreInv s) :
    StoreInv (holdDomain s) := by
  unfold holdDomain
  repeat' first
    | with_reducible assumption
    | with_reducible refine ite_either ?_ ?_
    | with_reducible refine forEach_ok (fun _ _ _ => ?_) ?_
    | with_reducible refine setCtx_keeps ?_

theorem markIssue_keeps {s : State} (h : StoreInv s) :
    StoreInv (markIssue s) := by
  unfold markIssue
  repeat' first
    | with_reducible assumption
    | (extract_lets +onlyGivenNames x; clear_value x)
    | with_reducible refine ite_either ?_ ?_
    | with_reducible refine modStroke_keeps ?_

theorem markMiss_keeps {s : State} (h : StoreInv s) :
    StoreInv (markMiss s) := by
  unfold markMiss
  repeat' first
    | with_reducible assumption
    | (extract_lets +onlyGivenNames x; clear_value (e : x = _); with_reducible refine bound_state e ?_ (fun _ => ?_))
    | (extract_lets +onlyGivenNames x; clear_value x)
    | with_reducible refine ite_either ?_ ?_
    | with_reducible refine modStroke_keeps ?_
    | with_reducible refine log_keeps ?_
    | with_reducible refine holdDomain_keeps ?_
    | with_reducible refine postDev_keeps ?_

theorem reportForeign_keeps {s : State} (h : StoreInv s) :
    StoreInv (reportForeign s) := by
  unfold reportForeign
  repeat' first
    | with_reducible assumption
    | with_reducible refine ite_either ?_ ?_
    | with_reducible refine postDev_keeps ?_
    | with_reducible refine log_keeps ?_
    | with_reducible refine modStroke_keeps ?_

theorem rootCutoff_keeps {s : State} (h : StoreInv s) :
    StoreInv (rootCutoff s) := by
  unfold rootCutoff
  repeat' first
    | with_reducible assumption
    | (extract_lets +onlyGivenNames x; clear_value (e : x = _); with_reducible refine bound_state e ?_ (fun _ => ?_))
    | (extract_lets +onlyGivenNames x; clear_value x)
    | with_reducible refine ite_either ?_ ?_
    | with_reducible refine modStroke_keeps ?_
    | with_reducible refine log_keeps ?_

theorem takeHolds_keeps {a1} {s : State} (h : StoreInv s) :
    StoreInv (takeHolds a1 s) := by
  unfold takeHolds
  repeat' first
    | with_reducible assumption
    | (extract_lets +onlyGivenNames x; clear_value x)
    | with_reducible refine ite_either ?_ ?_
    | with_reducible refine setCtx_keeps ?_

end Sys2Proof.Laws
end

