-- ==== Sys2Proof/Laws/KeepsGhlBase.lean ====
section
/-!
SUPPORT. What GhlBase.lean defines keeps the stores' invariant.
-/

namespace Sys2Proof.Laws

open Machine

theorem modCtxGhl_keeps {a} {b} {s : State} (h : StoreInv s) : StoreInv (State.modCtxGhl s a b) :=
  of_same (s := s) rfl rfl rfl rfl rfl rfl rfl rfl rfl rfl rfl h

theorem modAct_keeps {a} {b} {c} {s : State} (h : StoreInv s) : StoreInv (State.modAct s a b c) :=
  of_same (s := s) rfl rfl rfl rfl rfl rfl rfl rfl rfl rfl rfl h

theorem modGhl_keeps {a} {s : State} (h : StoreInv s) : StoreInv (State.modGhl s a) :=
  of_same (s := s) rfl rfl rfl rfl rfl rfl rfl rfl rfl rfl rfl h

theorem modPort_keeps {a} {b} {s : State} (h : StoreInv s) : StoreInv (State.modPort s a b) :=
  of_same (s := s) rfl rfl rfl rfl rfl rfl rfl rfl rfl rfl rfl h

theorem dropQueued_keeps {a1} {s : State} (h : StoreInv s) :
    StoreInv (dropQueued a1 s) := by
  unfold dropQueued
  repeat' first
    | with_reducible assumption
    | (extract_lets +onlyGivenNames x; clear_value x)
    | with_reducible refine modGhl_keeps ?_

theorem endAct_keeps {a1} {a2} {a3} {a4} {s : State} (h : StoreInv s) :
    StoreInv (endAct a1 a2 a3 a4 s) := by
  unfold endAct
  repeat' first
    | with_reducible assumption
    | (extract_lets +onlyGivenNames x; clear_value (e : x = _); with_reducible refine bound_state e ?_ (fun _ => ?_))
    | (extract_lets +onlyGivenNames x; clear_value x)
    | with_reducible refine ite_either ?_ ?_
    | with_reducible refine complete_keeps ?_
    | with_reducible refine modCtxGhl_keeps ?_
    | with_reducible refine dropQueued_keeps ?_

theorem abortGhl_keeps {a1} {a2} {s : State} (h : StoreInv s) :
    StoreInv (abortGhl a1 a2 s) := by
  unfold abortGhl
  repeat' first
    | with_reducible assumption
    | with_reducible refine forEach_ok (fun _ _ _ => ?_) ?_
    | with_reducible refine endAct_keeps ?_

theorem countNoRoute_keeps {a1} {s : State} (h : StoreInv s) :
    StoreInv (countNoRoute a1 s) := by
  unfold countNoRoute
  repeat' first
    | with_reducible assumption
    | (extract_lets +onlyGivenNames x; clear_value (e : x = _); with_reducible refine bound_state e ?_ (fun _ => ?_))
    | with_reducible refine ite_either ?_ ?_
    | with_reducible refine modGhl_keeps ?_
    | with_reducible refine log_keeps ?_

end Sys2Proof.Laws
end

