-- ==== Sys2Proof/Laws/KeepsLines.lean ====
section
/-!
SUPPORT. What Lines.lean defines keeps the stores' invariant.
-/

namespace Sys2Proof.Laws

open Machine

theorem lose_keeps {a1} {s : State} (h : StoreInv s) :
    StoreInv (State.lose a1 s) := by
  unfold State.lose
  repeat' first
    | with_reducible assumption
    | (extract_lets +onlyGivenNames x; clear_value (e : x = _); with_reducible refine bound_state e ?_ (fun _ => ?_))
    | (extract_lets +onlyGivenNames x; clear_value x)
    | with_reducible refine ite_either ?_ ?_
    | with_reducible refine modSlot_keeps ?_
    | fail_if_no_progress with_reducible refine of_fields ?_

theorem ask_keeps {a1} {s : State} (h : StoreInv s) :
    StoreInv (State.ask a1 s) := by
  unfold State.ask
  repeat' first
    | with_reducible assumption
    | (extract_lets +onlyGivenNames x; clear_value (e : x = _); with_reducible refine bound_state e ?_ (fun _ => ?_))
    | (extract_lets +onlyGivenNames x; clear_value x)
    | with_reducible refine ite_either ?_ ?_
    | with_reducible refine forEach_ok (fun _ _ _ => ?_) ?_
    | with_reducible refine lose_keeps ?_
    | fail_if_no_progress with_reducible refine of_fields ?_

theorem modLine_keeps {a} {b} {s : State} (h : StoreInv s) : StoreInv (State.modLine s a b) :=
  of_same (s := s) rfl rfl rfl rfl rfl rfl rfl rfl rfl rfl rfl h

theorem wrRow_keeps {a1} {a2} {s : State} (h : StoreInv s) : StoreInv (State.wrRow s a1 a2) := by
  unfold State.wrRow
  generalize rowBytes a2 = bs
  exact of_memory (s := s) (fun w => KV.wf_setList bs w _) id id rfl rfl h

theorem addStall_keeps {a1} {a2} {s : State} (h : StoreInv s) :
    StoreInv (addStall a1 a2 s) := by
  unfold addStall
  repeat' first
    | with_reducible assumption
    | with_reducible refine modSlot_keeps ?_

theorem addWait_keeps {a1} {a2} {a3} {s : State} (h : StoreInv s) :
    StoreInv (addWait a1 a2 a3 s) := by
  unfold addWait
  repeat' first
    | with_reducible assumption
    | with_reducible refine modLine_keeps ?_

theorem countDropped_keeps {a1} {a2} {s : State} (h : StoreInv s) :
    StoreInv (countDropped a1 a2 s) := by
  unfold countDropped
  repeat' first
    | with_reducible assumption
    | (extract_lets +onlyGivenNames x; clear_value x)
    | fail_if_no_progress with_reducible refine of_fields ?_
    | split

theorem applyPend_keeps {a1} {s : State} (h : StoreInv s) :
    StoreInv (applyPend a1 s) := by
  unfold applyPend
  repeat' first
    | with_reducible assumption
    | (extract_lets +onlyGivenNames x; clear_value (e : x = _); with_reducible refine bound_state e ?_ (fun _ => ?_))
    | (extract_lets +onlyGivenNames x; clear_value x)
    | with_reducible refine countDropped_keeps ?_
    | with_reducible refine modLine_keeps ?_
    | split

theorem applyAll_keeps {a1} {s : State} (h : StoreInv s) :
    StoreInv (applyAll a1 s) := by
  unfold applyAll
  repeat' first
    | with_reducible assumption
    | with_reducible refine forEach_ok (fun _ _ _ => ?_) ?_
    | with_reducible refine applyPend_keeps ?_

theorem checkWord_keeps {a1} {a2} {a3} {s : State} (h : StoreInv s) :
    StoreInv (checkWord a1 a2 a3 s) := by
  unfold checkWord
  repeat' first
    | with_reducible assumption
    | (extract_lets +onlyGivenNames x; clear_value (e : x = _); with_reducible refine bound_state e ?_ (fun _ => ?_))
    | (extract_lets +onlyGivenNames x; clear_value x)
    | (extract_lets +onlyGivenNames x; subst x)
    | with_reducible refine ite_either ?_ ?_
    | with_reducible refine note_keeps ?_
    | with_reducible refine trigger_keeps ?_
    | with_reducible refine log_keeps ?_
    | fail_if_no_progress with_reducible refine of_fields ?_
    | split

theorem checkRow_keeps {a1} {a2} {s : State} (h : StoreInv s) :
    StoreInv (checkRow a1 a2 s) := by
  unfold checkRow
  repeat' first
    | with_reducible assumption
    | with_reducible refine forEach_ok (fun _ _ _ => ?_) ?_
    | with_reducible refine checkWord_keeps ?_

theorem clearBlocks_keeps {a1} {a2} {s : State} (h : StoreInv s) : StoreInv (clearBlocks a1 a2 s) :=
  of_memory (s := s) (fun w => KV.wf_filter w _) id id rfl rfl h

theorem clearLines_keeps {a1} {a2} {s : State} (h : StoreInv s) :
    StoreInv (clearLines a1 a2 s) := by
  unfold clearLines
  repeat' first
    | with_reducible assumption
    | (extract_lets +onlyGivenNames x; clear_value x)
    | with_reducible refine ite_either ?_ ?_
    | with_reducible refine foldl_ok (fun _ _ _ => ?_) ?_
    | fail_if_no_progress with_reducible refine of_fields ?_

theorem partitionFree_keeps {a1} {s : State} (h : StoreInv s) :
    StoreInv (partitionFree a1 s) := by
  unfold partitionFree
  repeat' first
    | with_reducible assumption
    | (extract_lets +onlyGivenNames x; clear_value x)
    | fail_if_no_progress with_reducible refine of_fields ?_

theorem clearTick_keeps {s : State} (h : StoreInv s) :
    StoreInv (clearTick s) := by
  unfold clearTick
  repeat' first
    | with_reducible assumption
    | (extract_lets +onlyGivenNames x; clear_value x)
    | with_reducible refine ite_either ?_ ?_
    | with_reducible refine partitionFree_keeps ?_
    | fail_if_no_progress with_reducible refine of_fields ?_
    | split

theorem endWait_keeps {s : State} {a1} {a2} (h : StoreInv s) :
    StoreInv (endWait s a1 a2) := by
  unfold endWait
  repeat' first
    | with_reducible assumption
    | with_reducible refine modLine_keeps ?_

theorem faultRead_keeps {a1} {a2} {s : State} (h : StoreInv s) :
    StoreInv (faultRead a1 a2 s) := by
  unfold faultRead
  repeat' first
    | with_reducible assumption
    | (extract_lets +onlyGivenNames x; clear_value (e : x = _); with_reducible refine bound_state e ?_ (fun _ => ?_))
    | (extract_lets +onlyGivenNames x; clear_value x)
    | with_reducible refine ite_either ?_ ?_
    | with_reducible refine modSlot_keeps ?_
    | fail_if_no_progress with_reducible refine of_fields ?_

theorem stallOn_keeps {s : State} {a1} {a2} {a3} (h : StoreInv s) :
    StoreInv (stallOn s a1 a2 a3) := by
  unfold stallOn
  repeat' first
    | with_reducible assumption
    | (extract_lets +onlyGivenNames x; clear_value (e : x = _); with_reducible refine bound_state e ?_ (fun _ => ?_))
    | with_reducible refine modLine_keeps ?_
    | with_reducible refine modSlot_keeps ?_

theorem readRow_keeps {s : State} {a1} (h : StoreInv s) :
    PairOk (readRow s a1) := by
  unfold readRow
  repeat' first
    | with_reducible assumption
    | (extract_lets +onlyGivenNames x; clear_value (e : x = _); with_reducible refine bound_state e ?_ (fun _ => ?_))
    | (extract_lets +onlyGivenNames x; clear_value x)
    | with_reducible refine ite_either ?_ ?_
    | with_reducible refine checkRow_keeps ?_
    | fail_if_no_progress with_reducible refine of_fields ?_
    | with_reducible refine PairOk.mk ?_

theorem lineRead_keeps {s : State} {a1} {a2} {a3} {a4} {a5} (h : StoreInv s) :
    PairOk (lineRead s a1 a2 a3 a4 a5) := by
  unfold lineRead
  repeat' first
    | with_reducible assumption
    | (extract_lets +onlyGivenNames x; clear_value (e : x = _); with_reducible refine bound_state e ?_ (fun _ => ?_))
    | (extract_lets +onlyGivenNames x; clear_value x)
    | with_reducible refine ite_either ?_ ?_
    | with_reducible refine stallOn_keeps ?_
    | with_reducible refine endWait_keeps ?_
    | with_reducible refine modLine_keeps ?_
    | with_reducible refine faultRead_keeps ?_
    | with_reducible refine readRow_keeps ?_
    | with_reducible refine snd_ok (readRow_keeps ?_)
    | with_reducible refine ask_keeps ?_
    | with_reducible refine PairOk.of ?_ (by assumption)
    | split
    | with_reducible refine PairOk.mk ?_

theorem strokeReset_keeps {a1} {s : State} (h : StoreInv s) :
    StoreInv (strokeReset a1 s) := by
  unfold strokeReset
  repeat' first
    | with_reducible assumption
    | (extract_lets +onlyGivenNames x; clear_value x)
    | with_reducible refine ite_either ?_ ?_
    | with_reducible refine modLine_keeps ?_
    | with_reducible refine countDropped_keeps ?_
    | split

theorem strokeLine_keeps {a1} {a2} {s : State} (h : StoreInv s) :
    StoreInv (strokeLine a1 a2 s) := by
  unfold strokeLine
  repeat' first
    | with_reducible assumption
    | (extract_lets +onlyGivenNames x; clear_value (e : x = _); with_reducible refine bound_state e ?_ (fun _ => ?_))
    | (extract_lets +onlyGivenNames x; clear_value x)
    | with_reducible refine ite_either ?_ ?_
    | with_reducible refine modLine_keeps ?_
    | with_reducible refine countDropped_keeps ?_
    | with_reducible refine strokeReset_keeps ?_
    | split

theorem lineStrokeReset_keeps {a1} {a2} {s : State} (h : StoreInv s) :
    StoreInv (lineStrokeReset a1 a2 s) := by
  unfold lineStrokeReset
  repeat' first
    | with_reducible assumption
    | with_reducible refine forEach_ok (fun _ _ _ => ?_) ?_
    | with_reducible refine strokeLine_keeps ?_
    | with_reducible refine applyAll_keeps ?_

theorem lineWrite_keeps {s : State} {a1} {a2} {a3} {a4} {a5} (h : StoreInv s) :
    PairOk (lineWrite s a1 a2 a3 a4 a5) := by
  unfold lineWrite
  repeat' first
    | with_reducible assumption
    | (extract_lets +onlyGivenNames x; clear_value (e : x = _); with_reducible refine bound_state e ?_ (fun _ => ?_))
    | (extract_lets +onlyGivenNames x; clear_value x)
    | with_reducible refine ite_either ?_ ?_
    | with_reducible refine stallOn_keeps ?_
    | with_reducible refine endWait_keeps ?_
    | with_reducible refine ask_keeps ?_
    | with_reducible refine wrRow_keeps ?_
    | with_reducible refine modLine_keeps ?_
    | with_reducible refine PairOk.of ?_ (by assumption)
    | split
    | with_reducible refine PairOk.mk ?_

theorem partitionZero_keeps {a1} {s : State} (h : StoreInv s) :
    StoreInv (partitionZero a1 s) := by
  unfold partitionZero
  repeat' first
    | with_reducible assumption
    | (extract_lets +onlyGivenNames x; clear_value x)
    | with_reducible refine clearLines_keeps ?_
    | with_reducible refine clearBlocks_keeps ?_

theorem partitionClear_keeps {a1} {s : State} (h : StoreInv s) :
    StoreInv (partitionClear a1 s) := by
  unfold partitionClear
  repeat' first
    | with_reducible assumption
    | with_reducible refine partitionFree_keeps ?_
    | with_reducible refine partitionZero_keeps ?_

theorem partitionRelease_keeps {a1} {s : State} (h : StoreInv s) :
    StoreInv (partitionRelease a1 s) := by
  unfold partitionRelease
  repeat' first
    | with_reducible assumption
    | (extract_lets +onlyGivenNames x; clear_value (e : x = _); with_reducible refine bound_state e ?_ (fun _ => ?_))
    | (extract_lets +onlyGivenNames x; clear_value x)
    | with_reducible refine ite_either ?_ ?_
    | with_reducible refine partitionClear_keeps ?_
    | with_reducible refine partitionZero_keeps ?_
    | fail_if_no_progress with_reducible refine of_fields ?_

theorem poisonAll_keeps {s : State} (h : StoreInv s) :
    StoreInv (poisonAll s) := by
  unfold poisonAll
  repeat' first
    | with_reducible assumption
    | (extract_lets +onlyGivenNames x; clear_value x)
    | with_reducible refine ite_either ?_ ?_
    | fail_if_no_progress with_reducible refine of_fields ?_

theorem startRead_keeps {a1} {a2} {a3} {a4} {s : State} (h : StoreInv s) :
    StoreInv (startRead a1 a2 a3 a4 s) := by
  unfold startRead
  repeat' first
    | with_reducible assumption
    | with_reducible refine ite_either ?_ ?_
    | with_reducible refine modLine_keeps ?_
    | split

theorem takeRows_keeps {s : State} {a1} {a2} {a3} {a4} {a5} (h : StoreInv s) :
    PairOk (takeRows s a1 a2 a3 a4 a5) := by
  induction a5 with
  | zero => exact h
  | succ n ih =>
    unfold takeRows
    repeat' first
      | with_reducible assumption
      | with_reducible refine PairOk.mk ?_
      | with_reducible refine PairOk.of ih (by assumption)
      | with_reducible refine PairOk.of (lineRead_keeps ?_) (by assumption)
      | split

theorem takeAll_keeps {a1} {a2} {a3} {s : State} (h : StoreInv s) :
    PairOk (takeAll a1 a2 a3 s) := by
  induction a3 generalizing s with
  | nil => exact h
  | cons a l ih =>
    unfold takeAll
    repeat' first
      | with_reducible assumption
      | with_reducible refine PairOk.of (takeRows_keeps ?_) (by assumption)
      | with_reducible refine PairOk.of (ih ?_) (by assumption)
      | split
      | with_reducible refine PairOk.mk ?_

end Sys2Proof.Laws
end

