-- ==== Sys2Proof/Laws/KeepsMangleAbort.lean ====
section
/-!
SUPPORT. What MangleAbort.lean defines keeps the stores' invariant.
-/

namespace Sys2Proof.Laws

open Machine

theorem modMgl_keeps {a} {s : State} (h : StoreInv s) : StoreInv (State.modMgl s a) :=
  of_same (s := s) rfl rfl rfl rfl rfl rfl rfl rfl rfl rfl rfl h

theorem modCtr_keeps {a} {s : State} (h : StoreInv s) : StoreInv (State.modCtr s a) :=
  of_same (s := s) rfl rfl rfl rfl rfl rfl rfl rfl rfl rfl rfl h

theorem modOp_keeps {a} {b} {c} {s : State} (h : StoreInv s) : StoreInv (State.modOp s a b c) :=
  of_same (s := s) rfl rfl rfl rfl rfl rfl rfl rfl rfl rfl rfl h

theorem fallGuard_keeps {s : State} (h : StoreInv s) :
    StoreInv (fallGuard s) := by
  unfold fallGuard
  repeat' first
    | with_reducible assumption
    | (extract_lets +onlyGivenNames x; clear_value x)
    | with_reducible refine ite_either ?_ ?_
    | with_reducible refine modCtr_keeps ?_
    | with_reducible refine modMgl_keeps ?_

theorem abortOp_keeps {a1} {a2} {s : State} (h : StoreInv s) :
    StoreInv (abortOp a1 a2 s) := by
  unfold abortOp
  repeat' first
    | with_reducible assumption
    | (extract_lets +onlyGivenNames x; clear_value (e : x = _); with_reducible refine bound_state e ?_ (fun _ => ?_))
    | with_reducible refine ite_either ?_ ?_
    | with_reducible refine modOp_keeps ?_
    | with_reducible refine modCtr_keeps ?_
    | with_reducible refine fallGuard_keeps ?_

theorem abortMangle_keeps {a1} {a2} {s : State} (h : StoreInv s) :
    StoreInv (abortMangle a1 a2 s) := by
  unfold abortMangle
  repeat' first
    | with_reducible assumption
    | with_reducible refine forEach_ok (fun _ _ _ => ?_) ?_
    | with_reducible refine abortOp_keeps ?_

theorem settleHold_keeps {s : State} (h : StoreInv s) :
    StoreInv (settleHold s) := by
  unfold settleHold
  repeat' first
    | with_reducible assumption
    | with_reducible refine ite_either ?_ ?_
    | with_reducible refine modMgl_keeps ?_

theorem drainAbort_keeps {s : State} (h : StoreInv s) :
    StoreInv (drainAbort s) := by
  unfold drainAbort
  repeat' first
    | with_reducible assumption
    | (extract_lets +onlyGivenNames x; clear_value (e : x = _); with_reducible refine bound_state e ?_ (fun _ => ?_))
    | (extract_lets +onlyGivenNames x; clear_value x)
    | with_reducible refine ite_either ?_ ?_
    | with_reducible refine forEach_ok (fun _ _ _ => ?_) ?_
    | with_reducible refine complete_keeps ?_
    | with_reducible refine settleHold_keeps ?_
    | with_reducible refine modMgl_keeps ?_

theorem mglIdle_keeps {s : State} (h : StoreInv s) :
    StoreInv (mglIdle s) := by
  unfold mglIdle
  repeat' first
    | with_reducible assumption
    | with_reducible refine ite_either ?_ ?_
    | with_reducible refine fallGuard_keeps ?_

end Sys2Proof.Laws
end

