-- ==== Sys2Proof/Laws/KeepsStreamMath.lean ====
section
/-!
SUPPORT. What StreamMath.lean defines keeps the stores' invariant.
-/

namespace Sys2Proof.Laws

open Machine

theorem endTask_keeps {a1} {a2} {a3} {s : State} (h : StoreInv s) :
    StoreInv (endTask a1 a2 a3 s) := by
  unfold endTask
  repeat' first
    | with_reducible assumption
    | (extract_lets +onlyGivenNames x; clear_value (e : x = _); with_reducible refine bound_state e ?_ (fun _ => ?_))
    | with_reducible refine complete_keeps ?_
    | fail_if_no_progress with_reducible refine of_fields ?_

theorem abortStreams_keeps {a1} {a2} {s : State} (h : StoreInv s) :
    StoreInv (abortStreams a1 a2 s) := by
  unfold abortStreams
  repeat' first
    | with_reducible assumption
    | with_reducible refine ite_either ?_ ?_
    | with_reducible refine forEach_ok (fun _ _ _ => ?_) ?_
    | with_reducible refine endTask_keeps ?_

end Sys2Proof.Laws
end

