-- ==== Sys2Proof/Laws/KeepsAbort.lean ====
section
/-!
SUPPORT. What Abort.lean defines keeps the stores' invariant.
-/

namespace Sys2Proof.Laws

open Machine

theorem abortPress_keeps {a1} {a2} {s : State} (h : StoreInv s) :
    StoreInv (abortPress a1 a2 s) := by
  unfold abortPress
  repeat' first
    | with_reducible assumption
    | (extract_lets +onlyGivenNames x; clear_value (e : x = _); with_reducible refine bound_state e ?_ (fun _ => ?_))
    | with_reducible refine forEach_ok (fun _ _ _ => ?_) ?_
    | with_reducible refine complete_keeps ?_
    | with_reducible refine modSlot_keeps ?_

theorem abortSeams_keeps {a1} {a2} {s : State} (h : StoreInv s) :
    StoreInv (abortSeams a1 a2 s) := by
  unfold abortSeams
  repeat' first
    | with_reducible assumption
    | (extract_lets +onlyGivenNames x; clear_value (e : x = _); with_reducible refine bound_state e ?_ (fun _ => ?_))
    | (extract_lets +onlyGivenNames x; clear_value x)
    | with_reducible refine forEach_ok (fun _ _ _ => ?_) ?_
    | with_reducible refine complete_keeps ?_
    | fail_if_no_progress with_reducible refine of_fields ?_

theorem dropVector_keeps {a1} {s : State} (h : StoreInv s) :
    StoreInv (dropVector a1 s) := by
  unfold dropVector
  repeat' first
    | with_reducible assumption
    | fail_if_no_progress with_reducible refine of_fields ?_

theorem haltSeqs_keeps {a1} {s : State} (h : StoreInv s) :
    StoreInv (haltSeqs a1 s) := by
  unfold haltSeqs
  repeat' first
    | with_reducible assumption
    | with_reducible refine modSlot_keeps ?_

theorem abortTiles_keeps {a1} {a2} {s : State} (h : StoreInv s) :
    StoreInv (abortTiles a1 a2 s) := by
  unfold abortTiles
  repeat' first
    | with_reducible assumption
    | (extract_lets +onlyGivenNames x; clear_value (e : x = _); with_reducible refine bound_state e ?_ (fun _ => ?_))
    | with_reducible refine forEach_ok (fun _ _ _ => ?_) ?_
    | with_reducible refine complete_keeps ?_
    | with_reducible refine dropVector_keeps ?_
    | with_reducible refine haltSeqs_keeps ?_

theorem abortAll_keeps {a1} {a2} {s : State} (h : StoreInv s) :
    StoreInv (abortAll a1 a2 s) := by
  unfold abortAll
  repeat' first
    | with_reducible assumption
    | with_reducible refine abortGhl_keeps ?_
    | with_reducible refine abortPress_keeps ?_
    | with_reducible refine abortStreams_keeps ?_
    | with_reducible refine abortSeams_keeps ?_
    | with_reducible refine abortMangle_keeps ?_
    | with_reducible refine abortTiles_keeps ?_

theorem raiseCause_keeps {s : State} {a1} {a2} {a3} {a4} (h : StoreInv s) :
    StoreInv (raiseCause s a1 a2 a3 a4) := by
  unfold raiseCause
  repeat' first
    | with_reducible assumption
    | (extract_lets +onlyGivenNames x; clear_value (e : x = _); with_reducible refine bound_state e ?_ (fun _ => ?_))
    | (extract_lets +onlyGivenNames x; clear_value x)
    | with_reducible refine ite_either ?_ ?_
    | with_reducible refine log_keeps ?_
    | with_reducible refine postCtx_keeps ?_
    | with_reducible refine modSlot_keeps ?_
    | with_reducible refine discardRest_keeps ?_
    | with_reducible refine abortAll_keeps ?_

end Sys2Proof.Laws
end

