-- ==== Sys2Proof/Laws/KeepsSequencer.lean ====
section
/-!
SUPPORT. What Sequencer.lean defines keeps the stores' invariant.
-/

namespace Sys2Proof.Laws

open Machine

theorem modSeq_keeps {a} {b} {c} {s : State} (h : StoreInv s) : StoreInv (State.modSeq s a b c) :=
  of_same (s := s) rfl rfl rfl rfl rfl rfl rfl rfl rfl rfl rfl h

theorem modVunit_keeps {a} {b} {s : State} (h : StoreInv s) : StoreInv (State.modVunit s a b) :=
  of_same (s := s) rfl rfl rfl rfl rfl rfl rfl rfl rfl rfl rfl h

theorem startTile_keeps {a1} {a2} {a3} {a4} {a5} {s : State} (h : StoreInv s) :
    StoreInv (startTile a1 a2 a3 a4 a5 s) := by
  unfold startTile
  repeat' first
    | with_reducible assumption
    | (extract_lets +onlyGivenNames x; clear_value (e : x = _); with_reducible refine bound_state e ?_ (fun _ => ?_))
    | (extract_lets +onlyGivenNames x; clear_value x)
    | with_reducible refine ite_either ?_ ?_
    | with_reducible refine forEach_ok (fun _ _ _ => ?_) ?_
    | with_reducible refine modSeq_keeps ?_
    | with_reducible refine modVunit_keeps ?_
    | with_reducible refine modLine_keeps ?_
    | with_reducible refine modSlot_keeps ?_
    | split

theorem nextOnTile_keeps {a1} {a2} {s : State} (h : StoreInv s) :
    StoreInv (nextOnTile a1 a2 s) := by
  unfold nextOnTile
  repeat' first
    | with_reducible assumption
    | with_reducible refine ite_either ?_ ?_
    | with_reducible refine startTile_keeps ?_
    | split

theorem runCmd_keeps {a1} {s : State} (h : StoreInv s) :
    StoreInv (runCmd a1 s) := by
  unfold runCmd
  repeat' first
    | with_reducible assumption
    | (extract_lets +onlyGivenNames x; clear_value (e : x = _); with_reducible refine bound_state e ?_ (fun _ => ?_))
    | with_reducible refine forEach_ok (fun _ _ _ => ?_) ?_
    | with_reducible refine modSlot_keeps ?_
    | with_reducible refine nextOnTile_keeps ?_
    | split

theorem execRun_keeps {a1} {s : State} (h : StoreInv s) :
    ResOk (execRun a1 s) := by
  unfold execRun
  repeat' first
    | with_reducible assumption
    | with_reducible refine powered_keeps ?_ ?_
    | with_reducible refine runCmd_keeps ?_

theorem runComplete_keeps {a1} {s : State} (h : StoreInv s) :
    StoreInv (runComplete a1 s) := by
  unfold runComplete
  repeat' first
    | with_reducible assumption
    | with_reducible refine modSlot_keeps ?_
    | with_reducible refine complete_keeps ?_
    | split

theorem execRunComplete_keeps {a1} {s : State} (h : StoreInv s) :
    ResOk (execRunComplete a1 s) := by
  unfold execRunComplete
  repeat' first
    | with_reducible assumption
    | with_reducible refine powered_keeps ?_ ?_
    | with_reducible refine runComplete_keeps ?_

theorem seqDo_keeps {a1} {a2} {a3} {a4} {s : State} (h : StoreInv s) :
    StoreInv (seqDo a1 a2 a3 a4 s) := by
  unfold seqDo
  repeat' first
    | with_reducible assumption
    | with_reducible refine modSeq_keeps ?_
    | split

theorem seqO_keeps {a1} {a2} {a3} {a4} {s : State} (h : StoreInv s) :
    StoreInv (seqO a1 a2 a3 a4 s) := by
  unfold seqO
  repeat' first
    | with_reducible assumption
    | with_reducible refine seqDo_keeps ?_

theorem execSeqAdd_keeps {a1} {a2} {s : State} (h : StoreInv s) :
    ResOk (execSeqAdd a1 a2 s) := by
  unfold execSeqAdd
  repeat' first
    | with_reducible assumption
    | with_reducible refine powered_keeps ?_ ?_
    | with_reducible refine seqO_keeps ?_

theorem execSeqAdda_keeps {a1} {a2} {s : State} (h : StoreInv s) :
    ResOk (execSeqAdda a1 a2 s) := by
  unfold execSeqAdda
  repeat' first
    | with_reducible assumption
    | with_reducible refine powered_keeps ?_ ?_
    | with_reducible refine seqDo_keeps ?_

theorem seqK_keeps {a1} {a2} {a3} {a4} {a5} {s : State} (h : StoreInv s) :
    StoreInv (seqK a1 a2 a3 a4 a5 s) := by
  unfold seqK
  repeat' first
    | with_reducible assumption
    | with_reducible refine ite_either ?_ ?_
    | with_reducible refine seqDo_keeps ?_

theorem execSeqAddi_keeps {a1} {a2} {s : State} (h : StoreInv s) :
    ResOk (execSeqAddi a1 a2 s) := by
  unfold execSeqAddi
  repeat' first
    | with_reducible assumption
    | with_reducible refine powered_keeps ?_ ?_
    | with_reducible refine seqK_keeps ?_

theorem execSeqAnd_keeps {a1} {a2} {s : State} (h : StoreInv s) :
    ResOk (execSeqAnd a1 a2 s) := by
  unfold execSeqAnd
  repeat' first
    | with_reducible assumption
    | with_reducible refine powered_keeps ?_ ?_
    | with_reducible refine seqO_keeps ?_

theorem execSeqAndi_keeps {a1} {a2} {s : State} (h : StoreInv s) :
    ResOk (execSeqAndi a1 a2 s) := by
  unfold execSeqAndi
  repeat' first
    | with_reducible assumption
    | with_reducible refine powered_keeps ?_ ?_
    | with_reducible refine seqK_keeps ?_

theorem execSeqBr_keeps {a1} {a2} {s : State} (h : StoreInv s) :
    ResOk (execSeqBr a1 a2 s) := by
  unfold execSeqBr
  repeat' first
    | with_reducible assumption
    | with_reducible refine ite_either ?_ ?_
    | with_reducible refine powered_keeps ?_ ?_
    | with_reducible refine seqDo_keeps ?_

theorem execSeqClz_keeps {a1} {a2} {s : State} (h : StoreInv s) :
    ResOk (execSeqClz a1 a2 s) := by
  unfold execSeqClz
  repeat' first
    | with_reducible assumption
    | with_reducible refine powered_keeps ?_ ?_
    | with_reducible refine seqO_keeps ?_

theorem execSeqCmp_keeps {a1} {a2} {s : State} (h : StoreInv s) :
    ResOk (execSeqCmp a1 a2 s) := by
  unfold execSeqCmp
  repeat' first
    | with_reducible assumption
    | with_reducible refine powered_keeps ?_ ?_
    | with_reducible refine seqDo_keeps ?_

theorem execSeqCmpi_keeps {a1} {a2} {s : State} (h : StoreInv s) :
    ResOk (execSeqCmpi a1 a2 s) := by
  unfold execSeqCmpi
  repeat' first
    | with_reducible assumption
    | with_reducible refine powered_keeps ?_ ?_
    | with_reducible refine seqDo_keeps ?_

theorem execSeqCtz_keeps {a1} {a2} {s : State} (h : StoreInv s) :
    ResOk (execSeqCtz a1 a2 s) := by
  unfold execSeqCtz
  repeat' first
    | with_reducible assumption
    | with_reducible refine powered_keeps ?_ ?_
    | with_reducible refine seqO_keeps ?_

theorem setTileSt_keeps {a1} {a2} {a3} {a4} {s : State} (h : StoreInv s) :
    StoreInv (setTileSt a1 a2 a3 a4 s) := by
  unfold setTileSt
  repeat' first
    | with_reducible assumption
    | with_reducible refine ite_either ?_ ?_
    | with_reducible refine modSlot_keeps ?_

theorem settleTile_keeps {a1} {a2} {s : State} (h : StoreInv s) :
    StoreInv (settleTile a1 a2 s) := by
  unfold settleTile
  repeat' first
    | with_reducible assumption
    | (extract_lets +onlyGivenNames x; clear_value (e : x = _); with_reducible refine bound_state e ?_ (fun _ => ?_))
    | (extract_lets +onlyGivenNames x; clear_value x)
    | with_reducible refine ite_either ?_ ?_
    | with_reducible refine setTileSt_keeps ?_
    | with_reducible refine nextOnTile_keeps ?_
    | with_reducible refine modSeq_keeps ?_
    | split

theorem seqEnd_keeps {a1} {a2} {s : State} (h : StoreInv s) :
    StoreInv (seqEnd a1 a2 s) := by
  unfold seqEnd
  repeat' first
    | with_reducible assumption
    | with_reducible refine settleTile_keeps ?_
    | with_reducible refine modSeq_keeps ?_
    | split

theorem execSeqEnd_keeps {a1} {a2} {s : State} (h : StoreInv s) :
    ResOk (execSeqEnd a1 a2 s) := by
  unfold execSeqEnd
  repeat' first
    | with_reducible assumption
    | with_reducible refine powered_keeps ?_ ?_
    | with_reducible refine seqEnd_keeps ?_

theorem tileFault_keeps {a1} {a2} {a3} {a4} {a5} {s : State} (h : StoreInv s) :
    StoreInv (tileFault a1 a2 a3 a4 a5 s) := by
  unfold tileFault
  repeat' first
    | with_reducible assumption
    | (extract_lets +onlyGivenNames x; clear_value (e : x = _); with_reducible refine bound_state e ?_ (fun _ => ?_))
    | with_reducible refine ite_either ?_ ?_
    | with_reducible refine setTileSt_keeps ?_
    | with_reducible refine complete_keeps ?_
    | with_reducible refine modSlot_keeps ?_
    | with_reducible refine raiseCause_keeps ?_
    | split

theorem seqLdp_keeps {a1} {a2} {s : State} (h : StoreInv s) :
    StoreInv (seqLdp a1 a2 s) := by
  unfold seqLdp
  repeat' first
    | with_reducible assumption
    | (extract_lets +onlyGivenNames x; clear_value (e : x = _); with_reducible refine bound_state e ?_ (fun _ => ?_))
    | (extract_lets +onlyGivenNames x; clear_value x)
    | with_reducible refine ite_either ?_ ?_
    | with_reducible refine tileFault_keeps ?_
    | with_reducible refine checkWord_keeps ?_
    | with_reducible refine ask_keeps ?_
    | with_reducible refine modSeq_keeps ?_
    | fail_if_no_progress with_reducible refine of_fields ?_
    | split

theorem execSeqLdp_keeps {a1} {a2} {s : State} (h : StoreInv s) :
    ResOk (execSeqLdp a1 a2 s) := by
  unfold execSeqLdp
  repeat' first
    | with_reducible assumption
    | with_reducible refine powered_keeps ?_ ?_
    | with_reducible refine seqLdp_keeps ?_

theorem seqLineRead_keeps {a1} {a2} {a3} {a4} {s : State} (h : StoreInv s) :
    StoreInv (seqLineRead a1 a2 a3 a4 s) := by
  unfold seqLineRead
  repeat' first
    | with_reducible assumption
    | with_reducible refine tileFault_keeps ?_
    | with_reducible refine modSeq_keeps ?_
    | split

theorem execSeqLgen_keeps {a1} {a2} {s : State} (h : StoreInv s) :
    ResOk (execSeqLgen a1 a2 s) := by
  unfold execSeqLgen
  repeat' first
    | with_reducible assumption
    | with_reducible refine powered_keeps ?_ ?_
    | with_reducible refine seqLineRead_keeps ?_

theorem execSeqLocc_keeps {a1} {a2} {s : State} (h : StoreInv s) :
    ResOk (execSeqLocc a1 a2 s) := by
  unfold execSeqLocc
  repeat' first
    | with_reducible assumption
    | with_reducible refine powered_keeps ?_ ?_
    | with_reducible refine seqLineRead_keeps ?_

theorem execSeqLui_keeps {a1} {a2} {s : State} (h : StoreInv s) :
    ResOk (execSeqLui a1 a2 s) := by
  unfold execSeqLui
  repeat' first
    | with_reducible assumption
    | with_reducible refine powered_keeps ?_ ?_
    | with_reducible refine seqK_keeps ?_

theorem execSeqMax_keeps {a1} {a2} {s : State} (h : StoreInv s) :
    ResOk (execSeqMax a1 a2 s) := by
  unfold execSeqMax
  repeat' first
    | with_reducible assumption
    | with_reducible refine ite_either ?_ ?_
    | with_reducible refine powered_keeps ?_ ?_
    | with_reducible refine seqO_keeps ?_

theorem execSeqMaxu_keeps {a1} {a2} {s : State} (h : StoreInv s) :
    ResOk (execSeqMaxu a1 a2 s) := by
  unfold execSeqMaxu
  repeat' first
    | with_reducible assumption
    | with_reducible refine ite_either ?_ ?_
    | with_reducible refine powered_keeps ?_ ?_
    | with_reducible refine seqO_keeps ?_

theorem execSeqMfs_keeps {a1} {a2} {s : State} (h : StoreInv s) :
    ResOk (execSeqMfs a1 a2 s) := by
  unfold execSeqMfs
  repeat' first
    | with_reducible assumption
    | with_reducible refine powered_keeps ?_ ?_
    | with_reducible refine seqDo_keeps ?_

theorem execSeqMin_keeps {a1} {a2} {s : State} (h : StoreInv s) :
    ResOk (execSeqMin a1 a2 s) := by
  unfold execSeqMin
  repeat' first
    | with_reducible assumption
    | with_reducible refine ite_either ?_ ?_
    | with_reducible refine powered_keeps ?_ ?_
    | with_reducible refine seqO_keeps ?_

theorem execSeqMinu_keeps {a1} {a2} {s : State} (h : StoreInv s) :
    ResOk (execSeqMinu a1 a2 s) := by
  unfold execSeqMinu
  repeat' first
    | with_reducible assumption
    | with_reducible refine ite_either ?_ ?_
    | with_reducible refine powered_keeps ?_ ?_
    | with_reducible refine seqO_keeps ?_

theorem execSeqMova_keeps {a1} {a2} {s : State} (h : StoreInv s) :
    ResOk (execSeqMova a1 a2 s) := by
  unfold execSeqMova
  repeat' first
    | with_reducible assumption
    | with_reducible refine powered_keeps ?_ ?_
    | with_reducible refine seqDo_keeps ?_

theorem execSeqMovs_keeps {a1} {a2} {s : State} (h : StoreInv s) :
    ResOk (execSeqMovs a1 a2 s) := by
  unfold execSeqMovs
  repeat' first
    | with_reducible assumption
    | with_reducible refine powered_keeps ?_ ?_
    | with_reducible refine seqDo_keeps ?_

theorem execSeqMul_keeps {a1} {a2} {s : State} (h : StoreInv s) :
    ResOk (execSeqMul a1 a2 s) := by
  unfold execSeqMul
  repeat' first
    | with_reducible assumption
    | with_reducible refine powered_keeps ?_ ?_
    | with_reducible refine seqO_keeps ?_

theorem execSeqMulh_keeps {a1} {a2} {s : State} (h : StoreInv s) :
    ResOk (execSeqMulh a1 a2 s) := by
  unfold execSeqMulh
  repeat' first
    | with_reducible assumption
    | with_reducible refine powered_keeps ?_ ?_
    | with_reducible refine seqO_keeps ?_

theorem execSeqMulhu_keeps {a1} {a2} {s : State} (h : StoreInv s) :
    ResOk (execSeqMulhu a1 a2 s) := by
  unfold execSeqMulhu
  repeat' first
    | with_reducible assumption
    | with_reducible refine powered_keeps ?_ ?_
    | with_reducible refine seqO_keeps ?_

theorem execSeqNop_keeps {a1} {a2} {s : State} (h : StoreInv s) :
    ResOk (execSeqNop a1 a2 s) := by
  unfold execSeqNop
  repeat' first
    | with_reducible assumption
    | with_reducible refine powered_keeps ?_ ?_
    | with_reducible refine seqDo_keeps ?_

theorem execSeqOr_keeps {a1} {a2} {s : State} (h : StoreInv s) :
    ResOk (execSeqOr a1 a2 s) := by
  unfold execSeqOr
  repeat' first
    | with_reducible assumption
    | with_reducible refine powered_keeps ?_ ?_
    | with_reducible refine seqO_keeps ?_

theorem execSeqOri_keeps {a1} {a2} {s : State} (h : StoreInv s) :
    ResOk (execSeqOri a1 a2 s) := by
  unfold execSeqOri
  repeat' first
    | with_reducible assumption
    | with_reducible refine powered_keeps ?_ ?_
    | with_reducible refine seqK_keeps ?_

theorem execSeqPopc_keeps {a1} {a2} {s : State} (h : StoreInv s) :
    ResOk (execSeqPopc a1 a2 s) := by
  unfold execSeqPopc
  repeat' first
    | with_reducible assumption
    | with_reducible refine powered_keeps ?_ ?_
    | with_reducible refine seqO_keeps ?_

theorem execSeqSel_keeps {a1} {a2} {s : State} (h : StoreInv s) :
    ResOk (execSeqSel a1 a2 s) := by
  unfold execSeqSel
  repeat' first
    | with_reducible assumption
    | with_reducible refine ite_either ?_ ?_
    | with_reducible refine powered_keeps ?_ ?_
    | with_reducible refine seqDo_keeps ?_

theorem execSeqShl_keeps {a1} {a2} {s : State} (h : StoreInv s) :
    ResOk (execSeqShl a1 a2 s) := by
  unfold execSeqShl
  repeat' first
    | with_reducible assumption
    | with_reducible refine powered_keeps ?_ ?_
    | with_reducible refine seqO_keeps ?_

theorem execSeqShli_keeps {a1} {a2} {s : State} (h : StoreInv s) :
    ResOk (execSeqShli a1 a2 s) := by
  unfold execSeqShli
  repeat' first
    | with_reducible assumption
    | with_reducible refine powered_keeps ?_ ?_
    | with_reducible refine seqK_keeps ?_

theorem execSeqShr_keeps {a1} {a2} {s : State} (h : StoreInv s) :
    ResOk (execSeqShr a1 a2 s) := by
  unfold execSeqShr
  repeat' first
    | with_reducible assumption
    | with_reducible refine powered_keeps ?_ ?_
    | with_reducible refine seqO_keeps ?_

theorem execSeqShri_keeps {a1} {a2} {s : State} (h : StoreInv s) :
    ResOk (execSeqShri a1 a2 s) := by
  unfold execSeqShri
  repeat' first
    | with_reducible assumption
    | with_reducible refine powered_keeps ?_ ?_
    | with_reducible refine seqK_keeps ?_

theorem execSeqSra_keeps {a1} {a2} {s : State} (h : StoreInv s) :
    ResOk (execSeqSra a1 a2 s) := by
  unfold execSeqSra
  repeat' first
    | with_reducible assumption
    | with_reducible refine powered_keeps ?_ ?_
    | with_reducible refine seqO_keeps ?_

theorem execSeqSrai_keeps {a1} {a2} {s : State} (h : StoreInv s) :
    ResOk (execSeqSrai a1 a2 s) := by
  unfold execSeqSrai
  repeat' first
    | with_reducible assumption
    | with_reducible refine powered_keeps ?_ ?_
    | with_reducible refine seqK_keeps ?_

theorem seqStp_keeps {a1} {a2} {s : State} (h : StoreInv s) :
    StoreInv (seqStp a1 a2 s) := by
  unfold seqStp
  repeat' first
    | with_reducible assumption
    | (extract_lets +onlyGivenNames x; clear_value (e : x = _); with_reducible refine bound_state e ?_ (fun _ => ?_))
    | (extract_lets +onlyGivenNames x; clear_value x)
    | with_reducible refine tileFault_keeps ?_
    | with_reducible refine checkWord_keeps ?_
    | with_reducible refine ask_keeps ?_
    | with_reducible refine modSeq_keeps ?_
    | fail_if_no_progress with_reducible refine of_fields ?_
    | fail_if_no_progress with_reducible refine of_fields_mem (KV.wf_setList _ · _) id id ?_
    | split

theorem execSeqStp_keeps {a1} {a2} {s : State} (h : StoreInv s) :
    ResOk (execSeqStp a1 a2 s) := by
  unfold execSeqStp
  repeat' first
    | with_reducible assumption
    | with_reducible refine powered_keeps ?_ ?_
    | with_reducible refine seqStp_keeps ?_

theorem execSeqSub_keeps {a1} {a2} {s : State} (h : StoreInv s) :
    ResOk (execSeqSub a1 a2 s) := by
  unfold execSeqSub
  repeat' first
    | with_reducible assumption
    | with_reducible refine powered_keeps ?_ ?_
    | with_reducible refine seqO_keeps ?_

theorem seqTrap_keeps {a1} {a2} {s : State} (h : StoreInv s) :
    StoreInv (seqTrap a1 a2 s) := by
  unfold seqTrap
  repeat' first
    | with_reducible assumption
    | with_reducible refine tileFault_keeps ?_
    | split

theorem execSeqTrap_keeps {a1} {a2} {s : State} (h : StoreInv s) :
    ResOk (execSeqTrap a1 a2 s) := by
  unfold execSeqTrap
  repeat' first
    | with_reducible assumption
    | with_reducible refine powered_keeps ?_ ?_
    | with_reducible refine seqTrap_keeps ?_

theorem seqWaitu_keeps {a1} {a2} {s : State} (h : StoreInv s) :
    StoreInv (seqWaitu a1 a2 s) := by
  unfold seqWaitu
  repeat' first
    | with_reducible assumption
    | (extract_lets +onlyGivenNames x; clear_value x)
    | with_reducible refine ite_either ?_ ?_
    | with_reducible refine modSeq_keeps ?_
    | split

theorem execSeqWaitu_keeps {a1} {a2} {s : State} (h : StoreInv s) :
    ResOk (execSeqWaitu a1 a2 s) := by
  unfold execSeqWaitu
  repeat' first
    | with_reducible assumption
    | with_reducible refine powered_keeps ?_ ?_
    | with_reducible refine seqWaitu_keeps ?_

theorem seqWaituReached_keeps {a1} {a2} {s : State} (h : StoreInv s) :
    StoreInv (seqWaituReached a1 a2 s) := by
  unfold seqWaituReached
  repeat' first
    | with_reducible assumption
    | with_reducible refine ite_either ?_ ?_
    | with_reducible refine modSeq_keeps ?_
    | split

theorem execSeqWaituReached_keeps {a1} {a2} {s : State} (h : StoreInv s) :
    ResOk (execSeqWaituReached a1 a2 s) := by
  unfold execSeqWaituReached
  repeat' first
    | with_reducible assumption
    | with_reducible refine powered_keeps ?_ ?_
    | with_reducible refine seqWaituReached_keeps ?_

theorem seqWaitv_keeps {a1} {a2} {s : State} (h : StoreInv s) :
    StoreInv (seqWaitv a1 a2 s) := by
  unfold seqWaitv
  repeat' first
    | with_reducible assumption
    | with_reducible refine ite_either ?_ ?_
    | with_reducible refine modSeq_keeps ?_
    | split

theorem execSeqWaitv_keeps {a1} {a2} {s : State} (h : StoreInv s) :
    ResOk (execSeqWaitv a1 a2 s) := by
  unfold execSeqWaitv
  repeat' first
    | with_reducible assumption
    | with_reducible refine powered_keeps ?_ ?_
    | with_reducible refine seqWaitv_keeps ?_

theorem seqWaitvDrained_keeps {a1} {a2} {s : State} (h : StoreInv s) :
    StoreInv (seqWaitvDrained a1 a2 s) := by
  unfold seqWaitvDrained
  repeat' first
    | with_reducible assumption
    | with_reducible refine ite_either ?_ ?_
    | with_reducible refine modSeq_keeps ?_

theorem execSeqWaitvDrained_keeps {a1} {a2} {s : State} (h : StoreInv s) :
    ResOk (execSeqWaitvDrained a1 a2 s) := by
  unfold execSeqWaitvDrained
  repeat' first
    | with_reducible assumption
    | with_reducible refine powered_keeps ?_ ?_
    | with_reducible refine seqWaitvDrained_keeps ?_

theorem execSeqXor_keeps {a1} {a2} {s : State} (h : StoreInv s) :
    ResOk (execSeqXor a1 a2 s) := by
  unfold execSeqXor
  repeat' first
    | with_reducible assumption
    | with_reducible refine powered_keeps ?_ ?_
    | with_reducible refine seqO_keeps ?_

theorem execSeqXori_keeps {a1} {a2} {s : State} (h : StoreInv s) :
    ResOk (execSeqXori a1 a2 s) := by
  unfold execSeqXori
  repeat' first
    | with_reducible assumption
    | with_reducible refine powered_keeps ?_ ?_
    | with_reducible refine seqK_keeps ?_

theorem vectorSend_keeps {a1} {a2} {s : State} (h : StoreInv s) :
    StoreInv (vectorSend a1 a2 s) := by
  unfold vectorSend
  repeat' first
    | with_reducible assumption
    | (extract_lets +onlyGivenNames x; clear_value (e : x = _); with_reducible refine bound_state e ?_ (fun _ => ?_))
    | (extract_lets +onlyGivenNames x; clear_value x)
    | with_reducible refine ite_either ?_ ?_
    | with_reducible refine modVunit_keeps ?_
    | with_reducible refine modSeq_keeps ?_
    | split

theorem execVectorSend_keeps {a1} {a2} {s : State} (h : StoreInv s) :
    ResOk (execVectorSend a1 a2 s) := by
  unfold execVectorSend
  repeat' first
    | with_reducible assumption
    | with_reducible refine powered_keeps ?_ ?_
    | with_reducible refine vectorSend_keeps ?_

end Sys2Proof.Laws
end

