-- ==== Sys2Proof/Laws/KeepsVectorUnit.lean ====
section
/-!
SUPPORT. What VectorUnit.lean defines keeps the stores' invariant.
-/

namespace Sys2Proof.Laws

open Machine

theorem vecPop_keeps {a1} {a2} {s : State} (h : StoreInv s) :
    StoreInv (vecPop a1 a2 s) := by
  unfold vecPop
  repeat' first
    | with_reducible assumption
    | with_reducible refine settleTile_keeps ?_
    | with_reducible refine modVunit_keeps ?_

theorem vecDo_keeps {a1} {a2} {a3} {a4} {s : State} (h : StoreInv s) :
    StoreInv (vecDo a1 a2 a3 a4 s) := by
  unfold vecDo
  repeat' first
    | with_reducible assumption
    | with_reducible refine vecPop_keeps ?_
    | with_reducible refine modVunit_keeps ?_
    | split

theorem vecArith_keeps {a1} {a2} {a3} {a4} {s : State} (h : StoreInv s) :
    StoreInv (vecArith a1 a2 a3 a4 s) := by
  unfold vecArith
  repeat' first
    | with_reducible assumption
    | with_reducible refine vecDo_keeps ?_

theorem execVadd_keeps {a1} {a2} {s : State} (h : StoreInv s) :
    ResOk (execVadd a1 a2 s) := by
  unfold execVadd
  repeat' first
    | with_reducible assumption
    | with_reducible refine powered_keeps ?_ ?_
    | with_reducible refine vecArith_keeps ?_

theorem vecRow_keeps {a1} {a2} {a3} {a4} {s : State} (h : StoreInv s) :
    StoreInv (vecRow a1 a2 a3 a4 s) := by
  unfold vecRow
  repeat' first
    | with_reducible assumption
    | with_reducible refine vecDo_keeps ?_

theorem execVand_keeps {a1} {a2} {s : State} (h : StoreInv s) :
    ResOk (execVand a1 a2 s) := by
  unfold execVand
  repeat' first
    | with_reducible assumption
    | with_reducible refine powered_keeps ?_ ?_
    | with_reducible refine vecRow_keeps ?_

theorem execVbcast_keeps {a1} {a2} {s : State} (h : StoreInv s) :
    ResOk (execVbcast a1 a2 s) := by
  unfold execVbcast
  repeat' first
    | with_reducible assumption
    | with_reducible refine powered_keeps ?_ ?_
    | with_reducible refine vecDo_keeps ?_

theorem vecMap2_keeps {a1} {a2} {a3} {a4} {s : State} (h : StoreInv s) :
    StoreInv (vecMap2 a1 a2 a3 a4 s) := by
  unfold vecMap2
  repeat' first
    | with_reducible assumption
    | with_reducible refine vecDo_keeps ?_

theorem execVcmp_keeps {a1} {a2} {s : State} (h : StoreInv s) :
    ResOk (execVcmp a1 a2 s) := by
  unfold execVcmp
  repeat' first
    | with_reducible assumption
    | with_reducible refine ite_either ?_ ?_
    | with_reducible refine powered_keeps ?_ ?_
    | with_reducible refine vecMap2_keeps ?_

theorem signalNonFinite_keeps {a1} {a2} {s : State} (h : StoreInv s) :
    StoreInv (signalNonFinite a1 a2 s) := by
  unfold signalNonFinite
  repeat' first
    | with_reducible assumption
    | with_reducible refine modSlot_keeps ?_

theorem vecCvt_keeps {a1} {a2} {s : State} (h : StoreInv s) :
    StoreInv (vecCvt a1 a2 s) := by
  unfold vecCvt
  repeat' first
    | with_reducible assumption
    | (extract_lets +onlyGivenNames x; clear_value (e : x = _); with_reducible refine bound_state e ?_ (fun _ => ?_))
    | (extract_lets +onlyGivenNames x; clear_value x)
    | with_reducible refine signalNonFinite_keeps ?_
    | with_reducible refine vecPop_keeps ?_
    | with_reducible refine modVunit_keeps ?_
    | split

theorem execVcvt_keeps {a1} {a2} {s : State} (h : StoreInv s) :
    ResOk (execVcvt a1 a2 s) := by
  unfold execVcvt
  repeat' first
    | with_reducible assumption
    | with_reducible refine powered_keeps ?_ ?_
    | with_reducible refine vecCvt_keeps ?_

theorem execVfma_keeps {a1} {a2} {s : State} (h : StoreInv s) :
    ResOk (execVfma a1 a2 s) := by
  unfold execVfma
  repeat' first
    | with_reducible assumption
    | with_reducible refine powered_keeps ?_ ?_
    | with_reducible refine vecArith_keeps ?_

theorem execVfold_keeps {a1} {a2} {s : State} (h : StoreInv s) :
    ResOk (execVfold a1 a2 s) := by
  unfold execVfold
  repeat' first
    | with_reducible assumption
    | with_reducible refine foldl_ok (fun _ _ _ => ?_) ?_
    | with_reducible refine powered_keeps ?_ ?_
    | with_reducible refine vecRow_keeps ?_

theorem vecStall_keeps {a1} {a2} {a3} {s : State} (h : StoreInv s) :
    StoreInv (vecStall a1 a2 a3 s) := by
  unfold vecStall
  repeat' first
    | with_reducible assumption
    | with_reducible refine ite_either ?_ ?_
    | with_reducible refine tileFault_keeps ?_

theorem vecLd_keeps {a1} {a2} {s : State} (h : StoreInv s) :
    StoreInv (vecLd a1 a2 s) := by
  unfold vecLd
  repeat' first
    | with_reducible assumption
    | with_reducible refine lineRead_keeps ?_
    | with_reducible refine snd_ok (lineRead_keeps ?_)
    | with_reducible refine vecPop_keeps ?_
    | with_reducible refine modVunit_keeps ?_
    | with_reducible refine vecStall_keeps ?_
    | with_reducible refine tileFault_keeps ?_
    | with_reducible refine PairOk.of ?_ (by assumption)
    | split

theorem execVld_keeps {a1} {a2} {s : State} (h : StoreInv s) :
    ResOk (execVld a1 a2 s) := by
  unfold execVld
  repeat' first
    | with_reducible assumption
    | with_reducible refine powered_keeps ?_ ?_
    | with_reducible refine vecLd_keeps ?_

theorem vecLdp_keeps {a1} {a2} {s : State} (h : StoreInv s) :
    StoreInv (vecLdp a1 a2 s) := by
  unfold vecLdp
  repeat' first
    | with_reducible assumption
    | (extract_lets +onlyGivenNames x; clear_value x)
    | with_reducible refine ite_either ?_ ?_
    | with_reducible refine lineRead_keeps ?_
    | with_reducible refine snd_ok (lineRead_keeps ?_)
    | with_reducible refine modVunit_keeps ?_
    | with_reducible refine vecStall_keeps ?_
    | with_reducible refine tileFault_keeps ?_
    | with_reducible refine vecPop_keeps ?_
    | with_reducible refine PairOk.of ?_ (by assumption)
    | split
    | with_reducible refine PairOk.mk ?_

theorem execVldp_keeps {a1} {a2} {s : State} (h : StoreInv s) :
    ResOk (execVldp a1 a2 s) := by
  unfold execVldp
  repeat' first
    | with_reducible assumption
    | with_reducible refine powered_keeps ?_ ?_
    | with_reducible refine vecLdp_keeps ?_

theorem execVmatch_keeps {a1} {a2} {s : State} (h : StoreInv s) :
    ResOk (execVmatch a1 a2 s) := by
  unfold execVmatch
  repeat' first
    | with_reducible assumption
    | with_reducible refine powered_keeps ?_ ?_
    | with_reducible refine vecDo_keeps ?_

theorem execVmax_keeps {a1} {a2} {s : State} (h : StoreInv s) :
    ResOk (execVmax a1 a2 s) := by
  unfold execVmax
  repeat' first
    | with_reducible assumption
    | with_reducible refine powered_keeps ?_ ?_
    | with_reducible refine vecMap2_keeps ?_

theorem execVmin_keeps {a1} {a2} {s : State} (h : StoreInv s) :
    ResOk (execVmin a1 a2 s) := by
  unfold execVmin
  repeat' first
    | with_reducible assumption
    | with_reducible refine powered_keeps ?_ ?_
    | with_reducible refine vecMap2_keeps ?_

theorem vecMovs_keeps {a1} {a2} {s : State} (h : StoreInv s) :
    StoreInv (vecMovs a1 a2 s) := by
  unfold vecMovs
  repeat' first
    | with_reducible assumption
    | (extract_lets +onlyGivenNames x; clear_value x)
    | with_reducible refine ite_either ?_ ?_
    | with_reducible refine vecPop_keeps ?_
    | with_reducible refine modSeq_keeps ?_
    | split

theorem execVmovs_keeps {a1} {a2} {s : State} (h : StoreInv s) :
    ResOk (execVmovs a1 a2 s) := by
  unfold execVmovs
  repeat' first
    | with_reducible assumption
    | with_reducible refine powered_keeps ?_ ?_
    | with_reducible refine vecMovs_keeps ?_

theorem execVmul_keeps {a1} {a2} {s : State} (h : StoreInv s) :
    ResOk (execVmul a1 a2 s) := by
  unfold execVmul
  repeat' first
    | with_reducible assumption
    | with_reducible refine powered_keeps ?_ ?_
    | with_reducible refine vecArith_keeps ?_

theorem execVnzb_keeps {a1} {a2} {s : State} (h : StoreInv s) :
    ResOk (execVnzb a1 a2 s) := by
  unfold execVnzb
  repeat' first
    | with_reducible assumption
    | with_reducible refine powered_keeps ?_ ?_
    | with_reducible refine vecRow_keeps ?_

theorem execVor_keeps {a1} {a2} {s : State} (h : StoreInv s) :
    ResOk (execVor a1 a2 s) := by
  unfold execVor
  repeat' first
    | with_reducible assumption
    | with_reducible refine powered_keeps ?_ ?_
    | with_reducible refine vecRow_keeps ?_

theorem vecPack_keeps {a1} {a2} {s : State} (h : StoreInv s) :
    StoreInv (vecPack a1 a2 s) := by
  unfold vecPack
  repeat' first
    | with_reducible assumption
    | (extract_lets +onlyGivenNames x; clear_value (e : x = _); with_reducible refine bound_state e ?_ (fun _ => ?_))
    | (extract_lets +onlyGivenNames x; clear_value x)
    | with_reducible refine ite_either ?_ ?_
    | with_reducible refine signalNonFinite_keeps ?_
    | with_reducible refine vecPop_keeps ?_
    | with_reducible refine modVunit_keeps ?_
    | split

theorem execVpack_keeps {a1} {a2} {s : State} (h : StoreInv s) :
    ResOk (execVpack a1 a2 s) := by
  unfold execVpack
  repeat' first
    | with_reducible assumption
    | with_reducible refine powered_keeps ?_ ?_
    | with_reducible refine vecPack_keeps ?_

theorem execVpopc_keeps {a1} {a2} {s : State} (h : StoreInv s) :
    ResOk (execVpopc a1 a2 s) := by
  unfold execVpopc
  repeat' first
    | with_reducible assumption
    | with_reducible refine ite_either ?_ ?_
    | with_reducible refine powered_keeps ?_ ?_
    | with_reducible refine vecDo_keeps ?_

theorem execVredm_keeps {a1} {a2} {s : State} (h : StoreInv s) :
    ResOk (execVredm a1 a2 s) := by
  unfold execVredm
  repeat' first
    | with_reducible assumption
    | with_reducible refine powered_keeps ?_ ?_
    | with_reducible refine vecRow_keeps ?_

theorem execVreds_keeps {a1} {a2} {s : State} (h : StoreInv s) :
    ResOk (execVreds a1 a2 s) := by
  unfold execVreds
  repeat' first
    | with_reducible assumption
    | with_reducible refine powered_keeps ?_ ?_
    | with_reducible refine vecRow_keeps ?_

theorem execVsel_keeps {a1} {a2} {s : State} (h : StoreInv s) :
    ResOk (execVsel a1 a2 s) := by
  unfold execVsel
  repeat' first
    | with_reducible assumption
    | with_reducible refine ite_either ?_ ?_
    | with_reducible refine powered_keeps ?_ ?_
    | with_reducible refine vecDo_keeps ?_

theorem vecSt_keeps {a1} {a2} {s : State} (h : StoreInv s) :
    StoreInv (vecSt a1 a2 s) := by
  unfold vecSt
  repeat' first
    | with_reducible assumption
    | with_reducible refine lineWrite_keeps ?_
    | with_reducible refine snd_ok (lineWrite_keeps ?_)
    | with_reducible refine vecPop_keeps ?_
    | with_reducible refine vecStall_keeps ?_
    | with_reducible refine tileFault_keeps ?_
    | with_reducible refine PairOk.of ?_ (by assumption)
    | split

theorem execVst_keeps {a1} {a2} {s : State} (h : StoreInv s) :
    ResOk (execVst a1 a2 s) := by
  unfold execVst
  repeat' first
    | with_reducible assumption
    | with_reducible refine powered_keeps ?_ ?_
    | with_reducible refine vecSt_keeps ?_

theorem execVsub_keeps {a1} {a2} {s : State} (h : StoreInv s) :
    ResOk (execVsub a1 a2 s) := by
  unfold execVsub
  repeat' first
    | with_reducible assumption
    | with_reducible refine powered_keeps ?_ ?_
    | with_reducible refine vecArith_keeps ?_

theorem execVtab_keeps {a1} {a2} {s : State} (h : StoreInv s) :
    ResOk (execVtab a1 a2 s) := by
  unfold execVtab
  repeat' first
    | with_reducible assumption
    | with_reducible refine powered_keeps ?_ ?_
    | with_reducible refine vecDo_keeps ?_

theorem execVxor_keeps {a1} {a2} {s : State} (h : StoreInv s) :
    ResOk (execVxor a1 a2 s) := by
  unfold execVxor
  repeat' first
    | with_reducible assumption
    | with_reducible refine powered_keeps ?_ ?_
    | with_reducible refine vecRow_keeps ?_

end Sys2Proof.Laws
end

