-- ==== Sys2Proof/Laws/KeepsMangle.lean ====
section
/-!
SUPPORT. What Mangle.lean defines keeps the stores' invariant.
-/

namespace Sys2Proof.Laws

open Machine

theorem opFault_keeps {a1} {a2} {a3} {s : State} (h : StoreInv s) :
    StoreInv (opFault a1 a2 a3 s) := by
  unfold opFault
  repeat' first
    | with_reducible assumption
    | with_reducible refine raiseCause_keeps ?_
    | with_reducible refine abortOp_keeps ?_

theorem bridgeParity_keeps {a1} {a2} {a3} {s : State} (h : StoreInv s) :
    StoreInv (bridgeParity a1 a2 a3 s) := by
  unfold bridgeParity
  repeat' first
    | with_reducible assumption
    | (extract_lets +onlyGivenNames x; clear_value (e : x = _); with_reducible refine bound_state e ?_ (fun _ => ?_))
    | with_reducible refine ite_either ?_ ?_
    | with_reducible refine opFault_keeps ?_
    | with_reducible refine log_keeps ?_
    | with_reducible refine trigger_keeps ?_
    | split

theorem bubble_keeps {a1} {a2} {s : State} (h : StoreInv s) :
    StoreInv (bubble a1 a2 s) := by
  unfold bubble
  repeat' first
    | with_reducible assumption
    | (extract_lets +onlyGivenNames x; clear_value (e : x = _); with_reducible refine bound_state e ?_ (fun _ => ?_))
    | (extract_lets +onlyGivenNames x; clear_value x)
    | with_reducible refine ite_either ?_ ?_
    | with_reducible refine forEach_ok (fun _ _ _ => ?_) ?_
    | with_reducible refine addWait_keeps ?_
    | with_reducible refine addStall_keeps ?_
    | with_reducible refine modCtr_keeps ?_
    | with_reducible refine modOp_keeps ?_
    | with_reducible refine opFault_keeps ?_

theorem destsWrite_keeps {a1 a2} {a3 : List HoldDest} {s : State} (h : StoreInv s) :
    PairOk (destsWrite a1 a2 a3 s) := by
  induction a3 generalizing s with
  | nil => exact h
  | cons d ds ih =>
    unfold destsWrite
    split
    · rename_i e; exact PairOk.mk (PairOk.of (lineWrite_keeps h) e)
    · rename_i e; exact ih (PairOk.of (lineWrite_keeps h) e)

theorem bufferWrite_keeps {a1} {s : State} (h : StoreInv s) :
    StoreInv (bufferWrite a1 s) := by
  unfold bufferWrite
  repeat' first
    | with_reducible assumption
    | (extract_lets +onlyGivenNames x; clear_value (e : x = _); with_reducible refine bound_state e ?_ (fun _ => ?_))
    | (extract_lets +onlyGivenNames x; clear_value x)
    | with_reducible refine settleHold_keeps ?_
    | with_reducible refine modMgl_keeps ?_
    | with_reducible refine destsWrite_keeps ?_
    | with_reducible refine snd_ok (destsWrite_keeps ?_)
    | with_reducible refine opFault_keeps ?_
    | with_reducible refine PairOk.of ?_ (by assumption)
    | split

theorem emitRow_keeps {a1} {a2} {a3} {s : State} (h : StoreInv s) :
    StoreInv (emitRow a1 a2 a3 s) := by
  unfold emitRow
  repeat' first
    | with_reducible assumption
    | (extract_lets +onlyGivenNames x; clear_value (e : x = _); with_reducible refine bound_state e ?_ (fun _ => ?_))
    | (extract_lets +onlyGivenNames x; clear_value x)
    | with_reducible refine ite_either ?_ ?_
    | with_reducible refine opFault_keeps ?_
    | with_reducible refine destsWrite_keeps ?_
    | with_reducible refine snd_ok (destsWrite_keeps ?_)
    | with_reducible refine settleHold_keeps ?_
    | with_reducible refine modMgl_keeps ?_
    | with_reducible refine PairOk.of ?_ (by assumption)
    | split

theorem emitDests_keeps {a1} {a2} {a3} {s : State} (h : StoreInv s) :
    StoreInv (emitDests a1 a2 a3 s) := by
  unfold emitDests
  repeat' first
    | with_reducible assumption
    | with_reducible refine ite_either ?_ ?_
    | with_reducible refine emitRow_keeps ?_

theorem emitPart_keeps {a1} {a2} {a3} {a4} {a5} {a6} {a7} {s : State} (h : StoreInv s) :
    StoreInv (emitPart a1 a2 a3 a4 a5 a6 a7 s) := by
  unfold emitPart
  repeat' first
    | with_reducible assumption
    | (extract_lets +onlyGivenNames x; clear_value x)
    | with_reducible refine emitRow_keeps ?_
    | with_reducible refine modOp_keeps ?_

theorem colRows_keeps {a1} {a2} {a3} {a4} {a5} {s : State} (h : StoreInv s) :
    StoreInv (colRows a1 a2 a3 a4 a5 s) := by
  unfold colRows
  repeat' first
    | with_reducible assumption
    | (extract_lets +onlyGivenNames x; clear_value (e : x = _); with_reducible refine bound_state e ?_ (fun _ => ?_))
    | (extract_lets +onlyGivenNames x; clear_value x)
    | with_reducible refine ite_either ?_ ?_
    | with_reducible refine modOp_keeps ?_
    | with_reducible refine modCtr_keeps ?_
    | with_reducible refine emitDests_keeps ?_
    | with_reducible refine emitPart_keeps ?_

theorem doSwap_keeps {a1} {s : State} (h : StoreInv s) :
    StoreInv (doSwap a1 s) := by
  unfold doSwap
  repeat' first
    | with_reducible assumption
    | (extract_lets +onlyGivenNames x; clear_value x)
    | with_reducible refine ite_either ?_ ?_
    | with_reducible refine takeAll_keeps ?_
    | with_reducible refine snd_ok (takeAll_keeps ?_)
    | with_reducible refine opFault_keeps ?_
    | with_reducible refine modOp_keeps ?_
    | with_reducible refine PairOk.of ?_ (by assumption)
    | split
    | with_reducible refine PairOk.mk ?_

theorem storeStep_keeps {a1} {a2} {a3} {a4} {s : State} (h : StoreInv s) :
    PairOk (storeStep a1 a2 a3 a4 s) := by
  unfold storeStep
  dsimp only
  repeat' first
    | with_reducible assumption
    | with_reducible exact ExPairOk.of ‹_› rfl
    | with_reducible exact ExTripOk.of ‹_› rfl
    | with_reducible refine ite_either ?_ ?_
    | with_reducible refine modMgl_keeps ?_
    | with_reducible refine PairOk.of ?_ (by assumption)
    | fail_if_no_progress with_reducible refine of_fields ?_
    | split
    | with_reducible refine PairOk.mk ?_

theorem retFp4_keeps {a1} {a2} {a3} {a4} {s : State} (h : StoreInv s) :
    StoreInv (retFp4 a1 a2 a3 a4 s) := by
  unfold retFp4
  repeat' first
    | with_reducible assumption
    | (extract_lets +onlyGivenNames x; clear_value (e : x = _); with_reducible refine bound_state e ?_ (fun _ => ?_))
    | (extract_lets +onlyGivenNames x; clear_value x)
    | with_reducible refine ite_either ?_ ?_
    | with_reducible refine modOp_keeps ?_
    | with_reducible refine emitPart_keeps ?_

theorem outStep_keeps {a1} {a2} {a3} {a4} {s : State} (h : StoreInv s) :
    StoreInv (outStep a1 a2 a3 a4 s) := by
  unfold outStep
  repeat' first
    | with_reducible assumption
    | (extract_lets +onlyGivenNames x; clear_value (e : x = _); with_reducible refine bound_state e ?_ (fun _ => ?_))
    | (extract_lets +onlyGivenNames x; clear_value x)
    | with_reducible refine ite_either ?_ ?_
    | with_reducible refine forEach_ok (fun _ _ _ => ?_) ?_
    | with_reducible refine modCtr_keeps ?_
    | with_reducible refine signalNonFinite_keeps ?_
    | with_reducible refine colRows_keeps ?_
    | with_reducible refine retFp4_keeps ?_

theorem drainStep_keeps {a1} {a2} {a3} {a4} {s : State} (h : StoreInv s) :
    StoreInv (drainStep a1 a2 a3 a4 s) := by
  unfold drainStep
  repeat' first
    | with_reducible assumption
    | (extract_lets +onlyGivenNames x; clear_value (e : x = _); with_reducible refine bound_state e ?_ (fun _ => ?_))
    | (extract_lets +onlyGivenNames x; clear_value x)
    | with_reducible refine ite_either ?_ ?_
    | with_reducible refine modCtr_keeps ?_
    | with_reducible refine modOp_keeps ?_
    | with_reducible refine opFault_keeps ?_
    | with_reducible refine trigger_keeps ?_
    | with_reducible refine storeStep_keeps ?_
    | with_reducible refine snd_ok (storeStep_keeps ?_)
    | with_reducible refine outStep_keeps ?_
    | with_reducible refine PairOk.of ?_ (by assumption)
    | split

theorem takeD_keeps {a1} {a2} {a3} {a4} {a5} {s : State} (h : StoreInv s) :
    PairOk (takeD a1 a2 a3 a4 a5 s) := by
  induction a5 generalizing s with
  | nil =>
    unfold takeD
    repeat' first
      | with_reducible assumption
      | with_reducible refine ite_either ?_ ?_
      | with_reducible refine startRead_keeps ?_
      | with_reducible refine takeRows_keeps ?_
      | with_reducible refine snd_ok (takeRows_keeps ?_)
      | with_reducible refine modOp_keeps ?_
      | with_reducible refine PairOk.of ?_ (by assumption)
      | split
      | with_reducible refine PairOk.mk ?_
  | cons _ _ ih =>
    unfold takeD
    repeat' first
      | with_reducible assumption
      | with_reducible refine ih ?_
      | with_reducible refine snd_ok (ih ?_)
      | with_reducible refine ite_either ?_ ?_
      | with_reducible refine startRead_keeps ?_
      | with_reducible refine takeRows_keeps ?_
      | with_reducible refine snd_ok (takeRows_keeps ?_)
      | with_reducible refine modOp_keeps ?_
      | with_reducible refine PairOk.of ?_ (by assumption)
      | split
      | with_reducible refine PairOk.mk ?_

theorem drainVector_keeps {a1} {a2} {s : State} (h : StoreInv s) :
    StoreInv (drainVector a1 a2 s) := by
  unfold drainVector
  repeat' first
    | with_reducible assumption
    | (extract_lets +onlyGivenNames x; clear_value (e : x = _); with_reducible refine bound_state e ?_ (fun _ => ?_))
    | (extract_lets +onlyGivenNames x; clear_value x)
    | with_reducible refine ite_either ?_ ?_
    | with_reducible refine takeD_keeps ?_
    | with_reducible refine snd_ok (takeD_keeps ?_)
    | with_reducible refine opFault_keeps ?_
    | with_reducible refine settleHold_keeps ?_
    | with_reducible refine modMgl_keeps ?_
    | with_reducible refine drainStep_keeps ?_
    | with_reducible refine PairOk.of ?_ (by assumption)
    | split

theorem execBridgeParityError_keeps {a1} {a2} {a3} {s : State} (h : StoreInv s) :
    ResOk (execBridgeParityError a1 a2 a3 s) := by
  unfold execBridgeParityError
  repeat' first
    | with_reducible assumption
    | with_reducible refine powered_keeps ?_ ?_
    | with_reducible refine bridgeParity_keeps ?_

theorem execDrainAbortSignal_keeps {s : State} (h : StoreInv s) :
    ResOk (execDrainAbortSignal s) := by
  unfold execDrainAbortSignal
  repeat' first
    | with_reducible assumption
    | with_reducible refine powered_keeps ?_ ?_
    | with_reducible refine drainAbort_keeps ?_

theorem execDrainBufferWrite_keeps {a1} {s : State} (h : StoreInv s) :
    ResOk (execDrainBufferWrite a1 s) := by
  unfold execDrainBufferWrite
  repeat' first
    | with_reducible assumption
    | with_reducible refine powered_keeps ?_ ?_
    | with_reducible refine bufferWrite_keeps ?_

theorem execDrainVector_keeps {a1} {a2} {s : State} (h : StoreInv s) :
    ResOk (execDrainVector a1 a2 s) := by
  unfold execDrainVector
  repeat' first
    | with_reducible assumption
    | with_reducible refine powered_keeps ?_ ?_
    | with_reducible refine drainVector_keeps ?_

theorem mglStart_keeps {a1} {a2} {s : State} (h : StoreInv s) :
    StoreInv (mglStart a1 a2 s) := by
  unfold mglStart
  repeat' first
    | with_reducible assumption
    | (extract_lets +onlyGivenNames x; clear_value (e : x = _); with_reducible refine bound_state e ?_ (fun _ => ?_))
    | (extract_lets +onlyGivenNames x; clear_value x)
    | with_reducible refine ite_either ?_ ?_
    | with_reducible refine forEach_ok (fun _ _ _ => ?_) ?_
    | with_reducible refine modSlot_keeps ?_
    | with_reducible refine mglIdle_keeps ?_
    | with_reducible refine raiseCause_keeps ?_
    | with_reducible refine complete_keeps ?_
    | with_reducible refine modMgl_keeps ?_
    | with_reducible refine startRead_keeps ?_
    | with_reducible refine opFault_keeps ?_
    | with_reducible refine modCtr_keeps ?_
    | split

theorem execDummy_keeps {a1} {s : State} (h : StoreInv s) :
    ResOk (execDummy a1 s) := by
  unfold execDummy
  repeat' first
    | with_reducible assumption
    | with_reducible refine powered_keeps ?_ ?_
    | with_reducible refine mglStart_keeps ?_

theorem levelBoundHit_keeps {a1} {s : State} (h : StoreInv s) :
    StoreInv (levelBoundHit a1 s) := by
  unfold levelBoundHit
  repeat' first
    | with_reducible assumption
    | (extract_lets +onlyGivenNames x; clear_value x)
    | with_reducible refine ite_either ?_ ?_
    | with_reducible refine opFault_keeps ?_
    | split

theorem execLevelBound_keeps {a1} {s : State} (h : StoreInv s) :
    ResOk (execLevelBound a1 s) := by
  unfold execLevelBound
  repeat' first
    | with_reducible assumption
    | with_reducible refine powered_keeps ?_ ?_
    | with_reducible refine levelBoundHit_keeps ?_

theorem mangleFreeze_keeps {s : State} (h : StoreInv s) :
    StoreInv (mangleFreeze s) := by
  unfold mangleFreeze
  repeat' first
    | with_reducible assumption
    | with_reducible refine ite_either ?_ ?_
    | with_reducible refine modMgl_keeps ?_

theorem execMangleFreeze_keeps {s : State} (h : StoreInv s) :
    ResOk (execMangleFreeze s) := by
  unfold execMangleFreeze
  repeat' first
    | with_reducible assumption
    | with_reducible refine powered_keeps ?_ ?_
    | with_reducible refine mangleFreeze_keeps ?_

theorem mangleResume_keeps {s : State} (h : StoreInv s) :
    StoreInv (mangleResume s) := by
  unfold mangleResume
  repeat' first
    | with_reducible assumption
    | with_reducible refine ite_either ?_ ?_
    | with_reducible refine modMgl_keeps ?_

theorem execMangleResume_keeps {s : State} (h : StoreInv s) :
    ResOk (execMangleResume s) := by
  unfold execMangleResume
  repeat' first
    | with_reducible assumption
    | with_reducible refine powered_keeps ?_ ?_
    | with_reducible refine mangleResume_keeps ?_

theorem execPass_keeps {a1} {s : State} (h : StoreInv s) :
    ResOk (execPass a1 s) := by
  unfold execPass
  repeat' first
    | with_reducible assumption
    | with_reducible refine powered_keeps ?_ ?_
    | with_reducible refine mglStart_keeps ?_

theorem passComplete_keeps {s : State} (h : StoreInv s) :
    StoreInv (passComplete s) := by
  unfold passComplete
  repeat' first
    | with_reducible assumption
    | (extract_lets +onlyGivenNames x; clear_value (e : x = _); with_reducible refine bound_state e ?_ (fun _ => ?_))
    | with_reducible refine ite_either ?_ ?_
    | with_reducible refine complete_keeps ?_
    | with_reducible refine modCtr_keeps ?_
    | with_reducible refine modMgl_keeps ?_
    | with_reducible refine mglIdle_keeps ?_
    | split

theorem execPassComplete_keeps {s : State} (h : StoreInv s) :
    ResOk (execPassComplete s) := by
  unfold execPassComplete
  repeat' first
    | with_reducible assumption
    | with_reducible refine powered_keeps ?_ ?_
    | with_reducible refine passComplete_keeps ?_

theorem execRamp_keeps {a1} {s : State} (h : StoreInv s) :
    ResOk (execRamp a1 s) := by
  unfold execRamp
  repeat' first
    | with_reducible assumption
    | with_reducible refine powered_keeps ?_ ?_
    | with_reducible refine mglStart_keeps ?_

theorem swapInject_keeps {s : State} (h : StoreInv s) :
    StoreInv (swapInject s) := by
  unfold swapInject
  repeat' first
    | with_reducible assumption
    | with_reducible refine ite_either ?_ ?_
    | with_reducible refine opFault_keeps ?_
    | with_reducible refine doSwap_keeps ?_
    | with_reducible refine bubble_keeps ?_
    | split

theorem execSwapInject_keeps {s : State} (h : StoreInv s) :
    ResOk (execSwapInject s) := by
  unfold execSwapInject
  repeat' first
    | with_reducible assumption
    | with_reducible refine powered_keeps ?_ ?_
    | with_reducible refine swapInject_keeps ?_

theorem vecRows_keeps {a1} {a2} {s : State} (h : StoreInv s) :
    PairOk (vecRows a1 a2 s) := by
  unfold vecRows
  repeat' first
    | with_reducible assumption
    | (extract_lets +onlyGivenNames x; clear_value x)
    | with_reducible refine ite_either ?_ ?_
    | with_reducible refine takeAll_keeps ?_
    | with_reducible refine snd_ok (takeAll_keeps ?_)
    | with_reducible refine PairOk.of ?_ (by assumption)
    | split
    | with_reducible refine PairOk.mk ?_

theorem injectVec_keeps {a1} {a2} {s : State} (h : StoreInv s) :
    StoreInv (injectVec a1 a2 s) := by
  unfold injectVec
  repeat' first
    | with_reducible assumption
    | (extract_lets +onlyGivenNames x; clear_value (e : x = _); with_reducible refine bound_state e ?_ (fun _ => ?_))
    | (extract_lets +onlyGivenNames x; clear_value x)
    | with_reducible refine ite_either ?_ ?_
    | with_reducible refine opFault_keeps ?_
    | with_reducible refine modOp_keeps ?_
    | with_reducible refine modCtr_keeps ?_

theorem vectorInject_keeps {s : State} (h : StoreInv s) :
    StoreInv (vectorInject s) := by
  unfold vectorInject
  repeat' first
    | with_reducible assumption
    | with_reducible refine ite_either ?_ ?_
    | with_reducible refine opFault_keeps ?_
    | with_reducible refine vecRows_keeps ?_
    | with_reducible refine snd_ok (vecRows_keeps ?_)
    | with_reducible refine injectVec_keeps ?_
    | with_reducible refine bubble_keeps ?_
    | with_reducible refine PairOk.of ?_ (by assumption)
    | split

theorem execVectorInject_keeps {s : State} (h : StoreInv s) :
    ResOk (execVectorInject s) := by
  unfold execVectorInject
  repeat' first
    | with_reducible assumption
    | with_reducible refine powered_keeps ?_ ?_
    | with_reducible refine vectorInject_keeps ?_

theorem freeTick_keeps {s : State} (h : StoreInv s) :
    StoreInv (freeTick s) := by
  unfold freeTick
  repeat' first
    | with_reducible assumption
    | (extract_lets +onlyGivenNames x; clear_value x)
    | with_reducible refine ite_either ?_ ?_
    | with_reducible refine mglIdle_keeps ?_
    | with_reducible refine modMgl_keeps ?_

theorem frozenTick_keeps {s : State} (h : StoreInv s) :
    StoreInv (frozenTick s) := by
  unfold frozenTick
  repeat' first
    | with_reducible assumption
    | with_reducible refine modMgl_keeps ?_
    | with_reducible refine modCtr_keeps ?_

theorem mangleRangeStart_keeps {s : State} (h : StoreInv s) :
    StoreInv (mangleRangeStart s) := by
  unfold mangleRangeStart
  repeat' first
    | with_reducible assumption
    | with_reducible refine modMgl_keeps ?_

theorem mangleTick_keeps {s : State} (h : StoreInv s) :
    StoreInv (mangleTick s) := by
  unfold mangleTick
  repeat' first
    | with_reducible assumption
    | (extract_lets +onlyGivenNames x; clear_value (e : x = _); with_reducible refine bound_state e ?_ (fun _ => ?_))
    | (extract_lets +onlyGivenNames x; clear_value x)
    | with_reducible refine ite_either ?_ ?_
    | with_reducible refine forEach_ok (fun _ _ _ => ?_) ?_
    | with_reducible refine addWait_keeps ?_
    | with_reducible refine addStall_keeps ?_
    | with_reducible refine frozenTick_keeps ?_
    | with_reducible refine freeTick_keeps ?_

end Sys2Proof.Laws
end

