-- ==== Sys2Proof/Laws/KeepsLink.lean ====
section
/-!
SUPPORT. What Link.lean defines keeps the stores' invariant.
-/

namespace Sys2Proof.Laws

open Machine

theorem acceptFlit_keeps {a1} {a2} {a3} {s : State} (h : StoreInv s) :
    StoreInv (acceptFlit a1 a2 a3 s) := by
  unfold acceptFlit
  repeat' first
    | with_reducible assumption
    | (extract_lets +onlyGivenNames x; clear_value (e : x = _); with_reducible refine bound_state e ?_ (fun _ => ?_))
    | (extract_lets +onlyGivenNames x; clear_value x)
    | with_reducible refine ite_either ?_ ?_
    | with_reducible refine modPort_keeps ?_
    | with_reducible refine log_keeps ?_
    | split

theorem actFault_keeps {a1} {a2} {a3} {s : State} (h : StoreInv s) :
    StoreInv (actFault a1 a2 a3 s) := by
  unfold actFault
  repeat' first
    | with_reducible assumption
    | (extract_lets +onlyGivenNames x; clear_value (e : x = _); with_reducible refine bound_state e ?_ (fun _ => ?_))
    | (extract_lets +onlyGivenNames x; clear_value x)
    | with_reducible refine ite_either ?_ ?_
    | with_reducible refine endAct_keeps ?_
    | with_reducible refine raiseCause_keeps ?_

theorem pushPrio_keeps {a1} {a2} {s : State} (h : StoreInv s) :
    StoreInv (pushPrio a1 a2 s) := by
  unfold pushPrio
  repeat' first
    | with_reducible assumption
    | with_reducible refine modPort_keeps ?_

theorem alignDone_keeps {a1} {s : State} (h : StoreInv s) :
    StoreInv (alignDone a1 s) := by
  unfold alignDone
  repeat' first
    | with_reducible assumption
    | with_reducible refine ite_either ?_ ?_
    | with_reducible refine pushPrio_keeps ?_
    | with_reducible refine modPort_keeps ?_

theorem arbLost_keeps {a1} {s : State} (h : StoreInv s) :
    StoreInv (arbLost a1 s) := by
  unfold arbLost
  repeat' first
    | with_reducible assumption
    | (extract_lets +onlyGivenNames x; clear_value (e : x = _); with_reducible refine bound_state e ?_ (fun _ => ?_))
    | (extract_lets +onlyGivenNames x; clear_value x)
    | with_reducible refine ite_either ?_ ?_
    | with_reducible refine modSlot_keeps ?_
    | with_reducible refine actFault_keeps ?_
    | split

theorem pushLink_keeps {a1} {a2} {a3} {s : State} (h : StoreInv s) :
    StoreInv (pushLink a1 a2 a3 s) := by
  unfold pushLink
  repeat' first
    | with_reducible assumption
    | with_reducible refine pushPrio_keeps ?_

theorem askKeeper_keeps {a1} {s : State} (h : StoreInv s) :
    StoreInv (askKeeper a1 s) := by
  unfold askKeeper
  repeat' first
    | with_reducible assumption
    | with_reducible refine ite_either ?_ ?_
    | with_reducible refine pushLink_keeps ?_
    | with_reducible refine modPort_keeps ?_

theorem askRecalibrate_keeps {a1} {s : State} (h : StoreInv s) :
    StoreInv (askRecalibrate a1 s) := by
  unfold askRecalibrate
  repeat' first
    | with_reducible assumption
    | with_reducible refine ite_either ?_ ?_
    | with_reducible refine pushLink_keeps ?_
    | with_reducible refine modPort_keeps ?_

theorem askResume_keeps {a1} {s : State} (h : StoreInv s) :
    StoreInv (askResume a1 s) := by
  unfold askResume
  repeat' first
    | with_reducible assumption
    | with_reducible refine ite_either ?_ ?_
    | with_reducible refine pushLink_keeps ?_
    | with_reducible refine modPort_keeps ?_

theorem triggerLink_keeps {a1} {s : State} (h : StoreInv s) :
    StoreInv (triggerLink a1 s) := by
  unfold triggerLink
  repeat' first
    | with_reducible assumption
    | with_reducible refine trigger_keeps ?_

theorem badCheck_keeps {a1} {s : State} (h : StoreInv s) :
    StoreInv (badCheck a1 s) := by
  unfold badCheck
  repeat' first
    | with_reducible assumption
    | (extract_lets +onlyGivenNames x; clear_value (e : x = _); with_reducible refine bound_state e ?_ (fun _ => ?_))
    | with_reducible refine ite_either ?_ ?_
    | with_reducible refine modPort_keeps ?_
    | with_reducible refine note_keeps ?_
    | with_reducible refine triggerLink_keeps ?_
    | with_reducible refine log_keeps ?_
    | with_reducible refine modGhl_keeps ?_

theorem calibrateDone_keeps {a1} {s : State} (h : StoreInv s) :
    StoreInv (calibrateDone a1 s) := by
  unfold calibrateDone
  repeat' first
    | with_reducible assumption
    | (extract_lets +onlyGivenNames x; clear_value (e : x = _); with_reducible refine bound_state e ?_ (fun _ => ?_))
    | with_reducible refine ite_either ?_ ?_
    | with_reducible refine modPort_keeps ?_
    | with_reducible refine log_keeps ?_

theorem staleDrop_keeps {a1} {s : State} (h : StoreInv s) :
    StoreInv (staleDrop a1 s) := by
  unfold staleDrop
  repeat' first
    | with_reducible assumption
    | with_reducible refine modGhl_keeps ?_

theorem receiptIn_keeps {a1} {s : State} (h : StoreInv s) :
    StoreInv (receiptIn a1 s) := by
  unfold receiptIn
  repeat' first
    | with_reducible assumption
    | (extract_lets +onlyGivenNames x; clear_value (e : x = _); with_reducible refine bound_state e ?_ (fun _ => ?_))
    | (extract_lets +onlyGivenNames x; clear_value x)
    | with_reducible refine ite_either ?_ ?_
    | with_reducible refine staleDrop_keeps ?_
    | with_reducible refine triggerLink_keeps ?_
    | with_reducible refine actFault_keeps ?_
    | with_reducible refine modAct_keeps ?_
    | with_reducible refine endAct_keeps ?_
    | split

theorem sendReceipt_keeps {a1} {s : State} (h : StoreInv s) :
    StoreInv (sendReceipt a1 s) := by
  unfold sendReceipt
  repeat' first
    | with_reducible assumption
    | with_reducible refine receiptIn_keeps ?_
    | with_reducible refine modPort_keeps ?_
    | with_reducible refine countNoRoute_keeps ?_
    | split

theorem losePkt_keeps {a1} {s : State} (h : StoreInv s) :
    StoreInv (losePkt a1 s) := by
  unfold losePkt
  repeat' first
    | with_reducible assumption
    | with_reducible refine ite_either ?_ ?_
    | with_reducible refine sendReceipt_keeps ?_

theorem quietPort_keeps {a1} {s : State} (h : StoreInv s) :
    StoreInv (quietPort a1 s) := by
  unfold quietPort
  repeat' first
    | with_reducible assumption
    | (extract_lets +onlyGivenNames x; clear_value x)
    | with_reducible refine forEach_ok (fun _ _ _ => ?_) ?_
    | with_reducible refine losePkt_keeps ?_
    | with_reducible refine modPort_keeps ?_

theorem capIn_keeps {a1} {a2} {s : State} (h : StoreInv s) :
    StoreInv (capIn a1 a2 s) := by
  unfold capIn
  repeat' first
    | with_reducible assumption
    | (extract_lets +onlyGivenNames x; clear_value (e : x = _); with_reducible refine bound_state e ?_ (fun _ => ?_))
    | (extract_lets +onlyGivenNames x; clear_value x)
    | with_reducible refine ite_either ?_ ?_
    | with_reducible refine foldl_ok (fun _ _ _ => ?_) ?_
    | with_reducible refine modPort_keeps ?_
    | with_reducible refine quietPort_keeps ?_

theorem sendTally_keeps {s : State} (h : StoreInv s) :
    StoreInv (sendTally s) := by
  unfold sendTally
  repeat' first
    | with_reducible assumption
    | (extract_lets +onlyGivenNames x; clear_value (e : x = _); with_reducible refine bound_state e ?_ (fun _ => ?_))
    | (extract_lets +onlyGivenNames x; clear_value x)
    | with_reducible refine ite_either ?_ ?_
    | with_reducible refine modStroke_keeps ?_
    | with_reducible refine pushPrio_keeps ?_

theorem sendIfAll_keeps {s : State} (h : StoreInv s) :
    StoreInv (sendIfAll s) := by
  unfold sendIfAll
  repeat' first
    | with_reducible assumption
    | (extract_lets +onlyGivenNames x; clear_value x)
    | with_reducible refine ite_either ?_ ?_
    | with_reducible refine sendTally_keeps ?_

theorem closingBand_keeps {s : State} (h : StoreInv s) :
    StoreInv (closingBand s) := by
  unfold closingBand
  repeat' first
    | with_reducible assumption
    | with_reducible refine ite_either ?_ ?_
    | with_reducible refine sendIfAll_keeps ?_
    | with_reducible refine formTally_keeps ?_

theorem markLane_keeps {a1} {a2} {s : State} (h : StoreInv s) :
    StoreInv (markLane a1 a2 s) := by
  unfold markLane
  repeat' first
    | with_reducible assumption
    | (extract_lets +onlyGivenNames x; clear_value x)
    | with_reducible refine ite_either ?_ ?_
    | with_reducible refine settleHealth_keeps ?_
    | with_reducible refine changeTo_keeps ?_ ?_
    | with_reducible refine modMp_same rfl rfl rfl rfl rfl rfl rfl ?_

theorem portDown_keeps {a1} {s : State} (h : StoreInv s) :
    StoreInv (portDown a1 s) := by
  unfold portDown
  repeat' first
    | with_reducible assumption
    | (extract_lets +onlyGivenNames x; clear_value (e : x = _); with_reducible refine bound_state e ?_ (fun _ => ?_))
    | (extract_lets +onlyGivenNames x; clear_value x)
    | with_reducible refine ite_either ?_ ?_
    | with_reducible refine forEach_ok (fun _ _ _ => ?_) ?_
    | with_reducible refine modPort_keeps ?_
    | with_reducible refine settleHealth_keeps ?_
    | with_reducible refine triggerLink_keeps ?_
    | with_reducible refine losePkt_keeps ?_

theorem laneFailing_keeps {a1} {a2} {s : State} (h : StoreInv s) :
    StoreInv (laneFailing a1 a2 s) := by
  unfold laneFailing
  repeat' first
    | with_reducible assumption
    | (extract_lets +onlyGivenNames x; clear_value (e : x = _); with_reducible refine bound_state e ?_ (fun _ => ?_))
    | (extract_lets +onlyGivenNames x; clear_value x)
    | with_reducible refine ite_either ?_ ?_
    | with_reducible refine markLane_keeps ?_
    | with_reducible refine pushLink_keeps ?_
    | with_reducible refine modPort_keeps ?_
    | with_reducible refine portDown_keeps ?_

theorem countFixed_keeps {a1} {a2} {s : State} (h : StoreInv s) :
    StoreInv (countFixed a1 a2 s) := by
  unfold countFixed
  repeat' first
    | with_reducible assumption
    | (extract_lets +onlyGivenNames x; clear_value (e : x = _); with_reducible refine bound_state e ?_ (fun _ => ?_))
    | (extract_lets +onlyGivenNames x; clear_value x)
    | with_reducible refine ite_either ?_ ?_
    | with_reducible refine forEach_ok (fun _ _ _ => ?_) ?_
    | with_reducible refine note_keeps ?_
    | with_reducible refine laneFailing_keeps ?_

theorem detectLock_keeps {a1} {a2} {s : State} (h : StoreInv s) :
    StoreInv (detectLock a1 a2 s) := by
  unfold detectLock
  repeat' first
    | with_reducible assumption
    | (extract_lets +onlyGivenNames x; clear_value (e : x = _); with_reducible refine bound_state e ?_ (fun _ => ?_))
    | with_reducible refine ite_either ?_ ?_
    | with_reducible refine modPort_keeps ?_
    | with_reducible refine pushPrio_keeps ?_
    | split

theorem dropModeAcks_keeps {a1} {s : State} (h : StoreInv s) :
    StoreInv (dropModeAcks a1 s) := by
  unfold dropModeAcks
  repeat' first
    | with_reducible assumption
    | (extract_lets +onlyGivenNames x; clear_value x)
    | with_reducible refine ite_either ?_ ?_
    | with_reducible refine modPort_keeps ?_

theorem echoIn_keeps {a1} {a2} {s : State} (h : StoreInv s) :
    StoreInv (echoIn a1 a2 s) := by
  unfold echoIn
  repeat' first
    | with_reducible assumption
    | with_reducible refine ite_either ?_ ?_
    | with_reducible refine pushPrio_keeps ?_

theorem echoReplyIn_keeps {a1} {a2} {s : State} (h : StoreInv s) :
    StoreInv (echoReplyIn a1 a2 s) := by
  unfold echoReplyIn
  repeat' first
    | with_reducible assumption
    | (extract_lets +onlyGivenNames x; clear_value x)
    | with_reducible refine ite_either ?_ ?_
    | with_reducible refine modPort_keeps ?_

theorem equaliseDone_keeps {a1} {a2} {s : State} (h : StoreInv s) :
    StoreInv (equaliseDone a1 a2 s) := by
  unfold equaliseDone
  repeat' first
    | with_reducible assumption
    | (extract_lets +onlyGivenNames x; clear_value (e : x = _); with_reducible refine bound_state e ?_ (fun _ => ?_))
    | (extract_lets +onlyGivenNames x; clear_value x)
    | with_reducible refine ite_either ?_ ?_
    | with_reducible refine modPort_keeps ?_
    | with_reducible refine settleHealth_keeps ?_
    | with_reducible refine log_keeps ?_
    | split

theorem execAlignDone_keeps {a1} {s : State} (h : StoreInv s) :
    ResOk (execAlignDone a1 s) := by
  unfold execAlignDone
  repeat' first
    | with_reducible assumption
    | with_reducible refine powered_keeps ?_ ?_
    | with_reducible refine alignDone_keeps ?_

theorem execCalibrateDone_keeps {a1} {s : State} (h : StoreInv s) :
    ResOk (execCalibrateDone a1 s) := by
  unfold execCalibrateDone
  repeat' first
    | with_reducible assumption
    | with_reducible refine powered_keeps ?_ ?_
    | with_reducible refine calibrateDone_keeps ?_

theorem takeIn_keeps {a1} {a2} {s : State} (h : StoreInv s) :
    StoreInv (takeIn a1 a2 s) := by
  unfold takeIn
  repeat' first
    | with_reducible assumption
    | with_reducible refine ite_either ?_ ?_
    | with_reducible refine modPort_keeps ?_

theorem execCap_keeps {a1} {a2} {s : State} (h : StoreInv s) :
    ResOk (execCap a1 a2 s) := by
  unfold execCap
  repeat' first
    | with_reducible assumption
    | with_reducible refine powered_keeps ?_ ?_
    | with_reducible refine capIn_keeps ?_
    | with_reducible refine takeIn_keeps ?_

theorem execDetectLock_keeps {a1} {a2} {s : State} (h : StoreInv s) :
    ResOk (execDetectLock a1 a2 s) := by
  unfold execDetectLock
  repeat' first
    | with_reducible assumption
    | with_reducible refine powered_keeps ?_ ?_
    | with_reducible refine detectLock_keeps ?_

theorem execEcho_keeps {a1} {a2} {s : State} (h : StoreInv s) :
    ResOk (execEcho a1 a2 s) := by
  unfold execEcho
  repeat' first
    | with_reducible assumption
    | with_reducible refine powered_keeps ?_ ?_
    | with_reducible refine echoIn_keeps ?_
    | with_reducible refine takeIn_keeps ?_

theorem execEchoReply_keeps {a1} {a2} {s : State} (h : StoreInv s) :
    ResOk (execEchoReply a1 a2 s) := by
  unfold execEchoReply
  repeat' first
    | with_reducible assumption
    | with_reducible refine powered_keeps ?_ ?_
    | with_reducible refine echoReplyIn_keeps ?_
    | with_reducible refine takeIn_keeps ?_

theorem execEqualiseDone_keeps {a1} {a2} {s : State} (h : StoreInv s) :
    ResOk (execEqualiseDone a1 a2 s) := by
  unfold execEqualiseDone
  repeat' first
    | with_reducible assumption
    | with_reducible refine powered_keeps ?_ ?_
    | with_reducible refine equaliseDone_keeps ?_

theorem execFlitLockLoss_keeps {a1} {s : State} (h : StoreInv s) :
    ResOk (execFlitLockLoss a1 s) := by
  unfold execFlitLockLoss
  repeat' first
    | with_reducible assumption
    | with_reducible refine powered_keeps ?_ ?_
    | with_reducible refine portDown_keeps ?_

theorem retryReq_keeps {a1} {a2} {s : State} (h : StoreInv s) :
    StoreInv (retryReq a1 a2 s) := by
  unfold retryReq
  repeat' first
    | with_reducible assumption
    | (extract_lets +onlyGivenNames x; clear_value (e : x = _); with_reducible refine bound_state e ?_ (fun _ => ?_))
    | (extract_lets +onlyGivenNames x; clear_value x)
    | with_reducible refine ite_either ?_ ?_
    | with_reducible refine modPort_keeps ?_
    | with_reducible refine portDown_keeps ?_

theorem flitReceive_keeps {a1} {a2} {s : State} (h : StoreInv s) :
    StoreInv (flitReceive a1 a2 s) := by
  unfold flitReceive
  repeat' first
    | with_reducible assumption
    | (extract_lets +onlyGivenNames x; clear_value (e : x = _); with_reducible refine bound_state e ?_ (fun _ => ?_))
    | (extract_lets +onlyGivenNames x; clear_value x)
    | with_reducible refine ite_either ?_ ?_
    | with_reducible refine countFixed_keeps ?_
    | with_reducible refine modPort_keeps ?_
    | with_reducible refine acceptFlit_keeps ?_
    | with_reducible refine retryReq_keeps ?_
    | split

theorem execFlitReceive_keeps {a1} {a2} {s : State} (h : StoreInv s) :
    ResOk (execFlitReceive a1 a2 s) := by
  unfold execFlitReceive
  repeat' first
    | with_reducible assumption
    | with_reducible refine powered_keeps ?_ ?_
    | with_reducible refine flitReceive_keeps ?_

theorem prioSent_keeps {a1} {a2} {s : State} (h : StoreInv s) :
    StoreInv (prioSent a1 a2 s) := by
  unfold prioSent
  repeat' first
    | with_reducible assumption
    | (extract_lets +onlyGivenNames x; clear_value (e : x = _); with_reducible refine bound_state e ?_ (fun _ => ?_))
    | (extract_lets +onlyGivenNames x; clear_value x)
    | with_reducible refine ite_either ?_ ?_
    | with_reducible refine modStroke_keeps ?_
    | with_reducible refine modPort_keeps ?_

theorem flitTransmit_keeps {a1} {s : State} (h : StoreInv s) :
    StoreInv (flitTransmit a1 s) := by
  unfold flitTransmit
  repeat' first
    | with_reducible assumption
    | (extract_lets +onlyGivenNames x; clear_value (e : x = _); with_reducible refine bound_state e ?_ (fun _ => ?_))
    | (extract_lets +onlyGivenNames x; clear_value x)
    | with_reducible refine ite_either ?_ ?_
    | with_reducible refine forEach_ok (fun _ _ _ => ?_) ?_
    | with_reducible refine modPort_keeps ?_
    | with_reducible refine dropModeAcks_keeps ?_
    | with_reducible refine prioSent_keeps ?_
    | with_reducible refine log_keeps ?_
    | with_reducible refine arbLost_keeps ?_
    | split

theorem execFlitTransmit_keeps {a1} {s : State} (h : StoreInv s) :
    ResOk (execFlitTransmit a1 s) := by
  unfold execFlitTransmit
  repeat' first
    | with_reducible assumption
    | with_reducible refine powered_keeps ?_ ?_
    | with_reducible refine flitTransmit_keeps ?_

theorem execGoodFlitTimeout_keeps {a1} {s : State} (h : StoreInv s) :
    ResOk (execGoodFlitTimeout a1 s) := by
  unfold execGoodFlitTimeout
  repeat' first
    | with_reducible assumption
    | with_reducible refine powered_keeps ?_ ?_
    | with_reducible refine portDown_keeps ?_

theorem lateAck_keeps {a1} {s : State} (h : StoreInv s) :
    StoreInv (lateAck a1 s) := by
  unfold lateAck
  repeat' first
    | with_reducible assumption
    | with_reducible refine modPort_keeps ?_

theorem keeperAck_keeps {a1} {s : State} (h : StoreInv s) :
    StoreInv (keeperAck a1 s) := by
  unfold keeperAck
  repeat' first
    | with_reducible assumption
    | with_reducible refine ite_either ?_ ?_
    | with_reducible refine modPort_keeps ?_
    | with_reducible refine lateAck_keeps ?_

theorem execKeeperAck_keeps {a1} {a2} {s : State} (h : StoreInv s) :
    ResOk (execKeeperAck a1 a2 s) := by
  unfold execKeeperAck
  repeat' first
    | with_reducible assumption
    | with_reducible refine powered_keeps ?_ ?_
    | with_reducible refine keeperAck_keeps ?_
    | with_reducible refine takeIn_keeps ?_

theorem keeperReq_keeps {a1} {s : State} (h : StoreInv s) :
    StoreInv (keeperReq a1 s) := by
  unfold keeperReq
  repeat' first
    | with_reducible assumption
    | with_reducible refine ite_either ?_ ?_
    | with_reducible refine pushLink_keeps ?_
    | with_reducible refine modPort_keeps ?_

theorem execKeeperReq_keeps {a1} {a2} {s : State} (h : StoreInv s) :
    ResOk (execKeeperReq a1 a2 s) := by
  unfold execKeeperReq
  repeat' first
    | with_reducible assumption
    | with_reducible refine powered_keeps ?_ ?_
    | with_reducible refine keeperReq_keeps ?_
    | with_reducible refine takeIn_keeps ?_

theorem keeperUpDone_keeps {a1} {s : State} (h : StoreInv s) :
    StoreInv (keeperUpDone a1 s) := by
  unfold keeperUpDone
  repeat' first
    | with_reducible assumption
    | (extract_lets +onlyGivenNames x; clear_value x)
    | with_reducible refine ite_either ?_ ?_
    | with_reducible refine modPort_keeps ?_

theorem execKeeperUpDone_keeps {a1} {s : State} (h : StoreInv s) :
    ResOk (execKeeperUpDone a1 s) := by
  unfold execKeeperUpDone
  repeat' first
    | with_reducible assumption
    | with_reducible refine powered_keeps ?_ ?_
    | with_reducible refine keeperUpDone_keeps ?_

theorem execLaneFailing_keeps {a1} {a2} {s : State} (h : StoreInv s) :
    ResOk (execLaneFailing a1 a2 s) := by
  unfold execLaneFailing
  repeat' first
    | with_reducible assumption
    | with_reducible refine powered_keeps ?_ ?_
    | with_reducible refine laneFailing_keeps ?_

theorem markEntry_keeps {s : State} (h : StoreInv s) :
    StoreInv (markEntry s) := by
  unfold markEntry
  repeat' first
    | with_reducible assumption
    | with_reducible refine ite_either ?_ ?_
    | with_reducible refine modStroke_keeps ?_
    | split

theorem execMarkEntry_keeps {s : State} (h : StoreInv s) :
    ResOk (execMarkEntry s) := by
  unfold execMarkEntry
  repeat' first
    | with_reducible assumption
    | with_reducible refine powered_keeps ?_ ?_
    | with_reducible refine markEntry_keeps ?_

theorem markForward_keeps {s : State} (h : StoreInv s) :
    StoreInv (markForward s) := by
  unfold markForward
  repeat' first
    | with_reducible assumption
    | (extract_lets +onlyGivenNames x; clear_value (e : x = _); with_reducible refine bound_state e ?_ (fun _ => ?_))
    | with_reducible refine forEach_ok (fun _ _ _ => ?_) ?_
    | with_reducible refine modStroke_keeps ?_
    | with_reducible refine pushPrio_keeps ?_
    | split

theorem execMarkForward_keeps {s : State} (h : StoreInv s) :
    ResOk (execMarkForward s) := by
  unfold execMarkForward
  repeat' first
    | with_reducible assumption
    | with_reducible refine powered_keeps ?_ ?_
    | with_reducible refine markForward_keeps ?_

theorem execMarkIssue_keeps {s : State} (h : StoreInv s) :
    ResOk (execMarkIssue s) := by
  unfold execMarkIssue
  repeat' first
    | with_reducible assumption
    | with_reducible refine powered_keeps ?_ ?_
    | with_reducible refine markIssue_keeps ?_

theorem setAdmitted_keeps {a1} {s : State} (h : StoreInv s) :
    StoreInv (setAdmitted a1 s) := by
  unfold setAdmitted
  repeat' first
    | with_reducible assumption
    | (extract_lets +onlyGivenNames x; clear_value (e : x = _); with_reducible refine bound_state e ?_ (fun _ => ?_))
    | with_reducible refine ite_either ?_ ?_
    | with_reducible refine forEach_ok (fun _ _ _ => ?_) ?_
    | with_reducible refine modGhl_keeps ?_
    | with_reducible refine modPort_keeps ?_
    | with_reducible refine quietPort_keeps ?_
    | with_reducible refine pushPrio_keeps ?_

theorem markMissed_keeps {s : State} (h : StoreInv s) :
    StoreInv (markMissed s) := by
  unfold markMissed
  repeat' first
    | with_reducible assumption
    | (extract_lets +onlyGivenNames x; clear_value (e : x = _); with_reducible refine bound_state e ?_ (fun _ => ?_))
    | with_reducible refine ite_either ?_ ?_
    | with_reducible refine markMiss_keeps ?_
    | with_reducible refine setAdmitted_keeps ?_

theorem execMarkMiss_keeps {s : State} (h : StoreInv s) :
    ResOk (execMarkMiss s) := by
  unfold execMarkMiss
  repeat' first
    | with_reducible assumption
    | with_reducible refine powered_keeps ?_ ?_
    | with_reducible refine markMissed_keeps ?_

theorem markIn_keeps {a1} {a2} {a3} {s : State} (h : StoreInv s) :
    StoreInv (markIn a1 a2 a3 s) := by
  unfold markIn
  repeat' first
    | with_reducible assumption
    | (extract_lets +onlyGivenNames x; clear_value (e : x = _); with_reducible refine bound_state e ?_ (fun _ => ?_))
    | (extract_lets +onlyGivenNames x; clear_value x)
    | with_reducible refine ite_either ?_ ?_
    | with_reducible refine badCheck_keeps ?_
    | with_reducible refine modPort_keeps ?_
    | with_reducible refine modStroke_keeps ?_

theorem execMarkPacketReceive_keeps {a1} {a2} {a3} {s : State} (h : StoreInv s) :
    ResOk (execMarkPacketReceive a1 a2 a3 s) := by
  unfold execMarkPacketReceive
  repeat' first
    | with_reducible assumption
    | with_reducible refine powered_keeps ?_ ?_
    | with_reducible refine markIn_keeps ?_
    | with_reducible refine takeIn_keeps ?_

theorem neighbourLost_keeps {a1} {s : State} (h : StoreInv s) :
    StoreInv (neighbourLost a1 s) := by
  unfold neighbourLost
  repeat' first
    | with_reducible assumption
    | (extract_lets +onlyGivenNames x; clear_value (e : x = _); with_reducible refine bound_state e ?_ (fun _ => ?_))
    | (extract_lets +onlyGivenNames x; clear_value x)
    | with_reducible refine modPort_keeps ?_
    | with_reducible refine quietPort_keeps ?_
    | with_reducible refine postDev_keeps ?_
    | with_reducible refine log_keeps ?_

theorem neighbourMiss_keeps {a1} {s : State} (h : StoreInv s) :
    StoreInv (neighbourMiss a1 s) := by
  unfold neighbourMiss
  repeat' first
    | with_reducible assumption
    | (extract_lets +onlyGivenNames x; clear_value (e : x = _); with_reducible refine bound_state e ?_ (fun _ => ?_))
    | (extract_lets +onlyGivenNames x; clear_value x)
    | with_reducible refine ite_either ?_ ?_
    | with_reducible refine modPort_keeps ?_
    | with_reducible refine neighbourLost_keeps ?_

theorem execNeighbourMarkMiss_keeps {a1} {s : State} (h : StoreInv s) :
    ResOk (execNeighbourMarkMiss a1 s) := by
  unfold execNeighbourMarkMiss
  repeat' first
    | with_reducible assumption
    | with_reducible refine powered_keeps ?_ ?_
    | with_reducible refine neighbourMiss_keeps ?_

theorem resumeAck_keeps {a1} {s : State} (h : StoreInv s) :
    StoreInv (resumeAck a1 s) := by
  unfold resumeAck
  repeat' first
    | with_reducible assumption
    | with_reducible refine ite_either ?_ ?_
    | with_reducible refine modPort_keeps ?_
    | with_reducible refine lateAck_keeps ?_

theorem execResumeAck_keeps {a1} {a2} {s : State} (h : StoreInv s) :
    ResOk (execResumeAck a1 a2 s) := by
  unfold execResumeAck
  repeat' first
    | with_reducible assumption
    | with_reducible refine powered_keeps ?_ ?_
    | with_reducible refine resumeAck_keeps ?_
    | with_reducible refine takeIn_keeps ?_

theorem resumeReq_keeps {a1} {s : State} (h : StoreInv s) :
    StoreInv (resumeReq a1 s) := by
  unfold resumeReq
  repeat' first
    | with_reducible assumption
    | with_reducible refine ite_either ?_ ?_
    | with_reducible refine pushLink_keeps ?_
    | with_reducible refine modPort_keeps ?_

theorem execResumeReq_keeps {a1} {a2} {s : State} (h : StoreInv s) :
    ResOk (execResumeReq a1 a2 s) := by
  unfold execResumeReq
  repeat' first
    | with_reducible assumption
    | with_reducible refine powered_keeps ?_ ?_
    | with_reducible refine resumeReq_keeps ?_
    | with_reducible refine takeIn_keeps ?_

theorem retryReceive_keeps {a1} {a2} {s : State} (h : StoreInv s) :
    StoreInv (retryReceive a1 a2 s) := by
  unfold retryReceive
  repeat' first
    | with_reducible assumption
    | with_reducible refine ite_either ?_ ?_
    | with_reducible refine flitReceive_keeps ?_
    | split

theorem execRetryReqReceive_keeps {a1} {a2} {s : State} (h : StoreInv s) :
    ResOk (execRetryReqReceive a1 a2 s) := by
  unfold execRetryReqReceive
  repeat' first
    | with_reducible assumption
    | with_reducible refine powered_keeps ?_ ?_
    | with_reducible refine retryReceive_keeps ?_

theorem execRootTallyCutoff_keeps {s : State} (h : StoreInv s) :
    ResOk (execRootTallyCutoff s) := by
  unfold execRootTallyCutoff
  repeat' first
    | with_reducible assumption
    | with_reducible refine powered_keeps ?_ ?_
    | with_reducible refine rootCutoff_keeps ?_

theorem spareAck_keeps {a1} {a2} {s : State} (h : StoreInv s) :
    StoreInv (spareAck a1 a2 s) := by
  unfold spareAck
  repeat' first
    | with_reducible assumption
    | with_reducible refine ite_either ?_ ?_
    | with_reducible refine modPort_keeps ?_

theorem execSpareAck_keeps {a1} {a2} {s : State} (h : StoreInv s) :
    ResOk (execSpareAck a1 a2 s) := by
  unfold execSpareAck
  repeat' first
    | with_reducible assumption
    | with_reducible refine powered_keeps ?_ ?_
    | with_reducible refine spareAck_keeps ?_
    | with_reducible refine takeIn_keeps ?_

theorem spareReq_keeps {a1} {a2} {s : State} (h : StoreInv s) :
    StoreInv (spareReq a1 a2 s) := by
  unfold spareReq
  repeat' first
    | with_reducible assumption
    | (extract_lets +onlyGivenNames x; clear_value x)
    | with_reducible refine ite_either ?_ ?_
    | with_reducible refine pushLink_keeps ?_
    | with_reducible refine modPort_keeps ?_

theorem execSpareReq_keeps {a1} {a2} {s : State} (h : StoreInv s) :
    ResOk (execSpareReq a1 a2 s) := by
  unfold execSpareReq
  repeat' first
    | with_reducible assumption
    | with_reducible refine powered_keeps ?_ ?_
    | with_reducible refine spareReq_keeps ?_
    | with_reducible refine takeIn_keeps ?_

theorem tallyDeadline_keeps {s : State} (h : StoreInv s) :
    StoreInv (tallyDeadline s) := by
  unfold tallyDeadline
  repeat' first
    | with_reducible assumption
    | (extract_lets +onlyGivenNames x; clear_value x)
    | with_reducible refine ite_either ?_ ?_
    | with_reducible refine sendTally_keeps ?_

theorem execTallyDeadline_keeps {s : State} (h : StoreInv s) :
    ResOk (execTallyDeadline s) := by
  unfold execTallyDeadline
  repeat' first
    | with_reducible assumption
    | with_reducible refine powered_keeps ?_ ?_
    | with_reducible refine tallyDeadline_keeps ?_

theorem tallyIn_keeps {a1} {a2} {s : State} (h : StoreInv s) :
    StoreInv (tallyIn a1 a2 s) := by
  unfold tallyIn
  repeat' first
    | with_reducible assumption
    | (extract_lets +onlyGivenNames x; clear_value (e : x = _); with_reducible refine bound_state e ?_ (fun _ => ?_))
    | (extract_lets +onlyGivenNames x; clear_value x)
    | with_reducible refine ite_either ?_ ?_
    | with_reducible refine badCheck_keeps ?_
    | with_reducible refine modPort_keeps ?_
    | with_reducible refine modStroke_keeps ?_
    | with_reducible refine combine_keeps ?_
    | with_reducible refine sendIfAll_keeps ?_

theorem execTallyPacketReceive_keeps {a1} {a2} {s : State} (h : StoreInv s) :
    ResOk (execTallyPacketReceive a1 a2 s) := by
  unfold execTallyPacketReceive
  repeat' first
    | with_reducible assumption
    | with_reducible refine powered_keeps ?_ ?_
    | with_reducible refine tallyIn_keeps ?_
    | with_reducible refine takeIn_keeps ?_

theorem trainTimeout_keeps {a1} {s : State} (h : StoreInv s) :
    StoreInv (trainTimeout a1 s) := by
  unfold trainTimeout
  repeat' first
    | with_reducible assumption
    | with_reducible refine ite_either ?_ ?_
    | with_reducible refine log_keeps ?_
    | with_reducible refine modPort_keeps ?_

theorem execTrainTimeout_keeps {a1} {s : State} (h : StoreInv s) :
    ResOk (execTrainTimeout a1 s) := by
  unfold execTrainTimeout
  repeat' first
    | with_reducible assumption
    | with_reducible refine powered_keeps ?_ ?_
    | with_reducible refine trainTimeout_keeps ?_

theorem forward_keeps {a1} {s : State} (h : StoreInv s) :
    StoreInv (forward a1 s) := by
  unfold forward
  repeat' first
    | with_reducible assumption
    | with_reducible refine modPort_keeps ?_
    | with_reducible refine losePkt_keeps ?_
    | with_reducible refine countNoRoute_keeps ?_
    | split

theorem freeSlots_keeps {a1} {a2} {s : State} (h : StoreInv s) :
    StoreInv (freeSlots a1 a2 s) := by
  unfold freeSlots
  repeat' first
    | with_reducible assumption
    | with_reducible refine modPort_keeps ?_

theorem passOn_keeps {a1} {s : State} (h : StoreInv s) :
    StoreInv (passOn a1 s) := by
  unfold passOn
  repeat' first
    | with_reducible assumption
    | with_reducible refine ite_either ?_ ?_
    | with_reducible refine losePkt_keeps ?_
    | with_reducible refine countNoRoute_keeps ?_
    | with_reducible refine forward_keeps ?_

end Sys2Proof.Laws
end

