-- ==== Sys2Proof/Laws/KeepsMemory.lean ====
section
/-!
SUPPORT. What Memory.lean defines keeps the stores' invariant.
-/

namespace Sys2Proof.Laws

open Machine

theorem askBanks_keeps {a1} {s : State} (h : StoreInv s) :
    StoreInv (askBanks a1 s) := by
  unfold askBanks
  repeat' first
    | with_reducible assumption
    | (extract_lets +onlyGivenNames x; clear_value x)
    | with_reducible refine ite_either ?_ ?_
    | with_reducible refine forEach_ok (fun _ _ _ => ?_) ?_
    | with_reducible refine foldl_ok (fun _ _ _ => ?_) ?_
    | fail_if_no_progress with_reducible refine of_fields ?_

theorem freePage_keeps {a1} {a2} {s : State} (h : StoreInv s) :
    StoreInv (freePage a1 a2 s) := by
  unfold freePage
  repeat' first
    | with_reducible assumption
    | (extract_lets +onlyGivenNames x; clear_value x)
    | fail_if_no_progress with_reducible refine of_fields ?_

theorem profileStroke_keeps {s : State} (h : StoreInv s) :
    StoreInv (profileStroke s) := by
  unfold profileStroke
  repeat' first
    | with_reducible assumption
    | (extract_lets +onlyGivenNames x; clear_value x)
    | with_reducible refine ite_either ?_ ?_
    | with_reducible refine foldl_ok (fun _ _ _ => ?_) ?_
    | with_reducible refine modMp_same rfl rfl rfl rfl rfl rfl rfl ?_
    | fail_if_no_progress with_reducible refine of_fields ?_

theorem triggerMem_keeps {a1} {a2} {s : State} (h : StoreInv s) :
    StoreInv (triggerMem a1 a2 s) := by
  unfold triggerMem
  repeat' first
    | with_reducible assumption
    | with_reducible refine trigger_keeps ?_

theorem retirePage_keeps {a1} {a2} {s : State} (h : StoreInv s) :
    StoreInv (retirePage a1 a2 s) := by
  unfold retirePage
  repeat' first
    | with_reducible assumption
    | (extract_lets +onlyGivenNames x; clear_value (e : x = _); with_reducible refine bound_state e ?_ (fun _ => ?_))
    | (extract_lets +onlyGivenNames x; clear_value x)
    | with_reducible refine ite_either ?_ ?_
    | with_reducible refine note_keeps ?_
    | with_reducible refine log_keeps ?_
    | with_reducible refine retire_keeps ?_
    | with_reducible refine settleHealth_keeps ?_
    | with_reducible refine triggerMem_keeps ?_
    | fail_if_no_progress with_reducible refine of_fields ?_

theorem readOutcome_keeps {a1} {a2} {a3} {a4} {a5} {s : State} (h : StoreInv s) :
    PairOk (readOutcome a1 a2 a3 a4 a5 s) := by
  unfold readOutcome
  repeat' first
    | with_reducible assumption
    | (extract_lets +onlyGivenNames x; clear_value (e : x = _); with_reducible refine bound_state e ?_ (fun _ => ?_))
    | (extract_lets +onlyGivenNames x; clear_value x)
    | with_reducible refine ite_either ?_ ?_
    | with_reducible refine retirePage_keeps ?_
    | with_reducible refine triggerMem_keeps ?_
    | with_reducible refine log_keeps ?_
    | with_reducible refine PairOk.of ?_ (by assumption)
    | fail_if_no_progress with_reducible refine of_fields ?_
    | split
    | with_reducible refine PairOk.mk ?_

theorem readBlocks_keeps {a1} {a2} {a3} {s : State} (h : StoreInv s) :
    StoreInv (readBlocks a1 a2 a3 s) := by
  unfold readBlocks
  repeat' first
    | with_reducible assumption
    | with_reducible refine forEach_ok (fun _ _ _ => ?_) ?_
    | with_reducible refine readOutcome_keeps ?_
    | with_reducible refine snd_ok (readOutcome_keeps ?_)

theorem retireCopied_keeps {a1} {s : State} (h : StoreInv s) :
    StoreInv (retireCopied a1 s) := by
  unfold retireCopied
  repeat' first
    | with_reducible assumption
    | (extract_lets +onlyGivenNames x; clear_value x)
    | with_reducible refine ite_either ?_ ?_
    | with_reducible refine foldl_ok (fun _ _ _ => ?_) ?_
    | fail_if_no_progress with_reducible refine of_fields ?_
    | split

theorem switchRemap_keeps {s : State} (h : StoreInv s) :
    StoreInv (switchRemap s) := by
  unfold switchRemap
  repeat' first
    | with_reducible assumption
    | (extract_lets +onlyGivenNames x; clear_value (e : x = _); with_reducible refine bound_state e ?_ (fun _ => ?_))
    | (extract_lets +onlyGivenNames x; clear_value x)
    | with_reducible refine forEach_ok (fun _ _ _ => ?_) ?_
    | with_reducible refine foldl_ok (fun _ _ _ => ?_) ?_
    | with_reducible refine changeTo_keeps ?_ ?_
    | fail_if_no_progress with_reducible refine of_fields ?_

theorem takePages_keeps {a1} {a2} {s : State} (h : StoreInv s) :
    PairOk (takePages a1 a2 s) := by
  unfold takePages
  repeat' first
    | with_reducible assumption
    | (extract_lets +onlyGivenNames x; clear_value x)
    | with_reducible refine foldl_ok (fun _ _ _ => ?_) ?_
    | fail_if_no_progress with_reducible refine of_fields ?_
    | with_reducible refine PairOk.mk ?_

theorem zeroPage_keeps {a1} {a2} {s : State} (h : StoreInv s) :
    StoreInv (zeroPage a1 a2 s) := by
  unfold zeroPage
  repeat' first
    | with_reducible assumption
    | (extract_lets +onlyGivenNames x; clear_value x)
    | fail_if_no_progress with_reducible refine of_fields ?_
    | fail_if_no_progress with_reducible refine of_fields_mem id (KV.wf_eraseRange · _ _) id ?_

end Sys2Proof.Laws
end

