-- ==== Sys2Proof/Laws/KeepsWatch.lean ====
section
/-!
SUPPORT. What Watch.lean defines keeps the stores' invariant.
-/

namespace Sys2Proof.Laws

open Machine

theorem modSeqEnt_keeps {a} {b} {s : State} (h : StoreInv s) : StoreInv (State.modSeqEnt s a b) :=
  of_same (s := s) rfl rfl rfl rfl rfl rfl rfl rfl rfl rfl rfl h

theorem modWatch_keeps {a} {b} {s : State} (h : StoreInv s) : StoreInv (State.modWatch s a b) :=
  of_same (s := s) rfl rfl rfl rfl rfl rfl rfl rfl rfl rfl rfl h

theorem releaseSeq_keeps {a1} {s : State} (h : StoreInv s) :
    StoreInv (releaseSeq a1 s) := by
  unfold releaseSeq
  repeat' first
    | with_reducible assumption
    | (extract_lets +onlyGivenNames x; clear_value x)
    | with_reducible refine ite_either ?_ ?_
    | fail_if_no_progress with_reducible refine of_fields ?_

theorem configWatch_keeps {a1} {a2} {s : State} (h : StoreInv s) :
    ExOk (configWatch a1 a2 s) := by
  unfold configWatch
  repeat' first
    | with_reducible assumption
    | (extract_lets +onlyGivenNames x; clear_value (e : x = _); with_reducible refine bound_state e ?_ (fun _ => ?_))
    | (extract_lets +onlyGivenNames x; clear_value x)
    | with_reducible refine ite_either ?_ ?_
    | with_reducible refine forEach_ok (fun _ _ _ => ?_) ?_
    | with_reducible refine releaseSeq_keeps ?_
    | with_reducible refine modSeqEnt_keeps ?_
    | with_reducible refine modWatch_keeps ?_
    | with_reducible refine ExOk.of ?_ (by assumption)
    | split
    | with_reducible refine ExOk.ok ?_
    | with_reducible refine ExOk.error

theorem lossRecord_keeps {a1} {a2} {a3} {a4} {s : State} (h : StoreInv s) :
    StoreInv (lossRecord a1 a2 a3 a4 s) := by
  unfold lossRecord
  repeat' first
    | with_reducible assumption
    | (extract_lets +onlyGivenNames x; clear_value (e : x = _); with_reducible refine bound_state e ?_ (fun _ => ?_))
    | (extract_lets +onlyGivenNames x; clear_value x)
    | with_reducible refine ite_either ?_ ?_
    | with_reducible refine modWatch_keeps ?_
    | with_reducible refine modSeqEnt_keeps ?_
    | with_reducible refine postCtx_keeps ?_
    | with_reducible refine log_keeps ?_

theorem oneReport_keeps {a1} {a2} {a3} {s : State} (h : StoreInv s) :
    PairOk (oneReport a1 a2 a3 s) := by
  unfold oneReport
  repeat' first
    | with_reducible assumption
    | (extract_lets +onlyGivenNames x; clear_value x)
    | with_reducible refine ite_either ?_ ?_
    | with_reducible refine modWatch_keeps ?_
    | with_reducible refine modSeqEnt_keeps ?_
    | with_reducible refine lossRecord_keeps ?_
    | with_reducible refine PairOk.of ?_ (by assumption)
    | split
    | with_reducible refine PairOk.mk ?_

theorem reports_keeps {a1} {a2} {a3} {a4} {a5} {a6} {s : State} (h : StoreInv s) :
    PairOk (reports a1 a2 a3 a4 a5 a6 s) := by
  induction a4 generalizing a5 a6 s with
  | zero =>
    unfold reports
    repeat' first
      | with_reducible assumption
      | with_reducible refine ite_either ?_ ?_
      | with_reducible refine oneReport_keeps ?_
      | with_reducible refine snd_ok (oneReport_keeps ?_)
      | with_reducible refine PairOk.of ?_ (by assumption)
      | split
      | with_reducible refine PairOk.mk ?_
  | succ _ ih =>
    unfold reports
    repeat' first
      | with_reducible assumption
      | with_reducible refine ih ?_
      | with_reducible refine snd_ok (ih ?_)
      | with_reducible refine ite_either ?_ ?_
      | with_reducible refine oneReport_keeps ?_
      | with_reducible refine snd_ok (oneReport_keeps ?_)
      | with_reducible refine PairOk.of ?_ (by assumption)
      | split
      | with_reducible refine PairOk.mk ?_

theorem watchCommit_keeps {a1} {a2} {s : State} (h : StoreInv s) :
    StoreInv (watchCommit a1 a2 s) := by
  unfold watchCommit
  repeat' first
    | with_reducible assumption
    | (extract_lets +onlyGivenNames x; clear_value (e : x = _); with_reducible refine bound_state e ?_ (fun _ => ?_))
    | (extract_lets +onlyGivenNames x; clear_value x)
    | with_reducible refine ite_either ?_ ?_
    | with_reducible refine reports_keeps ?_
    | with_reducible refine snd_ok (reports_keeps ?_)
    | with_reducible refine log_keeps ?_
    | with_reducible refine modWatch_keeps ?_
    | with_reducible refine modSlot_keeps ?_
    | with_reducible refine PairOk.of ?_ (by assumption)
    | split

end Sys2Proof.Laws
end

