-- ==== Sys2Proof/Laws/KeepsPressData.lean ====
section
/-!
SUPPORT. What PressData.lean defines keeps the stores' invariant.
-/

namespace Sys2Proof.Laws

open Machine

theorem modPress_keeps {a} {b} {s : State} (h : StoreInv s) : StoreInv (State.modPress s a b) :=
  of_same (s := s) rfl rfl rfl rfl rfl rfl rfl rfl rfl rfl rfl h

theorem modPrs_keeps {a} {s : State} (h : StoreInv s) : StoreInv (State.modPrs s a) :=
  of_same (s := s) rfl rfl rfl rfl rfl rfl rfl rfl rfl rfl rfl h

theorem ghlRead_keeps {s : State} {a1} {a2} {a3} (h : StoreInv s) :
    PairOk (ghlRead s a1 a2 a3) := by
  unfold ghlRead
  repeat' first
    | with_reducible assumption
    | (extract_lets +onlyGivenNames x; clear_value (e : x = _); with_reducible refine bound_state e ?_ (fun _ => ?_))
    | with_reducible refine readBlocks_keeps ?_
    | with_reducible refine PairOk.of ?_ (by assumption)
    | fail_if_no_progress with_reducible refine of_fields ?_
    | split
    | with_reducible refine PairOk.mk ?_

theorem publishCopy_keeps {a1} {a2} {a3} {a4} {a5} {a6} {s : State} (h : StoreInv s) :
    StoreInv (publishCopy a1 a2 a3 a4 a5 a6 s) := by
  unfold publishCopy
  repeat' first
    | with_reducible assumption
    | (extract_lets +onlyGivenNames x; clear_value x)
    | with_reducible refine ite_either ?_ ?_
    | with_reducible refine forEach_ok (fun _ _ _ => ?_) ?_
    | with_reducible refine wrVa_keeps ?_

theorem readSlot_keeps {a1} {a2} {a3} {s : State} (h : StoreInv s) :
    StoreInv (readSlot a1 a2 a3 s) := by
  unfold readSlot
  repeat' first
    | with_reducible assumption
    | with_reducible refine forEach_ok (fun _ _ _ => ?_) ?_
    | with_reducible refine readBlocks_keeps ?_

end Sys2Proof.Laws
end

