-- ==== Sys2Proof/Laws/KeepsPress.lean ====
section
/-!
SUPPORT. What Press.lean defines keeps the stores' invariant.
-/

namespace Sys2Proof.Laws

open Machine

theorem applyFold_keeps {a1} {a2} {a3} {a4} {s : State} (h : StoreInv s) :
    StoreInv (applyFold a1 a2 a3 a4 s) := by
  unfold applyFold
  repeat' first
    | with_reducible assumption
    | (extract_lets +onlyGivenNames x; clear_value (e : x = _); with_reducible refine bound_state e ?_ (fun _ => ?_))
    | (extract_lets +onlyGivenNames x; clear_value x)
    | with_reducible refine ite_either ?_ ?_
    | with_reducible refine forEach_ok (fun _ _ _ => ?_) ?_
    | with_reducible refine wrVa_keeps ?_
    | with_reducible refine modPress_keeps ?_

theorem beginStep_keeps {a1} {a2} {s : State} (h : StoreInv s) :
    StoreInv (beginStep a1 a2 s) := by
  unfold beginStep
  repeat' first
    | with_reducible assumption
    | (extract_lets +onlyGivenNames x; clear_value x)
    | with_reducible refine ite_either ?_ ?_
    | with_reducible refine modPress_keeps ?_

theorem candPanel_keeps {a1} {a2} {a3} {a4} {s : State} (h : StoreInv s) :
    OptPairOk (candPanel a1 a2 a3 a4 s) := by
  unfold candPanel
  repeat' first
    | with_reducible assumption
    | (extract_lets +onlyGivenNames x; clear_value (e : x = _); with_reducible refine bound_state e ?_ (fun _ => ?_))
    | (extract_lets +onlyGivenNames x; clear_value x)
    | with_reducible refine ite_either ?_ ?_
    | with_reducible refine forEach_ok (fun _ _ _ => ?_) ?_
    | with_reducible refine wrVa_keeps ?_
    | with_reducible refine modPress_keeps ?_
    | with_reducible refine modPrs_keeps ?_
    | with_reducible refine OptPairOk.of ?_ (by assumption)
    | split
    | with_reducible refine OptPairOk.some ?_
    | with_reducible refine OptPairOk.none

theorem pressHold_keeps {a1} {a2} {a3} {s : State} (h : StoreInv s) :
    StoreInv (pressHold a1 a2 a3 s) := by
  unfold pressHold
  repeat' first
    | with_reducible assumption
    | with_reducible refine modPress_keeps ?_

theorem refusePanel_keeps {a1} {a2} {a3} {a4} {a5} {s : State} (h : StoreInv s) :
    PairOk (refusePanel a1 a2 a3 a4 a5 s) := by
  unfold refusePanel
  repeat' first
    | with_reducible assumption
    | (extract_lets +onlyGivenNames x; clear_value (e : x = _); with_reducible refine bound_state e ?_ (fun _ => ?_))
    | (extract_lets +onlyGivenNames x; clear_value x)
    | with_reducible refine ite_either ?_ ?_
    | with_reducible refine modPrs_keeps ?_
    | with_reducible refine modPress_keeps ?_
    | with_reducible refine log_keeps ?_
    | with_reducible refine pressHold_keeps ?_
    | with_reducible refine PairOk.mk ?_

theorem commitPanel_keeps {a1 a2 a3 a4} {a5 : PRes × Nat × State} (h : StoreInv a5.2.2) :
    StoreInv (commitPanel a1 a2 a3 a4 a5).2.2 := by
  obtain ⟨r, adv, s⟩ := a5
  unfold commitPanel
  dsimp only at h ⊢
  repeat' split
  all_goals dsimp only
  all_goals first
    | exact h
    | exact snd_ok (refusePanel_keeps h)
    | exact modPress_keeps (s := s) h

theorem once_keeps {a1} {a2} {a3} {s : State} (fa3 : ∀ u, StoreInv u → StoreInv (a3 u)) (h : StoreInv s) :
    StoreInv (once a1 a2 a3 s) := by
  unfold once
  repeat' first
    | with_reducible assumption
    | with_reducible refine fa3 _ ?_
    | with_reducible refine ite_either ?_ ?_
    | with_reducible refine modPress_keeps ?_

theorem conclude_keeps {a1} {a2} {a3} {a4} {s : State} (h : StoreInv s) :
    StoreInv (conclude a1 a2 a3 a4 s) := by
  unfold conclude
  dsimp only
  repeat' first
    | with_reducible assumption
    | with_reducible exact ExPairOk.of ‹_› rfl
    | with_reducible exact ExTripOk.of ‹_› rfl
    | with_reducible refine pressHold_keeps ?_
    | with_reducible refine log_keeps ?_
    | with_reducible refine once_keeps (fun _ _ => ?_) ?_
    | with_reducible refine modPrs_keeps ?_
    | split

theorem jobLoadfold_keeps {a1} {a2} {s : State} (h : StoreInv s) :
    ExPairOk (jobLoadfold a1 a2 s) := by
  unfold jobLoadfold
  repeat' first
    | with_reducible assumption
    | (extract_lets +onlyGivenNames x; clear_value x)
    | with_reducible refine applyFold_keeps ?_
    | with_reducible refine log_keeps ?_
    | with_reducible refine ExPairOk.of ?_ (by assumption)
    | split
    | with_reducible refine ExPairOk.ok ?_

theorem publishPanel_keeps {a1} {a2} {a3} {s : State} (h : StoreInv s) :
    OptOk (publishPanel a1 a2 a3 s) := by
  unfold publishPanel
  repeat' first
    | with_reducible assumption
    | (extract_lets +onlyGivenNames x; clear_value (e : x = _); with_reducible refine bound_state e ?_ (fun _ => ?_))
    | (extract_lets +onlyGivenNames x; clear_value x)
    | with_reducible refine ite_either ?_ ?_
    | with_reducible refine publishCopy_keeps ?_
    | with_reducible refine modPrs_keeps ?_
    | with_reducible refine modPress_keeps ?_
    | with_reducible refine wrVa_keeps ?_
    | with_reducible refine OptOk.of ?_ (by assumption)
    | split
    | with_reducible refine OptOk.some ?_
    | with_reducible refine OptOk.none

theorem jobPublish_keeps {a1} {a2} {a3} {s : State} (h : StoreInv s) :
    ExPairOk (jobPublish a1 a2 a3 s) := by
  unfold jobPublish
  repeat' first
    | with_reducible assumption
    | with_reducible refine foldl_any ExPairOk (fun _ _ _ => ?_) ?_
    | with_reducible exact ExPairOk.of ‹_› rfl
    | (extract_lets +onlyGivenNames x; clear_value (e : x = _); with_reducible refine bound_state e ?_ (fun _ => ?_))
    | (extract_lets +onlyGivenNames x; clear_value x)
    | with_reducible refine ite_either ?_ ?_
    | with_reducible refine foldl_ok (fun _ _ _ => ?_) ?_
    | with_reducible refine readSlot_keeps ?_
    | with_reducible refine refusePanel_keeps ?_
    | with_reducible refine snd_ok (refusePanel_keeps ?_)
    | with_reducible refine publishPanel_keeps ?_
    | with_reducible refine ExPairOk.of ?_ (by assumption)
    | with_reducible refine OptOk.of ?_ (by assumption)
    | with_reducible refine PairOk.of ?_ (by assumption)
    | split
    | with_reducible refine PairOk.mk ?_
    | with_reducible refine ExPairOk.ok ?_
    | with_reducible refine ExPairOk.error

theorem zeroGrads_keeps {a1} {a2} {s : State} (h : StoreInv s) :
    StoreInv (zeroGrads a1 a2 s) := by
  unfold zeroGrads
  repeat' first
    | with_reducible assumption
    | (extract_lets +onlyGivenNames x; clear_value x)
    | with_reducible refine ite_either ?_ ?_
    | with_reducible refine forEach_ok (fun _ _ _ => ?_) ?_
    | with_reducible refine modPress_keeps ?_
    | with_reducible refine wrVa_keeps ?_

theorem resumeJob_keeps {a1} {a2} {a3} {s : State} (h : StoreInv s) :
    StoreInv (resumeJob a1 a2 a3 s) := by
  unfold resumeJob
  repeat' first
    | with_reducible assumption
    | (extract_lets +onlyGivenNames x; clear_value (e : x = _); with_reducible refine bound_state e ?_ (fun _ => ?_))
    | with_reducible exact ExPairOk.of ‹_› rfl
    | with_reducible exact ExTripOk.of ‹_› rfl
    | (extract_lets +onlyGivenNames x; clear_value (e : x = _); with_reducible refine bound_ex e ?_ (fun _ => ?_))
    | (extract_lets +onlyGivenNames x; clear_value x)
    | with_reducible refine jobLoadfold_keeps ?_
    | with_reducible refine jobPublish_keeps ?_
    | with_reducible refine zeroGrads_keeps ?_
    | with_reducible refine modSlot_keeps ?_
    | with_reducible refine ExPairOk.of ?_ (by assumption)
    | split
    | with_reducible refine ExPairOk.ok ?_

theorem takeWatch_keeps {a1} {s : State} (h : StoreInv s) :
    StoreInv (takeWatch a1 s) := by
  unfold takeWatch
  repeat' first
    | with_reducible assumption
    | (extract_lets +onlyGivenNames x; clear_value x)
    | with_reducible refine modPress_keeps ?_

theorem leadNorm_keeps {a1} {s : State} (h : StoreInv s) :
    StoreInv (leadNorm a1 s) := by
  unfold leadNorm
  dsimp only
  repeat' first
    | with_reducible assumption
    | with_reducible exact ExPairOk.of ‹_› rfl
    | with_reducible exact ExTripOk.of ‹_› rfl
    | with_reducible refine ite_either ?_ ?_
    | with_reducible refine foldl_ok (fun _ _ _ => ?_) ?_
    | with_reducible refine modPress_keeps ?_
    | with_reducible refine once_keeps (fun _ _ => ?_) ?_
    | with_reducible refine log_keeps ?_
    | split

theorem leadVote_keeps {a1} {s : State} (h : StoreInv s) :
    StoreInv (leadVote a1 s) := by
  unfold leadVote
  repeat' first
    | with_reducible assumption
    | with_reducible refine foldl_ok (fun _ _ _ => ?_) ?_
    | with_reducible refine modPress_keeps ?_

theorem landRing_keeps {a1} {a2} {s : State} (h : StoreInv s) :
    StoreInv (landRing a1 a2 s) := by
  unfold landRing
  repeat' first
    | with_reducible assumption
    | (extract_lets +onlyGivenNames x; clear_value (e : x = _); with_reducible refine bound_state e ?_ (fun _ => ?_))
    | with_reducible refine leadNorm_keeps ?_
    | with_reducible refine modPress_keeps ?_
    | with_reducible refine leadVote_keeps ?_
    | split

theorem sendRing_keeps {a1} {a2} {s : State} (h : StoreInv s) :
    StoreInv (sendRing a1 a2 s) := by
  unfold sendRing
  repeat' first
    | with_reducible assumption
    | with_reducible refine modPress_keeps ?_

theorem putRing_keeps {a1} {a2} {s : State} (h : StoreInv s) :
    StoreInv (putRing a1 a2 s) := by
  unfold putRing
  repeat' first
    | with_reducible assumption
    | with_reducible refine ite_either ?_ ?_
    | with_reducible refine landRing_keeps ?_
    | with_reducible refine sendRing_keeps ?_

theorem jobNorm_keeps {a1} {a2} {s : State} (h : StoreInv s) :
    ExPairOk (jobNorm a1 a2 s) := by
  unfold jobNorm
  repeat' first
    | with_reducible assumption
    | with_reducible refine foldl_any ExPairOk (fun _ _ _ => ?_) ?_
    | with_reducible exact ExPairOk.of ‹_› rfl
    | (extract_lets +onlyGivenNames x; clear_value (e : x = _); with_reducible refine bound_state e ?_ (fun _ => ?_))
    | with_reducible exact ExPairOk.of ‹_› rfl
    | with_reducible exact ExTripOk.of ‹_› rfl
    | (extract_lets +onlyGivenNames x; clear_value (e : x = _); with_reducible refine bound_ex e ?_ (fun _ => ?_))
    | (extract_lets +onlyGivenNames x; clear_value x)
    | with_reducible refine ite_either ?_ ?_
    | with_reducible refine foldl_ok (fun _ _ _ => ?_) ?_
    | with_reducible refine beginStep_keeps ?_
    | with_reducible refine takeWatch_keeps ?_
    | with_reducible refine refusePanel_keeps ?_
    | with_reducible refine snd_ok (refusePanel_keeps ?_)
    | with_reducible refine ghlRead_keeps ?_
    | with_reducible refine snd_ok (ghlRead_keeps ?_)
    | with_reducible refine modPress_keeps ?_
    | with_reducible refine readBlocks_keeps ?_
    | with_reducible refine modPrs_keeps ?_
    | with_reducible refine putRing_keeps ?_
    | with_reducible refine ExPairOk.of ?_ (by assumption)
    | with_reducible refine PairOk.of ?_ (by assumption)
    | split
    | with_reducible refine PairOk.mk ?_
    | with_reducible refine ExPairOk.ok ?_
    | with_reducible refine ExPairOk.error

theorem jobDecide_keeps {a1} {a2} {s : State} (h : StoreInv s) :
    ExPairOk (jobDecide a1 a2 s) := by
  unfold jobDecide
  repeat' first
    | with_reducible assumption
    | (extract_lets +onlyGivenNames x; clear_value (e : x = _); with_reducible refine bound_state e ?_ (fun _ => ?_))
    | (extract_lets +onlyGivenNames x; clear_value x)
    | with_reducible refine ite_either ?_ ?_
    | with_reducible refine modPress_keeps ?_
    | with_reducible refine conclude_keeps ?_
    | with_reducible refine ExPairOk.of ?_ (by assumption)
    | split
    | with_reducible refine ExPairOk.ok ?_

theorem rootLog_keeps {a1} {a2} {a3} {a4} {a5} {s : State} (h : StoreInv s) :
    StoreInv (rootLog a1 a2 a3 a4 a5 s) := by
  unfold rootLog
  repeat' first
    | with_reducible assumption
    | (extract_lets +onlyGivenNames x; clear_value (e : x = _); with_reducible refine bound_state e ?_ (fun _ => ?_))
    | with_reducible refine ite_either ?_ ?_
    | with_reducible refine modPrs_keeps ?_
    | with_reducible refine log_keeps ?_

theorem refreshPanel_keeps {a1} {a2} {a3} {a4} {s : State} (h : StoreInv s) :
    PairOk (refreshPanel a1 a2 a3 a4 s) := by
  unfold refreshPanel
  repeat' first
    | with_reducible assumption
    | (extract_lets +onlyGivenNames x; clear_value (e : x = _); with_reducible refine bound_state e ?_ (fun _ => ?_))
    | (extract_lets +onlyGivenNames x; clear_value x)
    | with_reducible refine ite_either ?_ ?_
    | with_reducible refine wrVa_keeps ?_
    | with_reducible refine modPress_keeps ?_
    | with_reducible refine rootLog_keeps ?_
    | with_reducible refine PairOk.mk ?_

theorem jobPrep_keeps {a1} {a2} {s : State} (h : StoreInv s) :
    ExPairOk (jobPrep a1 a2 s) := by
  unfold jobPrep
  repeat' first
    | with_reducible assumption
    | with_reducible refine foldl_any PairOk (fun _ _ _ => ?_) ?_
    | with_reducible refine snd_ok (foldl_any PairOk (fun _ _ _ => ?_) ?_)
    | with_reducible exact snd_ok ‹_›
    | (extract_lets +onlyGivenNames x; clear_value (e : x = _); with_reducible refine bound_state e ?_ (fun _ => ?_))
    | (extract_lets +onlyGivenNames x; clear_value x)
    | with_reducible refine ite_either ?_ ?_
    | with_reducible refine foldl_ok (fun _ _ _ => ?_) ?_
    | with_reducible refine readSlot_keeps ?_
    | with_reducible refine refusePanel_keeps ?_
    | with_reducible refine snd_ok (refusePanel_keeps ?_)
    | with_reducible refine refreshPanel_keeps ?_
    | with_reducible refine snd_ok (refreshPanel_keeps ?_)
    | with_reducible refine ExPairOk.of ?_ (by assumption)
    | with_reducible refine PairOk.of ?_ (by assumption)
    | split
    | with_reducible refine PairOk.mk ?_
    | with_reducible refine ExPairOk.ok ?_

theorem jobCand_keeps {a1} {a2} {a3} {s : State} (h : StoreInv s) :
    ExPairOk (jobCand a1 a2 a3 s) := by
  unfold jobCand
  repeat' first
    | with_reducible assumption
    | with_reducible refine foldl_any ExPairOk (fun _ _ _ => ?_) ?_
    | with_reducible exact ExPairOk.of ‹_› rfl
    | (extract_lets +onlyGivenNames x; clear_value (e : x = _); with_reducible refine bound_state e ?_ (fun _ => ?_))
    | with_reducible refine ite_either ?_ ?_
    | with_reducible refine foldl_ok (fun _ _ _ => ?_) ?_
    | with_reducible refine readSlot_keeps ?_
    | with_reducible refine refusePanel_keeps ?_
    | with_reducible refine snd_ok (refusePanel_keeps ?_)
    | with_reducible refine candPanel_keeps ?_
    | with_reducible refine ExPairOk.of ?_ (by assumption)
    | with_reducible refine OptPairOk.of ?_ (by assumption)
    | with_reducible refine PairOk.of ?_ (by assumption)
    | split
    | with_reducible refine PairOk.mk ?_
    | with_reducible refine ExPairOk.ok ?_
    | with_reducible refine ExPairOk.error

theorem jobVote_keeps {a1} {a2} {a3} {s : State} (h : StoreInv s) :
    ExPairOk (jobVote a1 a2 a3 s) := by
  unfold jobVote
  repeat' first
    | with_reducible assumption
    | (extract_lets +onlyGivenNames x; clear_value (e : x = _); with_reducible refine bound_state e ?_ (fun _ => ?_))
    | (extract_lets +onlyGivenNames x; clear_value x)
    | with_reducible refine ite_either ?_ ?_
    | with_reducible refine modPress_keeps ?_
    | with_reducible refine putRing_keeps ?_
    | with_reducible refine ExPairOk.ok ?_

theorem voteFail_keeps {a1} {a2} {a3} {a4} {s : State} (h : StoreInv s) :
    StoreInv (voteFail a1 a2 a3 a4 s) := by
  unfold voteFail
  repeat' first
    | with_reducible assumption
    | (extract_lets +onlyGivenNames x; clear_value (e : x = _); with_reducible refine bound_state e ?_ (fun _ => ?_))
    | (extract_lets +onlyGivenNames x; clear_value x)
    | with_reducible refine ite_either ?_ ?_
    | with_reducible refine once_keeps (fun _ _ => ?_) ?_
    | with_reducible refine modPrs_keeps ?_
    | with_reducible refine log_keeps ?_
    | with_reducible refine modPress_keeps ?_
    | with_reducible refine pressHold_keeps ?_

theorem jobCommit_keeps {a1 a2 a3 a4} {s : State} (h : StoreInv s) : ExPairOk (jobCommit a1 a2 a3 a4 s) := by
  unfold jobCommit
  have hf : ∀ (go : Bool) (b : PRes × Nat × State), StoreInv b.2.2 →
      StoreInv (a2.panels.foldl (fun acc i => commitPanel a1 i a3 go acc) b).2.2 := fun go b hb =>
    foldl_any (fun b : PRes × Nat × State => StoreInv b.2.2) (fun _ _ h => commitPanel_keeps h) hb
  extract_lets p q
  split
  rename_i e
  have h0 := hf (p && q) (if p = true then PRes.ok else PRes.ok.flag 2, 0, s) h
  rw [e] at h0
  clear_value p q
  repeat' first
    | with_reducible assumption
    | (extract_lets +onlyGivenNames x; clear_value (e : x = _); with_reducible refine bound_state e ?_ (fun _ => ?_))
    | with_reducible refine ite_either ?_ ?_
    | with_reducible refine modPrs_keeps ?_
    | with_reducible refine modPress_keeps ?_
    | with_reducible refine voteFail_keeps ?_
    | with_reducible refine ExPairOk.ok ?_

theorem jobGzero_keeps {a1} {a2} {a3} {s : State} (h : StoreInv s) :
    ExPairOk (jobGzero a1 a2 a3 s) := by
  unfold jobGzero
  repeat' first
    | with_reducible assumption
    | (extract_lets +onlyGivenNames x; clear_value x)
    | with_reducible refine ite_either ?_ ?_
    | with_reducible refine modPress_keeps ?_
    | with_reducible refine zeroGrads_keeps ?_
    | with_reducible refine ExPairOk.ok ?_

theorem setFold_keeps {a1} {a2} {a3} {a4} {s : State} (h : StoreInv s) :
    StoreInv (setFold a1 a2 a3 a4 s) := by
  unfold setFold
  repeat' first
    | with_reducible assumption
    | with_reducible refine modPress_keeps ?_

theorem jobFold_keeps {a1} {a2} {a3} {s : State} (h : StoreInv s) :
    ExPairOk (jobFold a1 a2 a3 s) := by
  unfold jobFold
  repeat' first
    | with_reducible assumption
    | with_reducible refine foldl_any PairOk (fun _ _ _ => ?_) ?_
    | with_reducible refine snd_ok (foldl_any PairOk (fun _ _ _ => ?_) ?_)
    | with_reducible exact snd_ok ‹_›
    | (extract_lets +onlyGivenNames x; clear_value (e : x = _); with_reducible refine bound_state e ?_ (fun _ => ?_))
    | (extract_lets +onlyGivenNames x; clear_value x)
    | with_reducible refine ite_either ?_ ?_
    | with_reducible refine foldl_ok (fun _ _ _ => ?_) ?_
    | with_reducible refine readSlot_keeps ?_
    | with_reducible refine refusePanel_keeps ?_
    | with_reducible refine snd_ok (refusePanel_keeps ?_)
    | with_reducible refine setFold_keeps ?_
    | with_reducible refine modPrs_keeps ?_
    | with_reducible refine modPress_keeps ?_
    | with_reducible refine log_keeps ?_
    | with_reducible refine ExPairOk.of ?_ (by assumption)
    | with_reducible refine PairOk.of ?_ (by assumption)
    | split
    | with_reducible refine PairOk.mk ?_
    | with_reducible refine ExPairOk.ok ?_

theorem pressWork_keeps {a1} {a2} {s : State} (h : StoreInv s) :
    ExPairOk (pressWork a1 a2 s) := by
  unfold pressWork
  repeat' first
    | with_reducible assumption
    | (extract_lets +onlyGivenNames x; clear_value x)
    | with_reducible refine ite_either ?_ ?_
    | with_reducible refine jobNorm_keeps ?_
    | with_reducible refine jobDecide_keeps ?_
    | with_reducible refine jobPrep_keeps ?_
    | with_reducible refine jobCand_keeps ?_
    | with_reducible refine jobVote_keeps ?_
    | with_reducible refine jobCommit_keeps ?_
    | with_reducible refine jobPublish_keeps ?_
    | with_reducible refine jobGzero_keeps ?_
    | with_reducible refine jobFold_keeps ?_
    | with_reducible refine jobLoadfold_keeps ?_
    | with_reducible refine ExPairOk.of ?_ (by assumption)
    | split
    | with_reducible refine ExPairOk.error

theorem pressStart_keeps {a1} {a2} {a3} {s : State} (h : StoreInv s) :
    StoreInv (pressStart a1 a2 a3 s) := by
  unfold pressStart
  dsimp only
  repeat' first
    | with_reducible assumption
    | with_reducible exact ExPairOk.of ‹_› rfl
    | with_reducible exact ExTripOk.of ‹_› rfl
    | with_reducible refine ite_either ?_ ?_
    | with_reducible refine resumeJob_keeps ?_
    | with_reducible refine modSlot_keeps ?_
    | with_reducible refine raiseCause_keeps ?_
    | with_reducible refine complete_keeps ?_
    | with_reducible refine pressWork_keeps ?_
    | with_reducible refine modPress_keeps ?_
    | with_reducible refine ExPairOk.of ?_ (by assumption)
    | split

theorem execCand_keeps {a1} {a2} {s : State} (h : StoreInv s) :
    ResOk (execCand a1 a2 s) := by
  unfold execCand
  repeat' first
    | with_reducible assumption
    | with_reducible refine powered_keeps ?_ ?_
    | with_reducible refine pressStart_keeps ?_

theorem execCommit_keeps {a1} {a2} {s : State} (h : StoreInv s) :
    ResOk (execCommit a1 a2 s) := by
  unfold execCommit
  repeat' first
    | with_reducible assumption
    | with_reducible refine powered_keeps ?_ ?_
    | with_reducible refine pressStart_keeps ?_

theorem execFold_keeps {a1} {a2} {s : State} (h : StoreInv s) :
    ResOk (execFold a1 a2 s) := by
  unfold execFold
  repeat' first
    | with_reducible assumption
    | with_reducible refine powered_keeps ?_ ?_
    | with_reducible refine pressStart_keeps ?_

theorem execGzero_keeps {a1} {a2} {s : State} (h : StoreInv s) :
    ResOk (execGzero a1 a2 s) := by
  unfold execGzero
  repeat' first
    | with_reducible assumption
    | with_reducible refine powered_keeps ?_ ?_
    | with_reducible refine pressStart_keeps ?_

theorem execLoadfold_keeps {a1} {a2} {s : State} (h : StoreInv s) :
    ResOk (execLoadfold a1 a2 s) := by
  unfold execLoadfold
  repeat' first
    | with_reducible assumption
    | with_reducible refine powered_keeps ?_ ?_
    | with_reducible refine pressStart_keeps ?_

theorem execNorm_keeps {a1} {a2} {s : State} (h : StoreInv s) :
    ResOk (execNorm a1 a2 s) := by
  unfold execNorm
  repeat' first
    | with_reducible assumption
    | with_reducible refine powered_keeps ?_ ?_
    | with_reducible refine pressStart_keeps ?_

theorem execPrep_keeps {a1} {a2} {s : State} (h : StoreInv s) :
    ResOk (execPrep a1 a2 s) := by
  unfold execPrep
  repeat' first
    | with_reducible assumption
    | with_reducible refine powered_keeps ?_ ?_
    | with_reducible refine pressStart_keeps ?_

theorem execPressDecide_keeps {a1} {a2} {s : State} (h : StoreInv s) :
    ResOk (execPressDecide a1 a2 s) := by
  unfold execPressDecide
  repeat' first
    | with_reducible assumption
    | with_reducible refine powered_keeps ?_ ?_
    | with_reducible refine pressStart_keeps ?_

theorem pressComplete_keeps {a1} {a2} {s : State} (h : StoreInv s) :
    StoreInv (pressComplete a1 a2 s) := by
  unfold pressComplete
  repeat' first
    | with_reducible assumption
    | with_reducible refine modPress_keeps ?_
    | with_reducible refine complete_keeps ?_
    | split

theorem execPressJobComplete_keeps {a1} {a2} {s : State} (h : StoreInv s) :
    ResOk (execPressJobComplete a1 a2 s) := by
  unfold execPressJobComplete
  repeat' first
    | with_reducible assumption
    | with_reducible refine powered_keeps ?_ ?_
    | with_reducible refine pressComplete_keeps ?_

theorem execPressVote_keeps {a1} {a2} {s : State} (h : StoreInv s) :
    ResOk (execPressVote a1 a2 s) := by
  unfold execPressVote
  repeat' first
    | with_reducible assumption
    | with_reducible refine powered_keeps ?_ ?_
    | with_reducible refine pressStart_keeps ?_

theorem execPublish_keeps {a1} {a2} {s : State} (h : StoreInv s) :
    ResOk (execPublish a1 a2 s) := by
  unfold execPublish
  repeat' first
    | with_reducible assumption
    | with_reducible refine powered_keeps ?_ ?_
    | with_reducible refine pressStart_keeps ?_

theorem ringRecord_keeps {a1} {a2} {s : State} (h : StoreInv s) :
    StoreInv (ringRecord a1 a2 s) := by
  unfold ringRecord
  repeat' first
    | with_reducible assumption
    | with_reducible refine landRing_keeps ?_
    | with_reducible refine modPress_keeps ?_
    | split

theorem execRingRecord_keeps {a1} {a2} {s : State} (h : StoreInv s) :
    ResOk (execRingRecord a1 a2 s) := by
  unfold execRingRecord
  repeat' first
    | with_reducible assumption
    | with_reducible refine powered_keeps ?_ ?_
    | with_reducible refine ringRecord_keeps ?_

theorem pressDecision_keeps {a1} {a2} {s : State} (h : StoreInv s) :
    StoreInv (pressDecision a1 a2 s) := by
  unfold pressDecision
  repeat' first
    | with_reducible assumption
    | (extract_lets +onlyGivenNames x; clear_value (e : x = _); with_reducible refine bound_state e ?_ (fun _ => ?_))
    | (extract_lets +onlyGivenNames x; clear_value x)
    | with_reducible refine ite_either ?_ ?_
    | with_reducible refine modPress_keeps ?_
    | with_reducible refine once_keeps (fun _ _ => ?_) ?_
    | with_reducible refine modPrs_keeps ?_

theorem pressHolds_keeps {a1} {s : State} (h : StoreInv s) :
    StoreInv (pressHolds a1 s) := by
  unfold pressHolds
  repeat' first
    | with_reducible assumption
    | (extract_lets +onlyGivenNames x; clear_value (e : x = _); with_reducible refine bound_state e ?_ (fun _ => ?_))
    | (extract_lets +onlyGivenNames x; clear_value x)
    | with_reducible refine ite_either ?_ ?_
    | with_reducible refine forEach_ok (fun _ _ _ => ?_) ?_
    | with_reducible refine modSlot_keeps ?_
    | with_reducible refine postCtx_keeps ?_

theorem writeTrailer_keeps {a1} {s : State} (h : StoreInv s) :
    StoreInv (writeTrailer a1 s) := by
  unfold writeTrailer
  repeat' first
    | with_reducible assumption
    | (extract_lets +onlyGivenNames x; clear_value x)
    | with_reducible refine modPress_keeps ?_
    | with_reducible refine setFold_keeps ?_
    | split

end Sys2Proof.Laws
end

