-- ==== Sys2Proof/Laws/KeepsGhlCmd.lean ====
section
/-!
SUPPORT. What GhlCmd.lean defines keeps the stores' invariant.
-/

namespace Sys2Proof.Laws

open Machine

theorem addrFault_keeps {a1} {a2} {a3} {a4} {s : State} (h : StoreInv s) :
    StoreInv (addrFault a1 a2 a3 a4 s) := by
  unfold addrFault
  repeat' first
    | with_reducible assumption
    | (extract_lets +onlyGivenNames x; clear_value (e : x = _); with_reducible refine bound_state e ?_ (fun _ => ?_))
    | (extract_lets +onlyGivenNames x; clear_value x)
    | with_reducible refine ite_either ?_ ?_
    | with_reducible refine modSlot_keeps ?_
    | with_reducible refine actFault_keeps ?_
    | fail_if_no_progress with_reducible refine of_fields ?_

theorem flushCoal_keeps {a1} {a2} {s : State} (h : StoreInv s) :
    StoreInv (flushCoal a1 a2 s) := by
  unfold flushCoal
  repeat' first
    | with_reducible assumption
    | (extract_lets +onlyGivenNames x; clear_value (e : x = _); with_reducible refine bound_state e ?_ (fun _ => ?_))
    | with_reducible refine modCtxGhl_keeps ?_
    | with_reducible refine sendReceipt_keeps ?_

theorem coalesce_keeps {a1} {a2} {s : State} (h : StoreInv s) :
    StoreInv (coalesce a1 a2 s) := by
  unfold coalesce
  repeat' first
    | with_reducible assumption
    | (extract_lets +onlyGivenNames x; clear_value (e : x = _); with_reducible refine bound_state e ?_ (fun _ => ?_))
    | (extract_lets +onlyGivenNames x; clear_value x)
    | with_reducible refine ite_either ?_ ?_
    | with_reducible refine flushCoal_keeps ?_
    | with_reducible refine modCtxGhl_keeps ?_
    | split

theorem countOutcome_keeps {a1} {a2} {a3} {s : State} (h : StoreInv s) :
    StoreInv (countOutcome a1 a2 a3 s) := by
  unfold countOutcome
  repeat' first
    | with_reducible assumption
    | (extract_lets +onlyGivenNames x; clear_value (e : x = _); with_reducible refine bound_state e ?_ (fun _ => ?_))
    | (extract_lets +onlyGivenNames x; clear_value x)
    | with_reducible refine ite_either ?_ ?_
    | with_reducible refine modGhl_keeps ?_
    | with_reducible refine log_keeps ?_
    | with_reducible refine triggerLink_keeps ?_
    | split

theorem sendReduce_keeps {a1} {a2} {a3} {a4} {a5} {s : State} (h : StoreInv s) :
    StoreInv (sendReduce a1 a2 a3 a4 a5 s) := by
  unfold sendReduce
  repeat' first
    | with_reducible assumption
    | (extract_lets +onlyGivenNames x; clear_value x)
    | with_reducible refine modCtxGhl_keeps ?_
    | with_reducible refine forward_keeps ?_
    | split

theorem deliver_keeps {a1} {a2} {a3} {a4} {s : State} (h : StoreInv s) :
    StoreInv (deliver a1 a2 a3 a4 s) := by
  unfold deliver
  repeat' first
    | with_reducible assumption
    | (extract_lets +onlyGivenNames x; clear_value (e : x = _); with_reducible refine bound_state e ?_ (fun _ => ?_))
    | with_reducible refine ite_either ?_ ?_
    | with_reducible refine forEach_ok (fun _ _ _ => ?_) ?_
    | with_reducible refine wrVa_keeps ?_
    | with_reducible refine modPress_keeps ?_
    | with_reducible refine modAct_keeps ?_
    | with_reducible refine sendReduce_keeps ?_
    | split

theorem routedIn_keeps {a1} {a2} {a3} {a4} {s : State} (fa4 : ∀ u, StoreInv u → StoreInv (a4 u)) (h : StoreInv s) :
    StoreInv (routedIn a1 a2 a3 a4 s) := by
  unfold routedIn
  repeat' first
    | with_reducible assumption
    | with_reducible refine fa4 _ ?_
    | (extract_lets +onlyGivenNames x; clear_value (e : x = _); with_reducible refine bound_state e ?_ (fun _ => ?_))
    | with_reducible refine ite_either ?_ ?_
    | with_reducible refine takeIn_keeps ?_
    | with_reducible refine passOn_keeps ?_
    | with_reducible refine freeSlots_keeps ?_
    | split

theorem execReceiptPacketReceive_keeps {a1} {a2} {s : State} (h : StoreInv s) :
    ResOk (execReceiptPacketReceive a1 a2 s) := by
  unfold execReceiptPacketReceive
  repeat' first
    | with_reducible assumption
    | with_reducible refine powered_keeps ?_ ?_
    | with_reducible refine routedIn_keeps (fun _ _ => ?_) ?_
    | with_reducible refine receiptIn_keeps ?_
    | with_reducible refine freeSlots_keeps ?_

theorem takeRed_keeps {a1} {a2} {a3} {a4} {a5} {s : State} (h : StoreInv s) :
    PairOk (takeRed a1 a2 a3 a4 a5 s) := by
  unfold takeRed
  repeat' first
    | with_reducible assumption
    | (extract_lets +onlyGivenNames x; clear_value (e : x = _); with_reducible refine bound_state e ?_ (fun _ => ?_))
    | with_reducible refine modCtxGhl_keeps ?_
    | with_reducible refine modPort_keeps ?_
    | with_reducible refine PairOk.of ?_ (by assumption)
    | split
    | with_reducible refine PairOk.mk ?_

theorem reduceRun_keeps {a1} {a2} {a3} {a4} {a5} {a6} {s : State} (h : StoreInv s) :
    StoreInv (reduceRun a1 a2 a3 a4 a5 a6 s) := by
  induction a6 generalizing s with
  | zero =>
    unfold reduceRun
    repeat' first
      | with_reducible assumption
  | succ _ ih =>
    unfold reduceRun
    repeat' first
      | with_reducible assumption
      | with_reducible refine ih ?_
      | with_reducible refine ite_either ?_ ?_
      | with_reducible refine endAct_keeps ?_
      | with_reducible refine takeRed_keeps ?_
      | with_reducible refine snd_ok (takeRed_keeps ?_)
      | with_reducible refine deliver_keeps ?_
      | with_reducible refine modAct_keeps ?_
      | with_reducible refine sendReduce_keeps ?_
      | with_reducible refine PairOk.of ?_ (by assumption)
      | split

theorem reduceGo_keeps {a1} {a2} {s : State} (h : StoreInv s) :
    StoreInv (reduceGo a1 a2 s) := by
  unfold reduceGo
  repeat' first
    | with_reducible assumption
    | with_reducible refine actFault_keeps ?_
    | with_reducible refine reduceRun_keeps ?_
    | split

theorem startAct_keeps {a1} {a2} {s : State} (h : StoreInv s) :
    StoreInv (startAct a1 a2 s) := by
  unfold startAct
  repeat' first
    | with_reducible assumption
    | with_reducible refine modCtxGhl_keeps ?_
    | with_reducible refine modSlot_keeps ?_

theorem refuseBody_keeps {a1} {a2} {s : State} (h : StoreInv s) :
    StoreInv (refuseBody a1 a2 s) := by
  unfold refuseBody
  repeat' first
    | with_reducible assumption
    | with_reducible refine actFault_keeps ?_

theorem reduce_keeps {a1} {a2} {a3} {s : State} (h : StoreInv s) :
    StoreInv (reduce a1 a2 a3 s) := by
  unfold reduce
  repeat' first
    | with_reducible assumption
    | (extract_lets +onlyGivenNames x; clear_value (e : x = _); with_reducible refine bound_state e ?_ (fun _ => ?_))
    | (extract_lets +onlyGivenNames x; clear_value x)
    | with_reducible refine ite_either ?_ ?_
    | with_reducible refine reduceGo_keeps ?_
    | with_reducible refine modCtxGhl_keeps ?_
    | with_reducible refine startAct_keeps ?_
    | with_reducible refine refuseBody_keeps ?_
    | with_reducible refine actFault_keeps ?_
    | with_reducible refine addrFault_keeps ?_
    | with_reducible refine ghlRead_keeps ?_
    | with_reducible refine snd_ok (ghlRead_keeps ?_)
    | with_reducible refine modAct_keeps ?_
    | with_reducible refine PairOk.of ?_ (by assumption)
    | split

theorem execReduce_keeps {a1} {a2} {a3} {s : State} (h : StoreInv s) :
    ResOk (execReduce a1 a2 a3 s) := by
  unfold execReduce
  repeat' first
    | with_reducible assumption
    | with_reducible refine powered_keeps ?_ ?_
    | with_reducible refine reduce_keeps ?_

theorem reduceIn_keeps {a1} {a2} {s : State} (h : StoreInv s) :
    StoreInv (reduceIn a1 a2 s) := by
  unfold reduceIn
  dsimp only
  repeat' first
    | with_reducible assumption
    | with_reducible exact ExPairOk.of ‹_› rfl
    | with_reducible exact ExTripOk.of ‹_› rfl
    | with_reducible refine ite_either ?_ ?_
    | with_reducible refine sendReceipt_keeps ?_
    | with_reducible refine freeSlots_keeps ?_
    | with_reducible refine staleDrop_keeps ?_
    | with_reducible refine countOutcome_keeps ?_
    | with_reducible refine actFault_keeps ?_
    | with_reducible refine modCtxGhl_keeps ?_
    | with_reducible refine reduceGo_keeps ?_
    | split

theorem execReducePacketReceive_keeps {a1} {a2} {s : State} (h : StoreInv s) :
    ResOk (execReducePacketReceive a1 a2 s) := by
  unfold execReducePacketReceive
  repeat' first
    | with_reducible assumption
    | with_reducible refine powered_keeps ?_ ?_
    | with_reducible refine routedIn_keeps (fun _ _ => ?_) ?_
    | with_reducible refine reduceIn_keeps ?_

theorem waitRun_keeps {a1} {a2} {s : State} (h : StoreInv s) :
    StoreInv (waitRun a1 a2 s) := by
  unfold waitRun
  repeat' first
    | with_reducible assumption
    | with_reducible refine ite_either ?_ ?_
    | with_reducible refine endAct_keeps ?_

theorem wait_keeps {a1} {a2} {a3} {s : State} (h : StoreInv s) :
    StoreInv (wait a1 a2 a3 s) := by
  unfold wait
  repeat' first
    | with_reducible assumption
    | (extract_lets +onlyGivenNames x; clear_value (e : x = _); with_reducible refine bound_state e ?_ (fun _ => ?_))
    | (extract_lets +onlyGivenNames x; clear_value x)
    | with_reducible refine ite_either ?_ ?_
    | with_reducible refine waitRun_keeps ?_
    | with_reducible refine startAct_keeps ?_
    | with_reducible refine refuseBody_keeps ?_
    | split

theorem execWait_keeps {a1} {a2} {a3} {s : State} (h : StoreInv s) :
    ResOk (execWait a1 a2 a3 s) := by
  unfold execWait
  repeat' first
    | with_reducible assumption
    | with_reducible refine powered_keeps ?_ ?_
    | with_reducible refine wait_keeps ?_

theorem waitCycles_keeps {a1} {a2} {a3} {s : State} (h : StoreInv s) :
    StoreInv (waitCycles a1 a2 a3 s) := by
  unfold waitCycles
  repeat' first
    | with_reducible assumption
    | (extract_lets +onlyGivenNames x; clear_value (e : x = _); with_reducible refine bound_state e ?_ (fun _ => ?_))
    | with_reducible refine ite_either ?_ ?_
    | with_reducible refine addStall_keeps ?_
    | with_reducible refine modAct_keeps ?_
    | with_reducible refine actFault_keeps ?_

theorem waitExpire_keeps {a1} {a2} {a3} {s : State} (h : StoreInv s) :
    StoreInv (waitExpire a1 a2 a3 s) := by
  unfold waitExpire
  repeat' first
    | with_reducible assumption
    | with_reducible refine ite_either ?_ ?_
    | with_reducible refine waitCycles_keeps ?_
    | split

theorem execWaitSlackExpire_keeps {a1} {a2} {a3} {s : State} (h : StoreInv s) :
    ResOk (execWaitSlackExpire a1 a2 a3 s) := by
  unfold execWaitSlackExpire
  repeat' first
    | with_reducible assumption
    | with_reducible refine powered_keeps ?_ ?_
    | with_reducible refine waitExpire_keeps ?_

theorem waitDone_keeps {a1} {s : State} (h : StoreInv s) :
    StoreInv (waitDone a1 s) := by
  unfold waitDone
  repeat' first
    | with_reducible assumption
    | with_reducible refine ite_either ?_ ?_
    | with_reducible refine forEach_ok (fun _ _ _ => ?_) ?_
    | with_reducible refine endAct_keeps ?_

theorem writeIn_keeps {a1} {a2} {s : State} (h : StoreInv s) :
    StoreInv (writeIn a1 a2 s) := by
  unfold writeIn
  repeat' first
    | with_reducible assumption
    | (extract_lets +onlyGivenNames x; clear_value (e : x = _); with_reducible refine bound_state e ?_ (fun _ => ?_))
    | (extract_lets +onlyGivenNames x; clear_value x)
    | with_reducible refine ite_either ?_ ?_
    | with_reducible refine staleDrop_keeps ?_
    | with_reducible refine coalesce_keeps ?_
    | with_reducible refine countOutcome_keeps ?_
    | with_reducible refine wrVa_keeps ?_
    | with_reducible refine modCtxGhl_keeps ?_
    | with_reducible refine waitDone_keeps ?_
    | split

theorem execWritePacketReceive_keeps {a1} {a2} {s : State} (h : StoreInv s) :
    ResOk (execWritePacketReceive a1 a2 s) := by
  unfold execWritePacketReceive
  repeat' first
    | with_reducible assumption
    | with_reducible refine powered_keeps ?_ ?_
    | with_reducible refine routedIn_keeps (fun _ _ => ?_) ?_
    | with_reducible refine writeIn_keeps ?_
    | with_reducible refine freeSlots_keeps ?_

theorem sendOwn_keeps {a1} {s : State} (h : StoreInv s) :
    StoreInv (sendOwn a1 s) := by
  unfold sendOwn
  repeat' first
    | with_reducible assumption
    | with_reducible refine ite_either ?_ ?_
    | with_reducible refine writeIn_keeps ?_
    | with_reducible refine forward_keeps ?_
    | split

theorem sendWrite_keeps {a1} {a2} {a3} {a4} {s : State} (h : StoreInv s) :
    StoreInv (sendWrite a1 a2 a3 a4 s) := by
  unfold sendWrite
  repeat' first
    | with_reducible assumption
    | with_reducible refine ite_either ?_ ?_
    | with_reducible refine sendOwn_keeps ?_
    | with_reducible refine modAct_keeps ?_

theorem xferRow_keeps {a1} {a2} {s : State} (h : StoreInv s) :
    StoreInv (xferRow a1 a2 s) := by
  unfold xferRow
  repeat' first
    | with_reducible assumption
    | with_reducible refine ite_either ?_ ?_
    | with_reducible refine actFault_keeps ?_
    | with_reducible refine lineRead_keeps ?_
    | with_reducible refine snd_ok (lineRead_keeps ?_)
    | with_reducible refine sendWrite_keeps ?_
    | with_reducible refine PairOk.of ?_ (by assumption)
    | split

theorem xfer_keeps {a1} {a2} {a3} {s : State} (h : StoreInv s) :
    StoreInv (xfer a1 a2 a3 s) := by
  unfold xfer
  repeat' first
    | with_reducible assumption
    | (extract_lets +onlyGivenNames x; clear_value (e : x = _); with_reducible refine bound_state e ?_ (fun _ => ?_))
    | (extract_lets +onlyGivenNames x; clear_value x)
    | with_reducible refine ite_either ?_ ?_
    | with_reducible refine forEach_ok (fun _ _ _ => ?_) ?_
    | with_reducible refine xferRow_keeps ?_
    | with_reducible refine startAct_keeps ?_
    | with_reducible refine refuseBody_keeps ?_
    | with_reducible refine actFault_keeps ?_
    | with_reducible refine modAct_keeps ?_
    | with_reducible refine startRead_keeps ?_
    | with_reducible refine addrFault_keeps ?_
    | with_reducible refine ghlRead_keeps ?_
    | with_reducible refine snd_ok (ghlRead_keeps ?_)
    | with_reducible refine sendWrite_keeps ?_
    | with_reducible refine PairOk.of ?_ (by assumption)
    | split

theorem execXfer_keeps {a1} {a2} {a3} {s : State} (h : StoreInv s) :
    ResOk (execXfer a1 a2 a3 s) := by
  unfold execXfer
  repeat' first
    | with_reducible assumption
    | with_reducible refine powered_keeps ?_ ?_
    | with_reducible refine xfer_keeps ?_

theorem ghlAttempt_keeps {a1} {s : State} (h : StoreInv s) :
    StoreInv (ghlAttempt a1 s) := by
  unfold ghlAttempt
  repeat' first
    | with_reducible assumption
    | (extract_lets +onlyGivenNames x; clear_value (e : x = _); with_reducible refine bound_state e ?_ (fun _ => ?_))
    | (extract_lets +onlyGivenNames x; clear_value x)
    | with_reducible refine forEach_ok (fun _ _ _ => ?_) ?_
    | with_reducible refine modPort_keeps ?_
    | with_reducible refine staleDrop_keeps ?_
    | with_reducible refine modCtxGhl_keeps ?_
    | split

theorem waitTick_keeps {s : State} (h : StoreInv s) :
    StoreInv (waitTick s) := by
  unfold waitTick
  repeat' first
    | with_reducible assumption
    | with_reducible refine ite_either ?_ ?_
    | with_reducible refine forEach_ok (fun _ _ _ => ?_) ?_
    | with_reducible refine waitCycles_keeps ?_

end Sys2Proof.Laws
end

