-- ==== Sys2Proof/Laws/KeepsSeam.lean ====
section
/-!
SUPPORT. What Seam.lean defines keeps the stores' invariant.
-/

namespace Sys2Proof.Laws

open Machine

theorem setSeam_keeps {a1} {a2} {s : State} (h : StoreInv s) :
    StoreInv (setSeam a1 a2 s) := by
  unfold setSeam
  repeat' first
    | with_reducible assumption
    | fail_if_no_progress with_reducible refine of_fields ?_

theorem seamFault_keeps {a1} {a2} {a3} {s : State} (h : StoreInv s) :
    StoreInv (seamFault a1 a2 a3 s) := by
  unfold seamFault
  repeat' first
    | with_reducible assumption
    | (extract_lets +onlyGivenNames x; clear_value (e : x = _); with_reducible refine bound_state e ?_ (fun _ => ?_))
    | with_reducible refine setSeam_keeps ?_
    | with_reducible refine complete_keeps ?_
    | with_reducible refine raiseCause_keeps ?_

theorem seamStall_keeps {a1} {a2} {s : State} (h : StoreInv s) :
    StoreInv (seamStall a1 a2 s) := by
  unfold seamStall
  repeat' first
    | with_reducible assumption
    | with_reducible refine ite_either ?_ ?_
    | with_reducible refine seamFault_keeps ?_

theorem seamWrite_keeps {a1} {a2} {a3} {s : State} (h : StoreInv s) :
    StoreInv (seamWrite a1 a2 a3 s) := by
  unfold seamWrite
  repeat' first
    | with_reducible assumption
    | (extract_lets +onlyGivenNames x; clear_value x)
    | with_reducible refine ite_either ?_ ?_
    | with_reducible refine lineWrite_keeps ?_
    | with_reducible refine snd_ok (lineWrite_keeps ?_)
    | with_reducible refine seamStall_keeps ?_
    | with_reducible refine seamFault_keeps ?_
    | with_reducible refine setSeam_keeps ?_
    | with_reducible refine PairOk.of ?_ (by assumption)
    | fail_if_no_progress with_reducible refine of_fields ?_
    | split

theorem seamRead_keeps {a1} {a2} {a3} {s : State} (h : StoreInv s) :
    StoreInv (seamRead a1 a2 a3 s) := by
  unfold seamRead
  repeat' first
    | with_reducible assumption
    | (extract_lets +onlyGivenNames x; clear_value x)
    | with_reducible refine ite_either ?_ ?_
    | with_reducible refine lineRead_keeps ?_
    | with_reducible refine snd_ok (lineRead_keeps ?_)
    | with_reducible refine seamStall_keeps ?_
    | with_reducible refine seamFault_keeps ?_
    | with_reducible refine setSeam_keeps ?_
    | with_reducible refine PairOk.of ?_ (by assumption)
    | split

theorem seamStep_keeps {a1} {a2} {s : State} (h : StoreInv s) :
    StoreInv (seamStep a1 a2 s) := by
  unfold seamStep
  repeat' first
    | with_reducible assumption
    | (extract_lets +onlyGivenNames x; clear_value x)
    | with_reducible refine ite_either ?_ ?_
    | with_reducible refine seamWrite_keeps ?_
    | with_reducible refine seamFault_keeps ?_
    | with_reducible refine seamRead_keeps ?_
    | with_reducible refine setSeam_keeps ?_
    | split

theorem seamRun_keeps {a1} {a2} {a3} {s : State} (h : StoreInv s) :
    StoreInv (seamRun a1 a2 a3 s) := by
  unfold seamRun
  repeat' first
    | with_reducible assumption
    | (extract_lets +onlyGivenNames x; clear_value (e : x = _); with_reducible refine bound_state e ?_ (fun _ => ?_))
    | (extract_lets +onlyGivenNames x; clear_value x)
    | with_reducible refine ite_either ?_ ?_
    | with_reducible refine forEach_ok (fun _ _ _ => ?_) ?_
    | with_reducible refine seamStep_keeps ?_
    | with_reducible refine modSlot_keeps ?_
    | with_reducible refine raiseCause_keeps ?_
    | with_reducible refine complete_keeps ?_
    | with_reducible refine startRead_keeps ?_
    | with_reducible refine setSeam_keeps ?_
    | split

theorem execIntersect_keeps {a1} {a2} {s : State} (h : StoreInv s) :
    ResOk (execIntersect a1 a2 s) := by
  unfold execIntersect
  repeat' first
    | with_reducible assumption
    | with_reducible refine powered_keeps ?_ ?_
    | with_reducible refine seamRun_keeps ?_

theorem execRoute_keeps {a1} {a2} {s : State} (h : StoreInv s) :
    ResOk (execRoute a1 a2 s) := by
  unfold execRoute
  repeat' first
    | with_reducible assumption
    | with_reducible refine powered_keeps ?_ ?_
    | with_reducible refine seamRun_keeps ?_

theorem seamComplete_keeps {a1} {a2} {s : State} (h : StoreInv s) :
    StoreInv (seamComplete a1 a2 s) := by
  unfold seamComplete
  repeat' first
    | with_reducible assumption
    | with_reducible refine ite_either ?_ ?_
    | with_reducible refine setSeam_keeps ?_
    | with_reducible refine complete_keeps ?_
    | split

theorem execSeamComplete_keeps {a1} {a2} {s : State} (h : StoreInv s) :
    ResOk (execSeamComplete a1 a2 s) := by
  unfold execSeamComplete
  repeat' first
    | with_reducible assumption
    | with_reducible refine powered_keeps ?_ ?_
    | with_reducible refine seamComplete_keeps ?_

theorem execTopk_keeps {a1} {a2} {s : State} (h : StoreInv s) :
    ResOk (execTopk a1 a2 s) := by
  unfold execTopk
  repeat' first
    | with_reducible assumption
    | with_reducible refine powered_keeps ?_ ?_
    | with_reducible refine seamRun_keeps ?_

theorem execUnion_keeps {a1} {a2} {s : State} (h : StoreInv s) :
    ResOk (execUnion a1 a2 s) := by
  unfold execUnion
  repeat' first
    | with_reducible assumption
    | with_reducible refine powered_keeps ?_ ?_
    | with_reducible refine seamRun_keeps ?_

end Sys2Proof.Laws
end

