-- ==== Sys2Proof/Laws/KeepsStream.lean ====
section
/-!
SUPPORT. What Stream.lean defines keeps the stores' invariant.
-/

namespace Sys2Proof.Laws

open Machine

theorem modTask_keeps {a} {b} {s : State} (h : StoreInv s) : StoreInv (State.modTask s a b) :=
  of_same (s := s) rfl rfl rfl rfl rfl rfl rfl rfl rfl rfl rfl h

theorem blockBack_keeps {a1} {a2} {a3} {s : State} (h : StoreInv s) :
    StoreInv (blockBack a1 a2 a3 s) := by
  unfold blockBack
  repeat' first
    | with_reducible assumption
    | (extract_lets +onlyGivenNames x; clear_value x)
    | with_reducible refine ite_either ?_ ?_
    | with_reducible refine modTask_keeps ?_
    | split

theorem taskFault_keeps {a1} {a2} {s : State} (h : StoreInv s) :
    StoreInv (taskFault a1 a2 s) := by
  unfold taskFault
  repeat' first
    | with_reducible assumption
    | (extract_lets +onlyGivenNames x; clear_value x)
    | with_reducible refine raiseCause_keeps ?_
    | with_reducible refine endTask_keeps ?_

theorem strStart_keeps {a1} {a2} {a3} {s : State} (h : StoreInv s) :
    StoreInv (strStart a1 a2 a3 s) := by
  unfold strStart
  repeat' first
    | with_reducible assumption
    | (extract_lets +onlyGivenNames x; clear_value (e : x = _); with_reducible refine bound_state e ?_ (fun _ => ?_))
    | (extract_lets +onlyGivenNames x; clear_value x)
    | with_reducible refine ite_either ?_ ?_
    | with_reducible refine forEach_ok (fun _ _ _ => ?_) ?_
    | with_reducible refine modSlot_keeps ?_
    | with_reducible refine raiseCause_keeps ?_
    | with_reducible refine complete_keeps ?_
    | with_reducible refine startRead_keeps ?_
    | with_reducible refine taskFault_keeps ?_
    | fail_if_no_progress with_reducible refine of_fields ?_
    | split

theorem execGather_keeps {a1} {a2} {s : State} (h : StoreInv s) :
    ResOk (execGather a1 a2 s) := by
  unfold execGather
  repeat' first
    | with_reducible assumption
    | with_reducible refine powered_keeps ?_ ?_
    | with_reducible refine strStart_keeps ?_

theorem hostRead_keeps {a1} {a2} {a3} {a4} {s : State} (h : StoreInv s) :
    StoreInv (hostRead a1 a2 a3 a4 s) := by
  unfold hostRead
  repeat' first
    | with_reducible assumption
    | (extract_lets +onlyGivenNames x; clear_value (e : x = _); with_reducible refine bound_state e ?_ (fun _ => ?_))
    | (extract_lets +onlyGivenNames x; clear_value x)
    | with_reducible refine ite_either ?_ ?_
    | with_reducible refine blockBack_keeps ?_
    | with_reducible refine log_keeps ?_
    | split

theorem execHostReadCompletion_keeps {a1} {a2} {a3} {a4} {s : State} (h : StoreInv s) :
    ResOk (execHostReadCompletion a1 a2 a3 a4 s) := by
  unfold execHostReadCompletion
  repeat' first
    | with_reducible assumption
    | with_reducible refine powered_keeps ?_ ?_
    | with_reducible refine hostRead_keeps ?_

theorem execLoad_keeps {a1} {a2} {s : State} (h : StoreInv s) :
    ResOk (execLoad a1 a2 s) := by
  unfold execLoad
  repeat' first
    | with_reducible assumption
    | with_reducible refine powered_keeps ?_ ?_
    | with_reducible refine strStart_keeps ?_

theorem memReadDone_keeps {a1} {a2} {a3} {a4} {a5} {s : State} (h : StoreInv s) :
    StoreInv (memReadDone a1 a2 a3 a4 a5 s) := by
  unfold memReadDone
  repeat' first
    | with_reducible assumption
    | (extract_lets +onlyGivenNames x; clear_value x)
    | with_reducible refine ite_either ?_ ?_
    | with_reducible refine readOutcome_keeps ?_
    | with_reducible refine snd_ok (readOutcome_keeps ?_)
    | with_reducible refine blockBack_keeps ?_

theorem execMemReadDone_keeps {a1} {a2} {a3} {a4} {a5} {s : State} (h : StoreInv s) :
    ResOk (execMemReadDone a1 a2 a3 a4 a5 s) := by
  unfold execMemReadDone
  repeat' first
    | with_reducible assumption
    | with_reducible refine powered_keeps ?_ ?_
    | with_reducible refine memReadDone_keeps ?_

theorem performWrite_keeps {a1} {s : State} (h : StoreInv s) :
    StoreInv (performWrite a1 s) := by
  unfold performWrite
  repeat' first
    | with_reducible assumption
    | (extract_lets +onlyGivenNames x; clear_value (e : x = _); with_reducible refine bound_state e ?_ (fun _ => ?_))
    | with_reducible refine ite_either ?_ ?_
    | with_reducible refine foldl_ok (fun _ _ _ => ?_) ?_
    | with_reducible refine wrBytes_keeps ?_
    | with_reducible refine modTask_keeps ?_
    | fail_if_no_progress with_reducible refine of_fields ?_
    | split

theorem memWriteDone_keeps {a1} {a2} {s : State} (h : StoreInv s) :
    StoreInv (memWriteDone a1 a2 s) := by
  unfold memWriteDone
  repeat' first
    | with_reducible assumption
    | (extract_lets +onlyGivenNames x; clear_value x)
    | with_reducible refine performWrite_keeps ?_
    | fail_if_no_progress with_reducible refine of_fields ?_
    | split

theorem execMemWriteDone_keeps {a1} {a2} {s : State} (h : StoreInv s) :
    ResOk (execMemWriteDone a1 a2 s) := by
  unfold execMemWriteDone
  repeat' first
    | with_reducible assumption
    | with_reducible refine powered_keeps ?_ ?_
    | with_reducible refine memWriteDone_keeps ?_

theorem patrolRead_keeps {a1} {a2} {a3} {a4} {a5} {s : State} (h : StoreInv s) :
    StoreInv (patrolRead a1 a2 a3 a4 a5 s) := by
  unfold patrolRead
  repeat' first
    | with_reducible assumption
    | with_reducible refine ite_either ?_ ?_
    | with_reducible refine readOutcome_keeps ?_
    | with_reducible refine snd_ok (readOutcome_keeps ?_)

theorem execPatrolRead_keeps {a1} {a2} {a3} {a4} {a5} {s : State} (h : StoreInv s) :
    ResOk (execPatrolRead a1 a2 a3 a4 a5 s) := by
  unfold execPatrolRead
  repeat' first
    | with_reducible assumption
    | with_reducible refine powered_keeps ?_ ?_
    | with_reducible refine patrolRead_keeps ?_

theorem execRetirementCopyDone_keeps {a1} {s : State} (h : StoreInv s) :
    ResOk (execRetirementCopyDone a1 s) := by
  unfold execRetirementCopyDone
  repeat' first
    | with_reducible assumption
    | with_reducible refine powered_keeps ?_ ?_
    | with_reducible refine retireCopied_keeps ?_

theorem takeIndex_keeps {a1} {s : State} (h : StoreInv s) :
    StoreInv (takeIndex a1 s) := by
  unfold takeIndex
  repeat' first
    | with_reducible assumption
    | (extract_lets +onlyGivenNames x; clear_value x)
    | with_reducible refine taskFault_keeps ?_
    | with_reducible refine takeRows_keeps ?_
    | with_reducible refine snd_ok (takeRows_keeps ?_)
    | with_reducible refine modTask_keeps ?_
    | with_reducible refine PairOk.of ?_ (by assumption)
    | split

theorem strXlate_keeps {a1} {a2} {a3} {s : State} (h : StoreInv s) :
    PairOk (strXlate a1 a2 a3 s) := by
  unfold strXlate
  repeat' first
    | with_reducible assumption
    | (extract_lets +onlyGivenNames x; clear_value (e : x = _); with_reducible refine bound_state e ?_ (fun _ => ?_))
    | (extract_lets +onlyGivenNames x; clear_value x)
    | with_reducible refine ite_either ?_ ?_
    | with_reducible refine free_keeps ?_
    | with_reducible refine snd_ok (free_keeps ?_)
    | with_reducible refine PairOk.of ?_ (by assumption)
    | fail_if_no_progress with_reducible refine of_fields ?_
    | split
    | with_reducible refine PairOk.mk ?_

theorem strXlateAll_keeps {a1 a2} {a3 : List (Option Nat)} {s : State} (h : StoreInv s) :
    PairOk (strXlateAll a1 a2 a3 s) := by
  induction a3 generalizing s with
  | nil => exact h
  | cons g gs ih =>
    cases g with
    | none =>
      unfold strXlateAll
      split
      · rename_i e; exact PairOk.of (ih h) e
      · exact ih h
    | some va =>
      unfold strXlateAll
      split
      · rename_i e; exact snd_ok (ih (PairOk.of (strXlate_keeps h) e))
      · rename_i e
        have h1 := PairOk.of (strXlate_keeps h) e
        split
        · rename_i e'; exact PairOk.of (ih h1) e'
        · exact ih h1

theorem markSlot_keeps {a1} {a2} {a3} {a4} {a5} {s : State} (h : StoreInv s) :
    StoreInv (markSlot a1 a2 a3 a4 a5 s) := by
  unfold markSlot
  repeat' first
    | with_reducible assumption
    | with_reducible refine modLine_keeps ?_

theorem landRow_keeps {a1} {a2} {a3} {s : State} (h : StoreInv s) :
    StoreInv (landRow a1 a2 a3 s) := by
  unfold landRow
  repeat' first
    | with_reducible assumption
    | (extract_lets +onlyGivenNames x; clear_value (e : x = _); with_reducible refine bound_state e ?_ (fun _ => ?_))
    | (extract_lets +onlyGivenNames x; clear_value x)
    | with_reducible refine foldl_ok (fun _ _ _ => ?_) ?_
    | with_reducible refine wrRow_keeps ?_
    | with_reducible refine modLine_keeps ?_
    | fail_if_no_progress with_reducible refine of_fields ?_
    | split

theorem reserveRow_keeps {a1} {a2} {a3} {a4} {a5} {a6} {a7} {s : State} (h : StoreInv s) :
    StoreInv (reserveRow a1 a2 a3 a4 a5 a6 a7 s) := by
  unfold reserveRow
  repeat' first
    | with_reducible assumption
    | (extract_lets +onlyGivenNames x; clear_value (e : x = _); with_reducible refine bound_state e ?_ (fun _ => ?_))
    | (extract_lets +onlyGivenNames x; clear_value x)
    | with_reducible refine ite_either ?_ ?_
    | with_reducible refine taskFault_keeps ?_
    | with_reducible refine strXlateAll_keeps ?_
    | with_reducible refine snd_ok (strXlateAll_keeps ?_)
    | with_reducible refine modLine_keeps ?_
    | with_reducible refine markSlot_keeps ?_
    | with_reducible refine modTask_keeps ?_
    | with_reducible refine landRow_keeps ?_
    | with_reducible refine askBanks_keeps ?_
    | with_reducible refine PairOk.of ?_ (by assumption)
    | split

theorem rowReserve_keeps {a1} {a2} {a3} {s : State} (h : StoreInv s) :
    StoreInv (rowReserve a1 a2 a3 s) := by
  unfold rowReserve
  repeat' first
    | with_reducible assumption
    | (extract_lets +onlyGivenNames x; clear_value (e : x = _); with_reducible refine bound_state e ?_ (fun _ => ?_))
    | (extract_lets +onlyGivenNames x; clear_value x)
    | with_reducible refine ite_either ?_ ?_
    | with_reducible refine takeIndex_keeps ?_
    | with_reducible refine taskFault_keeps ?_
    | with_reducible refine reserveRow_keeps ?_
    | with_reducible refine modTask_keeps ?_
    | with_reducible refine markSlot_keeps ?_
    | with_reducible refine modLine_keeps ?_
    | split

theorem execRowReserve_keeps {a1} {a2} {a3} {s : State} (h : StoreInv s) :
    ResOk (execRowReserve a1 a2 a3 s) := by
  unfold execRowReserve
  repeat' first
    | with_reducible assumption
    | with_reducible refine powered_keeps ?_ ?_
    | with_reducible refine rowReserve_keeps ?_

theorem execScatter_keeps {a1} {a2} {s : State} (h : StoreInv s) :
    ResOk (execScatter a1 a2 s) := by
  unfold execScatter
  repeat' first
    | with_reducible assumption
    | with_reducible refine powered_keeps ?_ ?_
    | with_reducible refine strStart_keeps ?_

theorem execStore_keeps {a1} {a2} {s : State} (h : StoreInv s) :
    ResOk (execStore a1 a2 s) := by
  unfold execStore
  repeat' first
    | with_reducible assumption
    | with_reducible refine powered_keeps ?_ ?_
    | with_reducible refine strStart_keeps ?_

theorem takeHeld_keeps {a1} {a2} {a3} {s : State} (h : StoreInv s) :
    PairOk (takeHeld a1 a2 a3 s) := by
  unfold takeHeld
  repeat' first
    | with_reducible assumption
    | with_reducible refine takeRows_keeps ?_
    | with_reducible refine snd_ok (takeRows_keeps ?_)
    | with_reducible refine PairOk.of ?_ (by assumption)
    | split
    | with_reducible refine PairOk.mk ?_

theorem storeFault_keeps {a1} {a2} {a3} {s : State} (h : StoreInv s) :
    StoreInv (storeFault a1 a2 a3 s) := by
  unfold storeFault
  repeat' first
    | with_reducible assumption
    | (extract_lets +onlyGivenNames x; clear_value (e : x = _); with_reducible refine bound_state e ?_ (fun _ => ?_))
    | (extract_lets +onlyGivenNames x; clear_value x)
    | with_reducible refine ite_either ?_ ?_
    | with_reducible refine taskFault_keeps ?_
    | with_reducible refine modSlot_keeps ?_
    | fail_if_no_progress with_reducible refine of_fields ?_

theorem issueRow_keeps {a1 a2 a3 a4} {s : State} (h : StoreInv s) : StoreInv (issueRow a1 a2 a3 a4 s) := by
  unfold issueRow
  refine modTask_keeps (of_fields (askBanks_keeps (foldl_ok (fun s w hs => ?_) h)))
  split
  · exact wrHost_keeps hs
  · exact hs

theorem storeData_keeps {a1} {a2} {a3} {a4} {a5} {s : State} (h : StoreInv s) :
    StoreInv (storeData a1 a2 a3 a4 a5 s) := by
  unfold storeData
  repeat' first
    | with_reducible assumption
    | (extract_lets +onlyGivenNames x; clear_value (e : x = _); with_reducible refine bound_state e ?_ (fun _ => ?_))
    | (extract_lets +onlyGivenNames x; clear_value x)
    | with_reducible refine ite_either ?_ ?_
    | with_reducible refine takeHeld_keeps ?_
    | with_reducible refine snd_ok (takeHeld_keeps ?_)
    | with_reducible refine taskFault_keeps ?_
    | with_reducible refine modTask_keeps ?_
    | with_reducible refine strXlateAll_keeps ?_
    | with_reducible refine snd_ok (strXlateAll_keeps ?_)
    | with_reducible refine storeFault_keeps ?_
    | with_reducible refine issueRow_keeps ?_
    | with_reducible refine PairOk.of ?_ (by assumption)
    | split
    | with_reducible refine PairOk.mk ?_

theorem storeRow_keeps {a1} {a2} {a3} {s : State} (h : StoreInv s) :
    StoreInv (storeRow a1 a2 a3 s) := by
  unfold storeRow
  repeat' first
    | with_reducible assumption
    | (extract_lets +onlyGivenNames x; clear_value x)
    | with_reducible refine ite_either ?_ ?_
    | with_reducible refine foldl_ok (fun _ _ _ => ?_) ?_
    | with_reducible refine takeIndex_keeps ?_
    | with_reducible refine taskFault_keeps ?_
    | with_reducible refine storeData_keeps ?_
    | with_reducible refine takeHeld_keeps ?_
    | with_reducible refine snd_ok (takeHeld_keeps ?_)
    | with_reducible refine modTask_keeps ?_
    | with_reducible refine PairOk.of ?_ (by assumption)
    | split

theorem execStoreRow_keeps {a1} {a2} {a3} {s : State} (h : StoreInv s) :
    ResOk (execStoreRow a1 a2 a3 s) := by
  unfold execStoreRow
  repeat' first
    | with_reducible assumption
    | with_reducible refine powered_keeps ?_ ?_
    | with_reducible refine storeRow_keeps ?_

theorem rowLand_keeps {a1} {a2} {a3} {s : State} (h : StoreInv s) :
    StoreInv (rowLand a1 a2 a3 s) := by
  unfold rowLand
  repeat' first
    | with_reducible assumption
    | (extract_lets +onlyGivenNames x; clear_value (e : x = _); with_reducible refine bound_state e ?_ (fun _ => ?_))
    | (extract_lets +onlyGivenNames x; clear_value x)
    | with_reducible refine ite_either ?_ ?_
    | with_reducible refine foldl_ok (fun _ _ _ => ?_) ?_
    | with_reducible refine modTask_keeps ?_
    | with_reducible refine landRow_keeps ?_
    | split

theorem execStrRowLand_keeps {a1} {a2} {a3} {s : State} (h : StoreInv s) :
    ResOk (execStrRowLand a1 a2 a3 s) := by
  unfold execStrRowLand
  repeat' first
    | with_reducible assumption
    | with_reducible refine powered_keeps ?_ ?_
    | with_reducible refine rowLand_keeps ?_

theorem taskComplete_keeps {a1} {a2} {a3} {s : State} (h : StoreInv s) :
    StoreInv (taskComplete a1 a2 a3 s) := by
  unfold taskComplete
  repeat' first
    | with_reducible assumption
    | with_reducible refine ite_either ?_ ?_
    | with_reducible refine endTask_keeps ?_
    | split

theorem execStrTaskComplete_keeps {a1} {a2} {a3} {s : State} (h : StoreInv s) :
    ResOk (execStrTaskComplete a1 a2 a3 s) := by
  unfold execStrTaskComplete
  repeat' first
    | with_reducible assumption
    | with_reducible refine powered_keeps ?_ ?_
    | with_reducible refine taskComplete_keeps ?_

theorem flushWrites_keeps {s : State} (h : StoreInv s) :
    StoreInv (flushWrites s) := by
  unfold flushWrites
  repeat' first
    | with_reducible assumption
    | (extract_lets +onlyGivenNames x; clear_value x)
    | with_reducible refine forEach_ok (fun _ _ _ => ?_) ?_
    | with_reducible refine performWrite_keeps ?_
    | fail_if_no_progress with_reducible refine of_fields ?_

end Sys2Proof.Laws
end

