-- ==== Sys2Proof/Laws/KeepsPlace.lean ====
section
/-!
SUPPORT. What Place.lean defines keeps the stores' invariant.
-/

namespace Sys2Proof.Laws

open Machine

theorem dropXlat_keeps {a1} {s : State} (h : StoreInv s) :
    StoreInv (dropXlat a1 s) := by
  unfold dropXlat
  repeat' first
    | with_reducible assumption
    | (extract_lets +onlyGivenNames x; clear_value x)
    | fail_if_no_progress with_reducible refine of_fields ?_

theorem fetchRead_keeps {a1} {a2} {a3} {s : State} (h : StoreInv s) :
    PairOk (fetchRead a1 a2 a3 s) := by
  unfold fetchRead
  repeat' first
    | with_reducible assumption
    | (extract_lets +onlyGivenNames x; clear_value (e : x = _); with_reducible refine bound_state e ?_ (fun _ => ?_))
    | (extract_lets +onlyGivenNames x; clear_value x)
    | with_reducible refine ite_either ?_ ?_
    | with_reducible refine readBlocks_keeps ?_
    | with_reducible refine log_keeps ?_
    | with_reducible refine PairOk.of ?_ (by assumption)
    | split
    | with_reducible refine PairOk.mk ?_

theorem fetchNext_keeps {s : State} {a1} {a2} (h : StoreInv s) :
    StoreInv (fetchNext s a1 a2) := by
  unfold fetchNext
  repeat' first
    | with_reducible assumption
    | (extract_lets +onlyGivenNames x; clear_value x)
    | with_reducible refine ite_either ?_ ?_
    | with_reducible refine fetchRead_keeps ?_
    | with_reducible refine snd_ok (fetchRead_keeps ?_)
    | with_reducible refine modSlot_keeps ?_

theorem execFetchNext_keeps {a1} {a2} {s : State} (h : StoreInv s) :
    ResOk (execFetchNext a1 a2 s) := by
  unfold execFetchNext
  repeat' first
    | with_reducible assumption
    | with_reducible refine powered_keeps ?_ ?_
    | with_reducible refine fetchNext_keeps ?_

theorem fetchBoth_keeps {a1} {s : State} (h : StoreInv s) :
    StoreInv (fetchBoth a1 s) := by
  unfold fetchBoth
  repeat' first
    | with_reducible assumption
    | (extract_lets +onlyGivenNames x; clear_value x)
    | with_reducible refine fetchRead_keeps ?_
    | with_reducible refine snd_ok (fetchRead_keeps ?_)
    | with_reducible refine modSlot_keeps ?_

theorem loadTables_keeps {a1} {a2} {s : State} (h : StoreInv s) :
    StoreInv (loadTables a1 a2 s) := by
  unfold loadTables
  repeat' first
    | with_reducible assumption
    | (extract_lets +onlyGivenNames x; clear_value (e : x = _); with_reducible refine bound_state e ?_ (fun _ => ?_))
    | (extract_lets +onlyGivenNames x; clear_value x)
    | with_reducible refine foldl_ok (fun _ _ _ => ?_) ?_
    | with_reducible refine modSlot_keeps ?_
    | fail_if_no_progress with_reducible refine of_fields ?_

theorem setPart_keeps {a1} {a2} {a3} {a4} {a5} {s : State} (h : StoreInv s) :
    StoreInv (setPart a1 a2 a3 a4 a5 s) := by
  unfold setPart
  repeat' first
    | with_reducible assumption
    | (extract_lets +onlyGivenNames x; clear_value x)
    | fail_if_no_progress with_reducible refine of_fields ?_

theorem placeRegion_keeps {a1} {a2} {s : State} (h : StoreInv s) :
    StoreInv (placeRegion a1 a2 s) := by
  unfold placeRegion
  repeat' first
    | with_reducible assumption
    | with_reducible refine ite_either ?_ ?_
    | with_reducible refine forEach_ok (fun _ _ _ => ?_) ?_
    | with_reducible refine foldl_ok (fun _ _ _ => ?_) ?_
    | with_reducible refine takePages_keeps ?_
    | with_reducible refine snd_ok (takePages_keeps ?_)
    | with_reducible refine zeroPage_keeps ?_
    | with_reducible refine modSlot_keeps ?_

theorem placePress_keeps {a1} {a2} {s : State} (h : StoreInv s) :
    StoreInv (placePress a1 a2 s) := by
  unfold placePress
  repeat' first
    | with_reducible assumption
    | (extract_lets +onlyGivenNames x; clear_value (e : x = _); with_reducible refine bound_state e ?_ (fun _ => ?_))
    | (extract_lets +onlyGivenNames x; clear_value x)
    | with_reducible refine ite_either ?_ ?_
    | with_reducible refine forEach_ok (fun _ _ _ => ?_) ?_
    | with_reducible refine foldl_ok (fun _ _ _ => ?_) ?_
    | with_reducible refine modPress_keeps ?_
    | with_reducible refine wrVa_keeps ?_
    | split

theorem placeImage_keeps {a1} {a2} {a3} {a4} {a5} {s : State} (h : StoreInv s) :
    StoreInv (placeImage a1 a2 a3 a4 a5 s) := by
  unfold placeImage
  repeat' first
    | with_reducible assumption
    | (extract_lets +onlyGivenNames x; clear_value (e : x = _); with_reducible refine bound_state e ?_ (fun _ => ?_))
    | (extract_lets +onlyGivenNames x; clear_value x)
    | with_reducible refine ite_either ?_ ?_
    | with_reducible refine forEach_ok (fun _ _ _ => ?_) ?_
    | with_reducible refine setPart_keeps ?_
    | with_reducible refine loadTables_keeps ?_
    | with_reducible refine modSlot_keeps ?_
    | with_reducible refine placeRegion_keeps ?_
    | with_reducible refine fetchBoth_keeps ?_
    | with_reducible refine placePress_keeps ?_
    | with_reducible refine setCtx_keeps ?_
    | fail_if_no_progress with_reducible refine of_fields ?_
    | split

theorem releasePages_keeps {a1} {a2} {s : State} (h : StoreInv s) :
    StoreInv (releasePages a1 a2 s) := by
  unfold releasePages
  repeat' first
    | with_reducible assumption
    | (extract_lets +onlyGivenNames x; clear_value (e : x = _); with_reducible refine bound_state e ?_ (fun _ => ?_))
    | (extract_lets +onlyGivenNames x; clear_value x)
    | with_reducible refine forEach_ok (fun _ _ _ => ?_) ?_
    | with_reducible refine freePage_keeps ?_
    | with_reducible refine modSlot_keeps ?_

theorem releaseShares_keeps {a1} {s : State} (h : StoreInv s) :
    StoreInv (releaseShares a1 s) := by
  unfold releaseShares
  repeat' first
    | with_reducible assumption
    | with_reducible refine modSlot_keeps ?_

theorem removeCtx_keeps {a1} {a2} {s : State} (h : StoreInv s) :
    StoreInv (removeCtx a1 a2 s) := by
  unfold removeCtx
  repeat' first
    | with_reducible assumption
    | (extract_lets +onlyGivenNames x; clear_value (e : x = _); with_reducible refine bound_state e ?_ (fun _ => ?_))
    | (extract_lets +onlyGivenNames x; clear_value x)
    | with_reducible refine partitionRelease_keeps ?_
    | with_reducible refine releaseShares_keeps ?_
    | with_reducible refine dropXlat_keeps ?_
    | with_reducible refine releasePages_keeps ?_
    | with_reducible refine releaseSeq_keeps ?_
    | with_reducible refine setCtx_keeps ?_

end Sys2Proof.Laws
end

