-- ==== Sys2Proof/Laws/KeepsSave.lean ====
section
/-!
SUPPORT. What Save.lean defines keeps the stores' invariant.
-/

namespace Sys2Proof.Laws

open Machine

theorem zeroVa_keeps {s : State} {a1} {a2} {a3} (h : StoreInv s) :
    StoreInv (State.zeroVa s a1 a2 a3) := by
  unfold State.zeroVa
  repeat' first
    | with_reducible assumption
    | with_reducible refine ite_either ?_ ?_
    | with_reducible refine foldl_ok (fun _ _ _ => ?_) ?_
    | fail_if_no_progress with_reducible refine of_fields ?_
    | fail_if_no_progress with_reducible refine of_fields_mem id id (KV.wf_eraseRange · _ _) ?_
    | fail_if_no_progress with_reducible refine of_fields_mem id (KV.wf_eraseRange · _ _) id ?_

theorem checkPart_keeps {a1} {s : State} (h : StoreInv s) :
    StoreInv (checkPart a1 s) := by
  unfold checkPart
  repeat' first
    | with_reducible assumption
    | (extract_lets +onlyGivenNames x; clear_value x)
    | with_reducible refine forEach_ok (fun _ _ _ => ?_) ?_
    | with_reducible refine checkRow_keeps ?_

theorem restoreLines_keeps {a1} {a2} {s : State} (h : StoreInv s) :
    StoreInv (restoreLines a1 a2 s) := by
  unfold restoreLines
  repeat' first
    | with_reducible assumption
    | (extract_lets +onlyGivenNames x; clear_value x)
    | with_reducible refine ite_either ?_ ?_
    | with_reducible refine forEach_ok (fun _ _ _ => ?_) ?_
    | with_reducible refine modLine_keeps ?_
    | split

theorem readRows_keeps {a1} {a2} {s : State} (h : StoreInv s) :
    StoreInv (readRows a1 a2 s) := by
  unfold readRows
  repeat' first
    | with_reducible assumption
    | (extract_lets +onlyGivenNames x; clear_value (e : x = _); with_reducible refine bound_state e ?_ (fun _ => ?_))
    | (extract_lets +onlyGivenNames x; clear_value x)
    | with_reducible refine ite_either ?_ ?_
    | with_reducible refine forEach_ok (fun _ _ _ => ?_) ?_
    | with_reducible refine foldl_ok (fun _ _ _ => ?_) ?_
    | with_reducible refine clearBlocks_keeps ?_
    | fail_if_no_progress with_reducible refine of_fields ?_
    | fail_if_no_progress with_reducible refine of_fields_mem (KV.wf_set · _ _) id id ?_

theorem sweepPanel_keeps {a1} {a2} {a3} {s : State} (h : StoreInv s) :
    StoreInv (sweepPanel a1 a2 a3 s) := by
  unfold sweepPanel
  repeat' first
    | with_reducible assumption
    | (extract_lets +onlyGivenNames x; clear_value (e : x = _); with_reducible refine bound_state e ?_ (fun _ => ?_))
    | (extract_lets +onlyGivenNames x; clear_value x)
    | with_reducible refine ite_either ?_ ?_
    | with_reducible refine modPrs_keeps ?_
    | with_reducible refine modSlot_keeps ?_
    | with_reducible refine postCtx_keeps ?_
    | with_reducible refine log_keeps ?_

theorem sweepCtx_keeps {a1} {s : State} (h : StoreInv s) :
    StoreInv (sweepCtx a1 s) := by
  unfold sweepCtx
  repeat' first
    | with_reducible assumption
    | (extract_lets +onlyGivenNames x; clear_value (e : x = _); with_reducible refine bound_state e ?_ (fun _ => ?_))
    | (extract_lets +onlyGivenNames x; clear_value x)
    | with_reducible refine ite_either ?_ ?_
    | with_reducible refine forEach_ok (fun _ _ _ => ?_) ?_
    | with_reducible refine sweepPanel_keeps ?_
    | with_reducible refine readSlot_keeps ?_
    | split

theorem finishCmd_keeps {a1} {a2} {a3} {s : State} (h : StoreInv s) :
    StoreInv (finishCmd a1 a2 a3 s) := by
  unfold finishCmd
  repeat' first
    | with_reducible assumption
    | with_reducible refine respond_keeps ?_
    | split

theorem restoreFinish_keeps {a1} {s : State} (h : StoreInv s) :
    StoreInv (restoreFinish a1 s) := by
  unfold restoreFinish
  repeat' first
    | with_reducible assumption
    | (extract_lets +onlyGivenNames x; clear_value (e : x = _); with_reducible refine bound_state e ?_ (fun _ => ?_))
    | with_reducible refine ite_either ?_ ?_
    | with_reducible refine setCtx_keeps ?_
    | with_reducible refine finishCmd_keeps ?_
    | split

theorem restoreWritten_keeps {a1} {s : State} (h : StoreInv s) :
    StoreInv (restoreWritten a1 s) := by
  unfold restoreWritten
  repeat' first
    | with_reducible assumption
    | (extract_lets +onlyGivenNames x; clear_value (e : x = _); with_reducible refine bound_state e ?_ (fun _ => ?_))
    | (extract_lets +onlyGivenNames x; clear_value x)
    | with_reducible refine ite_either ?_ ?_
    | with_reducible refine forEach_ok (fun _ _ _ => ?_) ?_
    | with_reducible refine fetchBoth_keeps ?_
    | with_reducible refine restoreLines_keeps ?_
    | with_reducible refine readRows_keeps ?_
    | with_reducible refine modSlot_keeps ?_
    | with_reducible refine sweepCtx_keeps ?_
    | with_reducible refine restoreFinish_keeps ?_
    | split

theorem execRestoreWriteDone_keeps {a1} {s : State} (h : StoreInv s) :
    ResOk (execRestoreWriteDone a1 s) := by
  unfold execRestoreWriteDone
  repeat' first
    | with_reducible assumption
    | with_reducible refine powered_keeps ?_ ?_
    | with_reducible refine restoreWritten_keeps ?_

theorem writeSave_keeps {a1} {a2} {s : State} (h : StoreInv s) :
    StoreInv (writeSave a1 a2 s) := by
  unfold writeSave
  repeat' first
    | with_reducible assumption
    | (extract_lets +onlyGivenNames x; clear_value (e : x = _); with_reducible refine bound_state e ?_ (fun _ => ?_))
    | (extract_lets +onlyGivenNames x; clear_value x)
    | with_reducible refine forEach_ok (fun _ _ _ => ?_) ?_
    | with_reducible refine checkPart_keeps ?_
    | with_reducible refine wrVa_keeps ?_
    | with_reducible refine zeroVa_keeps ?_
    | with_reducible refine modSlot_keeps ?_

theorem saveFinish_keeps {a1} {s : State} (h : StoreInv s) :
    StoreInv (saveFinish a1 s) := by
  unfold saveFinish
  repeat' first
    | with_reducible assumption
    | (extract_lets +onlyGivenNames x; clear_value (e : x = _); with_reducible refine bound_state e ?_ (fun _ => ?_))
    | with_reducible refine ite_either ?_ ?_
    | with_reducible refine releaseShares_keeps ?_
    | with_reducible refine partitionRelease_keeps ?_
    | with_reducible refine setCtx_keeps ?_
    | with_reducible refine finishCmd_keeps ?_
    | split

theorem saveWritten_keeps {a1} {s : State} (h : StoreInv s) :
    StoreInv (saveWritten a1 s) := by
  unfold saveWritten
  repeat' first
    | with_reducible assumption
    | (extract_lets +onlyGivenNames x; clear_value (e : x = _); with_reducible refine bound_state e ?_ (fun _ => ?_))
    | with_reducible refine ite_either ?_ ?_
    | with_reducible refine modSlot_keeps ?_
    | with_reducible refine writeSave_keeps ?_
    | with_reducible refine saveFinish_keeps ?_
    | split

theorem execSaveWriteDone_keeps {a1} {s : State} (h : StoreInv s) :
    ResOk (execSaveWriteDone a1 s) := by
  unfold execSaveWriteDone
  repeat' first
    | with_reducible assumption
    | with_reducible refine powered_keeps ?_ ?_
    | with_reducible refine saveWritten_keeps ?_

theorem restoreBegin_keeps {a1} {s : State} (h : StoreInv s) :
    StoreInv (restoreBegin a1 s) := by
  unfold restoreBegin
  repeat' first
    | with_reducible assumption
    | (extract_lets +onlyGivenNames x; clear_value (e : x = _); with_reducible refine bound_state e ?_ (fun _ => ?_))
    | (extract_lets +onlyGivenNames x; clear_value x)
    | with_reducible refine setPart_keeps ?_
    | with_reducible refine loadTables_keeps ?_
    | with_reducible refine modSlot_keeps ?_
    | split

theorem resumeApply_keeps {a1} {a2} {a3} {a4} {s : State} (h : StoreInv s) :
    StoreInv (resumeApply a1 a2 a3 a4 s) := by
  unfold resumeApply
  repeat' first
    | with_reducible assumption
    | (extract_lets +onlyGivenNames x; clear_value (e : x = _); with_reducible refine bound_state e ?_ (fun _ => ?_))
    | (extract_lets +onlyGivenNames x; clear_value x)
    | with_reducible refine forEach_ok (fun _ _ _ => ?_) ?_
    | with_reducible refine setCtx_keeps ?_
    | with_reducible refine modSeqEnt_keeps ?_
    | with_reducible refine fetchBoth_keeps ?_

theorem saveBegin_keeps {a1} {a2} {s : State} (h : StoreInv s) :
    StoreInv (saveBegin a1 a2 s) := by
  unfold saveBegin
  repeat' first
    | with_reducible assumption
    | (extract_lets +onlyGivenNames x; clear_value (e : x = _); with_reducible refine bound_state e ?_ (fun _ => ?_))
    | with_reducible refine setCtx_keeps ?_
    | with_reducible refine modSlot_keeps ?_

end Sys2Proof.Laws
end

