-- ==== Sys2Proof/Laws/KeepsSlotCmds.lean ====
section
/-!
SUPPORT. What SlotCmds.lean defines keeps the stores' invariant.
-/

namespace Sys2Proof.Laws

open Machine

theorem admitCmd_keeps {a1} {s : State} (h : StoreInv s) :
    CmdOk (admitCmd a1 s) := by
  unfold admitCmd
  repeat' first
    | with_reducible assumption
    | with_reducible refine ite_either ?_ ?_
    | with_reducible refine setAdmitted_keeps ?_
    | with_reducible refine modStroke_keeps ?_
    | with_reducible refine CmdOk.refused
    | with_reducible refine CmdOk.completed ?_

theorem settle_keeps {a1 a2} {s : State} {a3} (h : StoreInv s) (h3 : CmdOk a3) : StoreInv (settle a1 a2 s a3) := by
  unfold settle
  split
  · exact respond_keeps h
  · exact respond_keeps h3
  · exact modMbx_keeps h3

theorem loadCmd_keeps {a1} {a2} {s : State} (h : StoreInv s) :
    CmdOk (loadCmd a1 a2 s) := by
  unfold loadCmd
  repeat' first
    | with_reducible assumption
    | (extract_lets +onlyGivenNames x; clear_value x)
    | with_reducible refine ite_either ?_ ?_
    | with_reducible refine placeImage_keeps ?_
    | with_reducible refine CmdOk.ofDone ?_ (by assumption)
    | with_reducible refine CmdOk.ofWait ?_ (by assumption)
    | split
    | with_reducible refine CmdOk.refused
    | with_reducible refine CmdOk.completed ?_

theorem startCmd_keeps {a1} {a2} {s : State} (h : StoreInv s) :
    CmdOk (startCmd a1 a2 s) := by
  unfold startCmd
  repeat' first
    | with_reducible assumption
    | (extract_lets +onlyGivenNames x; clear_value x)
    | with_reducible refine ite_either ?_ ?_
    | with_reducible refine modSlot_keeps ?_
    | with_reducible refine CmdOk.refused
    | with_reducible refine CmdOk.completed ?_

theorem unloadStep_keeps {a1} {s : State} (h : StoreInv s) :
    StoreInv (unloadStep a1 s) := by
  unfold unloadStep
  repeat' first
    | with_reducible assumption
    | with_reducible refine ite_either ?_ ?_
    | with_reducible refine setCtx_keeps ?_
    | with_reducible refine finishCmd_keeps ?_
    | with_reducible refine removeCtx_keeps ?_

theorem unloadCmd_keeps {a1} {s : State} (h : StoreInv s) :
    CmdOk (unloadCmd a1 s) := by
  unfold unloadCmd
  repeat' first
    | with_reducible assumption
    | with_reducible refine ite_either ?_ ?_
    | with_reducible refine unloadStep_keeps ?_
    | with_reducible refine removeCtx_keeps ?_
    | with_reducible refine CmdOk.completed ?_
    | with_reducible refine CmdOk.waits ?_

theorem releaseCmd_keeps {a1} {s : State} (h : StoreInv s) :
    CmdOk (releaseCmd a1 s) := by
  unfold releaseCmd
  repeat' first
    | with_reducible assumption
    | with_reducible refine modSlot_keeps ?_
    | with_reducible refine CmdOk.completed ?_

theorem saveCmd_keeps {a1} {a2} {s : State} (h : StoreInv s) :
    CmdOk (saveCmd a1 a2 s) := by
  unfold saveCmd
  repeat' first
    | with_reducible assumption
    | with_reducible refine ite_either ?_ ?_
    | with_reducible refine saveBegin_keeps ?_
    | with_reducible refine CmdOk.refused
    | with_reducible refine CmdOk.waits ?_

theorem restoreCmd_keeps {a1} {s : State} (h : StoreInv s) :
    CmdOk (restoreCmd a1 s) := by
  unfold restoreCmd
  repeat' first
    | with_reducible assumption
    | with_reducible refine restoreBegin_keeps ?_
    | with_reducible refine CmdOk.ofDone ?_ (by assumption)
    | with_reducible refine CmdOk.ofWait ?_ (by assumption)
    | split
    | with_reducible refine CmdOk.refused
    | with_reducible refine CmdOk.waits ?_

theorem dropReduces_keeps {a1} {s : State} (h : StoreInv s) :
    StoreInv (dropReduces a1 s) := by
  unfold dropReduces
  repeat' first
    | with_reducible assumption
    | (extract_lets +onlyGivenNames x; clear_value (e : x = _); with_reducible refine bound_state e ?_ (fun _ => ?_))
    | (extract_lets +onlyGivenNames x; clear_value x)
    | with_reducible refine forEach_ok (fun _ _ _ => ?_) ?_
    | with_reducible refine modPort_keeps ?_
    | with_reducible refine staleDrop_keeps ?_
    | with_reducible refine modCtxGhl_keeps ?_
    | split

theorem reshardCmd_keeps {a1} {a2} {s : State} (h : StoreInv s) :
    CmdOk (reshardCmd a1 a2 s) := by
  unfold reshardCmd
  repeat' first
    | with_reducible assumption
    | with_reducible refine ite_either ?_ ?_
    | with_reducible refine dropReduces_keeps ?_
    | with_reducible refine CmdOk.refused
    | with_reducible refine CmdOk.waits ?_

theorem resumeCmd_keeps {a1} {a2} {s : State} (h : StoreInv s) :
    CmdOk (resumeCmd a1 a2 s) := by
  unfold resumeCmd
  repeat' first
    | with_reducible assumption
    | with_reducible refine resumeApply_keeps ?_
    | with_reducible refine CmdOk.ofDone ?_ (by assumption)
    | with_reducible refine CmdOk.ofWait ?_ (by assumption)
    | split
    | with_reducible refine CmdOk.refused
    | with_reducible refine CmdOk.completed ?_

theorem forgetPages_keeps {a1} {a2} {s : State} (h : StoreInv s) :
    StoreInv (forgetPages a1 a2 s) := by
  unfold forgetPages
  repeat' first
    | with_reducible assumption
    | (extract_lets +onlyGivenNames x; clear_value x)
    | fail_if_no_progress with_reducible refine of_fields ?_

theorem mapHost_keeps {a1} {a2} {a3} {s : State} (h : StoreInv s) :
    StoreInv (mapHost a1 a2 a3 s) := by
  unfold mapHost
  repeat' first
    | with_reducible assumption
    | with_reducible refine foldl_ok (fun _ _ _ => ?_) ?_
    | with_reducible refine modSlot_keeps ?_

theorem mapDevice_keeps {a1} {a2} {a3} {a4} {s : State} (h : StoreInv s) :
    StoreInv (mapDevice a1 a2 a3 a4 s) := by
  unfold mapDevice
  repeat' first
    | with_reducible assumption
    | with_reducible refine forEach_ok (fun _ _ _ => ?_) ?_
    | with_reducible refine foldl_ok (fun _ _ _ => ?_) ?_
    | with_reducible refine takePages_keeps ?_
    | with_reducible refine snd_ok (takePages_keeps ?_)
    | with_reducible refine zeroPage_keeps ?_
    | with_reducible refine modSlot_keeps ?_

theorem mapCmd_keeps {a1} {a2} {s : State} (h : StoreInv s) :
    CmdOk (mapCmd a1 a2 s) := by
  unfold mapCmd
  repeat' first
    | with_reducible assumption
    | (extract_lets +onlyGivenNames x; clear_value x)
    | with_reducible refine ite_either ?_ ?_
    | with_reducible refine forgetPages_keeps ?_
    | with_reducible refine mapHost_keeps ?_
    | with_reducible refine mapDevice_keeps ?_
    | with_reducible refine CmdOk.ofDone ?_ (by assumption)
    | with_reducible refine CmdOk.ofWait ?_ (by assumption)
    | split
    | with_reducible refine CmdOk.refused
    | with_reducible refine CmdOk.completed ?_

theorem unmapCmd_keeps {a1} {a2} {s : State} (h : StoreInv s) :
    CmdOk (unmapCmd a1 a2 s) := by
  unfold unmapCmd
  repeat' first
    | with_reducible assumption
    | (extract_lets +onlyGivenNames x; clear_value (e : x = _); with_reducible refine bound_state e ?_ (fun _ => ?_))
    | (extract_lets +onlyGivenNames x; clear_value x)
    | with_reducible refine ite_either ?_ ?_
    | with_reducible refine forEach_ok (fun _ _ _ => ?_) ?_
    | with_reducible refine freePage_keeps ?_
    | with_reducible refine modSlot_keeps ?_
    | with_reducible refine forgetPages_keeps ?_
    | with_reducible refine CmdOk.ofDone ?_ (by assumption)
    | with_reducible refine CmdOk.ofWait ?_ (by assumption)
    | split
    | with_reducible refine CmdOk.refused
    | with_reducible refine CmdOk.completed ?_

theorem watchCmd_keeps {a1} {a2} {s : State} (h : StoreInv s) :
    CmdOk (watchCmd a1 a2 s) := by
  unfold watchCmd
  repeat' first
    | with_reducible assumption
    | with_reducible refine configWatch_keeps ?_
    | with_reducible refine CmdOk.ofDone ?_ (by assumption)
    | with_reducible refine CmdOk.ofWait ?_ (by assumption)
    | with_reducible refine ExOk.of ?_ (by assumption)
    | split
    | with_reducible refine ExOk.ok ?_
    | with_reducible refine ExOk.error
    | with_reducible refine CmdOk.refused
    | with_reducible refine CmdOk.completed ?_

theorem decideCmd_keeps {a1} {a2} {s : State} (h : StoreInv s) :
    CmdOk (decideCmd a1 a2 s) := by
  unfold decideCmd
  repeat' first
    | with_reducible assumption
    | with_reducible refine ite_either ?_ ?_
    | with_reducible refine pressDecision_keeps ?_
    | with_reducible refine CmdOk.refused
    | with_reducible refine CmdOk.completed ?_

theorem feedCmd_keeps {a1} {a2} {s : State} (h : StoreInv s) :
    CmdOk (feedCmd a1 a2 s) := by
  unfold feedCmd
  repeat' first
    | with_reducible assumption
    | (extract_lets +onlyGivenNames x; clear_value (e : x = _); with_reducible refine bound_state e ?_ (fun _ => ?_))
    | (extract_lets +onlyGivenNames x; clear_value x)
    | with_reducible refine ite_either ?_ ?_
    | with_reducible refine modSlot_keeps ?_
    | with_reducible refine modMbx_keeps ?_
    | with_reducible refine CmdOk.refused
    | with_reducible refine CmdOk.completed ?_

theorem peerCmd_keeps {a1} {a2} {s : State} (h : StoreInv s) :
    CmdOk (peerCmd a1 a2 s) := by
  unfold peerCmd
  repeat' first
    | with_reducible assumption
    | (extract_lets +onlyGivenNames x; clear_value x)
    | with_reducible refine ite_either ?_ ?_
    | with_reducible refine modCtxGhl_keeps ?_
    | with_reducible refine modSlot_keeps ?_
    | with_reducible refine CmdOk.refused
    | with_reducible refine CmdOk.completed ?_

theorem slotEffect_keeps {a1} {a2} {s : State} (h : StoreInv s) :
    CmdOk (slotEffect a1 a2 s) := by
  unfold slotEffect
  repeat' first
    | with_reducible assumption
    | with_reducible refine ite_either ?_ ?_
    | with_reducible refine loadCmd_keeps ?_
    | with_reducible refine startCmd_keeps ?_
    | with_reducible refine unloadCmd_keeps ?_
    | with_reducible refine releaseCmd_keeps ?_
    | with_reducible refine saveCmd_keeps ?_
    | with_reducible refine restoreCmd_keeps ?_
    | with_reducible refine reshardCmd_keeps ?_
    | with_reducible refine resumeCmd_keeps ?_
    | with_reducible refine mapCmd_keeps ?_
    | with_reducible refine unmapCmd_keeps ?_
    | with_reducible refine watchCmd_keeps ?_
    | with_reducible refine decideCmd_keeps ?_
    | with_reducible refine feedCmd_keeps ?_
    | with_reducible refine peerCmd_keeps ?_
    | with_reducible refine CmdOk.ofDone ?_ (by assumption)
    | with_reducible refine CmdOk.ofWait ?_ (by assumption)
    | split
    | with_reducible refine CmdOk.refused
    | with_reducible refine CmdOk.waits ?_

theorem bandEffect_keeps {a1} {s : State} (h : StoreInv s) :
    CmdOk (bandEffect a1 s) := by
  unfold bandEffect
  repeat' first
    | with_reducible assumption
    | with_reducible refine ite_either ?_ ?_
    | with_reducible refine slotEffect_keeps ?_
    | with_reducible refine CmdOk.ofDone ?_ (by assumption)
    | with_reducible refine CmdOk.ofWait ?_ (by assumption)
    | split
    | with_reducible refine CmdOk.refused

theorem bandCmd_keeps {a1} {s : State} (h : StoreInv s) :
    StoreInv (bandCmd a1 s) := by
  unfold bandCmd
  repeat' first
    | with_reducible assumption
    | (extract_lets +onlyGivenNames x; clear_value x)
    | with_reducible refine ite_either ?_ ?_
    | with_reducible refine settle_keeps ?_ ?_
    | with_reducible refine bandEffect_keeps ?_
    | with_reducible refine CmdOk.ofDone ?_ (by assumption)
    | with_reducible refine CmdOk.ofWait ?_ (by assumption)
    | split

theorem copyMove_keeps {a1} {a2} {a3} {s : State} (h : StoreInv s) :
    StoreInv (copyMove a1 a2 a3 s) := by
  unfold copyMove
  repeat' first
    | with_reducible assumption
    | (extract_lets +onlyGivenNames x; clear_value x)
    | with_reducible refine ite_either ?_ ?_
    | with_reducible refine modPress_keeps ?_
    | with_reducible refine wrHost_keeps ?_
    | with_reducible refine wrVa_keeps ?_
    | with_reducible refine ghlRead_keeps ?_
    | with_reducible refine snd_ok (ghlRead_keeps ?_)

theorem copyDone_keeps {a1} {a2} {s : State} (h : StoreInv s) :
    StoreInv (copyDone a1 a2 s) := by
  unfold copyDone
  repeat' first
    | with_reducible assumption
    | (extract_lets +onlyGivenNames x; clear_value x)
    | with_reducible refine ite_either ?_ ?_
    | with_reducible refine respond_keeps ?_
    | with_reducible refine copyMove_keeps ?_
    | split

theorem setBudget_keeps {s : State} (h : StoreInv s) :
    StoreInv (setBudget s) := by
  unfold setBudget
  repeat' first
    | with_reducible assumption
    | (extract_lets +onlyGivenNames x; clear_value x)
    | fail_if_no_progress with_reducible refine of_fields ?_

theorem domainApply_keeps {a1} {s : State} (h : StoreInv s) :
    StoreInv (domainApply a1 s) := by
  unfold domainApply
  repeat' first
    | with_reducible assumption
    | (extract_lets +onlyGivenNames x; clear_value (e : x = _); with_reducible refine bound_state e ?_ (fun _ => ?_))
    | (extract_lets +onlyGivenNames x; clear_value x)
    | with_reducible refine ite_either ?_ ?_
    | with_reducible refine modStroke_keeps ?_
    | with_reducible refine modGhl_keeps ?_
    | with_reducible refine setBudget_keeps ?_

theorem domainCmd_keeps {a1} {s : State} (h : StoreInv s) :
    CmdOk (domainCmd a1 s) := by
  unfold domainCmd
  repeat' first
    | with_reducible assumption
    | with_reducible refine ite_either ?_ ?_
    | with_reducible refine domainApply_keeps ?_
    | with_reducible refine CmdOk.ofDone ?_ (by assumption)
    | with_reducible refine CmdOk.ofWait ?_ (by assumption)
    | split
    | with_reducible refine CmdOk.refused
    | with_reducible refine CmdOk.completed ?_

theorem dropRing_keeps {a1} {s : State} (h : StoreInv s) :
    StoreInv (dropRing a1 s) := by
  unfold dropRing
  repeat' first
    | with_reducible assumption
    | with_reducible refine modMbx_keeps ?_

theorem effect_keeps {a1} {s : State} (h : StoreInv s) :
    CmdOk (effect a1 s) := by
  unfold effect
  repeat' first
    | with_reducible assumption
    | with_reducible refine ite_either ?_ ?_
    | with_reducible refine domainCmd_keeps ?_
    | with_reducible refine admitCmd_keeps ?_
    | with_reducible refine slotEffect_keeps ?_
    | with_reducible refine CmdOk.ofDone ?_ (by assumption)
    | with_reducible refine CmdOk.ofWait ?_ (by assumption)
    | split
    | with_reducible refine CmdOk.refused

theorem execCopyComplete_keeps {a1} {a2} {s : State} (h : StoreInv s) :
    ResOk (execCopyComplete a1 a2 s) := by
  unfold execCopyComplete
  repeat' first
    | with_reducible assumption
    | with_reducible refine powered_keeps ?_ ?_
    | with_reducible refine copyDone_keeps ?_

theorem resetSlot_keeps {a1} {s : State} (h : StoreInv s) :
    StoreInv (resetSlot a1 s) := by
  unfold resetSlot
  repeat' first
    | with_reducible assumption
    | with_reducible refine ite_either ?_ ?_
    | with_reducible refine removeCtx_keeps ?_
    | with_reducible refine modSlot_keeps ?_

theorem flrPf_keeps {s : State} (h : StoreInv s) :
    StoreInv (flrPf s) := by
  unfold flrPf
  repeat' first
    | with_reducible assumption
    | with_reducible refine forEach_ok (fun _ _ _ => ?_) ?_
    | with_reducible refine resetSlot_keeps ?_
    | with_reducible refine dropRing_keeps ?_

theorem execFlrPf_keeps {s : State} (h : StoreInv s) :
    ResOk (execFlrPf s) := by
  unfold execFlrPf
  repeat' first
    | with_reducible assumption
    | with_reducible refine powered_keeps ?_ ?_
    | with_reducible refine flrPf_keeps ?_

theorem flrVf_keeps {a1} {s : State} (h : StoreInv s) :
    StoreInv (flrVf a1 s) := by
  unfold flrVf
  repeat' first
    | with_reducible assumption
    | (extract_lets +onlyGivenNames x; clear_value (e : x = _); with_reducible refine bound_state e ?_ (fun _ => ?_))
    | with_reducible refine ite_either ?_ ?_
    | with_reducible refine dropRing_keeps ?_
    | with_reducible refine resetSlot_keeps ?_

theorem execFlrVf_keeps {a1} {s : State} (h : StoreInv s) :
    ResOk (execFlrVf a1 s) := by
  unfold execFlrVf
  repeat' first
    | with_reducible assumption
    | with_reducible refine powered_keeps ?_ ?_
    | with_reducible refine flrVf_keeps ?_

theorem serveNow_keeps {a1} {a2} {s : State} (h : StoreInv s) :
    StoreInv (serveNow a1 a2 s) := by
  unfold serveNow
  repeat' first
    | with_reducible assumption
    | with_reducible refine settle_keeps ?_ ?_
    | with_reducible refine effect_keeps ?_
    | with_reducible refine CmdOk.ofDone ?_ (by assumption)
    | with_reducible refine CmdOk.ofWait ?_ (by assumption)
    | split

theorem execOpAdmit_keeps {a1} {s : State} (h : StoreInv s) :
    ResOk (execOpAdmit a1 s) := by
  unfold execOpAdmit
  repeat' first
    | with_reducible assumption
    | with_reducible refine powered_keeps ?_ ?_
    | with_reducible refine serveNow_keeps ?_

theorem execOpCopy_keeps {a1} {s : State} (h : StoreInv s) :
    ResOk (execOpCopy a1 s) := by
  unfold execOpCopy
  repeat' first
    | with_reducible assumption
    | with_reducible refine powered_keeps ?_ ?_
    | with_reducible refine serveNow_keeps ?_

theorem serveBand_keeps {a1} {a2} {s : State} (h : StoreInv s) :
    StoreInv (serveBand a1 a2 s) := by
  unfold serveBand
  repeat' first
    | with_reducible assumption
    | (extract_lets +onlyGivenNames x; clear_value x)
    | with_reducible refine ite_either ?_ ?_
    | with_reducible refine effect_keeps ?_
    | with_reducible refine respond_keeps ?_
    | with_reducible refine settle_keeps ?_ ?_
    | with_reducible refine modMbx_keeps ?_
    | with_reducible refine CmdOk.ofDone ?_ (by assumption)
    | with_reducible refine CmdOk.ofWait ?_ (by assumption)
    | split

theorem execOpDecide_keeps {a1} {s : State} (h : StoreInv s) :
    ResOk (execOpDecide a1 s) := by
  unfold execOpDecide
  repeat' first
    | with_reducible assumption
    | with_reducible refine powered_keeps ?_ ?_
    | with_reducible refine serveBand_keeps ?_

theorem execOpDomain_keeps {a1} {s : State} (h : StoreInv s) :
    ResOk (execOpDomain a1 s) := by
  unfold execOpDomain
  repeat' first
    | with_reducible assumption
    | with_reducible refine powered_keeps ?_ ?_
    | with_reducible refine serveNow_keeps ?_

theorem execOpFeed_keeps {a1} {s : State} (h : StoreInv s) :
    ResOk (execOpFeed a1 s) := by
  unfold execOpFeed
  repeat' first
    | with_reducible assumption
    | with_reducible refine powered_keeps ?_ ?_
    | with_reducible refine serveBand_keeps ?_

theorem execOpLoad_keeps {a1} {s : State} (h : StoreInv s) :
    ResOk (execOpLoad a1 s) := by
  unfold execOpLoad
  repeat' first
    | with_reducible assumption
    | with_reducible refine powered_keeps ?_ ?_
    | with_reducible refine serveNow_keeps ?_

theorem execOpPageMap_keeps {a1} {s : State} (h : StoreInv s) :
    ResOk (execOpPageMap a1 s) := by
  unfold execOpPageMap
  repeat' first
    | with_reducible assumption
    | with_reducible refine powered_keeps ?_ ?_
    | with_reducible refine serveBand_keeps ?_

theorem execOpPageUnmap_keeps {a1} {s : State} (h : StoreInv s) :
    ResOk (execOpPageUnmap a1 s) := by
  unfold execOpPageUnmap
  repeat' first
    | with_reducible assumption
    | with_reducible refine powered_keeps ?_ ?_
    | with_reducible refine serveBand_keeps ?_

theorem execOpPeerMap_keeps {a1} {s : State} (h : StoreInv s) :
    ResOk (execOpPeerMap a1 s) := by
  unfold execOpPeerMap
  repeat' first
    | with_reducible assumption
    | with_reducible refine powered_keeps ?_ ?_
    | with_reducible refine serveBand_keeps ?_

theorem execOpRelease_keeps {a1} {s : State} (h : StoreInv s) :
    ResOk (execOpRelease a1 s) := by
  unfold execOpRelease
  repeat' first
    | with_reducible assumption
    | with_reducible refine powered_keeps ?_ ?_
    | with_reducible refine serveBand_keeps ?_

theorem execOpReshard_keeps {a1} {s : State} (h : StoreInv s) :
    ResOk (execOpReshard a1 s) := by
  unfold execOpReshard
  repeat' first
    | with_reducible assumption
    | with_reducible refine powered_keeps ?_ ?_
    | with_reducible refine serveNow_keeps ?_

theorem execOpRestore_keeps {a1} {s : State} (h : StoreInv s) :
    ResOk (execOpRestore a1 s) := by
  unfold execOpRestore
  repeat' first
    | with_reducible assumption
    | with_reducible refine powered_keeps ?_ ?_
    | with_reducible refine serveNow_keeps ?_

theorem execOpResume_keeps {a1} {s : State} (h : StoreInv s) :
    ResOk (execOpResume a1 s) := by
  unfold execOpResume
  repeat' first
    | with_reducible assumption
    | with_reducible refine powered_keeps ?_ ?_
    | with_reducible refine serveNow_keeps ?_

theorem execOpSave_keeps {a1} {s : State} (h : StoreInv s) :
    ResOk (execOpSave a1 s) := by
  unfold execOpSave
  repeat' first
    | with_reducible assumption
    | with_reducible refine powered_keeps ?_ ?_
    | with_reducible refine serveBand_keeps ?_

theorem execOpStart_keeps {a1} {s : State} (h : StoreInv s) :
    ResOk (execOpStart a1 s) := by
  unfold execOpStart
  repeat' first
    | with_reducible assumption
    | with_reducible refine powered_keeps ?_ ?_
    | with_reducible refine serveNow_keeps ?_

theorem execOpUnload_keeps {a1} {s : State} (h : StoreInv s) :
    ResOk (execOpUnload a1 s) := by
  unfold execOpUnload
  repeat' first
    | with_reducible assumption
    | with_reducible refine powered_keeps ?_ ?_
    | with_reducible refine serveBand_keeps ?_

theorem execOpWatch_keeps {a1} {s : State} (h : StoreInv s) :
    ResOk (execOpWatch a1 s) := by
  unfold execOpWatch
  repeat' first
    | with_reducible assumption
    | with_reducible refine powered_keeps ?_ ?_
    | with_reducible refine serveBand_keeps ?_

theorem reshardPlace_keeps {a1} {a2} {s : State} (h : StoreInv s) :
    ExOk (reshardPlace a1 a2 s) := by
  unfold reshardPlace
  repeat' first
    | with_reducible assumption
    | (extract_lets +onlyGivenNames x; clear_value (e : x = _); with_reducible refine bound_state e ?_ (fun _ => ?_))
    | (extract_lets +onlyGivenNames x; clear_value x)
    | with_reducible refine ite_either ?_ ?_
    | with_reducible refine releaseShares_keeps ?_
    | with_reducible refine partitionClear_keeps ?_
    | with_reducible refine releaseSeq_keeps ?_
    | with_reducible refine dropXlat_keeps ?_
    | with_reducible refine releasePages_keeps ?_
    | with_reducible refine placeImage_keeps ?_
    | with_reducible refine ExOk.of ?_ (by assumption)
    | fail_if_no_progress with_reducible refine of_fields ?_
    | split
    | with_reducible refine ExOk.ok ?_
    | with_reducible refine ExOk.error

theorem reshardQuiet_keeps {a1} {s : State} (h : StoreInv s) :
    StoreInv (reshardQuiet a1 s) := by
  unfold reshardQuiet
  repeat' first
    | with_reducible assumption
    | with_reducible refine ite_either ?_ ?_
    | with_reducible refine reshardPlace_keeps ?_
    | with_reducible refine respond_keeps ?_
    | with_reducible refine ExOk.of ?_ (by assumption)
    | split

theorem execReshardQuiescent_keeps {a1} {s : State} (h : StoreInv s) :
    ResOk (execReshardQuiescent a1 s) := by
  unfold execReshardQuiescent
  repeat' first
    | with_reducible assumption
    | with_reducible refine powered_keeps ?_ ?_
    | with_reducible refine reshardQuiet_keeps ?_

theorem reshardLate_keeps {a1} {s : State} (h : StoreInv s) :
    StoreInv (reshardLate a1 s) := by
  unfold reshardLate
  repeat' first
    | with_reducible assumption
    | with_reducible refine ite_either ?_ ?_
    | with_reducible refine respond_keeps ?_
    | split

theorem execReshardTimeout_keeps {a1} {s : State} (h : StoreInv s) :
    ResOk (execReshardTimeout a1 s) := by
  unfold execReshardTimeout
  repeat' first
    | with_reducible assumption
    | with_reducible refine powered_keeps ?_ ?_
    | with_reducible refine reshardLate_keeps ?_

theorem vfChange_keeps {a1} {a2} {s : State} (h : StoreInv s) :
    StoreInv (vfChange a1 a2 s) := by
  unfold vfChange
  repeat' first
    | with_reducible assumption
    | (extract_lets +onlyGivenNames x; clear_value (e : x = _); with_reducible refine bound_state e ?_ (fun _ => ?_))
    | with_reducible refine forEach_ok (fun _ _ _ => ?_) ?_
    | with_reducible refine modHamper_keeps ?_
    | with_reducible refine modSlot_keeps ?_

theorem execVfEnableChange_keeps {a1} {a2} {s : State} (h : StoreInv s) :
    ResOk (execVfEnableChange a1 a2 s) := by
  unfold execVfEnableChange
  repeat' first
    | with_reducible assumption
    | with_reducible refine powered_keeps ?_ ?_
    | with_reducible refine vfChange_keeps ?_

end Sys2Proof.Laws
end

