-- ==== Sys2Proof/Laws/KeepsBand.lean ====
section
/-!
SUPPORT. What Band.lean defines keeps the stores' invariant.
-/

namespace Sys2Proof.Laws

open Machine

theorem abortClass_keeps {a1} {a2} {a3} {s : State} (h : StoreInv s) :
    StoreInv (abortClass a1 a2 a3 s) := by
  unfold abortClass
  repeat' first
    | with_reducible assumption
    | with_reducible refine abortMangle_keeps ?_
    | with_reducible refine abortTiles_keeps ?_
    | with_reducible refine abortStreams_keeps ?_
    | with_reducible refine abortPress_keeps ?_
    | with_reducible refine abortGhl_keeps ?_
    | with_reducible refine abortSeams_keeps ?_
    | split

theorem attemptStep_keeps {a1} {s : State} (h : StoreInv s) :
    StoreInv (attemptStep a1 s) := by
  unfold attemptStep
  repeat' first
    | with_reducible assumption
    | (extract_lets +onlyGivenNames x; clear_value (e : x = _); with_reducible refine bound_state e ?_ (fun _ => ?_))
    | (extract_lets +onlyGivenNames x; clear_value x)
    | with_reducible refine ite_either ?_ ?_
    | with_reducible refine fetchBoth_keeps ?_
    | with_reducible refine modSlot_keeps ?_
    | with_reducible refine ghlAttempt_keeps ?_

theorem beginStroke_keeps {a1} {s : State} (h : StoreInv s) :
    StoreInv (beginStroke a1 s) := by
  unfold beginStroke
  repeat' first
    | with_reducible assumption
    | (extract_lets +onlyGivenNames x; clear_value x)
    | with_reducible refine ite_either ?_ ?_
    | with_reducible refine modStroke_keeps ?_
    | fail_if_no_progress with_reducible refine of_fields ?_

theorem overrun_keeps {a1} {a2} {s : State} (h : StoreInv s) :
    StoreInv (overrun a1 a2 s) := by
  unfold overrun
  repeat' first
    | with_reducible assumption
    | with_reducible refine raiseCause_keeps ?_
    | with_reducible refine abortClass_keeps ?_

theorem unbegun_keeps {a1} {s : State} (h : StoreInv s) :
    StoreInv (unbegun a1 s) := by
  unfold unbegun
  repeat' first
    | with_reducible assumption
    | (extract_lets +onlyGivenNames x; clear_value x)
    | with_reducible refine ite_either ?_ ?_
    | with_reducible refine overrun_keeps ?_
    | split

theorem rangeEndAt_keeps {a1} {a2} {a3} {s : State} (h : StoreInv s) :
    StoreInv (rangeEndAt a1 a2 a3 s) := by
  unfold rangeEndAt
  repeat' first
    | with_reducible assumption
    | (extract_lets +onlyGivenNames x; clear_value (e : x = _); with_reducible refine bound_state e ?_ (fun _ => ?_))
    | (extract_lets +onlyGivenNames x; clear_value x)
    | with_reducible refine ite_either ?_ ?_
    | with_reducible refine overrun_keeps ?_
    | with_reducible refine modSlot_keeps ?_

theorem endRanges_keeps {s : State} (h : StoreInv s) :
    StoreInv (endRanges s) := by
  unfold endRanges
  repeat' first
    | with_reducible assumption
    | with_reducible refine forEach_ok (fun _ _ _ => ?_) ?_
    | with_reducible refine rangeEndAt_keeps ?_

theorem closeStroke_keeps {s : State} (h : StoreInv s) :
    StoreInv (closeStroke s) := by
  unfold closeStroke
  repeat' first
    | with_reducible assumption
    | (extract_lets +onlyGivenNames x; clear_value (e : x = _); with_reducible refine bound_state e ?_ (fun _ => ?_))
    | with_reducible refine ite_either ?_ ?_
    | with_reducible refine forEach_ok (fun _ _ _ => ?_) ?_
    | with_reducible refine unbegun_keeps ?_
    | with_reducible refine endRanges_keeps ?_
    | with_reducible refine modStroke_keeps ?_
    | with_reducible refine closingBand_keeps ?_

theorem cutShort_keeps {a1} {s : State} (h : StoreInv s) :
    StoreInv (cutShort a1 s) := by
  unfold cutShort
  repeat' first
    | with_reducible assumption
    | with_reducible refine ite_either ?_ ?_
    | with_reducible refine modSlot_keeps ?_
    | with_reducible refine discardRest_keeps ?_
    | with_reducible refine abortAll_keeps ?_

theorem enginesStep_keeps {s : State} (h : StoreInv s) :
    StoreInv (enginesStep s) := by
  unfold enginesStep
  repeat' first
    | with_reducible assumption
    | with_reducible refine profileStroke_keeps ?_
    | with_reducible refine switchRemap_keeps ?_
    | with_reducible refine flushWrites_keeps ?_
    | with_reducible refine drainAbort_keeps ?_

theorem execClosingBand_keeps {s : State} (h : StoreInv s) :
    ResOk (execClosingBand s) := by
  unfold execClosingBand
  repeat' first
    | with_reducible assumption
    | with_reducible refine powered_keeps ?_ ?_
    | with_reducible refine closeStroke_keeps ?_

theorem heartbeat_keeps {s : State} (h : StoreInv s) :
    StoreInv (heartbeat s) := by
  unfold heartbeat
  repeat' first
    | with_reducible assumption
    | (extract_lets +onlyGivenNames x; clear_value x)
    | with_reducible refine ite_either ?_ ?_
    | with_reducible refine modMp_same rfl rfl rfl rfl rfl rfl rfl ?_

theorem execMode0Heartbeat_keeps {s : State} (h : StoreInv s) :
    ResOk (execMode0Heartbeat s) := by
  unfold execMode0Heartbeat
  repeat' first
    | with_reducible assumption
    | with_reducible refine powered_keeps ?_ ?_
    | with_reducible refine heartbeat_keeps ?_

theorem execRangeEnd_keeps {a1} {a2} {a3} {s : State} (h : StoreInv s) :
    ResOk (execRangeEnd a1 a2 a3 s) := by
  unfold execRangeEnd
  repeat' first
    | with_reducible assumption
    | with_reducible refine powered_keeps ?_ ?_
    | with_reducible refine rangeEndAt_keeps ?_

theorem zeroVectors_keeps {s : State} (h : StoreInv s) :
    StoreInv (zeroVectors s) := by
  unfold zeroVectors
  repeat' first
    | with_reducible assumption
    | (extract_lets +onlyGivenNames x; clear_value x)
    | fail_if_no_progress with_reducible refine of_fields ?_

theorem rangeBegin_keeps {a1} {a2} {a3} {s : State} (h : StoreInv s) :
    StoreInv (rangeBegin a1 a2 a3 s) := by
  unfold rangeBegin
  repeat' first
    | with_reducible assumption
    | (extract_lets +onlyGivenNames x; clear_value (e : x = _); with_reducible refine bound_state e ?_ (fun _ => ?_))
    | (extract_lets +onlyGivenNames x; clear_value x)
    | with_reducible refine ite_either ?_ ?_
    | with_reducible refine modSlot_keeps ?_
    | with_reducible refine mangleRangeStart_keeps ?_
    | with_reducible refine zeroVectors_keeps ?_

theorem execRangeStart_keeps {a1} {a2} {a3} {s : State} (h : StoreInv s) :
    ResOk (execRangeStart a1 a2 a3 s) := by
  unfold execRangeStart
  repeat' first
    | with_reducible assumption
    | with_reducible refine powered_keeps ?_ ?_
    | with_reducible refine rangeBegin_keeps ?_

theorem linesStep_keeps {a1} {a2} {s : State} (h : StoreInv s) :
    StoreInv (linesStep a1 a2 s) := by
  unfold linesStep
  repeat' first
    | with_reducible assumption
    | with_reducible refine ite_either ?_ ?_
    | with_reducible refine lineStrokeReset_keeps ?_

theorem verdictStep_keeps {a1} {a2} {s : State} (h : StoreInv s) :
    StoreInv (verdictStep a1 a2 s) := by
  unfold verdictStep
  repeat' first
    | with_reducible assumption
    | (extract_lets +onlyGivenNames x; clear_value (e : x = _); with_reducible refine bound_state e ?_ (fun _ => ?_))
    | (extract_lets +onlyGivenNames x; clear_value x)
    | with_reducible refine ite_either ?_ ?_
    | with_reducible refine modSlot_keeps ?_
    | with_reducible refine applyVerdict_keeps ?_
    | with_reducible refine writeTrailer_keeps ?_
    | with_reducible refine watchCommit_keeps ?_
    | with_reducible refine modPress_keeps ?_
    | with_reducible refine linesStep_keeps ?_

theorem holdStep_keeps {a1} {s : State} (h : StoreInv s) :
    StoreInv (holdStep a1 s) := by
  unfold holdStep
  repeat' first
    | with_reducible assumption
    | with_reducible refine takeHolds_keeps ?_
    | with_reducible refine pressHolds_keeps ?_

theorem jobStep_keeps {a1} {s : State} (h : StoreInv s) :
    StoreInv (jobStep a1 s) := by
  unfold jobStep
  repeat' first
    | with_reducible assumption
    | (extract_lets +onlyGivenNames x; clear_value (e : x = _); with_reducible refine bound_state e ?_ (fun _ => ?_))
    | with_reducible refine ite_either ?_ ?_
    | with_reducible refine unloadStep_keeps ?_
    | with_reducible refine restoreFinish_keeps ?_
    | with_reducible refine saveFinish_keeps ?_

theorem retireStep_keeps {s : State} (h : StoreInv s) :
    StoreInv (retireStep s) := by
  unfold retireStep
  repeat' first
    | with_reducible assumption
    | with_reducible refine ite_either ?_ ?_
    | with_reducible refine forEach_ok (fun _ _ _ => ?_) ?_
    | with_reducible refine modMp_same rfl rfl rfl rfl rfl rfl rfl ?_
    | with_reducible refine stopSlot_keeps ?_

theorem startStep_keeps {a1} {s : State} (h : StoreInv s) :
    StoreInv (startStep a1 s) := by
  unfold startStep
  repeat' first
    | with_reducible assumption
    | (extract_lets +onlyGivenNames x; clear_value (e : x = _); with_reducible refine bound_state e ?_ (fun _ => ?_))
    | (extract_lets +onlyGivenNames x; clear_value x)
    | with_reducible refine ite_either ?_ ?_
    | with_reducible refine postCtx_keeps ?_
    | with_reducible refine modSlot_keeps ?_
    | with_reducible refine setCtx_keeps ?_
    | with_reducible refine lineStrokeReset_keeps ?_

theorem genStep_keeps {a1} {s : State} (h : StoreInv s) :
    StoreInv (genStep a1 s) := by
  unfold genStep
  repeat' first
    | with_reducible assumption
    | (extract_lets +onlyGivenNames x; clear_value (e : x = _); with_reducible refine bound_state e ?_ (fun _ => ?_))
    | (extract_lets +onlyGivenNames x; clear_value x)
    | with_reducible refine ite_either ?_ ?_
    | with_reducible refine setCtx_keeps ?_
    | with_reducible refine postCtx_keeps ?_
    | with_reducible refine log_keeps ?_

theorem slotSteps_keeps {a1} {s : State} (h : StoreInv s) :
    StoreInv (slotSteps a1 s) := by
  unfold slotSteps
  repeat' first
    | with_reducible assumption
    | (extract_lets +onlyGivenNames x; clear_value (e : x = _); with_reducible refine bound_state e ?_ (fun _ => ?_))
    | with_reducible refine ite_either ?_ ?_
    | with_reducible refine forEach_ok (fun _ _ _ => ?_) ?_
    | with_reducible refine holdStep_keeps ?_
    | with_reducible refine jobStep_keeps ?_
    | with_reducible refine retireStep_keeps ?_
    | with_reducible refine bandCmd_keeps ?_
    | with_reducible refine startStep_keeps ?_
    | with_reducible refine attemptStep_keeps ?_
    | with_reducible refine feedCheck_keeps ?_
    | with_reducible refine genStep_keeps ?_

theorem strokeStart_keeps {s : State} (h : StoreInv s) :
    StoreInv (strokeStart s) := by
  unfold strokeStart
  repeat' first
    | with_reducible assumption
    | (extract_lets +onlyGivenNames x; clear_value (e : x = _); with_reducible refine bound_state e ?_ (fun _ => ?_))
    | (extract_lets +onlyGivenNames x; clear_value x)
    | with_reducible refine ite_either ?_ ?_
    | with_reducible refine forEach_ok (fun _ _ _ => ?_) ?_
    | with_reducible refine modStroke_keeps ?_
    | with_reducible refine cutShort_keeps ?_
    | with_reducible refine modMp_same rfl rfl rfl rfl rfl rfl rfl ?_
    | with_reducible refine beginStroke_keeps ?_
    | with_reducible refine enginesStep_keeps ?_
    | with_reducible refine modSlot_keeps ?_
    | with_reducible refine linesStep_keeps ?_
    | with_reducible refine reportForeign_keeps ?_
    | with_reducible refine holdDomain_keeps ?_
    | with_reducible refine verdictStep_keeps ?_
    | with_reducible refine slotSteps_keeps ?_
    | split

theorem execStrokeStart_keeps {s : State} (h : StoreInv s) :
    ResOk (execStrokeStart s) := by
  unfold execStrokeStart
  repeat' first
    | with_reducible assumption
    | with_reducible refine powered_keeps ?_ ?_
    | with_reducible refine strokeStart_keeps ?_

end Sys2Proof.Laws
end

