-- ==== Sys2Proof/Laws/KeepsLineCmd.lean ====
section
/-!
SUPPORT. What LineCmd.lean defines keeps the stores' invariant.
-/

namespace Sys2Proof.Laws

open Machine

theorem cancelLoads_keeps {a1} {a2} {a3} {s : State} (h : StoreInv s) :
    StoreInv (cancelLoads a1 a2 a3 s) := by
  unfold cancelLoads
  repeat' first
    | with_reducible assumption
    | with_reducible refine ite_either ?_ ?_
    | fail_if_no_progress with_reducible refine of_fields ?_

theorem lineCmd_keeps {a1} {a2} {a3} {s : State} (fa2 : ∀ v1 v2 v3 v4 u, StoreInv u → ExOk (a2 v1 v2 v3 v4 u)) (h : StoreInv s) :
    StoreInv (lineCmd a1 a2 a3 s) := by
  unfold lineCmd
  repeat' first
    | with_reducible assumption
    | with_reducible refine fa2 _ _ _ _ _ ?_
    | with_reducible refine foldl_any PairOk (fun _ _ _ => ?_) ?_
    | with_reducible refine snd_ok (foldl_any PairOk (fun _ _ _ => ?_) ?_)
    | with_reducible exact snd_ok ‹_›
    | (extract_lets +onlyGivenNames x; clear_value (e : x = _); with_reducible refine bound_state e ?_ (fun _ => ?_))
    | (extract_lets +onlyGivenNames x; clear_value x)
    | with_reducible refine foldl_ok (fun _ _ _ => ?_) ?_
    | with_reducible refine modSlot_keeps ?_
    | with_reducible refine complete_keeps ?_
    | with_reducible refine raiseCause_keeps ?_
    | with_reducible refine ExOk.of ?_ (by assumption)
    | with_reducible refine PairOk.of ?_ (by assumption)
    | split
    | with_reducible refine PairOk.mk ?_

theorem issuePend_keeps {a1} {a2} {a3} {a4} {a5} {s : State} (h : StoreInv s) :
    StoreInv (issuePend a1 a2 a3 a4 a5 s) := by
  unfold issuePend
  repeat' first
    | with_reducible assumption
    | (extract_lets +onlyGivenNames x; clear_value (e : x = _); with_reducible refine bound_state e ?_ (fun _ => ?_))
    | (extract_lets +onlyGivenNames x; clear_value x)
    | with_reducible refine ite_either ?_ ?_
    | with_reducible refine cancelLoads_keeps ?_
    | with_reducible refine modLine_keeps ?_
    | with_reducible refine applyPend_keeps ?_

theorem resetLine_keeps {a1} {a2} {a3} {s : State} (h : StoreInv s) :
    ExOk (resetLine a1 a2 a3 s) := by
  unfold resetLine
  repeat' first
    | with_reducible assumption
    | with_reducible refine ite_either ?_ ?_
    | with_reducible refine issuePend_keeps ?_
    | with_reducible refine ExOk.of ?_ (by assumption)
    | split
    | with_reducible refine ExOk.ok ?_
    | with_reducible refine ExOk.error

theorem lineResetCmd_keeps {a1} {s : State} (h : StoreInv s) :
    StoreInv (lineResetCmd a1 s) := by
  unfold lineResetCmd
  repeat' first
    | with_reducible assumption
    | with_reducible refine lineCmd_keeps (fun _ _ _ _ _ _ => ?_) ?_
    | with_reducible refine resetLine_keeps ?_

theorem execLineReset_keeps {a1} {s : State} (h : StoreInv s) :
    ResOk (execLineReset a1 s) := by
  unfold execLineReset
  repeat' first
    | with_reducible assumption
    | with_reducible refine powered_keeps ?_ ?_
    | with_reducible refine lineResetCmd_keeps ?_

theorem setupLine_keeps {a1} {a2} {a3} {a4} {s : State} (h : StoreInv s) :
    ExOk (setupLine a1 a2 a3 a4 s) := by
  unfold setupLine
  repeat' first
    | with_reducible assumption
    | with_reducible refine ite_either ?_ ?_
    | with_reducible refine issuePend_keeps ?_
    | with_reducible refine ExOk.of ?_ (by assumption)
    | split
    | with_reducible refine ExOk.ok ?_
    | with_reducible refine ExOk.error

theorem lineSetupCmd_keeps {a1} {s : State} (h : StoreInv s) :
    StoreInv (lineSetupCmd a1 s) := by
  unfold lineSetupCmd
  repeat' first
    | with_reducible assumption
    | with_reducible refine lineCmd_keeps (fun _ _ _ _ _ _ => ?_) ?_
    | with_reducible refine setupLine_keeps ?_

theorem execLineSetup_keeps {a1} {s : State} (h : StoreInv s) :
    ResOk (execLineSetup a1 s) := by
  unfold execLineSetup
  repeat' first
    | with_reducible assumption
    | with_reducible refine powered_keeps ?_ ?_
    | with_reducible refine lineSetupCmd_keeps ?_

theorem setupEffect_keeps {a1} {a2} {s : State} (h : StoreInv s) :
    StoreInv (setupEffect a1 a2 s) := by
  unfold setupEffect
  repeat' first
    | with_reducible assumption
    | (extract_lets +onlyGivenNames x; clear_value x)
    | with_reducible refine ite_either ?_ ?_
    | with_reducible refine applyPend_keeps ?_
    | split

theorem execLineSetupEffect_keeps {a1} {a2} {s : State} (h : StoreInv s) :
    ResOk (execLineSetupEffect a1 a2 s) := by
  unfold execLineSetupEffect
  repeat' first
    | with_reducible assumption
    | with_reducible refine powered_keeps ?_ ?_
    | with_reducible refine setupEffect_keeps ?_

theorem slackAbort_keeps {a1} {a2} {a3} {a4} {a5} {s : State} (h : StoreInv s) :
    StoreInv (slackAbort a1 a2 a3 a4 a5 s) := by
  unfold slackAbort
  repeat' first
    | with_reducible assumption
    | (extract_lets +onlyGivenNames x; clear_value x)
    | with_reducible refine ite_either ?_ ?_
    | with_reducible refine opFault_keeps ?_
    | with_reducible refine tileFault_keeps ?_
    | with_reducible refine seamFault_keeps ?_
    | split

theorem slackExceeded_keeps {a1} {a2} {a3} {s : State} (h : StoreInv s) :
    StoreInv (slackExceeded a1 a2 a3 s) := by
  unfold slackExceeded
  repeat' first
    | with_reducible assumption
    | (extract_lets +onlyGivenNames x; clear_value (e : x = _); with_reducible refine bound_state e ?_ (fun _ => ?_))
    | (extract_lets +onlyGivenNames x; clear_value x)
    | with_reducible refine ite_either ?_ ?_
    | with_reducible refine modLine_keeps ?_
    | with_reducible refine slackAbort_keeps ?_
    | fail_if_no_progress with_reducible refine of_fields ?_
    | split

theorem execLineSlackExceeded_keeps {a1} {a2} {a3} {s : State} (h : StoreInv s) :
    ResOk (execLineSlackExceeded a1 a2 a3 s) := by
  unfold execLineSlackExceeded
  repeat' first
    | with_reducible assumption
    | with_reducible refine powered_keeps ?_ ?_
    | with_reducible refine slackExceeded_keeps ?_

theorem rinseRead_keeps {a1} {a2} {a3} {a4} {a5} {s : State} (h : StoreInv s) :
    StoreInv (rinseRead a1 a2 a3 a4 a5 s) := by
  unfold rinseRead
  repeat' first
    | with_reducible assumption
    | (extract_lets +onlyGivenNames x; clear_value (e : x = _); with_reducible refine bound_state e ?_ (fun _ => ?_))
    | (extract_lets +onlyGivenNames x; clear_value x)
    | with_reducible refine ite_either ?_ ?_
    | with_reducible refine forEach_ok (fun _ _ _ => ?_) ?_
    | with_reducible refine checkWord_keeps ?_
    | fail_if_no_progress with_reducible refine of_fields ?_

theorem execRinseRead_keeps {a1} {a2} {a3} {a4} {a5} {s : State} (h : StoreInv s) :
    ResOk (execRinseRead a1 a2 a3 a4 a5 s) := by
  unfold execRinseRead
  repeat' first
    | with_reducible assumption
    | with_reducible refine powered_keeps ?_ ?_
    | with_reducible refine rinseRead_keeps ?_

theorem rinseWriteback_keeps {a1} {s : State} (h : StoreInv s) :
    StoreInv (rinseWriteback a1 s) := by
  unfold rinseWriteback
  repeat' first
    | with_reducible assumption
    | (extract_lets +onlyGivenNames x; clear_value x)
    | with_reducible refine ite_either ?_ ?_
    | with_reducible refine foldl_ok (fun _ _ _ => ?_) ?_
    | fail_if_no_progress with_reducible refine of_fields ?_
    | split

theorem execRinseWriteback_keeps {a1} {s : State} (h : StoreInv s) :
    ResOk (execRinseWriteback a1 s) := by
  unfold execRinseWriteback
  repeat' first
    | with_reducible assumption
    | with_reducible refine powered_keeps ?_ ?_
    | with_reducible refine rinseWriteback_keeps ?_

theorem seqLrst_keeps {a1} {a2} {s : State} (h : StoreInv s) :
    StoreInv (seqLrst a1 a2 s) := by
  unfold seqLrst
  repeat' first
    | with_reducible assumption
    | with_reducible refine resetLine_keeps ?_
    | with_reducible refine modSeq_keeps ?_
    | with_reducible refine tileFault_keeps ?_
    | with_reducible refine ExOk.of ?_ (by assumption)
    | split

theorem execSeqLrst_keeps {a1} {a2} {s : State} (h : StoreInv s) :
    ResOk (execSeqLrst a1 a2 s) := by
  unfold execSeqLrst
  repeat' first
    | with_reducible assumption
    | with_reducible refine powered_keeps ?_ ?_
    | with_reducible refine seqLrst_keeps ?_

theorem seqLset_keeps {a1} {a2} {s : State} (h : StoreInv s) :
    StoreInv (seqLset a1 a2 s) := by
  unfold seqLset
  repeat' first
    | with_reducible assumption
    | (extract_lets +onlyGivenNames x; clear_value x)
    | with_reducible refine setupLine_keeps ?_
    | with_reducible refine modSeq_keeps ?_
    | with_reducible refine tileFault_keeps ?_
    | with_reducible refine ExOk.of ?_ (by assumption)
    | split

theorem execSeqLset_keeps {a1} {a2} {s : State} (h : StoreInv s) :
    ResOk (execSeqLset a1 a2 s) := by
  unfold execSeqLset
  repeat' first
    | with_reducible assumption
    | with_reducible refine powered_keeps ?_ ?_
    | with_reducible refine seqLset_keeps ?_

theorem lossTick_keeps {s : State} (h : StoreInv s) :
    StoreInv (lossTick s) := by
  unfold lossTick
  repeat' first
    | with_reducible assumption
    | (extract_lets +onlyGivenNames x; clear_value x)
    | with_reducible refine forEach_ok (fun _ _ _ => ?_) ?_
    | with_reducible refine slackAbort_keeps ?_
    | fail_if_no_progress with_reducible refine of_fields ?_
    | split

end Sys2Proof.Laws
end

