-- ==== Sys2Proof/Laws/KeepsSelfTest.lean ====
section
/-!
SUPPORT. What SelfTest.lean defines keeps the stores' invariant.
-/

namespace Sys2Proof.Laws

open Machine

theorem stand_keeps {a1} {a2} {s : State} (h : StoreInv s) :
    StoreInv (State.stand a1 a2 s) := by
  unfold State.stand
  repeat' first
    | with_reducible assumption
    | with_reducible refine ite_either ?_ ?_
    | with_reducible refine modMp_same rfl rfl rfl rfl rfl rfl rfl ?_

theorem bridgeResend_keeps {a1} {s : State} (h : StoreInv s) :
    StoreInv (bridgeResend a1 s) := by
  unfold bridgeResend
  repeat' first
    | with_reducible assumption
    | (extract_lets +onlyGivenNames x; clear_value (e : x = _); with_reducible refine bound_state e ?_ (fun _ => ?_))
    | with_reducible refine ite_either ?_ ?_
    | with_reducible refine note_keeps ?_
    | with_reducible refine log_keeps ?_
    | with_reducible refine modMp_same rfl rfl rfl rfl rfl rfl rfl ?_
    | with_reducible refine retire_keeps ?_

theorem bumpDie_keeps {a1} {s : State} (h : StoreInv s) :
    StoreInv (bumpDie a1 s) := by
  unfold bumpDie
  repeat' first
    | with_reducible assumption
    | with_reducible refine modMp_same rfl rfl rfl rfl rfl rfl rfl ?_

theorem darnDie_keeps {a1} {a2} {a3} {s : State} (h : StoreInv s) :
    StoreInv (darnDie a1 a2 a3 s) := by
  unfold darnDie
  repeat' first
    | with_reducible assumption
    | (extract_lets +onlyGivenNames x; clear_value (e : x = _); with_reducible refine bound_state e ?_ (fun _ => ?_))
    | (extract_lets +onlyGivenNames x; clear_value x)
    | with_reducible refine ite_either ?_ ?_
    | with_reducible refine changeTo_keeps ?_ ?_
    | with_reducible refine modMp_same rfl rfl rfl rfl rfl rfl rfl ?_
    | with_reducible refine bumpDie_keeps ?_
    | fail_if_no_progress with_reducible refine of_fields ?_

theorem unitEvent_keeps {a1} {a2} {s : State} (h : StoreInv s) :
    StoreInv (unitEvent a1 a2 s) := by
  unfold unitEvent
  repeat' first
    | with_reducible assumption
    | with_reducible refine postDev_keeps ?_
    | with_reducible refine log_keeps ?_

theorem darnFail_keeps {a1} {a2} {a3} {a4} {s : State} (h : StoreInv s) :
    StoreInv (darnFail a1 a2 a3 a4 s) := by
  unfold darnFail
  repeat' first
    | with_reducible assumption
    | (extract_lets +onlyGivenNames x; clear_value (e : x = _); with_reducible refine bound_state e ?_ (fun _ => ?_))
    | (extract_lets +onlyGivenNames x; clear_value x)
    | with_reducible refine respond_keeps ?_
    | with_reducible refine retire_keeps ?_
    | with_reducible refine unitEvent_keeps ?_
    | with_reducible refine stand_keeps ?_
    | with_reducible refine darnDie_keeps ?_
    | with_reducible refine changeTo_keeps ?_ ?_
    | with_reducible refine modMp_same rfl rfl rfl rfl rfl rfl rfl ?_
    | split

theorem darnApply_keeps {a1} {a2} {s : State} (h : StoreInv s) :
    StoreInv (darnApply a1 a2 s) := by
  unfold darnApply
  repeat' first
    | with_reducible assumption
    | (extract_lets +onlyGivenNames x; clear_value (e : x = _); with_reducible refine bound_state e ?_ (fun _ => ?_))
    | (extract_lets +onlyGivenNames x; clear_value x)
    | with_reducible refine ite_either ?_ ?_
    | with_reducible refine forEach_ok (fun _ _ _ => ?_) ?_
    | with_reducible refine respond_keeps ?_
    | with_reducible refine darnDie_keeps ?_
    | with_reducible refine darnFail_keeps ?_
    | with_reducible refine stand_keeps ?_
    | with_reducible refine settleHealth_keeps ?_
    | with_reducible refine modMp_same rfl rfl rfl rfl rfl rfl rfl ?_
    | split

theorem darnClearLane_keeps {a1} {s : State} (h : StoreInv s) :
    StoreInv (darnClearLane a1 s) := by
  unfold darnClearLane
  repeat' first
    | with_reducible assumption
    | (extract_lets +onlyGivenNames x; clear_value (e : x = _); with_reducible refine bound_state e ?_ (fun _ => ?_))
    | (extract_lets +onlyGivenNames x; clear_value x)
    | with_reducible refine ite_either ?_ ?_
    | with_reducible refine settleHealth_keeps ?_
    | with_reducible refine changeTo_keeps ?_ ?_
    | with_reducible refine modMp_same rfl rfl rfl rfl rfl rfl rfl ?_
    | with_reducible refine respond_keeps ?_
    | split

theorem rowFaulty_keeps {a1} {a2} {a3} {a4} {s : State} (h : StoreInv s) :
    StoreInv (rowFaulty a1 a2 a3 a4 s) := by
  unfold rowFaulty
  repeat' first
    | with_reducible assumption
    | (extract_lets +onlyGivenNames x; clear_value (e : x = _); with_reducible refine bound_state e ?_ (fun _ => ?_))
    | (extract_lets +onlyGivenNames x; clear_value x)
    | with_reducible refine ite_either ?_ ?_
    | with_reducible refine changeTo_keeps ?_ ?_
    | with_reducible refine modMp_same rfl rfl rfl rfl rfl rfl rfl ?_
    | with_reducible refine settleHealth_keeps ?_
    | with_reducible refine retire_keeps ?_
    | with_reducible refine unitEvent_keeps ?_

theorem darnMark_keeps {a1} {s : State} (h : StoreInv s) :
    StoreInv (darnMark a1 s) := by
  unfold darnMark
  repeat' first
    | with_reducible assumption
    | with_reducible refine respond_keeps ?_
    | with_reducible refine rowFaulty_keeps ?_
    | split

theorem darnRead_keeps {a1} {s : State} (h : StoreInv s) :
    StoreInv (darnRead a1 s) := by
  unfold darnRead
  repeat' first
    | with_reducible assumption
    | with_reducible refine ite_either ?_ ?_
    | with_reducible refine respond_keeps ?_
    | split

theorem execBridgeResend_keeps {a1} {s : State} (h : StoreInv s) :
    ResOk (execBridgeResend a1 s) := by
  unfold execBridgeResend
  repeat' first
    | with_reducible assumption
    | with_reducible refine powered_keeps ?_ ?_
    | with_reducible refine bridgeResend_keeps ?_

theorem execDarnApply_keeps {a1} {a2} {s : State} (h : StoreInv s) :
    ResOk (execDarnApply a1 a2 s) := by
  unfold execDarnApply
  repeat' first
    | with_reducible assumption
    | with_reducible refine powered_keeps ?_ ?_
    | with_reducible refine darnApply_keeps ?_

theorem execDarnClearLane_keeps {a1} {s : State} (h : StoreInv s) :
    ResOk (execDarnClearLane a1 s) := by
  unfold execDarnClearLane
  repeat' first
    | with_reducible assumption
    | with_reducible refine powered_keeps ?_ ?_
    | with_reducible refine darnClearLane_keeps ?_

theorem execDarnMark_keeps {a1} {s : State} (h : StoreInv s) :
    ResOk (execDarnMark a1 s) := by
  unfold execDarnMark
  repeat' first
    | with_reducible assumption
    | with_reducible refine powered_keeps ?_ ?_
    | with_reducible refine darnMark_keeps ?_

theorem execDarnRead_keeps {a1} {s : State} (h : StoreInv s) :
    ResOk (execDarnRead a1 s) := by
  unfold execDarnRead
  repeat' first
    | with_reducible assumption
    | with_reducible refine powered_keeps ?_ ?_
    | with_reducible refine darnRead_keeps ?_

theorem selftest_keeps {a1} {s : State} (h : StoreInv s) :
    StoreInv (selftest a1 s) := by
  unfold selftest
  repeat' first
    | with_reducible assumption
    | (extract_lets +onlyGivenNames x; clear_value x)
    | with_reducible refine ite_either ?_ ?_
    | with_reducible refine respond_keeps ?_
    | with_reducible refine trigger_keeps ?_
    | split

theorem execOpSelftest_keeps {a1} {s : State} (h : StoreInv s) :
    ResOk (execOpSelftest a1 s) := by
  unfold execOpSelftest
  repeat' first
    | with_reducible assumption
    | with_reducible refine powered_keeps ?_ ?_
    | with_reducible refine selftest_keeps ?_

theorem transientResult_keeps {a1} {s : State} (h : StoreInv s) :
    StoreInv (transientResult a1 s) := by
  unfold transientResult
  repeat' first
    | with_reducible assumption
    | (extract_lets +onlyGivenNames x; clear_value (e : x = _); with_reducible refine bound_state e ?_ (fun _ => ?_))
    | (extract_lets +onlyGivenNames x; clear_value x)
    | with_reducible refine ite_either ?_ ?_
    | with_reducible refine unitEvent_keeps ?_
    | with_reducible refine stand_keeps ?_
    | with_reducible refine note_keeps ?_
    | with_reducible refine settleHealth_keeps ?_
    | with_reducible refine modMp_same rfl rfl rfl rfl rfl rfl rfl ?_

theorem lastingResult_keeps {a1} {a2} {s : State} (h : StoreInv s) :
    StoreInv (lastingResult a1 a2 s) := by
  unfold lastingResult
  repeat' first
    | with_reducible assumption
    | (extract_lets +onlyGivenNames x; clear_value (e : x = _); with_reducible refine bound_state e ?_ (fun _ => ?_))
    | (extract_lets +onlyGivenNames x; clear_value x)
    | with_reducible refine ite_either ?_ ?_
    | with_reducible refine unitEvent_keeps ?_
    | with_reducible refine modMp_same rfl rfl rfl rfl rfl rfl rfl ?_
    | with_reducible refine rowFaulty_keeps ?_
    | with_reducible refine retire_keeps ?_
    | with_reducible refine stand_keeps ?_
    | with_reducible refine settleHealth_keeps ?_

theorem tstResult_keeps {a1} {a2} {s : State} (h : StoreInv s) :
    StoreInv (tstResult a1 a2 s) := by
  unfold tstResult
  repeat' first
    | with_reducible assumption
    | (extract_lets +onlyGivenNames x; clear_value (e : x = _); with_reducible refine bound_state e ?_ (fun _ => ?_))
    | with_reducible refine ite_either ?_ ?_
    | with_reducible refine forEach_ok (fun _ _ _ => ?_) ?_
    | with_reducible refine modMp_same rfl rfl rfl rfl rfl rfl rfl ?_
    | with_reducible refine transientResult_keeps ?_
    | with_reducible refine lastingResult_keeps ?_
    | with_reducible refine modMp_taken (by assumption) rfl rfl rfl rfl rfl rfl ?_
    | split

theorem execTstResult_keeps {a1} {a2} {s : State} (h : StoreInv s) :
    ResOk (execTstResult a1 a2 s) := by
  unfold execTstResult
  repeat' first
    | with_reducible assumption
    | with_reducible refine powered_keeps ?_ ?_
    | with_reducible refine tstResult_keeps ?_

theorem tubTest_keeps {a1} {s : State} (h : StoreInv s) :
    StoreInv (tubTest a1 s) := by
  unfold tubTest
  repeat' first
    | with_reducible assumption
    | (extract_lets +onlyGivenNames x; clear_value x)
    | with_reducible refine ite_either ?_ ?_
    | fail_if_no_progress with_reducible refine of_fields ?_
    | fail_if_no_progress with_reducible refine of_fields_mem (KV.wf_eraseRange · _ _) id id ?_

theorem tstEffect_keeps {a1} {s : State} (h : StoreInv s) :
    StoreInv (tstEffect a1 s) := by
  unfold tstEffect
  repeat' first
    | with_reducible assumption
    | (extract_lets +onlyGivenNames x; clear_value x)
    | with_reducible refine ite_either ?_ ?_
    | with_reducible refine tubTest_keeps ?_
    | with_reducible refine pushPrio_keeps ?_
    | with_reducible refine modPort_keeps ?_
    | with_reducible refine askRecalibrate_keeps ?_

theorem tstStep_keeps {a1} {s : State} (h : StoreInv s) :
    StoreInv (tstStep a1 s) := by
  unfold tstStep
  repeat' first
    | with_reducible assumption
    | (extract_lets +onlyGivenNames x; clear_value (e : x = _); with_reducible refine bound_state e ?_ (fun _ => ?_))
    | with_reducible refine ite_either ?_ ?_
    | with_reducible refine modMgl_keeps ?_
    | with_reducible refine modMp_same rfl rfl rfl rfl rfl rfl rfl ?_
    | with_reducible refine tstEffect_keeps ?_
    | with_reducible refine modMp_busy rfl rfl rfl rfl rfl rfl rfl ?_
    | split

theorem execTstStep_keeps {a1} {s : State} (h : StoreInv s) :
    ResOk (execTstStep a1 s) := by
  unfold execTstStep
  repeat' first
    | with_reducible assumption
    | with_reducible refine powered_keeps ?_ ?_
    | with_reducible refine tstStep_keeps ?_

end Sys2Proof.Laws
end

