-- ==== Sys2Proof/Laws/KeepsMgmt.lean ====
section
/-!
SUPPORT. What Mgmt.lean defines keeps the stores' invariant.
-/

namespace Sys2Proof.Laws

open Machine

/-- A firmware slot is none of the stores. -/
theorem modMp_setFw {n : Mp → Nat} {f : Mp → FwSlot} {s : State} (h : StoreInv s) :
    StoreInv (s.modMp fun p => p.setFw (n p) (f p)) := by
  refine modMp_same ?_ ?_ ?_ ?_ ?_ ?_ ?_ h <;> (unfold Mp.setFw; split <;> rfl)

/-- A poll takes the oldest message (R484). -/
theorem modMp_poll {f : Mp → Mp} {s : State} (h5 : (f s.mp).log = s.mp.log) (h6 : (f s.mp).flashLog = s.mp.flashLog)
    (h7 : (f s.mp).changes = s.mp.changes) (h8 : (f s.mp).tstQ = s.mp.tstQ) (h9 : (f s.mp).tstBusy = s.mp.tstBusy)
    (h10 : (f s.mp).mbxQ = s.mp.mbxQ.drop 1) (h11 : (f s.mp).health = s.mp.health) (h : StoreInv s) :
    StoreInv (s.modMp f) := by
  obtain ⟨a, b, c, d, e, g, i, j⟩ := h
  refine ⟨a, b, ?_, ?_, ?_, ?_, ?_, ?_⟩ <;> simp only [State.modMp]
  · rw [h5]; exact c
  · rw [h6]; exact d
  · rw [h7]; exact e
  · rw [h8, h9]; exact g
  · rw [h10, List.length_drop]; omega
  · rw [h11]; exact j

theorem withRole_keeps {a1} {a2} {a3} {a4} {s : State} (fa4 : ∀ u, StoreInv u → PairOk (a4 u)) (h : StoreInv s) :
    PairOk (withRole a1 a2 a3 a4 s) := by
  unfold withRole
  repeat' first
    | with_reducible assumption
    | with_reducible refine fa4 _ ?_
    | with_reducible refine ite_either ?_ ?_
    | with_reducible refine log_keeps ?_
    | with_reducible refine PairOk.mk ?_

theorem inUpdate_keeps {a1} {a2} {s : State} (fa2 : ∀ v1 u, StoreInv u → PairOk (a2 v1 u)) (h : StoreInv s) :
    PairOk (inUpdate a1 a2 s) := by
  unfold inUpdate
  repeat' first
    | with_reducible assumption
    | with_reducible refine fa2 _ _ ?_
    | with_reducible refine ite_either ?_ ?_
    | with_reducible refine withRole_keeps (fun _ _ => ?_) ?_
    | with_reducible refine snd_ok (withRole_keeps (fun _ _ => ?_) ?_)
    | with_reducible refine PairOk.of ?_ (by assumption)
    | split
    | with_reducible refine PairOk.mk ?_

theorem activateFirmware_keeps {a1} {s : State} (h : StoreInv s) :
    PairOk (activateFirmware a1 s) := by
  unfold activateFirmware
  repeat' first
    | with_reducible assumption
    | (extract_lets +onlyGivenNames x; clear_value (e : x = _); with_reducible refine bound_state e ?_ (fun _ => ?_))
    | with_reducible refine ite_either ?_ ?_
    | with_reducible refine inUpdate_keeps (fun _ _ _ => ?_) ?_
    | with_reducible refine snd_ok (inUpdate_keeps (fun _ _ _ => ?_) ?_)
    | with_reducible refine modMp_same rfl rfl rfl rfl rfl rfl rfl ?_
    | with_reducible refine modMp_setFw ?_
    | with_reducible refine PairOk.mk ?_

theorem spdmError_keeps {a1} {s : State} (h : StoreInv s) :
    PairOk (spdmError a1 s) := by
  unfold spdmError
  repeat' first
    | with_reducible assumption
    | with_reducible refine PairOk.mk ?_

theorem afterAlgs_keeps {a1} {s : State} (fa1 : ∀ u, StoreInv u → PairOk (a1 u)) (h : StoreInv s) :
    PairOk (afterAlgs a1 s) := by
  unfold afterAlgs
  repeat' first
    | with_reducible assumption
    | with_reducible refine fa1 _ ?_
    | with_reducible refine ite_either ?_ ?_
    | with_reducible refine spdmError_keeps ?_

theorem answer_keeps {a1} (ha1 : PairOk a1) :
    StoreInv (answer a1) := by
  unfold answer
  repeat' first
    | with_reducible assumption
    | with_reducible exact snd_ok ha1
    | (extract_lets +onlyGivenNames x; clear_value (e : x = _); with_reducible refine bound_state e ?_ (fun _ => ?_))
    | fail_if_no_progress with_reducible refine of_fields ?_

theorem asOwner_keeps {a1} {a2} {a3} {s : State} (fa3 : ∀ v1 u, StoreInv u → PairOk (a3 v1 u)) (h : StoreInv s) :
    PairOk (asOwner a1 a2 a3 s) := by
  unfold asOwner
  repeat' first
    | with_reducible assumption
    | with_reducible refine fa3 _ _ ?_
    | with_reducible refine ite_either ?_ ?_
    | with_reducible refine modMp_same rfl rfl rfl rfl rfl rfl rfl ?_
    | with_reducible refine log_keeps ?_
    | with_reducible refine PairOk.of ?_ (by assumption)
    | split
    | with_reducible refine PairOk.mk ?_

theorem askData_keeps {a1} {s : State} (h : StoreInv s) :
    StoreInv (askData a1 s) := by
  unfold askData
  repeat' first
    | with_reducible assumption
    | with_reducible refine originate_keeps ?_
    | split

theorem assembled_keeps {a1} {a2} {a3} {s : State} (fa3 : ∀ u, StoreInv u → PairOk (a3 u)) (h : StoreInv s) :
    PairOk (assembled a1 a2 a3 s) := by
  unfold assembled
  repeat' first
    | with_reducible assumption
    | with_reducible refine fa3 _ ?_
    | with_reducible refine ite_either ?_ ?_
    | with_reducible refine PairOk.mk ?_

theorem boundaryScan_keeps {s : State} (h : StoreInv s) :
    StoreInv (boundaryScan s) := by
  unfold boundaryScan
  repeat' first
    | with_reducible assumption
    | with_reducible refine ite_either ?_ ?_
    | fail_if_no_progress with_reducible refine of_fields ?_

theorem setUpdate_keeps {a1} {s : State} (h : StoreInv s) :
    StoreInv (setUpdate a1 s) := by
  unfold setUpdate
  repeat' first
    | with_reducible assumption
    | with_reducible refine modMp_same rfl rfl rfl rfl rfl rfl rfl ?_

theorem cancelComponent_keeps {a1} {s : State} (h : StoreInv s) :
    PairOk (cancelComponent a1 s) := by
  unfold cancelComponent
  repeat' first
    | with_reducible assumption
    | with_reducible refine ite_either ?_ ?_
    | with_reducible refine inUpdate_keeps (fun _ _ _ => ?_) ?_
    | with_reducible refine snd_ok (inUpdate_keeps (fun _ _ _ => ?_) ?_)
    | with_reducible refine setUpdate_keeps ?_
    | with_reducible refine PairOk.mk ?_

theorem recordSlot_keeps {a1} {a2} {a3} {s : State} (h : StoreInv s) :
    StoreInv (recordSlot a1 a2 a3 s) := by
  unfold recordSlot
  repeat' first
    | with_reducible assumption
    | (extract_lets +onlyGivenNames x; clear_value (e : x = _); with_reducible refine bound_state e ?_ (fun _ => ?_))
    | (extract_lets +onlyGivenNames x; clear_value x)
    | with_reducible refine modMp_same rfl rfl rfl rfl rfl rfl rfl ?_
    | with_reducible refine change_keeps ?_
    | with_reducible refine modMp_setFw (n := fun _ => _) (f := fun _ => _) ?_

theorem cancelUpdate_keeps {a1} {s : State} (h : StoreInv s) :
    PairOk (cancelUpdate a1 s) := by
  unfold cancelUpdate
  repeat' first
    | with_reducible assumption
    | (extract_lets +onlyGivenNames x; clear_value (e : x = _); with_reducible refine bound_state e ?_ (fun _ => ?_))
    | with_reducible refine ite_either ?_ ?_
    | with_reducible refine inUpdate_keeps (fun _ _ _ => ?_) ?_
    | with_reducible refine snd_ok (inUpdate_keeps (fun _ _ _ => ?_) ?_)
    | with_reducible refine recordSlot_keeps ?_
    | with_reducible refine setUpdate_keeps ?_
    | with_reducible refine PairOk.mk ?_

theorem onVendor_keeps {a1} {a2} {a3} {s : State} (fa3 : ∀ u, StoreInv u → PairOk (a3 u)) (h : StoreInv s) :
    PairOk (onVendor a1 a2 a3 s) := by
  unfold onVendor
  repeat' first
    | with_reducible assumption
    | with_reducible refine fa3 _ ?_
    | with_reducible refine ite_either ?_ ?_
    | with_reducible refine withRole_keeps (fun _ _ => ?_) ?_
    | with_reducible refine snd_ok (withRole_keeps (fun _ _ => ?_) ?_)
    | with_reducible refine PairOk.mk ?_

theorem commitSvn_keeps {a1} {s : State} (h : StoreInv s) :
    PairOk (commitSvn a1 s) := by
  unfold commitSvn
  repeat' first
    | with_reducible assumption
    | (extract_lets +onlyGivenNames x; clear_value x)
    | with_reducible refine ite_either ?_ ?_
    | with_reducible refine onVendor_keeps (fun _ _ => ?_) ?_
    | with_reducible refine snd_ok (onVendor_keeps (fun _ _ => ?_) ?_)
    | with_reducible refine changeTo_keeps ?_ ?_
    | with_reducible refine modMp_same rfl rfl rfl rfl rfl rfl rfl ?_
    | with_reducible refine PairOk.mk ?_

theorem setEid_keeps {a1} {a2} {s : State} (h : StoreInv s) :
    PairOk (setEid a1 a2 s) := by
  unfold setEid
  repeat' first
    | with_reducible assumption
    | (extract_lets +onlyGivenNames x; clear_value x)
    | with_reducible refine ite_either ?_ ?_
    | with_reducible refine modMp_same rfl rfl rfl rfl rfl rfl rfl ?_
    | with_reducible refine PairOk.mk ?_

theorem getEid_keeps {a1} {s : State} (h : StoreInv s) :
    PairOk (getEid a1 s) := by
  unfold getEid
  repeat' first
    | with_reducible assumption
    | with_reducible refine PairOk.mk ?_

theorem endpointUuid_keeps {s : State} (h : StoreInv s) :
    PairOk (endpointUuid s) := by
  unfold endpointUuid
  repeat' first
    | with_reducible assumption
    | with_reducible refine PairOk.mk ?_

theorem mctpVersion_keeps {a1} {s : State} (h : StoreInv s) :
    PairOk (mctpVersion a1 s) := by
  unfold mctpVersion
  repeat' first
    | with_reducible assumption
    | (extract_lets +onlyGivenNames x; clear_value x)
    | with_reducible refine ite_either ?_ ?_
    | with_reducible refine PairOk.mk ?_

theorem messageTypes_keeps {s : State} (h : StoreInv s) :
    PairOk (messageTypes s) := by
  unfold messageTypes
  repeat' first
    | with_reducible assumption
    | with_reducible refine PairOk.mk ?_

theorem controlMsg_keeps {a1} {a2} {a3} {s : State} (h : StoreInv s) :
    PairOk (controlMsg a1 a2 a3 s) := by
  unfold controlMsg
  repeat' first
    | with_reducible assumption
    | with_reducible refine ite_either ?_ ?_
    | with_reducible refine setEid_keeps ?_
    | with_reducible refine snd_ok (setEid_keeps ?_)
    | with_reducible refine getEid_keeps ?_
    | with_reducible refine snd_ok (getEid_keeps ?_)
    | with_reducible refine endpointUuid_keeps ?_
    | with_reducible refine snd_ok (endpointUuid_keeps ?_)
    | with_reducible refine mctpVersion_keeps ?_
    | with_reducible refine snd_ok (mctpVersion_keeps ?_)
    | with_reducible refine messageTypes_keeps ?_
    | with_reducible refine snd_ok (messageTypes_keeps ?_)
    | with_reducible refine PairOk.mk ?_

theorem deviceIds_keeps {s : State} (h : StoreInv s) :
    PairOk (deviceIds s) := by
  unfold deviceIds
  repeat' first
    | with_reducible assumption
    | with_reducible refine PairOk.mk ?_

theorem onMctp_keeps {a1} {a2} {s : State} (fa2 : ∀ u, StoreInv u → PairOk (a2 u)) (h : StoreInv s) :
    PairOk (onMctp a1 a2 s) := by
  unfold onMctp
  repeat' first
    | with_reducible assumption
    | with_reducible refine fa2 _ ?_
    | with_reducible refine ite_either ?_ ?_
    | with_reducible refine PairOk.mk ?_

theorem execActivateFirmware_keeps {a1} {a2} {s : State} (h : StoreInv s) :
    ResOk (execActivateFirmware a1 a2 s) := by
  unfold execActivateFirmware
  repeat' first
    | with_reducible assumption
    | with_reducible refine powered_keeps ?_ ?_
    | with_reducible refine answer_keeps ?_
    | with_reducible refine assembled_keeps (fun _ _ => ?_) ?_
    | with_reducible refine snd_ok (assembled_keeps (fun _ _ => ?_) ?_)
    | with_reducible refine onMctp_keeps (fun _ _ => ?_) ?_
    | with_reducible refine snd_ok (onMctp_keeps (fun _ _ => ?_) ?_)
    | with_reducible refine activateFirmware_keeps ?_

theorem execBoundaryScan_keeps {a1} {s : State} (h : StoreInv s) :
    ResOk (execBoundaryScan a1 s) := by
  unfold execBoundaryScan
  repeat' first
    | with_reducible assumption
    | with_reducible refine effectOf_keeps ?_ ?_
    | with_reducible refine boundaryScan_keeps ?_
    | with_reducible refine ResOk.next ?_

theorem execCancelUpdate_keeps {a1} {a2} {s : State} (h : StoreInv s) :
    ResOk (execCancelUpdate a1 a2 s) := by
  unfold execCancelUpdate
  repeat' first
    | with_reducible assumption
    | with_reducible refine powered_keeps ?_ ?_
    | with_reducible refine answer_keeps ?_
    | with_reducible refine assembled_keeps (fun _ _ => ?_) ?_
    | with_reducible refine snd_ok (assembled_keeps (fun _ _ => ?_) ?_)
    | with_reducible refine onMctp_keeps (fun _ _ => ?_) ?_
    | with_reducible refine snd_ok (onMctp_keeps (fun _ _ => ?_) ?_)
    | with_reducible refine cancelUpdate_keeps ?_

theorem execCancelUpdateComponent_keeps {a1} {a2} {s : State} (h : StoreInv s) :
    ResOk (execCancelUpdateComponent a1 a2 s) := by
  unfold execCancelUpdateComponent
  repeat' first
    | with_reducible assumption
    | with_reducible refine powered_keeps ?_ ?_
    | with_reducible refine answer_keeps ?_
    | with_reducible refine assembled_keeps (fun _ _ => ?_) ?_
    | with_reducible refine snd_ok (assembled_keeps (fun _ _ => ?_) ?_)
    | with_reducible refine onMctp_keeps (fun _ _ => ?_) ?_
    | with_reducible refine snd_ok (onMctp_keeps (fun _ _ => ?_) ?_)
    | with_reducible refine cancelComponent_keeps ?_

theorem onSpdm_keeps {a1} {a2} {s : State} (fa2 : ∀ u, StoreInv u → PairOk (a2 u)) (h : StoreInv s) :
    PairOk (onSpdm a1 a2 s) := by
  unfold onSpdm
  repeat' first
    | with_reducible assumption
    | with_reducible refine fa2 _ ?_
    | with_reducible refine ite_either ?_ ?_
    | with_reducible refine PairOk.mk ?_

theorem freeBytes_keeps {a1} {s : State} (h : StoreInv s) :
    PairOk (freeBytes a1 s) := by
  induction a1 generalizing s with
  | zero =>
    unfold freeBytes
    repeat' first
      | with_reducible assumption
      | with_reducible refine free_keeps ?_
      | with_reducible refine snd_ok (free_keeps ?_)
      | with_reducible refine PairOk.of ?_ (by assumption)
      | split
      | with_reducible refine PairOk.mk ?_
  | succ _ ih =>
    unfold freeBytes
    repeat' first
      | with_reducible assumption
      | with_reducible refine ih ?_
      | with_reducible refine snd_ok (ih ?_)
      | with_reducible refine free_keeps ?_
      | with_reducible refine snd_ok (free_keeps ?_)
      | with_reducible refine PairOk.of ?_ (by assumption)
      | split
      | with_reducible refine PairOk.mk ?_

theorem spdmChallenge_keeps {a1} {s : State} (h : StoreInv s) :
    PairOk (spdmChallenge a1 s) := by
  unfold spdmChallenge
  repeat' first
    | with_reducible assumption
    | (extract_lets +onlyGivenNames x; clear_value x)
    | with_reducible refine ite_either ?_ ?_
    | with_reducible refine afterAlgs_keeps (fun _ _ => ?_) ?_
    | with_reducible refine snd_ok (afterAlgs_keeps (fun _ _ => ?_) ?_)
    | with_reducible refine spdmError_keeps ?_
    | with_reducible refine snd_ok (spdmError_keeps ?_)
    | with_reducible refine freeBytes_keeps ?_
    | with_reducible refine snd_ok (freeBytes_keeps ?_)
    | with_reducible refine PairOk.of ?_ (by assumption)
    | split
    | with_reducible refine PairOk.mk ?_

theorem execChallenge_keeps {a1} {a2} {s : State} (h : StoreInv s) :
    ResOk (execChallenge a1 a2 s) := by
  unfold execChallenge
  repeat' first
    | with_reducible assumption
    | with_reducible refine powered_keeps ?_ ?_
    | with_reducible refine answer_keeps ?_
    | with_reducible refine assembled_keeps (fun _ _ => ?_) ?_
    | with_reducible refine snd_ok (assembled_keeps (fun _ _ => ?_) ?_)
    | with_reducible refine onSpdm_keeps (fun _ _ => ?_) ?_
    | with_reducible refine snd_ok (onSpdm_keeps (fun _ _ => ?_) ?_)
    | with_reducible refine spdmChallenge_keeps ?_

theorem execCommitSvn_keeps {a1} {a2} {s : State} (h : StoreInv s) :
    ResOk (execCommitSvn a1 a2 s) := by
  unfold execCommitSvn
  repeat' first
    | with_reducible assumption
    | with_reducible refine powered_keeps ?_ ?_
    | with_reducible refine answer_keeps ?_
    | with_reducible refine assembled_keeps (fun _ _ => ?_) ?_
    | with_reducible refine snd_ok (assembled_keeps (fun _ _ => ?_) ?_)
    | with_reducible refine commitSvn_keeps ?_

theorem tellUpdate_keeps {a1} {a2} {a3} {s : State} (h : StoreInv s) :
    StoreInv (tellUpdate a1 a2 a3 s) := by
  unfold tellUpdate
  repeat' first
    | with_reducible assumption
    | with_reducible refine originate_keeps ?_

theorem tellRefusal_keeps {a1} {a2} {s : State} (h : StoreInv s) :
    StoreInv (tellRefusal a1 a2 s) := by
  unfold tellRefusal
  repeat' first
    | with_reducible assumption
    | with_reducible refine tellUpdate_keeps ?_

theorem tellApplied_keeps {a1} {s : State} (h : StoreInv s) :
    StoreInv (tellApplied a1 s) := by
  unfold tellApplied
  repeat' first
    | with_reducible assumption
    | with_reducible refine tellUpdate_keeps ?_

theorem takeCal_keeps {a1} {a2} {a3} {s : State} (h : StoreInv s) :
    StoreInv (takeCal a1 a2 a3 s) := by
  unfold takeCal
  repeat' first
    | with_reducible assumption
    | with_reducible refine ite_either ?_ ?_
    | with_reducible refine tellRefusal_keeps ?_
    | with_reducible refine tellApplied_keeps ?_
    | with_reducible refine changeTo_keeps ?_ ?_
    | with_reducible refine modMp_same rfl rfl rfl rfl rfl rfl rfl ?_

theorem takeBundle_keeps {a1} {a2} {s : State} (h : StoreInv s) :
    StoreInv (takeBundle a1 a2 s) := by
  unfold takeBundle
  dsimp only
  repeat' first
    | with_reducible assumption
    | with_reducible exact ExPairOk.of ‹_› rfl
    | with_reducible exact ExTripOk.of ‹_› rfl
    | with_reducible refine ite_either ?_ ?_
    | with_reducible refine foldl_ok (fun _ _ _ => ?_) ?_
    | with_reducible refine tellRefusal_keeps ?_
    | with_reducible refine setUpdate_keeps ?_
    | with_reducible refine recordSlot_keeps ?_
    | with_reducible refine tellApplied_keeps ?_
    | with_reducible refine modMp_setFw ?_
    | split

theorem firmwareData_keeps {a1} {a2} {s : State} (h : StoreInv s) :
    PairOk (firmwareData a1 a2 s) := by
  unfold firmwareData
  repeat' first
    | with_reducible assumption
    | (extract_lets +onlyGivenNames x; clear_value (e : x = _); with_reducible refine bound_state e ?_ (fun _ => ?_))
    | (extract_lets +onlyGivenNames x; clear_value x)
    | with_reducible refine ite_either ?_ ?_
    | with_reducible refine inUpdate_keeps (fun _ _ _ => ?_) ?_
    | with_reducible refine snd_ok (inUpdate_keeps (fun _ _ _ => ?_) ?_)
    | with_reducible refine modMp_same rfl rfl rfl rfl rfl rfl rfl ?_
    | with_reducible refine askData_keeps ?_
    | with_reducible refine setUpdate_keeps ?_
    | with_reducible refine tellUpdate_keeps ?_
    | with_reducible refine takeCal_keeps ?_
    | with_reducible refine takeBundle_keeps ?_
    | with_reducible refine PairOk.of ?_ (by assumption)
    | with_reducible refine modMp_setFw ?_
    | with_reducible refine modMp_setFw (n := fun _ => _) (f := fun _ => _) ?_
    | split
    | with_reducible refine PairOk.mk ?_

theorem execFirmwareDataResponse_keeps {a1} {a2} {s : State} (h : StoreInv s) :
    ResOk (execFirmwareDataResponse a1 a2 s) := by
  unfold execFirmwareDataResponse
  repeat' first
    | with_reducible assumption
    | with_reducible refine powered_keeps ?_ ?_
    | with_reducible refine answer_keeps ?_
    | with_reducible refine assembled_keeps (fun _ _ => ?_) ?_
    | with_reducible refine snd_ok (assembled_keeps (fun _ _ => ?_) ?_)
    | with_reducible refine onMctp_keeps (fun _ _ => ?_) ?_
    | with_reducible refine snd_ok (onMctp_keeps (fun _ _ => ?_) ?_)
    | with_reducible refine firmwareData_keeps ?_

theorem modSpdm_keeps {a1} {s : State} (h : StoreInv s) :
    StoreInv (modSpdm a1 s) := by
  unfold modSpdm
  repeat' first
    | with_reducible assumption
    | with_reducible refine modMp_same rfl rfl rfl rfl rfl rfl rfl ?_

theorem spdmCaps_keeps {s : State} (h : StoreInv s) :
    PairOk (spdmCaps s) := by
  unfold spdmCaps
  repeat' first
    | with_reducible assumption
    | with_reducible refine ite_either ?_ ?_
    | with_reducible refine spdmError_keeps ?_
    | with_reducible refine snd_ok (spdmError_keeps ?_)
    | with_reducible refine modSpdm_keeps ?_
    | with_reducible refine PairOk.mk ?_

theorem execGetCapabilities_keeps {a1} {a2} {s : State} (h : StoreInv s) :
    ResOk (execGetCapabilities a1 a2 s) := by
  unfold execGetCapabilities
  repeat' first
    | with_reducible assumption
    | with_reducible refine powered_keeps ?_ ?_
    | with_reducible refine answer_keeps ?_
    | with_reducible refine assembled_keeps (fun _ _ => ?_) ?_
    | with_reducible refine snd_ok (assembled_keeps (fun _ _ => ?_) ?_)
    | with_reducible refine onSpdm_keeps (fun _ _ => ?_) ?_
    | with_reducible refine snd_ok (onSpdm_keeps (fun _ _ => ?_) ?_)
    | with_reducible refine spdmCaps_keeps ?_

theorem spdmCert_keeps {a1} {s : State} (h : StoreInv s) :
    PairOk (spdmCert a1 s) := by
  unfold spdmCert
  repeat' first
    | with_reducible assumption
    | (extract_lets +onlyGivenNames x; clear_value x)
    | with_reducible refine ite_either ?_ ?_
    | with_reducible refine afterAlgs_keeps (fun _ _ => ?_) ?_
    | with_reducible refine snd_ok (afterAlgs_keeps (fun _ _ => ?_) ?_)
    | with_reducible refine spdmError_keeps ?_
    | with_reducible refine snd_ok (spdmError_keeps ?_)
    | with_reducible refine PairOk.mk ?_

theorem execGetCertificate_keeps {a1} {a2} {s : State} (h : StoreInv s) :
    ResOk (execGetCertificate a1 a2 s) := by
  unfold execGetCertificate
  repeat' first
    | with_reducible assumption
    | with_reducible refine powered_keeps ?_ ?_
    | with_reducible refine answer_keeps ?_
    | with_reducible refine assembled_keeps (fun _ _ => ?_) ?_
    | with_reducible refine snd_ok (assembled_keeps (fun _ _ => ?_) ?_)
    | with_reducible refine onSpdm_keeps (fun _ _ => ?_) ?_
    | with_reducible refine snd_ok (onSpdm_keeps (fun _ _ => ?_) ?_)
    | with_reducible refine spdmCert_keeps ?_

theorem getChanges_keeps {a1} {a2} {s : State} (h : StoreInv s) :
    PairOk (getChanges a1 a2 s) := by
  unfold getChanges
  repeat' first
    | with_reducible assumption
    | (extract_lets +onlyGivenNames x; clear_value x)
    | with_reducible refine onVendor_keeps (fun _ _ => ?_) ?_
    | with_reducible refine snd_ok (onVendor_keeps (fun _ _ => ?_) ?_)
    | with_reducible refine PairOk.mk ?_

theorem execGetChanges_keeps {a1} {a2} {s : State} (h : StoreInv s) :
    ResOk (execGetChanges a1 a2 s) := by
  unfold execGetChanges
  repeat' first
    | with_reducible assumption
    | with_reducible refine powered_keeps ?_ ?_
    | with_reducible refine answer_keeps ?_
    | with_reducible refine assembled_keeps (fun _ _ => ?_) ?_
    | with_reducible refine snd_ok (assembled_keeps (fun _ _ => ?_) ?_)
    | with_reducible refine getChanges_keeps ?_

theorem spdmDigests_keeps {s : State} (h : StoreInv s) :
    PairOk (spdmDigests s) := by
  unfold spdmDigests
  repeat' first
    | with_reducible assumption
    | with_reducible refine afterAlgs_keeps (fun _ _ => ?_) ?_
    | with_reducible refine snd_ok (afterAlgs_keeps (fun _ _ => ?_) ?_)
    | with_reducible refine PairOk.mk ?_

theorem execGetDigests_keeps {a1} {a2} {s : State} (h : StoreInv s) :
    ResOk (execGetDigests a1 a2 s) := by
  unfold execGetDigests
  repeat' first
    | with_reducible assumption
    | with_reducible refine powered_keeps ?_ ?_
    | with_reducible refine answer_keeps ?_
    | with_reducible refine assembled_keeps (fun _ _ => ?_) ?_
    | with_reducible refine snd_ok (assembled_keeps (fun _ _ => ?_) ?_)
    | with_reducible refine onSpdm_keeps (fun _ _ => ?_) ?_
    | with_reducible refine snd_ok (onSpdm_keeps (fun _ _ => ?_) ?_)
    | with_reducible refine spdmDigests_keeps ?_

theorem execGetEndpointId_keeps {a1} {a2} {s : State} (h : StoreInv s) :
    ResOk (execGetEndpointId a1 a2 s) := by
  unfold execGetEndpointId
  repeat' first
    | with_reducible assumption
    | with_reducible refine powered_keeps ?_ ?_
    | with_reducible refine answer_keeps ?_
    | with_reducible refine assembled_keeps (fun _ _ => ?_) ?_
    | with_reducible refine snd_ok (assembled_keeps (fun _ _ => ?_) ?_)
    | with_reducible refine onMctp_keeps (fun _ _ => ?_) ?_
    | with_reducible refine snd_ok (onMctp_keeps (fun _ _ => ?_) ?_)
    | with_reducible refine getEid_keeps ?_

theorem execGetEndpointUuid_keeps {a1} {a2} {s : State} (h : StoreInv s) :
    ResOk (execGetEndpointUuid a1 a2 s) := by
  unfold execGetEndpointUuid
  repeat' first
    | with_reducible assumption
    | with_reducible refine powered_keeps ?_ ?_
    | with_reducible refine answer_keeps ?_
    | with_reducible refine assembled_keeps (fun _ _ => ?_) ?_
    | with_reducible refine snd_ok (assembled_keeps (fun _ _ => ?_) ?_)
    | with_reducible refine onMctp_keeps (fun _ _ => ?_) ?_
    | with_reducible refine snd_ok (onMctp_keeps (fun _ _ => ?_) ?_)
    | with_reducible refine endpointUuid_keeps ?_

theorem firmwareParameters_keeps {s : State} (h : StoreInv s) :
    PairOk (firmwareParameters s) := by
  unfold firmwareParameters
  repeat' first
    | with_reducible assumption
    | (extract_lets +onlyGivenNames x; clear_value x)
    | with_reducible refine PairOk.mk ?_

theorem execGetFirmwareParameters_keeps {a1} {a2} {s : State} (h : StoreInv s) :
    ResOk (execGetFirmwareParameters a1 a2 s) := by
  unfold execGetFirmwareParameters
  repeat' first
    | with_reducible assumption
    | with_reducible refine powered_keeps ?_ ?_
    | with_reducible refine answer_keeps ?_
    | with_reducible refine assembled_keeps (fun _ _ => ?_) ?_
    | with_reducible refine snd_ok (assembled_keeps (fun _ _ => ?_) ?_)
    | with_reducible refine onMctp_keeps (fun _ _ => ?_) ?_
    | with_reducible refine snd_ok (onMctp_keeps (fun _ _ => ?_) ?_)
    | with_reducible refine firmwareParameters_keeps ?_

theorem getLog_keeps {a1} {a2} {s : State} (h : StoreInv s) :
    PairOk (getLog a1 a2 s) := by
  unfold getLog
  repeat' first
    | with_reducible assumption
    | (extract_lets +onlyGivenNames x; clear_value x)
    | with_reducible refine onVendor_keeps (fun _ _ => ?_) ?_
    | with_reducible refine snd_ok (onVendor_keeps (fun _ _ => ?_) ?_)
    | with_reducible refine PairOk.mk ?_

theorem execGetLog_keeps {a1} {a2} {s : State} (h : StoreInv s) :
    ResOk (execGetLog a1 a2 s) := by
  unfold execGetLog
  repeat' first
    | with_reducible assumption
    | with_reducible refine powered_keeps ?_ ?_
    | with_reducible refine answer_keeps ?_
    | with_reducible refine assembled_keeps (fun _ _ => ?_) ?_
    | with_reducible refine snd_ok (assembled_keeps (fun _ _ => ?_) ?_)
    | with_reducible refine getLog_keeps ?_

theorem execGetMctpVersionSupport_keeps {a1} {a2} {s : State} (h : StoreInv s) :
    ResOk (execGetMctpVersionSupport a1 a2 s) := by
  unfold execGetMctpVersionSupport
  repeat' first
    | with_reducible assumption
    | with_reducible refine powered_keeps ?_ ?_
    | with_reducible refine answer_keeps ?_
    | with_reducible refine assembled_keeps (fun _ _ => ?_) ?_
    | with_reducible refine snd_ok (assembled_keeps (fun _ _ => ?_) ?_)
    | with_reducible refine onMctp_keeps (fun _ _ => ?_) ?_
    | with_reducible refine snd_ok (onMctp_keeps (fun _ _ => ?_) ?_)
    | with_reducible refine mctpVersion_keeps ?_

theorem spdmMeasurements_keeps {a1} {s : State} (h : StoreInv s) :
    PairOk (spdmMeasurements a1 s) := by
  unfold spdmMeasurements
  repeat' first
    | with_reducible assumption
    | (extract_lets +onlyGivenNames x; clear_value x)
    | with_reducible refine ite_either ?_ ?_
    | with_reducible refine afterAlgs_keeps (fun _ _ => ?_) ?_
    | with_reducible refine snd_ok (afterAlgs_keeps (fun _ _ => ?_) ?_)
    | with_reducible refine spdmError_keeps ?_
    | with_reducible refine snd_ok (spdmError_keeps ?_)
    | with_reducible refine freeBytes_keeps ?_
    | with_reducible refine snd_ok (freeBytes_keeps ?_)
    | with_reducible refine PairOk.of ?_ (by assumption)
    | split
    | with_reducible refine PairOk.mk ?_

theorem execGetMeasurements_keeps {a1} {a2} {s : State} (h : StoreInv s) :
    ResOk (execGetMeasurements a1 a2 s) := by
  unfold execGetMeasurements
  repeat' first
    | with_reducible assumption
    | with_reducible refine powered_keeps ?_ ?_
    | with_reducible refine answer_keeps ?_
    | with_reducible refine assembled_keeps (fun _ _ => ?_) ?_
    | with_reducible refine snd_ok (assembled_keeps (fun _ _ => ?_) ?_)
    | with_reducible refine onSpdm_keeps (fun _ _ => ?_) ?_
    | with_reducible refine snd_ok (onSpdm_keeps (fun _ _ => ?_) ?_)
    | with_reducible refine spdmMeasurements_keeps ?_

theorem execGetMessageTypeSupport_keeps {a1} {a2} {s : State} (h : StoreInv s) :
    ResOk (execGetMessageTypeSupport a1 a2 s) := by
  unfold execGetMessageTypeSupport
  repeat' first
    | with_reducible assumption
    | with_reducible refine powered_keeps ?_ ?_
    | with_reducible refine answer_keeps ?_
    | with_reducible refine assembled_keeps (fun _ _ => ?_) ?_
    | with_reducible refine snd_ok (assembled_keeps (fun _ _ => ?_) ?_)
    | with_reducible refine onMctp_keeps (fun _ _ => ?_) ?_
    | with_reducible refine snd_ok (onMctp_keeps (fun _ _ => ?_) ?_)
    | with_reducible refine messageTypes_keeps ?_

theorem pdr_keeps {a1} {s : State} (h : StoreInv s) :
    PairOk (pdr a1 s) := by
  unfold pdr
  repeat' first
    | with_reducible assumption
    | (extract_lets +onlyGivenNames x; clear_value x)
    | with_reducible refine ite_either ?_ ?_
    | with_reducible refine PairOk.mk ?_

theorem execGetPdr_keeps {a1} {a2} {s : State} (h : StoreInv s) :
    ResOk (execGetPdr a1 a2 s) := by
  unfold execGetPdr
  repeat' first
    | with_reducible assumption
    | with_reducible refine powered_keeps ?_ ?_
    | with_reducible refine answer_keeps ?_
    | with_reducible refine assembled_keeps (fun _ _ => ?_) ?_
    | with_reducible refine snd_ok (assembled_keeps (fun _ _ => ?_) ?_)
    | with_reducible refine onMctp_keeps (fun _ _ => ?_) ?_
    | with_reducible refine snd_ok (onMctp_keeps (fun _ _ => ?_) ?_)
    | with_reducible refine withRole_keeps (fun _ _ => ?_) ?_
    | with_reducible refine snd_ok (withRole_keeps (fun _ _ => ?_) ?_)
    | with_reducible refine pdr_keeps ?_

theorem pdrInfo_keeps {s : State} (h : StoreInv s) :
    PairOk (pdrInfo s) := by
  unfold pdrInfo
  repeat' first
    | with_reducible assumption
    | (extract_lets +onlyGivenNames x; clear_value x)
    | with_reducible refine foldl_ok (fun _ _ _ => ?_) ?_
    | with_reducible refine PairOk.mk ?_

theorem execGetPdrRepositoryInfo_keeps {a1} {a2} {s : State} (h : StoreInv s) :
    ResOk (execGetPdrRepositoryInfo a1 a2 s) := by
  unfold execGetPdrRepositoryInfo
  repeat' first
    | with_reducible assumption
    | with_reducible refine powered_keeps ?_ ?_
    | with_reducible refine answer_keeps ?_
    | with_reducible refine assembled_keeps (fun _ _ => ?_) ?_
    | with_reducible refine snd_ok (assembled_keeps (fun _ _ => ?_) ?_)
    | with_reducible refine onMctp_keeps (fun _ _ => ?_) ?_
    | with_reducible refine snd_ok (onMctp_keeps (fun _ _ => ?_) ?_)
    | with_reducible refine withRole_keeps (fun _ _ => ?_) ?_
    | with_reducible refine snd_ok (withRole_keeps (fun _ _ => ?_) ?_)
    | with_reducible refine pdrInfo_keeps ?_

theorem pldmCommands_keeps {a1} {s : State} (h : StoreInv s) :
    PairOk (pldmCommands a1 s) := by
  unfold pldmCommands
  repeat' first
    | with_reducible assumption
    | (extract_lets +onlyGivenNames x; clear_value x)
    | with_reducible refine ite_either ?_ ?_
    | with_reducible refine PairOk.mk ?_

theorem execGetPldmCommands_keeps {a1} {a2} {s : State} (h : StoreInv s) :
    ResOk (execGetPldmCommands a1 a2 s) := by
  unfold execGetPldmCommands
  repeat' first
    | with_reducible assumption
    | with_reducible refine powered_keeps ?_ ?_
    | with_reducible refine answer_keeps ?_
    | with_reducible refine assembled_keeps (fun _ _ => ?_) ?_
    | with_reducible refine snd_ok (assembled_keeps (fun _ _ => ?_) ?_)
    | with_reducible refine onMctp_keeps (fun _ _ => ?_) ?_
    | with_reducible refine snd_ok (onMctp_keeps (fun _ _ => ?_) ?_)
    | with_reducible refine pldmCommands_keeps ?_

theorem pldmTypes_keeps {s : State} (h : StoreInv s) :
    PairOk (pldmTypes s) := by
  unfold pldmTypes
  repeat' first
    | with_reducible assumption
    | with_reducible refine PairOk.mk ?_

theorem execGetPldmTypes_keeps {a1} {a2} {s : State} (h : StoreInv s) :
    ResOk (execGetPldmTypes a1 a2 s) := by
  unfold execGetPldmTypes
  repeat' first
    | with_reducible assumption
    | with_reducible refine powered_keeps ?_ ?_
    | with_reducible refine answer_keeps ?_
    | with_reducible refine assembled_keeps (fun _ _ => ?_) ?_
    | with_reducible refine snd_ok (assembled_keeps (fun _ _ => ?_) ?_)
    | with_reducible refine onMctp_keeps (fun _ _ => ?_) ?_
    | with_reducible refine snd_ok (onMctp_keeps (fun _ _ => ?_) ?_)
    | with_reducible refine pldmTypes_keeps ?_

theorem pldmVersion_keeps {a1} {s : State} (h : StoreInv s) :
    PairOk (pldmVersion a1 s) := by
  unfold pldmVersion
  repeat' first
    | with_reducible assumption
    | (extract_lets +onlyGivenNames x; clear_value x)
    | with_reducible refine ite_either ?_ ?_
    | with_reducible refine PairOk.mk ?_

theorem execGetPldmVersion_keeps {a1} {a2} {s : State} (h : StoreInv s) :
    ResOk (execGetPldmVersion a1 a2 s) := by
  unfold execGetPldmVersion
  repeat' first
    | with_reducible assumption
    | with_reducible refine powered_keeps ?_ ?_
    | with_reducible refine answer_keeps ?_
    | with_reducible refine assembled_keeps (fun _ _ => ?_) ?_
    | with_reducible refine snd_ok (assembled_keeps (fun _ _ => ?_) ?_)
    | with_reducible refine onMctp_keeps (fun _ _ => ?_) ?_
    | with_reducible refine snd_ok (onMctp_keeps (fun _ _ => ?_) ?_)
    | with_reducible refine pldmVersion_keeps ?_

theorem sensorReading_keeps {a1} {s : State} (h : StoreInv s) :
    PairOk (sensorReading a1 s) := by
  unfold sensorReading
  repeat' first
    | with_reducible assumption
    | (extract_lets +onlyGivenNames x; clear_value x)
    | with_reducible refine ite_either ?_ ?_
    | with_reducible refine PairOk.mk ?_

theorem execGetSensorReading_keeps {a1} {a2} {s : State} (h : StoreInv s) :
    ResOk (execGetSensorReading a1 a2 s) := by
  unfold execGetSensorReading
  repeat' first
    | with_reducible assumption
    | with_reducible refine powered_keeps ?_ ?_
    | with_reducible refine answer_keeps ?_
    | with_reducible refine assembled_keeps (fun _ _ => ?_) ?_
    | with_reducible refine snd_ok (assembled_keeps (fun _ _ => ?_) ?_)
    | with_reducible refine onMctp_keeps (fun _ _ => ?_) ?_
    | with_reducible refine snd_ok (onMctp_keeps (fun _ _ => ?_) ?_)
    | with_reducible refine withRole_keeps (fun _ _ => ?_) ?_
    | with_reducible refine snd_ok (withRole_keeps (fun _ _ => ?_) ?_)
    | with_reducible refine sensorReading_keeps ?_

theorem updateStatus_keeps {s : State} (h : StoreInv s) :
    PairOk (updateStatus s) := by
  unfold updateStatus
  repeat' first
    | with_reducible assumption
    | (extract_lets +onlyGivenNames x; clear_value x)
    | with_reducible refine ite_either ?_ ?_
    | with_reducible refine PairOk.of ?_ (by assumption)
    | split
    | with_reducible refine PairOk.mk ?_

theorem execGetStatus_keeps {a1} {a2} {s : State} (h : StoreInv s) :
    ResOk (execGetStatus a1 a2 s) := by
  unfold execGetStatus
  repeat' first
    | with_reducible assumption
    | with_reducible refine powered_keeps ?_ ?_
    | with_reducible refine answer_keeps ?_
    | with_reducible refine assembled_keeps (fun _ _ => ?_) ?_
    | with_reducible refine snd_ok (assembled_keeps (fun _ _ => ?_) ?_)
    | with_reducible refine onMctp_keeps (fun _ _ => ?_) ?_
    | with_reducible refine snd_ok (onMctp_keeps (fun _ _ => ?_) ?_)
    | with_reducible refine updateStatus_keeps ?_

theorem tid_keeps {s : State} (h : StoreInv s) :
    PairOk (tid s) := by
  unfold tid
  repeat' first
    | with_reducible assumption
    | with_reducible refine PairOk.mk ?_

theorem execGetTid_keeps {a1} {a2} {s : State} (h : StoreInv s) :
    ResOk (execGetTid a1 a2 s) := by
  unfold execGetTid
  repeat' first
    | with_reducible assumption
    | with_reducible refine powered_keeps ?_ ?_
    | with_reducible refine answer_keeps ?_
    | with_reducible refine assembled_keeps (fun _ _ => ?_) ?_
    | with_reducible refine snd_ok (assembled_keeps (fun _ _ => ?_) ?_)
    | with_reducible refine onMctp_keeps (fun _ _ => ?_) ?_
    | with_reducible refine snd_ok (onMctp_keeps (fun _ _ => ?_) ?_)
    | with_reducible refine tid_keeps ?_

theorem spdmVersion_keeps {s : State} (h : StoreInv s) :
    PairOk (spdmVersion s) := by
  unfold spdmVersion
  repeat' first
    | with_reducible assumption
    | with_reducible refine modSpdm_keeps ?_
    | with_reducible refine PairOk.mk ?_

theorem execGetVersion_keeps {a1} {a2} {s : State} (h : StoreInv s) :
    ResOk (execGetVersion a1 a2 s) := by
  unfold execGetVersion
  repeat' first
    | with_reducible assumption
    | with_reducible refine powered_keeps ?_ ?_
    | with_reducible refine answer_keeps ?_
    | with_reducible refine assembled_keeps (fun _ _ => ?_) ?_
    | with_reducible refine snd_ok (assembled_keeps (fun _ _ => ?_) ?_)
    | with_reducible refine onSpdm_keeps (fun _ _ => ?_) ?_
    | with_reducible refine snd_ok (onSpdm_keeps (fun _ _ => ?_) ?_)
    | with_reducible refine spdmVersion_keeps ?_

theorem i3cAssign_keeps {a1} {s : State} (h : StoreInv s) :
    StoreInv (i3cAssign a1 s) := by
  unfold i3cAssign
  cases a1
  all_goals
    repeat' first
      | with_reducible assumption
      | with_reducible refine ite_either ?_ ?_
      | with_reducible refine modMp_same rfl rfl rfl rfl rfl rfl rfl ?_

theorem execI3cAddressAssignment_keeps {a1} {s : State} (h : StoreInv s) :
    ResOk (execI3cAddressAssignment a1 s) := by
  unfold execI3cAddressAssignment
  repeat' first
    | with_reducible assumption
    | with_reducible refine powered_keeps ?_ ?_
    | with_reducible refine i3cAssign_keeps ?_

theorem setEventReceiver_keeps {a1} {a2} {s : State} (h : StoreInv s) :
    PairOk (setEventReceiver a1 a2 s) := by
  unfold setEventReceiver
  repeat' first
    | with_reducible assumption
    | with_reducible refine ite_either ?_ ?_
    | with_reducible refine withRole_keeps (fun _ _ => ?_) ?_
    | with_reducible refine snd_ok (withRole_keeps (fun _ _ => ?_) ?_)
    | with_reducible refine modMp_same rfl rfl rfl rfl rfl rfl rfl ?_
    | with_reducible refine PairOk.mk ?_

theorem requestUpdate_keeps {a1} {s : State} (h : StoreInv s) :
    PairOk (requestUpdate a1 s) := by
  unfold requestUpdate
  repeat' first
    | with_reducible assumption
    | with_reducible refine ite_either ?_ ?_
    | with_reducible refine withRole_keeps (fun _ _ => ?_) ?_
    | with_reducible refine snd_ok (withRole_keeps (fun _ _ => ?_) ?_)
    | with_reducible refine modMp_same rfl rfl rfl rfl rfl rfl rfl ?_
    | with_reducible refine PairOk.mk ?_

theorem passComponent_keeps {a1} {a2} {s : State} (h : StoreInv s) :
    PairOk (passComponent a1 a2 s) := by
  unfold passComponent
  repeat' first
    | with_reducible assumption
    | (extract_lets +onlyGivenNames x; clear_value x)
    | with_reducible refine ite_either ?_ ?_
    | with_reducible refine inUpdate_keeps (fun _ _ _ => ?_) ?_
    | with_reducible refine snd_ok (inUpdate_keeps (fun _ _ _ => ?_) ?_)
    | with_reducible refine setUpdate_keeps ?_
    | with_reducible refine PairOk.mk ?_

theorem updateComponent_keeps {a1} {a2} {s : State} (h : StoreInv s) :
    PairOk (updateComponent a1 a2 s) := by
  unfold updateComponent
  repeat' first
    | with_reducible assumption
    | (extract_lets +onlyGivenNames x; clear_value x)
    | with_reducible refine ite_either ?_ ?_
    | with_reducible refine inUpdate_keeps (fun _ _ _ => ?_) ?_
    | with_reducible refine snd_ok (inUpdate_keeps (fun _ _ _ => ?_) ?_)
    | with_reducible refine askData_keeps ?_
    | with_reducible refine setUpdate_keeps ?_
    | with_reducible refine PairOk.mk ?_

theorem pldmMsg_keeps {a1} {a2} {a3} {a4} {s : State} (h : StoreInv s) :
    PairOk (pldmMsg a1 a2 a3 a4 s) := by
  unfold pldmMsg
  repeat' first
    | with_reducible assumption
    | with_reducible refine ite_either ?_ ?_
    | with_reducible refine tid_keeps ?_
    | with_reducible refine snd_ok (tid_keeps ?_)
    | with_reducible refine pldmVersion_keeps ?_
    | with_reducible refine snd_ok (pldmVersion_keeps ?_)
    | with_reducible refine pldmTypes_keeps ?_
    | with_reducible refine snd_ok (pldmTypes_keeps ?_)
    | with_reducible refine pldmCommands_keeps ?_
    | with_reducible refine snd_ok (pldmCommands_keeps ?_)
    | with_reducible refine withRole_keeps (fun _ _ => ?_) ?_
    | with_reducible refine snd_ok (withRole_keeps (fun _ _ => ?_) ?_)
    | with_reducible refine pdrInfo_keeps ?_
    | with_reducible refine snd_ok (pdrInfo_keeps ?_)
    | with_reducible refine pdr_keeps ?_
    | with_reducible refine snd_ok (pdr_keeps ?_)
    | with_reducible refine sensorReading_keeps ?_
    | with_reducible refine snd_ok (sensorReading_keeps ?_)
    | with_reducible refine setEventReceiver_keeps ?_
    | with_reducible refine snd_ok (setEventReceiver_keeps ?_)
    | with_reducible refine deviceIds_keeps ?_
    | with_reducible refine snd_ok (deviceIds_keeps ?_)
    | with_reducible refine firmwareParameters_keeps ?_
    | with_reducible refine snd_ok (firmwareParameters_keeps ?_)
    | with_reducible refine requestUpdate_keeps ?_
    | with_reducible refine snd_ok (requestUpdate_keeps ?_)
    | with_reducible refine passComponent_keeps ?_
    | with_reducible refine snd_ok (passComponent_keeps ?_)
    | with_reducible refine updateComponent_keeps ?_
    | with_reducible refine snd_ok (updateComponent_keeps ?_)
    | with_reducible refine firmwareData_keeps ?_
    | with_reducible refine snd_ok (firmwareData_keeps ?_)
    | with_reducible refine activateFirmware_keeps ?_
    | with_reducible refine snd_ok (activateFirmware_keeps ?_)
    | with_reducible refine updateStatus_keeps ?_
    | with_reducible refine snd_ok (updateStatus_keeps ?_)
    | with_reducible refine cancelComponent_keeps ?_
    | with_reducible refine snd_ok (cancelComponent_keeps ?_)
    | with_reducible refine cancelUpdate_keeps ?_
    | with_reducible refine snd_ok (cancelUpdate_keeps ?_)
    | with_reducible refine PairOk.mk ?_

theorem spdmAlgs_keeps {a1} {s : State} (h : StoreInv s) :
    PairOk (spdmAlgs a1 s) := by
  unfold spdmAlgs
  repeat' first
    | with_reducible assumption
    | with_reducible refine ite_either ?_ ?_
    | with_reducible refine spdmError_keeps ?_
    | with_reducible refine snd_ok (spdmError_keeps ?_)
    | with_reducible refine modSpdm_keeps ?_
    | with_reducible refine PairOk.mk ?_

theorem spdmMsg_keeps {a1} {a2} {s : State} (h : StoreInv s) :
    PairOk (spdmMsg a1 a2 s) := by
  unfold spdmMsg
  repeat' first
    | with_reducible assumption
    | with_reducible refine ite_either ?_ ?_
    | with_reducible refine spdmVersion_keeps ?_
    | with_reducible refine snd_ok (spdmVersion_keeps ?_)
    | with_reducible refine spdmCaps_keeps ?_
    | with_reducible refine snd_ok (spdmCaps_keeps ?_)
    | with_reducible refine spdmAlgs_keeps ?_
    | with_reducible refine snd_ok (spdmAlgs_keeps ?_)
    | with_reducible refine spdmDigests_keeps ?_
    | with_reducible refine snd_ok (spdmDigests_keeps ?_)
    | with_reducible refine spdmCert_keeps ?_
    | with_reducible refine snd_ok (spdmCert_keeps ?_)
    | with_reducible refine spdmChallenge_keeps ?_
    | with_reducible refine snd_ok (spdmChallenge_keeps ?_)
    | with_reducible refine spdmMeasurements_keeps ?_
    | with_reducible refine snd_ok (spdmMeasurements_keeps ?_)
    | with_reducible refine PairOk.mk ?_

theorem setTime_keeps {a1} {a2} {s : State} (h : StoreInv s) :
    PairOk (setTime a1 a2 s) := by
  unfold setTime
  repeat' first
    | with_reducible assumption
    | (extract_lets +onlyGivenNames x; clear_value x)
    | with_reducible refine ite_either ?_ ?_
    | with_reducible refine onVendor_keeps (fun _ _ => ?_) ?_
    | with_reducible refine snd_ok (onVendor_keeps (fun _ _ => ?_) ?_)
    | with_reducible refine modMp_same rfl rfl rfl rfl rfl rfl rfl ?_
    | with_reducible refine PairOk.mk ?_

theorem setConfig_keeps {a1} {a2} {s : State} (h : StoreInv s) :
    PairOk (setConfig a1 a2 s) := by
  unfold setConfig
  repeat' first
    | with_reducible assumption
    | (extract_lets +onlyGivenNames x; clear_value x)
    | with_reducible refine onVendor_keeps (fun _ _ => ?_) ?_
    | with_reducible refine snd_ok (onVendor_keeps (fun _ _ => ?_) ?_)
    | with_reducible refine changeTo_keeps ?_ ?_
    | with_reducible refine modMp_same rfl rfl rfl rfl rfl rfl rfl ?_
    | with_reducible refine PairOk.of ?_ (by assumption)
    | split
    | with_reducible refine PairOk.mk ?_

theorem installOwner_keeps {a1} {a2} {a3} {s : State} (h : StoreInv s) :
    PairOk (installOwner a1 a2 a3 s) := by
  unfold installOwner
  repeat' first
    | with_reducible assumption
    | with_reducible refine ite_either ?_ ?_
    | with_reducible refine changeTo_keeps ?_ ?_
    | with_reducible refine modMp_same rfl rfl rfl rfl rfl rfl rfl ?_
    | with_reducible refine PairOk.mk ?_

theorem takeOwnership_keeps {a1} {a2} {s : State} (h : StoreInv s) :
    PairOk (takeOwnership a1 a2 s) := by
  unfold takeOwnership
  repeat' first
    | with_reducible assumption
    | with_reducible refine ite_either ?_ ?_
    | with_reducible refine onVendor_keeps (fun _ _ => ?_) ?_
    | with_reducible refine snd_ok (onVendor_keeps (fun _ _ => ?_) ?_)
    | with_reducible refine installOwner_keeps ?_
    | with_reducible refine snd_ok (installOwner_keeps ?_)
    | with_reducible refine asOwner_keeps (fun _ _ _ => ?_) ?_
    | with_reducible refine snd_ok (asOwner_keeps (fun _ _ _ => ?_) ?_)
    | with_reducible refine PairOk.mk ?_

theorem setRoles_keeps {a1} {a2} {s : State} (h : StoreInv s) :
    PairOk (setRoles a1 a2 s) := by
  unfold setRoles
  repeat' first
    | with_reducible assumption
    | (extract_lets +onlyGivenNames x; clear_value x)
    | with_reducible refine ite_either ?_ ?_
    | with_reducible refine foldl_ok (fun _ _ _ => ?_) ?_
    | with_reducible refine asOwner_keeps (fun _ _ _ => ?_) ?_
    | with_reducible refine snd_ok (asOwner_keeps (fun _ _ _ => ?_) ?_)
    | with_reducible refine changeTo_keeps ?_ ?_
    | with_reducible refine modMp_same rfl rfl rfl rfl rfl rfl rfl ?_
    | with_reducible refine PairOk.mk ?_

theorem serviceChallenge_keeps {a1} {s : State} (h : StoreInv s) :
    PairOk (serviceChallenge a1 s) := by
  unfold serviceChallenge
  repeat' first
    | with_reducible assumption
    | with_reducible refine onVendor_keeps (fun _ _ => ?_) ?_
    | with_reducible refine snd_ok (onVendor_keeps (fun _ _ => ?_) ?_)
    | with_reducible refine PairOk.mk ?_

theorem serviceRecord_keeps {a1} {a2} {s : State} (h : StoreInv s) :
    PairOk (serviceRecord a1 a2 s) := by
  unfold serviceRecord
  repeat' first
    | with_reducible assumption
    | (extract_lets +onlyGivenNames x; clear_value (e : x = _); with_reducible refine bound_state e ?_ (fun _ => ?_))
    | with_reducible refine ite_either ?_ ?_
    | with_reducible refine onVendor_keeps (fun _ _ => ?_) ?_
    | with_reducible refine snd_ok (onVendor_keeps (fun _ _ => ?_) ?_)
    | with_reducible refine modMp_same rfl rfl rfl rfl rfl rfl rfl ?_
    | with_reducible refine settleHealth_keeps ?_
    | with_reducible refine changeTo_keeps ?_ ?_
    | with_reducible refine retire_keeps ?_
    | with_reducible refine log_keeps ?_
    | with_reducible refine PairOk.mk ?_

theorem vendorMsg_keeps {a1} {a2} {a3} {s : State} (h : StoreInv s) :
    PairOk (vendorMsg a1 a2 a3 s) := by
  unfold vendorMsg
  repeat' first
    | with_reducible assumption
    | with_reducible refine ite_either ?_ ?_
    | with_reducible refine getLog_keeps ?_
    | with_reducible refine snd_ok (getLog_keeps ?_)
    | with_reducible refine getChanges_keeps ?_
    | with_reducible refine snd_ok (getChanges_keeps ?_)
    | with_reducible refine setTime_keeps ?_
    | with_reducible refine snd_ok (setTime_keeps ?_)
    | with_reducible refine setConfig_keeps ?_
    | with_reducible refine snd_ok (setConfig_keeps ?_)
    | with_reducible refine commitSvn_keeps ?_
    | with_reducible refine snd_ok (commitSvn_keeps ?_)
    | with_reducible refine takeOwnership_keeps ?_
    | with_reducible refine snd_ok (takeOwnership_keeps ?_)
    | with_reducible refine setRoles_keeps ?_
    | with_reducible refine snd_ok (setRoles_keeps ?_)
    | with_reducible refine serviceChallenge_keeps ?_
    | with_reducible refine snd_ok (serviceChallenge_keeps ?_)
    | with_reducible refine serviceRecord_keeps ?_
    | with_reducible refine snd_ok (serviceRecord_keeps ?_)
    | with_reducible refine PairOk.mk ?_

theorem serveMsg_keeps {a1} {a2} {s : State} (h : StoreInv s) :
    PairOk (serveMsg a1 a2 s) := by
  unfold serveMsg
  repeat' first
    | with_reducible assumption
    | (extract_lets +onlyGivenNames x; clear_value x)
    | with_reducible refine ite_either ?_ ?_
    | with_reducible refine controlMsg_keeps ?_
    | with_reducible refine snd_ok (controlMsg_keeps ?_)
    | with_reducible refine pldmMsg_keeps ?_
    | with_reducible refine snd_ok (pldmMsg_keeps ?_)
    | with_reducible refine spdmMsg_keeps ?_
    | with_reducible refine snd_ok (spdmMsg_keeps ?_)
    | with_reducible refine vendorMsg_keeps ?_
    | with_reducible refine snd_ok (vendorMsg_keeps ?_)
    | with_reducible refine PairOk.of ?_ (by assumption)
    | split
    | with_reducible refine PairOk.mk ?_

theorem mgmtHere_keeps {a1} {s : State} (h : StoreInv s) :
    StoreInv (mgmtHere a1 s) := by
  unfold mgmtHere
  repeat' first
    | with_reducible assumption
    | (extract_lets +onlyGivenNames x; clear_value (e : x = _); with_reducible refine bound_state e ?_ (fun _ => ?_))
    | (extract_lets +onlyGivenNames x; clear_value x)
    | with_reducible refine ite_either ?_ ?_
    | with_reducible refine forEach_ok (fun _ _ _ => ?_) ?_
    | with_reducible refine modMp_same rfl rfl rfl rfl rfl rfl rfl ?_
    | with_reducible refine serveMsg_keeps ?_
    | with_reducible refine snd_ok (serveMsg_keeps ?_)
    | with_reducible refine forward_keeps ?_
    | with_reducible refine PairOk.of ?_ (by assumption)
    | fail_if_no_progress with_reducible refine of_fields ?_
    | fail_if_no_progress with_reducible refine of_fields_mp rfl rfl rfl rfl rfl rfl rfl ?_
    | split

theorem mgmtIn_keeps {a1} {a2} {s : State} (h : StoreInv s) :
    StoreInv (mgmtIn a1 a2 s) := by
  unfold mgmtIn
  repeat' first
    | with_reducible assumption
    | with_reducible refine routedIn_keeps (fun _ _ => ?_) ?_
    | with_reducible refine mgmtHere_keeps ?_
    | with_reducible refine freeSlots_keeps ?_

theorem execMgmtPacketReceive_keeps {a1} {a2} {s : State} (h : StoreInv s) :
    ResOk (execMgmtPacketReceive a1 a2 s) := by
  unfold execMgmtPacketReceive
  repeat' first
    | with_reducible assumption
    | with_reducible refine powered_keeps ?_ ?_
    | with_reducible refine mgmtIn_keeps ?_

theorem execNegotiateAlgorithms_keeps {a1} {a2} {s : State} (h : StoreInv s) :
    ResOk (execNegotiateAlgorithms a1 a2 s) := by
  unfold execNegotiateAlgorithms
  repeat' first
    | with_reducible assumption
    | with_reducible refine powered_keeps ?_ ?_
    | with_reducible refine answer_keeps ?_
    | with_reducible refine assembled_keeps (fun _ _ => ?_) ?_
    | with_reducible refine snd_ok (assembled_keeps (fun _ _ => ?_) ?_)
    | with_reducible refine onSpdm_keeps (fun _ _ => ?_) ?_
    | with_reducible refine snd_ok (onSpdm_keeps (fun _ _ => ?_) ?_)
    | with_reducible refine spdmAlgs_keeps ?_

theorem opMctp_keeps {a1} {s : State} (h : StoreInv s) :
    StoreInv (opMctp a1 s) := by
  unfold opMctp
  repeat' first
    | with_reducible assumption
    | (extract_lets +onlyGivenNames x; clear_value x)
    | with_reducible refine ite_either ?_ ?_
    | with_reducible refine respond_keeps ?_
    | with_reducible refine modMp_same rfl rfl rfl rfl rfl rfl rfl ?_
    | with_reducible refine serveMsg_keeps ?_
    | with_reducible refine snd_ok (serveMsg_keeps ?_)
    | with_reducible refine PairOk.of ?_ (by assumption)
    | with_reducible refine modMp_poll rfl rfl rfl rfl rfl rfl rfl ?_
    | split

theorem execOpMctp_keeps {a1} {s : State} (h : StoreInv s) :
    ResOk (execOpMctp a1 s) := by
  unfold execOpMctp
  repeat' first
    | with_reducible assumption
    | with_reducible refine powered_keeps ?_ ?_
    | with_reducible refine opMctp_keeps ?_

theorem execPassComponentTable_keeps {a1} {a2} {s : State} (h : StoreInv s) :
    ResOk (execPassComponentTable a1 a2 s) := by
  unfold execPassComponentTable
  repeat' first
    | with_reducible assumption
    | with_reducible refine powered_keeps ?_ ?_
    | with_reducible refine answer_keeps ?_
    | with_reducible refine assembled_keeps (fun _ _ => ?_) ?_
    | with_reducible refine snd_ok (assembled_keeps (fun _ _ => ?_) ?_)
    | with_reducible refine onMctp_keeps (fun _ _ => ?_) ?_
    | with_reducible refine snd_ok (onMctp_keeps (fun _ _ => ?_) ?_)
    | with_reducible refine passComponent_keeps ?_

theorem execQueryDeviceIdentifiers_keeps {a1} {a2} {s : State} (h : StoreInv s) :
    ResOk (execQueryDeviceIdentifiers a1 a2 s) := by
  unfold execQueryDeviceIdentifiers
  repeat' first
    | with_reducible assumption
    | with_reducible refine powered_keeps ?_ ?_
    | with_reducible refine answer_keeps ?_
    | with_reducible refine assembled_keeps (fun _ _ => ?_) ?_
    | with_reducible refine snd_ok (assembled_keeps (fun _ _ => ?_) ?_)
    | with_reducible refine onMctp_keeps (fun _ _ => ?_) ?_
    | with_reducible refine snd_ok (onMctp_keeps (fun _ _ => ?_) ?_)
    | with_reducible refine deviceIds_keeps ?_

theorem execRequestUpdate_keeps {a1} {a2} {s : State} (h : StoreInv s) :
    ResOk (execRequestUpdate a1 a2 s) := by
  unfold execRequestUpdate
  repeat' first
    | with_reducible assumption
    | with_reducible refine powered_keeps ?_ ?_
    | with_reducible refine answer_keeps ?_
    | with_reducible refine assembled_keeps (fun _ _ => ?_) ?_
    | with_reducible refine snd_ok (assembled_keeps (fun _ _ => ?_) ?_)
    | with_reducible refine onMctp_keeps (fun _ _ => ?_) ?_
    | with_reducible refine snd_ok (onMctp_keeps (fun _ _ => ?_) ?_)
    | with_reducible refine requestUpdate_keeps ?_

theorem execServiceChallenge_keeps {a1} {a2} {s : State} (h : StoreInv s) :
    ResOk (execServiceChallenge a1 a2 s) := by
  unfold execServiceChallenge
  repeat' first
    | with_reducible assumption
    | with_reducible refine powered_keeps ?_ ?_
    | with_reducible refine answer_keeps ?_
    | with_reducible refine assembled_keeps (fun _ _ => ?_) ?_
    | with_reducible refine snd_ok (assembled_keeps (fun _ _ => ?_) ?_)
    | with_reducible refine serviceChallenge_keeps ?_

theorem execServiceRecord_keeps {a1} {a2} {s : State} (h : StoreInv s) :
    ResOk (execServiceRecord a1 a2 s) := by
  unfold execServiceRecord
  repeat' first
    | with_reducible assumption
    | with_reducible refine powered_keeps ?_ ?_
    | with_reducible refine answer_keeps ?_
    | with_reducible refine assembled_keeps (fun _ _ => ?_) ?_
    | with_reducible refine snd_ok (assembled_keeps (fun _ _ => ?_) ?_)
    | with_reducible refine serviceRecord_keeps ?_

theorem execSetConfig_keeps {a1} {a2} {s : State} (h : StoreInv s) :
    ResOk (execSetConfig a1 a2 s) := by
  unfold execSetConfig
  repeat' first
    | with_reducible assumption
    | with_reducible refine powered_keeps ?_ ?_
    | with_reducible refine answer_keeps ?_
    | with_reducible refine assembled_keeps (fun _ _ => ?_) ?_
    | with_reducible refine snd_ok (assembled_keeps (fun _ _ => ?_) ?_)
    | with_reducible refine setConfig_keeps ?_

theorem execSetEndpointId_keeps {a1} {a2} {s : State} (h : StoreInv s) :
    ResOk (execSetEndpointId a1 a2 s) := by
  unfold execSetEndpointId
  repeat' first
    | with_reducible assumption
    | with_reducible refine powered_keeps ?_ ?_
    | with_reducible refine answer_keeps ?_
    | with_reducible refine assembled_keeps (fun _ _ => ?_) ?_
    | with_reducible refine snd_ok (assembled_keeps (fun _ _ => ?_) ?_)
    | with_reducible refine onMctp_keeps (fun _ _ => ?_) ?_
    | with_reducible refine snd_ok (onMctp_keeps (fun _ _ => ?_) ?_)
    | with_reducible refine setEid_keeps ?_

theorem execSetEventReceiver_keeps {a1} {a2} {s : State} (h : StoreInv s) :
    ResOk (execSetEventReceiver a1 a2 s) := by
  unfold execSetEventReceiver
  repeat' first
    | with_reducible assumption
    | with_reducible refine powered_keeps ?_ ?_
    | with_reducible refine answer_keeps ?_
    | with_reducible refine assembled_keeps (fun _ _ => ?_) ?_
    | with_reducible refine snd_ok (assembled_keeps (fun _ _ => ?_) ?_)
    | with_reducible refine onMctp_keeps (fun _ _ => ?_) ?_
    | with_reducible refine snd_ok (onMctp_keeps (fun _ _ => ?_) ?_)
    | with_reducible refine setEventReceiver_keeps ?_

theorem execSetRoles_keeps {a1} {a2} {s : State} (h : StoreInv s) :
    ResOk (execSetRoles a1 a2 s) := by
  unfold execSetRoles
  repeat' first
    | with_reducible assumption
    | with_reducible refine powered_keeps ?_ ?_
    | with_reducible refine answer_keeps ?_
    | with_reducible refine assembled_keeps (fun _ _ => ?_) ?_
    | with_reducible refine snd_ok (assembled_keeps (fun _ _ => ?_) ?_)
    | with_reducible refine setRoles_keeps ?_

theorem execSetTime_keeps {a1} {a2} {s : State} (h : StoreInv s) :
    ResOk (execSetTime a1 a2 s) := by
  unfold execSetTime
  repeat' first
    | with_reducible assumption
    | with_reducible refine powered_keeps ?_ ?_
    | with_reducible refine answer_keeps ?_
    | with_reducible refine assembled_keeps (fun _ _ => ?_) ?_
    | with_reducible refine snd_ok (assembled_keeps (fun _ _ => ?_) ?_)
    | with_reducible refine setTime_keeps ?_

theorem execTakeOwnership_keeps {a1} {a2} {s : State} (h : StoreInv s) :
    ResOk (execTakeOwnership a1 a2 s) := by
  unfold execTakeOwnership
  repeat' first
    | with_reducible assumption
    | with_reducible refine powered_keeps ?_ ?_
    | with_reducible refine answer_keeps ?_
    | with_reducible refine assembled_keeps (fun _ _ => ?_) ?_
    | with_reducible refine snd_ok (assembled_keeps (fun _ _ => ?_) ?_)
    | with_reducible refine takeOwnership_keeps ?_

theorem execUpdateComponent_keeps {a1} {a2} {s : State} (h : StoreInv s) :
    ResOk (execUpdateComponent a1 a2 s) := by
  unfold execUpdateComponent
  repeat' first
    | with_reducible assumption
    | with_reducible refine powered_keeps ?_ ?_
    | with_reducible refine answer_keeps ?_
    | with_reducible refine assembled_keeps (fun _ _ => ?_) ?_
    | with_reducible refine snd_ok (assembled_keeps (fun _ _ => ?_) ?_)
    | with_reducible refine onMctp_keeps (fun _ _ => ?_) ?_
    | with_reducible refine snd_ok (onMctp_keeps (fun _ _ => ?_) ?_)
    | with_reducible refine updateComponent_keeps ?_

end Sys2Proof.Laws
end

