-- ==== Sys2Proof/Laws/KeepsPower.lean ====
section
/-!
SUPPORT. What Power.lean defines keeps the stores' invariant.
-/

namespace Sys2Proof.Laws

open Machine

theorem bootSlot_keeps {a1} {a2} {s : State} (h : StoreInv s) :
    StoreInv (bootSlot a1 a2 s) := by
  unfold bootSlot
  repeat' first
    | with_reducible assumption
    | (extract_lets +onlyGivenNames x; clear_value (e : x = _); with_reducible refine bound_state e ?_ (fun _ => ?_))
    | with_reducible refine ite_either ?_ ?_
    | with_reducible refine modMp_same rfl rfl rfl rfl rfl rfl rfl ?_
    | with_reducible refine log_keeps ?_
    | with_reducible refine modMp_setFw ?_

theorem bumpAll_keeps {s : State} (h : StoreInv s) :
    StoreInv (bumpAll s) := by
  unfold bumpAll
  repeat' first
    | with_reducible assumption
    | with_reducible refine foldl_ok (fun _ _ _ => ?_) ?_
    | with_reducible refine modMp_same rfl rfl rfl rfl rfl rfl rfl ?_

theorem chooseProfile_keeps {a1} {s : State} (h : StoreInv s) :
    StoreInv (chooseProfile a1 s) := by
  unfold chooseProfile
  repeat' first
    | with_reducible assumption
    | (extract_lets +onlyGivenNames x; clear_value (e : x = _); with_reducible refine bound_state e ?_ (fun _ => ?_))
    | (extract_lets +onlyGivenNames x; clear_value x)
    | with_reducible refine ite_either ?_ ?_
    | with_reducible refine log_keeps ?_
    | fail_if_no_progress with_reducible refine of_fields ?_

/-- OFF keeps what module flash holds. -/
theorem powerOff_keeps {a1} {s : State} (h : StoreInv s) : StoreInv (powerOff a1 s) := by
  obtain ⟨⟨_, _, a⟩, b, _, d, e, _, _, _⟩ := h
  refine ⟨⟨KV.wf_nil _, KV.wf_nil _, a⟩, b, ?_, d, e, ?_, ?_, ?_⟩
  · exact Nat.zero_le _
  · exact Nat.zero_le _
  · exact Nat.zero_le _
  · show (if s.mp.retired then 3 else 0) ≤ 3
    split <;> omega

theorem setVolt_keeps {a1} {s : State} (h : StoreInv s) :
    StoreInv (setVolt a1 s) := by
  unfold setVolt
  repeat' first
    | with_reducible assumption
    | (extract_lets +onlyGivenNames x; clear_value x)
    | with_reducible refine ite_either ?_ ?_
    | with_reducible refine modMp_same rfl rfl rfl rfl rfl rfl rfl ?_

theorem setVolts_keeps {s : State} (h : StoreInv s) :
    StoreInv (setVolts s) := by
  unfold setVolts
  repeat' first
    | with_reducible assumption
    | with_reducible refine forEach_ok (fun _ _ _ => ?_) ?_
    | with_reducible refine setVolt_keeps ?_

theorem flashPair_keeps {a1} {a2} {a3} {s : State} (fa3 : ∀ u, StoreInv u → StoreInv (a3 u)) (h : StoreInv s) :
    StoreInv (flashPair a1 a2 a3 s) := by
  unfold flashPair
  repeat' first
    | with_reducible assumption
    | with_reducible refine fa3 _ ?_
    | (extract_lets +onlyGivenNames x; clear_value (e : x = _); with_reducible refine bound_state e ?_ (fun _ => ?_))
    | with_reducible refine ite_either ?_ ?_
    | with_reducible refine log_keeps ?_
    | with_reducible refine modMp_same rfl rfl rfl rfl rfl rfl rfl ?_

theorem readFlash_keeps {a1} {s : State} (h : StoreInv s) :
    StoreInv (readFlash a1 s) := by
  unfold readFlash
  repeat' first
    | with_reducible assumption
    | (extract_lets +onlyGivenNames x; clear_value (e : x = _); with_reducible refine bound_state e ?_ (fun _ => ?_))
    | with_reducible refine ite_either ?_ ?_
    | with_reducible refine flashPair_keeps (fun _ _ => ?_) ?_
    | with_reducible refine modMp_same rfl rfl rfl rfl rfl rfl rfl ?_
    | with_reducible refine retire_keeps ?_
    | with_reducible refine log_keeps ?_
    | fail_if_no_progress with_reducible refine of_fields ?_

theorem enablePorts_keeps {s : State} (h : StoreInv s) :
    StoreInv (enablePorts s) := by
  unfold enablePorts
  repeat' first
    | with_reducible assumption
    | with_reducible refine forEach_ok (fun _ _ _ => ?_) ?_
    | with_reducible refine modPort_keeps ?_

theorem setHashKey_keeps {s : State} (h : StoreInv s) :
    StoreInv (setHashKey s) := by
  unfold setHashKey
  repeat' first
    | with_reducible assumption
    | (extract_lets +onlyGivenNames x; clear_value x)
    | with_reducible refine free_keeps ?_
    | with_reducible refine snd_ok (free_keeps ?_)
    | with_reducible refine PairOk.of ?_ (by assumption)
    | fail_if_no_progress with_reducible refine of_fields ?_
    | split

theorem stuckLines_keeps {a1} {s : State} (h : StoreInv s) :
    StoreInv (stuckLines a1 s) := by
  unfold stuckLines
  repeat' first
    | with_reducible assumption
    | (extract_lets +onlyGivenNames x; clear_value x)
    | with_reducible refine retire_keeps ?_
    | with_reducible refine unitEvent_keeps ?_
    | with_reducible refine stand_keeps ?_
    | split

theorem wakeTubs_keeps {s : State} (h : StoreInv s) :
    StoreInv (wakeTubs s) := by
  unfold wakeTubs
  repeat' first
    | with_reducible assumption
    | with_reducible refine bumpAll_keeps ?_
    | with_reducible refine poisonAll_keeps ?_
    | fail_if_no_progress with_reducible refine of_fields ?_
    | fail_if_no_progress with_reducible refine of_fields_mem (fun _ => KV.wf_nil _) id id ?_

theorem startUp_keeps {a1} {a2} {a3} {a4} {s : State} (h : StoreInv s) :
    StoreInv (startUp a1 a2 a3 a4 s) := by
  unfold startUp
  repeat' first
    | with_reducible assumption
    | (extract_lets +onlyGivenNames x; clear_value (e : x = _); with_reducible refine bound_state e ?_ (fun _ => ?_))
    | (extract_lets +onlyGivenNames x; clear_value x)
    | with_reducible refine ite_either ?_ ?_
    | with_reducible refine chooseProfile_keeps ?_
    | with_reducible refine setVolts_keeps ?_
    | with_reducible refine readFlash_keeps ?_
    | with_reducible refine modHamper_keeps ?_
    | with_reducible refine log_keeps ?_
    | with_reducible refine enablePorts_keeps ?_
    | with_reducible refine settleHealth_keeps ?_
    | with_reducible refine setHashKey_keeps ?_
    | with_reducible refine stuckLines_keeps ?_
    | with_reducible refine wakeTubs_keeps ?_
    | fail_if_no_progress with_reducible refine of_fields ?_

theorem coldStart_keeps {a1} {a2} {a3} {a4} {s : State} (h : StoreInv s) :
    StoreInv (coldStart a1 a2 a3 a4 s) := by
  unfold coldStart
  repeat' first
    | with_reducible assumption
    | (extract_lets +onlyGivenNames x; clear_value (e : x = _); with_reducible refine bound_state e ?_ (fun _ => ?_))
    | (extract_lets +onlyGivenNames x; clear_value x)
    | with_reducible refine ite_either ?_ ?_
    | with_reducible refine modMp_same rfl rfl rfl rfl rfl rfl rfl ?_
    | with_reducible refine powerOff_keeps ?_
    | with_reducible refine startUp_keeps ?_
    | with_reducible refine bootSlot_keeps ?_
    | fail_if_no_progress with_reducible refine of_fields ?_
    | fail_if_no_progress with_reducible refine of_fields_mp rfl rfl rfl rfl rfl rfl rfl ?_
    | split

theorem configRequest_keeps {s : State} (h : StoreInv s) :
    StoreInv (configRequest s) := by
  unfold configRequest
  repeat' first
    | with_reducible assumption
    | (extract_lets +onlyGivenNames x; clear_value x)
    | with_reducible refine ite_either ?_ ?_
    | fail_if_no_progress with_reducible refine of_fields ?_

theorem cpRestart_keeps {s : State} (h : StoreInv s) :
    StoreInv (cpRestart s) := by
  unfold cpRestart
  repeat' first
    | with_reducible assumption
    | (extract_lets +onlyGivenNames x; clear_value (e : x = _); with_reducible refine bound_state e ?_ (fun _ => ?_))
    | (extract_lets +onlyGivenNames x; clear_value x)
    | with_reducible refine ite_either ?_ ?_
    | with_reducible refine forEach_ok (fun _ _ _ => ?_) ?_
    | with_reducible refine removeCtx_keeps ?_
    | with_reducible refine drainAbort_keeps ?_
    | with_reducible refine abortAll_keeps ?_
    | with_reducible refine partitionClear_keeps ?_
    | with_reducible refine modMp_same rfl rfl rfl rfl rfl rfl rfl ?_
    | with_reducible refine modHamper_keeps ?_

theorem cpWatchdog_keeps {s : State} (h : StoreInv s) :
    StoreInv (cpWatchdog s) := by
  unfold cpWatchdog
  repeat' first
    | with_reducible assumption
    | (extract_lets +onlyGivenNames x; clear_value (e : x = _); with_reducible refine bound_state e ?_ (fun _ => ?_))
    | (extract_lets +onlyGivenNames x; clear_value x)
    | with_reducible refine ite_either ?_ ?_
    | with_reducible refine log_keeps ?_
    | with_reducible refine modHamper_keeps ?_
    | with_reducible refine cpFailed_keeps ?_
    | with_reducible refine modMp_same rfl rfl rfl rfl rfl rfl rfl ?_

theorem enterDoze_keeps {s : State} (h : StoreInv s) :
    StoreInv (enterDoze s) := by
  unfold enterDoze
  repeat' first
    | with_reducible assumption
    | (extract_lets +onlyGivenNames x; clear_value (e : x = _); with_reducible refine bound_state e ?_ (fun _ => ?_))
    | (extract_lets +onlyGivenNames x; clear_value x)
    | with_reducible refine ite_either ?_ ?_
    | with_reducible refine forEach_ok (fun _ _ _ => ?_) ?_
    | with_reducible refine askKeeper_keeps ?_
    | with_reducible refine modPort_keeps ?_
    | fail_if_no_progress with_reducible refine of_fields ?_
    | fail_if_no_progress with_reducible refine of_fields_mem (fun _ => KV.wf_nil _) id id ?_

theorem execColdStart_keeps {a1} {a2} {a3} {a4} {s : State} (h : StoreInv s) :
    ResOk (execColdStart a1 a2 a3 a4 s) := by
  unfold execColdStart
  repeat' first
    | with_reducible assumption
    | with_reducible refine effectOf_keeps ?_ ?_
    | with_reducible refine coldStart_keeps ?_
    | with_reducible refine ResOk.next ?_

theorem execCpRestart_keeps {s : State} (h : StoreInv s) :
    ResOk (execCpRestart s) := by
  unfold execCpRestart
  repeat' first
    | with_reducible assumption
    | with_reducible refine powered_keeps ?_ ?_
    | with_reducible refine cpRestart_keeps ?_

theorem execCpWatchdog_keeps {s : State} (h : StoreInv s) :
    ResOk (execCpWatchdog s) := by
  unfold execCpWatchdog
  repeat' first
    | with_reducible assumption
    | with_reducible refine powered_keeps ?_ ?_
    | with_reducible refine cpWatchdog_keeps ?_

theorem startHem_keeps {a1} {s : State} (h : StoreInv s) :
    StoreInv (startHem a1 s) := by
  unfold startHem
  repeat' first
    | with_reducible assumption
    | with_reducible refine forEach_ok (fun _ _ _ => ?_) ?_
    | with_reducible refine trigger_keeps ?_
    | with_reducible refine log_keeps ?_

theorem hamperReady_keeps {a1} {s : State} (h : StoreInv s) :
    StoreInv (hamperReady a1 s) := by
  unfold hamperReady
  repeat' first
    | with_reducible assumption
    | (extract_lets +onlyGivenNames x; clear_value (e : x = _); with_reducible refine bound_state e ?_ (fun _ => ?_))
    | (extract_lets +onlyGivenNames x; clear_value x)
    | with_reducible refine ite_either ?_ ?_
    | with_reducible refine forEach_ok (fun _ _ _ => ?_) ?_
    | with_reducible refine startHem_keeps ?_
    | with_reducible refine partitionClear_keeps ?_
    | with_reducible refine modHamper_keeps ?_
    | with_reducible refine modMp_same rfl rfl rfl rfl rfl rfl rfl ?_
    | with_reducible refine modMp_same (f := fun p => { p.setFw _ _ with beat := _ }) (by unfold Mp.setFw; split <;> rfl) (by unfold Mp.setFw; split <;> rfl) (by unfold Mp.setFw; split <;> rfl) (by unfold Mp.setFw; split <;> rfl) (by unfold Mp.setFw; split <;> rfl) (by unfold Mp.setFw; split <;> rfl) (by unfold Mp.setFw; split <;> rfl) ?_

theorem execHamperReady_keeps {a1} {s : State} (h : StoreInv s) :
    ResOk (execHamperReady a1 s) := by
  unfold execHamperReady
  repeat' first
    | with_reducible assumption
    | with_reducible refine powered_keeps ?_ ?_
    | with_reducible refine hamperReady_keeps ?_

theorem inputLow_keeps {s : State} (h : StoreInv s) :
    StoreInv (inputLow s) := by
  unfold inputLow
  repeat' first
    | with_reducible assumption
    | (extract_lets +onlyGivenNames x; clear_value (e : x = _); with_reducible refine bound_state e ?_ (fun _ => ?_))
    | (extract_lets +onlyGivenNames x; clear_value x)
    | with_reducible refine ite_either ?_ ?_
    | with_reducible refine log_keeps ?_
    | fail_if_no_progress with_reducible refine of_fields ?_

theorem execInputLowWarning_keeps {s : State} (h : StoreInv s) :
    ResOk (execInputLowWarning s) := by
  unfold execInputLowWarning
  repeat' first
    | with_reducible assumption
    | with_reducible refine powered_keeps ?_ ?_
    | with_reducible refine inputLow_keeps ?_

theorem faultOff_keeps {a1} {a2} {a3} {s : State} (h : StoreInv s) :
    StoreInv (faultOff a1 a2 a3 s) := by
  unfold faultOff
  repeat' first
    | with_reducible assumption
    | with_reducible refine powerOff_keeps ?_
    | with_reducible refine log_keeps ?_

theorem execInputOvercurrent_keeps {s : State} (h : StoreInv s) :
    ResOk (execInputOvercurrent s) := by
  unfold execInputOvercurrent
  repeat' first
    | with_reducible assumption
    | with_reducible refine powered_keeps ?_ ?_
    | with_reducible refine faultOff_keeps ?_

theorem execInputOvervoltage_keeps {s : State} (h : StoreInv s) :
    ResOk (execInputOvervoltage s) := by
  unfold execInputOvervoltage
  repeat' first
    | with_reducible assumption
    | with_reducible refine powered_keeps ?_ ?_
    | with_reducible refine faultOff_keeps ?_

theorem execInputUndervoltage_keeps {s : State} (h : StoreInv s) :
    ResOk (execInputUndervoltage s) := by
  unfold execInputUndervoltage
  repeat' first
    | with_reducible assumption
    | with_reducible refine powered_keeps ?_ ?_
    | with_reducible refine faultOff_keeps ?_

theorem execPcieConfigRequest_keeps {s : State} (h : StoreInv s) :
    ResOk (execPcieConfigRequest s) := by
  unfold execPcieConfigRequest
  repeat' first
    | with_reducible assumption
    | with_reducible refine powered_keeps ?_ ?_
    | with_reducible refine configRequest_keeps ?_

theorem execPerstDeassertion_keeps {s : State} (h : StoreInv s) :
    ResOk (execPerstDeassertion s) := by
  unfold execPerstDeassertion
  repeat' first
    | with_reducible assumption
    | (extract_lets +onlyGivenNames x; clear_value x)
    | fail_if_no_progress with_reducible refine of_fields ?_
    | with_reducible refine ResOk.next ?_

theorem perstReset_keeps {a1} {s : State} (h : StoreInv s) :
    StoreInv (perstReset a1 s) := by
  unfold perstReset
  repeat' first
    | with_reducible assumption
    | (extract_lets +onlyGivenNames x; clear_value (e : x = _); with_reducible refine bound_state e ?_ (fun _ => ?_))
    | (extract_lets +onlyGivenNames x; clear_value x)
    | with_reducible refine vfChange_keeps ?_
    | with_reducible refine flrPf_keeps ?_
    | fail_if_no_progress with_reducible refine of_fields ?_

theorem execPerstReset_keeps {a1} {s : State} (h : StoreInv s) :
    ResOk (execPerstReset a1 s) := by
  unfold execPerstReset
  repeat' first
    | with_reducible assumption
    | with_reducible refine effectOf_keeps ?_ ?_
    | with_reducible refine perstReset_keeps ?_
    | with_reducible refine ResOk.next ?_

theorem execPowerDown_keeps {s : State} (h : StoreInv s) :
    ResOk (execPowerDown s) := by
  unfold execPowerDown
  repeat' first
    | with_reducible assumption
    | with_reducible refine powered_keeps ?_ ?_
    | with_reducible refine powerOff_keeps ?_

theorem powerDoze_keeps {a1} {s : State} (h : StoreInv s) :
    StoreInv (powerDoze a1 s) := by
  unfold powerDoze
  repeat' first
    | with_reducible assumption
    | with_reducible refine ite_either ?_ ?_
    | with_reducible refine respond_keeps ?_
    | with_reducible refine enterDoze_keeps ?_
    | split

theorem execPowerDoze_keeps {a1} {s : State} (h : StoreInv s) :
    ResOk (execPowerDoze a1 s) := by
  unfold execPowerDoze
  repeat' first
    | with_reducible assumption
    | with_reducible refine powered_keeps ?_ ?_
    | with_reducible refine powerDoze_keeps ?_

theorem wake_keeps {a1} {a2} {s : State} (h : StoreInv s) :
    StoreInv (wake a1 a2 s) := by
  unfold wake
  repeat' first
    | with_reducible assumption
    | (extract_lets +onlyGivenNames x; clear_value (e : x = _); with_reducible refine bound_state e ?_ (fun _ => ?_))
    | (extract_lets +onlyGivenNames x; clear_value x)
    | with_reducible refine ite_either ?_ ?_
    | with_reducible refine forEach_ok (fun _ _ _ => ?_) ?_
    | with_reducible refine stuckLines_keeps ?_
    | with_reducible refine wakeTubs_keeps ?_
    | with_reducible refine startHem_keeps ?_
    | with_reducible refine partitionClear_keeps ?_
    | with_reducible refine askResume_keeps ?_
    | with_reducible refine modPort_keeps ?_
    | with_reducible refine sweepCtx_keeps ?_
    | fail_if_no_progress with_reducible refine of_fields ?_

theorem powerWake_keeps {a1} {a2} {a3} {s : State} (h : StoreInv s) :
    StoreInv (powerWake a1 a2 a3 s) := by
  unfold powerWake
  repeat' first
    | with_reducible assumption
    | with_reducible refine ite_either ?_ ?_
    | with_reducible refine respond_keeps ?_
    | with_reducible refine wake_keeps ?_
    | split

theorem execPowerWake_keeps {a1} {a2} {a3} {s : State} (h : StoreInv s) :
    ResOk (execPowerWake a1 a2 a3 s) := by
  unfold execPowerWake
  repeat' first
    | with_reducible assumption
    | with_reducible refine powered_keeps ?_ ?_
    | with_reducible refine powerWake_keeps ?_

theorem execRailFault_keeps {a1} {s : State} (h : StoreInv s) :
    ResOk (execRailFault a1 s) := by
  unfold execRailFault
  repeat' first
    | with_reducible assumption
    | with_reducible refine powered_keeps ?_ ?_
    | with_reducible refine faultOff_keeps ?_

theorem inputPower_keeps {a1} {s : State} (h : StoreInv s) :
    StoreInv (inputPower a1 s) := by
  unfold inputPower
  repeat' first
    | with_reducible assumption
    | (extract_lets +onlyGivenNames x; clear_value (e : x = _); with_reducible refine bound_state e ?_ (fun _ => ?_))
    | (extract_lets +onlyGivenNames x; clear_value x)
    | with_reducible refine ite_either ?_ ?_
    | with_reducible refine postDev_keeps ?_
    | with_reducible refine log_keeps ?_
    | fail_if_no_progress with_reducible refine of_fields ?_

theorem strokeEnergy_keeps {a1} {s : State} (h : StoreInv s) :
    StoreInv (strokeEnergy a1 s) := by
  unfold strokeEnergy
  repeat' first
    | with_reducible assumption
    | (extract_lets +onlyGivenNames x; clear_value (e : x = _); with_reducible refine bound_state e ?_ (fun _ => ?_))
    | (extract_lets +onlyGivenNames x; clear_value x)
    | with_reducible refine ite_either ?_ ?_
    | with_reducible refine log_keeps ?_
    | fail_if_no_progress with_reducible refine of_fields ?_

theorem thermal_keeps {a1} {a2} {s : State} (h : StoreInv s) :
    StoreInv (thermal a1 a2 s) := by
  unfold thermal
  repeat' first
    | with_reducible assumption
    | (extract_lets +onlyGivenNames x; clear_value (e : x = _); with_reducible refine bound_state e ?_ (fun _ => ?_))
    | (extract_lets +onlyGivenNames x; clear_value x)
    | with_reducible refine ite_either ?_ ?_
    | with_reducible refine platformEvent_keeps ?_
    | with_reducible refine log_keeps ?_
    | with_reducible refine postDev_keeps ?_
    | fail_if_no_progress with_reducible refine of_fields ?_
    | split

theorem sensorSample_keeps {a1} {a2} {s : State} (h : StoreInv s) :
    StoreInv (sensorSample a1 a2 s) := by
  unfold sensorSample
  repeat' first
    | with_reducible assumption
    | (extract_lets +onlyGivenNames x; clear_value (e : x = _); with_reducible refine bound_state e ?_ (fun _ => ?_))
    | (extract_lets +onlyGivenNames x; clear_value x)
    | with_reducible refine ite_either ?_ ?_
    | with_reducible refine modMp_same rfl rfl rfl rfl rfl rfl rfl ?_
    | with_reducible refine setVolt_keeps ?_
    | with_reducible refine inputPower_keeps ?_
    | with_reducible refine strokeEnergy_keeps ?_
    | with_reducible refine thermal_keeps ?_
    | fail_if_no_progress with_reducible refine of_fields ?_

theorem execSensorSample_keeps {a1} {a2} {s : State} (h : StoreInv s) :
    ResOk (execSensorSample a1 a2 s) := by
  unfold execSensorSample
  repeat' first
    | with_reducible assumption
    | with_reducible refine powered_keeps ?_ ?_
    | with_reducible refine sensorSample_keeps ?_

theorem execThermCritTimeout_keeps {a1} {s : State} (h : StoreInv s) :
    ResOk (execThermCritTimeout a1 s) := by
  unfold execThermCritTimeout
  repeat' first
    | with_reducible assumption
    | with_reducible refine ite_either ?_ ?_
    | with_reducible refine powered_keeps ?_ ?_
    | with_reducible refine powerOff_keeps ?_

theorem execThermtrip_keeps {s : State} (h : StoreInv s) :
    ResOk (execThermtrip s) := by
  unfold execThermtrip
  repeat' first
    | with_reducible assumption
    | with_reducible refine powered_keeps ?_ ?_
    | with_reducible refine faultOff_keeps ?_

end Sys2Proof.Laws
end

