-- ==== Sys2Proof/Laws/KeepsRegisters.lean ====
section
/-!
SUPPORT. What Registers.lean defines keeps the stores' invariant.
-/

namespace Sys2Proof.Laws

open Machine

theorem pageWrite_keeps {a1} {a2} {a3} {a4} {s : State} (h : StoreInv s) :
    StoreInv (pageWrite a1 a2 a3 a4 s) := by
  unfold pageWrite
  repeat' first
    | with_reducible assumption
    | with_reducible refine ite_either ?_ ?_
    | with_reducible refine modMbx_keeps ?_
    | with_reducible refine sealWrite_keeps ?_
    | with_reducible refine evtTailWrite_keeps ?_
    | with_reducible refine feedPost_keeps ?_

theorem registerWrite_keeps {a1} {a2} {a3} {a4} {s : State} (h : StoreInv s) :
    ResOk (registerWrite a1 a2 a3 a4 s) := by
  unfold registerWrite
  repeat' first
    | with_reducible assumption
    | with_reducible refine effectOf_keeps ?_ ?_
    | with_reducible refine pageWrite_keeps ?_
    | split
    | with_reducible refine ResOk.next ?_
    | with_reducible refine ResOk.fault

theorem execRegisterWrite_keeps {a1} {a2} {a3} {a4} {s : State} (h : StoreInv s) :
    ResOk (execRegisterWrite a1 a2 a3 a4 s) := by
  unfold execRegisterWrite
  repeat' first
    | with_reducible assumption
    | with_reducible refine ite_either ?_ ?_
    | with_reducible refine registerWrite_keeps ?_
    | with_reducible refine ResOk.next ?_

theorem indexLoRead_keeps {a1} {s : State} (h : StoreInv s) :
    StoreInv (indexLoRead a1 s) := by
  unfold indexLoRead
  repeat' first
    | with_reducible assumption
    | (extract_lets +onlyGivenNames x; clear_value (e : x = _); with_reducible refine bound_state e ?_ (fun _ => ?_))
    | with_reducible refine modSlot_keeps ?_
    | fail_if_no_progress with_reducible refine of_fields ?_

theorem execStkCtxIndexLoRead_keeps {a1} {s : State} (h : StoreInv s) :
    ResOk (execStkCtxIndexLoRead a1 s) := by
  unfold execStkCtxIndexLoRead
  repeat' first
    | with_reducible assumption
    | with_reducible refine powered_keeps ?_ ?_
    | with_reducible refine indexLoRead_keeps ?_

theorem markLoRead_keeps {s : State} (h : StoreInv s) :
    StoreInv (markLoRead s) := by
  unfold markLoRead
  repeat' first
    | with_reducible assumption
    | (extract_lets +onlyGivenNames x; clear_value (e : x = _); with_reducible refine bound_state e ?_ (fun _ => ?_))
    | with_reducible refine modStroke_keeps ?_
    | fail_if_no_progress with_reducible refine of_fields ?_

theorem execStkMarkLoRead_keeps {s : State} (h : StoreInv s) :
    ResOk (execStkMarkLoRead s) := by
  unfold execStkMarkLoRead
  repeat' first
    | with_reducible assumption
    | with_reducible refine powered_keeps ?_ ?_
    | with_reducible refine markLoRead_keeps ?_

theorem faultLoRead_keeps {a1} {s : State} (h : StoreInv s) :
    StoreInv (faultLoRead a1 s) := by
  unfold faultLoRead
  repeat' first
    | with_reducible assumption
    | (extract_lets +onlyGivenNames x; clear_value (e : x = _); with_reducible refine bound_state e ?_ (fun _ => ?_))
    | with_reducible refine modSlot_keeps ?_
    | fail_if_no_progress with_reducible refine of_fields ?_

theorem execStrCtxFaultLoRead_keeps {a1} {s : State} (h : StoreInv s) :
    ResOk (execStrCtxFaultLoRead a1 s) := by
  unfold execStrCtxFaultLoRead
  repeat' first
    | with_reducible assumption
    | with_reducible refine powered_keeps ?_ ?_
    | with_reducible refine faultLoRead_keeps ?_

end Sys2Proof.Laws
end

