-- ==== Sys2Proof/Laws/KeepsTick.lean ====
section
/-!
SUPPORT. What Tick.lean defines keeps the stores' invariant.
-/

namespace Sys2Proof.Laws

open Machine

theorem tick_keeps {s : State} (h : StoreInv s) :
    StoreInv (tick s) := by
  unfold tick
  repeat' first
    | with_reducible assumption
    | (extract_lets +onlyGivenNames x; clear_value (e : x = _); with_reducible refine bound_state e ?_ (fun _ => ?_))
    | with_reducible refine ite_either ?_ ?_
    | with_reducible refine lossTick_keeps ?_
    | with_reducible refine clearTick_keeps ?_
    | with_reducible refine mangleTick_keeps ?_
    | with_reducible refine waitTick_keeps ?_
    | fail_if_no_progress with_reducible refine of_fields ?_

end Sys2Proof.Laws
end

