-- ==== Sys2Proof/Laws/State.lean ====
section
/-!
SUPPORT. What each named update of State leaves alone, one lemma for each other field, and what it makes of its own.
-/

namespace Sys2Proof.Laws

open Machine

/-! ### modSlot -/

@[simp] theorem modSlot_now (s : State) (c : Nat) (f : Ctx → Ctx) : (s.modSlot c f).now = s.now := rfl
@[simp] theorem modSlot_pending (s : State) (c : Nat) (f : Ctx → Ctx) : (s.modSlot c f).pending = s.pending := rfl
@[simp] theorem modSlot_freeCtr (s : State) (c : Nat) (f : Ctx → Ctx) : (s.modSlot c f).freeCtr = s.freeCtr := rfl
@[simp] theorem modSlot_readData (s : State) (c : Nat) (f : Ctx → Ctx) : (s.modSlot c f).readData = s.readData := rfl
@[simp] theorem modSlot_fuses (s : State) (c : Nat) (f : Ctx → Ctx) : (s.modSlot c f).fuses = s.fuses := rfl
@[simp] theorem modSlot_straps (s : State) (c : Nat) (f : Ctx → Ctx) : (s.modSlot c f).straps = s.straps := rfl
@[simp] theorem modSlot_hamper (s : State) (c : Nat) (f : Ctx → Ctx) : (s.modSlot c f).hamper = s.hamper := rfl
@[simp] theorem modSlot_stroke (s : State) (c : Nat) (f : Ctx → Ctx) : (s.modSlot c f).stroke = s.stroke := rfl
@[simp] theorem modSlot_tub (s : State) (c : Nat) (f : Ctx → Ctx) : (s.modSlot c f).tub = s.tub := rfl
@[simp] theorem modSlot_vunits (s : State) (c : Nat) (f : Ctx → Ctx) : (s.modSlot c f).vunits = s.vunits := rfl
@[simp] theorem modSlot_ftabs (s : State) (c : Nat) (f : Ctx → Ctx) : (s.modSlot c f).ftabs = s.ftabs := rfl
@[simp] theorem modSlot_bypass (s : State) (c : Nat) (f : Ctx → Ctx) : (s.modSlot c f).bypass = s.bypass := rfl
@[simp] theorem modSlot_mgl (s : State) (c : Nat) (f : Ctx → Ctx) : (s.modSlot c f).mgl = s.mgl := rfl
@[simp] theorem modSlot_seams (s : State) (c : Nat) (f : Ctx → Ctx) : (s.modSlot c f).seams = s.seams := rfl
@[simp] theorem modSlot_tasks (s : State) (c : Nat) (f : Ctx → Ctx) : (s.modSlot c f).tasks = s.tasks := rfl
@[simp] theorem modSlot_xcache (s : State) (c : Nat) (f : Ctx → Ctx) : (s.modSlot c f).xcache = s.xcache := rfl
@[simp] theorem modSlot_mem (s : State) (c : Nat) (f : Ctx → Ctx) : (s.modSlot c f).mem = s.mem := rfl
@[simp] theorem modSlot_prs (s : State) (c : Nat) (f : Ctx → Ctx) : (s.modSlot c f).prs = s.prs := rfl
@[simp] theorem modSlot_ghl (s : State) (c : Nat) (f : Ctx → Ctx) : (s.modSlot c f).ghl = s.ghl := rfl
@[simp] theorem modSlot_seqTab (s : State) (c : Nat) (f : Ctx → Ctx) : (s.modSlot c f).seqTab = s.seqTab := rfl
@[simp] theorem modSlot_str (s : State) (c : Nat) (f : Ctx → Ctx) : (s.modSlot c f).str = s.str := rfl
@[simp] theorem modSlot_mp (s : State) (c : Nat) (f : Ctx → Ctx) : (s.modSlot c f).mp = s.mp := rfl
@[simp] theorem modSlot_power (s : State) (c : Nat) (f : Ctx → Ctx) : (s.modSlot c f).power = s.power := rfl
@[simp] theorem modSlot_tubMem (s : State) (c : Nat) (f : Ctx → Ctx) : (s.modSlot c f).tubMem = s.tubMem := rfl
@[simp] theorem modSlot_stackMem (s : State) (c : Nat) (f : Ctx → Ctx) : (s.modSlot c f).stackMem = s.stackMem := rfl
@[simp] theorem modSlot_hostMem (s : State) (c : Nat) (f : Ctx → Ctx) : (s.modSlot c f).hostMem = s.hostMem := rfl
@[simp] theorem modSlot_hostErr (s : State) (c : Nat) (f : Ctx → Ctx) : (s.modSlot c f).hostErr = s.hostErr := rfl

/-! ### modMbx -/

@[simp] theorem modMbx_now (s : State) (m : Nat) (f : Mailbox → Mailbox) : (s.modMbx m f).now = s.now := rfl
@[simp] theorem modMbx_pending (s : State) (m : Nat) (f : Mailbox → Mailbox) : (s.modMbx m f).pending = s.pending := rfl
@[simp] theorem modMbx_freeCtr (s : State) (m : Nat) (f : Mailbox → Mailbox) : (s.modMbx m f).freeCtr = s.freeCtr := rfl
@[simp] theorem modMbx_readData (s : State) (m : Nat) (f : Mailbox → Mailbox) : (s.modMbx m f).readData = s.readData := rfl
@[simp] theorem modMbx_fuses (s : State) (m : Nat) (f : Mailbox → Mailbox) : (s.modMbx m f).fuses = s.fuses := rfl
@[simp] theorem modMbx_straps (s : State) (m : Nat) (f : Mailbox → Mailbox) : (s.modMbx m f).straps = s.straps := rfl
@[simp] theorem modMbx_stroke (s : State) (m : Nat) (f : Mailbox → Mailbox) : (s.modMbx m f).stroke = s.stroke := rfl
@[simp] theorem modMbx_slots (s : State) (m : Nat) (f : Mailbox → Mailbox) : (s.modMbx m f).slots = s.slots := rfl
@[simp] theorem modMbx_tub (s : State) (m : Nat) (f : Mailbox → Mailbox) : (s.modMbx m f).tub = s.tub := rfl
@[simp] theorem modMbx_vunits (s : State) (m : Nat) (f : Mailbox → Mailbox) : (s.modMbx m f).vunits = s.vunits := rfl
@[simp] theorem modMbx_ftabs (s : State) (m : Nat) (f : Mailbox → Mailbox) : (s.modMbx m f).ftabs = s.ftabs := rfl
@[simp] theorem modMbx_bypass (s : State) (m : Nat) (f : Mailbox → Mailbox) : (s.modMbx m f).bypass = s.bypass := rfl
@[simp] theorem modMbx_mgl (s : State) (m : Nat) (f : Mailbox → Mailbox) : (s.modMbx m f).mgl = s.mgl := rfl
@[simp] theorem modMbx_seams (s : State) (m : Nat) (f : Mailbox → Mailbox) : (s.modMbx m f).seams = s.seams := rfl
@[simp] theorem modMbx_tasks (s : State) (m : Nat) (f : Mailbox → Mailbox) : (s.modMbx m f).tasks = s.tasks := rfl
@[simp] theorem modMbx_xcache (s : State) (m : Nat) (f : Mailbox → Mailbox) : (s.modMbx m f).xcache = s.xcache := rfl
@[simp] theorem modMbx_mem (s : State) (m : Nat) (f : Mailbox → Mailbox) : (s.modMbx m f).mem = s.mem := rfl
@[simp] theorem modMbx_prs (s : State) (m : Nat) (f : Mailbox → Mailbox) : (s.modMbx m f).prs = s.prs := rfl
@[simp] theorem modMbx_ghl (s : State) (m : Nat) (f : Mailbox → Mailbox) : (s.modMbx m f).ghl = s.ghl := rfl
@[simp] theorem modMbx_seqTab (s : State) (m : Nat) (f : Mailbox → Mailbox) : (s.modMbx m f).seqTab = s.seqTab := rfl
@[simp] theorem modMbx_str (s : State) (m : Nat) (f : Mailbox → Mailbox) : (s.modMbx m f).str = s.str := rfl
@[simp] theorem modMbx_mp (s : State) (m : Nat) (f : Mailbox → Mailbox) : (s.modMbx m f).mp = s.mp := rfl
@[simp] theorem modMbx_power (s : State) (m : Nat) (f : Mailbox → Mailbox) : (s.modMbx m f).power = s.power := rfl
@[simp] theorem modMbx_tubMem (s : State) (m : Nat) (f : Mailbox → Mailbox) : (s.modMbx m f).tubMem = s.tubMem := rfl
@[simp] theorem modMbx_stackMem (s : State) (m : Nat) (f : Mailbox → Mailbox) : (s.modMbx m f).stackMem = s.stackMem := rfl
@[simp] theorem modMbx_hostMem (s : State) (m : Nat) (f : Mailbox → Mailbox) : (s.modMbx m f).hostMem = s.hostMem := rfl
@[simp] theorem modMbx_hostErr (s : State) (m : Nat) (f : Mailbox → Mailbox) : (s.modMbx m f).hostErr = s.hostErr := rfl

/-! ### modHamper -/

@[simp] theorem modHamper_now (s : State) (f : Hamper → Hamper) : (s.modHamper f).now = s.now := rfl
@[simp] theorem modHamper_pending (s : State) (f : Hamper → Hamper) : (s.modHamper f).pending = s.pending := rfl
@[simp] theorem modHamper_freeCtr (s : State) (f : Hamper → Hamper) : (s.modHamper f).freeCtr = s.freeCtr := rfl
@[simp] theorem modHamper_readData (s : State) (f : Hamper → Hamper) : (s.modHamper f).readData = s.readData := rfl
@[simp] theorem modHamper_fuses (s : State) (f : Hamper → Hamper) : (s.modHamper f).fuses = s.fuses := rfl
@[simp] theorem modHamper_straps (s : State) (f : Hamper → Hamper) : (s.modHamper f).straps = s.straps := rfl
@[simp] theorem modHamper_stroke (s : State) (f : Hamper → Hamper) : (s.modHamper f).stroke = s.stroke := rfl
@[simp] theorem modHamper_slots (s : State) (f : Hamper → Hamper) : (s.modHamper f).slots = s.slots := rfl
@[simp] theorem modHamper_tub (s : State) (f : Hamper → Hamper) : (s.modHamper f).tub = s.tub := rfl
@[simp] theorem modHamper_vunits (s : State) (f : Hamper → Hamper) : (s.modHamper f).vunits = s.vunits := rfl
@[simp] theorem modHamper_ftabs (s : State) (f : Hamper → Hamper) : (s.modHamper f).ftabs = s.ftabs := rfl
@[simp] theorem modHamper_bypass (s : State) (f : Hamper → Hamper) : (s.modHamper f).bypass = s.bypass := rfl
@[simp] theorem modHamper_mgl (s : State) (f : Hamper → Hamper) : (s.modHamper f).mgl = s.mgl := rfl
@[simp] theorem modHamper_seams (s : State) (f : Hamper → Hamper) : (s.modHamper f).seams = s.seams := rfl
@[simp] theorem modHamper_tasks (s : State) (f : Hamper → Hamper) : (s.modHamper f).tasks = s.tasks := rfl
@[simp] theorem modHamper_xcache (s : State) (f : Hamper → Hamper) : (s.modHamper f).xcache = s.xcache := rfl
@[simp] theorem modHamper_mem (s : State) (f : Hamper → Hamper) : (s.modHamper f).mem = s.mem := rfl
@[simp] theorem modHamper_prs (s : State) (f : Hamper → Hamper) : (s.modHamper f).prs = s.prs := rfl
@[simp] theorem modHamper_ghl (s : State) (f : Hamper → Hamper) : (s.modHamper f).ghl = s.ghl := rfl
@[simp] theorem modHamper_seqTab (s : State) (f : Hamper → Hamper) : (s.modHamper f).seqTab = s.seqTab := rfl
@[simp] theorem modHamper_str (s : State) (f : Hamper → Hamper) : (s.modHamper f).str = s.str := rfl
@[simp] theorem modHamper_mp (s : State) (f : Hamper → Hamper) : (s.modHamper f).mp = s.mp := rfl
@[simp] theorem modHamper_power (s : State) (f : Hamper → Hamper) : (s.modHamper f).power = s.power := rfl
@[simp] theorem modHamper_tubMem (s : State) (f : Hamper → Hamper) : (s.modHamper f).tubMem = s.tubMem := rfl
@[simp] theorem modHamper_stackMem (s : State) (f : Hamper → Hamper) : (s.modHamper f).stackMem = s.stackMem := rfl
@[simp] theorem modHamper_hostMem (s : State) (f : Hamper → Hamper) : (s.modHamper f).hostMem = s.hostMem := rfl
@[simp] theorem modHamper_hostErr (s : State) (f : Hamper → Hamper) : (s.modHamper f).hostErr = s.hostErr := rfl

/-! ### modStroke -/

@[simp] theorem modStroke_now (s : State) (f : Stroke → Stroke) : (s.modStroke f).now = s.now := rfl
@[simp] theorem modStroke_pending (s : State) (f : Stroke → Stroke) : (s.modStroke f).pending = s.pending := rfl
@[simp] theorem modStroke_freeCtr (s : State) (f : Stroke → Stroke) : (s.modStroke f).freeCtr = s.freeCtr := rfl
@[simp] theorem modStroke_readData (s : State) (f : Stroke → Stroke) : (s.modStroke f).readData = s.readData := rfl
@[simp] theorem modStroke_fuses (s : State) (f : Stroke → Stroke) : (s.modStroke f).fuses = s.fuses := rfl
@[simp] theorem modStroke_straps (s : State) (f : Stroke → Stroke) : (s.modStroke f).straps = s.straps := rfl
@[simp] theorem modStroke_hamper (s : State) (f : Stroke → Stroke) : (s.modStroke f).hamper = s.hamper := rfl
@[simp] theorem modStroke_slots (s : State) (f : Stroke → Stroke) : (s.modStroke f).slots = s.slots := rfl
@[simp] theorem modStroke_tub (s : State) (f : Stroke → Stroke) : (s.modStroke f).tub = s.tub := rfl
@[simp] theorem modStroke_vunits (s : State) (f : Stroke → Stroke) : (s.modStroke f).vunits = s.vunits := rfl
@[simp] theorem modStroke_ftabs (s : State) (f : Stroke → Stroke) : (s.modStroke f).ftabs = s.ftabs := rfl
@[simp] theorem modStroke_bypass (s : State) (f : Stroke → Stroke) : (s.modStroke f).bypass = s.bypass := rfl
@[simp] theorem modStroke_mgl (s : State) (f : Stroke → Stroke) : (s.modStroke f).mgl = s.mgl := rfl
@[simp] theorem modStroke_seams (s : State) (f : Stroke → Stroke) : (s.modStroke f).seams = s.seams := rfl
@[simp] theorem modStroke_tasks (s : State) (f : Stroke → Stroke) : (s.modStroke f).tasks = s.tasks := rfl
@[simp] theorem modStroke_xcache (s : State) (f : Stroke → Stroke) : (s.modStroke f).xcache = s.xcache := rfl
@[simp] theorem modStroke_mem (s : State) (f : Stroke → Stroke) : (s.modStroke f).mem = s.mem := rfl
@[simp] theorem modStroke_prs (s : State) (f : Stroke → Stroke) : (s.modStroke f).prs = s.prs := rfl
@[simp] theorem modStroke_ghl (s : State) (f : Stroke → Stroke) : (s.modStroke f).ghl = s.ghl := rfl
@[simp] theorem modStroke_seqTab (s : State) (f : Stroke → Stroke) : (s.modStroke f).seqTab = s.seqTab := rfl
@[simp] theorem modStroke_str (s : State) (f : Stroke → Stroke) : (s.modStroke f).str = s.str := rfl
@[simp] theorem modStroke_mp (s : State) (f : Stroke → Stroke) : (s.modStroke f).mp = s.mp := rfl
@[simp] theorem modStroke_power (s : State) (f : Stroke → Stroke) : (s.modStroke f).power = s.power := rfl
@[simp] theorem modStroke_tubMem (s : State) (f : Stroke → Stroke) : (s.modStroke f).tubMem = s.tubMem := rfl
@[simp] theorem modStroke_stackMem (s : State) (f : Stroke → Stroke) : (s.modStroke f).stackMem = s.stackMem := rfl
@[simp] theorem modStroke_hostMem (s : State) (f : Stroke → Stroke) : (s.modStroke f).hostMem = s.hostMem := rfl
@[simp] theorem modStroke_hostErr (s : State) (f : Stroke → Stroke) : (s.modStroke f).hostErr = s.hostErr := rfl

/-! ### modMp -/

@[simp] theorem modMp_now (s : State) (f : Mp → Mp) : (s.modMp f).now = s.now := rfl
@[simp] theorem modMp_pending (s : State) (f : Mp → Mp) : (s.modMp f).pending = s.pending := rfl
@[simp] theorem modMp_freeCtr (s : State) (f : Mp → Mp) : (s.modMp f).freeCtr = s.freeCtr := rfl
@[simp] theorem modMp_readData (s : State) (f : Mp → Mp) : (s.modMp f).readData = s.readData := rfl
@[simp] theorem modMp_fuses (s : State) (f : Mp → Mp) : (s.modMp f).fuses = s.fuses := rfl
@[simp] theorem modMp_straps (s : State) (f : Mp → Mp) : (s.modMp f).straps = s.straps := rfl
@[simp] theorem modMp_hamper (s : State) (f : Mp → Mp) : (s.modMp f).hamper = s.hamper := rfl
@[simp] theorem modMp_stroke (s : State) (f : Mp → Mp) : (s.modMp f).stroke = s.stroke := rfl
@[simp] theorem modMp_slots (s : State) (f : Mp → Mp) : (s.modMp f).slots = s.slots := rfl
@[simp] theorem modMp_tub (s : State) (f : Mp → Mp) : (s.modMp f).tub = s.tub := rfl
@[simp] theorem modMp_vunits (s : State) (f : Mp → Mp) : (s.modMp f).vunits = s.vunits := rfl
@[simp] theorem modMp_ftabs (s : State) (f : Mp → Mp) : (s.modMp f).ftabs = s.ftabs := rfl
@[simp] theorem modMp_bypass (s : State) (f : Mp → Mp) : (s.modMp f).bypass = s.bypass := rfl
@[simp] theorem modMp_mgl (s : State) (f : Mp → Mp) : (s.modMp f).mgl = s.mgl := rfl
@[simp] theorem modMp_seams (s : State) (f : Mp → Mp) : (s.modMp f).seams = s.seams := rfl
@[simp] theorem modMp_tasks (s : State) (f : Mp → Mp) : (s.modMp f).tasks = s.tasks := rfl
@[simp] theorem modMp_xcache (s : State) (f : Mp → Mp) : (s.modMp f).xcache = s.xcache := rfl
@[simp] theorem modMp_mem (s : State) (f : Mp → Mp) : (s.modMp f).mem = s.mem := rfl
@[simp] theorem modMp_prs (s : State) (f : Mp → Mp) : (s.modMp f).prs = s.prs := rfl
@[simp] theorem modMp_ghl (s : State) (f : Mp → Mp) : (s.modMp f).ghl = s.ghl := rfl
@[simp] theorem modMp_seqTab (s : State) (f : Mp → Mp) : (s.modMp f).seqTab = s.seqTab := rfl
@[simp] theorem modMp_str (s : State) (f : Mp → Mp) : (s.modMp f).str = s.str := rfl
@[simp] theorem modMp_power (s : State) (f : Mp → Mp) : (s.modMp f).power = s.power := rfl
@[simp] theorem modMp_tubMem (s : State) (f : Mp → Mp) : (s.modMp f).tubMem = s.tubMem := rfl
@[simp] theorem modMp_stackMem (s : State) (f : Mp → Mp) : (s.modMp f).stackMem = s.stackMem := rfl
@[simp] theorem modMp_hostMem (s : State) (f : Mp → Mp) : (s.modMp f).hostMem = s.hostMem := rfl
@[simp] theorem modMp_hostErr (s : State) (f : Mp → Mp) : (s.modMp f).hostErr = s.hostErr := rfl

/-! ### modLine -/

@[simp] theorem modLine_now (s : State) (k : Nat) (f : LineRec → LineRec) : (s.modLine k f).now = s.now := rfl
@[simp] theorem modLine_pending (s : State) (k : Nat) (f : LineRec → LineRec) : (s.modLine k f).pending = s.pending := rfl
@[simp] theorem modLine_freeCtr (s : State) (k : Nat) (f : LineRec → LineRec) : (s.modLine k f).freeCtr = s.freeCtr := rfl
@[simp] theorem modLine_readData (s : State) (k : Nat) (f : LineRec → LineRec) : (s.modLine k f).readData = s.readData := rfl
@[simp] theorem modLine_fuses (s : State) (k : Nat) (f : LineRec → LineRec) : (s.modLine k f).fuses = s.fuses := rfl
@[simp] theorem modLine_straps (s : State) (k : Nat) (f : LineRec → LineRec) : (s.modLine k f).straps = s.straps := rfl
@[simp] theorem modLine_hamper (s : State) (k : Nat) (f : LineRec → LineRec) : (s.modLine k f).hamper = s.hamper := rfl
@[simp] theorem modLine_stroke (s : State) (k : Nat) (f : LineRec → LineRec) : (s.modLine k f).stroke = s.stroke := rfl
@[simp] theorem modLine_slots (s : State) (k : Nat) (f : LineRec → LineRec) : (s.modLine k f).slots = s.slots := rfl
@[simp] theorem modLine_vunits (s : State) (k : Nat) (f : LineRec → LineRec) : (s.modLine k f).vunits = s.vunits := rfl
@[simp] theorem modLine_ftabs (s : State) (k : Nat) (f : LineRec → LineRec) : (s.modLine k f).ftabs = s.ftabs := rfl
@[simp] theorem modLine_bypass (s : State) (k : Nat) (f : LineRec → LineRec) : (s.modLine k f).bypass = s.bypass := rfl
@[simp] theorem modLine_mgl (s : State) (k : Nat) (f : LineRec → LineRec) : (s.modLine k f).mgl = s.mgl := rfl
@[simp] theorem modLine_seams (s : State) (k : Nat) (f : LineRec → LineRec) : (s.modLine k f).seams = s.seams := rfl
@[simp] theorem modLine_tasks (s : State) (k : Nat) (f : LineRec → LineRec) : (s.modLine k f).tasks = s.tasks := rfl
@[simp] theorem modLine_xcache (s : State) (k : Nat) (f : LineRec → LineRec) : (s.modLine k f).xcache = s.xcache := rfl
@[simp] theorem modLine_mem (s : State) (k : Nat) (f : LineRec → LineRec) : (s.modLine k f).mem = s.mem := rfl
@[simp] theorem modLine_prs (s : State) (k : Nat) (f : LineRec → LineRec) : (s.modLine k f).prs = s.prs := rfl
@[simp] theorem modLine_ghl (s : State) (k : Nat) (f : LineRec → LineRec) : (s.modLine k f).ghl = s.ghl := rfl
@[simp] theorem modLine_seqTab (s : State) (k : Nat) (f : LineRec → LineRec) : (s.modLine k f).seqTab = s.seqTab := rfl
@[simp] theorem modLine_str (s : State) (k : Nat) (f : LineRec → LineRec) : (s.modLine k f).str = s.str := rfl
@[simp] theorem modLine_mp (s : State) (k : Nat) (f : LineRec → LineRec) : (s.modLine k f).mp = s.mp := rfl
@[simp] theorem modLine_power (s : State) (k : Nat) (f : LineRec → LineRec) : (s.modLine k f).power = s.power := rfl
@[simp] theorem modLine_tubMem (s : State) (k : Nat) (f : LineRec → LineRec) : (s.modLine k f).tubMem = s.tubMem := rfl
@[simp] theorem modLine_stackMem (s : State) (k : Nat) (f : LineRec → LineRec) : (s.modLine k f).stackMem = s.stackMem := rfl
@[simp] theorem modLine_hostMem (s : State) (k : Nat) (f : LineRec → LineRec) : (s.modLine k f).hostMem = s.hostMem := rfl
@[simp] theorem modLine_hostErr (s : State) (k : Nat) (f : LineRec → LineRec) : (s.modLine k f).hostErr = s.hostErr := rfl

/-! ### modVunit -/

@[simp] theorem modVunit_now (s : State) (t : Tile) (f : VUnit → VUnit) : (s.modVunit t f).now = s.now := rfl
@[simp] theorem modVunit_pending (s : State) (t : Tile) (f : VUnit → VUnit) : (s.modVunit t f).pending = s.pending := rfl
@[simp] theorem modVunit_freeCtr (s : State) (t : Tile) (f : VUnit → VUnit) : (s.modVunit t f).freeCtr = s.freeCtr := rfl
@[simp] theorem modVunit_readData (s : State) (t : Tile) (f : VUnit → VUnit) : (s.modVunit t f).readData = s.readData := rfl
@[simp] theorem modVunit_fuses (s : State) (t : Tile) (f : VUnit → VUnit) : (s.modVunit t f).fuses = s.fuses := rfl
@[simp] theorem modVunit_straps (s : State) (t : Tile) (f : VUnit → VUnit) : (s.modVunit t f).straps = s.straps := rfl
@[simp] theorem modVunit_hamper (s : State) (t : Tile) (f : VUnit → VUnit) : (s.modVunit t f).hamper = s.hamper := rfl
@[simp] theorem modVunit_stroke (s : State) (t : Tile) (f : VUnit → VUnit) : (s.modVunit t f).stroke = s.stroke := rfl
@[simp] theorem modVunit_slots (s : State) (t : Tile) (f : VUnit → VUnit) : (s.modVunit t f).slots = s.slots := rfl
@[simp] theorem modVunit_tub (s : State) (t : Tile) (f : VUnit → VUnit) : (s.modVunit t f).tub = s.tub := rfl
@[simp] theorem modVunit_ftabs (s : State) (t : Tile) (f : VUnit → VUnit) : (s.modVunit t f).ftabs = s.ftabs := rfl
@[simp] theorem modVunit_bypass (s : State) (t : Tile) (f : VUnit → VUnit) : (s.modVunit t f).bypass = s.bypass := rfl
@[simp] theorem modVunit_mgl (s : State) (t : Tile) (f : VUnit → VUnit) : (s.modVunit t f).mgl = s.mgl := rfl
@[simp] theorem modVunit_seams (s : State) (t : Tile) (f : VUnit → VUnit) : (s.modVunit t f).seams = s.seams := rfl
@[simp] theorem modVunit_tasks (s : State) (t : Tile) (f : VUnit → VUnit) : (s.modVunit t f).tasks = s.tasks := rfl
@[simp] theorem modVunit_xcache (s : State) (t : Tile) (f : VUnit → VUnit) : (s.modVunit t f).xcache = s.xcache := rfl
@[simp] theorem modVunit_mem (s : State) (t : Tile) (f : VUnit → VUnit) : (s.modVunit t f).mem = s.mem := rfl
@[simp] theorem modVunit_prs (s : State) (t : Tile) (f : VUnit → VUnit) : (s.modVunit t f).prs = s.prs := rfl
@[simp] theorem modVunit_ghl (s : State) (t : Tile) (f : VUnit → VUnit) : (s.modVunit t f).ghl = s.ghl := rfl
@[simp] theorem modVunit_seqTab (s : State) (t : Tile) (f : VUnit → VUnit) : (s.modVunit t f).seqTab = s.seqTab := rfl
@[simp] theorem modVunit_str (s : State) (t : Tile) (f : VUnit → VUnit) : (s.modVunit t f).str = s.str := rfl
@[simp] theorem modVunit_mp (s : State) (t : Tile) (f : VUnit → VUnit) : (s.modVunit t f).mp = s.mp := rfl
@[simp] theorem modVunit_power (s : State) (t : Tile) (f : VUnit → VUnit) : (s.modVunit t f).power = s.power := rfl
@[simp] theorem modVunit_tubMem (s : State) (t : Tile) (f : VUnit → VUnit) : (s.modVunit t f).tubMem = s.tubMem := rfl
@[simp] theorem modVunit_stackMem (s : State) (t : Tile) (f : VUnit → VUnit) : (s.modVunit t f).stackMem = s.stackMem := rfl
@[simp] theorem modVunit_hostMem (s : State) (t : Tile) (f : VUnit → VUnit) : (s.modVunit t f).hostMem = s.hostMem := rfl
@[simp] theorem modVunit_hostErr (s : State) (t : Tile) (f : VUnit → VUnit) : (s.modVunit t f).hostErr = s.hostErr := rfl

/-! ### modMgl -/

@[simp] theorem modMgl_now (s : State) (f : Mgl → Mgl) : (s.modMgl f).now = s.now := rfl
@[simp] theorem modMgl_pending (s : State) (f : Mgl → Mgl) : (s.modMgl f).pending = s.pending := rfl
@[simp] theorem modMgl_freeCtr (s : State) (f : Mgl → Mgl) : (s.modMgl f).freeCtr = s.freeCtr := rfl
@[simp] theorem modMgl_readData (s : State) (f : Mgl → Mgl) : (s.modMgl f).readData = s.readData := rfl
@[simp] theorem modMgl_fuses (s : State) (f : Mgl → Mgl) : (s.modMgl f).fuses = s.fuses := rfl
@[simp] theorem modMgl_straps (s : State) (f : Mgl → Mgl) : (s.modMgl f).straps = s.straps := rfl
@[simp] theorem modMgl_hamper (s : State) (f : Mgl → Mgl) : (s.modMgl f).hamper = s.hamper := rfl
@[simp] theorem modMgl_stroke (s : State) (f : Mgl → Mgl) : (s.modMgl f).stroke = s.stroke := rfl
@[simp] theorem modMgl_slots (s : State) (f : Mgl → Mgl) : (s.modMgl f).slots = s.slots := rfl
@[simp] theorem modMgl_tub (s : State) (f : Mgl → Mgl) : (s.modMgl f).tub = s.tub := rfl
@[simp] theorem modMgl_vunits (s : State) (f : Mgl → Mgl) : (s.modMgl f).vunits = s.vunits := rfl
@[simp] theorem modMgl_ftabs (s : State) (f : Mgl → Mgl) : (s.modMgl f).ftabs = s.ftabs := rfl
@[simp] theorem modMgl_bypass (s : State) (f : Mgl → Mgl) : (s.modMgl f).bypass = s.bypass := rfl
@[simp] theorem modMgl_seams (s : State) (f : Mgl → Mgl) : (s.modMgl f).seams = s.seams := rfl
@[simp] theorem modMgl_tasks (s : State) (f : Mgl → Mgl) : (s.modMgl f).tasks = s.tasks := rfl
@[simp] theorem modMgl_xcache (s : State) (f : Mgl → Mgl) : (s.modMgl f).xcache = s.xcache := rfl
@[simp] theorem modMgl_mem (s : State) (f : Mgl → Mgl) : (s.modMgl f).mem = s.mem := rfl
@[simp] theorem modMgl_prs (s : State) (f : Mgl → Mgl) : (s.modMgl f).prs = s.prs := rfl
@[simp] theorem modMgl_ghl (s : State) (f : Mgl → Mgl) : (s.modMgl f).ghl = s.ghl := rfl
@[simp] theorem modMgl_seqTab (s : State) (f : Mgl → Mgl) : (s.modMgl f).seqTab = s.seqTab := rfl
@[simp] theorem modMgl_str (s : State) (f : Mgl → Mgl) : (s.modMgl f).str = s.str := rfl
@[simp] theorem modMgl_mp (s : State) (f : Mgl → Mgl) : (s.modMgl f).mp = s.mp := rfl
@[simp] theorem modMgl_power (s : State) (f : Mgl → Mgl) : (s.modMgl f).power = s.power := rfl
@[simp] theorem modMgl_tubMem (s : State) (f : Mgl → Mgl) : (s.modMgl f).tubMem = s.tubMem := rfl
@[simp] theorem modMgl_stackMem (s : State) (f : Mgl → Mgl) : (s.modMgl f).stackMem = s.stackMem := rfl
@[simp] theorem modMgl_hostMem (s : State) (f : Mgl → Mgl) : (s.modMgl f).hostMem = s.hostMem := rfl
@[simp] theorem modMgl_hostErr (s : State) (f : Mgl → Mgl) : (s.modMgl f).hostErr = s.hostErr := rfl

/-! ### modGhl -/

@[simp] theorem modGhl_now (s : State) (f : Ghl → Ghl) : (s.modGhl f).now = s.now := rfl
@[simp] theorem modGhl_pending (s : State) (f : Ghl → Ghl) : (s.modGhl f).pending = s.pending := rfl
@[simp] theorem modGhl_freeCtr (s : State) (f : Ghl → Ghl) : (s.modGhl f).freeCtr = s.freeCtr := rfl
@[simp] theorem modGhl_readData (s : State) (f : Ghl → Ghl) : (s.modGhl f).readData = s.readData := rfl
@[simp] theorem modGhl_fuses (s : State) (f : Ghl → Ghl) : (s.modGhl f).fuses = s.fuses := rfl
@[simp] theorem modGhl_straps (s : State) (f : Ghl → Ghl) : (s.modGhl f).straps = s.straps := rfl
@[simp] theorem modGhl_hamper (s : State) (f : Ghl → Ghl) : (s.modGhl f).hamper = s.hamper := rfl
@[simp] theorem modGhl_stroke (s : State) (f : Ghl → Ghl) : (s.modGhl f).stroke = s.stroke := rfl
@[simp] theorem modGhl_slots (s : State) (f : Ghl → Ghl) : (s.modGhl f).slots = s.slots := rfl
@[simp] theorem modGhl_tub (s : State) (f : Ghl → Ghl) : (s.modGhl f).tub = s.tub := rfl
@[simp] theorem modGhl_vunits (s : State) (f : Ghl → Ghl) : (s.modGhl f).vunits = s.vunits := rfl
@[simp] theorem modGhl_ftabs (s : State) (f : Ghl → Ghl) : (s.modGhl f).ftabs = s.ftabs := rfl
@[simp] theorem modGhl_bypass (s : State) (f : Ghl → Ghl) : (s.modGhl f).bypass = s.bypass := rfl
@[simp] theorem modGhl_mgl (s : State) (f : Ghl → Ghl) : (s.modGhl f).mgl = s.mgl := rfl
@[simp] theorem modGhl_seams (s : State) (f : Ghl → Ghl) : (s.modGhl f).seams = s.seams := rfl
@[simp] theorem modGhl_tasks (s : State) (f : Ghl → Ghl) : (s.modGhl f).tasks = s.tasks := rfl
@[simp] theorem modGhl_xcache (s : State) (f : Ghl → Ghl) : (s.modGhl f).xcache = s.xcache := rfl
@[simp] theorem modGhl_mem (s : State) (f : Ghl → Ghl) : (s.modGhl f).mem = s.mem := rfl
@[simp] theorem modGhl_prs (s : State) (f : Ghl → Ghl) : (s.modGhl f).prs = s.prs := rfl
@[simp] theorem modGhl_seqTab (s : State) (f : Ghl → Ghl) : (s.modGhl f).seqTab = s.seqTab := rfl
@[simp] theorem modGhl_str (s : State) (f : Ghl → Ghl) : (s.modGhl f).str = s.str := rfl
@[simp] theorem modGhl_mp (s : State) (f : Ghl → Ghl) : (s.modGhl f).mp = s.mp := rfl
@[simp] theorem modGhl_power (s : State) (f : Ghl → Ghl) : (s.modGhl f).power = s.power := rfl
@[simp] theorem modGhl_tubMem (s : State) (f : Ghl → Ghl) : (s.modGhl f).tubMem = s.tubMem := rfl
@[simp] theorem modGhl_stackMem (s : State) (f : Ghl → Ghl) : (s.modGhl f).stackMem = s.stackMem := rfl
@[simp] theorem modGhl_hostMem (s : State) (f : Ghl → Ghl) : (s.modGhl f).hostMem = s.hostMem := rfl
@[simp] theorem modGhl_hostErr (s : State) (f : Ghl → Ghl) : (s.modGhl f).hostErr = s.hostErr := rfl

/-! ### modPort -/

@[simp] theorem modPort_now (s : State) (p : Nat) (f : GPort → GPort) : (s.modPort p f).now = s.now := rfl
@[simp] theorem modPort_pending (s : State) (p : Nat) (f : GPort → GPort) : (s.modPort p f).pending = s.pending := rfl
@[simp] theorem modPort_freeCtr (s : State) (p : Nat) (f : GPort → GPort) : (s.modPort p f).freeCtr = s.freeCtr := rfl
@[simp] theorem modPort_readData (s : State) (p : Nat) (f : GPort → GPort) : (s.modPort p f).readData = s.readData := rfl
@[simp] theorem modPort_fuses (s : State) (p : Nat) (f : GPort → GPort) : (s.modPort p f).fuses = s.fuses := rfl
@[simp] theorem modPort_straps (s : State) (p : Nat) (f : GPort → GPort) : (s.modPort p f).straps = s.straps := rfl
@[simp] theorem modPort_hamper (s : State) (p : Nat) (f : GPort → GPort) : (s.modPort p f).hamper = s.hamper := rfl
@[simp] theorem modPort_stroke (s : State) (p : Nat) (f : GPort → GPort) : (s.modPort p f).stroke = s.stroke := rfl
@[simp] theorem modPort_slots (s : State) (p : Nat) (f : GPort → GPort) : (s.modPort p f).slots = s.slots := rfl
@[simp] theorem modPort_tub (s : State) (p : Nat) (f : GPort → GPort) : (s.modPort p f).tub = s.tub := rfl
@[simp] theorem modPort_vunits (s : State) (p : Nat) (f : GPort → GPort) : (s.modPort p f).vunits = s.vunits := rfl
@[simp] theorem modPort_ftabs (s : State) (p : Nat) (f : GPort → GPort) : (s.modPort p f).ftabs = s.ftabs := rfl
@[simp] theorem modPort_bypass (s : State) (p : Nat) (f : GPort → GPort) : (s.modPort p f).bypass = s.bypass := rfl
@[simp] theorem modPort_mgl (s : State) (p : Nat) (f : GPort → GPort) : (s.modPort p f).mgl = s.mgl := rfl
@[simp] theorem modPort_seams (s : State) (p : Nat) (f : GPort → GPort) : (s.modPort p f).seams = s.seams := rfl
@[simp] theorem modPort_tasks (s : State) (p : Nat) (f : GPort → GPort) : (s.modPort p f).tasks = s.tasks := rfl
@[simp] theorem modPort_xcache (s : State) (p : Nat) (f : GPort → GPort) : (s.modPort p f).xcache = s.xcache := rfl
@[simp] theorem modPort_mem (s : State) (p : Nat) (f : GPort → GPort) : (s.modPort p f).mem = s.mem := rfl
@[simp] theorem modPort_prs (s : State) (p : Nat) (f : GPort → GPort) : (s.modPort p f).prs = s.prs := rfl
@[simp] theorem modPort_seqTab (s : State) (p : Nat) (f : GPort → GPort) : (s.modPort p f).seqTab = s.seqTab := rfl
@[simp] theorem modPort_str (s : State) (p : Nat) (f : GPort → GPort) : (s.modPort p f).str = s.str := rfl
@[simp] theorem modPort_mp (s : State) (p : Nat) (f : GPort → GPort) : (s.modPort p f).mp = s.mp := rfl
@[simp] theorem modPort_power (s : State) (p : Nat) (f : GPort → GPort) : (s.modPort p f).power = s.power := rfl
@[simp] theorem modPort_tubMem (s : State) (p : Nat) (f : GPort → GPort) : (s.modPort p f).tubMem = s.tubMem := rfl
@[simp] theorem modPort_stackMem (s : State) (p : Nat) (f : GPort → GPort) : (s.modPort p f).stackMem = s.stackMem := rfl
@[simp] theorem modPort_hostMem (s : State) (p : Nat) (f : GPort → GPort) : (s.modPort p f).hostMem = s.hostMem := rfl
@[simp] theorem modPort_hostErr (s : State) (p : Nat) (f : GPort → GPort) : (s.modPort p f).hostErr = s.hostErr := rfl

/-! ### modSeqEnt -/

@[simp] theorem modSeqEnt_now (s : State) (e : Nat) (f : SeqEnt → SeqEnt) : (s.modSeqEnt e f).now = s.now := rfl
@[simp] theorem modSeqEnt_pending (s : State) (e : Nat) (f : SeqEnt → SeqEnt) : (s.modSeqEnt e f).pending = s.pending := rfl
@[simp] theorem modSeqEnt_freeCtr (s : State) (e : Nat) (f : SeqEnt → SeqEnt) : (s.modSeqEnt e f).freeCtr = s.freeCtr := rfl
@[simp] theorem modSeqEnt_readData (s : State) (e : Nat) (f : SeqEnt → SeqEnt) : (s.modSeqEnt e f).readData = s.readData := rfl
@[simp] theorem modSeqEnt_fuses (s : State) (e : Nat) (f : SeqEnt → SeqEnt) : (s.modSeqEnt e f).fuses = s.fuses := rfl
@[simp] theorem modSeqEnt_straps (s : State) (e : Nat) (f : SeqEnt → SeqEnt) : (s.modSeqEnt e f).straps = s.straps := rfl
@[simp] theorem modSeqEnt_hamper (s : State) (e : Nat) (f : SeqEnt → SeqEnt) : (s.modSeqEnt e f).hamper = s.hamper := rfl
@[simp] theorem modSeqEnt_stroke (s : State) (e : Nat) (f : SeqEnt → SeqEnt) : (s.modSeqEnt e f).stroke = s.stroke := rfl
@[simp] theorem modSeqEnt_slots (s : State) (e : Nat) (f : SeqEnt → SeqEnt) : (s.modSeqEnt e f).slots = s.slots := rfl
@[simp] theorem modSeqEnt_tub (s : State) (e : Nat) (f : SeqEnt → SeqEnt) : (s.modSeqEnt e f).tub = s.tub := rfl
@[simp] theorem modSeqEnt_vunits (s : State) (e : Nat) (f : SeqEnt → SeqEnt) : (s.modSeqEnt e f).vunits = s.vunits := rfl
@[simp] theorem modSeqEnt_ftabs (s : State) (e : Nat) (f : SeqEnt → SeqEnt) : (s.modSeqEnt e f).ftabs = s.ftabs := rfl
@[simp] theorem modSeqEnt_bypass (s : State) (e : Nat) (f : SeqEnt → SeqEnt) : (s.modSeqEnt e f).bypass = s.bypass := rfl
@[simp] theorem modSeqEnt_mgl (s : State) (e : Nat) (f : SeqEnt → SeqEnt) : (s.modSeqEnt e f).mgl = s.mgl := rfl
@[simp] theorem modSeqEnt_seams (s : State) (e : Nat) (f : SeqEnt → SeqEnt) : (s.modSeqEnt e f).seams = s.seams := rfl
@[simp] theorem modSeqEnt_tasks (s : State) (e : Nat) (f : SeqEnt → SeqEnt) : (s.modSeqEnt e f).tasks = s.tasks := rfl
@[simp] theorem modSeqEnt_xcache (s : State) (e : Nat) (f : SeqEnt → SeqEnt) : (s.modSeqEnt e f).xcache = s.xcache := rfl
@[simp] theorem modSeqEnt_mem (s : State) (e : Nat) (f : SeqEnt → SeqEnt) : (s.modSeqEnt e f).mem = s.mem := rfl
@[simp] theorem modSeqEnt_prs (s : State) (e : Nat) (f : SeqEnt → SeqEnt) : (s.modSeqEnt e f).prs = s.prs := rfl
@[simp] theorem modSeqEnt_ghl (s : State) (e : Nat) (f : SeqEnt → SeqEnt) : (s.modSeqEnt e f).ghl = s.ghl := rfl
@[simp] theorem modSeqEnt_str (s : State) (e : Nat) (f : SeqEnt → SeqEnt) : (s.modSeqEnt e f).str = s.str := rfl
@[simp] theorem modSeqEnt_mp (s : State) (e : Nat) (f : SeqEnt → SeqEnt) : (s.modSeqEnt e f).mp = s.mp := rfl
@[simp] theorem modSeqEnt_power (s : State) (e : Nat) (f : SeqEnt → SeqEnt) : (s.modSeqEnt e f).power = s.power := rfl
@[simp] theorem modSeqEnt_tubMem (s : State) (e : Nat) (f : SeqEnt → SeqEnt) : (s.modSeqEnt e f).tubMem = s.tubMem := rfl
@[simp] theorem modSeqEnt_stackMem (s : State) (e : Nat) (f : SeqEnt → SeqEnt) : (s.modSeqEnt e f).stackMem = s.stackMem := rfl
@[simp] theorem modSeqEnt_hostMem (s : State) (e : Nat) (f : SeqEnt → SeqEnt) : (s.modSeqEnt e f).hostMem = s.hostMem := rfl
@[simp] theorem modSeqEnt_hostErr (s : State) (e : Nat) (f : SeqEnt → SeqEnt) : (s.modSeqEnt e f).hostErr = s.hostErr := rfl

/-! ### modPrs -/

@[simp] theorem modPrs_now (s : State) (f : PrsCtr → PrsCtr) : (s.modPrs f).now = s.now := rfl
@[simp] theorem modPrs_pending (s : State) (f : PrsCtr → PrsCtr) : (s.modPrs f).pending = s.pending := rfl
@[simp] theorem modPrs_freeCtr (s : State) (f : PrsCtr → PrsCtr) : (s.modPrs f).freeCtr = s.freeCtr := rfl
@[simp] theorem modPrs_readData (s : State) (f : PrsCtr → PrsCtr) : (s.modPrs f).readData = s.readData := rfl
@[simp] theorem modPrs_fuses (s : State) (f : PrsCtr → PrsCtr) : (s.modPrs f).fuses = s.fuses := rfl
@[simp] theorem modPrs_straps (s : State) (f : PrsCtr → PrsCtr) : (s.modPrs f).straps = s.straps := rfl
@[simp] theorem modPrs_hamper (s : State) (f : PrsCtr → PrsCtr) : (s.modPrs f).hamper = s.hamper := rfl
@[simp] theorem modPrs_stroke (s : State) (f : PrsCtr → PrsCtr) : (s.modPrs f).stroke = s.stroke := rfl
@[simp] theorem modPrs_slots (s : State) (f : PrsCtr → PrsCtr) : (s.modPrs f).slots = s.slots := rfl
@[simp] theorem modPrs_tub (s : State) (f : PrsCtr → PrsCtr) : (s.modPrs f).tub = s.tub := rfl
@[simp] theorem modPrs_vunits (s : State) (f : PrsCtr → PrsCtr) : (s.modPrs f).vunits = s.vunits := rfl
@[simp] theorem modPrs_ftabs (s : State) (f : PrsCtr → PrsCtr) : (s.modPrs f).ftabs = s.ftabs := rfl
@[simp] theorem modPrs_bypass (s : State) (f : PrsCtr → PrsCtr) : (s.modPrs f).bypass = s.bypass := rfl
@[simp] theorem modPrs_mgl (s : State) (f : PrsCtr → PrsCtr) : (s.modPrs f).mgl = s.mgl := rfl
@[simp] theorem modPrs_seams (s : State) (f : PrsCtr → PrsCtr) : (s.modPrs f).seams = s.seams := rfl
@[simp] theorem modPrs_tasks (s : State) (f : PrsCtr → PrsCtr) : (s.modPrs f).tasks = s.tasks := rfl
@[simp] theorem modPrs_xcache (s : State) (f : PrsCtr → PrsCtr) : (s.modPrs f).xcache = s.xcache := rfl
@[simp] theorem modPrs_mem (s : State) (f : PrsCtr → PrsCtr) : (s.modPrs f).mem = s.mem := rfl
@[simp] theorem modPrs_ghl (s : State) (f : PrsCtr → PrsCtr) : (s.modPrs f).ghl = s.ghl := rfl
@[simp] theorem modPrs_seqTab (s : State) (f : PrsCtr → PrsCtr) : (s.modPrs f).seqTab = s.seqTab := rfl
@[simp] theorem modPrs_str (s : State) (f : PrsCtr → PrsCtr) : (s.modPrs f).str = s.str := rfl
@[simp] theorem modPrs_mp (s : State) (f : PrsCtr → PrsCtr) : (s.modPrs f).mp = s.mp := rfl
@[simp] theorem modPrs_power (s : State) (f : PrsCtr → PrsCtr) : (s.modPrs f).power = s.power := rfl
@[simp] theorem modPrs_tubMem (s : State) (f : PrsCtr → PrsCtr) : (s.modPrs f).tubMem = s.tubMem := rfl
@[simp] theorem modPrs_stackMem (s : State) (f : PrsCtr → PrsCtr) : (s.modPrs f).stackMem = s.stackMem := rfl
@[simp] theorem modPrs_hostMem (s : State) (f : PrsCtr → PrsCtr) : (s.modPrs f).hostMem = s.hostMem := rfl
@[simp] theorem modPrs_hostErr (s : State) (f : PrsCtr → PrsCtr) : (s.modPrs f).hostErr = s.hostErr := rfl

/-! ### modTask -/

@[simp] theorem modTask_now (s : State) (t : StrTask) (f : StrTask → StrTask) : (s.modTask t f).now = s.now := rfl
@[simp] theorem modTask_pending (s : State) (t : StrTask) (f : StrTask → StrTask) : (s.modTask t f).pending = s.pending := rfl
@[simp] theorem modTask_freeCtr (s : State) (t : StrTask) (f : StrTask → StrTask) : (s.modTask t f).freeCtr = s.freeCtr := rfl
@[simp] theorem modTask_readData (s : State) (t : StrTask) (f : StrTask → StrTask) : (s.modTask t f).readData = s.readData := rfl
@[simp] theorem modTask_fuses (s : State) (t : StrTask) (f : StrTask → StrTask) : (s.modTask t f).fuses = s.fuses := rfl
@[simp] theorem modTask_straps (s : State) (t : StrTask) (f : StrTask → StrTask) : (s.modTask t f).straps = s.straps := rfl
@[simp] theorem modTask_hamper (s : State) (t : StrTask) (f : StrTask → StrTask) : (s.modTask t f).hamper = s.hamper := rfl
@[simp] theorem modTask_stroke (s : State) (t : StrTask) (f : StrTask → StrTask) : (s.modTask t f).stroke = s.stroke := rfl
@[simp] theorem modTask_slots (s : State) (t : StrTask) (f : StrTask → StrTask) : (s.modTask t f).slots = s.slots := rfl
@[simp] theorem modTask_tub (s : State) (t : StrTask) (f : StrTask → StrTask) : (s.modTask t f).tub = s.tub := rfl
@[simp] theorem modTask_vunits (s : State) (t : StrTask) (f : StrTask → StrTask) : (s.modTask t f).vunits = s.vunits := rfl
@[simp] theorem modTask_ftabs (s : State) (t : StrTask) (f : StrTask → StrTask) : (s.modTask t f).ftabs = s.ftabs := rfl
@[simp] theorem modTask_bypass (s : State) (t : StrTask) (f : StrTask → StrTask) : (s.modTask t f).bypass = s.bypass := rfl
@[simp] theorem modTask_mgl (s : State) (t : StrTask) (f : StrTask → StrTask) : (s.modTask t f).mgl = s.mgl := rfl
@[simp] theorem modTask_seams (s : State) (t : StrTask) (f : StrTask → StrTask) : (s.modTask t f).seams = s.seams := rfl
@[simp] theorem modTask_xcache (s : State) (t : StrTask) (f : StrTask → StrTask) : (s.modTask t f).xcache = s.xcache := rfl
@[simp] theorem modTask_mem (s : State) (t : StrTask) (f : StrTask → StrTask) : (s.modTask t f).mem = s.mem := rfl
@[simp] theorem modTask_prs (s : State) (t : StrTask) (f : StrTask → StrTask) : (s.modTask t f).prs = s.prs := rfl
@[simp] theorem modTask_ghl (s : State) (t : StrTask) (f : StrTask → StrTask) : (s.modTask t f).ghl = s.ghl := rfl
@[simp] theorem modTask_seqTab (s : State) (t : StrTask) (f : StrTask → StrTask) : (s.modTask t f).seqTab = s.seqTab := rfl
@[simp] theorem modTask_str (s : State) (t : StrTask) (f : StrTask → StrTask) : (s.modTask t f).str = s.str := rfl
@[simp] theorem modTask_mp (s : State) (t : StrTask) (f : StrTask → StrTask) : (s.modTask t f).mp = s.mp := rfl
@[simp] theorem modTask_power (s : State) (t : StrTask) (f : StrTask → StrTask) : (s.modTask t f).power = s.power := rfl
@[simp] theorem modTask_tubMem (s : State) (t : StrTask) (f : StrTask → StrTask) : (s.modTask t f).tubMem = s.tubMem := rfl
@[simp] theorem modTask_stackMem (s : State) (t : StrTask) (f : StrTask → StrTask) : (s.modTask t f).stackMem = s.stackMem := rfl
@[simp] theorem modTask_hostMem (s : State) (t : StrTask) (f : StrTask → StrTask) : (s.modTask t f).hostMem = s.hostMem := rfl
@[simp] theorem modTask_hostErr (s : State) (t : StrTask) (f : StrTask → StrTask) : (s.modTask t f).hostErr = s.hostErr := rfl

/-! ### effectOf -/

@[simp] theorem effectOf_now (s x : State) : (s.effectOf x).now = s.now := rfl
@[simp] theorem effectOf_pending (s x : State) : (s.effectOf x).pending = s.pending := rfl
@[simp] theorem effectOf_freeCtr (s x : State) : (s.effectOf x).freeCtr = x.freeCtr := rfl
@[simp] theorem effectOf_readData (s x : State) : (s.effectOf x).readData = x.readData := rfl
@[simp] theorem effectOf_fuses (s x : State) : (s.effectOf x).fuses = s.fuses := rfl
@[simp] theorem effectOf_straps (s x : State) : (s.effectOf x).straps = s.straps := rfl
@[simp] theorem effectOf_hamper (s x : State) : (s.effectOf x).hamper = x.hamper := rfl
@[simp] theorem effectOf_stroke (s x : State) : (s.effectOf x).stroke = x.stroke := rfl
@[simp] theorem effectOf_slots (s x : State) : (s.effectOf x).slots = x.slots := rfl
@[simp] theorem effectOf_tub (s x : State) : (s.effectOf x).tub = x.tub := rfl
@[simp] theorem effectOf_vunits (s x : State) : (s.effectOf x).vunits = x.vunits := rfl
@[simp] theorem effectOf_ftabs (s x : State) : (s.effectOf x).ftabs = x.ftabs := rfl
@[simp] theorem effectOf_bypass (s x : State) : (s.effectOf x).bypass = x.bypass := rfl
@[simp] theorem effectOf_mgl (s x : State) : (s.effectOf x).mgl = x.mgl := rfl
@[simp] theorem effectOf_seams (s x : State) : (s.effectOf x).seams = x.seams := rfl
@[simp] theorem effectOf_tasks (s x : State) : (s.effectOf x).tasks = x.tasks := rfl
@[simp] theorem effectOf_xcache (s x : State) : (s.effectOf x).xcache = x.xcache := rfl
@[simp] theorem effectOf_mem (s x : State) : (s.effectOf x).mem = x.mem := rfl
@[simp] theorem effectOf_prs (s x : State) : (s.effectOf x).prs = x.prs := rfl
@[simp] theorem effectOf_ghl (s x : State) : (s.effectOf x).ghl = x.ghl := rfl
@[simp] theorem effectOf_seqTab (s x : State) : (s.effectOf x).seqTab = x.seqTab := rfl
@[simp] theorem effectOf_str (s x : State) : (s.effectOf x).str = x.str := rfl
@[simp] theorem effectOf_mp (s x : State) : (s.effectOf x).mp = x.mp := rfl
@[simp] theorem effectOf_power (s x : State) : (s.effectOf x).power = x.power := rfl
@[simp] theorem effectOf_tubMem (s x : State) : (s.effectOf x).tubMem = x.tubMem := rfl
@[simp] theorem effectOf_stackMem (s x : State) : (s.effectOf x).stackMem = x.stackMem := rfl
@[simp] theorem effectOf_hostMem (s x : State) : (s.effectOf x).hostMem = x.hostMem := rfl
@[simp] theorem effectOf_hostErr (s x : State) : (s.effectOf x).hostErr = x.hostErr := rfl

/-! ### Own fields -/

@[simp] theorem modHamper_hamper (s : State) (f : Hamper → Hamper) : (s.modHamper f).hamper = f s.hamper := rfl
@[simp] theorem modStroke_stroke (s : State) (f : Stroke → Stroke) : (s.modStroke f).stroke = f s.stroke := rfl
@[simp] theorem modMp_mp (s : State) (f : Mp → Mp) : (s.modMp f).mp = f s.mp := rfl
@[simp] theorem modMgl_mgl (s : State) (f : Mgl → Mgl) : (s.modMgl f).mgl = f s.mgl := rfl
@[simp] theorem modGhl_ghl (s : State) (f : Ghl → Ghl) : (s.modGhl f).ghl = f s.ghl := rfl
@[simp] theorem modPrs_prs (s : State) (f : PrsCtr → PrsCtr) : (s.modPrs f).prs = f s.prs := rfl

@[simp] theorem slot_modSlot (s : State) (c : Nat) (f : Ctx → Ctx) : (s.modSlot c f).slot c = f (s.slot c) := by
  simp [State.slot, State.modSlot]
theorem slot_modSlot_other (s : State) {c d : Nat} (f : Ctx → Ctx) (h : d ≠ c) : (s.modSlot c f).slot d = s.slot d := by
  simp [State.slot, State.modSlot, KV.get_upd, h]

@[simp] theorem mbx_modMbx (s : State) (m : Nat) (f : Mailbox → Mailbox) : (s.modMbx m f).mbx m = f (s.mbx m) := by
  simp [State.mbx, State.modMbx]
theorem mbx_modMbx_other (s : State) {m n : Nat} (f : Mailbox → Mailbox) (h : n ≠ m) : (s.modMbx m f).mbx n = s.mbx n := by
  simp [State.mbx, State.modMbx, KV.get_upd, h]

@[simp] theorem line_modLine (s : State) (k : Nat) (f : LineRec → LineRec) : (s.modLine k f).line k = f (s.line k) := by
  simp [State.line, State.modLine]
theorem line_modLine_other (s : State) {k j : Nat} (f : LineRec → LineRec) (h : j ≠ k) :
    (s.modLine k f).line j = s.line j := by
  simp [State.line, State.modLine, KV.get_upd, h]

@[simp] theorem port_modPort (s : State) (p : Nat) (f : GPort → GPort) : (s.modPort p f).port p = f (s.port p) := by
  simp [State.port, State.modPort]
theorem port_modPort_other (s : State) {p q : Nat} (f : GPort → GPort) (h : q ≠ p) : (s.modPort p f).port q = s.port q := by
  simp [State.port, State.modPort, KV.get_upd, h]

@[simp] theorem seq_modSeq (s : State) (c : Nat) (t : Tile) (f : Seq → Seq) :
    (s.modSeq c t f).seq c t = f (s.seq c t) := by
  simp [State.seq, State.modSeq]
theorem seq_modSeq_other (s : State) {c d : Nat} {t u : Tile} (f : Seq → Seq) (h : d ≠ c ∨ u.idx ≠ t.idx) :
    (s.modSeq c t f).seq d u = s.seq d u := by
  by_cases hd : d = c
  · subst hd
    have hu : u.idx ≠ t.idx := h.resolve_left (fun n => n rfl)
    simp [State.seq, State.modSeq, KV.get_upd, hu]
  · simp [State.seq, State.modSeq, slot_modSlot_other _ _ hd]

@[simp] theorem vunit_modVunit (s : State) (t : Tile) (f : VUnit → VUnit) : (s.modVunit t f).vunit t = f (s.vunit t) := by
  simp [State.vunit, State.modVunit]
theorem vunit_modVunit_other (s : State) {t u : Tile} (f : VUnit → VUnit) (h : u.idx ≠ t.idx) :
    (s.modVunit t f).vunit u = s.vunit u := by
  simp [State.vunit, State.modVunit, KV.get_upd, h]

@[simp] theorem effectOf_vunit (s x : State) (t : Tile) : (s.effectOf x).vunit t = x.vunit t := rfl
@[simp] theorem effectOf_slot (s x : State) (c : Nat) : (s.effectOf x).slot c = x.slot c := rfl
@[simp] theorem effectOf_seq (s x : State) (c : Nat) (t : Tile) : (s.effectOf x).seq c t = x.seq c t := rfl
@[simp] theorem effectOf_mbx (s x : State) (m : Nat) : (s.effectOf x).mbx m = x.mbx m := rfl

/-- While the module is powered a command answers its effect. -/
theorem powered_on {s : State} (x : State) (h : s.power.on = true) : powered s x = .next (s.effectOf x) := by
  simp [powered, h]
/-- In OFF it changes nothing. -/
theorem powered_off {s : State} (x : State) (h : s.power.on = false) : powered s x = .next s := by simp [powered, h]

end Sys2Proof.Laws
end

