-- ==== Sys2Proof/Laws/Tile.lean ====
section
/-!
SUPPORT. Laws of the tile's registers: scalar, address and predicate registers (R226), lanes of a vector register (R232),
and what the end of a vector instruction leaves of the vector unit.
-/

namespace Sys2Proof.Laws

open Machine

/-! ### Registers -/

@[simp] theorem rd_zero (q : Seq) : q.rd 0 = 0 := rfl
theorem rd_wr (q : Seq) (i j : Nat) (v : W32) : (q.wr i v).rd j = if j = i ∧ i ≠ 0 then v else q.rd j := by
  unfold Seq.wr Seq.rd
  by_cases hi : i = 0
  · simp [hi]
  · by_cases hj : j = 0
    · subst hj; simp [hi, Ne.symm hi]
    · by_cases h : j = i <;> simp [hi, hj, h, KV.get_set]

@[simp] theorem rd_next (q : Seq) (i : Nat) : q.next.rd i = q.rd i := rfl
@[simp] theorem pc_next (q : Seq) : q.next.pc = q.pc + 1 := rfl
@[simp] theorem pc_wr (q : Seq) (i : Nat) (v : W32) : (q.wr i v).pc = q.pc := by unfold Seq.wr; split <;> rfl

/-! ### Lanes -/

theorem packNat_lt (w : Nat) (ds : List Nat) : packNat w ds < 2 ^ (w * ds.length) := by
  induction ds with
  | nil => simp [packNat]
  | cons d ds ih =>
    have h1 : d % 2 ^ w < 2 ^ w := Nat.mod_lt _ (by positivity)
    have h2 : 2 ^ (w * (ds.length + 1)) = 2 ^ w * 2 ^ (w * ds.length) := by rw [← pow_add]; congr 1; ring
    simp only [packNat, List.length_cons, h2]
    calc d % 2 ^ w + 2 ^ w * packNat w ds < 2 ^ w * 1 + 2 ^ w * packNat w ds := by omega
      _ = 2 ^ w * (packNat w ds + 1) := by ring
      _ ≤ 2 ^ w * 2 ^ (w * ds.length) := Nat.mul_le_mul_left _ ih

theorem packNat_digit (w : Nat) : ∀ (ds : List Nat) (i : Nat) (h : i < ds.length),
    packNat w ds / 2 ^ (w * i) % 2 ^ w = ds[i] % 2 ^ w := by
  intro ds
  induction ds with
  | nil => intro i h; exact absurd h (by simp)
  | cons d ds ih =>
    intro i h
    cases i with
    | zero => simp [packNat]
    | succ i =>
      have hi : i < ds.length := by simpa using h
      have e : 2 ^ (w * (i + 1)) = 2 ^ w * 2 ^ (w * i) := by rw [← pow_add]; congr 1; ring
      have hd : d % 2 ^ w < 2 ^ w := Nat.mod_lt _ (by positivity)
      rw [e, ← Nat.div_div_eq_div_mul]
      have : packNat w (d :: ds) / 2 ^ w = packNat w ds := by
        rw [packNat, Nat.add_mul_div_left _ _ (by positivity), Nat.div_eq_of_lt hd, Nat.zero_add]
      rw [this, ih i hi]
      simp

/-- A lane of a register written lane by lane. -/
theorem lane_mapLanes (f : Nat → W32) {l : Nat} (h : l < 128) : lane (mapLanes f) l = f l := by
  have hlen : ((lanes.map f).map BitVec.toNat).length = 128 := by simp [lanes]
  have hp : packNat 32 ((lanes.map f).map BitVec.toNat) < 2 ^ 4096 := by
    have := packNat_lt 32 ((lanes.map f).map BitVec.toNat)
    rw [hlen] at this; exact this
  apply BitVec.eq_of_toNat_eq
  have hd := packNat_digit 32 ((lanes.map f).map BitVec.toNat) l (by rw [hlen]; exact h)
  unfold lane mapLanes ofLanes
  rw [BitVec.toNat_setWidth, BitVec.toNat_ushiftRight, BitVec.toNat_ofNat, Nat.mod_eq_of_lt hp, Nat.shiftRight_eq_div_pow,
    hd]
  simpa [lanes] using (f l).isLt

@[simp] theorem reg_setReg (u : VUnit) (i : Nat) (r : Row) : (u.setReg i r).reg i = r := by simp [VUnit.reg, VUnit.setReg]
theorem reg_setReg_other (u : VUnit) {i j : Nat} (r : Row) (h : j ≠ i) : (u.setReg i r).reg j = u.reg j := by
  simp [VUnit.reg, VUnit.setReg, KV.get_set, h]

/-! ### The end of a vector instruction -/

/-- The registers, match count and queue of a vector unit: what the end of a RUN leaves alone. -/
def vkept (u : VUnit) : KV Row × W16 × List VInstr := (u.v, u.matchCount, u.queue)

theorem forEach_vunits {α : Type} {f : α → State → State} (hf : ∀ x s, (f x s).vunits = s.vunits) (xs : List α) (s : State) :
    (forEach xs f s).vunits = s.vunits := by
  unfold forEach
  induction xs generalizing s with
  | nil => rfl
  | cons x xs ih => rw [List.foldl_cons, ih, hf]

theorem startTile_kept (c k entry nominal i : Nat) (s : State) (u : Tile) :
    vkept ((startTile c k entry nominal i s).vunit u) = vkept (s.vunit u) := by
  unfold startTile
  dsimp only
  have key : ∀ s' : State, s'.vunits =
      ((s.modSeq c (tileOf (i / 32) (i % 32)) fun q =>
        { q with pc := BitVec.ofNat 13 entry, run := some k, wait := .none, ended := false }).modVunit
          (tileOf (i / 32) (i % 32)) fun v => { v with pktRow := 0, hdrOf := none }).vunits →
      vkept (s'.vunit u) = vkept (s.vunit u) := by
    intro s' h
    unfold State.vunit
    rw [h]
    by_cases e : u.idx = (tileOf (i / 32) (i % 32)).idx
    · simp [State.modVunit, e, vkept, State.modSeq]
    · simp [State.modVunit, KV.get_upd, e, State.modSeq]
  refine key _ ?_
  rw [modSlot_vunits]
  refine forEach_vunits (fun l s => ?_) _ _
  split
  · split <;> rfl
  · rfl

theorem settleTile_kept (c : Nat) (t u : Tile) (s : State) : vkept ((settleTile c t s).vunit u) = vkept (s.vunit u) := by
  unfold settleTile
  dsimp only
  split
  · split
    · unfold nextOnTile
      split
      · rfl
      · split
        · rw [startTile_kept]; rfl
        · rfl
    · rfl
  · rfl

/-- The end of a vector instruction takes it out of its tile's queue and leaves every register. -/
theorem vecPop_kept (c : Nat) (t u : Tile) (s : State) :
    vkept ((vecPop c t s).vunit u) =
      if u.idx = t.idx then ((s.vunit u).v, (s.vunit u).matchCount, (s.vunit u).queue.tail) else vkept (s.vunit u) := by
  unfold vecPop
  rw [settleTile_kept]
  unfold State.modVunit State.vunit
  rw [KV.get_upd]
  split
  · rename_i h; rw [← h]; rfl
  · rfl

theorem vecPop_reg (c : Nat) (t u : Tile) (s : State) (i : Nat) : ((vecPop c t s).vunit u).reg i = (s.vunit u).reg i := by
  have h := congrArg Prod.fst (vecPop_kept c t u s)
  have : ((vecPop c t s).vunit u).v = (s.vunit u).v := by
    rw [show ((vecPop c t s).vunit u).v = (vkept ((vecPop c t s).vunit u)).1 from rfl, h]
    split <;> rfl
  simp [VUnit.reg, this]

theorem vecPop_queue (c : Nat) (t : Tile) (s : State) : ((vecPop c t s).vunit t).queue = (s.vunit t).queue.tail := by
  have h := congrArg (fun p : KV Row × W16 × List VInstr => p.2.2) (vecPop_kept c t t s)
  simpa [vkept] using h

theorem vecPop_match (c : Nat) (t : Tile) (s : State) : ((vecPop c t s).vunit t).matchCount = (s.vunit t).matchCount := by
  have h := congrArg (fun p : KV Row × W16 × List VInstr => p.2.1) (vecPop_kept c t t s)
  simpa [vkept] using h

end Sys2Proof.Laws
end

