-- ==== Sys2Proof/Tests/Slice0.lean ====
section
/-!
SUPPORT. Tests of single commands on small states, and for the claims states that meet their hypotheses. The expected values
are those of the spec's tables and rules, worked out by hand.
-/

namespace Sys2Proof.Tests

/- One test at a time: their kernel evaluations side by side would each take a thread. -/
set_option Elab.async false

open Sys2Proof.Machine

/-- The module powered, else as after reset. -/
def on : State := { State.reset with power := { State.reset.power with on := true } }

/-- What a test asks of the next state of a command. -/
def run (i : Instr) (s : State) (p : State → Bool) : Bool :=
  match exec i s with
  | .next t => p t
  | _ => false

/-- Is the next state of a command exactly `t`? -/
def gives (i : Instr) (s t : State) : Bool :=
  match exec i s with
  | .next u => u == t
  | _ => false

/-! ### Sequencer -/

def t00 : Tile := tileOf 0 0

/-- Slot 1 runs a RUN on tile (0, 0) whose text is `ws`, with s1 = 7, s2 = 0xFFFFFFFE, s3 = 0x80000000, a1 = 0x3FFFF, p1 = 1 and
pc = 0. -/
def seqSt (ws : List W32) : State :=
  on.modSlot 1 fun x => { x with
    st := .running, att := { x.att with on := true }
    img := some { readHdr (fun _ _ => 0) with imem := 16 }
    cur := { x.cur with progs := [⟨0xFFFF#16, 0xFFFFFFFF#32, ws⟩] }
    seqs := [(0, { Seq.zero with s := [(1, 7#32), (2, 0xFFFFFFFE#32), (3, 0x80000000#32)], a := [(1, 0x3FFFF#18)], p := 2#4, run := some 0 })] }

/-- sd, sa, sb and func of opcode 0x00 (Table 7.12). -/
def wO (func d a b : Nat) : W32 := BitVec.ofNat 32 (d * 2097152 + a * 65536 + b * 2048 + func)
/-- An instruction of opcode `op` with sd, sa and a 16-bit immediate (Table 7.12). -/
def wK (op d a i : Nat) : W32 := BitVec.ofNat 32 (op * 67108864 + d * 2097152 + a * 65536 + i)

/-- The command leaves `v` in s4 of the tile, and pc at 1. -/
def s4' (i : Instr) (s : State) (v : W32) : Bool :=
  run i s fun u => (u.seq 1 t00).rd 4 == v && (u.seq 1 t00).pc == 1#13
/-- The same where the word is the text. -/
def s4 (i : Instr) (w : W32) (v : W32) : Bool := s4' i (seqSt [w]) v

/-- Table 7.13 on s1 = 7, s2 = 0xFFFFFFFE and s3 = 0x80000000. -/
theorem test_seq_three_register :
    s4 (.seqAdd t00 1) (wO 0 4 1 2) 5#32 && s4 (.seqSub t00 1) (wO 1 4 1 2) 9#32 &&
    s4 (.seqAnd t00 1) (wO 2 4 1 2) 6#32 && s4 (.seqOr t00 1) (wO 3 4 1 3) 0x80000007#32 &&
    s4 (.seqXor t00 1) (wO 4 4 1 2) 0xFFFFFFF9#32 && s4 (.seqShl t00 1) (wO 5 4 2 1) 0xFFFFFF00#32 &&
    s4 (.seqShr t00 1) (wO 6 4 3 1) 0x01000000#32 && s4 (.seqSra t00 1) (wO 7 4 3 1) 0xFF000000#32 &&
    s4 (.seqMul t00 1) (wO 8 4 1 2) 0xFFFFFFF2#32 && s4 (.seqMulh t00 1) (wO 9 4 1 2) 0xFFFFFFFF#32 &&
    s4 (.seqMulhu t00 1) (wO 10 4 1 2) 6#32 && s4 (.seqMin t00 1) (wO 11 4 1 2) 0xFFFFFFFE#32 &&
    s4 (.seqMax t00 1) (wO 12 4 1 2) 7#32 && s4 (.seqMinu t00 1) (wO 13 4 1 2) 7#32 &&
    s4 (.seqMaxu t00 1) (wO 14 4 1 2) 0xFFFFFFFE#32 = true := by decide +kernel

/-- Immediates: ADDI is sign-extended, the logical ones zero-extended, shifts by 31, LUI into the upper half. -/
theorem test_seq_immediate :
    s4 (.seqAddi t00 1) (wK 1 4 1 0xFFFF) 6#32 && s4 (.seqAndi t00 1) (wK 2 4 2 0xFFFF) 0xFFFE#32 &&
    s4 (.seqOri t00 1) (wK 3 4 1 0x8000) 0x8007#32 && s4 (.seqXori t00 1) (wK 4 4 1 0xFFFF) 0xFFF8#32 &&
    s4 (.seqShli t00 1) (wK 5 4 1 31) 0x80000000#32 && s4 (.seqShri t00 1) (wK 6 4 3 31) 1#32 &&
    s4 (.seqSrai t00 1) (wK 7 4 3 31) 0xFFFFFFFF#32 && s4 (.seqLui t00 1) (wK 8 4 0 0x8001) 0x80010000#32 = true := by
  decide +kernel

/-- Each row of the two tables that a claim quantifies over has a word that spells its instruction. -/
theorem met_ScalarArithmetic :
    (scalarThree.zipIdx.all fun e => seqReady (seqSt [wO e.2 4 1 2]) 1 t00 e.1.op == some (wO e.2 4 1 2)) &&
    (scalarImm.zipIdx.all fun e => seqReady (seqSt [wK (e.2 + 1) 4 0 5]) 1 t00 e.1.op == some (wK (e.2 + 1) 4 0 5)) = true := by
  decide +kernel

/-- A write to s0 is discarded (R226). -/
theorem test_seq_s0 : run (.seqAddi t00 1) (seqSt [wK 1 0 1 1]) (fun u => (u.seq 1 t00).rd 0 == 0#32) = true := by decide +kernel

/-- Counts of 0xFFFFFFFE, 7, 0x80000000 and 0. -/
theorem met_ScalarCountsAndPredicates_counts :
    s4 (.seqPopc t00 1) (wO 16 4 2 0) 31#32 && s4 (.seqClz t00 1) (wO 17 4 1 0) 29#32 &&
    s4 (.seqCtz t00 1) (wO 18 4 3 0) 31#32 && s4 (.seqClz t00 1) (wO 17 4 5 0) 32#32 = true := by decide +kernel

/-- CMP EQ s1, s1 sets p2; CMPI LT s2, 0 sets p3; SEL of the true p1 takes sa. -/
theorem met_ScalarCountsAndPredicates_predicates :
    run (.seqCmp t00 1) (seqSt [BitVec.ofNat 32 (9 * 67108864 + 2 * 16777216 + 0 * 2097152 + 1 * 65536 + 1 * 2048)])
      (fun u => (u.seq 1 t00).p == 6#4) &&
    run (.seqCmpi t00 1) (seqSt [BitVec.ofNat 32 (10 * 67108864 + 3 * 16777216 + 2 * 2097152 + 2 * 65536)])
      (fun u => (u.seq 1 t00).p == 10#4) &&
    s4 (.seqSel t00 1) (wO 15 4 1 2 + 512#32) 7#32 = true := by decide +kernel

/-- ADDA a2, a1, 2 wraps to 1; MOVA a2, s1; MOVS s4, a1; MFS of the row (4) and of the reserved end of its codes. -/
theorem met_ScalarMovesAndBranch_moves :
    run (.seqAdda t00 1) (seqSt [BitVec.ofNat 32 (11 * 67108864 + 2 * 8388608 + 1 * 1048576 + 2)])
      (fun u => (u.seq 1 t00).rdA 2 == 1#18) &&
    run (.seqMova t00 1) (seqSt [BitVec.ofNat 32 (12 * 67108864 + 2 * 8388608 + 1 * 262144)])
      (fun u => (u.seq 1 t00).rdA 2 == 7#18) &&
    s4 (.seqMovs t00 1) (BitVec.ofNat 32 (13 * 67108864 + 4 * 2097152 + 1 * 262144)) 0x3FFFF#32 &&
    (seqOpOf (BitVec.ofNat 32 (0x1E * 67108864 + 4 * 2097152 + 9 * 65536))).isNone = true := by decide +kernel

/-- BR back by one on p1 = 1, and not taken on p1 = 0 (sense 0). -/
theorem met_ScalarMovesAndBranch_branch :
    run (.seqBr t00 1) (seqSt [BitVec.ofNat 32 (0x14 * 67108864 + 1 * 16777216 + 1 * 8388608 + 0xFFFF)])
      (fun u => (u.seq 1 t00).pc == 0x1FFF#13) &&
    run (.seqBr t00 1) (seqSt [BitVec.ofNat 32 (0x14 * 67108864 + 1 * 16777216 + 0xFFFF)])
      (fun u => (u.seq 1 t00).pc == 1#13) &&
    run (.seqNop t00 1) (seqSt [BitVec.ofNat 32 (0x19 * 67108864)]) (fun u => (u.seq 1 t00).pc == 1#13) &&
    run (.seqMfs t00 1) (seqSt [BitVec.ofNat 32 (0x1E * 67108864 + 4 * 2097152)]) (fun u => (u.seq 1 t00).pc == 1#13) =
      true := by decide +kernel
/-! ### Narrow accesses, waits, Lines and RUNs -/

/-- A narrow instruction: sd, address register, sense and 17-bit immediate (Table 7.12). -/
def wN (op d a post i : Nat) : W32 := BitVec.ofNat 32 (op * 67108864 + d * 2097152 + a * 262144 + post * 131072 + i)

/-- Slot 1 has row blocks 2 to 5 and Lines 3 to 6 of every tile. -/
def partSt (s : State) : State := { s with tub := { s.tub with parts := [(1, ⟨2, 4, 3, 4, false⟩)] } }

/-- A Line of 2 banks by 2 rows of the vector unit. -/
def cfg22 : LineCfg := { fixed := false, writer := 3, reader := 3, bankFirst := 2, banks := 2, rowFirst := 8, rows := 2, slack := 0 }

/-- The Line record of Table 6.3 for `cfg22`. -/
def rec22 : W64 := 0x01081236#64

/-- Context Line 1 of slot 1 in tile (0, 0) is set up, with `n` rows written. -/
def lineSt (n : Nat) (ws : List W32) : State :=
  let s := partSt (seqSt ws)
  { s with tub := { s.tub with lines := [(4, { LineRec.unset with cfg := some cfg22, tail := n, resv := n, fill := List.range n, gen := 5 })] } }

/-- STP s2, s3 at a1 + 0 puts eight bytes, and LDP reads them; address 1 with post-increment leaves a1 = 1. The narrow unit of
address 0x3FFFF lies outside the partition (R183). -/
theorem met_NarrowAccess :
    (narrowPlace (partSt (seqSt [])) 1 t00 1#18 == some (32, 8)) && (narrowPlace (partSt (seqSt [])) 1 t00 0x3FFFF#18).isNone &&
    run (.seqStp t00 1) (partSt (seqSt [wN 0x11 2 0 1 1]))
      (fun u => KV.getList 0 u.tubMem (512 * 32) 9 == [0xFE, 0xFF, 0xFF, 0xFF, 0, 0, 0, 0x80, 0] && (u.seq 1 t00).rdA 0 == 1#18) &&
    run (.seqLdp t00 1) { partSt (seqSt [wN 0x10 6 0 0 1]) with tubMem := [(16384 + 8, 0x11), (16384 + 12, 0x22)] }
      (fun u => (u.seq 1 t00).rd 6 == 0x11#32 && (u.seq 1 t00).rd 7 == 0x22#32) = true := by decide +kernel

/-- WAITU of cycle 7 waits at 0, WAITU of the negative s3 does not, and the wait ends 7 cycles into the range; WAITV goes on with an empty queue, and waits while an instruction is queued. -/
theorem met_WaitsEndAndTrap_waits :
    run (.seqWaitu t00 1) (seqSt [BitVec.ofNat 32 (0x15 * 67108864 + 1 * 2097152)])
      (fun u => (u.seq 1 t00).wait == .until_ 7 && (u.seq 1 t00).pc == 0#13) &&
    run (.seqWaitu t00 1) (seqSt [BitVec.ofNat 32 (0x15 * 67108864 + 3 * 2097152)])
      (fun u => (u.seq 1 t00).wait == .none && (u.seq 1 t00).pc == 1#13) &&
    gives (.seqWaituReached t00 1) ((seqSt []).modSeq 1 t00 fun q => { q with wait := .until_ 7 })
      ((seqSt []).modSeq 1 t00 fun q => { q with wait := .until_ 7 }) &&
    run (.seqWaituReached t00 1)
      { ((seqSt []).modSeq 1 t00 fun q => { q with wait := .until_ 7 }).modSlot 1 fun x =>
          { x with att := { x.att with ranges := [(8, 3)] } } with now := 10 }
      (fun u => (u.seq 1 t00).wait == .none && (u.seq 1 t00).pc == 1#13) &&
    run (.seqWaitv t00 1) (seqSt [0x58000000#32]) (fun u => (u.seq 1 t00).pc == 1#13) &&
    run (.seqWaitv t00 1) ((seqSt [0x58000000#32]).modVunit t00 fun v => { v with queue := [⟨0, 0, 0, 1, 0, 0⟩] })
      (fun u => (u.seq 1 t00).wait == .vector) &&
    run (.seqWaitvDrained t00 1) ((seqSt []).modSeq 1 t00 fun q => { q with wait := .vector })
      (fun u => (u.seq 1 t00).wait == .none && (u.seq 1 t00).pc == 1#13) = true := by decide +kernel

/-- A RUN of slot 1 on tile (0, 0), in execution. -/
def runSt (ws : List W32) : State :=
  (seqSt ws).modSlot 1 fun x => { x with tileCmds := [⟨0, 1, 1, 0, 0, 0, [(0, .running)]⟩] }

/-- END with an empty and with a filled queue; TRAP 9 aborts the RUN with F_SEQ_TRAP (0x0506). -/
theorem met_WaitsEndAndTrap_ends :
    run (.seqEnd t00 1) (runSt [0x5C000000#32])
      (fun u => (u.seq 1 t00).run.isNone && ((u.slot 1).tileCmds.map fun q => KV.get .waiting q.tiles 0) == [.done]) &&
    run (.seqEnd t00 1) ((runSt [0x5C000000#32]).modVunit t00 fun v => { v with queue := [⟨0, 0, 0, 1, 0, 0⟩] })
      (fun u => (u.seq 1 t00).run.isSome && (u.seq 1 t00).ended) &&
    run (.seqTrap t00 1) (runSt [0x60000009#32])
      (fun u => (u.slot 1).tileCmds == [] && decide ((u.slot 1).att.cause ≠ 0)) = true := by decide +kernel

/-- LSET, LRST, LINE_SETUP and LINE_RESET on an idle Line restart it and advance its generation. -/
theorem met_LineSetupsAndResets_words :
    (setupOk (lineSt 2 []) 1 t00 1 rec22) && lineCfgOf rec22 == cfg22 && ((lineUsers (lineSt 2 []) 1 t00 1) == []) &&
    run (.seqLset t00 1) ((lineSt 2 [BitVec.ofNat 32 (0x1A * 67108864 + 4 * 2097152 + 1 * 131072)]).modSeq 1 t00
        fun q => { q with s := [(4, 0x01081236#32)] })
      (fun u => (u.line 4).cfg == some cfg22 && (u.line 4).tail == 0 && (u.line 4).fill == [] && (u.line 4).gen == 6#16) &&
    run (.seqLrst t00 1) (lineSt 2 [BitVec.ofNat 32 (0x1B * 67108864 + 1 * 131072)])
      (fun u => (u.line 4).cfg == some cfg22 && (u.line 4).tail == 0 && (u.line 4).gen == 6#16) = true := by decide +kernel

/-- The class-1 list of slot 1 holds one command of a kind for tile (0, 0), its range in force. -/
def tileSt (s : State) (kind entry : Nat) (w1 : W64) : State :=
  s.modSlot 1 fun x => { x with
    seqs := [(0, Seq.zero)], att := { x.att with ranges := [(8, 0)] }
    cur := { x.cur with lists := [⟨1, 0, 0, [⟨0, kind, 0, 0, [BitVec.ofNat 64 (1 + 65536 + entry * 2 ^ 48), w1]⟩]⟩] } }

theorem met_LineSetupsAndResets_commands :
    run (.lineSetup 1) (tileSt (lineSt 2 []) 1 1 rec22) (fun u => (u.line 4).cfg == some cfg22 && (u.line 4).gen == 6#16 && (u.line 4).tail == 0) &&
    run (.lineReset 1) (tileSt (lineSt 2 []) 2 1 0) (fun u => (u.line 4).gen == 6#16 && (u.line 4).fill == []) &&
    run (.lineSetupEffect t00 4) ((lineSt 2 []).modLine 4 fun r => { r with pend := [⟨none, [77]⟩] })
      (fun u => (u.line 4).gen == 6#16 && (u.line 4).pend == []) = true := by decide +kernel

/-- LGEN and LOCC of the Line; LGEN of a Line that is not set up aborts the RUN. -/
theorem met_LineSetupsAndResets_reads :
    s4' (.seqLgen t00 1) (lineSt 2 [BitVec.ofNat 32 (0x1C * 67108864 + 4 * 2097152 + 1 * 131072)]) 5#32 &&
    s4' (.seqLocc t00 1) (lineSt 2 [BitVec.ofNat 32 (0x1D * 67108864 + 4 * 2097152 + 1 * 131072)]) 2#32 &&
    run (.seqLgen t00 1) (lineSt 2 [BitVec.ofNat 32 (0x1C * 67108864 + 4 * 2097152 + 2 * 131072)])
      (fun u => decide ((u.slot 1).att.cause ≠ 0)) = true := by decide +kernel

/-- RUN starts a free tile at its entry; RUN_COMPLETE takes the command off; VECTOR_SEND queues two words. -/
theorem met_RunsAndVectorSends :
    run (.run 1) (tileSt (seqSt []) 0 17 0)
      (fun u => (u.seq 1 t00).pc == 17#13 && (u.seq 1 t00).run == some 0 && ((u.slot 1).nextCmd 1 0).isNone) &&
    run (.runComplete 1) ((runSt []).modSlot 1 fun x => { x with tileCmds := x.tileCmds.map fun q => { q with tiles := [(0, .done)] } })
      (fun u => (u.slot 1).tileCmds == []) &&
    run (.vectorSend t00 1) (seqSt [0xF8000001#32, 5#32])
      (fun u => (u.seq 1 t00).pc == 2#13 && (u.vunit t00).queue == [⟨0xF8000001#32, 5#32, 7#32, 1, 0, 0⟩]) = true := by
  decide +kernel
/-! ### Vector unit -/

/-- The two words of Table 7.15. -/
def vW (op d a b c se : Nat) : W32 := BitVec.ofNat 32 (0xF8000000 + op * 2097152 + d * 131072 + a * 8192 + b * 512 + c * 32 + se)
def vX (fmt line line2 sub layer : Nat) : W32 :=
  BitVec.ofNat 32 (fmt * 268435456 + line * 16777216 + line2 * 1048576 + sub * 65536 + layer)

/-- A row of 128 equal lanes. -/
def rep (v : W32) : Row := ofLanes (List.replicate 128 v)

/-- The unit of tile (0, 0) holds 1.5 in every lane of v1 and -2 in v2, and one instruction of slot 1 in its queue. -/
def vecSt (s : State) (w0 w1 : W32) (se : W32) : State :=
  s.modVunit t00 fun u => { u with v := [(1, rep 0x3FC00000#32), (2, rep 0xC0000000#32), (5, 0x3FC00000#4096)], queue := [⟨w0, w1, se, 1, 0, 0⟩], matchCount := 9 }

/-- The command leaves the row `r` in v3 of the tile and an empty queue. -/
def v3 (i : Instr) (s : State) (r : Row) : Bool :=
  run i s fun u => (u.vunit t00).reg 3 == r && (u.vunit t00).queue == [] && (u.vunit t00).reg 1 == rep 0x3FC00000#32

/-- 1.5 and -2: sum, difference, product and 1.5 × (-2) + 1.5; each row of the tables that a claim quantifies over has its
instruction at the head of the queue. -/
theorem met_VectorLanes :
    (vectorRounded.zipIdx.all fun e =>
      (vecHead (vecSt (seqSt []) (vW (5 + e.2) 3 1 2 0 0) 0 0) 1 t00 e.1.op).isSome) &&
    ((vectorLanes.zip [9, 10, 11, 12, 13, 23]).all fun e =>
      (vecHead (vecSt (seqSt []) (vW e.2 3 1 2 0 0) 0 0) 1 t00 e.1.op).isSome) &&
    ((vectorRounded.map fun e => f32round .nearest (e.f (f32val 0x3FC00000#32) (f32val 0xC0000000#32) (f32val 0x3FC00000#32))) ==
      [0xBF000000#32, 0x40600000#32, 0xC0400000#32, 0xBFC00000#32]) = true := by decide +kernel

/-- VBCAST of 7; VPOPC of v1 (0x3FC00000 has 8 ones, 128 lanes) into lane s[se] mod 128 = 2 of v3. -/
theorem met_VectorLanes_others :
    v3 (.vbcast t00 1) (vecSt (seqSt []) (vW 23 3 0 0 0 1) 0 7#32) (rep 7) &&
    v3 (.vpopc t00 1) (vecSt (seqSt []) (vW 21 3 1 0 0 1) 0 130#32)
      (ofLanes ((List.range 128).map fun l => if l = 2 then 0x44800000#32 else 0)) = true := by decide +kernel

theorem met_VectorRowsAndConversions_rows :
    ((vectorRows.zip [16, 17, 18, 14, 15]).all fun e =>
      (vecHead (vecSt (seqSt []) (vW e.2 3 1 2 0 0) 0 0) 1 t00 e.1.op).isSome) &&
    v3 (.vand t00 1) (vecSt (seqSt []) (vW 16 3 1 2 0 0) 0 0) (rep 0) &&
    v3 (.vor t00 1) (vecSt (seqSt []) (vW 17 3 1 2 0 0) 0 0) (rep 0xFFC00000#32) &&
    v3 (.vxor t00 1) (vecSt (seqSt []) (vW 18 3 1 1 0 0) 0 0) (rep 0) &&
    v3 (.vfold t00 1) (vecSt (seqSt []) (vW 20 3 1 0 0 0) (vX 0 0 0 12 0) 0) (rep 0x3FC00000#32) &&
    (vecHead (vecSt (seqSt []) (vW 19 3 1 0 0 0) (vX 9 0 0 0 0) 0) 1 t00 .vnzb).isSome = true := by decide +kernel

/-- The conversions at the head of the queue with a format; VPACK of FP4 with vb ≠ vd; VMOVS of the match count, and into s0. -/
theorem met_VectorRowsAndConversions_conversions :
    (vecHead (vecSt (seqSt []) (vW 3 3 1 0 0 0) (vX 5 0 0 0 0) 0) 1 t00 .vcvt).isSome &&
    (vecHead (vecSt (seqSt []) (vW 4 3 4 0 0 0) (vX 5 0 0 0 0) 0) 1 t00 .vpack).isSome &&
    ((vecHead (vecSt (seqSt []) (vW 4 3 8 4 0 0) (vX 4 0 0 3 0) 0) 1 t00 .vpack).any fun e => e.2.fmt == 4 && e.2.vb != e.2.vd) &&
    (vecHead (vecSt (seqSt []) (vW 22 4 1 2 0 0) (vX 9 0 0 0 0) 0) 1 t00 .vmatch).isSome &&
    run (.vmovs t00 1) (vecSt (seqSt []) (vW 24 0 1 0 0 4) (vX 0 0 0 1 0) 0) (fun u => (u.seq 1 t00).rd 4 == 9#32) &&
    run (.vmovs t00 1) (vecSt (seqSt []) (vW 24 0 1 0 0 0) 0 0) (fun u => (u.seq 1 t00).rd 0 == 0#32) = true := by
  decide +kernel

/-- VLD takes the row at the head of Line 1 into v3; VST writes v5 as its next row, at bank 2, row 32 + 8 + 1 (two rows are
held, two banks); VLDP with an empty header of bitmap bits expands a packet of no elements. -/
theorem met_VectorLineAccess :
    v3 (.vld t00 1) { vecSt (lineSt 2 []) (vW 0 3 0 0 0 0) (vX 0 1 0 0 0) 0 with tubMem := [(512 * (2 * 256 + 40), 1)] } 1#4096 &&
    run (.vst t00 1) (vecSt (lineSt 2 []) (vW 1 5 0 0 0 0) (vX 0 1 0 0 0) 0)
      (fun u => KV.getList 0 u.tubMem (512 * (2 * 256 + 41)) 4 == [0, 0, 0xC0, 0x3F] && (u.line 4).tail == 3) &&
    v3 (.vldp t00 1) ((vecSt (lineSt 2 []) (vW 2 3 0 0 0 0) (vX 9 1 0 0 0) 0).modVunit t00 fun u => { u with hdrOf := some 0 }) 0#4096 =
      true := by decide +kernel
/-! ### Mailboxes and control registers -/

/-- The CP runs. -/
def up : State := { on with hamper := { on.hamper with ready := true } }

/-- Mailbox `m` of `s` carries the accepted command `op` on slot `c`. -/
def acc (s : State) (m op : Nat) (c : Option Nat) (payload : List Byte) : State :=
  s.modMbx m fun b => { b with st := .accepted, req := some ⟨op, 5#32, payload, c⟩ }

/-- Mailbox `m` of `s` is SEALED over a request of opcode `op` with a payload. -/
def sealed (s : State) (m op : Nat) (payload : List Byte) : State :=
  s.modMbx m fun b => { b with
    st := .sealed, page := KV.setList 0 b.page 0 (leBytes 2 op ++ leBytes 2 payload.length ++ leBytes 12 7 ++ payload) }

/-- The mailbox is DONE with the status, its flag set and the payload of the given bytes. -/
def answered (m status : Nat) (payload : List Byte) (u : State) : Bool :=
  (u.mbx m).st == .done && (u.mbx m).irq.getLsbD 0 && KV.getList 0 (u.mbx m).page 0x800 2 == leBytes 2 status &&
    KV.getList 0 (u.mbx m).page 0x808 2 == leBytes 2 payload.length && KV.getList 0 (u.mbx m).page 0x810 payload.length == payload

/-- Sealing of IDLE and of SEALED; the queue; OP_NOP; the acceptance of the oldest. -/
theorem met_MailboxFlow :
    run (.sealingWrite 8 2) up (fun u => (u.mbx 8).st == .sealed && (u.mbx 8).fn == 2) &&
    run (.sealingWrite 0 2) (sealed up 0 1 []) (fun u => (u.mbx 0).irq == 4#5 && (u.mbx 0).fn == 0) &&
    run (.acknowledgement 0) (sealed up 0 0x0002 (List.replicate 16 0))
      (fun u => (u.mbx 0).st == .queued && u.hamper.ackNext == 1 && ((u.mbx 0).req.any fun r => r.opcode == 2 && r.tag == 7#32)) &&
    run (.opNop 8) (sealed up 8 0x0001 []) (answered 8 0 []) &&
    run (.cpAccept 3) (up.modMbx 3 fun b => { b with st := .queued, req := some ⟨2, 0, [], none⟩ })
      (fun u => (u.mbx 3).st == .accepted && u.hamper.accNext == 1) = true := by decide +kernel

/-- R405's refusals in order: opcode, length, a device command in a context mailbox, a slot of another function. -/
theorem met_MailboxFlow_refusals :
    run (.acknowledgement 0) (sealed up 0 0x0700 []) (answered 0 0x0801 []) &&
    run (.acknowledgement 1) (sealed up 1 0x0101 []) (answered 1 0x0802 []) &&
    run (.acknowledgement 1) (sealed up 1 0x0104 (List.replicate 8 0)) (answered 1 0x0803 []) &&
    run (.acknowledgement 2) ((sealed up 2 0x0203 (List.replicate 8 0)).modMbx 2 fun b => { b with fn := 3 }) (answered 2 0x0804 []) =
      true := by decide +kernel

/-- A SEALED, a QUEUED and an ACCEPTED mailbox ignore a sealing write. -/
theorem met_SealedMailboxIgnoresWrites :
    ([MbxState.sealed, .queued, .accepted].all fun st =>
      run (.sealingWrite 5 1) (up.modMbx 5 fun b => { b with st := st, irq := 1 }) fun u => (u.mbx 5).irq == 5#5 && (u.mbx 5).st == st) =
      true := by decide +kernel

theorem met_TimeoutsAndWatchdog_timeouts :
    run .cpAcceptTimeout (up.modMbx 3 fun b => { b with st := .queued, req := some ⟨2, 0, [], none⟩ })
      (fun u => answered 3 0x0807 [] u && u.hamper.cpFault && (u.mp.log.head?.any fun r => r.code == 0x0807)) &&
    run (.boundReport 0 900) (acc up 0 0x0201 (some 0) []) (fun u => (u.mbx 0).bound == some 900) &&
    run (.completionBoundTimeout 0) (acc up 0 0x0201 (some 0) []) (fun u => answered 0 0x0807 [] u && (u.mbx 0).timedOut) &&
    run (.lateDone 0) (up.modMbx 0 fun b => { b with timedOut := true })
      (fun u => u.hamper.lateDone == 1#32 && (u.mbx 0).irq == 8#5) = true := by decide +kernel

/-- The third restart within a day is followed by a hold for good. -/
theorem met_TimeoutsAndWatchdog_watchdog :
    run .cpWatchdog up (fun u => u.mp.cpHeld && !u.mp.cpDead && !u.hamper.ready) &&
    run .cpWatchdog { up with mp := { up.mp with restarts := [0, 0, 0] } } (fun u => u.mp.cpDead) &&
    run .cpRestart { up with mp := { up.mp with cpHeld := true } } (fun u => u.hamper.ready && !u.mp.cpHeld) &&
    run .mode0Heartbeat { up with now := 77 } (fun u => u.mp.beat == 77) = true := by decide +kernel

theorem met_ControlRegisters :
    run (.mbxEvtTailWrite 1 0x1FFF#32) up (fun u => (u.mbx 1).tail == 0xFFF#12) &&
    run (.mbxEvtLostRead 1) (up.modMbx 1 fun b => { b with lost := 0x102#32 }) (fun u => u.readData == [2, 1, 0, 0] && (u.mbx 1).lost == 0) &&
    gives (.mbxFeedPostWrite 0 1#32) up up &&
    run (.mbxFeedPostWrite 1 1#32) up (fun u => (u.mbx 1).irq == 16#5) &&
    run (.mbxFeedPostWrite 1 5#32) (up.modSlot 0 fun x => { x with feed := some ⟨0, 512, 4, 1, 0⟩ })
      (fun u => (u.mbx 1).irq == 16#5 && (u.mbx 1).feedPosted == 4#32) &&
    run .stkMarkLoRead { up with stroke := { up.stroke with mark := 0x500000006#48 } }
      (fun u => u.readData == [6, 0, 0, 0] && u.stroke.markHi == 5#16) &&
    run (.stkCtxIndexLoRead 7) (up.modSlot 7 fun x => { x with stk := { x.stk with index := 0x300000009#48 } })
      (fun u => u.readData == [9, 0, 0, 0] && (u.slot 7).stk.hi.toNat % 65536 == 3) &&
    run (.strCtxFaultLoRead 7) (up.modSlot 7 fun x => { x with fault := ⟨4, 5, 6, 0⟩ })
      (fun u => u.readData == [4, 0, 0, 0] && (u.slot 7).fault.hiLatch == 5#32) = true := by decide +kernel

/-- A ring of 16 entries at 4,096; one at 16 is refused. -/
theorem met_ControlRegisters_events :
    run (.opEvents 1) (acc up 1 2 none (leBytes 8 4096 ++ leBytes 8 16))
      (fun u => answered 1 0 [] u && (u.mbx 1).ring == some ⟨4096, 16⟩) &&
    run (.opEvents 1) (acc up 1 2 none (leBytes 8 16 ++ leBytes 8 16)) (answered 1 0x0802 []) = true := by decide +kernel

/-! ### Context slots -/

/-- Slot `c` of `s` in a state. -/
def slotSt (s : State) (c : Nat) (st : CtxSt) : State := s.modSlot c fun x => { x with st := st }
/-- Strokes run. -/
def strokes (s : State) : State := { s with stroke := { s.stroke with mode := 1, mark := 9 } }
/-- The payload of a slot command: the slot's number and zeros, with fields put in. -/
def pay (c n : Nat) (fs : List (Nat × List Byte)) : List Byte :=
  KV.getList 0 (fs.foldl (fun m f => KV.setList 0 m f.1 f.2) (KV.setList 0 [] 0 (leBytes 1 c))) 0 n

/-- A reserved byte, and a state that the row omits; OP_UNLOAD and OP_RELEASE without Strokes; a wait for the band with them. -/
theorem met_RefusalsUnloadAndRelease :
    run (.opUnload 0) (acc up 0 0x0203 (some 2) (pay 2 8 [(3, [1])])) (answered 0 0x0802 []) &&
    run (.opUnload 0) (acc up 0 0x0203 (some 2) (pay 2 8 [])) (answered 0 0x0805 []) &&
    run (.opUnload 0) (acc (slotSt up 2 .held) 0 0x0203 (some 2) (pay 2 8 [])) (fun u => answered 0 0 [] u && (u.slot 2).st == .empty) &&
    run (.opRelease 0) (acc (up.modSlot 2 fun x => { x with st := .held, holds := 63 }) 0 0x0204 (some 2) (pay 2 8 []))
      (fun u => answered 0 0 [] u && (u.slot 2).holds == 48#6) &&
    run (.opRelease 0) (acc (strokes (slotSt up 2 .held)) 0 0x0204 (some 2) (pay 2 8 []))
      (fun u => (u.mbx 0).stage == .band && (u.mbx 0).st == .accepted) = true := by decide +kernel

/-- OP_START for mark 11 when the mark is 9, for 10, without Strokes. -/
theorem met_LoadAndStart :
    run (.opStart 0) (acc (strokes (slotSt up 2 .loaded)) 0 0x0202 (some 2) (pay 2 16 [(8, [11])]))
      (fun u => answered 0 0 [] u && (u.slot 2).armed && (u.slot 2).startMark == 11#48) &&
    run (.opStart 0) (acc (strokes (slotSt up 2 .loaded)) 0 0x0202 (some 2) (pay 2 16 [(8, [10])])) (answered 0 0x080B []) &&
    run (.opStart 0) (acc (slotSt up 2 .loaded) 0 0x0202 (some 2) (pay 2 16 [(8, [11])])) (answered 0 0x0805 []) = true := by
  decide +kernel
/-! ### Placement -/

/-- Bytes of a job image with no lists: four sections (Table 7.2), one Stroke image, an empty arithmetic listing whose digest is
SHA-384 of nothing, one region of 2 MiB of stack 1 at 0x400000. -/
def imageParts : List (Nat × List Byte) :=
  [(0, leBytes 4 0x4A4E4C53), (4, leBytes 2 1), (6, leBytes 2 3), (8, leBytes 8 0),
    (64, leBytes 4 384), (68, leBytes 4 600000), (72, leBytes 2 4), (78, [2]), (80, [2, 1]), (82, leBytes 2 64), (88, leBytes 4 1),
    (100, leBytes 8 0x400000), (128, leBytes 2 1), (136, leBytes 4 192), (144, leBytes 2 2), (146, leBytes 2 1)] ++
  [(152, leBytes 4 192), (156, leBytes 4 16), (160, leBytes 2 3), (168, leBytes 4 256), (176, leBytes 2 7), (178, leBytes 2 1),
    (184, leBytes 4 256), (188, leBytes 4 64), (192, leBytes 4 320), (196, leBytes 4 64), (288, leBytes 8 0x400000),
    (296, leBytes 8 0x200000), (305, [1, 1, 1]),
    (16, [0x38, 0xB0, 0x60, 0xA7, 0x51, 0xAC, 0x96, 0x38, 0x4C, 0xD9, 0x32, 0x7E, 0xB1, 0xB1, 0xE3, 0x6A]),
    (32, [0x21, 0xFD, 0xB7, 0x11, 0x14, 0xBE, 0x07, 0x43, 0x4C, 0x0C, 0xC7, 0xBF, 0x63, 0xF6, 0xE1, 0xDA]),
    (48, [0x27, 0x4E, 0xDE, 0xBF, 0xE7, 0x6F, 0x65, 0xFB, 0xD5, 0x1A, 0xD2, 0xF1, 0x48, 0x98, 0xB9, 0x5B])]

def image : KV Byte := imageParts.foldl (fun m f => KV.setList 0 m f.1 f.2) []

/-- The image lies in the pre-load page at 0 of slot 2. -/
def imgSt : State :=
  { up.modSlot 2 fun x => { x with pages := [(0, ⟨false, true, 0, 0, true, true⟩)] } with stackMem := image }

/-- An image that passes every check of Table 7.17 is placed; an empty one is refused with F_IMG_FORMAT. -/
theorem met_LoadAndStart_load :
    run (.opLoad 0) (acc imgSt 0 0x0201 (some 2) (pay 2 24 [(16, [5]), (20, [6])]))
      (fun u => answered 0 0 [] u && (u.slot 2).st == .loaded && (u.slot 2).jobEpoch == 5#32 && (u.slot 2).layoutEpoch == 6#32) &&
    run (.opLoad 0) (acc { imgSt with stackMem := [] } 0 0x0201 (some 2) (pay 2 24 []))
      (fun u => answered 0 Code.imgFormat [] u && (u.slot 2).st == .empty) = true := by
  decide +kernel
/-- Mailbox `m` of `s` has the command `op` on slot `c` under way. -/
def busy (s : State) (m op c : Nat) (payload : List Byte) : State :=
  (acc s m op (some c) payload).modMbx m fun b => { b with stage := .busy }

/-- A big page of stack 0 at context address 0, and regions over it and at the foot of host space. -/
def pageSt (s : State) (st : CtxSt) : State :=
  s.modSlot 2 fun x => { x with
    st := st, pages := [(0, ⟨false, true, 0, 0, true, false⟩)]
    regions := [⟨0, 0x200000, false, true, 0, true, false⟩, ⟨vaHost, 0x200000, true, false, 0, true, false⟩,
      ⟨0x200000, 0x400000, false, true, 1, true, true⟩] }

/-- An image of no row blocks and no Lines in slot 2. -/
def bareSt (st : CtxSt) : State :=
  (pageSt up st).modSlot 2 fun x => { x with img := some (readHdr fun _ _ => 0) }

/-- OP_SAVE at 0 begins, at 8 is refused with F_SAVE_AREA; the last byte makes the context SAVED. -/
theorem met_SaveAndRestore_save :
    run (.opSave 0) (acc (bareSt .held) 0 0x0205 (some 2) (pay 2 16 []))
      (fun u => (u.mbx 0).stage == .busy && (u.slot 2).save == some ⟨0, true, false⟩ && (u.slot 2).holds == 0b100000#6) &&
    run (.opSave 0) (acc (bareSt .held) 0 0x0205 (some 2) (pay 2 16 [(8, [8])])) (answered 0 0x080C []) &&
    run (.saveWriteDone 2) ((busy (bareSt .held) 0 0x0205 2 []).modSlot 2 fun x => { x with save := some ⟨0, true, false⟩ })
      (fun u => answered 0 0 [] u && (u.slot 2).st == .saved && (u.slot 2).save.isNone) = true := by decide +kernel

/-- OP_RESTORE finds the head of the save area, or does not; its end makes the context HELD. -/
theorem met_SaveAndRestore_restore :
    run (.opRestore 0) (acc { bareSt .saved with stackMem := [(0, 2), (4, 0x53), (5, 0x41), (6, 0x56), (7, 0x45)] } 0 0x0206 (some 2)
        (pay 2 8 []))
      (fun u => (u.mbx 0).stage == .busy && (u.slot 2).restore == some ⟨0, true, false⟩) &&
    run (.opRestore 0) (acc (bareSt .saved) 0 0x0206 (some 2) (pay 2 8 [])) (answered 0 0x080C []) &&
    run (.restoreWriteDone 2) ((busy (bareSt .saved) 0 0x0206 2 []).modSlot 2 fun x => { x with restore := some ⟨0, true, false⟩, holds := 32 })
      (fun u => answered 0 0 [] u && (u.slot 2).st == .held && (u.slot 2).holds == 0) = true := by decide +kernel

/-- OP_RESHARD of layout epoch 1, and of 0; the time runs out while a packet waits. -/
theorem met_ReshardAndResume_reshard :
    run (.opReshard 0) (acc (bareSt .held) 0 0x0207 (some 2) (pay 2 24 [(16, [1])])) (fun u => (u.mbx 0).stage == .busy) &&
    run (.opReshard 0) (acc (bareSt .held) 0 0x0207 (some 2) (pay 2 24 [])) (answered 0 0x0823 []) &&
    run (.reshardTimeout 2) ((busy (bareSt .held) 0 0x0207 2 (pay 2 24 [(16, [1])])).modCtxGhl 2
        fun g => { g with redIn := [⟨0, 0, 0, 0, 0, [], none⟩] })
      (answered 0 0x0822 []) &&
    run (.reshardQuiescent 2) (busy (bareSt .held) 0 0x0207 2 (pay 2 24 [(16, [1])])) (fun u => (u.mbx 0).st == .done && (u.slot 2).st == .held) =
      true := by decide +kernel

/-- Quiescence with the image of `imgSt` places it. -/
theorem met_ReshardAndResume_place :
    run (.reshardQuiescent 2) (busy (imgSt.modSlot 2 fun x => { x with st := .held }) 0 0x0207 2 (pay 2 24 [(16, [1])]))
      (fun u => answered 0 0 [] u && (u.slot 2).st == .loaded && (u.slot 2).layoutEpoch == 1#32) = true := by decide +kernel

/-- A Fold of Press 0 with no panels: its header, and the watch trailer for resume_index 3. -/
def fold0 : List Byte :=
  foldHeader 0 0 0 0xFFFFFFFF 3 4 (KV.getList 0 image 16 48) ++ leBytes 4 0x52544157 ++ leBytes 6 3 ++ List.replicate 54 0

theorem met_ReshardAndResume_resume :
    run (.opResume 0) (acc ((strokes (bareSt .held)).modPress 2 fun p => { p with present := true, folds := [(0, fold0)] }) 0 0x0208
        (some 2) (pay 2 24 [(8, [20])]))
      (fun u => answered 0 0 [] u && (u.slot 2).armed && (u.slot 2).stk.index == 3#48 && (u.slot 2).startMark == 20#48 &&
        (u.slot 2).layoutEpoch == 4#32) &&
    run (.opResume 0) (acc (bareSt .held) 0 0x0208 (some 2) (pay 2 24 [])) (answered 0 0x0824 []) = true := by decide +kernel

/-- OP_PAGE_MAP of a host page at the foot of host space, and of a device page of stack 1; OP_PAGE_UNMAP of a host page. -/
theorem met_PagesAndCopies_pages :
    run (.opPageMap 0) (acc (pageSt up .loaded) 0 0x0301 (some 2)
        (pay 2 32 [(1, [1, 0, 0, 1]), (8, leBytes 8 vaHost), (16, leBytes 8 0x5000), (24, [1])]))
      (fun u => answered 0 0 [] u && KV.find? (u.slot 2).pages vaHost == some ⟨true, false, 0, 0x5000, true, false⟩) &&
    run (.opPageMap 0) (acc (pageSt up .loaded) 0 0x0301 (some 2)
        (pay 2 32 [(1, [0, 1, 1, 1]), (8, leBytes 8 0x200000), (24, [1])]))
      (fun u => answered 0 0 [] u && (KV.find? (u.slot 2).pages 0x200000).isSome) &&
    run (.opPageUnmap 0) (acc ((pageSt up .loaded).modSlot 2 fun x => { x with pages := [(vaHost, ⟨true, false, 0, 0x5000, true, false⟩)] })
        0 0x0302 (some 2) (pay 2 32 [(1, [1]), (8, leBytes 8 vaHost), (24, [1])]))
      (fun u => answered 0 0 [] u && (u.slot 2).pages == []) = true := by decide +kernel

/-- OP_COPY of 64 bytes out of the page at 0 to host address 128, its end, and its end after 100 bytes of 128. -/
theorem met_PagesAndCopies_copies :
    run (.opCopy 0) (acc (pageSt up .loaded) 0 0x0303 (some 2) (pay 2 32 [(1, [1]), (16, [128]), (24, [64])]))
      (fun u => (u.mbx 0).stage == .busy) &&
    run (.opCopy 0) (acc (pageSt up .loaded) 0 0x0303 (some 2) (pay 2 32 [(1, [1]), (24, [63])])) (answered 0 0x0802 (List.replicate 8 0)) &&
    run (.copyComplete 0 none) (busy { pageSt up .loaded with stackMem := [(63, 9)] } 0 0x0303 2 (pay 2 32 [(1, [1]), (16, [128]), (24, [64])]))
      (fun u => answered 0 0 (leBytes 8 64) u && u.hostMem == [(191, 9)]) &&
    run (.copyComplete 0 (some 100)) (busy (pageSt up .loaded) 0 0x0303 2 (pay 2 32 [(1, [1]), (16, [128]), (24, [128])]))
      (answered 0 0x0806 (leBytes 8 64)) = true := by decide +kernel

/-- A watch configuration of Table 10.3: report at 0, 16 bytes each half, two entries, alpha 1. -/
def watchBytes : List Byte := leBytes 8 0 ++ leBytes 4 16 ++ [2, 0, 0, 0] ++ leBytes 4 0x3F800000 ++ leBytes 12 0

theorem met_WatchDecideFeedPeers :
    run (.opWatch 0) (acc (pageSt up .loaded) 0 0x0401 (some 2) (pay 2 48 [(16, watchBytes)]))
      (fun u => answered 0 0 [] u && (u.slot 2).watch.cfg.isSome && (u.seqEnt 1).owned && (u.seqEnt 1).ctx == 2) &&
    run (.opDecide 0) (acc (pageSt up .loaded) 0 0x0402 (some 2) (pay 2 8 [(1, [6])])) (fun u => answered 0 0 [] u && (u.slot 2).press.halt) &&
    run (.opFeed 0) (acc (pageSt up .loaded) 0 0x0403 (some 2) (pay 2 32 [(16, leBytes 4 512), (20, [4]), (22, [1])]))
      (fun u => answered 0 0 [] u && (u.slot 2).feed == some ⟨0, 512, 4, 1, 0⟩) &&
    run (.opFeed 0) (acc (pageSt up .loaded) 0 0x0403 (some 2) (pay 2 32 [])) (fun u => answered 0 0 [] u && (u.slot 2).feed.isNone) &&
    (match slotCheck ⟨0x0501, 5, pay 2 24 [(16, [1])], some 2⟩ (pageSt up .loaded) with
      | .ok c => c == 2
      | _ => false) &&
    ((List.range 2048).all fun l => bitsOf (leNat ((pageSt up .loaded).rdHost (2 * l) 2)) 14 11 == 0) = true := by decide +kernel

/-- A root alone: period 600,000, mode 1, replay_limit 3, tree_depth 0, domain_size 1, device 5. -/
def domainBytes : List Byte :=
  leBytes 4 600000 ++ [1, 3, 0, 0] ++ leBytes 2 5 ++ leBytes 2 1 ++ leBytes 2 5 ++ leBytes 18 0

theorem met_DomainAndAdmission :
    run (.opDomain 0) (acc up 0 0x0101 none domainBytes)
      (fun u => answered 0 0 [] u && u.stroke.mode == 1#2 && u.ghl.valid && u.ghl.deviceId == 5#11) &&
    run (.opDomain 0) (acc (slotSt up 2 .held) 0 0x0101 none domainBytes) (fun u => (u.mbx 0).st == .done && u.stroke.mode == 0#2) &&
    run (.opAdmit 0) (acc { strokes up with ghl := { up.ghl with valid := true }, mp := { up.mp with deviceGen := 3 } } 0 0x0102 none
        (leBytes 48 3))
      (fun u => answered 0 0 [] u && u.ghl.admitted) = true := by decide +kernel

theorem met_FunctionAndLinkResets :
    run (.vfEnableChange true 2) up (fun u => u.hamper.vfEnabled && (u.slot 2).owner == 2 && (u.slot 3).owner == 0) &&
    run (.flrVf 2) (({ up with hamper := { up.hamper with vfEnabled := true, numVfs := 2 } }.modSlot 2
        fun x => { x with owner := 2, st := .held }).modMbx 3 fun b => { b with ring := some ⟨4096, 16⟩ })
      (fun u => (u.mbx 3).ring.isNone && (u.slot 2).st == .empty) &&
    run .flrPf (slotSt up 2 .held) (fun u => (u.slot 2).st == .empty) &&
    run (.perstReset true) (slotSt up 2 .held) (fun u => (u.slot 2).st == .empty && !u.hamper.vfEnabled) &&
    run .perstDeassertion { up with now := 7 } (fun u => !u.power.perst && u.power.perstAt == 7) &&
    run .pcieConfigRequest { up with now := 1200000000, power := { up.power with perst := false } }
      (fun u => u.readData.take 9 == [0, 100, 0, 0, 0, 7, 0, 0, 0] && u.readData.length == 21) &&
    run .pcieConfigRequest { up with now := 1199999999, power := { up.power with perst := false } } (fun u => u.readData == [2]) = true := by
  decide +kernel
/-! ### Registers, power and start-up -/

theorem met_RegisterWrites :
    run (.registerWrite 0 .bar2 0x8010 0x04030201#32) up (fun u => KV.getList 0 (u.mbx 8).page 16 4 == [1, 2, 3, 4]) &&
    run (.registerWrite 1 .bar0 0x0010 0x04030201#32) { up with hamper := { up.hamper with vfEnabled := true, numVfs := 1 } }
      (fun u => KV.getList 0 (u.mbx 2).page 16 4 == [1, 2, 3, 4]) &&
    run (.registerWrite 0 .bar2 0x0FC8 0x5#32) (up.modMbx 0 fun b => { b with irq := 31 }) (fun u => (u.mbx 0).irq == 0b11010#5) &&
    run (.registerWrite 0 .bar2 0x1FCC 0xFF#32) up (fun u => (u.mbx 1).irqEn == 3#2) &&
    run (.registerWrite 0 .bar2 0x2FC0 1#32) up (fun u => (u.mbx 2).st == .sealed) &&
    targetOf up 0 .bar0 0x1000 == .readOnly && gives (.registerWrite 0 .bar0 0x1000 1#32) up up &&
    targetOf up 0 .bar2 0x9000 == .nothing &&
    (match exec (.registerWrite 0 .bar2 0x9000 1#32) up with
      | .fault .noRegister => true
      | _ => false) = true := by decide +kernel

/-- Slot A boots; with neither slot bootable the CP stays down. -/
theorem met_StartUpAndDoze_start :
    bootChoice State.reset.mp == some (0, false) &&
    run (.coldStart none 0xFFFF#16 0 none) State.reset
      (fun u => u.power.on && u.mp.deviceGen == 1#32 && !u.hamper.assemblyFault && u.tub.poisonBlocks == List.range 16) &&
    run (.coldStart none 0xFFFF#16 0 none)
      { State.reset with mp := { State.reset.mp with slotA := { State.reset.mp.slotA with verifies := false } } } (fun u => u.mp.cpDead) &&
    run (.hamperReady 0) on (fun u => u.hamper.ready) = true := by decide +kernel

theorem met_StartUpAndDoze_doze :
    run (.powerDoze 0) (acc up 0 0x0103 none [2, 0, 0, 0, 0, 0, 0, 0]) (fun u => answered 0 0 [] u && u.power.doze && u.power.pcieWidth == 1) &&
    run (.powerDoze 0) (acc up 0 0x0103 none [1, 0, 0, 0, 0, 0, 0, 0]) (answered 0 0x0802 []) &&
    run (.powerDoze 0) (acc (slotSt up 7 .loaded) 0 0x0103 none [2, 0, 0, 0, 0, 0, 0, 0]) (answered 0 0x0805 []) &&
    run (.powerWake 0 0 none) (acc { up with power := { up.power with doze := true } } 0 0x0103 none (List.replicate 8 0))
      (fun u => answered 0 0 [] u && !u.power.doze && u.mp.deviceGen == 1#32) &&
    run (.powerWake 0 0 none) (acc up 0 0x0103 none (List.replicate 8 0)) (answered 0 0x0805 []) = true := by decide +kernel

theorem met_PowerOffAndSensors :
    run .powerDown up (fun u => !u.power.on && u.power.lastOff == 0) &&
    ([(Instr.inputUndervoltage, 0x0A0B, 3#3), (.inputOvervoltage, 0x0A09, 3#3), (.inputOvercurrent, 0x0A0C, 5#3),
        (.thermtrip, 0x0A07, 1#3), (.railFault 9, 0x0A0A, 4#3)].all fun e =>
      run e.1 up fun u => !u.power.on && u.power.lastOff == e.2.2 && (u.mp.flashLog.head?.any fun r => r.code == e.2.1)) &&
    run (.thermCritTimeout 3) { up with power := { up.power with hot := [3] } } (fun u => u.power.lastOff == 2#3) &&
    gives (.thermCritTimeout 3) up up &&
    run .inputLowWarning up (fun u => u.power.inputLow) = true := by decide +kernel

/-- The record that a start-up found no offsets in: a sample of sensor 4 at its critical threshold, of sensor 17 at the foot of
the low band, of sensor 23, which does not exist. -/
theorem met_PowerOffAndSensors_samples :
    run (.sensorSample 4 840) { up with mp := { up.mp with calNow := { up.mp.calNow with origin := 2 } } }
      (fun u => KV.get 0 u.mp.sensors 4 == 840 && u.power.warm == [4] && u.power.hot == [4]) &&
    run (.sensorSample 17 4600) { up with mp := { up.mp with calNow := { up.mp.calNow with origin := 2 } } } (fun u => u.power.inputLow) &&
    gives (.sensorSample 23 5) up up = true := by decide +kernel

theorem met_OffChangesNothing :
    ([Instr.sealingWrite 0 0, .hamperReady 0, .powerDown, .seqAdd t00 1, .registerWrite 0 .bar2 0x9000 1#32].all fun i =>
      gives i State.reset State.reset) = true := by decide +kernel

/-! ### Self-tests, Darn, slack and Rinse -/

theorem met_SelfTestsAndDarn_tests :
    run (.opSelftest 0) (acc up 0 0x0105 none [0, 0, 0, 0, 0x30, 0x10, 0, 0])
      (fun u => answered 0 0 [] u && u.mp.tstQ == [⟨0, 0x1030#32⟩]) &&
    run (.tstStep false) { up with mp := { up.mp with tstQ := [⟨0, 0x1030#32⟩] } } (fun u => u.mp.tstSteps == 1 && u.mp.tstBusy) &&
    run (.tstStep true) { up with mp := { up.mp with tstQ := [⟨0, 0x1030#32⟩] } } (fun u => u.mp.tstSteps == 0 && u.mp.tstAbandoned == 1#32) &&
    run (.tstResult ⟨false, false⟩ 0) { up with mp := { up.mp with tstQ := [⟨0, 0x1030#32⟩], tstSteps := 64, tstBusy := true } }
      (fun u => u.mp.tstQ == [] && u.mp.tstRuns == 1#32 && !u.mp.tstBusy) = true := by decide +kernel

theorem met_SelfTestsAndDarn_darn :
    run (.darnRead 0) (acc up 0 0x0104 none (List.replicate 8 0)) (fun u => answered 0 0 (darnBytes up) u && (darnBytes up).length == 72) &&
    run (.darnMark 0) (acc up 0 0x0104 none [2, 3, 16, 0, 0, 0, 0, 0])
      (fun u => answered 0 0 [] u && u.mp.pendingRow == [(3, 16)] && KV.get 0 u.mp.faulty 3 == 65536) &&
    run (.darnMark 0) (acc { up with bypass := [(3, 2)] } 0 0x0104 none [2, 3, 16, 0, 0, 0, 0, 0]) (fun u => u.mp.retired) &&
    run (.darnApply 0 none) (acc { up with mp := { up.mp with pendingRow := [(3, 5)] } } 0 0x0104 none [1, 0, 0, 0, 0, 0, 0, 0])
      (fun u => answered 0 0 [] u && KV.get 16 u.bypass 3 == 5 && u.mp.pendingRow == []) &&
    run (.darnClearLane 0) (acc { up with mp := { up.mp with marked := [(31, 0x101#9)] } } 0 0x0104 none [3, 15, 8, 1, 0, 0, 0, 0])
      (fun u => answered 0 0 [] u && KV.get 0 u.mp.marked 31 == 1#9) &&
    run (.bridgeResend 2) up (fun u => u.mp.events.length == 1 && NSet.mem u.mp.resendLogged 2) = true := by decide +kernel

/-- A wait of one cycle on a Line of no slack, by the drain and by the feeder; Rinse at the last row of a bank, and a queued row
with a correctable error in word 7. -/
theorem met_SlackAndRinse :
    run (.lineSlackExceeded t00 4 .drain) ((lineSt 0 []).modLine 4 fun r => { r with wait := [(0, 1)] })
      (fun u => u.tub.overruns == 1#32 && u.tub.underruns == 0) &&
    run (.lineSlackExceeded t00 4 .feeder) ((lineSt 0 []).modLine 4 fun r => { r with wait := [(2, 1)] })
      (fun u => u.tub.underruns == 1#32) &&
    gives (.lineSlackExceeded t00 4 .seam) (lineSt 0 []) (lineSt 0 []) &&
    run (.rinseRead 543 15 255 0 .clean) { on with tub := { on.tub with rinsePos := [(16 * 543 + 15, 255)] } }
      (fun u => u.tub.rinseRows == 1 && KV.get 0 u.tub.rinsePos (16 * 543 + 15) == 0) &&
    run (.rinseWriteback 1) { on with tub := { on.tub with rinseQ := [⟨1, 0, 0⟩], errs := [(8 * 4096 + 7, 1)] } }
      (fun u => u.tub.rinseQ == [] && u.tub.errs == []) = true := by decide +kernel

/-! ### Strokes -/

/-- Mark 10 of period 600,000, root 5, and its packet. -/
def mark10 : Mark := ⟨10, false, 0, 600000, 5, 0⟩
def mark10Pkt : List Byte := markPkt mark10 false 3 7

/-- A follower whose upstream port 0 is ACTIVE, with both ends admitted. -/
def follower : State :=
  { (up.modPort 0 fun g => { g with st := .active, peerAdmitted := true }) with
    stroke := { up.stroke with mode := 2, mark := 9, cycle0 := some 0 } }.modGhl
    fun g => { g with valid := true, admitted := true, upValid := true, downMask := 2 }

/-- A root in mark 9. -/
def root : State := { up with stroke := { up.stroke with mode := 1, mark := 9 } }

theorem met_MarksTravel :
    run .markIssue root (fun u => (u.stroke.entered.map (·.number)) == some 10#48 && u.stroke.fwd.isSome) &&
    run (.markPacketReceive 0 mark10Pkt 1000) follower
      (fun u => (u.stroke.rx.map (·.mark)) == some mark10 && (u.port 0).lastMark == some 10#48) &&
    run (.markPacketReceive 0 (mark10Pkt.set 5 1) 1000) follower (fun u => u.stroke.rx.isNone && (u.port 0).markCheck == 1#32) &&
    run .markEntry { follower with stroke := { follower.stroke with rx := some ⟨mark10, 0, 44⟩ } }
      (fun u => u.stroke.entered == some mark10 && u.stroke.fwd == some (mark10, 44)) &&
    run .markForward { follower with stroke := { follower.stroke with fwd := some (mark10, 44) } }
      (fun u => u.stroke.fwd.isNone && (u.port 0).prio == [.mark mark10 44 false] && (u.port 1).prio == []) = true := by
  decide +kernel

theorem met_TalliesAndMisses_tallies :
    run .closingBand { root with stroke := { root.stroke with cycle0 := some 0 } } (fun u => u.stroke.closing) &&
    run .closingBand ((slotSt { root with stroke := { root.stroke with cycle0 := some 0 } } 3 .running).modSlot 3 fun x =>
        { x with att := { x.att with cause := 5, pageFault := some { x.fault with tag := 7 } } })
      (fun u => (u.slot 3).holds == 2#6 && (u.slot 3).fault.tag == 7) &&
    run (.tallyPacketReceive 1 (tallyPkt 9#48 0x000001#24 2 false 3))
      (follower.modPort 1 fun g => { g with st := .active, peerAdmitted := true })
      (fun u => NSet.mem u.stroke.heard 1 && u.stroke.count == 2) &&
    run (.tallyPacketReceive 1 (tallyPkt 8#48 0x000001#24 2 false 3))
      (follower.modPort 1 fun g => { g with st := .active, peerAdmitted := true })
      (fun u => u.stroke.staleTallies == 1#32 && u.stroke.count == 0) &&
    run .tallyDeadline { follower with stroke := { follower.stroke with closing := true, formed := true, codes := [1], count := 4 } }
      (fun u => u.stroke.sent && (u.port 0).prio == [.tally 9 (packCodes [1]) 4 false]) &&
    run .rootTallyCutoff { root with stroke := { root.stroke with closing := true, formed := true, codes := [1, 5, 0], count := 0 } }
      (fun u => u.stroke.nextVerdict == [4, 5, 0] && u.stroke.shortTallies == 1#32) = true := by decide +kernel

/-- The second and the third mark in a row that does not come. -/
theorem met_TalliesAndMisses_misses :
    run .markMiss { follower with stroke := { follower.stroke with missed := 1 } } (fun u => u.stroke.missed == 2 && !u.stroke.domainLost) &&
    run .markMiss (slotSt { follower with stroke := { follower.stroke with missed := 2 } } 3 .running)
      (fun u => u.stroke.domainLost && !u.ghl.admitted && (u.slot 3).st == .held && (u.slot 3).holds == 4#6) &&
    run (.neighbourMarkMiss 0) (follower.modPort 0 fun g => { g with lastMark := some 9, misses := 1 })
      (fun u => (u.port 0).misses == 2 && !(u.port 0).lost) &&
    run (.neighbourMarkMiss 0) (follower.modPort 0 fun g => { g with lastMark := some 9, misses := 2 }) (fun u => (u.port 0).lost) =
      true := by decide +kernel

/-- Mark 10 starts the Stroke; a range of class 2 begins and ends; the next index is read. -/
theorem met_StrokesAndRanges :
    run .strokeStart { root with stroke := { root.stroke with entered := some mark10, rootId := 5 }, now := 33 }
      (fun u => u.stroke.mark == 10 && u.stroke.cycle0 == some 33) &&
    run (.rangeStart 3 .stream 0) ({ root with stroke := { root.stroke with cycle0 := some 0 } }.modSlot 3 fun x => { x with
        st := .running, att := { x.att with on := true }, panels := [⟨16, 32, 2⟩] })
      (fun u => KV.find? (u.slot 3).att.ranges 16 == some 0 && (u.slot 3).att.begun == [16]) &&
    run (.rangeEnd 3 .stream 0) (root.modSlot 3 fun x => { x with att := { x.att with ranges := [(16, 0)] } })
      (fun u => (u.slot 3).att.ranges == []) &&
    run (.fetchNext 3 true) (root.modSlot 3 fun x => { x with st := .running, att := { x.att with on := true } }) (fun u => (u.slot 3).next.bad) =
      true := by decide +kernel

/-- Slot 3 runs and has sent a tally code. -/
def ran (sent : Nat) : State := { root with stroke := { root.stroke with tallyOut := true } }.modSlot 3 fun x => { x with st := .running, att := { x.att with sentCode := sent } }

/-- Each verdict of Table 2.5 on a slot in a state that takes it. -/
theorem met_VerdictEffects :
    ((applyVerdict 3 1 (ran 1)).slot 3).stk.index == 1 && ((applyVerdict 3 1 (ran 0)).slot 3).stopped &&
    ((applyVerdict 3 3 (ran 1)).slot 3).att.reruns == 1 &&
    ((applyVerdict 3 4 ((ran 1).modSlot 3 fun x => { x with att := { x.att with reruns := 3 } })).slot 3).holds == 1#6 &&
    ((applyVerdict 3 5 (ran 1)).slot 3).st == .held && ((applyVerdict 3 2 (slotSt root 3 .held)).slot 3).st == .running &&
    ((applyVerdict 3 6 (slotSt root 3 .loaded)).slot 3).stopped && ((applyVerdict 3 7 root).stroke.verdictFaults == 1#32) = true := by
  decide +kernel
/-! ### The Gelhesy link -/

/-- An admitted device 5 whose port 3 is in a state, its neighbour admitted; device 9 lies behind that port. -/
def linkSt (st : PortSt) : State :=
  ({ on with ghl := { on.ghl with deviceId := 5, valid := true, admitted := true, routes := [(9, ⟨3, true, false⟩)] } }).modPort 3
    fun g => { g with st := st, peerAdmitted := true }

/-- Port 3 of the next state passes a test. -/
def port3 (i : Instr) (s : State) (p : GPort → Bool) : Bool := run i s fun u => p (u.port 3)

/-- One lane is locked of nine; one failed lane, none and two; a mean of 16 samples. -/
theorem met_LinkTraining :
    port3 (.detectLock 3 4#9) (linkSt .detect) (fun g => g.st == .keeperUp && g.keeperLane == 2 && g.prio.length == 17) &&
    port3 (.keeperUpDone 3) ((linkSt .keeperUp).modPort 3 fun g => { g with peerValid := true, samples := 5 :: List.replicate 15 4 })
      (fun g => g.st == .equalise && g.wKeeper == 5) &&
    port3 (.keeperUpDone 3)
      ((linkSt .keeperUp).modPort 3 fun g => { g with peerValid := true, peerKeeper := true, samples := List.replicate 16 4 })
      (fun g => g.st == .keeper && g.wKeeper == 4) &&
    port3 (.equaliseDone 3 0) (linkSt .equalise) (fun g => g.st == .align && g.spareRx == 15) &&
    port3 (.equaliseDone 3 4#9) (linkSt .equalise) (fun g => g.st == .align && g.spareRx == 2) &&
    port3 (.equaliseDone 3 5#9) (linkSt .equalise) (fun g => g.st == .degraded && g.spareRx == 15) &&
    port3 (.alignDone 3) (linkSt .align) (fun g => g.st == .calibrate && g.prio.length == 16) &&
    port3 (.calibrateDone 3) ((linkSt .calibrate).modPort 3 fun g => { g with samples := List.replicate 16 4 })
      (fun g => g.st == .active && g.wFull == 4) &&
    run (.trainTimeout 3) (linkSt .align) (fun u => (u.port 3).st == .detect && (u.mp.log.head?.any fun r => r.code == 0x0708)) =
      true := by decide +kernel

theorem met_LinkPackets :
    port3 (.cap 3 (linkPkt 1 [9, 0, 7, 1, 0, 0, 0, 0, 0, 1])) (linkSt .active) (fun g => g.peerValid && g.peerId == 9 && g.peerPort == 7) &&
    port3 (.echo 3 (linkPkt 2 [0, 0, 1])) (linkSt .active) (fun g => g.prio == [.echoReply 1 0]) &&
    port3 (.echoReply 3 (linkPkt 3 [0, 0, 0, 0, 0, 0, 10, 0])) { linkSt .active with now := 200 } (fun g => g.samples == [31]) &&
    port3 (.spareReq 3 (linkPkt 4 [6])) (linkSt .active)
      (fun g => g.switchLane == some 6 && g.prio == [.link (linkPkt 5 [6, 0, 0, 0])]) &&
    port3 (.spareAck 3 (linkPkt 5 [6, 0, 44])) ((linkSt .active).modPort 3 fun g => { g with asked := some 6 })
      (fun g => g.spareAt == some (6, 44)) &&
    port3 (.keeperReq 3 (linkPkt 6 [])) (linkSt .active) (fun g => g.changing && g.prio == [.link (linkPkt 7 [])]) &&
    port3 (.keeperAck 3 (linkPkt 7 [])) ((linkSt .active).modPort 3 fun g => { g with wantKeeper := true, changing := true })
      (fun g => g.st == .keeper && !g.changing) &&
    port3 (.resumeReq 3 (linkPkt 8 [])) (linkSt .keeper) (fun g => g.changing && g.prio == [.link (linkPkt 9 [])]) &&
    port3 (.resumeAck 3 (linkPkt 9 [])) ((linkSt .keeper).modPort 3 fun g => { g with changing := true }) (fun g => g.st == .equalise) &&
    port3 (.laneFailing 3 6) (linkSt .active) (fun g => g.asked == some 6 && g.prio == [.link (linkPkt 4 [6])]) = true := by
  decide +kernel

/-- A short flit of a kind, seq and ack with 7 credits of channel 1, empty. -/
def short (kind seq ack : Nat) : List Byte :=
  flitBytes (FlitHead.word ⟨kind, seq, ack, 0, 0, 1, 7, false⟩) [List.replicate 32 0]

/-- A flit in order; one out of order; a RETRY_REQ; a flit of the wrong length. -/
theorem met_FlitExchange_receive :
    (decodeFlit 1 (short 0 0 0)).good.isSome &&
    port3 (.flitReceive 3 (short 0 0 0)) (linkSt .keeper) (fun g => g.rxSeq == 0 && KV.get 0 g.credits 1 == 7) &&
    port3 (.flitReceive 3 (short 0 1 0)) (linkSt .keeper) (fun g => g.rxSeq == 4095 && g.reqDue) &&
    port3 (.retryReqReceive 3 (short 2 0 8))
      ((linkSt .keeper).modPort 3 fun g => { g with retry := [⟨8, 0, [], [], []⟩, ⟨9, 0, [], [], []⟩] })
      (fun g => g.retries == 1 && g.resend == g.retry && g.retry.map (·.seq) == [9]) &&
    port3 (.flitReceive 3 []) (linkSt .keeper) (fun g => g.badFlits == 1 && g.reqDue && g.rxSeq == 4095) = true := by decide +kernel

/-- The first byte of a RETRY_REQ flit, 0x02, on lane 0 whose scrambler gives 0, 0, 0, 0, 0, 1, 1, 1 at first. -/
theorem test_scrambled_lane :
    port3 (.flitTransmit 3) ((linkSt .active).modPort 3 fun g => { g with reqDue := true })
      (fun g => (KV.find? g.wire 0).any fun w => w.take 4 == [3, -3, 3, 1]) = true := by decide +kernel

/-- A RETRY_REQ that is due; a flit to resend; neither. Loss of lock. -/
theorem met_FlitExchange_transmit :
    port3 (.flitTransmit 3) ((linkSt .keeper).modPort 3 fun g => { g with reqDue := true })
      (fun g => !g.reqDue && (decodeFlit 1 g.txFlit).good.any fun w => (FlitHead.of w.1).kind == 2) &&
    port3 (.flitTransmit 3) ((linkSt .keeper).modPort 3 fun g => { g with resend := [⟨9, 0, [List.replicate 32 0], [], [0]⟩] }) (fun g => g.resend.isEmpty) &&
    port3 (.flitTransmit 3) (linkSt .keeper) (fun g => g.txSeq == 0 && g.txFlit.length == 64) &&
    ([Instr.goodFlitTimeout 3, .flitLockLoss 3].all fun i =>
      port3 i (linkSt .active) fun g => g.st == .detect && g.downs == 1) = true := by decide +kernel
/-- Words of a body from a number, word 0 lowest. -/
def words (n k : Nat) : List W64 := (List.range k).map fun i => BitVec.ofNat 64 (n / 2 ^ (64 * i))

/-- Slot `c` of `s` runs, its list of an instance holds one command, of range 0, and that range is in force. -/
def queuedIn (c : Nat) (s : State) (cls inst kind : Nat) (body : List W64) : State :=
  s.modSlot c fun x => { x with
    st := .running, att := { x.att with on := true, ranges := [(8 * cls, 0)] }
    cur := { x.cur with lists := [⟨cls, inst, 0, [⟨0, kind, 0, 0, body⟩]⟩] }
    panels := [⟨0, 1000, cls⟩] }
/-- The same of slot 2. -/
def queued : State → Nat → Nat → Nat → List W64 → State := queuedIn 2

/-- Slot 2 with a page at address 0, two members, itself member 0 and device 9 member 1, a window and a tree. -/
def memSt (st : PortSt) (t : Tree) : State :=
  (linkSt st).modSlot 2 fun x => { x with
    st := .running, pages := [(0, ⟨false, true, 0, 0, true, false⟩)], regions := [⟨0, 0x200000, false, true, 0, true, false⟩]
    ghl := { x.ghl with link := ⟨2, 0, [⟨0, 512, 0, 1⟩], [t]⟩, peers := [(1, 0x8009)] } }

/-- XFER of 32 bytes to member 1. -/
theorem met_TransfersWaitsReductions_xfer :
    run (.xfer 0 2 0) (queued (memSt .active ⟨0xFFFF, 0, []⟩) 4 0 0 (words (0x10000 + 32 * 2 ^ 192) 4)) (fun u =>
      (u.act? 2 0 0).isSome && ((u.slot 2).nextCmd 4 0).isNone &&
        (u.port 3).writes.map (fun q => (ptype q.bytes, pdst q.bytes, q.bytes.length)) == [(3, 9, 64)]) = true := by decide +kernel

/-- WAIT for no byte, for one byte, and its end. -/
theorem met_TransfersWaitsReductions_wait :
    run (.wait 0 2 0) (queued (memSt .active ⟨0xFFFF, 0, []⟩) 4 0 1 (words 0 4))
      (fun u => (u.act? 2 0 0).isNone && ((u.slot 2).nextCmd 4 0).isNone) &&
    run (.wait 0 2 0) (queued (memSt .active ⟨0xFFFF, 0, []⟩) 4 0 1 (words (2 ^ 64) 4))
      (fun u => (u.act? 2 0 0).any fun a => a.waited == 0 && a.expect == 1) &&
    run (.waitSlackExpire 0 2 0) ((memSt .active ⟨0xFFFF, 0, []⟩).modCtxGhl 2 fun g => { g with acts := [{ freshAct 0 0 1 with expect := 1 }] })
      (fun u => (u.act? 2 0 0).isNone) = true := by decide +kernel

/-- REDUCE of one word, op 1, in a tree of this member alone and in one whose parent is member 1. -/
theorem met_TransfersWaitsReductions_reduce :
    run (.reduce 0 2 0) (queued (memSt .active ⟨0xFFFF, 0, []⟩) 4 0 2 (words (64 + 4 * 2 ^ 192) 4)) (fun u => (u.act? 2 0 0).isNone) &&
    run (.reduce 0 2 0) (queued (memSt .active ⟨1, 0, []⟩) 4 0 2 (words (64 + 4 * 2 ^ 192) 4)) (fun u =>
      (u.act? 2 0 0).isSome && (u.port 3).reduces.map (fun q => (ptype q.bytes, pdst q.bytes)) == [(5, 9)]) = true := by decide +kernel

/-- A WRITE or REDUCE packet of 32 zero bytes from device 7 to `dst`, of Stroke 0, index 0 and epoch 0. -/
def dataPkt (type dst : Nat) : List Byte :=
  routedHead type 63 0 dst 7 2 ++ dataHead 0 0 0 0 0 1 6 ++ List.replicate 32 0

/-- Packets for device 9. -/
theorem met_PacketArrivals_passing :
    run (.writePacketReceive 3 (dataPkt 3 9)) (linkSt .active)
      (fun u => (u.port 3).writes.map (fun q => (phops q.bytes, pdst q.bytes)) == [(62, 9)]) &&
    run (.reducePacketReceive 3 (dataPkt 5 9)) (linkSt .active)
      (fun u => (u.port 3).reduces.map (fun q => (phops q.bytes, pdst q.bytes)) == [(62, 9)]) &&
    run (.receiptPacketReceive 3 (receiptPkt 7 9 2 0 6 1 0 false 0)) (linkSt .active)
      (fun u => (u.port 3).receipts.map (fun q => (phops q.bytes, pdst q.bytes)) == [(62, 9)]) = true := by decide +kernel

/-- Packets for this device. -/
theorem met_PacketArrivals_here :
    run (.writePacketReceive 3 (dataPkt 3 5)) (memSt .active ⟨0xFFFF, 0, []⟩) (fun u => KV.get 0 (u.slot 2).ghl.counts 0 == 32) &&
    run (.writePacketReceive 3 (dataPkt 3 5)) (linkSt .active) (fun u => u.ghl.staleDrops == 1#32) &&
    run (.receiptPacketReceive 3 (receiptPkt 7 5 2 0 6 1 0 false 0))
      ((memSt .active ⟨0xFFFF, 0, []⟩).modCtxGhl 2 fun g => { g with acts := [{ freshAct 0 0 0 with tag := 6, bytes := 1024 }] })
      (fun u => (u.act? 2 0 0).any fun a => a.cov == 1 && a.done == 512) &&
    run (.reducePacketReceive 3 (dataPkt 5 5)) (memSt .active ⟨0xFFFF, 0, []⟩)
      (fun u => (u.slot 2).ghl.redIn == [⟨0, 6, 0, 7, 0, List.replicate 32 0, some 3⟩]) &&
    run (.reducePacketReceive 3 (dataPkt 5 5)) (linkSt .active) (fun u => u.ghl.staleDrops == 1#32) = true := by decide +kernel
/-! ### Mangle -/

/-- A PASS of one vector, one reduction step and one column of E4M3, to FP32 by the accumulation store alone. -/
def passN : Nat := 9 * 2 ^ 12 + 2 ^ 16 + 2 ^ 36 + 2 ^ 48 + 2 ^ 68 + 2 ^ 81

/-- PASS, a DUMMY of five slots, and a RAMP to level 1. -/
theorem met_MangleStarts :
    ([((fun c : Slot => Instr.pass c), passN), (fun c => .dummy c, 1 + 5 * 2 ^ 16), (fun c => .ramp c, 2 + 2 ^ 133)].all fun e =>
      run (e.1 2) (queued on 0 0 0 (words e.2 4)) fun u =>
        u.mgl.ops.map (fun o => (o.slot, o.d.opcode)) == [(2, (mdescOf (words e.2 4)).opcode)] &&
          u.mgl.level.hi == (mdescOf (words e.2 4)).duty && ((u.slot 2).nextCmd 0 0).isNone && u.mgl.ctr.aborts == 0) = true := by decide +kernel

/-- That PASS as an operation of slot 1. -/
def passOp (f : MDesc → MDesc) : MglOp := newOp 1 ⟨0, 0, 0, 0, []⟩ (f (mdescOf (words passN 4)))

/-- Context Lines 0 and 1 of slot 1 in tile (0, 0): one and eight rows for the Mangle, `a` and `b` of them held. -/
def feedLines (a b : Nat) (o : MglOp) : State :=
  let s := partSt (seqSt [])
  { s with
    mgl := { s.mgl with ops := [o] }
    tub := { s.tub with lines :=
      [(3, { LineRec.unset with cfg := some { cfg22 with reader := 2, banks := 1, rows := 1 }, tail := a, fill := List.range a }),
       (4, { LineRec.unset with cfg := some { cfg22 with reader := 2, banks := 4, rows := 2 }, tail := b, fill := List.range b })] } }

/-- The level above and at the bound of a range that is over. -/
theorem met_MangleStreams_level :
    run (.levelBound 1) { feedLines 0 0 (passOp id) with mgl := { Mgl.reset with ops := [passOp id], level := ⟨3, 3, 0⟩ } }
      (fun u => u.mgl.ops.all (·.abort.isSome) && decide ((u.slot 1).att.cause ≠ 0)) &&
    gives (.levelBound 1) (feedLines 0 0 (passOp id)) (feedLines 0 0 (passOp id)) = true := by decide +kernel

/-- The swap with all rows held, and with too few weight rows. -/
theorem met_MangleStreams_swap :
    run .swapInject (feedLines 1 8 (passOp id)) (fun u => u.mgl.ops.map (·.stage) == [.stream] && (u.line 4).head == 8) &&
    run .swapInject (feedLines 1 7 (passOp id))
      (fun u => u.mgl.ctr.hotBubbles == 1#32 && (u.slot 1).stk.stallCycles == 1#32 && u.mgl.ops.map (·.stage) == [.swap]) = true := by decide +kernel

/-- The only vector, with its row held and without. -/
theorem met_MangleStreams_vector :
    run .vectorInject (feedLines 1 8 { passOp id with stage := .stream }) (fun u => u.mgl.ops.map (fun o => (o.stage, o.sent)) == [(.tail, 1)]) &&
    run .vectorInject (feedLines 0 8 { passOp id with stage := .stream })
      (fun u => u.mgl.ctr.hotBubbles == 1#32 && u.mgl.ops.map (fun o => (o.stage, o.sent)) == [(.stream, 0)]) = true := by decide +kernel

/-- The PASS with its vector on its way to the drains: the element is 1.0 and the weight 1.0 (code 0x38). -/
def sentOp (f : MDesc → MDesc) : MglOp :=
  { passOp f with stage := .done, sent := 1, vecs := [(0, ⟨[0x38], [], []⟩)], b := [(0, 0x38)] }

/-- OVERWRITE stores 1 in column 0 with 32 fraction bits. -/
theorem met_MangleDrains_overwrite :
    run (.drainVector 0 0) (feedLines 0 0 (sentOp id)) (fun u =>
      (KV.get Acc.zero u.mgl.store 0).f == 0x100000000#80 && KV.get Acc.zero u.mgl.store 1 == Acc.zero &&
        KV.get 0 u.mgl.written 0 == 1 && u.mgl.ops.map (fun o => KV.get 0 o.drained 0) == [1]) = true := by decide +kernel

/-- ADD onto 1, and onto a slot whose flag is clear. -/
theorem met_MangleDrains_add :
    run (.drainVector 0 0)
      ((feedLines 0 0 (sentOp fun d => { d with accMode := 2 })).modMgl fun m => { m with store := [(0, ⟨0x100000000#80, 0⟩)], written := [(0, 1)] })
      (fun u => (KV.get Acc.zero u.mgl.store 0).f == 0x200000000#80) &&
    run (.drainVector 0 0) (feedLines 0 0 (sentOp fun d => { d with accMode := 2 }))
      (fun u => u.mgl.store == [] && u.mgl.ops.all fun o => o.abort == some 0x0204) = true := by decide +kernel

/-- A Hem output that is off by one. -/
theorem met_MangleDrains_hem :
    run (.drainVector 0 1) (feedLines 0 0 (sentOp fun d => { d with hemEn := true })) (fun u =>
      KV.get 0 u.mgl.ctr.hemFail 0 == 1#32 && u.mgl.store == [] && u.mgl.ops.all fun o => o.abort == some 0x0220) = true := by decide +kernel

theorem met_MangleEnds_buffer :
    run (.drainBufferWrite 5)
      (((lineSt 0 []).modLine 4 fun r => { r with cfg := some { cfg22 with writer := 0 } }).modMgl fun m =>
        { m with buf := [(5, [⟨[⟨0, 1, 0, 0x77⟩], 1, 0⟩])] })
      (fun u => u.mgl.buf == [] && (u.line 4).tail == 1 && u.tubMem.length == 1) = true := by decide +kernel

theorem met_MangleEnds_freeze :
    run .mangleFreeze { on with mgl := { on.mgl with freezeDue := 1 } } (fun u => u.mgl.frozen && u.mgl.freezeDue == 0) &&
    run .mangleResume { on with mgl := { on.mgl with frozen := true, resumeDue := 2 } } (fun u => !u.mgl.frozen && u.mgl.resumeDue == 1) &&
    run .drainAbortSignal (on.modMgl fun m => { m with
        ops := [{ passOp id with abort := some 5 }, { passOp id with k := 1 }]
        buf := [(0, [⟨[⟨0, 1, 0, 0⟩], 1, 0⟩, ⟨[⟨0, 1, 0, 0⟩], 1, 1⟩])] })
      (fun u => u.mgl.ops.map (·.k) == [1] && u.mgl.buf == [(0, [⟨[⟨0, 1, 0, 0⟩], 1, 1⟩])]) &&
    run .passComplete { on with mgl := { on.mgl with ops := [{ sentOp id with drained := [(0, 1), (1, 1), (2, 1), (3, 1)] }] } }
      (fun u => u.mgl.ops == [] && u.mgl.ctr.passes == 1#32) &&
    run (.bridgeParityError 1 .ret none) on (fun u => u.mp.log.head?.any fun r => r.code == 0x0210) &&
    run (.bridgeParityError 1 .ret (some 0)) (feedLines 0 0 (sentOp id)) (fun u => u.mgl.ops.all fun o => o.abort == some 0x0210) = true := by
  decide +kernel

/-- A cause meets slot 1 with an operation, a task and a RUN; the slot while its attempt is over. -/
theorem met_CausesEndWork :
    ((fun (u : State) => u.mgl.ops.all (·.abort.isSome) && u.tasks == [] && (u.slot 1).att.cause == tallyOf 0x0220 && tallyOf 0x0220 != 0)
      (raiseCause { feedLines 0 0 (passOp id) with
        tasks := [⟨0, 1, 0, strDescOf [], 0, 0, [], [], [], [], [], [], 0, none, false, false, false, false⟩] } 1 0x0220 0 0)) &&
    (raiseCause on 1 0x0220 0 0 == on) = true := by decide +kernel
/-! ### Seams, streams and memory -/

/-- The four operations on Seam 0 with Lines 0, 1, 2 and 3. -/
def seamBodies : List (Instr × Nat) :=
  [(.intersect 0 2, 0x321000 + 2 ^ 64 + 2 ^ 96 + 2 ^ 112), (.union 0 2, 0x021001 + 2 ^ 96 + 2 ^ 112),
    (.topk 0 2, 0x020002 + 2 ^ 96 + 2 ^ 128 + 2 ^ 160), (.route 0 2, 0x320003 + 2 ^ 96 + 2 ^ 128 + 2 ^ 160)]

theorem met_SeamOperations_starts :
    (seamBodies.all fun e => run e.1 (queued on 5 0 0 (words e.2 4)) fun u =>
      (KV.find? u.seams 0).any (fun o => o.slot == 2 && o.d.seqTag == 0 && o.out == .start) && ((u.slot 2).nextCmd 5 0).isNone) = true := by
  decide +kernel

/-- Operation number `i` of that list in flight for slot 2, on two streams that have ended. -/
def seamAt (i : Nat) (a b : List SEntry) : State :=
  { on with seams := [(0, ⟨2, 0, { seamDescOf (words ((seamBodies.getD i (.intersect 0 2, 0)).2) 4) with outMax := 64 },
    ⟨a, 0, none, true⟩, ⟨b, 0, none, true⟩, .start, .start, 0, 0, false⟩)] }

/-- A and B with payloads. -/
def strA : List SEntry := [⟨1, 0x3F800000⟩, ⟨3, 0x40000000⟩]
def strB : List SEntry := [⟨3, 7⟩, ⟨9, 8⟩]

/-- A test of the outputs of an operation of Seam 0. -/
def seamOut (i : Instr) (s : State) (out aux : List SEntry) : Bool :=
  run i s fun u => (KV.find? u.seams 0).any fun o => o.out.buf == out && o.aux.buf == aux

/-- A = 1 (value 1.0) and 3 (value 2.0), B = 3 and 9. ROUTE has token 48, slot 0 to expert 0 and rejects the second. -/
theorem met_SeamOperations_results :
    seamOut (.intersect 0 2) (seamAt 0 strA strB) [⟨3, 0x40000000⟩] [⟨3, 7⟩] &&
    seamOut (.union 0 2) (seamAt 1 strA strB) [⟨1, 0x3F800000⟩, ⟨3, 0x40000000⟩, ⟨9, 8⟩] [] &&
    seamOut (.topk 0 2) (seamAt 2 strA []) [⟨3, 0x40000000⟩, SEntry.term] [] &&
    seamOut (.route 0 2) (seamAt 3 [⟨48, 0⟩, ⟨64, 0⟩] []) [⟨3, 48⟩, SEntry.term] [⟨64, 0⟩, SEntry.term] = true := by decide +kernel

/-- A row that holds a terminator; the end of an operation. -/
theorem met_SeamOperations_rows :
    run (.union 0 1)
      { (lineSt 1 []).modLine 4 fun r => { r with cfg := some { cfg22 with reader := 4 } } with
        tubMem := KV.setList 0 [] (512 * 552) (List.replicate 8 0xFF)
        seams := [(0, ⟨1, 0, { seamDescOf (words 1 4) with inA := 1 }, .start, .start, .start, .start, 0, 0, false⟩)] }
      (fun u => (KV.find? u.seams 0).any (fun o => o.a.ended && o.a.buf == []) && (u.line 4).head == 1) &&
    run (.seamComplete 0 2) { on with seams := [(0, ⟨2, 0, seamDescOf [], .start, .start, ⟨[], 0, 0, true⟩, .start, 0, 0, false⟩)] }
      (fun u => u.seams == []) = true := by decide +kernel

/-- Lines 0 and 1 of slot 1 in tile (0, 0) belong to the stream engine, `n` rows of Line 1 are held, and a page lies at 0. -/
def strLines (n : Nat) : State :=
  let s := (lineSt n []).modLine 4 fun r => { r with cfg := some { cfg22 with reader := 5, writer := 5 } }
  (s.modLine 3 fun r => { r with cfg := some { cfg22 with reader := 5 } }).modSlot 1 fun x =>
    { x with pages := [(0, ⟨false, true, 0, 0, true, false⟩)], regions := [⟨0, 0x200000, false, true, 0, true, false⟩] }

/-- A task of one granule at 0 on Line 1; for the indexed forms a run of eight. -/
def strBody (op : Nat) : List W64 := [BitVec.ofNat 64 (op + 16), 0, if op < 2 then 64 else 64 + (7 <<< 48), 0, 0, 0, 0, 0]

theorem met_StreamStarts :
    ([(Instr.load 0 1, 0), (.store 0 1, 1), (.gather 0 1, 2), (.scatter 0 1, 3)].all fun e =>
      run e.1 (queuedIn 1 (strLines 0) 2 0 0 (strBody e.2)) fun u =>
        u.tasks.map (fun t => (t.slot, t.d)) == [(1, strDescOf (strBody e.2))] && ((u.slot 1).nextCmd 2 0).isNone) = true := by decide +kernel

/-- The task of an op in the state `s`. -/
def strTask (s : State) (op : Nat) (rows : List RowIn) : State :=
  { s with tasks := [⟨0, 1, 0, strDescOf (strBody op), 0, 0, [], [], rows, [], [], [], 0, none, false, false, false, false⟩] }

/-- The only row of a LOAD: reserved in slot 0 of Line 1, and landed there with the byte 0xAB. The row of a STORE. -/
theorem met_StreamRows :
    run (.rowReserve 0 1 0) (strTask (strLines 0) 0 []) (fun u =>
      u.tasks.map (fun t => (t.next, t.rows.map fun w => (w.key, w.slot, w.wait))) == [(1, [(4, 0, [.dev 0 0])])] && (u.line 4).resv == 1) &&
    run (.strRowLand 0 1 0) { strTask (strLines 0) 0 [⟨0, false, 4, 0, 1, 0, some 0 :: List.replicate 7 none, [], []⟩] with stackMem := [(0, 0xAB)] }
      (fun u => u.tubMem == [(512 * 552, 0xAB)] && (u.line 4).tail == 1 && u.tasks.all fun t => t.rows == [] && t.done == [0]) &&
    run (.storeRow 0 1 0) { strTask (strLines 1) 1 [] with tubMem := [(512 * 552, 0xAB)] }
      (fun u => u.mem.writes.map (fun w => (w.stack, w.block, w.parts.map fun p => (p.1, p.2.take 2, p.2.length))) == [(0, 0, [(0, [0xAB, 0], 64)])]) &&
    run (.strTaskComplete 0 1 0) ({ strTask (strLines 0) 0 [] with tasks := (strTask (strLines 0) 0 []).tasks.map fun t => { t with next := 1 } })
      (fun u => u.tasks == []) &&
    gives (.strTaskComplete 0 1 0) (strTask (strLines 0) 0 []) (strTask (strLines 0) 0 []) = true := by decide +kernel

/-- Block 0 of stack 2 comes back to its row; correctable and uncorrectable reads; a write of two bytes; a page copy; a host block. -/
theorem met_MemoryReadsAndWrites :
    gives (.patrolRead 2 5 0 .clean false) on on &&
    run (.memReadDone 2 5 0 .clean false) (strTask on 0 [⟨0, false, 4, 0, 1, 0, [some 0], [], [.dev 2 0]⟩])
      (fun u => u.tasks.all fun t => t.rows.all fun w => w.wait == [] && w.poison == []) &&
    ([Instr.memReadDone 2 5 0 .correctable false, .patrolRead 2 5 0 .correctable false].all fun i =>
      run i on fun u => u.str.memCe == 1#32 && u.str.memUe == 0#32) &&
    ([Instr.memReadDone 2 5 0 .uncorrectable false, .patrolRead 2 5 0 .uncorrectable false].all fun i =>
      run i on fun u => u.str.memUe == 1#32 && u.str.errLast == memErrWord on 2 0 1) &&
    run (.memWriteDone 0 5) { on with mem := { on.mem with writes := [⟨0, 0, [(64, [1, 2])], 0, 1, 0, 0⟩] } }
      (fun u => u.stackMem == [(64, 1), (65, 2)] && u.mem.writes == []) &&
    run (.retirementCopyDone 0) { on with mem := { on.mem with retiring := [⟨0, 7, 0, false, []⟩], err := [(458752, 2)] } }
      (fun u => u.mem.retiring == [⟨0, 7, 0, true, [114688]⟩] && u.mem.marked == []) &&
    run (.hostReadCompletion 0 1 0 false) (strTask on 0 [⟨0, false, 4, 0, 1, 0, [some 0], [], [.host 256]⟩])
      (fun u => u.tasks.all fun t => t.rows.all fun w => w.wait == []) = true := by decide +kernel
/-! ### Presses -/

/-- One panel of one element on Press `j`, its slots at 0 and 4,096, its gradient at 8,192, its copies at 12,352 and 16,448; a step
record of step 0 with a decision, and a global vote that passes. -/
def onePanel (j dec : Nat) : Press :=
  { Press.empty with
    present := true, pressCount := 1, groups := [{ GroupEnt.zero with lrLen := 1 }], steps := [0]
    panels := [⟨0, 0, j, 0, 1, false, false, false, 0, 1, 1, 0, 1, 0, 4096, 8192, 12352, 16448, 20480, 24576⟩]
    gens := [⟨0, 0, false, false, 0, 0, 5⟩], recs := [(2 * j, ⟨0, dec, 0, f32one, 0⟩)], curRec := [(j, 1)], gVote := some ⟨0, 0, 1⟩ }

/-- A job of a kind over that panel at the head of Press `j`'s queue. -/
def pressSt (j kind dec : Nat) : State :=
  (queued on 3 j kind (words (2 ^ 16) 4)).modSlot 2 fun x => { x with
    press := onePanel j dec, pages := [(0, ⟨false, true, 0, 0, true, false⟩)] }

/-- What the job's record says: status, flags, panels done, panels refused (bytes 4 to 11 of Table 9.8). -/
def jobRec (i : Instr) (s : State) (st flags done refused : Nat) : Bool :=
  run i s fun u => (KV.find? (u.slot 2).press.jobs 0).any fun q =>
    (q.rec_.drop 4).take 8 == leBytes 2 st ++ leBytes 1 flags ++ leBytes 1 0 ++ leBytes 2 done ++ leBytes 2 refused

/-- Every kind does its work; DECIDE finds no record and refuses; LOADFOLD finds no Fold. -/
theorem met_PressJobs_kinds :
    jobRec (.norm 0 2) (pressSt 0 0 1) 0 0 1 0 && jobRec (.pressDecide 0 2) (pressSt 0 1 1) 0 2 1 0 &&
    jobRec (.prep 0 2) (pressSt 0 2 1) 0 0 1 0 && jobRec (.cand 0 2) (pressSt 0 3 1) 0 0 1 0 &&
    jobRec (.cand 0 2) (pressSt 0 3 2) 0 2 1 0 && jobRec (.pressVote 0 2) (pressSt 0 4 1) 0 0 1 0 &&
    jobRec (.commit 0 2) (pressSt 0 5 1) 0 0 1 0 && jobRec (.publish 0 2) (pressSt 0 6 1) 0 0 1 0 &&
    jobRec (.gzero 0 2) (pressSt 0 7 1) 0 0 1 0 && jobRec (.loadfold 0 2) (pressSt 0 9 1) 0x060C 0 0 1 = true := by decide +kernel

/-- The Fold of that panel: a header of 128 bytes and its record, the step of the panel in the header. -/
theorem met_PressJobs_fold :
    run (.fold 0 2) (pressSt 0 8 1) (fun u =>
      u.prs.folds == 1#32 && (KV.get [] (u.slot 2).press.folds 0).take 8 == [0x46, 0x4F, 0x4C, 0x44, 1, 0, 0, 0] &&
        (KV.get [] (u.slot 2).press.folds 0).length == 128 + 64 + 192) = true := by decide +kernel

/-- PUBLISH of a panel that is published, and PRESS_JOB_COMPLETE. -/
theorem met_PressJobs_ends :
    jobRec (.publish 0 2) ((pressSt 0 6 1).modPress 2 fun p => { p with gens := [⟨0, 0, false, false, 0, 0, 0⟩] }) 0 4 1 0 &&
    run (.pressJobComplete 3 2) ((pressSt 0 0 1).modPress 2 fun p => { p with jobs := [(3, ⟨0, []⟩)] })
      (fun u => (u.slot 2).press.jobs == []) = true := by decide +kernel

/-- The decisions: PROCEED, SKIP and HALT for a non-finite count, SKEW, REFUSED. -/
theorem met_PressDecisions_decide :
    ([(1, 0, 0, false, 1), (1, 3, 0, false, 2), (1, 3, 0, true, 3), (1, 0, 1, false, 4), (2, 0, 0, false, 5)].all fun e =>
      run (.pressDecide 0 2) ((pressSt 0 1 1).modPress 2 fun p => { p with
          halt := e.2.2.2.1, gNorm := some ⟨0, 0, BitVec.ofNat 32 e.2.1, 0, BitVec.ofNat 32 e.2.2.1, false, e.1⟩ })
        fun u => (KV.find? (u.slot 2).press.recs 0).any fun r => r.decision == e.2.2.2.2 && r.c == f32one && r.g == 0#32) = true := by
  decide +kernel

/-- NORM and VOTE on Press 1, the arrival of its record, COMMIT, PREP. -/
theorem met_PressDecisions_ring :
    run (.norm 1 2) (pressSt 1 0 1) (fun u => (u.slot 2).press.ring.any fun r => r.press == 1 && r.norm.any fun n => n.contributors == 1) &&
    run (.pressVote 1 2) ((pressSt 1 4 1).modPress 2 fun p => { p with fails := [(0, 3)] })
      (fun u => (u.slot 2).press.ring == [⟨1, none, some ⟨0, 3, 1⟩⟩] && KV.find? (u.slot 2).press.votes 1 == some ⟨0, 3, 1⟩) &&
    run (.ringRecord 1 2) ((pressSt 1 0 1).modPress 2 fun p => { p with ring := [⟨1, some NormRec.none, none⟩] })
      (fun u => (u.slot 2).press.ring == [] && (u.slot 2).press.devNorm.isSome && KV.find? (u.slot 2).press.devNorms 1 == some NormRec.none) &&
    run (.commit 0 2) (pressSt 0 5 1) (fun u => (u.slot 2).press.gens.map (fun e => (e.gen, e.step)) == [(1#32, 1#32)]) &&
    run (.prep 0 2) (pressSt 0 2 1) (fun u => u.stackMem == [] && (KV.find? (u.slot 2).press.jobs 0).isSome) = true := by decide +kernel

/-- A gradient of four bytes, under PROCEED and under HALT. -/
theorem met_GzeroClearsGradients :
    run (.gzero 0 2) { pressSt 0 7 1 with stackMem := [(8192, 1), (8195, 2), (8196, 3)] } (fun u => u.stackMem == [(8196, 3)]) &&
    run (.gzero 0 2) { pressSt 0 7 3 with stackMem := [(8192, 1), (8195, 2), (8196, 3)] } (fun u => u.stackMem.length == 3) &&
    jobRec (.gzero 0 2) (pressSt 0 7 3) 0 6 1 0 = true := by decide +kernel

/-- Row 3 of a Line of two banks and two rows, in row blocks from 2: bank 3, row 41. -/
theorem met_LineRowsLieInSlots :
    (match lineWrite (lineSt 3 []) 1 t00 1 ⟨3, 0⟩ 0x77#4096 with
      | (.done _, v) => v.tubMem == [(512 * (3 * 256 + 41), 0x77#8)]
      | _ => false) &&
    (match lineRead { lineSt 3 [] with tubMem := [(512 * (2 * 256 + 40), 0x66)] } 1 t00 1 ⟨3, 0⟩ true with
      | (.done r, _) => r == 0x66#4096
      | _ => false) = true := by decide +kernel
/-! ### Management -/

/-- The answer of a request over I3C. -/
def answers (i : Instr) (s : State) (a : List Byte) : Bool := run i s fun u => u.readData == a
/-- No interface has a role. -/
def noRole : State := { on with mp := { on.mp with roles := [] } }
/-- I3C has the role OPERATOR, and an update over it is in progress. -/
def updSt (table : List Nat) (cur : Option (Nat × Nat)) (done : List (Nat × List Byte)) (ready : Bool) : State :=
  { on with mp := { on.mp with roles := [(Iface.i3c.origin, 2)], update := some ⟨Iface.i3c.origin, table, cur, [], done, ready, none⟩ } }

theorem met_ManagementQueries :
    mctpOn .i3c && answers (.getEndpointId .i3c []) { on with mp := { on.mp with eids := [(Iface.i3c.origin, 9)] } } [0, 9, 0, 0] &&
    answers (.getMessageTypeSupport .i3c []) on [0, 4, 0, 1, 5, 0x7E] &&
    run (.getEndpointUuid .i3c []) on (fun u => u.readData.length == 17) && run (.getTid .i3c []) on (fun u => u.readData.length == 2) &&
    answers (.getPldmTypes .i3c []) on [0, 0x25, 0, 0, 0, 0, 0, 0, 0] && run (.queryDeviceIdentifiers .i3c []) on (fun u => u.readData.length == 12) &&
    answers (.getStatus .i3c []) on [0, 0, 0, 3, 0, 0x65, 0, 0, 0, 0, 0] && run (.getFirmwareParameters .i3c []) on (fun u => u.readData.length == 31) &&
    run (.getMctpVersionSupport .i3c [1]) on (fun u => u.readData.length == 6) && answers (.getMctpVersionSupport .i3c [2]) on [0x80] &&
    run (.getPldmCommands .i3c [2]) on (fun u => (u.readData.take 4) == [0, 0x10, 4, 2]) &&
    run (.getPldmVersion .i3c [0, 0, 0, 0, 0, 5]) on (fun u => u.readData.length == 14) && answers (.getPldmVersion .i3c [0, 0, 0, 0, 0, 6]) on [0x83] &&
    decide (1 ≤ roleOf on .i3c) && run (.getPdr .i3c [1, 0, 0, 0, 0, 0, 0, 0, 1, 64, 0]) on (fun u => u.readData.headD 9 == 0) &&
    answers (.getSensorReading .i3c [1, 0]) { on with mp := { on.mp with sensors := [(1, 300)] }, power := { on.power with warm := [1] } }
      [0, 5, 0, 0, 2, 0, 2, 0x2C, 1, 0, 0] &&
    ([Instr.getPdrRepositoryInfo .i3c [], .getPdr .i3c [], .getSensorReading .i3c []].all fun i =>
      run i noRole fun u => u.readData == [1] && u.mp.log.head?.any fun r => r.code == 0x0908) = true := by decide +kernel

/-- A message on the mailbox is GetMessageTypeSupport; a MGMT packet carries the same from device 9. -/
theorem met_ManagementTransports :
    run (.setEndpointId .i3c [1, 9]) on (fun u => u.readData == [0, 0, 9, 0] && KV.get 0 u.mp.eids Iface.i3c.origin == 9) &&
    run (.setEventReceiver .i3c [1, 0, 7]) (updSt [] none [] false) (fun u => u.mp.eventRx == some (leBytes 1 Iface.i3c.origin ++ [7])) &&
    run (.opMctp 0) (acc { up with mp := { up.mp with mbxQ := [[1, 2], [3]] } } 0 0x0601 none [0, 0, 1, 0, 0, 0, 0, 0])
      (fun u => answered 0 0 [2, 0, 1, 0, 0, 0, 0, 0, 1, 2] u && u.mp.mbxQ == [[3]]) &&
    run (.opMctp 0) (acc up 0 0x0601 none [3, 0, 0, 0, 0, 0, 0, 0, 0, 0x81, 5])
      (answered 0 0 [9, 0, 0, 0, 0, 0, 0, 0, 0, 1, 5, 0, 4, 0, 1, 5, 0x7E]) &&
    run (.opMctp 0) (acc up 0 0x0601 none [3, 0, 1, 0, 0, 0, 0, 0]) (answered 0 0x0802 []) &&
    run (.mgmtPacketReceive 3 (mgmtPkt 9 5 0 0 0xC0 [0, 0x80, 5])) (linkSt .active)
      (fun u => u.readData == [0, 0, 5, 0, 4, 0, 1, 5, 0x7E] && (u.port 3).mgmts.length == 1) &&
    run (.mgmtPacketReceive 3 (mgmtPkt 9 5 0 0 0x80 [0, 0x80])) (linkSt .active) (fun u => u.mp.asm == [⟨9, 0, 1, [0, 0x80]⟩]) &&
    gives (.boundaryScan 2) on on &&
    run (.boundaryScan 2) { on with straps := 5, power := { on.power with rails := [.stby] } } (fun u => u.readData == [0b010111]) &&
    run (.i3cAddressAssignment (.entdaa 0x50)) on (fun u => u.mp.i3cAddr == some 0x50) &&
    run (.i3cAddressAssignment (.setdasa 0x60 0x50)) on (fun u => u.mp.i3cAddr == some 0x50) &&
    gives (.i3cAddressAssignment (.setdasa 0x61 0x50)) on on = true := by decide +kernel

theorem met_FirmwareUpdates :
    run (.requestUpdate .i3c []) { on with mp := { on.mp with roles := [(Iface.i3c.origin, 2)] } } (fun u => u.mp.update.isSome && u.readData.length == 4) &&
    answers (.requestUpdate .i3c []) (updSt [] none [] false) [0x81] &&
    run (.passComponentTable .i3c [0, 0, 0, 2, 0]) (updSt [1] none [] false) (fun u => u.mp.update.any fun g => g.table == [1, 2]) &&
    run (.updateComponent .i3c [0, 0, 2, 0, 0, 0, 0, 0, 0, 16, 0, 0, 0]) (updSt [1, 2] none [] false)
      (fun u => u.mp.update.any fun g => g.cur == some (2, 16)) &&
    run (.firmwareDataResponse .i3c [0, 7]) (updSt [1, 2] (some (2, 16)) [] false)
      (fun u => (u.mp.update.any fun g => g.got == [7]) && !(u.mp.fw 1).verifies && u.mp.active == 0) &&
    run (.firmwareDataResponse .i3c [0, 7]) (updSt [1, 2] (some (2, 1)) [] false)
      (fun u => u.mp.update.any fun g => g.done == [(2, [7])] && g.cur.isNone) &&
    run (.firmwareDataResponse .i3c [0, 7]) (updSt [1, 2] (some (2, 1)) [(1, [8])] false) (fun _ => true) &&
    run (.activateFirmware .i3c []) (updSt [1, 2] none [] true) (fun u => u.mp.active == 1 && u.mp.update.isNone) &&
    answers (.activateFirmware .i3c []) (updSt [1, 2] (some (2, 16)) [] false) [0x85] &&
    run (.cancelUpdateComponent .i3c []) (updSt [1, 2] (some (2, 16)) [] false) (fun u => u.mp.update.any fun g => g.cur.isNone) &&
    run (.cancelUpdate .i3c []) (updSt [1, 2] (some (2, 16)) [] false) (fun u => u.mp.update.isNone) = true := by decide +kernel

/-- The responder after a step of the negotiation. -/
def spdmSt (v : Option Nat) (caps algs : Bool) : State := { on with mp := { on.mp with spdm := ⟨v, caps, algs⟩ } }

theorem met_SpdmRequests :
    run (.getVersion .doe [0, 0]) on (fun u => u.readData.length == 9 && u.mp.spdm == ⟨some 0, false, false⟩) &&
    run (.getCapabilities .doe [0, 0]) (spdmSt (some 0) false false) (fun u => u.readData.headD 0 == 0x61 && u.mp.spdm.caps) &&
    run (.negotiateAlgorithms .doe [0, 0]) (spdmSt (some 0) true false) (fun u => u.readData.headD 0 == 0x63 && u.mp.spdm.algs) &&
    ([Instr.getDigests .doe [], .getCertificate .doe [], .challenge .doe [], .getMeasurements .doe []].all fun i =>
      answers i (spdmSt (some 0) true false) [0x7F, 4, 0]) &&
    ([Instr.getDigests .doe [0, 0], .getCertificate .doe [0, 0, 0, 0, 0, 1], .challenge .doe [0, 0], .getMeasurements .doe [0, 9],
        .getMeasurements .doe [0, 0]].all fun i => run i (spdmSt (some 0) true true) fun _ => true) &&
    run (.getMeasurements .doe [0, 0]) (spdmSt (some 0) true true) (fun u => u.readData.take 4 == [0x60, 9, 0, 0] && u.freeCtr == 4) &&
    run (.challenge .doe [0, 0]) (spdmSt (some 0) true true) (fun u => u.freeCtr == 16) = true := by decide +kernel

/-- The commands of an interface with no role, a READER's, an OPERATOR's, and an OWNER's that no owner signed. -/
theorem met_VendorCommands :
    ([Instr.getLog .i3c [], .getChanges .i3c [], .serviceChallenge .i3c [], .serviceRecord .i3c [], .setTime .i3c [], .setConfig .i3c [],
        .commitSvn .i3c []].all fun i => run i noRole fun u => u.readData == [8, 9] && u.mp.log.head?.any fun r => r.code == 0x0908) &&
    answers (.getLog .i3c [0, 0, 0, 0]) { on with mp := { on.mp with log := [⟨0, 0, 0x0102, 0x10, 2, 0, 0, 0⟩] } }
      ([0, 0] ++ List.replicate 12 0 ++ [2, 1, 0x10, 2] ++ List.replicate 16 0) &&
    answers (.getChanges .i3c []) on [0, 0] && answers (.serviceChallenge .i3c []) on [0, 0, 0, 0, 0, 0] &&
    run (.serviceRecord .i3c []) on (fun u => u.readData == [0x0C, 9] && u.mp.log.head?.any fun r => r.code == 0x090C) &&
    run (.setTime .i3c [5]) (updSt [] none [] false) (fun u => u.readData == [0, 0] && u.mp.wall == some (5, 0)) &&
    answers (.setTime .i3c [5]) { updSt [] none [] false with mp := { (updSt [] none [] false).mp with wall := some (9, 0) } } [0x0D, 9] &&
    run (.setConfig .i3c [2, 3]) (updSt [] none [] false) (fun u => u.readData == [0, 0] && u.mp.config.cooling == 3 && u.mp.changeSeq == 1) &&
    answers (.setConfig .i3c [2, 4]) (updSt [] none [] false) [2, 8] &&
    run (.commitSvn .i3c []) { updSt [] none [] false with mp := { (updSt [] none [] false).mp with slotA := { FwSlot.factory with svn := 7 } } }
      (fun u => u.readData == [0, 0] && u.mp.floor == 7) &&
    run (.takeOwnership .i3c (List.replicate 96 1)) (updSt [] none [] false) (fun u => u.readData == [0, 0] && u.mp.ownerKey.isSome) &&
    run (.setRoles .i3c [1, 1, 1, 1, 1]) on (fun u => u.readData == [0x0A, 9] && u.mp.roles == on.mp.roles) = true := by decide +kernel

/-! ### Second witnesses: further clauses of the claims above -/

/-- The same mailbox after it has come to wait for the opening band. -/
def banded (s : State) (m op c : Nat) (payload : List Byte) : State :=
  (acc s m op (some c) payload).modMbx m fun b => { b with stage := .band }

/-- A HELD slot with a host page at the foot of host space, while Strokes run. -/
def bandSt : State :=
  strokes ((bareSt .held).modSlot 2 fun x => { x with pages := x.pages ++ [(vaHost, ⟨true, false, 0, 0x5000, true, false⟩)] })

/-- With Strokes the commands of the opening band wait for it. -/
theorem met_RefusalsUnloadAndRelease_waits :
    ([(Instr.opUnload 0, 0x0203, pay 2 8 []), (.opRelease 0, 0x0204, pay 2 8 []), (.opSave 0, 0x0205, pay 2 16 []),
        (.opPageMap 0, 0x0301, pay 2 32 [(1, [1, 0, 0, 1]), (8, leBytes 8 (vaHost + 4096)), (16, leBytes 8 0x6000), (24, [1])]),
        (.opPageUnmap 0, 0x0302, pay 2 32 [(1, [1]), (8, leBytes 8 vaHost), (24, [1])]), (.opWatch 0, 0x0401, pay 2 48 [(16, watchBytes)]),
        (.opDecide 0, 0x0402, pay 2 8 [(1, [6])]), (.opFeed 0, 0x0403, pay 2 32 [])].all fun e =>
      gives e.1 (acc bandSt 0 e.2.1 (some 2) e.2.2) (banded bandSt 0 e.2.1 2 e.2.2)) = true := by
  decide +kernel

/-- The band serves OP_UNLOAD of a HELD and of a RUNNING slot, and OP_RELEASE. -/
theorem met_RefusalsUnloadAndRelease_band :
    (fun (u : State) => answered 0 0 [] u && (u.slot 2).st == .empty)
      (bandCmd 0 (banded (strokes (slotSt up 2 .held)) 0 0x0203 2 (pay 2 8 []))) &&
    (fun (u : State) => (u.mbx 0).stage == .busy && (u.slot 2).st == .held && (u.slot 2).stopped && (u.slot 2).unload)
      (bandCmd 0 (banded (strokes (slotSt up 2 .running)) 0 0x0203 2 (pay 2 8 []))) &&
    run (.opUnload 0) (acc (slotSt up 2 .running) 0 0x0203 (some 2) (pay 2 8 []))
      (fun u => (u.mbx 0).stage == .busy && (u.slot 2).st == .held && (u.slot 2).stopped && (u.slot 2).unload) &&
    (fun (u : State) => answered 0 0 [] u && (u.slot 2).holds == 48#6)
      (bandCmd 0 (banded (strokes (up.modSlot 2 fun x => { x with st := .held, holds := 63 })) 0 0x0204 2 (pay 2 8 []))) = true := by
  decide +kernel

/-- A device page before any image, for an EMPTY and for a HELD slot; in the band; a resident page; no page left. -/
theorem met_PagesAndCopies_maps :
    run (.opPageMap 0) (acc up 0 0x0301 (some 2) (pay 2 32 [(1, [0, 1, 3, 1]), (24, [1])]))
      (fun u => answered 0 0 [] u && KV.find? (u.slot 2).pages 0 == some ⟨false, true, 3, 0, true, true⟩) &&
    run (.opPageMap 0) (acc (pageSt up .held) 0 0x0301 (some 2) (pay 2 32 [(1, [0, 1, 3, 1]), (8, leBytes 8 0x800000), (24, [1])]))
      (fun u => answered 0 0 [] u && KV.find? (u.slot 2).pages 0x800000 == some ⟨false, true, 3, 0, true, true⟩) &&
    (fun (u : State) => answered 0 0 [] u && KV.find? (u.slot 2).pages vaHost == some ⟨true, false, 0, 0x5000, true, false⟩)
      (bandCmd 0 (banded (strokes (pageSt up .loaded)) 0 0x0301 2
        (pay 2 32 [(1, [1, 0, 0, 1]), (8, leBytes 8 vaHost), (16, leBytes 8 0x5000), (24, [1])]))) &&
    run (.opPageMap 0) (acc (pageSt up .loaded) 0 0x0301 (some 2) (pay 2 32 [(1, [0, 1]), (24, [1])])) (answered 0 0x080A []) &&
    (fun (u : State) => answered 0 0 [] u && (u.slot 2).pages == [])
      (bandCmd 0 (banded (strokes ((pageSt up .loaded).modSlot 2 fun x => { x with pages := [(vaHost, ⟨true, false, 0, 0x5000, true, false⟩)] }))
        0 0x0302 2 (pay 2 32 [(1, [1]), (8, leBytes 8 vaHost), (24, [1])]))) = true := by decide +kernel

/-- A host page of context memory and a Fold staging area take the bytes of host memory. -/
theorem met_PagesAndCopies_directions :
    run (.opCopy 0) (acc (pageSt up .loaded) 0 0x0303 (some 2) (pay 2 32 [(16, [128]), (24, [64])])) (fun u => (u.mbx 0).stage == .busy) &&
    run (.copyComplete 0 none) (busy { pageSt up .loaded with hostMem := [(191, 9)] } 0 0x0303 2 (pay 2 32 [(16, [128]), (24, [64])]))
      (fun u => answered 0 0 (leBytes 8 64) u && u.stackMem == [(63, 9)]) &&
    run (.opCopy 0) (acc ((pageSt up .loaded).modPress 2 fun p => { p with foldSize := [(3, 128)] }) 0 0x0303 (some 2)
        (pay 2 32 [(1, [0, 1, 3, 1]), (8, [64]), (24, [64])])) (fun u => (u.mbx 0).stage == .busy) &&
    run (.copyComplete 0 none) (busy { (pageSt up .loaded).modPress 2 fun p => { p with foldSize := [(3, 128)] } with hostMem := [(63, 9)] }
        0 0x0303 2 (pay 2 32 [(1, [0, 1, 3, 1]), (8, [64]), (24, [64])]))
      (fun u => ((KV.get [] (u.slot 2).press.folds 7).drop 64).take 64 == List.replicate 63 0 ++ [9]) = true := by decide +kernel

/-- Host memory that fails at 4,096. -/
theorem met_HostErrors :
    run (.opPeerMap 0) { acc (pageSt up .loaded) 0 0x0501 (some 2) (pay 2 24 [(8, leBytes 8 4096), (16, [1])]) with hostErr := [1] }
      (fun u => answered 0 0x0806 [] u && (u.slot 2).jobEpoch == 0) &&
    run (.opDomain 0) { acc up 0 0x0101 none (domainBytes.take 24 ++ leBytes 8 4096 ++ domainBytes.drop 32) with hostErr := [1] }
      (fun u => answered 0 0x0806 [] u && u.stroke.mode == 0) &&
    run (.opEvents 1) { acc up 1 2 none (leBytes 8 4096 ++ leBytes 8 16) with hostErr := [1] }
      (fun u => answered 1 0 [] u && (u.mbx 1).ring == some ⟨4096, 16⟩) &&
    run (.mbxEvtTailWrite 1 5) { (up.modMbx 1 fun b => { b with ring := some ⟨4096, 16⟩, lostOwn := 3, head := 5 }) with hostErr := [1] }
      (fun u => (u.mbx 1).tail == 5 && (u.mbx 1).ring.isNone) = true := by decide +kernel

/-- A request whose bytes 0x008 to 0x00F are not zero. -/
theorem met_MailboxFlow_reserved :
    run (.acknowledgement 0) ((sealed up 0 1 []).modMbx 0 fun b => { b with page := KV.setList 0 b.page 15 [1] }) (answered 0 0x0802 []) = true := by
  decide +kernel

/-- A test of unit `u` under way at its last step. -/
def testing (t : Nat) (u : W32) : State := { up with mp := { up.mp with tstQ := [⟨t, u⟩], tstSteps := 8192, tstBusy := true } }

/-- TUB finds its own lasting error and one in another row; ARRAY finds the bypassed row alone. -/
theorem met_SelfTestsAndDarn_found :
    run (.tstResult ⟨true, true⟩ 0) (testing 2 0) (fun u => u.mp.tstLasting == 2#32) &&
    run (.tstResult ⟨true, true⟩ 4) { testing 0 0x1030 with bypass := [(0, 3)] } (fun u => u.mp.tstLasting == 1#32) &&
    run (.tstResult ⟨true, false⟩ 3) { testing 0 0x1000 with bypass := [(0, 3)] } (fun u => u.mp.tstLasting == 0#32) = true := by decide +kernel

/-- A tally that comes while the CP is held in reset, and before the closing band after it. -/
theorem met_TalliesAndMisses_held :
    run (.tallyPacketReceive 1 (tallyPkt 9#48 0x000001#24 2 false 3))
      ((follower.modPort 1 fun g => { g with st := .active, peerAdmitted := true }).modMp fun p => { p with cpHeld := true })
      (fun u => u.stroke.count == 0 && u.stroke.staleTallies == 0) &&
    run (.tallyPacketReceive 1 (tallyPkt 9#48 0x000001#24 2 false 3))
      ((follower.modPort 1 fun g => { g with st := .active, peerAdmitted := true }).modStroke fun k => { k with closing := true, formed := false })
      (fun u => u.stroke.count == 0 && u.stroke.staleTallies == 0) = true := by decide +kernel

/-- A root whose CP came back inside a Stroke issues its mark. -/
theorem met_MarksTravel_unheard :
    run .markIssue (root.modStroke fun k => { k with cycle0 := some 0, closing := true }) (fun u => u.stroke.entered.isSome) = true := by
  decide +kernel

theorem met_StrokesAndRanges_fetch :
    run (.fetchNext 3 false) (root.modSlot 3 fun x => { x with st := .running, att := { x.att with on := true } })
      (fun u => !(u.slot 3).next.bad && u.mp.log == []) = true := by decide +kernel

/-- The tally was formed and never left. -/
theorem met_VerdictEffects_unsent :
    ((applyVerdict 3 1 ((ran 1).modStroke fun k => { k with tallyOut := false })).slot 3).stopped = true := by decide +kernel

theorem met_LinkPackets_resume :
    port3 (.resumeReq 3 (linkPkt 8 [])) (linkSt .active) (fun g => g.changing && !g.wantKeeper && g.prio == [.link (linkPkt 9 [])]) &&
    port3 (.resumeAck 3 (linkPkt 9 [])) ((linkSt .active).modPort 3 fun g => { g with changing := true }) (fun g => g.st == .equalise) = true := by
  decide +kernel

/-- The second copy of a mark is due while a RETRY_REQ waits: an IDLE flit carries it. -/
theorem met_FlitExchange_idle :
    let s := (linkSt .keeper).modPort 3 fun g => { g with reqDue := true, prio := [.mark mark10 0 true] }
    ((dropModeAcks 3 s).port 3).mustIdle s.now = true ∧
      port3 (.flitTransmit 3) s (fun g => g.reqDue && g.prio == [] && g.txSeq == 0) = true := by decide +kernel

/-- A core cycle of a WAIT that waits. -/
theorem met_TransfersWaitsReductions_cycle :
    (match step ((memSt .active ⟨0xFFFF, 0, []⟩).modCtxGhl 2 fun g => { g with acts := [{ freshAct 0 0 1 with expect := 1, slack := 4 }] }) with
      | .next t => ((t.slot 2).ghl.acts.map (·.waited)) == [1] && (t.slot 2).stk.stallCycles == 1#32
      | _ => false) = true := by decide +kernel

/-- A PASS before its start time, one that finds the Mangle frozen, one behind a stage that holds the injectors. -/
theorem met_MangleStarts_waits :
    gives (.pass 2) ((queued on 0 0 0 (words passN 4)).modSlot 2 fun x => { x with att := { x.att with ranges := [(0, 1)] } })
      ((queued on 0 0 0 (words passN 4)).modSlot 2 fun x => { x with att := { x.att with ranges := [(0, 1)] } }) &&
    gives (.pass 2) ((queued on 0 0 0 (words passN 4)).modMgl fun m => { m with frozen := true })
      ((queued on 0 0 0 (words passN 4)).modMgl fun m => { m with frozen := true }) &&
    gives (.pass 2) ((queued on 0 0 0 (words passN 4)).modMgl fun m => { m with ops := [passOp id] })
      ((queued on 0 0 0 (words passN 4)).modMgl fun m => { m with ops := [passOp id] }) = true := by decide +kernel

/-- A row for two Lines, of which the second has no room, and then has. -/
theorem met_MangleEnds_copies :
    let s := fun (n : Nat) => (((lineSt 0 []).modLine 4 fun r => { r with cfg := some { cfg22 with writer := 0 } }).modLine 5
      fun r => { r with cfg := some { cfg22 with writer := 0, rowFirst := 10 }, tail := n, resv := n, fill := List.range n }).modMgl fun m =>
        { m with buf := [(5, [⟨[⟨0, 1, 0, 0x77⟩, ⟨0, 2, 0, 0x88⟩], 1, 0⟩])] }
    gives (.drainBufferWrite 5) (s 4) (s 4) = true ∧
      run (.drainBufferWrite 5) (s 0) (fun u => u.mgl.buf == [] && (u.line 4).tail == 1 && (u.line 5).tail == 1) = true := by decide +kernel

/-- An overrun is a cause, and counts. -/
theorem met_CausesEndWork_overrun :
    (fun (u : State) => (u.slot 1).stk.overruns == 1#32 && (u.slot 1).att.cause == tallyOf 0x0101)
      (raiseCause (feedLines 0 0 (passOp id)) 1 0x0101 0 0) = true := by decide +kernel

/-- A merge that met an entry past out_max, its outputs written. -/
theorem met_SeamOperations_excess :
    run (.intersect 0 2) (queuedIn 2 { on with seams := [(0, ⟨2, 0, seamDescOf (words 0x321000 4), .start, .start, .start, .start, 0, 0, true⟩)] } 5 1 0 [])
      (fun u => u.seams == [] && decide ((u.slot 2).att.cause ≠ 0)) = true := by decide +kernel

/-- COMMIT after a vote with two failures, once and again in the same attempt. -/
theorem met_PressDecisions_failed :
    run (.commit 0 2) ((pressSt 0 5 1).modPress 2 fun p => { p with gVote := some ⟨0, 2, 1⟩ })
      (fun u => (u.slot 2).press.voteFailed && u.prs.voteFails == 1#32 && (u.slot 2).press.gens.map (·.gen) == [0]) &&
    run (.commit 0 2) ((pressSt 0 5 2).modPress 2 fun p => { p with gVote := some ⟨0, 2, 1⟩, logged := [7] })
      (fun u => (u.slot 2).press.voteFailed && u.prs.voteFails == 0#32) = true := by decide +kernel

/-- A body of 4,097 bytes. -/
theorem met_ManagementQueries_long :
    ([Instr.getTid .i3c (List.replicate 4097 0), .getPdr .i3c (List.replicate 4097 0)].all fun i =>
      gives i on { on with readData := [] }) = true := by decide +kernel

/-- The part of code 3 has no stack 7: its sensor 12 is not fitted. -/
theorem met_ManagementQueries_unfitted :
    let s := { on with fuses := ⟨0x7D, 0x9, 3⟩ }
    sensorFitted s 12 = false ∧ answers (.getSensorReading .i3c [12, 0]) s [0, 5, 2, 0, 0, 0, 0, 0, 0, 0, 0] = true ∧
      gives (.sensorSample 12 5) s s = true := by decide +kernel

/-- A cancelled update records what it leaves of the slot. -/
theorem met_FirmwareUpdates_cancel :
    run (.cancelUpdate .i3c []) ((updSt [1, 2] (some (2, 16)) [] false).modMp fun p =>
        { p with update := p.update.map fun g => { g with old := some [1] } }) (fun u => u.mp.update.isNone && u.mp.changeSeq == 1) = true := by decide +kernel

/-- The patrol in DOZE; a TIMEOUT of a re-shard whose slot has left HELD. -/
theorem met_MemoryReadsAndWrites_doze :
    gives (.patrolRead 2 5 0 .clean false) { on with power := { on.power with doze := true } } { on with power := { on.power with doze := true } } &&
    run (.memReadDone 2 5 0 .correctable false) { on with power := { on.power with doze := true } } (fun u => u.str.memCe == 1#32) = true := by
  decide +kernel
theorem met_ReshardAndResume_late :
    run (.reshardTimeout 2) (busy (bareSt .running) 0 0x0207 2 (pay 2 24 [(16, [1])])) (answered 0 0x0822 []) = true := by decide +kernel

/-! ### Steps, invariants and operands -/

theorem met_StepRunsFrontCommand :
    (match step { up with pending := [.opNop 0, .powerDown] }, exec (.opNop 0) { up with pending := [.powerDown] } with
      | .next u, .next v => u == v && u.pending == [.powerDown]
      | _, _ => false) = true := by decide +kernel

theorem met_IdleStepIsOneCycle :
    (match step up with
      | .next u => u.now == 1 && u.mp == up.mp
      | _ => false) = true := by decide +kernel

theorem met_EveryCommandAnswers : run (.opNop 0) up (fun u => u.fuses == up.fuses && u.now == 0) = true := by decide +kernel

/-- An ill-formed command for each check of `WellFormed`, and well-formed ones at the ends of their ranges. -/
theorem test_ill_formed :
    ([Instr.registerWrite 0 .bar0 2 0, .copyComplete 0 (some 65), .coldStart (some []) 0 0 none, .railFault 0, .railFault 6, .sensorSample 0 0,
        .sensorSample 23 0, .thermCritTimeout 23, .markPacketReceive 0 [] 0, .tallyPacketReceive 0 [], .bridgeResend 23, .memReadDone 0 64 0 .clean false,
        .memReadDone 0 85899345920 0 .clean false, .patrolRead 0 1 0 .clean false, .flitReceive 0 [], .retryReqReceive 0 [], .cap 0 [], .echo 0 [],
        .echoReply 0 [], .spareReq 0 [], .spareAck 0 [], .keeperReq 0 [], .keeperAck 0 [], .resumeReq 0 [], .resumeAck 0 [],
        .writePacketReceive 0 (List.replicate 32 0), .receiptPacketReceive 0 [], .reducePacketReceive 0 (List.replicate 65 0),
        .mgmtPacketReceive 0 (List.replicate 576 0), .memWriteDone 0 85899345920, .i3cAddressAssignment (.entdaa 128),
        .i3cAddressAssignment (.setdasa 128 0)].all fun i => !WellFormed i) &&
    ([Instr.registerWrite 0 .bar0 4 0, .railFault 5, .sensorSample 22 0, .bridgeResend 22, .memReadDone 0 85899345792 0 .clean false,
        .writePacketReceive 0 (List.replicate 544 0), .i3cAddressAssignment (.setdasa 127 127)].all WellFormed) = true := by decide +kernel

theorem test_ill_formed_body :
    ([Instr.setEndpointId, .getEndpointId, .getMctpVersionSupport, .getMessageTypeSupport, .getEndpointUuid, .getTid, .getPldmVersion, .getPldmTypes,
        .getPldmCommands, .getPdrRepositoryInfo, .getPdr, .getSensorReading, .setEventReceiver, .queryDeviceIdentifiers, .getFirmwareParameters,
        .requestUpdate, .passComponentTable, .updateComponent, .firmwareDataResponse, .activateFirmware, .getStatus, .cancelUpdateComponent,
        .cancelUpdate, .getVersion, .getCapabilities, .negotiateAlgorithms, .getDigests, .getCertificate, .challenge, .getMeasurements, .getLog,
        .getChanges, .setTime, .setConfig, .commitSvn, .takeOwnership, .setRoles, .serviceChallenge, .serviceRecord].all fun f =>
      WellFormed (f .i3c []) && !WellFormed (f .i3c (List.replicate 4097 0))) = true := by decide +kernel

/-- A state with the invariant, and a step from it. -/
theorem met_EveryStepKeepsStores : StoreInv up ∧ ∃ t, step up = .next t :=
  ⟨{ memory := ⟨by decide +kernel, by decide +kernel, by decide +kernel⟩
     assembly := by unfold AssemblyLegal; decide +kernel
     log := by decide +kernel
     flash := by decide +kernel
     changes := by decide +kernel
     tests := by decide +kernel
     queue := by decide +kernel
     health := by decide +kernel }, _, rfl⟩

end Sys2Proof.Tests
end

section
/-!
SUPPORT. Line accesses: where a Line's rows lie and what they are read from, what arbitration, the check of a row and a
wide write leave of that, and what a Line read or write that proceeds has done (R188, R190, R191, R202).
-/

namespace Sys2Proof.Laws

open Machine

/-! ### What the rows of a Line are read from -/

/-- The memories, and what places a Line's row in them: the bypassed tile-rows and the partitions (R69, R188). -/
def backing (s : State) : KV Byte × KV Byte × KV Byte × KV Nat × KV TubPart :=
  (s.tubMem, s.stackMem, s.hostMem, s.bypass, s.tub.parts)

theorem backing_eq_iff {s t : State} : backing t = backing s ↔
    t.tubMem = s.tubMem ∧ t.stackMem = s.stackMem ∧ t.hostMem = s.hostMem ∧ t.bypass = s.bypass ∧
      t.tub.parts = s.tub.parts := by
  simp [backing]

/-- R188 as the model computes it: the bank and the row of slot `i` of a Line. -/
theorem slotRow_eq (s : State) (c : Nat) (t : Tile) (g : LineCfg) (i : Nat) :
    slotRow s c t g i = rowKey (s.physTile t) (g.bankFirst + i % g.banks)
      (16 * (s.part c).rowBase.toNat + (g.rowFirst + i / g.banks)) := by
  rw [slotRow, Nat.add_assoc]

/-- The place of a slot depends on the backing alone. -/
theorem slotRow_congr {s u : State} (h : backing u = backing s) (c : Nat) (t : Tile) (g : LineCfg) (i : Nat) :
    slotRow u c t g i = slotRow s c t g i := by
  obtain ⟨-, -, -, hbypass, hparts⟩ := backing_eq_iff.1 h
  simp only [slotRow, State.physTile, State.part, hbypass, hparts]

theorem rdRow_congr {s u : State} (h : u.tubMem = s.tubMem) (k : Nat) : u.rdRow k = s.rdRow k := by
  rw [State.rdRow, h, State.rdRow]

/-! ### What leaves the backing as it is -/

/-- A fold keeps what each of its steps keeps. -/
theorem forEach_same {α β : Type} (p : State → β) {f : α → State → State} (hf : ∀ x s, p (f x s) = p s) (xs : List α)
    (s : State) : p (forEach xs f s) = p s :=
  foldl_any (fun t => p t = p s) (fun t x h => (hf x t).trans h) rfl

@[simp] theorem backing_modLine (s : State) (k : Nat) (f : LineRec → LineRec) : backing (s.modLine k f) = backing s := rfl
@[simp] theorem backing_endWait (s : State) (k party : Nat) : backing (endWait s k party) = backing s := rfl
@[simp] theorem backing_note (s : State) (k : Nat) : backing (s.note k) = backing s := rfl
@[simp] theorem backing_log (s : State) (code origin slot : Nat) (arg : W32) (ext : BitVec 48) :
    backing (s.log code origin slot arg ext) = backing s := rfl

@[simp] theorem backing_trigger (s : State) (test : Nat) (unit : W32) : backing (s.trigger test unit) = backing s := by
  unfold State.trigger
  dsimp only
  split
  · rfl
  · split <;> rfl

/-- A lost cycle is counted and moves no data (R59, R181). -/
@[simp] theorem backing_lose (a : Ask) (s : State) : backing (s.lose a) = backing s := by
  unfold State.lose
  dsimp only
  split
  · rfl
  · split <;> rfl

/-- Arbitration moves no data and no Line (R57, R181). -/
@[simp] theorem backing_ask (a : Ask) (s : State) : backing (s.ask a) = backing s := by
  unfold State.ask
  extract_lets old above beaten tub asked told
  have htold : backing told = backing s := forEach_same backing backing_lose _ asked
  split
  · rw [backing_lose, htold]
  · exact htold

/-- A party's wait ends and it takes its slot's bank (R180, R196). -/
theorem backing_ask_endWait (s : State) (k party : Nat) (a : Ask) : backing ((endWait s k party).ask a) = backing s :=
  (backing_ask a _).trans (backing_endWait s k party)

/-- The check of a word corrects or poisons it in the check bits, never in the row's bytes (R201). -/
@[simp] theorem backing_checkWord (k finder w : Nat) (s : State) : backing (checkWord k finder w s) = backing s := by
  unfold checkWord
  extract_lets tub item corrected noted poisoned stored
  split
  · rfl
  · split
    · exact backing_trigger noted _ _
    · exact backing_note corrected _
  · exact (backing_trigger _ _ _).trans (backing_log stored _ _ _ _ _)

@[simp] theorem backing_checkRow (k finder : Nat) (s : State) : backing (checkRow k finder s) = backing s :=
  forEach_same backing (backing_checkWord k finder) words8 s

/-! ### Wide reads and writes -/

@[simp] theorem length_leBytes (n v : Nat) : (leBytes n v).length = n := by
  induction n generalizing v with
  | zero => rfl
  | succ n ih => rw [leBytes, List.length_cons, ih]

/-- A row is 512 bytes. -/
@[simp] theorem length_rowBytes (r : Row) : (rowBytes r).length = 512 := length_leBytes 512 r.toNat

/-- A wide read that gives a row gives the bytes of the Tub (R202). -/
theorem readRow_some {s v : State} {k : Nat} {row : Row} (h : readRow s k = (some row, v)) :
    row = s.rdRow k ∧ backing v = backing s := by
  unfold readRow at h
  dsimp only at h
  split at h
  · cases h
  · obtain ⟨hrow, rfl⟩ := Prod.mk.inj h
    have hs := backing_checkRow k 0 s
    exact ⟨(Option.some.inj hrow).symm.trans (rdRow_congr (backing_eq_iff.1 hs).1 k), hs⟩

/-- Reading back a list just written, with its length known. -/
theorem getList_setList_of_length {α : Type} [DecidableEq α] (d : α) (m : KV α) (k : Nat) {vs : List α} {n : Nat}
    (h : vs.length = n) : KV.getList d (KV.setList d m k vs) k n = vs :=
  h ▸ KV.getList_setList d m k vs

@[simp] theorem wrRow_tubMem (s : State) (k : Nat) (r : Row) :
    (s.wrRow k r).tubMem = KV.setList 0 s.tubMem (512 * k) (rowBytes r) := by
  rw [State.wrRow]
@[simp] theorem wrRow_stackMem (s : State) (k : Nat) (r : Row) : (s.wrRow k r).stackMem = s.stackMem := rfl
@[simp] theorem wrRow_hostMem (s : State) (k : Nat) (r : Row) : (s.wrRow k r).hostMem = s.hostMem := rfl

/-- A wide write puts the row's bytes at its place. -/
theorem getList_wrRow (s : State) (k : Nat) (r : Row) : KV.getList 0 (s.wrRow k r).tubMem (512 * k) 512 = rowBytes r := by
  rw [wrRow_tubMem]
  exact getList_setList_of_length 0 s.tubMem (512 * k) (length_rowBytes r)

/-- A wide write changes no byte of another row. -/
theorem get_wrRow_outside (s : State) {k a : Nat} (r : Row) (h : a < 512 * k ∨ 512 * k + 512 ≤ a) :
    KV.get 0 (s.wrRow k r).tubMem a = KV.get 0 s.tubMem a := by
  rw [wrRow_tubMem]
  exact KV.get_setList_outside 0 (rowBytes r) s.tubMem (512 * k) a ((length_rowBytes r).symm ▸ h)

/-! ### Line accesses that proceed -/

/-- A party that may access a Line accesses the one its key and fields name (R185, R189). -/
theorem lineFor_ok {s : State} {c l party k : Nat} {t : Tile} {write : Bool} {g : LineCfg}
    (h : lineFor s c t l party write = .ok (k, g)) : lineKey? s c t l = some k ∧ (s.line k).cfg = some g := by
  unfold lineFor at h
  split at h
  · cases h
  · next k' hkey =>
    split at h
    · cases h
    · next g' hcfg =>
      by_cases hport : (if write then g'.writer else g'.reader) ≠ party
      · rw [if_pos hport] at h; cases h
      · rw [if_neg hport] at h; cases h; exact ⟨hkey, hcfg⟩

section Access

variable {s v : State} {c l k : Nat} {t : Tile} {u : User} {g : LineCfg} {got : Row}
  (hkey : lineKey? s c t l = some k) (hcfg : (s.line k).cfg = some g)

include hkey hcfg

/-- The Line a party may access, where its key and fields are known. -/
theorem lineFor_unique {party k' : Nat} {write : Bool} {g' : LineCfg}
    (h : lineFor s c t l party write = .ok (k', g')) : k' = k ∧ g' = g := by
  obtain ⟨hk, hg⟩ := lineFor_ok h
  obtain rfl : k' = k := Option.some.inj (hk.symm.trans hkey)
  exact ⟨rfl, Option.some.inj (hg.symm.trans hcfg)⟩

/-- A write that proceeds is a wide write at the slot of the tail peg, between changes that leave the backing (R191). -/
theorem lineWrite_done {row : Row} (h : lineWrite s c t l u row = (.done got, v)) :
    ∃ w, backing w = backing s ∧ backing v = backing (w.wrRow (slotRow s c t g ((s.line k).tail % g.size)) row) := by
  unfold lineWrite at h
  split at h
  · cases h
  · split at h
    · cases h
    · next k' g' hline =>
      obtain ⟨rfl, rfl⟩ := lineFor_unique hkey hcfg hline
      dsimp only at h
      split at h
      · cases h
      · split at h
        · cases h
        · obtain rfl := (Prod.mk.inj h).2
          have hasked := backing_ask_endWait s k' u.party (g'.ask c t l u.party ((s.line k').tail % g'.size))
          exact ⟨_, hasked, by rw [backing_modLine, slotRow_congr hasked]⟩

/-- A read that proceeds gives the row at the slot of the head peg and leaves the backing (R190, R202). -/
theorem lineRead_done {adv : Bool} (h : lineRead s c t l u adv = (.done got, v)) :
    got = s.rdRow (slotRow s c t g ((s.line k).head % g.size)) ∧ backing v = backing s := by
  unfold lineRead at h
  split at h
  · cases h
  · split at h
    · cases h
    · next k' g' hline =>
      obtain ⟨rfl, rfl⟩ := lineFor_unique hkey hcfg hline
      dsimp only at h
      split at h
      · cases h
      · split at h
        · cases h
        · split at h
          · cases h
          · split at h
            · cases h
            · next row w hread =>
              obtain ⟨hrow, hw⟩ := readRow_some hread
              have hs := backing_ask_endWait s k' u.party (g'.ask c t l u.party ((s.line k').head % g'.size))
              have hgot : row = got ∧ backing v = backing w := by
                split at h <;> cases h <;> exact ⟨rfl, rfl⟩
              obtain ⟨rfl, hv⟩ := hgot
              refine ⟨?_, hv.trans (hw.trans hs)⟩
              rw [hrow, rdRow_congr (backing_eq_iff.1 hs).1, slotRow_congr (backing_endWait s k' u.party)]

end Access

/-- Settles O54: a write that proceeds is one wide write at the slot of the tail peg, a read gives the row at the slot of the
head peg, and all else of either access leaves the memories. -/
theorem lineRowsLieInSlots : Obligations.LineRowsLieInSlots := by
  intro s v c l k i t n g row got hkey hcfg
  rw [← slotRow_eq]
  constructor
  · rintro hwrite rfl
    obtain ⟨w, hw, hv⟩ := lineWrite_done hkey hcfg hwrite
    obtain ⟨htub, hstack, hhost, -, -⟩ := backing_eq_iff.1 hw
    obtain ⟨htub', hstack', hhost', -, -⟩ := backing_eq_iff.1 hv
    rw [htub', hstack', hhost', wrRow_stackMem, wrRow_hostMem]
    exact ⟨getList_wrRow w _ row, fun a ha => (get_wrRow_outside w row ha).trans (by rw [htub]), hstack, hhost⟩
  · rintro adv hread rfl
    obtain ⟨hgot, hv⟩ := lineRead_done hkey hcfg hread
    exact ⟨hgot, (backing_eq_iff.1 hv).1⟩

end Sys2Proof.Laws
end

section
/-!
SUPPORT. GZERO: where the bytes of a page lie, what a write of zeros at context addresses leaves there, what clearing the
gradients of panels does to the memories, and the job record of a Press command that does its work (R255, R287, R289, R315).
-/

namespace Sys2Proof.KV

variable {α : Type}

/-- A search for the key just listed finds the value listed. -/
theorem find?_insert_self (m : KV α) (k : Nat) (v : α) : find? (insert m k v) k = some v := by
  induction m with
  | nil => simp [insert, find?]
  | cons e m ih =>
    obtain ⟨k', v'⟩ := e
    rcases Nat.lt_trichotomy k k' with hlt | rfl | hgt
    · simp [insert, find?, hlt]
    · simp [insert, find?]
    · simp [insert, find?, Nat.not_lt.2 hgt.le, hgt.ne, hgt.ne', ih]

/-- A list of defaults makes no key differ from the default. -/
theorem get_setList_replicate [DecidableEq α] {d : α} {m : KV α} {j : Nat} (h : get d m j = d) (k n : Nat) :
    get d (setList d m k (List.replicate n d)) j = d := by
  by_cases hj : j < k ∨ k + (List.replicate n d).length ≤ j
  · exact (get_setList_outside d _ m k j hj).trans h
  · obtain ⟨i, rfl⟩ := Nat.exists_eq_add_of_le (show k ≤ j by omega)
    rw [get_setList_inside d _ m k i (by omega), List.getElem_replicate]

end Sys2Proof.KV

namespace Sys2Proof.Laws

open Machine

/-- A fold that keeps `I` and `P`, and gains `P` where `I` holds at one of its elements, ends with `P`. -/
theorem foldl_gains {α β : Type} {I P : β → Prop} {f : β → α → β} (hI : ∀ b x, I b → I (f b x))
    (hP : ∀ b x, P b → P (f b x)) {x : α} {xs : List α} (hx : x ∈ xs) (hgain : ∀ b, I b → P (f b x)) {b : β}
    (h : I b) : P (xs.foldl f b) := by
  obtain ⟨before, after, rfl⟩ := List.append_of_mem hx
  rw [List.foldl_append, List.foldl_cons]
  exact foldl_any P hP (hgain _ (foldl_any I hI h))

/-! ### The bytes of a page (R255) -/

/-- An address within the 4 KiB of another lies in the same page. -/
theorem page?_add (x : Ctx) {va t : Nat} (h : va % pageSmall + t < pageSmall) : x.page? (va + t) = x.page? va := by
  have hsmall : va + t - (va + t) % pageSmall = va - va % pageSmall := by simp only [pageSmall] at h ⊢; omega
  have hbig : va + t - (va + t) % pageBig = va - va % pageBig := by simp only [pageSmall, pageBig] at h ⊢; omega
  rw [Ctx.page?, hsmall, hbig, Ctx.page?]

/-- A page begins at or below the addresses it holds. -/
theorem page?_le {x : Ctx} {va b : Nat} {pg : Page} (h : x.page? va = some (b, pg)) : b ≤ va := by
  unfold Ctx.page? at h
  dsimp only at h
  split at h
  · split at h
    · cases h; exact Nat.sub_le _ _
    · split at h
      · cases h; exact Nat.sub_le _ _
      · cases h
  · split at h
    · split at h
      · cases h
      · cases h; exact Nat.sub_le _ _
    · cases h

/-- Consecutive addresses of 4 KiB lie at consecutive places. -/
theorem xlat_add {x : Ctx} {va t : Nat} (h : va % pageSmall + t < pageSmall) :
    x.xlat (va + t) = (x.xlat va).map fun e => (e.1.add t, e.2) := by
  rw [Ctx.xlat, page?_add x h, Ctx.xlat]
  cases hp : x.page? va with
  | none => rfl
  | some e =>
    obtain ⟨b, pg⟩ := e
    have hoff : pg.addr + (va + t - b) = pg.addr + (va - b) + t := by have := page?_le hp; omega
    cases hh : pg.host <;> simp [hh, hoff, Place.add]

/-- A translation depends on the pages of the context alone. -/
theorem xlat_congr {x y : Ctx} (h : y.pages = x.pages) (va : Nat) : y.xlat va = x.xlat va := by
  simp only [Ctx.xlat, Ctx.page?, h]

theorem rdVaByte_congr {x y : Ctx} (h : y.pages = x.pages) (s : State) (va : Nat) : s.rdVaByte y va = s.rdVaByte x va := by
  rw [State.rdVaByte, xlat_congr h, State.rdVaByte]

theorem rdVaByte_of_xlat {x : Ctx} {va : Nat} {p : Place} {w : Bool} (h : x.xlat va = some (p, w)) (s : State) :
    s.rdVaByte x va = s.rdByte p := by
  rw [State.rdVaByte, h]

theorem rdVaByte_of_unmapped {x : Ctx} {va : Nat} (h : x.xlat va = none) (s : State) : s.rdVaByte x va = 0 := by
  rw [State.rdVaByte, h]

/-- What lies at a place depends on the memories alone. -/
theorem rdByte_congr {s u : State} (hstack : u.stackMem = s.stackMem) (hhost : u.hostMem = s.hostMem) (p : Place) :
    u.rdByte p = s.rdByte p := by
  cases p <;> simp only [State.rdByte, hstack, hhost]

theorem rdVaByte_mem_congr {s u : State} (hstack : u.stackMem = s.stackMem) (hhost : u.hostMem = s.hostMem) (x : Ctx)
    (va : Nat) : u.rdVaByte x va = s.rdVaByte x va := by
  simp only [State.rdVaByte, rdByte_congr hstack hhost]

/-! ### Writes of zeros -/

/-- A byte inside the bytes just written is the one written there. -/
theorem rdByte_wrBytes (s : State) (p : Place) {bs : List Byte} {i : Nat} (h : i < bs.length) :
    (s.wrBytes p bs).rdByte (p.add i) = bs[i] := by
  cases p with
  | dev j o =>
    rw [Place.add, State.rdByte, stackKey, ← Nat.add_assoc]
    exact KV.get_setList_inside 0 bs s.stackMem (stackKey j o) i h
  | host a => exact KV.get_setList_inside 0 bs s.hostMem a i h

/-- A write of zeros at a place keeps every zero, whatever pages share the place. -/
theorem rdByte_wrBytes_zeros {s : State} {p : Place} (h : s.rdByte p = 0) (at_ : Place) (n : Nat) :
    (s.wrBytes at_ (List.replicate n 0)).rdByte p = 0 := by
  cases at_ with
  | dev k o =>
    cases p with
    | dev j o' => exact KV.get_setList_replicate h (stackKey k o) n
    | host a => exact h
  | host b =>
    cases p with
    | dev j o => exact h
    | host a => exact KV.get_setList_replicate h b n

/-- The part of a write at `va` that falls into the `i`-th page of 4 KiB it meets. -/
def wrPage (x : Ctx) (va : Nat) (bs : List Byte) (i : Nat) (s : State) : State :=
  let lo := i * pageSmall - va % pageSmall
  let hi := (i + 1) * pageSmall - va % pageSmall
  match x.xlat (va + lo) with
  | some (p, _) => s.wrBytes p ((bs.drop lo).take (hi - lo))
  | none => s

/-- A write at context addresses goes page by page. -/
theorem wrVa_eq (s : State) (x : Ctx) (va : Nat) (bs : List Byte) :
    s.wrVa x va bs = (List.range ((va % pageSmall + bs.length + pageSmall - 1) / pageSmall)).foldl
      (fun s i => wrPage x va bs i s) s := rfl

theorem wrPage_zeros_of_mapped {x : Ctx} {va i : Nat} {p : Place} {w : Bool}
    (h : x.xlat (va + (i * pageSmall - va % pageSmall)) = some (p, w)) (n : Nat) (s : State) :
    wrPage x va (List.replicate n 0) i s = s.wrBytes p (List.replicate
      (min ((i + 1) * pageSmall - va % pageSmall - (i * pageSmall - va % pageSmall))
        (n - (i * pageSmall - va % pageSmall))) 0) := by
  rw [wrPage]
  simp only [h, List.drop_replicate, List.take_replicate]

theorem wrPage_of_unmapped {x : Ctx} {va i : Nat} (h : x.xlat (va + (i * pageSmall - va % pageSmall)) = none)
    (bs : List Byte) (s : State) : wrPage x va bs i s = s := by
  rw [wrPage]
  simp only [h]

theorem rdByte_wrPage_zeros {s : State} {p : Place} (h : s.rdByte p = 0) (x : Ctx) (va n i : Nat) :
    (wrPage x va (List.replicate n 0) i s).rdByte p = 0 := by
  cases hx : x.xlat (va + (i * pageSmall - va % pageSmall)) with
  | none => rw [wrPage_of_unmapped hx, h]
  | some e => rw [wrPage_zeros_of_mapped hx]; exact rdByte_wrBytes_zeros h e.1 _

/-- The page that holds address `va + k` of a write of zeros: after its part of the write a zero lies there. -/
theorem rdByte_wrPage_self {x : Ctx} {va k n : Nat} {p : Place} {w : Bool} (hk : k < n)
    (h : x.xlat (va + k) = some (p, w)) (s : State) :
    (wrPage x va (List.replicate n 0) ((va % pageSmall + k) / pageSmall) s).rdByte p = 0 := by
  obtain ⟨i, hi⟩ : ∃ i, (va % pageSmall + k) / pageSmall = i := ⟨_, rfl⟩
  obtain ⟨t, ht⟩ : ∃ t, k = i * pageSmall - va % pageSmall + t :=
    Nat.exists_eq_add_of_le (by simp only [pageSmall] at hi ⊢; omega)
  have hpage : (va + (i * pageSmall - va % pageSmall)) % pageSmall + t < pageSmall := by
    simp only [pageSmall] at hi ht ⊢; omega
  rw [ht, ← Nat.add_assoc, xlat_add hpage] at h
  obtain ⟨⟨start, w'⟩, hstart, hp⟩ := Option.map_eq_some_iff.1 h
  obtain rfl : start.add t = p := congrArg Prod.fst hp
  rw [hi, wrPage_zeros_of_mapped hstart, rdByte_wrBytes, List.getElem_replicate]
  rw [List.length_replicate]
  simp only [pageSmall] at hi ht ⊢
  omega

/-- A write of zeros at context addresses keeps every zero, whatever pages share a place. -/
theorem rdByte_wrVa_zeros {s : State} {p : Place} (h : s.rdByte p = 0) (x : Ctx) (va n : Nat) :
    (s.wrVa x va (List.replicate n 0)).rdByte p = 0 := by
  rw [wrVa_eq]
  exact foldl_any (fun t : State => t.rdByte p = 0) (fun _ i ht => rdByte_wrPage_zeros ht x va n i) h

theorem rdVaByte_wrVa_zeros {s : State} {y : Ctx} {a : Nat} (h : s.rdVaByte y a = 0) (x : Ctx) (va n : Nat) :
    (s.wrVa x va (List.replicate n 0)).rdVaByte y a = 0 := by
  cases hy : y.xlat a with
  | none => exact rdVaByte_of_unmapped hy _
  | some e =>
    rw [rdVaByte_of_xlat hy] at h ⊢
    exact rdByte_wrVa_zeros h x va n

/-- After a write of zeros at context addresses each of them reads as zero. -/
theorem rdVaByte_wrVa_self (s : State) (x : Ctx) {va n a : Nat} (hlo : va ≤ a) (hhi : a < va + n) :
    (s.wrVa x va (List.replicate n 0)).rdVaByte x a = 0 := by
  obtain ⟨k, rfl⟩ := Nat.exists_eq_add_of_le hlo
  have hk : k < n := by omega
  cases hx : x.xlat (va + k) with
  | none => exact rdVaByte_of_unmapped hx _
  | some e =>
    have hmem : (va % pageSmall + k) / pageSmall ∈
        List.range ((va % pageSmall + (List.replicate n (0 : Byte)).length + pageSmall - 1) / pageSmall) := by
      simp only [List.mem_range, List.length_replicate, pageSmall]; omega
    rw [rdVaByte_of_xlat hx, wrVa_eq]
    exact foldl_gains (I := fun _ => True) (P := fun t => t.rdByte e.1 = 0) (fun _ _ _ => trivial)
      (fun _ i ht => rdByte_wrPage_zeros ht x va n i) hmem (fun t _ => rdByte_wrPage_self hk hx t) trivial

@[simp] theorem wrBytes_slots (s : State) (p : Place) (bs : List Byte) : (s.wrBytes p bs).slots = s.slots := by
  cases p <;> rfl

@[simp] theorem wrPage_slots (x : Ctx) (va : Nat) (bs : List Byte) (i : Nat) (s : State) :
    (wrPage x va bs i s).slots = s.slots := by
  unfold wrPage
  dsimp only
  split
  · exact wrBytes_slots s _ _
  · rfl

/-- A write at context addresses leaves the slots. -/
@[simp] theorem wrVa_slots (s : State) (x : Ctx) (va : Nat) (bs : List Byte) : (s.wrVa x va bs).slots = s.slots := by
  rw [wrVa_eq]
  exact foldl_any (fun t => t.slots = s.slots) (fun t i h => (wrPage_slots x va bs i t).trans h) rfl

@[simp] theorem wrVa_slot (s : State) (x : Ctx) (va : Nat) (bs : List Byte) (c : Nat) :
    (s.wrVa x va bs).slot c = s.slot c := by
  rw [State.slot, wrVa_slots, State.slot]

/-! ### Clearing gradients (R315) -/

@[simp] theorem slot_modPress (s : State) (c : Nat) (f : Press → Press) :
    (s.modPress c f).slot c = { s.slot c with press := f (s.slot c).press } := slot_modSlot s c _

@[simp] theorem rdVaByte_modPress (s : State) (c : Nat) (f : Press → Press) (x : Ctx) (a : Nat) :
    (s.modPress c f).rdVaByte x a = s.rdVaByte x a := rdVaByte_mem_congr rfl rfl x a

/-- What clearing does for one panel (log entry 23). -/
def zeroGrad (c i : Nat) (s : State) : State :=
  let d := (s.slot c).press.panel i
  if d.frozen then s
  else (s.wrVa (s.slot c) d.grad (List.replicate (4 * d.elems) 0)).modPress c fun p =>
    { p with norms := KV.erase p.norms i }

theorem zeroGrads_eq (c : Nat) (is : List Nat) (s : State) : zeroGrads c is s = forEach is (zeroGrad c) s := rfl

theorem zeroGrad_of_trainable {s : State} {c i : Nat} (h : ((s.slot c).press.panel i).frozen = false) :
    zeroGrad c i s = (s.wrVa (s.slot c) ((s.slot c).press.panel i).grad
      (List.replicate (4 * ((s.slot c).press.panel i).elems) 0)).modPress c fun p =>
        { p with norms := KV.erase p.norms i } := by
  rw [zeroGrad]
  simp only [h, Bool.false_eq_true, if_false]

theorem zeroGrad_of_frozen {s : State} {c i : Nat} (h : ((s.slot c).press.panel i).frozen = true) :
    zeroGrad c i s = s := by
  rw [zeroGrad]
  simp only [h, if_true]

/-- Where a context keeps its gradients: its pages and its panels. -/
def gradLayout (x : Ctx) : KV Page × List PanelDesc := (x.pages, x.press.panels)

theorem gradLayout_zeroGrad (c i : Nat) (s : State) : gradLayout ((zeroGrad c i s).slot c) = gradLayout (s.slot c) := by
  cases h : ((s.slot c).press.panel i).frozen with
  | true => rw [zeroGrad_of_frozen h]
  | false => simp [gradLayout, zeroGrad_of_trainable h]

theorem rdVaByte_zeroGrad {s : State} {x : Ctx} {a : Nat} (h : s.rdVaByte x a = 0) (c i : Nat) :
    (zeroGrad c i s).rdVaByte x a = 0 := by
  cases hf : ((s.slot c).press.panel i).frozen with
  | true => rw [zeroGrad_of_frozen hf, h]
  | false =>
    rw [zeroGrad_of_trainable hf, rdVaByte_modPress]
    exact rdVaByte_wrVa_zeros h _ _ _

/-- Clearing a trainable panel leaves zeros in its gradient buffer. -/
theorem rdVaByte_zeroGrad_self {s : State} {x : Ctx} {c i a : Nat} (hx : gradLayout (s.slot c) = gradLayout x)
    (hf : (x.press.panel i).frozen = false) (hlo : (x.press.panel i).grad ≤ a)
    (hhi : a < (x.press.panel i).grad + 4 * (x.press.panel i).elems) : (zeroGrad c i s).rdVaByte x a = 0 := by
  obtain ⟨hpages, hpanels⟩ := Prod.mk.inj hx
  have hpanel : (s.slot c).press.panel i = x.press.panel i := by rw [Press.panel, hpanels, Press.panel]
  rw [zeroGrad_of_trainable (hpanel ▸ hf), rdVaByte_modPress, ← rdVaByte_congr hpages, hpanel]
  exact rdVaByte_wrVa_self s _ hlo hhi

/-- Clearing the named panels leaves zeros in the gradient buffer of each trainable one: what is cleared for the others
moves no page and no panel, and keeps the zeros. -/
theorem rdVaByte_zeroGrads {s : State} {x : Ctx} {c i a : Nat} {is : List Nat}
    (hx : gradLayout (s.slot c) = gradLayout x) (hi : i ∈ is) (hf : (x.press.panel i).frozen = false)
    (hlo : (x.press.panel i).grad ≤ a) (hhi : a < (x.press.panel i).grad + 4 * (x.press.panel i).elems) :
    (zeroGrads c is s).rdVaByte x a = 0 := by
  rw [zeroGrads_eq]
  exact foldl_gains (I := fun t => gradLayout (t.slot c) = gradLayout x) (P := fun t => t.rdVaByte x a = 0)
    (fun t k h => (gradLayout_zeroGrad c k t).trans h) (fun t k h => rdVaByte_zeroGrad h c k) hi
    (fun t ht => rdVaByte_zeroGrad_self ht hf hlo hhi) hx

/-! ### The job of a Press command -/

/-- What a well-formed body says of its job (R287, R288). -/
theorem pjobOf_ok {p : Press} {j : Nat} {q : Cmd} {w : PJob} (h : pjobOf p j q = .ok w) :
    w.press = j ∧ w.kind = q.kind ∧ w.seq = BitVec.ofNat 32 (bitsOf (wordsNat q.body) 63 32) ∧
      ([0, 2, 3, 4, 7].elem q.kind = true → ∀ i ∈ w.panels, (p.panel i).frozen = false) := by
  unfold pjobOf at h
  dsimp only at h
  split at h
  · cases h
  · next hbody =>
    cases h
    refine ⟨rfl, rfl, rfl, fun hkind i hi => ?_⟩
    by_contra hfrozen
    exact hbody (.inr (.inr (.inr (.inr (.inr (.inr
      ⟨hkind, List.any_eq_true.2 ⟨i, hi, Bool.eq_true_of_not_eq_false hfrozen⟩⟩))))))

/-- A Press command that is taken and does its work leaves what the work leaves, and the record of the job (R289). -/
theorem pressStart_of_work {s t : State} {kind : Nat} {j : Stack} {c : Slot} {q : Cmd} {w : PJob} {r : PRes}
    (h : PressTakes s kind j c q w) (hwork : pressWork c w (s.modSlot c (Ctx.advance 3 j)) = .ok (r, t)) :
    pressStart kind j c s = t.modPress c fun p =>
      { p with jobs := KV.insert p.jobs j ⟨q.k, pressRecord w.seq r (w.panels.length - r.refused)⟩ } := by
  obtain ⟨-, hresume, hnext, hkind, hstart, hfree, hbody⟩ := h
  obtain ⟨-, -, hseq, -⟩ := pjobOf_ok hbody
  simp only [pressStart, hresume, hnext, hkind, hstart, hfree, hbody, hwork, hseq, Option.isSome_none, ne_eq,
    not_true_eq_false, Bool.false_eq_true, Bool.true_eq_false, or_self, if_false]

/-- The decision that GZERO follows: a failed vote's, else the step record's (R313, R315). -/
def gzeroDecision (sr : StepRec) : Nat := if sr.after ≠ 0 then sr.after else sr.decision

theorem jobGzero_clears {sr : StepRec} (h : gzeroDecision sr = 1 ∨ gzeroDecision sr = 2) (c : Nat) (w : PJob)
    (s : State) : ∃ r f, jobGzero c w sr s = .ok (r, (zeroGrads c w.panels s).modPress c f) :=
  ⟨_, _, if_pos h⟩

/-- GZERO under HALT, SKEW and REFUSED refuses no panel, sets flag bit 2 and changes nothing. -/
theorem jobGzero_withheld {sr : StepRec} (h : 3 ≤ gzeroDecision sr) (c : Nat) (w : PJob) (s : State) :
    ∃ f, jobGzero c w sr s = .ok (⟨0, f, 0, 0⟩, s) ∧ Nat.testBit f 2 = true := by
  have hdec : ¬ (gzeroDecision sr = 1 ∨ gzeroDecision sr = 2) := by omega
  by_cases hgo : sr.decision = 1
  · exact ⟨4, (if_neg hdec).trans (by rw [if_pos hgo]; rfl), rfl⟩
  · exact ⟨6, (if_neg hdec).trans (by rw [if_neg hgo]; rfl), rfl⟩

theorem pressWork_gzero {s : State} {c : Nat} {w : PJob} {sr : StepRec} (hkind : w.kind = 7)
    (hrec : (s.press c).stepRec w.press = some sr) : pressWork c w s = jobGzero c w sr s := by
  unfold pressWork
  simp only [hkind, hrec]

/-- The work of a GZERO that a Press takes, on the state in which its command has left the queue. -/
theorem pressWork_of_takes_gzero {s : State} {j : Stack} {c : Slot} {q : Cmd} {w : PJob} {sr : StepRec}
    (h : PressTakes s 7 j c q w) (hrec : (s.slot c).press.stepRec j = some sr) :
    pressWork c w (s.modSlot c (Ctx.advance 3 j)) = jobGzero c w sr (s.modSlot c (Ctx.advance 3 j)) := by
  obtain ⟨-, -, -, hkind, -, -, hbody⟩ := h
  obtain ⟨hpress, hwkind, -, -⟩ := pjobOf_ok hbody
  refine pressWork_gzero (hwkind.trans hkind) ?_
  rw [hpress, State.press, slot_modSlot]
  exact hrec

/-- A GZERO that its Press takes answers what its work leaves, and the record of its job. -/
theorem exec_gzero_of_work {s t : State} {j : Stack} {c : Slot} {q : Cmd} {w : PJob} {sr : StepRec} {r : PRes}
    (h : PressTakes s 7 j c q w) (hrec : (s.slot c).press.stepRec j = some sr)
    (hwork : jobGzero c w sr (s.modSlot c (Ctx.advance 3 j)) = .ok (r, t)) :
    exec (.gzero j c) s = .next (s.effectOf (t.modPress c fun p =>
      { p with jobs := KV.insert p.jobs j ⟨q.k, pressRecord w.seq r (w.panels.length - r.refused)⟩ })) := by
  rw [← pressStart_of_work h ((pressWork_of_takes_gzero h hrec).trans hwork)]
  obtain ⟨hon, -⟩ := h
  exact powered_on _ hon

/-- Settles O53: the panels of a GZERO are trainable, so clearing them leaves zeros in each buffer, which the job's record
does not touch; under a decision that withholds it the work is the flag alone. -/
theorem gzeroClearsGradients : Obligations.GzeroClearsGradients := by
  intro j c s q w sr htakes hrec
  constructor
  · intro hdec
    obtain ⟨r, f, hwork⟩ := jobGzero_clears hdec c w (s.modSlot c (Ctx.advance 3 j))
    refine ⟨_, exec_gzero_of_work htakes hrec hwork, fun i hi a hlo hhi => ?_⟩
    obtain ⟨-, -, -, hkind, -, -, hbody⟩ := htakes
    obtain ⟨-, -, -, htrainable⟩ := pjobOf_ok hbody
    have hlayout : gradLayout ((s.modSlot c (Ctx.advance 3 j)).slot c) = gradLayout (s.slot c) := by
      rw [slot_modSlot]; rfl
    exact (rdVaByte_mem_congr rfl rfl _ a).trans
      (rdVaByte_zeroGrads hlayout hi (htrainable (by rw [hkind]; rfl) i hi) hlo hhi)
  · intro hdec
    obtain ⟨f, hwork, hflag⟩ := jobGzero_withheld hdec c w (s.modSlot c (Ctx.advance 3 j))
    refine ⟨_, f, exec_gzero_of_work htakes hrec hwork, rfl, rfl, rfl, hflag, ?_⟩
    rw [effectOf_slot, slot_modPress]
    exact KV.find?_insert_self _ _ _

end Sys2Proof.Laws
end

section
/-!
SUPPORT. Mailboxes: when two changes of a mailbox agree, and what a sealing write does to a mailbox that holds a command
(R408, R409).
-/

namespace Sys2Proof.Laws

open Machine

/-- Two changes of a mailbox that give the same mailbox leave the same state. -/
theorem modMbx_congr {s : State} {m : Nat} {f g : Mailbox → Mailbox} (h : f (s.mbx m) = g (s.mbx m)) :
    s.modMbx m f = s.modMbx m g := by
  unfold State.mbx at h
  simp only [State.modMbx, KV.upd, h]

/-- A change of a mailbox touches no field that a command leaves. -/
theorem effectOf_modMbx (s : State) (m : Nat) (f : Mailbox → Mailbox) : s.effectOf (s.modMbx m f) = s.modMbx m f := rfl

/-- The bits of MBX_IRQ once seal_dropped is set (Table 13.2). -/
theorem getLsbD_or_sealDropped (irq : BitVec 5) (i : Nat) : (irq ||| 4#5).getLsbD i = (irq.getLsbD i || decide (i = 2)) := by
  have hbit : 4#5 = BitVec.twoPow 5 2 := rfl
  rw [hbit, BitVec.getLsbD_or, BitVec.getLsbD_twoPow]
  simp [eq_comm]

/-- R409: where a command is in flight a sealing write sets seal_dropped and nothing else. -/
theorem sealWrite_of_busy {s : State} {m : Nat} (fn : Fin 8)
    (h : (s.mbx m).st = .sealed ∨ (s.mbx m).st = .queued ∨ (s.mbx m).st = .accepted) :
    sealWrite s m fn = s.modMbx m fun b => { b with irq := b.irq ||| 4#5 } := by
  unfold sealWrite
  rcases h with h | h | h <;> rw [h]

theorem exec_sealingWrite_of_busy {s : State} {m : Mbox} (fn : Fin 8) (hon : s.power.on = true)
    (h : (s.mbx m).st = .sealed ∨ (s.mbx m).st = .queued ∨ (s.mbx m).st = .accepted) :
    exec (.sealingWrite m fn) s = .next (s.modMbx m fun b => { b with irq := b.irq ||| 4#5 }) := by
  calc exec (.sealingWrite m fn) s
      = powered s (sealWrite s m fn) := rfl
    _ = .next (s.effectOf (sealWrite s m fn)) := powered_on _ hon
    _ = .next (s.modMbx m fun b => { b with irq := b.irq ||| 4#5 }) := by
        rw [sealWrite_of_busy fn h, effectOf_modMbx]

/-- Settles O55: the write is one change of the mailbox's MBX_IRQ, which sets bit 2 and keeps the other bits. -/
theorem sealedMailboxIgnoresWrites : Obligations.SealedMailboxIgnoresWrites := by
  intro m fn s hon hbusy
  refine ⟨_, exec_sealingWrite_of_busy fn hon hbusy, ?_, ?_, fun i _ hi => ?_⟩
  · rw [mbx_modMbx, getLsbD_or_sealDropped, decide_eq_true rfl, Bool.or_true]
  · exact modMbx_congr (by rw [mbx_modMbx])
  · rw [mbx_modMbx, getLsbD_or_sealDropped, decide_eq_false hi, Bool.or_false]

end Sys2Proof.Laws
end

section
/-!
SUPPORT. The machine's step: what a command answers, and that every step keeps the stores' invariant.
-/

namespace Sys2Proof.Laws

open Machine

/-! ### Answers of the commands -/

/-- A state that is its own effect. -/
@[simp] theorem effectOf_self (s : State) : s.effectOf s = s := rfl

/-- A command answers a state that differs from `s` in no field that `effectOf` keeps (log entry 3). -/
def Answers (s : State) (r : Res) : Prop := ∃ x, r = .next (s.effectOf x)

theorem answers_powered (s x : State) : Answers s (powered s x) := by
  cases hon : s.power.on with
  | true => exact ⟨x, powered_on x hon⟩
  | false => exact ⟨s, powered_off x hon⟩

/-- R4, R5: a register write that stops names no register. -/
theorem registerWrite_answers {fn off : Nat} {bar : Bar} {v : W32} {s t : State}
    (h : registerWrite fn bar off v s = .next t) : Answers s (.next t) := by
  unfold registerWrite at h
  split at h
  · exact ⟨_, h.symm⟩
  · exact ⟨s, h.symm⟩
  · cases h

theorem execRegisterWrite_answers {fn : Fin 8} {bar : Bar} {off : Nat} {v : W32} {s t : State}
    (h : execRegisterWrite fn bar off v s = .next t) : Answers s (.next t) := by
  unfold execRegisterWrite at h
  split at h
  · exact registerWrite_answers h
  · exact ⟨s, h.symm⟩

/-- Every command but a register write answers: five have a meaning of their own in OFF, the others are `powered`. -/
theorem exec_answers (i : Instr) (s : State) (hi : ∀ f b off v, i ≠ .registerWrite f b off v) : Answers s (exec i s) := by
  cases i
  case registerWrite f b off v => exact absurd rfl (hi f b off v)
  case coldStart => exact ⟨_, rfl⟩
  case boundaryScan => exact ⟨_, rfl⟩
  case perstReset => exact ⟨_, rfl⟩
  case perstDeassertion => exact ⟨{ s with power := { s.power with perst := false, perstAt := s.now } }, rfl⟩
  all_goals exact answers_powered s _

theorem exec_next_answers {i : Instr} {s t : State} (h : exec i s = .next t) : Answers s (.next t) := by
  by_cases hi : ∃ f b off v, i = .registerWrite f b off v
  · obtain ⟨f, b, off, v, rfl⟩ := hi
    exact execRegisterWrite_answers h
  · rw [← h]
    exact exec_answers i s fun f b off v e => hi ⟨f, b, off, v, e⟩

/-- Settles O3: what a command answers is an `effectOf` its state, which keeps the fuses, the queue and the clock. -/
theorem everyCommandAnswers : Obligations.EveryCommandAnswers := by
  refine ⟨fun i s hi => ?_, fun i s t h => ?_⟩
  · obtain ⟨x, hx⟩ := exec_answers i s hi
    exact ⟨_, hx⟩
  · obtain ⟨x, hx⟩ := exec_next_answers h
    cases hx
    exact ⟨rfl, rfl, rfl⟩

/-! ### Steps -/

theorem step_of_pending {c : Instr} {rest : List Instr} {s : State} (h : s.pending = c :: rest) :
    step s = exec c { s with pending := rest } := by
  unfold step; rw [h]

theorem step_of_idle {s : State} (h : s.pending = []) : step s = .next (tick s) := by
  unfold step; rw [h]

/-- Settles O1. -/
theorem stepRunsFrontCommand : Obligations.StepRunsFrontCommand := fun _ _ _ h => step_of_pending h

/-! ### The stores' invariant -/

/-- Every command keeps the stores' invariant: each arm of `exec` is a meaning that does. -/
theorem exec_keeps {i : Instr} {s : State} (h : StoreInv s) : ResOk (exec i s) :=
  match i with
  | .sealingWrite _ _ => execSealingWrite_keeps h
  | .acknowledgement _ => execAcknowledgement_keeps h
  | .cpAccept _ => execCpAccept_keeps h
  | .cpAcceptTimeout => execCpAcceptTimeout_keeps h
  | .boundReport _ _ => execBoundReport_keeps h
  | .completionBoundTimeout _ => execCompletionBoundTimeout_keeps h
  | .lateDone _ => execLateDone_keeps h
  | .mbxEvtTailWrite _ _ => execMbxEvtTailWrite_keeps h
  | .mbxEvtLostRead _ => execMbxEvtLostRead_keeps h
  | .mbxFeedPostWrite _ _ => execMbxFeedPostWrite_keeps h
  | .stkMarkLoRead => execStkMarkLoRead_keeps h
  | .stkCtxIndexLoRead _ => execStkCtxIndexLoRead_keeps h
  | .strCtxFaultLoRead _ => execStrCtxFaultLoRead_keeps h
  | .registerWrite _ _ _ _ => execRegisterWrite_keeps h
  | .opNop _ => execOpNop_keeps h
  | .opEvents _ => execOpEvents_keeps h
  | .opDomain _ => execOpDomain_keeps h
  | .opAdmit _ => execOpAdmit_keeps h
  | .powerDoze _ => execPowerDoze_keeps h
  | .powerWake _ _ _ => execPowerWake_keeps h
  | .darnRead _ => execDarnRead_keeps h
  | .darnApply _ _ => execDarnApply_keeps h
  | .darnMark _ => execDarnMark_keeps h
  | .darnClearLane _ => execDarnClearLane_keeps h
  | .opSelftest _ => execOpSelftest_keeps h
  | .opLoad _ => execOpLoad_keeps h
  | .opStart _ => execOpStart_keeps h
  | .opUnload _ => execOpUnload_keeps h
  | .opRelease _ => execOpRelease_keeps h
  | .opSave _ => execOpSave_keeps h
  | .saveWriteDone _ => execSaveWriteDone_keeps h
  | .opRestore _ => execOpRestore_keeps h
  | .restoreWriteDone _ => execRestoreWriteDone_keeps h
  | .opReshard _ => execOpReshard_keeps h
  | .reshardQuiescent _ => execReshardQuiescent_keeps h
  | .reshardTimeout _ => execReshardTimeout_keeps h
  | .opResume _ => execOpResume_keeps h
  | .opPageMap _ => execOpPageMap_keeps h
  | .opPageUnmap _ => execOpPageUnmap_keeps h
  | .opCopy _ => execOpCopy_keeps h
  | .copyComplete _ _ => execCopyComplete_keeps h
  | .opWatch _ => execOpWatch_keeps h
  | .opDecide _ => execOpDecide_keeps h
  | .opFeed _ => execOpFeed_keeps h
  | .opPeerMap _ => execOpPeerMap_keeps h
  | .opMctp _ => execOpMctp_keeps h
  | .vfEnableChange _ _ => execVfEnableChange_keeps h
  | .flrVf _ => execFlrVf_keeps h
  | .flrPf => execFlrPf_keeps h
  | .perstReset _ => execPerstReset_keeps h
  | .pcieConfigRequest => execPcieConfigRequest_keeps h
  | .coldStart _ _ _ _ => execColdStart_keeps h
  | .hamperReady _ => execHamperReady_keeps h
  | .powerDown => execPowerDown_keeps h
  | .inputUndervoltage => execInputUndervoltage_keeps h
  | .inputOvervoltage => execInputOvervoltage_keeps h
  | .inputOvercurrent => execInputOvercurrent_keeps h
  | .inputLowWarning => execInputLowWarning_keeps h
  | .railFault _ => execRailFault_keeps h
  | .sensorSample _ _ => execSensorSample_keeps h
  | .thermCritTimeout _ => execThermCritTimeout_keeps h
  | .thermtrip => execThermtrip_keeps h
  | .cpWatchdog => execCpWatchdog_keeps h
  | .cpRestart => execCpRestart_keeps h
  | .markIssue => execMarkIssue_keeps h
  | .markPacketReceive _ _ _ => execMarkPacketReceive_keeps h
  | .markEntry => execMarkEntry_keeps h
  | .markForward => execMarkForward_keeps h
  | .strokeStart => execStrokeStart_keeps h
  | .fetchNext _ _ => execFetchNext_keeps h
  | .closingBand => execClosingBand_keeps h
  | .tallyPacketReceive _ _ => execTallyPacketReceive_keeps h
  | .tallyDeadline => execTallyDeadline_keeps h
  | .rootTallyCutoff => execRootTallyCutoff_keeps h
  | .markMiss => execMarkMiss_keeps h
  | .rangeStart _ _ _ => execRangeStart_keeps h
  | .rangeEnd _ _ _ => execRangeEnd_keeps h
  | .pass _ => execPass_keeps h
  | .dummy _ => execDummy_keeps h
  | .ramp _ => execRamp_keeps h
  | .levelBound _ => execLevelBound_keeps h
  | .swapInject => execSwapInject_keeps h
  | .vectorInject => execVectorInject_keeps h
  | .drainVector _ _ => execDrainVector_keeps h
  | .mangleFreeze => execMangleFreeze_keeps h
  | .drainBufferWrite _ => execDrainBufferWrite_keeps h
  | .mangleResume => execMangleResume_keeps h
  | .drainAbortSignal => execDrainAbortSignal_keeps h
  | .passComplete => execPassComplete_keeps h
  | .bridgeParityError _ _ _ => execBridgeParityError_keeps h
  | .bridgeResend _ => execBridgeResend_keeps h
  | .intersect _ _ => execIntersect_keeps h
  | .union _ _ => execUnion_keeps h
  | .topk _ _ => execTopk_keeps h
  | .route _ _ => execRoute_keeps h
  | .seamComplete _ _ => execSeamComplete_keeps h
  | .load _ _ => execLoad_keeps h
  | .store _ _ => execStore_keeps h
  | .gather _ _ => execGather_keeps h
  | .scatter _ _ => execScatter_keeps h
  | .rowReserve _ _ _ => execRowReserve_keeps h
  | .strRowLand _ _ _ => execStrRowLand_keeps h
  | .storeRow _ _ _ => execStoreRow_keeps h
  | .strTaskComplete _ _ _ => execStrTaskComplete_keeps h
  | .memReadDone _ _ _ _ _ => execMemReadDone_keeps h
  | .patrolRead _ _ _ _ _ => execPatrolRead_keeps h
  | .run _ => execRun_keeps h
  | .runComplete _ => execRunComplete_keeps h
  | .lineSetup _ => execLineSetup_keeps h
  | .lineReset _ => execLineReset_keeps h
  | .lineSetupEffect _ _ => execLineSetupEffect_keeps h
  | .lineSlackExceeded _ _ _ => execLineSlackExceeded_keeps h
  | .rinseRead _ _ _ _ _ => execRinseRead_keeps h
  | .rinseWriteback _ => execRinseWriteback_keeps h
  | .seqAdd _ _ => execSeqAdd_keeps h
  | .seqSub _ _ => execSeqSub_keeps h
  | .seqAnd _ _ => execSeqAnd_keeps h
  | .seqOr _ _ => execSeqOr_keeps h
  | .seqXor _ _ => execSeqXor_keeps h
  | .seqShl _ _ => execSeqShl_keeps h
  | .seqShr _ _ => execSeqShr_keeps h
  | .seqSra _ _ => execSeqSra_keeps h
  | .seqMul _ _ => execSeqMul_keeps h
  | .seqMulh _ _ => execSeqMulh_keeps h
  | .seqMulhu _ _ => execSeqMulhu_keeps h
  | .seqMin _ _ => execSeqMin_keeps h
  | .seqMax _ _ => execSeqMax_keeps h
  | .seqMinu _ _ => execSeqMinu_keeps h
  | .seqMaxu _ _ => execSeqMaxu_keeps h
  | .seqSel _ _ => execSeqSel_keeps h
  | .seqPopc _ _ => execSeqPopc_keeps h
  | .seqClz _ _ => execSeqClz_keeps h
  | .seqCtz _ _ => execSeqCtz_keeps h
  | .seqAddi _ _ => execSeqAddi_keeps h
  | .seqAndi _ _ => execSeqAndi_keeps h
  | .seqOri _ _ => execSeqOri_keeps h
  | .seqXori _ _ => execSeqXori_keeps h
  | .seqShli _ _ => execSeqShli_keeps h
  | .seqShri _ _ => execSeqShri_keeps h
  | .seqSrai _ _ => execSeqSrai_keeps h
  | .seqLui _ _ => execSeqLui_keeps h
  | .seqCmp _ _ => execSeqCmp_keeps h
  | .seqCmpi _ _ => execSeqCmpi_keeps h
  | .seqAdda _ _ => execSeqAdda_keeps h
  | .seqMova _ _ => execSeqMova_keeps h
  | .seqMovs _ _ => execSeqMovs_keeps h
  | .seqLdp _ _ => execSeqLdp_keeps h
  | .seqStp _ _ => execSeqStp_keeps h
  | .seqBr _ _ => execSeqBr_keeps h
  | .seqWaitu _ _ => execSeqWaitu_keeps h
  | .seqWaituReached _ _ => execSeqWaituReached_keeps h
  | .seqWaitv _ _ => execSeqWaitv_keeps h
  | .seqWaitvDrained _ _ => execSeqWaitvDrained_keeps h
  | .seqEnd _ _ => execSeqEnd_keeps h
  | .seqTrap _ _ => execSeqTrap_keeps h
  | .seqNop _ _ => execSeqNop_keeps h
  | .seqLset _ _ => execSeqLset_keeps h
  | .seqLrst _ _ => execSeqLrst_keeps h
  | .seqLgen _ _ => execSeqLgen_keeps h
  | .seqLocc _ _ => execSeqLocc_keeps h
  | .seqMfs _ _ => execSeqMfs_keeps h
  | .vectorSend _ _ => execVectorSend_keeps h
  | .vld _ _ => execVld_keeps h
  | .vst _ _ => execVst_keeps h
  | .vldp _ _ => execVldp_keeps h
  | .vcvt _ _ => execVcvt_keeps h
  | .vpack _ _ => execVpack_keeps h
  | .vadd _ _ => execVadd_keeps h
  | .vsub _ _ => execVsub_keeps h
  | .vmul _ _ => execVmul_keeps h
  | .vfma _ _ => execVfma_keeps h
  | .vmin _ _ => execVmin_keeps h
  | .vmax _ _ => execVmax_keeps h
  | .vcmp _ _ => execVcmp_keeps h
  | .vsel _ _ => execVsel_keeps h
  | .vtab _ _ => execVtab_keeps h
  | .vreds _ _ => execVreds_keeps h
  | .vredm _ _ => execVredm_keeps h
  | .vand _ _ => execVand_keeps h
  | .vor _ _ => execVor_keeps h
  | .vxor _ _ => execVxor_keeps h
  | .vnzb _ _ => execVnzb_keeps h
  | .vfold _ _ => execVfold_keeps h
  | .vpopc _ _ => execVpopc_keeps h
  | .vmatch _ _ => execVmatch_keeps h
  | .vbcast _ _ => execVbcast_keeps h
  | .vmovs _ _ => execVmovs_keeps h
  | .norm _ _ => execNorm_keeps h
  | .pressDecide _ _ => execPressDecide_keeps h
  | .prep _ _ => execPrep_keeps h
  | .cand _ _ => execCand_keeps h
  | .pressVote _ _ => execPressVote_keeps h
  | .commit _ _ => execCommit_keeps h
  | .publish _ _ => execPublish_keeps h
  | .gzero _ _ => execGzero_keeps h
  | .fold _ _ => execFold_keeps h
  | .loadfold _ _ => execLoadfold_keeps h
  | .ringRecord _ _ => execRingRecord_keeps h
  | .pressJobComplete _ _ => execPressJobComplete_keeps h
  | .xfer _ _ _ => execXfer_keeps h
  | .wait _ _ _ => execWait_keeps h
  | .waitSlackExpire _ _ _ => execWaitSlackExpire_keeps h
  | .reduce _ _ _ => execReduce_keeps h
  | .flitReceive _ _ => execFlitReceive_keeps h
  | .retryReqReceive _ _ => execRetryReqReceive_keeps h
  | .flitTransmit _ => execFlitTransmit_keeps h
  | .goodFlitTimeout _ => execGoodFlitTimeout_keeps h
  | .flitLockLoss _ => execFlitLockLoss_keeps h
  | .laneFailing _ _ => execLaneFailing_keeps h
  | .detectLock _ _ => execDetectLock_keeps h
  | .keeperUpDone _ => execKeeperUpDone_keeps h
  | .equaliseDone _ _ => execEqualiseDone_keeps h
  | .alignDone _ => execAlignDone_keeps h
  | .calibrateDone _ => execCalibrateDone_keeps h
  | .trainTimeout _ => execTrainTimeout_keeps h
  | .cap _ _ => execCap_keeps h
  | .echo _ _ => execEcho_keeps h
  | .echoReply _ _ => execEchoReply_keeps h
  | .spareReq _ _ => execSpareReq_keeps h
  | .spareAck _ _ => execSpareAck_keeps h
  | .keeperReq _ _ => execKeeperReq_keeps h
  | .keeperAck _ _ => execKeeperAck_keeps h
  | .resumeReq _ _ => execResumeReq_keeps h
  | .resumeAck _ _ => execResumeAck_keeps h
  | .writePacketReceive _ _ => execWritePacketReceive_keeps h
  | .receiptPacketReceive _ _ => execReceiptPacketReceive_keeps h
  | .reducePacketReceive _ _ => execReducePacketReceive_keeps h
  | .mgmtPacketReceive _ _ => execMgmtPacketReceive_keeps h
  | .neighbourMarkMiss _ => execNeighbourMarkMiss_keeps h
  | .tstStep _ => execTstStep_keeps h
  | .tstResult _ _ => execTstResult_keeps h
  | .setEndpointId _ _ => execSetEndpointId_keeps h
  | .getEndpointId _ _ => execGetEndpointId_keeps h
  | .getMctpVersionSupport _ _ => execGetMctpVersionSupport_keeps h
  | .getMessageTypeSupport _ _ => execGetMessageTypeSupport_keeps h
  | .getEndpointUuid _ _ => execGetEndpointUuid_keeps h
  | .getTid _ _ => execGetTid_keeps h
  | .getPldmVersion _ _ => execGetPldmVersion_keeps h
  | .getPldmTypes _ _ => execGetPldmTypes_keeps h
  | .getPldmCommands _ _ => execGetPldmCommands_keeps h
  | .getPdrRepositoryInfo _ _ => execGetPdrRepositoryInfo_keeps h
  | .getPdr _ _ => execGetPdr_keeps h
  | .getSensorReading _ _ => execGetSensorReading_keeps h
  | .setEventReceiver _ _ => execSetEventReceiver_keeps h
  | .queryDeviceIdentifiers _ _ => execQueryDeviceIdentifiers_keeps h
  | .getFirmwareParameters _ _ => execGetFirmwareParameters_keeps h
  | .requestUpdate _ _ => execRequestUpdate_keeps h
  | .passComponentTable _ _ => execPassComponentTable_keeps h
  | .updateComponent _ _ => execUpdateComponent_keeps h
  | .firmwareDataResponse _ _ => execFirmwareDataResponse_keeps h
  | .activateFirmware _ _ => execActivateFirmware_keeps h
  | .getStatus _ _ => execGetStatus_keeps h
  | .cancelUpdateComponent _ _ => execCancelUpdateComponent_keeps h
  | .cancelUpdate _ _ => execCancelUpdate_keeps h
  | .getVersion _ _ => execGetVersion_keeps h
  | .getCapabilities _ _ => execGetCapabilities_keeps h
  | .negotiateAlgorithms _ _ => execNegotiateAlgorithms_keeps h
  | .getDigests _ _ => execGetDigests_keeps h
  | .getCertificate _ _ => execGetCertificate_keeps h
  | .challenge _ _ => execChallenge_keeps h
  | .getMeasurements _ _ => execGetMeasurements_keeps h
  | .getLog _ _ => execGetLog_keeps h
  | .getChanges _ _ => execGetChanges_keeps h
  | .setTime _ _ => execSetTime_keeps h
  | .setConfig _ _ => execSetConfig_keeps h
  | .commitSvn _ _ => execCommitSvn_keeps h
  | .takeOwnership _ _ => execTakeOwnership_keeps h
  | .setRoles _ _ => execSetRoles_keeps h
  | .serviceChallenge _ _ => execServiceChallenge_keeps h
  | .serviceRecord _ _ => execServiceRecord_keeps h
  | .mode0Heartbeat => execMode0Heartbeat_keeps h
  | .hostReadCompletion _ _ _ _ => execHostReadCompletion_keeps h
  | .memWriteDone _ _ => execMemWriteDone_keeps h
  | .retirementCopyDone _ => execRetirementCopyDone_keeps h
  | .perstDeassertion => execPerstDeassertion_keeps h
  | .boundaryScan io => execBoundaryScan_keeps (a1 := io) h
  | .i3cAddressAssignment _ => execI3cAddressAssignment_keeps h

/-- Settles O4: a step is a cycle of the idle module or the command at the front, and each keeps the invariant. -/
theorem everyStepKeepsStores : Obligations.EveryStepKeepsStores := by
  intro s t h hstep
  cases hq : s.pending with
  | nil =>
    rw [step_of_idle hq] at hstep
    cases hstep
    exact tick_keeps h
  | cons c rest =>
    rw [step_of_pending hq] at hstep
    exact exec_keeps (of_fields h) t hstep

/-- Settles O30: the module as manufactured, whose tables are all empty. -/
theorem resetState : Obligations.ResetState := by
  refine ⟨⟨rfl, rfl, rfl, fun _ => rfl, fun _ => rfl, rfl, rfl, rfl, rfl, rfl, fun _ => rfl, rfl, rfl, rfl, rfl, rfl, rfl,
    fun p a => ⟨?_, rfl⟩⟩, ⟨⟨rfl, rfl, rfl⟩, rfl, ?_, ?_, ?_, ?_, ?_, ?_⟩⟩
  · cases p <;> rfl
  all_goals decide

end Sys2Proof.Laws
end

section
/-!
SUPPORT. Records, notices and the end of a context's work: what each of these operations writes, and what a cause of
Table 2.6 does to the context that raised it (R54, R221).
-/

namespace Sys2Proof.Laws

open Machine

/-! ### Folds -/

/-- A fold whose every step keeps a view of the state keeps it. -/
theorem forEach_view {α β : Type} (P : State → β) {f : α → State → State} (hf : ∀ x s, P (f x s) = P s) (xs : List α)
    (s : State) : P (forEach xs f s) = P s := by
  unfold forEach
  induction xs generalizing s with
  | nil => rfl
  | cons x xs ih => rw [List.foldl_cons, ih, hf]

theorem forEach_cons {α : Type} (x : α) (xs : List α) (f : α → State → State) (s : State) :
    forEach (x :: xs) f s = forEach xs f (f x s) := rfl

theorem forEach_nil {α : Type} (f : α → State → State) (s : State) : forEach [] f s = s := rfl

/-! ### What the shared operations write -/

/-- `t` is `s` but for the stacks and host memory. -/
def MemoryOnly (s t : State) : Prop := ∃ a b c, t = { s with stackMem := a, mem := b, hostMem := c }

/-- `t` is `s` but for the Hamper and host memory. -/
def HostOnly (s t : State) : Prop := ∃ a b, t = { s with hamper := a, hostMem := b }

theorem MemoryOnly.refl (s : State) : MemoryOnly s s := ⟨_, _, _, rfl⟩
theorem HostOnly.refl (s : State) : HostOnly s s := ⟨_, _, rfl⟩

theorem MemoryOnly.trans {s t u : State} (h : MemoryOnly s t) (h' : MemoryOnly t u) : MemoryOnly s u := by
  obtain ⟨_, _, _, rfl⟩ := h
  obtain ⟨a, b, c, rfl⟩ := h'
  exact ⟨a, b, c, rfl⟩

theorem HostOnly.trans {s t u : State} (h : HostOnly s t) (h' : HostOnly t u) : HostOnly s u := by
  obtain ⟨_, _, rfl⟩ := h
  obtain ⟨a, b, rfl⟩ := h'
  exact ⟨a, b, rfl⟩

theorem memoryOnly_wrBytes (s : State) (p : Place) (bs : List Byte) : MemoryOnly s (s.wrBytes p bs) := by
  cases p <;> exact ⟨_, _, _, rfl⟩

theorem memoryOnly_foldl {α : Type} {f : State → α → State} (hf : ∀ s x, MemoryOnly s (f s x)) (xs : List α) (s : State) :
    MemoryOnly s (xs.foldl f s) := by
  induction xs generalizing s with
  | nil => exact .refl s
  | cons x xs ih => exact (hf s x).trans (ih _)

/-- A write at context addresses touches memory alone. -/
theorem memoryOnly_wrVa (s : State) (x : Ctx) (va : Nat) (bs : List Byte) : MemoryOnly s (s.wrVa x va bs) := by
  unfold State.wrVa
  refine memoryOnly_foldl (fun s i => ?_) _ s
  dsimp only
  split
  · exact memoryOnly_wrBytes _ _ _
  · exact .refl s

/-- A completion record touches memory alone (R221). -/
theorem memoryOnly_complete (s : State) (c cls inst k : Nat) (r : List Byte) : MemoryOnly s (s.complete c cls inst k r) := by
  unfold State.complete
  dsimp only
  split
  · exact memoryOnly_wrVa _ _ _ _
  · exact .refl s

/-- What a change of memory alone leaves. -/
theorem MemoryOnly.slots {s t : State} (h : MemoryOnly s t) : t.slots = s.slots := by obtain ⟨_, _, _, rfl⟩ := h; rfl
theorem MemoryOnly.slot {s t : State} (h : MemoryOnly s t) (d : Nat) : t.slot d = s.slot d := by
  obtain ⟨_, _, _, rfl⟩ := h; rfl
theorem MemoryOnly.mgl {s t : State} (h : MemoryOnly s t) : t.mgl = s.mgl := by obtain ⟨_, _, _, rfl⟩ := h; rfl
theorem MemoryOnly.seams {s t : State} (h : MemoryOnly s t) : t.seams = s.seams := by obtain ⟨_, _, _, rfl⟩ := h; rfl
theorem MemoryOnly.tasks {s t : State} (h : MemoryOnly s t) : t.tasks = s.tasks := by obtain ⟨_, _, _, rfl⟩ := h; rfl

@[simp] theorem complete_slots (s : State) (c cls inst k : Nat) (r : List Byte) :
    (s.complete c cls inst k r).slots = s.slots := (memoryOnly_complete s c cls inst k r).slots
@[simp] theorem complete_slot (s : State) (c cls inst k : Nat) (r : List Byte) (d : Nat) :
    (s.complete c cls inst k r).slot d = s.slot d := (memoryOnly_complete s c cls inst k r).slot d
@[simp] theorem complete_mgl (s : State) (c cls inst k : Nat) (r : List Byte) :
    (s.complete c cls inst k r).mgl = s.mgl := (memoryOnly_complete s c cls inst k r).mgl
@[simp] theorem complete_seams (s : State) (c cls inst k : Nat) (r : List Byte) :
    (s.complete c cls inst k r).seams = s.seams := (memoryOnly_complete s c cls inst k r).seams
@[simp] theorem complete_tasks (s : State) (c cls inst k : Nat) (r : List Byte) :
    (s.complete c cls inst k r).tasks = s.tasks := (memoryOnly_complete s c cls inst k r).tasks

/-! ### Events -/

theorem hostOnly_modMbx (s : State) (m : Nat) (f : Mailbox → Mailbox) : HostOnly s (s.modMbx m f) := ⟨_, _, rfl⟩
theorem hostOnly_msix (s : State) (m : Nat) : HostOnly s (s.msix m) := ⟨_, _, rfl⟩
theorem hostOnly_dropEvent (s : State) (m : Nat) : HostOnly s (s.dropEvent m) := ⟨_, _, rfl⟩
theorem hostOnly_wrHost (s : State) (a : Nat) (bs : List Byte) : HostOnly s (s.wrHost a bs) := ⟨_, _, rfl⟩

theorem hostOnly_putEvent (s : State) (m : Nat) (r : List Byte) : HostOnly s (s.putEvent m r) := by
  unfold State.putEvent
  dsimp only
  split
  · exact .refl s
  · split
    · exact ⟨_, _, rfl⟩
    · split
      · exact ⟨_, _, rfl⟩
      · exact ⟨_, _, rfl⟩

theorem hostOnly_flushLost (s : State) (m : Nat) : HostOnly s (s.flushLost m) := by
  unfold State.flushLost
  dsimp only
  split
  · exact (hostOnly_putEvent s m _).trans (hostOnly_modMbx _ _ _)
  · exact .refl s

/-- An event touches the Hamper and host memory alone (R415). -/
theorem hostOnly_post (s : State) (m slot code kind : Nat) (arg : W32) : HostOnly s (s.post m slot code kind arg) := by
  unfold State.post
  dsimp only
  refine (hostOnly_flushLost s m).trans ?_
  split
  · exact hostOnly_putEvent _ _ _
  · exact hostOnly_dropEvent _ _

theorem hostOnly_postCtx (s : State) (c code : Nat) (arg : W32) : HostOnly s (s.postCtx c code arg) := hostOnly_post _ _ _ _ _ _

theorem HostOnly.slots {s t : State} (h : HostOnly s t) : t.slots = s.slots := by obtain ⟨_, _, rfl⟩ := h; rfl
theorem HostOnly.slot {s t : State} (h : HostOnly s t) (d : Nat) : t.slot d = s.slot d := by obtain ⟨_, _, rfl⟩ := h; rfl

/-! ### Bystanders -/

/-- The state with everything left out that the end of a context's work, its records and its notices may write: what
stays is what no cause of Table 2.6 touches. -/
def bystanders (s : State) : State :=
  { s with
    hamper := .reset, mp := .factory, slots := [], mgl := .reset, seams := [], tasks := [], ghl := .reset, vunits := []
    mem := .reset, stackMem := [], hostMem := [] }

theorem MemoryOnly.bystanders {s t : State} (h : MemoryOnly s t) : bystanders t = bystanders s := by
  obtain ⟨_, _, _, rfl⟩ := h; rfl
theorem HostOnly.bystanders {s t : State} (h : HostOnly s t) : bystanders t = bystanders s := by
  obtain ⟨_, _, rfl⟩ := h; rfl

@[simp] theorem bystanders_modSlot (s : State) (c : Nat) (f : Ctx → Ctx) : bystanders (s.modSlot c f) = bystanders s := rfl
@[simp] theorem bystanders_modMgl (s : State) (f : Mgl → Mgl) : bystanders (s.modMgl f) = bystanders s := rfl
@[simp] theorem bystanders_modGhl (s : State) (f : Ghl → Ghl) : bystanders (s.modGhl f) = bystanders s := rfl
@[simp] theorem bystanders_modCtxGhl (s : State) (c : Nat) (f : CtxGhl → CtxGhl) :
    bystanders (s.modCtxGhl c f) = bystanders s := rfl
@[simp] theorem bystanders_modMbx (s : State) (m : Nat) (f : Mailbox → Mailbox) : bystanders (s.modMbx m f) = bystanders s := rfl
@[simp] theorem bystanders_modMp (s : State) (f : Mp → Mp) : bystanders (s.modMp f) = bystanders s := rfl
@[simp] theorem bystanders_log (s : State) (a b c : Nat) (d : W32) (e : BitVec 48) :
    bystanders (s.log a b c d e) = bystanders s := rfl
@[simp] theorem bystanders_complete (s : State) (c cls inst k : Nat) (r : List Byte) :
    bystanders (s.complete c cls inst k r) = bystanders s := (memoryOnly_complete s c cls inst k r).bystanders
@[simp] theorem bystanders_post (s : State) (m slot code kind : Nat) (arg : W32) :
    bystanders (s.post m slot code kind arg) = bystanders s := (hostOnly_post s m slot code kind arg).bystanders
@[simp] theorem bystanders_postCtx (s : State) (c code : Nat) (arg : W32) :
    bystanders (s.postCtx c code arg) = bystanders s := (hostOnly_postCtx s c code arg).bystanders

@[simp] theorem bystanders_dropQueued (p : List Byte → Bool) (s : State) : bystanders (dropQueued p s) = bystanders s := rfl

@[simp] theorem bystanders_endAct (c : Nat) (a : GhlAct) (status : Nat) (ab : Bool) (s : State) :
    bystanders (endAct c a status ab s) = bystanders s := by
  unfold endAct
  dsimp only
  split <;> simp

@[simp] theorem bystanders_abortGhl (status c : Nat) (s : State) : bystanders (abortGhl status c s) = bystanders s :=
  forEach_view bystanders (fun _ _ => bystanders_endAct _ _ _ _ _) _ _

@[simp] theorem bystanders_abortPress (status c : Nat) (s : State) : bystanders (abortPress status c s) = bystanders s := by
  unfold abortPress
  rw [bystanders_modSlot]
  exact forEach_view bystanders (fun _ _ => bystanders_complete _ _ _ _ _ _) _ _

@[simp] theorem bystanders_endTask (t : StrTask) (status : Nat) (ab : Bool) (s : State) :
    bystanders (endTask t status ab s) = bystanders s := by
  unfold endTask
  exact bystanders_complete s _ _ _ _ _

@[simp] theorem bystanders_abortStreams (status c : Nat) (s : State) : bystanders (abortStreams status c s) = bystanders s :=
  forEach_view bystanders (fun _ _ => bystanders_endTask _ _ _ _) _ _

@[simp] theorem bystanders_abortSeams (status c : Nat) (s : State) : bystanders (abortSeams status c s) = bystanders s := by
  unfold abortSeams
  exact forEach_view bystanders (fun _ _ => bystanders_complete _ _ _ _ _ _) _ s

@[simp] theorem bystanders_fallGuard (s : State) : bystanders (fallGuard s) = bystanders s := by
  unfold fallGuard
  dsimp only
  split <;> rfl

@[simp] theorem bystanders_abortOp (status : Nat) (o : MglOp) (s : State) : bystanders (abortOp status o s) = bystanders s := by
  unfold abortOp
  dsimp only
  split
  · rfl
  · split
    · rfl
    · rw [bystanders_fallGuard]; rfl

@[simp] theorem bystanders_abortMangle (status c : Nat) (s : State) : bystanders (abortMangle status c s) = bystanders s :=
  forEach_view bystanders (fun _ _ => bystanders_abortOp _ _ _) _ _

@[simp] theorem bystanders_abortTiles (status c : Nat) (s : State) : bystanders (abortTiles status c s) = bystanders s := by
  unfold abortTiles
  exact forEach_view bystanders (fun _ _ => bystanders_complete _ _ _ _ _ _) _ s

@[simp] theorem bystanders_discardRest (s : State) (c : Nat) : bystanders (s.discardRest c) = bystanders s := by
  unfold State.discardRest
  dsimp only
  rw [bystanders_modSlot]
  exact forEach_view bystanders (fun _ s => forEach_view bystanders (fun _ _ => bystanders_complete _ _ _ _ _ _) _ s) _ s

/-- A cause of Table 2.6 leaves the bystanders alone. -/
@[simp] theorem bystanders_raiseCause (s : State) (c code : Nat) (arg : W32) (ext : BitVec 48) :
    bystanders (raiseCause s c code arg ext) = bystanders s := by
  unfold raiseCause abortAll
  dsimp only
  split
  · rfl
  · split <;> simp

@[simp] theorem bystanders_opFault (o : MglOp) (code : Nat) (ext : BitVec 48) (s : State) :
    bystanders (opFault o code ext s) = bystanders s := by simp [opFault]

@[simp] theorem bystanders_setSeam (u : Nat) (o : Option SeamOp) (s : State) : bystanders (setSeam u o s) = bystanders s := rfl

@[simp] theorem bystanders_seamFault (u : Nat) (o : SeamOp) (code : Nat) (s : State) :
    bystanders (seamFault u o code s) = bystanders s := by simp [seamFault]

@[simp] theorem bystanders_actFault (c : Nat) (a : GhlAct) (code : Nat) (s : State) :
    bystanders (actFault c a code s) = bystanders s := by
  unfold actFault
  dsimp only
  split <;> simp

@[simp] theorem bystanders_tileFault (c : Nat) (t : Tile) (code pc trap : Nat) (s : State) :
    bystanders (tileFault c t code pc trap s) = bystanders s := by
  unfold tileFault setTileSt
  dsimp only
  split
  · rfl
  · split <;> simp

@[simp] theorem bystanders_slackAbort (c : Nat) (t : Tile) (l : Nat) (p : Party) (code : Nat) (s : State) :
    bystanders (slackAbort c t l p code s) = bystanders s := by
  cases p <;> dsimp only [slackAbort] <;> repeat' split
  all_goals simp

end Sys2Proof.Laws
end

section
/-!
SUPPORT. The idle cycle (log entry 2, R28): what it leaves of the clock, the queue and the stores.
-/

namespace Sys2Proof.Laws

open Machine

/-- Clock, queue and fuses. -/
def clockOf (s : State) : Nat × List Instr × Fuses := (s.now, s.pending, s.fuses)

/-- The Hamper, the MP's record and the three memories. -/
def storesOf (s : State) : Hamper × Mp × KV Byte × KV Byte × KV Byte := (s.hamper, s.mp, s.tubMem, s.stackMem, s.hostMem)

theorem clockOf_eq {s t : State} (h : bystanders t = bystanders s) : clockOf t = clockOf s :=
  show clockOf (bystanders t) = clockOf (bystanders s) from congrArg clockOf h

/-! ### The parts of a cycle -/

theorem clockOf_lossTick (s : State) : clockOf (lossTick s) = clockOf s := by
  unfold lossTick
  rw [forEach_view clockOf]
  · rfl
  · intro a s
    split
    · exact clockOf_eq (bystanders_slackAbort _ _ _ _ _ _)
    · rfl

theorem clockOf_waitCycles (c n : Nat) (a : GhlAct) (s : State) : clockOf (waitCycles c n a s) = clockOf s := by
  unfold waitCycles
  dsimp only
  split
  · rw [clockOf_eq (bystanders_actFault _ _ _ _)]; rfl
  · split
    · rw [clockOf_eq (bystanders_actFault _ _ _ _)]; rfl
    · rfl

theorem clockOf_waitTick (s : State) : clockOf (waitTick s) = clockOf s := by
  unfold waitTick
  refine forEach_view clockOf (fun c s => forEach_view clockOf (fun a s => ?_) _ s) _ s
  split
  · exact clockOf_waitCycles _ _ _ _
  · rfl

/-- What a cycle of the Mangle leaves: its counters, levels and stalls lie in none of these. -/
def mangleLeaves (s : State) := (clockOf s, storesOf s)

theorem clockOf_of_leaves {s t : State} (h : mangleLeaves t = mangleLeaves s) : clockOf t = clockOf s := (Prod.mk.inj h).1
theorem storesOf_of_leaves {s t : State} (h : mangleLeaves t = mangleLeaves s) : storesOf t = storesOf s := (Prod.mk.inj h).2

theorem mangleLeaves_addWait (party n key : Nat) (s : State) : mangleLeaves (addWait party n key s) = mangleLeaves s := rfl
theorem mangleLeaves_addStall (c n : Nat) (s : State) : mangleLeaves (addStall c n s) = mangleLeaves s := rfl
theorem mangleLeaves_frozenTick (s : State) : mangleLeaves (frozenTick s) = mangleLeaves s := rfl

theorem mangleLeaves_freeTick (s : State) : mangleLeaves (freeTick s) = mangleLeaves s := by
  unfold freeTick mglIdle
  dsimp only
  split
  · rfl
  · unfold fallGuard
    dsimp only
    split <;> rfl

theorem mangleLeaves_mangleTick (s : State) : mangleLeaves (mangleTick s) = mangleLeaves s := by
  unfold mangleTick
  extract_lets m t u
  have ht : mangleLeaves t = mangleLeaves s := forEach_view mangleLeaves (fun _ _ => mangleLeaves_addWait _ _ _ _) _ s
  have hu : mangleLeaves u = mangleLeaves s := by
    unfold u
    split
    · exact (mangleLeaves_addStall _ _ _).trans ht
    · exact ht
  split
  · exact (mangleLeaves_frozenTick u).trans hu
  · exact (mangleLeaves_freeTick u).trans hu

theorem mangleLeaves_partitionFree (c : Nat) (s : State) : mangleLeaves (partitionFree c s) = mangleLeaves s := rfl

theorem mangleLeaves_clearTick (s : State) : mangleLeaves (clearTick s) = mangleLeaves s := by
  cases h : s.tub.clears with
  | nil => unfold clearTick; rw [h]
  | cons e es =>
    unfold clearTick
    rw [h]
    dsimp only
    split
    · rfl
    · split
      · exact mangleLeaves_partitionFree _ s
      · rfl

/-! ### The cycle -/

theorem clockOf_later (s : State) : clockOf (clearTick (mangleTick (waitTick s))) = clockOf s :=
  calc clockOf (clearTick (mangleTick (waitTick s)))
      = clockOf (mangleTick (waitTick s)) := clockOf_of_leaves (mangleLeaves_clearTick _)
    _ = clockOf (waitTick s) := clockOf_of_leaves (mangleLeaves_mangleTick _)
    _ = clockOf s := clockOf_waitTick s

theorem clockOf_tick (s : State) : clockOf (tick s) = (s.now + 1, s.pending, s.fuses) := by
  unfold tick
  extract_lets t u
  have ht : clockOf t = clockOf s := by
    unfold t
    split
    · exact clockOf_lossTick s
    · rfl
  simp only [clockOf, Prod.mk.injEq] at ht
  obtain ⟨hnow, hpend, hfuses⟩ := ht
  have hu : clockOf u = (s.now + 1, s.pending, s.fuses) := by
    simp only [clockOf, u, hnow, hpend, hfuses]
  split
  · rw [clockOf_later, hu]
  · exact hu

/-- With no WAIT in execution a cycle changes nothing for the waits. -/
theorem waitTick_of_none {s : State} (h : ∀ c, c < 8 → ∀ a ∈ (s.slot c).ghl.acts, a.kind ≠ 1) : waitTick s = s := by
  have hslot : ∀ (cs : List Nat), (∀ c ∈ cs, c < 8) → forEach cs (fun c s =>
      forEach ((s.slot c).ghl.acts.filter fun a => a.kind == 1) (fun a s =>
        if (s.act? c a.inst a.k).isSome then waitCycles c 1 a s else s) s) s = s := by
    intro cs hcs
    induction cs with
    | nil => rfl
    | cons c cs ih =>
      have hnone : ((s.slot c).ghl.acts.filter fun a => a.kind == 1) = [] := by
        rw [List.filter_eq_nil_iff]
        exact fun a ha => by simpa using h c (hcs c (by simp)) a ha
      rw [forEach_cons, hnone, forEach_nil]
      exact ih fun c hc => hcs c (by simp [hc])
  exact hslot slots8 (by decide)

theorem lossTick_of_none {s : State} (h : s.tub.losses = []) : lossTick s = s := by
  unfold lossTick
  rw [h, forEach_nil, ← h]

theorem storesOf_tick {s : State} (hloss : s.tub.losses = [])
    (hwait : ∀ c, c < 8 → ∀ a ∈ (s.slot c).ghl.acts, a.kind ≠ 1) : storesOf (tick s) = storesOf s := by
  unfold tick
  rw [lossTick_of_none hloss, ite_self]
  extract_lets t u
  have hu : waitTick u = u := waitTick_of_none hwait
  split
  · rw [hu]
    calc storesOf (clearTick (mangleTick u))
        = storesOf (mangleTick u) := storesOf_of_leaves (mangleLeaves_clearTick _)
      _ = storesOf u := storesOf_of_leaves (mangleLeaves_mangleTick u)
  · rfl

/-- Settles O2: of the cycle's parts only the losses and the WAITs reach beyond the Mangle, the Tubs and the clock. -/
theorem idleStepIsOneCycle : Obligations.IdleStepIsOneCycle := by
  intro s hidle
  have hclock := clockOf_tick s
  simp only [clockOf, Prod.mk.injEq] at hclock
  obtain ⟨hnow, hpend, hfuses⟩ := hclock
  refine ⟨tick s, step_of_idle hidle, hnow, hpend.trans hidle, hfuses, fun hloss hwait => ?_⟩
  have hstores := storesOf_tick hloss hwait
  simpa only [storesOf, Prod.mk.injEq] using hstores

end Sys2Proof.Laws
end

section
/-!
SUPPORT. A cause of Table 2.6 ends the work of its context: what the abort of each engine leaves of that engine's own
work, and that no other abort brings it back (R54, R221).
-/

namespace Sys2Proof.Laws

open Machine

/-- The operations in flight in the Mangle, in the Seams and in the stream engines. -/
def enginesOf (s : State) : Mgl × KV SeamOp × List StrTask := (s.mgl, s.seams, s.tasks)

/-- A slot without its class-4 work. -/
def offGhl (x : Ctx) : Ctx := { x with ghl := .empty }

theorem enginesOf_complete (s : State) (c cls inst k : Nat) (r : List Byte) :
    enginesOf (s.complete c cls inst k r) = enginesOf s := by
  simp only [enginesOf, complete_mgl, complete_seams, complete_tasks]

/-! ### Class-4 commands -/

theorem offGhl_slot_modCtxGhl (s : State) (c d : Nat) (f : CtxGhl → CtxGhl) :
    offGhl ((s.modCtxGhl c f).slot d) = offGhl (s.slot d) := by
  unfold State.modCtxGhl
  by_cases h : d = c
  · subst h; rw [slot_modSlot]; rfl
  · rw [slot_modSlot_other _ _ h]

theorem offGhl_slot_endAct (c d : Nat) (a : GhlAct) (status : Nat) (ab : Bool) (s : State) :
    offGhl ((endAct c a status ab s).slot d) = offGhl (s.slot d) := by
  unfold endAct
  extract_lets a t u v
  have hu : offGhl (u.slot d) = offGhl (s.slot d) := by
    rw [offGhl_slot_modCtxGhl, complete_slot]
  split <;> exact hu

theorem enginesOf_endAct (c : Nat) (a : GhlAct) (status : Nat) (ab : Bool) (s : State) :
    enginesOf (endAct c a status ab s) = enginesOf s := by
  unfold endAct
  extract_lets a t u v
  have hu : enginesOf u = enginesOf s := enginesOf_complete s _ _ _ _ _
  split <;> exact hu

theorem offGhl_slot_abortGhl (status c d : Nat) (s : State) :
    offGhl ((abortGhl status c s).slot d) = offGhl (s.slot d) :=
  forEach_view (fun t => offGhl (t.slot d)) (fun _ _ => offGhl_slot_endAct _ _ _ _ _ _) _ s

theorem enginesOf_abortGhl (status c : Nat) (s : State) : enginesOf (abortGhl status c s) = enginesOf s :=
  forEach_view enginesOf (fun _ _ => enginesOf_endAct _ _ _ _ _) _ s

/-! ### Press jobs -/

theorem enginesOf_abortPress (status c : Nat) (s : State) : enginesOf (abortPress status c s) = enginesOf s :=
  forEach_view enginesOf (fun _ _ => enginesOf_complete _ _ _ _ _ _) (s.slot c).press.jobs s

theorem slot_abortPress (status c : Nat) (s : State) :
    (abortPress status c s).slot c = { s.slot c with press := { (s.slot c).press with jobs := [] } } := by
  unfold abortPress
  extract_lets t
  have ht : t.slot c = s.slot c := forEach_view (fun u => u.slot c) (fun _ _ => complete_slot _ _ _ _ _ _ _) _ s
  rw [slot_modSlot, ht]

/-! ### Stream tasks -/

theorem slots_endTask (t : StrTask) (status : Nat) (ab : Bool) (s : State) : (endTask t status ab s).slots = s.slots :=
  complete_slots s _ _ _ _ _

theorem mgl_endTask (t : StrTask) (status : Nat) (ab : Bool) (s : State) : (endTask t status ab s).mgl = s.mgl :=
  complete_mgl s _ _ _ _ _

theorem seams_endTask (t : StrTask) (status : Nat) (ab : Bool) (s : State) : (endTask t status ab s).seams = s.seams :=
  complete_seams s _ _ _ _ _

theorem tasks_endTask (t : StrTask) (status : Nat) (ab : Bool) (s : State) :
    (endTask t status ab s).tasks = s.tasks.filter fun u => !u.same t := by
  unfold endTask
  extract_lets u
  have hu : u.tasks = s.tasks := complete_tasks s _ _ _ _ _
  rw [hu]

theorem slot_abortStreams (status c d : Nat) (s : State) : (abortStreams status c s).slot d = s.slot d := by
  have h : (abortStreams status c s).slots = s.slots :=
    forEach_view State.slots (fun _ _ => slots_endTask _ _ _ _) _ s
  unfold State.slot
  rw [h]

theorem same_self (t : StrTask) : t.same t = true := by simp [StrTask.same]

/-- Tasks that a fold of ends leaves were there before and are none of the ended ones. -/
theorem mem_tasks_forEach_endTask {st : StrTask → Nat} {ab : Bool} {u : StrTask} {ts : List StrTask} {s : State}
    (h : u ∈ (forEach ts (fun t s => endTask t (st t) ab s) s).tasks) :
    u ∈ s.tasks ∧ ∀ t ∈ ts, u.same t = false := by
  induction ts generalizing s with
  | nil => exact ⟨h, by simp⟩
  | cons t ts ih =>
    obtain ⟨hmem, hrest⟩ := ih (s := endTask t (st t) ab s) h
    rw [tasks_endTask, List.mem_filter] at hmem
    refine ⟨hmem.1, fun v hv => ?_⟩
    rcases List.mem_cons.1 hv with rfl | hv
    · simpa using hmem.2
    · exact hrest v hv

theorem slot_ne_of_mem_abortStreams {status c : Nat} {s : State} {u : StrTask} (h : u ∈ (abortStreams status c s).tasks) :
    u.slot ≠ c := by
  obtain ⟨hmem, hnone⟩ := mem_tasks_forEach_endTask h
  intro hc
  have := hnone u (List.mem_filter.2 ⟨hmem, by simpa using hc⟩)
  rw [same_self] at this
  cases this

theorem mgl_abortStreams (status c : Nat) (s : State) : (abortStreams status c s).mgl = s.mgl :=
  forEach_view State.mgl (fun t u => mgl_endTask t _ _ u) _ s

theorem seams_abortStreams (status c : Nat) (s : State) : (abortStreams status c s).seams = s.seams :=
  forEach_view State.seams (fun t u => seams_endTask t _ _ u) _ s

/-! ### Seam operations -/

theorem slot_abortSeams (status c d : Nat) (s : State) : (abortSeams status c s).slot d = s.slot d :=
  forEach_view (fun t => t.slot d) (fun _ t => complete_slot t _ _ _ _ _ _) _ s

theorem mgl_abortSeams (status c : Nat) (s : State) : (abortSeams status c s).mgl = s.mgl :=
  forEach_view State.mgl (fun _ t => complete_mgl t _ _ _ _ _) _ s

theorem seams_abortSeams (status c : Nat) (s : State) :
    (abortSeams status c s).seams = s.seams.filter fun e => e.2.slot != c := by
  unfold abortSeams
  extract_lets mine t
  have ht : t.seams = s.seams := forEach_view State.seams (fun _ t => complete_seams t _ _ _ _ _) _ s
  rw [ht]

/-! ### Mangle operations -/

theorem ops_fallGuard (s : State) : (fallGuard s).mgl.ops = s.mgl.ops := by
  unfold fallGuard
  extract_lets v
  split <;> rfl

theorem slots_fallGuard (s : State) : (fallGuard s).slots = s.slots := by
  unfold fallGuard
  extract_lets v
  split <;> rfl

theorem slots_abortOp (status : Nat) (o : MglOp) (s : State) : (abortOp status o s).slots = s.slots := by
  unfold abortOp
  split
  · rfl
  · extract_lets t u
    split
    · rfl
    · exact slots_fallGuard u

/-- Raising the abort of an operation marks the operations of its slot and command. -/
theorem ops_abortOp (status : Nat) (o : MglOp) (s : State) : (abortOp status o s).mgl.ops =
    if o.abort.isSome then s.mgl.ops
    else s.mgl.ops.map fun p => if p.slot = o.slot ∧ p.k = o.k then { p with abort := some status, stage := .done } else p := by
  unfold abortOp
  split
  · rfl
  · extract_lets t u
    split
    · rfl
    · rw [ops_fallGuard]; rfl

theorem slot_abortMangle (status c d : Nat) (s : State) : (abortMangle status c s).slot d = s.slot d := by
  have h : (abortMangle status c s).slots = s.slots := forEach_view State.slots (fun _ _ => slots_abortOp _ _ _) _ s
  unfold State.slot
  rw [h]

/-- An operation left without an abort by a fold of aborts was there before, and each operation of the fold has an abort of its
own or another place. -/
theorem mem_ops_forEach_abortOp {status : Nat} {p : MglOp} {os : List MglOp} {s : State}
    (h : p ∈ (forEach os (abortOp status) s).mgl.ops) (hp : p.abort = none) :
    p ∈ s.mgl.ops ∧ ∀ o ∈ os, o.abort = none → ¬ (p.slot = o.slot ∧ p.k = o.k) := by
  induction os generalizing s with
  | nil => exact ⟨h, by simp⟩
  | cons o os ih =>
    obtain ⟨hmem, hrest⟩ := ih (s := abortOp status o s) h
    rw [ops_abortOp] at hmem
    split at hmem
    · rename_i hsome
      refine ⟨hmem, fun q hq hnone => ?_⟩
      rcases List.mem_cons.1 hq with rfl | hq
      · rw [hnone] at hsome; cases hsome
      · exact hrest q hq hnone
    · obtain ⟨q, hq, rfl⟩ := List.mem_map.1 hmem
      split at hp
      · cases hp
      · rename_i hne
        rw [if_neg hne]
        refine ⟨hq, fun r hr hnone => ?_⟩
        rcases List.mem_cons.1 hr with rfl | hr
        · exact hne
        · rw [if_neg hne] at hrest
          exact hrest r hr hnone

theorem abort_isSome_of_mem_abortMangle {status c : Nat} {s : State} {p : MglOp}
    (h : p ∈ (abortMangle status c s).mgl.ops) (hc : p.slot = c) : p.abort.isSome = true := by
  by_contra hnone
  rw [Bool.not_eq_true, Option.isSome_eq_false_iff, Option.isNone_iff_eq_none] at hnone
  obtain ⟨hmem, hrest⟩ := mem_ops_forEach_abortOp h hnone
  exact hrest p (List.mem_filter.2 ⟨hmem, by simpa using hc⟩) hnone ⟨rfl, rfl⟩

/-! ### Tile commands -/

theorem slot_abortTiles (status c : Nat) (s : State) : ∃ q, (abortTiles status c s).slot c =
    { s.slot c with tileCmds := [], seqs := q } := by
  unfold abortTiles
  extract_lets t
  have ht : t.slot c = s.slot c := forEach_view (fun u => u.slot c) (fun _ _ => complete_slot _ _ _ _ _ _ _) _ s
  have hslot : (dropVector c (haltSeqs c t)).slot c = (haltSeqs c t).slot c := rfl
  rw [hslot]
  unfold haltSeqs
  rw [slot_modSlot, ht]
  exact ⟨_, rfl⟩

/-! ### Discarded commands -/

theorem slot_discardRest (s : State) (c : Nat) : ∃ p, (s.discardRest c).slot c = { s.slot c with pos := p } := by
  unfold State.discardRest
  extract_lets x t
  have ht : t.slot c = s.slot c :=
    forEach_view (fun u => u.slot c) (fun _ u => forEach_view (fun v => v.slot c) (fun _ v => complete_slot v _ _ _ _ _ _) _ u) _ s
  rw [slot_modSlot, ht]
  exact ⟨_, rfl⟩

theorem enginesOf_discardRest (s : State) (c : Nat) : enginesOf (s.discardRest c) = enginesOf s :=
  forEach_view enginesOf (fun _ s => forEach_view enginesOf (fun _ s => enginesOf_complete s _ _ _ _ _) _ s)
    (s.slot c).cur.lists s

/-! ### All engines -/

/-- The attempt and the Stroke registers of a slot. -/
def attemptOf (x : Ctx) : Attempt × StkCtx := (x.att, x.stk)

/-- The commands of a slot in its tiles and Presses. -/
def unitsOf (x : Ctx) : List TileCmd × KV PressJob := (x.tileCmds, x.press.jobs)

/-- What the discard of commands and class-4 work leave of a slot. -/
theorem attemptOf_discard (x : Ctx) (p : KV Nat) : attemptOf { x with pos := p } = attemptOf x := rfl
theorem attemptOf_offGhl (x : Ctx) : attemptOf (offGhl x) = attemptOf x := rfl
theorem unitsOf_discard (x : Ctx) (p : KV Nat) : unitsOf { x with pos := p } = unitsOf x := rfl
theorem unitsOf_offGhl (x : Ctx) : unitsOf (offGhl x) = unitsOf x := rfl

/-- The slot after the end of a context's work, but for its class-4 commands and its discarded commands. -/
theorem slot_abortAll (status c : Nat) (s : State) : ∃ q, offGhl ((abortAll status c s).slot c) =
    offGhl { s.slot c with tileCmds := [], seqs := q, press := { (s.slot c).press with jobs := [] } } := by
  obtain ⟨q, hq⟩ := slot_abortTiles status c s
  refine ⟨q, ?_⟩
  unfold abortAll
  rw [offGhl_slot_abortGhl, slot_abortPress, slot_abortStreams, slot_abortSeams, slot_abortMangle, hq]

/-- The end of a context's work leaves its attempt and its registers. -/
theorem attemptOf_abortAll (status c : Nat) (s : State) :
    attemptOf (((abortAll status c s).discardRest c).slot c) = attemptOf (s.slot c) := by
  obtain ⟨p, hp⟩ := slot_discardRest (abortAll status c s) c
  obtain ⟨q, hq⟩ := slot_abortAll status c s
  rw [hp, attemptOf_discard, ← attemptOf_offGhl, hq, attemptOf_offGhl]
  rfl

/-- It leaves no command in the context's tiles and Presses. -/
theorem unitsOf_abortAll (status c : Nat) (s : State) : unitsOf (((abortAll status c s).discardRest c).slot c) = ([], []) := by
  obtain ⟨p, hp⟩ := slot_discardRest (abortAll status c s) c
  obtain ⟨q, hq⟩ := slot_abortAll status c s
  rw [hp, unitsOf_discard, ← unitsOf_offGhl, hq, unitsOf_offGhl]
  rfl

/-- What the engines hold after it. -/
theorem enginesOf_abortAll (status c : Nat) (s : State) : enginesOf ((abortAll status c s).discardRest c) =
    enginesOf (abortStreams status c (abortSeams status c (abortMangle status c (abortTiles status c s)))) := by
  rw [enginesOf_discardRest]
  unfold abortAll
  rw [enginesOf_abortGhl, enginesOf_abortPress]

/-- It leaves no operation of the context in the Mangle that is not aborted, none in the Seams and none in the stream
engines. -/
theorem engines_abortAll (status c : Nat) (s t : State) (h : t = (abortAll status c s).discardRest c) :
    (∀ o ∈ t.mgl.ops, o.slot = c → o.abort.isSome = true) ∧ (∀ e ∈ t.seams, e.2.slot ≠ c) ∧ ∀ u ∈ t.tasks, u.slot ≠ c := by
  have heng := enginesOf_abortAll status c s
  rw [← h] at heng
  simp only [enginesOf, Prod.mk.injEq] at heng
  obtain ⟨hmgl, hseams, htasks⟩ := heng
  rw [mgl_abortStreams, mgl_abortSeams] at hmgl
  rw [seams_abortStreams, seams_abortSeams] at hseams
  refine ⟨fun o ho hc => ?_, fun e he => ?_, fun u hu => ?_⟩
  · rw [hmgl] at ho
    exact abort_isSome_of_mem_abortMangle ho hc
  · rw [hseams, List.mem_filter] at he
    simpa using he.2
  · rw [htasks] at hu
    exact slot_ne_of_mem_abortStreams hu

/-! ### Causes -/

theorem raiseCause_of_over {s : State} {c : Nat} (code : Nat) (arg : W32) (ext : BitVec 48)
    (h : (s.slot c).att.on = false) : raiseCause s c code arg ext = s := by
  unfold raiseCause
  simp [h]

/-- The entry of a cause in the log, the ring, the tally and the registers. -/
def enterCause (s : State) (c code : Nat) (arg : W32) (ext : BitVec 48) : State :=
  ((s.log code originHw c arg ext).postCtx c code arg).modSlot c fun x =>
    { x with
      att := { x.att with cause := max x.att.cause (tallyOf code) }
      stk := if code = Code.strokeOverrun then { x.stk with overruns := sat32 x.stk.overruns 1 } else x.stk }

theorem raiseCause_of_on {s : State} {c : Nat} (code : Nat) (arg : W32) (ext : BitVec 48)
    (h : (s.slot c).att.on = true) : raiseCause s c code arg ext =
      if (s.slot c).att.cause = 0 ∧ tallyOf code ≠ 0 then
        (abortAll Code.strokeDiscard c (enterCause s c code arg ext)).discardRest c
      else enterCause s c code arg ext := by
  unfold raiseCause enterCause
  simp [h]

theorem slot_enterCause (s : State) (c code : Nat) (arg : W32) (ext : BitVec 48) :
    (enterCause s c code arg ext).slot c =
      { s.slot c with
        att := { (s.slot c).att with cause := max (s.slot c).att.cause (tallyOf code) }
        stk := if code = Code.strokeOverrun then { (s.slot c).stk with overruns := sat32 (s.slot c).stk.overruns 1 }
          else (s.slot c).stk } := by
  have h : ((s.log code originHw c arg ext).postCtx c code arg).slot c = s.slot c := (hostOnly_postCtx _ c code arg).slot c
  unfold enterCause
  rw [slot_modSlot, h]

/-- The attempt and the registers after a cause: those of its entry, whether or not it ends the context's work. -/
theorem attemptOf_raiseCause {s : State} {c : Nat} (code : Nat) (arg : W32) (ext : BitVec 48)
    (h : (s.slot c).att.on = true) :
    attemptOf ((raiseCause s c code arg ext).slot c) = attemptOf ((enterCause s c code arg ext).slot c) := by
  rw [raiseCause_of_on code arg ext h]
  split
  · exact attemptOf_abortAll _ _ _
  · rfl

/-- Settles O46: a cause is entered, and the first one ends every engine's work of the context. -/
theorem causesEndWork : Obligations.CausesEndWork := by
  intro s c code arg ext
  refine ⟨fun h => raiseCause_of_over code arg ext h, fun h => ?_⟩
  have hatt := attemptOf_raiseCause code arg ext h
  rw [slot_enterCause] at hatt
  simp only [attemptOf, Prod.mk.injEq] at hatt
  obtain ⟨hcause, hstk⟩ := hatt
  refine ⟨by rw [hcause], ?_, fun hfirst hcode => ?_⟩
  · rw [hstk]
    show StkCtx.overruns (if code = 0x0101 then _ else _) = _
    split <;> rfl
  · have hall : raiseCause s c code arg ext =
        (abortAll Code.strokeDiscard c (enterCause s c code arg ext)).discardRest c := by
      rw [raiseCause_of_on code arg ext h, if_pos ⟨hfirst, hcode⟩]
    obtain ⟨hmgl, hseams, htasks⟩ := engines_abortAll _ _ _ _ hall
    have hunits := unitsOf_abortAll Code.strokeDiscard c (enterCause s c code arg ext)
    rw [← hall] at hunits
    simp only [unitsOf, Prod.mk.injEq] at hunits
    exact ⟨hmgl, hseams, htasks, hunits.2, hunits.1⟩

end Sys2Proof.Laws
end

section
/-!
SUPPORT. The scalar instructions of the sequencer (Table 7.13): the values of its operators as the table's arithmetic, and the
change of the sequencer's registers that each instruction makes.
-/

namespace Sys2Proof.Laws

open Machine

/-! ### Values of the three-register instructions -/

theorem add_eq_ofNat (a b : W32) : a + b = BitVec.ofNat 32 (a.toNat + b.toNat) := by
  apply BitVec.eq_of_toNat_eq
  rw [BitVec.toNat_add, BitVec.toNat_ofNat]

theorem sub_eq_ofInt (a b : W32) : a - b = BitVec.ofInt 32 (a.toInt - b.toInt) := by
  apply BitVec.eq_of_toInt_eq
  rw [BitVec.toInt_sub, BitVec.toInt_ofInt]

theorem and_eq_ofNat (a b : W32) : a &&& b = BitVec.ofNat 32 (a.toNat &&& b.toNat) := by
  rw [← BitVec.toNat_and, BitVec.ofNat_toNat, BitVec.setWidth_eq]

theorem or_eq_ofNat (a b : W32) : a ||| b = BitVec.ofNat 32 (a.toNat ||| b.toNat) := by
  rw [← BitVec.toNat_or, BitVec.ofNat_toNat, BitVec.setWidth_eq]

theorem xor_eq_ofNat (a b : W32) : a ^^^ b = BitVec.ofNat 32 (a.toNat ^^^ b.toNat) := by
  rw [← BitVec.toNat_xor, BitVec.ofNat_toNat, BitVec.setWidth_eq]

theorem shl_eq_ofNat (a : W32) (n : Nat) : a <<< n = BitVec.ofNat 32 (a.toNat * 2 ^ n) := by
  apply BitVec.eq_of_toNat_eq
  rw [BitVec.toNat_shiftLeft, BitVec.toNat_ofNat, Nat.shiftLeft_eq]

theorem shr_eq_ofNat (a : W32) (n : Nat) : a >>> n = BitVec.ofNat 32 (a.toNat / 2 ^ n) := by
  rw [← Nat.shiftRight_eq_div_pow, ← BitVec.toNat_ushiftRight, BitVec.ofNat_toNat, BitVec.setWidth_eq]

theorem sra_eq_ofInt (a : W32) (n : Nat) : a.sshiftRight n = BitVec.ofInt 32 (a.toInt / 2 ^ n) := by
  have hdiv : a.toInt >>> n = a.toInt / 2 ^ n := by
    rw [Int.shiftRight_eq_div_pow]
    norm_cast
  rw [← hdiv, ← BitVec.toInt_sshiftRight, BitVec.ofInt_toInt]

theorem mul_eq_ofNat (a b : W32) : a * b = BitVec.ofNat 32 (a.toNat * b.toNat) := by
  apply BitVec.eq_of_toNat_eq
  rw [BitVec.toNat_mul, BitVec.toNat_ofNat]

/-- The upper half of a 64-bit product keeps the quotient modulo 2^32. -/
theorem mulhS_eq_ofInt (a b : W32) : mulhS a b = BitVec.ofInt 32 (a.toInt * b.toInt / 2 ^ 32) := by
  unfold mulhS
  generalize a.toInt * b.toInt = p
  apply BitVec.eq_of_toNat_eq
  rw [BitVec.toNat_setWidth, BitVec.toNat_ushiftRight, BitVec.toNat_ofInt, BitVec.toNat_ofInt, Nat.shiftRight_eq_div_pow]
  omega

theorem min_eq_ofInt (a b : W32) : (if b.slt a then b else a) = BitVec.ofInt 32 (min a.toInt b.toInt) := by
  have hlt : b.slt a = true ↔ b.toInt < a.toInt := BitVec.slt_iff_toInt_lt
  split
  · rename_i h
    rw [min_eq_right (le_of_lt (hlt.1 h)), BitVec.ofInt_toInt]
  · rename_i h
    rw [min_eq_left (not_lt.1 fun k => h (hlt.2 k)), BitVec.ofInt_toInt]

theorem max_eq_ofInt (a b : W32) : (if a.slt b then b else a) = BitVec.ofInt 32 (max a.toInt b.toInt) := by
  have hlt : a.slt b = true ↔ a.toInt < b.toInt := BitVec.slt_iff_toInt_lt
  split
  · rename_i h
    rw [max_eq_right (le_of_lt (hlt.1 h)), BitVec.ofInt_toInt]
  · rename_i h
    rw [max_eq_left (not_lt.1 fun k => h (hlt.2 k)), BitVec.ofInt_toInt]

theorem minu_eq_ofNat (a b : W32) : (if b.ult a then b else a) = BitVec.ofNat 32 (min a.toNat b.toNat) := by
  have hlt : b.ult a = true ↔ b.toNat < a.toNat := BitVec.ult_iff_lt
  split
  · rename_i h
    rw [min_eq_right (le_of_lt (hlt.1 h)), BitVec.ofNat_toNat, BitVec.setWidth_eq]
  · rename_i h
    rw [min_eq_left (not_lt.1 fun k => h (hlt.2 k)), BitVec.ofNat_toNat, BitVec.setWidth_eq]

theorem maxu_eq_ofNat (a b : W32) : (if a.ult b then b else a) = BitVec.ofNat 32 (max a.toNat b.toNat) := by
  have hlt : a.ult b = true ↔ a.toNat < b.toNat := BitVec.ult_iff_lt
  split
  · rename_i h
    rw [max_eq_right (le_of_lt (hlt.1 h)), BitVec.ofNat_toNat, BitVec.setWidth_eq]
  · rename_i h
    rw [max_eq_left (not_lt.1 fun k => h (hlt.2 k)), BitVec.ofNat_toNat, BitVec.setWidth_eq]

/-! ### Values of the immediate instructions -/

theorem toNat_imm (i : BitVec 16) : (i.setWidth 32).toNat = i.toNat := by
  rw [BitVec.toNat_setWidth]
  have := i.isLt
  omega

theorem addi_eq_ofInt (a : W32) (i : BitVec 16) : a + i.signExtend 32 = BitVec.ofInt 32 (a.toInt + i.toInt) := by
  apply BitVec.eq_of_toInt_eq
  rw [BitVec.toInt_add, BitVec.toInt_ofInt, BitVec.toInt_signExtend_of_le (by decide)]

theorem shamt_imm (i : BitVec 16) : shamt (i.setWidth 32) = i.toNat % 32 := by
  unfold shamt
  rw [toNat_imm]

theorem lui_eq_ofNat (i : BitVec 16) : i.setWidth 32 <<< 16 = BitVec.ofNat 32 (i.toNat * 2 ^ 16) := by
  rw [shl_eq_ofNat, toNat_imm]

/-! ### What an instruction does to the sequencer -/

/-- An instruction that the sequencer may execute changes its registers and nothing else. -/
theorem powered_seqDo {op : SeqOp} (f : State → Seq → W32 → Seq) {t : Tile} {c : Nat} {s : State} {w : W32}
    (hon : s.power.on = true) (hw : seqReady s c t op = some w) :
    powered s (seqDo op f t c s) = .next (s.modSeq c t fun q => f s q w) := by
  rw [powered_on _ hon]
  unfold seqDo
  rw [hw]
  rfl

/-- Two changes of a slot that give the same slot leave the same state. -/
theorem modSlot_congr {s : State} {c : Nat} {f g : Ctx → Ctx} (h : f (s.slot c) = g (s.slot c)) :
    s.modSlot c f = s.modSlot c g := by
  unfold State.slot at h
  simp only [State.modSlot, KV.upd, h]

/-- Two changes of a sequencer that give the same registers leave the same state. -/
theorem modSeq_congr {s : State} {c : Nat} {t : Tile} {f g : Seq → Seq} (h : f (s.seq c t) = g (s.seq c t)) :
    s.modSeq c t f = s.modSeq c t g := by
  unfold State.seq at h
  refine modSlot_congr ?_
  simp only [KV.upd, h]

/-- Table 7.13, the three-register rows: each command is `seqO` of an operator with the row's values. -/
theorem scalarThree_seqO : ∀ e ∈ scalarThree, ∃ f : W32 → W32 → W32,
    (∀ (t : Tile) (c : Slot) (s : State), exec (e.cmd t c) s = powered s (seqO e.op f t c s)) ∧
      ∀ a b, f a b = e.f a b := by
  unfold scalarThree
  simp only [List.forall_mem_cons]
  exact ⟨⟨_, fun _ _ _ => rfl, add_eq_ofNat⟩, ⟨_, fun _ _ _ => rfl, sub_eq_ofInt⟩, ⟨_, fun _ _ _ => rfl, and_eq_ofNat⟩,
    ⟨_, fun _ _ _ => rfl, or_eq_ofNat⟩, ⟨_, fun _ _ _ => rfl, xor_eq_ofNat⟩,
    ⟨_, fun _ _ _ => rfl, fun a b => shl_eq_ofNat a (shamt b)⟩, ⟨_, fun _ _ _ => rfl, fun a b => shr_eq_ofNat a (shamt b)⟩,
    ⟨_, fun _ _ _ => rfl, fun a b => sra_eq_ofInt a (shamt b)⟩, ⟨_, fun _ _ _ => rfl, mul_eq_ofNat⟩,
    ⟨_, fun _ _ _ => rfl, mulhS_eq_ofInt⟩, ⟨_, fun _ _ _ => rfl, fun _ _ => rfl⟩, ⟨_, fun _ _ _ => rfl, min_eq_ofInt⟩,
    ⟨_, fun _ _ _ => rfl, max_eq_ofInt⟩, ⟨_, fun _ _ _ => rfl, minu_eq_ofNat⟩, ⟨_, fun _ _ _ => rfl, maxu_eq_ofNat⟩,
    fun _ h => by cases h⟩

/-- Table 7.13, the immediate rows: each command is `seqK` of an operator with the row's values. -/
theorem scalarImm_seqK : ∀ e ∈ scalarImm, ∃ (f : W32 → W32 → W32) (signed : Bool),
    (∀ (t : Tile) (c : Slot) (s : State), exec (e.cmd t c) s = powered s (seqK e.op f signed t c s)) ∧
      ∀ a (i : BitVec 16), f a (if signed then i.signExtend 32 else i.setWidth 32) = e.f a i := by
  unfold scalarImm
  simp only [List.forall_mem_cons]
  refine ⟨⟨_, true, fun _ _ _ => rfl, addi_eq_ofInt⟩, ⟨_, false, fun _ _ _ => rfl, fun a i => ?_⟩,
    ⟨_, false, fun _ _ _ => rfl, fun a i => ?_⟩, ⟨_, false, fun _ _ _ => rfl, fun a i => ?_⟩,
    ⟨_, false, fun _ _ _ => rfl, fun a i => ?_⟩, ⟨_, false, fun _ _ _ => rfl, fun a i => ?_⟩,
    ⟨_, false, fun _ _ _ => rfl, fun a i => ?_⟩, ⟨_, false, fun _ _ _ => rfl, fun _ i => lui_eq_ofNat i⟩,
    fun _ h => by cases h⟩
  · exact (and_eq_ofNat a _).trans (by rw [if_neg (by decide), toNat_imm])
  · exact (or_eq_ofNat a _).trans (by rw [if_neg (by decide), toNat_imm])
  · exact (xor_eq_ofNat a _).trans (by rw [if_neg (by decide), toNat_imm])
  · exact (shl_eq_ofNat a _).trans (by rw [if_neg (by decide), shamt_imm])
  · exact (shr_eq_ofNat a _).trans (by rw [if_neg (by decide), shamt_imm])
  · exact (sra_eq_ofInt a _).trans (by rw [if_neg (by decide), shamt_imm])

/-- Settles O5: each row's command is one change of the sequencer's registers, with the row's value. -/
theorem scalarArithmetic : Obligations.ScalarArithmetic := by
  refine ⟨fun e he t c s w hon hw => ?_, fun e he t c s w hon hw => ?_⟩
  · obtain ⟨f, hexec, hval⟩ := scalarThree_seqO e he
    rw [hexec, seqO, powered_seqDo _ hon hw]
    exact congrArg _ (modSeq_congr (by rw [hval]))
  · obtain ⟨f, signed, hexec, hval⟩ := scalarImm_seqK e he
    rw [hexec, seqK, powered_seqDo _ hon hw]
    exact congrArg _ (modSeq_congr (by simp only [hval]))

/-! ### Counts of bits -/

/-- No bit above the highest one that is set. -/
theorem getLsbD_of_log2_lt {a : W32} {i : Nat} (ha : a ≠ 0) (h : a.toNat.log2 < i) : a.getLsbD i = false := by
  have hne : a.toNat ≠ 0 := fun h0 => ha (BitVec.eq_of_toNat_eq h0)
  exact Nat.testBit_lt_two_pow ((Nat.log2_lt hne).1 h)

theorem getLsbD_log2 {a : W32} (ha : a ≠ 0) : a.getLsbD a.toNat.log2 = true := by
  have hne : a.toNat ≠ 0 := fun h0 => ha (BitVec.eq_of_toNat_eq h0)
  exact Nat.testBit_log2 hne

theorem log2_lt_32 {a : W32} (ha : a ≠ 0) : a.toNat.log2 < 32 := by
  have hne : a.toNat ≠ 0 := fun h0 => ha (BitVec.eq_of_toNat_eq h0)
  exact (Nat.log2_lt hne).2 a.isLt

/-- The place that CLZ names: zeros above it, a one there. -/
theorem clz_spec (a : W32) : ∃ n, clz32 a = BitVec.ofNat 32 n ∧ n ≤ 32 ∧ (∀ i, i < n → a.getLsbD (31 - i) = false) ∧
    (n < 32 → a.getLsbD (31 - n) = true) := by
  refine ⟨_, rfl, ?_⟩
  by_cases ha : a = 0
  · rw [if_pos ha, ha]
    exact ⟨le_refl _, fun i _ => BitVec.getLsbD_zero, fun h => absurd h (lt_irrefl _)⟩
  · rw [if_neg ha]
    have hlog := log2_lt_32 ha
    refine ⟨by omega, fun i hi => getLsbD_of_log2_lt ha (by omega), fun _ => ?_⟩
    rw [show 31 - (31 - a.toNat.log2) = a.toNat.log2 by omega]
    exact getLsbD_log2 ha

/-- The place that CTZ names: zeros below it, a one there. -/
theorem ctz_spec (a : W32) : ∃ n, ctz32 a = BitVec.ofNat 32 n ∧ n ≤ 32 ∧ (∀ i, i < n → a.getLsbD i = false) ∧
    (n < 32 → a.getLsbD n = true) := by
  refine ⟨_, rfl, ?_⟩
  cases hfind : (List.range 32).find? (fun i => a.getLsbD i) with
  | none =>
    rw [List.find?_eq_none] at hfind
    refine ⟨le_refl _, fun i hi => ?_, fun h => absurd h (lt_irrefl _)⟩
    simpa using hfind i (List.mem_range.2 hi)
  | some n =>
    rw [List.find?_range_eq_some] at hfind
    obtain ⟨hbit, hmem, hbelow⟩ := hfind
    have hn : n < 32 := by simpa using hmem
    exact ⟨le_of_lt hn, fun i hi => by simpa using hbelow i hi, fun _ => hbit⟩

/-! ### Predicates -/

theorem rdP_next (q : Seq) (p : Nat) : q.next.rdP p = q.rdP p := rfl

/-- A write of a predicate: that predicate alone, and p0 never (R226). -/
theorem rdP_wrP (q : Seq) {i p : Nat} (b : Bool) (hp : p < 4) :
    (q.wrP i b).rdP p = if p = i ∧ p ≠ 0 then b else q.rdP p := by
  unfold Seq.wrP Seq.rdP
  by_cases hi : i = 0
  · rw [if_pos hi, if_neg]
    rintro ⟨rfl, h0⟩
    exact h0 hi
  · rw [if_neg hi]
    by_cases hpi : p = i
    · subst hpi
      cases b <;> simp [hi, hp]
    · rw [if_neg (c := p = i ∧ p ≠ 0) (fun h => hpi h.1)]
      have hbit : (1#4 <<< i).getLsbD p = false := by
        rw [show 1#4 <<< i = BitVec.twoPow 4 i from rfl, BitVec.getLsbD_twoPow]
        simp [Ne.symm hpi]
      cases b
      · rw [if_neg Bool.false_ne_true, BitVec.getLsbD_and, BitVec.getLsbD_not, hbit]
        simp [hp]
      · rw [if_pos rfl, BitVec.getLsbD_or, hbit, Bool.or_false]

/-- R230: the condition of CMP and CMPI is the comparison of its code. -/
theorem seqCond_iff (code : Nat) (a b : W32) : seqCond code a b = true ↔ compares code a b := by
  match code with
  | 0 => exact beq_iff_eq
  | 1 => exact bne_iff_ne
  | 2 => exact BitVec.slt_iff_toInt_lt
  | 3 =>
    have h : (!a.slt b) = true ↔ b.toInt ≤ a.toInt := by
      rw [Bool.not_eq_true', ← Bool.not_eq_true, BitVec.slt_iff_toInt_lt, not_lt]
    exact h
  | 4 => exact BitVec.ult_iff_lt
  | _ + 5 =>
    have h : (!a.ult b) = true ↔ b.toNat ≤ a.toNat := by
      rw [Bool.not_eq_true', ← Bool.not_eq_true, BitVec.ult_iff_lt, BitVec.lt_def, not_lt]
    exact h

theorem wrP_kept (q : Seq) (i : Nat) (b : Bool) :
    (q.wrP i b).next.pc = q.pc + 1 ∧ (q.wrP i b).next.s = q.s ∧ (q.wrP i b).next.a = q.a := by
  unfold Seq.wrP
  split <;> exact ⟨rfl, rfl, rfl⟩

/-- The predicate that a comparison writes. -/
theorem rdP_compare (q : Seq) {i p code : Nat} {a b : W32} (hp : p < 4) :
    (q.wrP i (seqCond code a b)).next.rdP p = true ↔ if p = i ∧ p ≠ 0 then compares code a b else q.rdP p = true := by
  rw [rdP_next, rdP_wrP q _ hp]
  split
  · exact seqCond_iff code a b
  · exact Iff.rfl

/-- CMP and CMPI: with `b` the second operand, the predicate takes the comparison and pc moves on. -/
theorem compare_spec {op : SeqOp} {f : State → Seq → W32 → Seq} {t : Tile} {c : Nat} {s : State} {w : W32} (b : W32)
    (hon : s.power.on = true) (hw : seqReady s c t op = some w)
    (hf : f s (s.seq c t) w = ((s.seq c t).wrP (fld w 25 24) (seqCond (fld w 23 21) ((s.seq c t).rd (fld w 20 16)) b)).next) :
    ∃ u, powered s (seqDo op f t c s) = .next u ∧
      (∀ p, p < 4 → ((u.seq c t).rdP p = true ↔
        (if p = fld w 25 24 ∧ p ≠ 0 then compares (fld w 23 21) ((s.seq c t).rd (fld w 20 16)) b
        else (s.seq c t).rdP p = true))) ∧
      (u.seq c t).pc = (s.seq c t).pc + 1 ∧ (u.seq c t).s = (s.seq c t).s ∧ (u.seq c t).a = (s.seq c t).a := by
  refine ⟨_, powered_seqDo f hon hw, ?_⟩
  rw [seq_modSeq, hf]
  exact ⟨fun p hp => rdP_compare _ hp, wrP_kept _ _ _⟩

/-- SEL reads its predicate, p0 as 1 (R226). -/
theorem rdP_iff (q : Seq) (i : Nat) : q.rdP i = true ↔ i = 0 ∨ q.p.getLsbD i = true := by
  simp [Seq.rdP]

/-- Settles O6. -/
theorem scalarCountsAndPredicates : Obligations.ScalarCountsAndPredicates := by
  refine ⟨fun t c s w hon => ⟨fun hw => ?_, fun hw => ?_, fun hw => ?_⟩,
    fun t c s w hon => ⟨fun hw => ?_, fun hw => ?_, fun hw => ?_⟩⟩
  · exact ⟨_, _, powered_seqDo _ hon hw, modSeq_congr rfl, rfl⟩
  · obtain ⟨n, hn, hspec⟩ := clz_spec ((s.seq c t).rd (fld w 20 16))
    exact ⟨_, n, powered_seqDo _ hon hw, modSeq_congr (by simp only [hn]), hspec⟩
  · obtain ⟨n, hn, hspec⟩ := ctz_spec ((s.seq c t).rd (fld w 20 16))
    exact ⟨_, n, powered_seqDo _ hon hw, modSeq_congr (by simp only [hn]), hspec⟩
  · exact compare_spec _ hon hw rfl
  · exact compare_spec _ hon hw rfl
  · refine (powered_seqDo _ hon hw).trans (congrArg _ (modSeq_congr ?_))
    simp only [rdP_iff]

/-! ### Address registers, special values, branches -/

theorem rdA_add (a : BitVec 18) (n : Nat) : a + BitVec.ofNat 18 n = BitVec.ofNat 18 (a.toNat + n) := by
  rw [BitVec.ofNat_add, BitVec.ofNat_toNat, BitVec.setWidth_eq]

/-- Settles O7. -/
theorem scalarMovesAndBranch : Obligations.ScalarMovesAndBranch := by
  intro t c s w hon
  refine ⟨fun hw => ?_, fun hw => ?_, fun hw => ?_, fun hw => powered_seqDo _ hon hw, fun hw => ?_,
    fun hw => powered_seqDo _ hon hw⟩
  · exact (powered_seqDo _ hon hw).trans (congrArg _ (modSeq_congr (by rw [rdA_add])))
  · exact (powered_seqDo _ hon hw).trans (congrArg _ (modSeq_congr (by rw [BitVec.ofNat_toNat])))
  · exact (powered_seqDo _ hon hw).trans (congrArg _ (modSeq_congr (by rw [BitVec.ofNat_toNat])))
  · refine (powered_seqDo _ hon hw).trans (congrArg _ (modSeq_congr ?_))
    rw [show (fld w 23 23 == 1) = decide (fld w 23 23 = 1) from rfl]

end Sys2Proof.Laws
end

section
/-!
SUPPORT. Control of the sequencer: waits and their ends, END and TRAP (R227, R230, R231), RUN and its completion (R220), and
the queue of the vector unit (R233).
-/

namespace Sys2Proof.Laws

open Machine

/-- While the module is powered, a command answers its effect, by whatever name. -/
theorem powered_eq {s x y : State} (hon : s.power.on = true) (h : x = y) : powered s x = .next (s.effectOf y) := by
  rw [powered_on x hon, h]

/-- A change of a sequencer touches no field that a command leaves. -/
theorem effectOf_modSeq (s : State) (c : Nat) (t : Tile) (f : Seq → Seq) : s.effectOf (s.modSeq c t f) = s.modSeq c t f := rfl

/-- While the module is powered, a command whose effect is a change of a sequencer. -/
theorem powered_modSeq {s x : State} {c : Nat} {t : Tile} {f : Seq → Seq} (hon : s.power.on = true)
    (h : x = s.modSeq c t f) : powered s x = .next (s.modSeq c t f) := by
  rw [powered_on x hon, h, effectOf_modSeq]

theorem modSeq_ite (s : State) (c : Nat) (t : Tile) (p : Prop) [Decidable p] (f g : Seq → Seq) :
    (if p then s.modSeq c t f else s.modSeq c t g) = s.modSeq c t fun q => if p then f q else g q := by
  split <;> rfl

/-! ### Waits -/

theorem vectorIdle_iff {s : State} {c : Nat} {t : Tile} :
    vectorIdle s c t = true ↔ ∀ v ∈ (s.vunit t).queue, v.ctx ≠ c := by
  simp [vectorIdle]

theorem seqWaitu_of_ready {s : State} {c : Nat} {t : Tile} {w : W32} (hw : seqReady s c t .waitu = some w) :
    seqWaitu t c s = s.modSeq c t fun q =>
      if ((s.seq c t).rd (fld w 25 21) + BitVec.ofNat 32 (fld w 20 0)).toInt ≤ rangeCycle s c then q.next
      else { q with wait := .until_ ((s.seq c t).rd (fld w 25 21) + BitVec.ofNat 32 (fld w 20 0)).toNat } := by
  unfold seqWaitu
  rw [hw]
  exact modSeq_ite _ _ _ _ _ _

theorem seqWaituReached_of_come {s : State} {c n : Nat} {t : Tile} (hwait : (s.seq c t).wait = .until_ n)
    (h : n ≤ rangeCycle s c) :
    seqWaituReached t c s = s.modSeq c t fun q => { q with wait := .none, pc := q.pc + 1 } := by
  unfold seqWaituReached
  rw [hwait]
  exact if_pos h

theorem seqWaitv_of_ready {s : State} {c : Nat} {t : Tile} {w : W32} (hw : seqReady s c t .waitv = some w) :
    seqWaitv t c s = s.modSeq c t fun q =>
      if ∀ v ∈ (s.vunit t).queue, v.ctx ≠ c then q.next else { q with wait := .vector } := by
  unfold seqWaitv
  rw [hw]
  simp only [vectorIdle_iff]
  exact modSeq_ite _ _ _ _ _ _

theorem seqWaitvDrained_of_idle {s : State} {c : Nat} {t : Tile} (hwait : (s.seq c t).wait = .vector)
    (h : ∀ v ∈ (s.vunit t).queue, v.ctx ≠ c) :
    seqWaitvDrained t c s = s.modSeq c t fun q => { q with wait := .none, pc := q.pc + 1 } := by
  unfold seqWaitvDrained
  exact if_pos ⟨hwait, vectorIdle_iff.2 h⟩

/-! ### The end of a RUN on a tile -/

theorem seqEnd_of_ready {s : State} {c : Nat} {t : Tile} {w : W32} (hw : seqReady s c t .end_ = some w) :
    seqEnd t c s = settleTile c t (s.modSeq c t fun q => { q with ended := true }) := by
  unfold seqEnd
  rw [hw]

/-- While the vector unit holds an instruction of the context the tile is not finished with its RUN. -/
theorem settleTile_of_busy {s : State} {c : Nat} {t : Tile} (h : ∃ v ∈ (s.vunit t).queue, v.ctx = c) :
    settleTile c t s = s := by
  obtain ⟨v, hv, hc⟩ := h
  have hall : ((s.vunit t).queue.all fun v => v.ctx != c) = false := by
    rw [List.all_eq_false]
    exact ⟨v, hv, by simp [hc]⟩
  unfold settleTile
  dsimp only
  rw [hall, Bool.and_false]
  split <;> rfl

/-- A tile that has ended its RUN, with nothing of the context in its vector unit, is free. -/
theorem settleTile_of_ended {s : State} {c k : Nat} {t : Tile} (hrun : (s.seq c t).run = some k)
    (hended : (s.seq c t).ended = true) (h : ∀ v ∈ (s.vunit t).queue, v.ctx ≠ c) :
    settleTile c t s =
      nextOnTile c t ((setTileSt c k t.idx .done s).modSeq c t fun q => { q with run := none, ended := false }) := by
  have hall : ((s.vunit t).queue.all fun v => v.ctx != c) = true := by
    rw [List.all_eq_true]
    exact fun v hv => by simpa using h v hv
  unfold settleTile
  dsimp only
  rw [hrun, hended, hall]
  rfl

/-- With no RUN that waits for the tile nothing starts on it. -/
theorem nextOnTile_of_none {s : State} {c : Nat} {t : Tile}
    (h : ∀ q ∈ (s.slot c).tileCmds, KV.get .waiting q.tiles t.idx ≠ .waiting) : nextOnTile c t s = s := by
  have hfind : (s.slot c).tileCmds.find?
      (fun q => (addressed q).elem t.idx && KV.get .waiting q.tiles t.idx == .waiting) = none := by
    rw [List.find?_eq_none]
    intro q hq
    simp [h q hq]
  unfold nextOnTile
  rw [hfind]
  split <;> rfl

/-- The tile's place in the commands of a RUN. -/
def TileCmd.setTile (k i : Nat) (v : TileSt) (q : TileCmd) : TileCmd :=
  if q.k = k then { q with tiles := KV.insert q.tiles i v } else q

theorem tileCmds_setTileSt (s : State) (c k i : Nat) (v : TileSt) :
    ((setTileSt c k i v s).slot c).tileCmds = (s.slot c).tileCmds.map (TileCmd.setTile k i v) := by
  unfold setTileSt
  rw [slot_modSlot]
  rfl

theorem tileCmds_modSeq (s : State) (c : Nat) (t : Tile) (f : Seq → Seq) :
    ((s.modSeq c t f).slot c).tileCmds = (s.slot c).tileCmds := by
  unfold State.modSeq
  rw [slot_modSlot]

theorem seq_setTileSt (s : State) (c k i : Nat) (v : TileSt) (t : Tile) : (setTileSt c k i v s).seq c t = s.seq c t := by
  unfold State.seq setTileSt
  rw [slot_modSlot]

/-- The state of a tile that has ended the one RUN of its context. -/
def endedOn (c k : Nat) (t : Tile) (s : State) : State :=
  (setTileSt c k t.idx .done (s.modSeq c t fun q => { q with ended := true })).modSeq c t
    fun q => { q with run := none, ended := false }

theorem seq_endedOn (s : State) (c k : Nat) (t : Tile) :
    (endedOn c k t s).seq c t = { s.seq c t with run := none, ended := false } := by
  unfold endedOn
  rw [seq_modSeq, seq_setTileSt, seq_modSeq]

theorem tileCmds_endedOn (s : State) (c k : Nat) (t : Tile) :
    ((endedOn c k t s).slot c).tileCmds = (s.slot c).tileCmds.map (TileCmd.setTile k t.idx .done) := by
  unfold endedOn
  rw [tileCmds_modSeq, tileCmds_setTileSt, tileCmds_modSeq]

theorem memory_endedOn (s : State) (c k : Nat) (t : Tile) :
    (s.effectOf (endedOn c k t s)).tubMem = s.tubMem ∧ (s.effectOf (endedOn c k t s)).stackMem = s.stackMem ∧
      (s.effectOf (endedOn c k t s)).hostMem = s.hostMem := by
  simp [endedOn, State.modSeq, setTileSt]

/-- Every RUN of the context is done on a tile that has ended the one there is. -/
theorem tiles_endedOn {s : State} {c k : Nat} {t : Tile} (hk : ∀ q ∈ (s.slot c).tileCmds, q.k = k) :
    ∀ q ∈ ((endedOn c k t s).slot c).tileCmds, KV.get .waiting q.tiles t.idx = .done := by
  intro q hq
  rw [tileCmds_endedOn] at hq
  obtain ⟨q, hmem, rfl⟩ := List.mem_map.1 hq
  unfold TileCmd.setTile
  rw [if_pos (hk q hmem)]
  exact KV.get_insert_self _ _ _ _

theorem vunit_modSeq (s : State) (c : Nat) (t u : Tile) (f : Seq → Seq) : (s.modSeq c t f).vunit u = s.vunit u := rfl

/-- R227: END of the only RUN on a tile, its vector unit idle. -/
theorem seqEnd_of_idle {s : State} {c k : Nat} {t : Tile} {w : W32} (hw : seqReady s c t .end_ = some w)
    (hrun : (s.seq c t).run = some k) (h : ∀ v ∈ (s.vunit t).queue, v.ctx ≠ c) (hk : ∀ q ∈ (s.slot c).tileCmds, q.k = k) :
    seqEnd t c s = endedOn c k t s := by
  have hended : settleTile c t (s.modSeq c t fun q => { q with ended := true }) = nextOnTile c t (endedOn c k t s) :=
    settleTile_of_ended (by rw [seq_modSeq]; exact hrun) (by rw [seq_modSeq]) h
  rw [seqEnd_of_ready hw, hended]
  refine nextOnTile_of_none fun q hq => ?_
  rw [tiles_endedOn hk q hq]
  exact TileSt.noConfusion

/-- Settles O9. -/
theorem waitsEndAndTrap : Obligations.WaitsEndAndTrap := by
  refine ⟨fun t c s w hon => ⟨fun hw => ?_, fun n hwait hn => ?_, fun hw => ?_, fun hwait hidle => ?_⟩,
    fun t c s w k hon hrun => ⟨fun hw hbusy => ?_, fun hw hidle hk => ?_, fun hw => ?_⟩⟩
  · exact powered_modSeq hon (seqWaitu_of_ready hw)
  · exact powered_modSeq hon (seqWaituReached_of_come hwait hn)
  · exact powered_modSeq hon (seqWaitv_of_ready hw)
  · exact powered_modSeq hon (seqWaitvDrained_of_idle hwait hidle)
  · exact powered_modSeq hon ((seqEnd_of_ready hw).trans (settleTile_of_busy hbusy))
  · refine ⟨s.effectOf (endedOn c k t s), powered_eq hon (seqEnd_of_idle hw hrun hidle hk), ?_⟩
    rw [effectOf_seq, effectOf_slot, seq_endedOn]
    exact ⟨rfl, rfl, tiles_endedOn hk, rfl, memory_endedOn s c k t⟩
  · refine powered_eq hon ?_
    unfold seqTrap
    rw [hw]

/-! ### RUN -/

theorem idx_tileOf {i : Nat} (h : i < 512) : (tileOf (i / 32) (i % 32)).idx = i := by
  unfold tileOf Tile.idx
  simp only [Fin.val_ofNat]
  omega

/-- The command that the class-1 list holds next has started on no tile. -/
theorem tileNext_tiles {s : State} {c kind : Nat} {q : Cmd} {tc : TileCmd} (h : tileNext s c kind = some (q, tc)) :
    tc.tiles = [] := by
  unfold tileNext at h
  dsimp only at h
  split at h
  · split at h
    · cases h; rfl
    · cases h
  · cases h

theorem nextOnTile_of_only {s : State} {c : Nat} {t : Tile} {q : TileCmd} (hrun : (s.seq c t).run = none)
    (hcmds : (s.slot c).tileCmds = [q]) (haddr : addressed q = [t.idx]) (htiles : q.tiles = []) :
    nextOnTile c t s = startTile c q.k q.entry q.started t.idx s := by
  have hwait : KV.get TileSt.waiting q.tiles t.idx = .waiting := by rw [htiles]; rfl
  unfold nextOnTile
  rw [hrun, hcmds]
  simp [haddr, hwait]

/-- A fold over Lines leaves the slots and the memories. -/
def slotsAndMemory (s : State) : KV Ctx × KV Byte × KV Byte × KV Byte := (s.slots, s.tubMem, s.stackMem, s.hostMem)

/-- The tile's sequencer at the start of a RUN. -/
def startSeq (k entry : Nat) (q : Seq) : Seq :=
  { q with pc := BitVec.ofNat 13 entry, run := some k, wait := .none, ended := false }

/-- The start of a RUN on a tile, but for what it does to the command: Lines and the vector unit lie outside the slots and the
memories. -/
theorem startTile_modSlot (s : State) (c k entry nominal i : Nat) : ∃ (t : State) (f : List TileCmd → List TileCmd),
    startTile c k entry nominal i s = t.modSlot c (fun x => { x with tileCmds := f x.tileCmds }) ∧
      slotsAndMemory t = slotsAndMemory (s.modSeq c (tileOf (i / 32) (i % 32)) (startSeq k entry)) := by
  unfold startTile
  extract_lets t s1 s2 p s3
  refine ⟨s3, _, rfl, ?_⟩
  refine (forEach_view slotsAndMemory (fun l s => ?_) _ s2).trans rfl
  split
  · split <;> rfl
  · rfl

/-- A view of a slot that its tile commands are no part of. -/
theorem slot_startTile (s : State) (c k entry nominal i : Nat) : ∃ qs,
    (startTile c k entry nominal i s).slot c =
      { (s.modSeq c (tileOf (i / 32) (i % 32)) (startSeq k entry)).slot c with tileCmds := qs } := by
  obtain ⟨t, f, hstart, hview⟩ := startTile_modSlot s c k entry nominal i
  have hslot : t.slot c = (s.modSeq c (tileOf (i / 32) (i % 32)) (startSeq k entry)).slot c := by
    unfold State.slot
    rw [(Prod.mk.inj hview).1]
  exact ⟨_, by rw [hstart, slot_modSlot, hslot]⟩

theorem memory_startTile (s : State) (c k entry nominal i : Nat) : ∀ t, t = startTile c k entry nominal i s →
    t.tubMem = s.tubMem ∧ t.stackMem = s.stackMem ∧ t.hostMem = s.hostMem := by
  rintro _ rfl
  obtain ⟨t, f, hstart, hview⟩ := startTile_modSlot s c k entry nominal i
  simp only [slotsAndMemory, Prod.mk.injEq] at hview
  rw [hstart]
  exact hview.2

/-- RUN: the command joins those of the context and starts where its tiles are free. -/
def takeRun (c : Nat) (q : TileCmd) (s : State) : State :=
  s.modSlot c fun x => { x.advance 1 0 with tileCmds := x.tileCmds ++ [q] }

theorem seq_takeRun (s : State) (c : Nat) (q : TileCmd) (t : Tile) : (takeRun c q s).seq c t = s.seq c t := by
  unfold takeRun State.seq
  rw [slot_modSlot]
  rfl

/-- R220: RUN of one free tile, the first of the context, is the start on that tile. -/
theorem runCmd_of_only {s : State} {c i : Nat} {q : Cmd} {tc : TileCmd} (hnext : tileNext s c 0 = some (q, tc))
    (haddr : addressed tc = [i]) (hcmds : (s.slot c).tileCmds = []) (hrun : (s.seq c (tileOf (i / 32) (i % 32))).run = none)
    (hi : i < 512) : runCmd c s = startTile c tc.k tc.entry tc.started i (takeRun c tc s) := by
  have hidx := idx_tileOf hi
  have htake : ((takeRun c tc s).slot c).tileCmds = [tc] := by
    unfold takeRun
    rw [slot_modSlot, hcmds]
    rfl
  have hstart := nextOnTile_of_only (t := tileOf (i / 32) (i % 32)) (by rw [seq_takeRun]; exact hrun) htake
    (by rw [haddr, hidx]) (tileNext_tiles hnext)
  unfold runCmd
  rw [hnext]
  dsimp only
  rw [haddr, forEach_cons, forEach_nil, ← hidx, hidx]
  rw [hidx] at hstart
  exact hstart

/-! ### The vector queue -/

theorem vectorSend_of_room {s : State} {c : Nat} {t : Tile} {w0 w1 : W32} (hw0 : seqReady s c t .vector = some w0)
    (hw1 : seqWordAt s c t 1 = some w1) (hroom : (s.vunit t).queue.length < 16) : ∃ f : Seq → Seq,
    vectorSend t c s = (s.modVunit t fun u =>
      { u with
        queue := u.queue ++ [⟨w0, w1, (s.seq c t).rd (fld w0 4 0), c, (s.seq c t).pc.toNat, (s.vunit t).sent⟩]
        sent := u.sent + 1 }).modSeq c t f ∧ ∀ q, (f q).pc = q.pc + 2 ∧ (f q).s = q.s := by
  unfold vectorSend
  rw [hw0, hw1]
  dsimp only
  rw [if_pos hroom]
  exact ⟨_, rfl, fun q => ⟨rfl, rfl⟩⟩

/-- Settles O11. -/
theorem runsAndVectorSends : Obligations.RunsAndVectorSends := by
  refine ⟨fun c s q tc i hon hnext haddr hcmds hrun hi => ?_, fun c s q hon hdone => ?_,
    fun t c s w0 w1 hon hw0 hw1 hroom => ?_⟩
  · have heq := runCmd_of_only hnext haddr hcmds hrun hi
    obtain ⟨qs, hslot⟩ := slot_startTile (takeRun c tc s) c tc.k tc.entry tc.started i
    obtain ⟨htub, hstack, hhost⟩ := memory_startTile (takeRun c tc s) c tc.k tc.entry tc.started i _ rfl
    refine ⟨_, powered_eq hon heq, ?_, ?_, htub, hstack, hhost⟩
    · rw [effectOf_seq, State.seq, hslot]
      exact (seq_modSeq (takeRun c tc s) c _ _).trans (by rw [seq_takeRun]; rfl)
    · rw [effectOf_slot, hslot, State.modSeq, slot_modSlot, takeRun, slot_modSlot]
      rfl
  · refine powered_eq hon ?_
    unfold runComplete
    rw [hdone]
  · obtain ⟨f, hsend, hf⟩ := vectorSend_of_room hw0 hw1 hroom
    refine ⟨_, powered_eq hon hsend, ?_⟩
    rw [effectOf_seq, effectOf_vunit, seq_modSeq]
    obtain ⟨hpc, hs⟩ := hf (s.seq c t)
    refine ⟨hpc, hs, ?_⟩
    rw [vunit_modSeq, vunit_modVunit]
    exact ⟨rfl, rfl, rfl⟩

end Sys2Proof.Laws
end

section
/-!
SUPPORT. The vector unit (Table 7.16): what the end of an instruction leaves, and the register that each operation on the unit's
registers writes (R232 to R236).
-/

namespace Sys2Proof.Laws

open Machine

/-! ### The end of an instruction -/

/-- The three memories. -/
def memoryOf (s : State) : KV Byte × KV Byte × KV Byte := (s.tubMem, s.stackMem, s.hostMem)

theorem memoryOf_startTile (s : State) (c k entry nominal i : Nat) :
    memoryOf (startTile c k entry nominal i s) = memoryOf s := by
  obtain ⟨htub, hstack, hhost⟩ := memory_startTile s c k entry nominal i _ rfl
  unfold memoryOf
  rw [htub, hstack, hhost]

theorem memoryOf_nextOnTile (c : Nat) (t : Tile) (s : State) : memoryOf (nextOnTile c t s) = memoryOf s := by
  unfold nextOnTile
  split
  · rfl
  · split
    · exact memoryOf_startTile _ _ _ _ _ _
    · rfl

theorem memoryOf_setTileSt (s : State) (c k i : Nat) (v : TileSt) : memoryOf (setTileSt c k i v s) = memoryOf s := rfl

theorem memoryOf_modSeq (s : State) (c : Nat) (t : Tile) (f : Seq → Seq) : memoryOf (s.modSeq c t f) = memoryOf s := rfl

theorem memoryOf_modVunit (s : State) (t : Tile) (f : VUnit → VUnit) : memoryOf (s.modVunit t f) = memoryOf s := rfl

theorem memoryOf_settleTile (c : Nat) (t : Tile) (s : State) : memoryOf (settleTile c t s) = memoryOf s := by
  unfold settleTile
  extract_lets q
  split
  · split
    · exact (memoryOf_nextOnTile _ _ _).trans ((memoryOf_modSeq _ _ _ _).trans (memoryOf_setTileSt _ _ _ _ _))
    · rfl
  · rfl

theorem memoryOf_vecPop (c : Nat) (t : Tile) (s : State) : memoryOf (vecPop c t s) = memoryOf s :=
  (memoryOf_settleTile c t _).trans (memoryOf_modVunit s t _)

theorem queue_setReg (u : VUnit) (i : Nat) (r : Row) : (u.setReg i r).queue = u.queue := rfl

/-- An instruction is done that left its queue, the memories and the registers it does not write. -/
theorem vectorDone_of_pop {s s' : State} {t : Tile} {c : Nat} {written : List Nat}
    (hqueue : (s'.vunit t).queue = (s.vunit t).queue) (hmem : memoryOf s' = memoryOf s)
    (hreg : ∀ i, i ∉ written → (s'.vunit t).reg i = (s.vunit t).reg i) :
    VectorDone s (s.effectOf (vecPop c t s')) t written := by
  have hm := (memoryOf_vecPop c t s').trans hmem
  simp only [memoryOf, Prod.mk.injEq] at hm
  obtain ⟨htub, hstack, hhost⟩ := hm
  refine ⟨?_, htub, hstack, hhost, fun i hi => ?_⟩
  · rw [effectOf_vunit, vecPop_queue, hqueue]
  · rw [effectOf_vunit, vecPop_reg, hreg i hi]

/-! ### Operations on the unit's registers -/

theorem vecDo_of_head {op : VOp} (f : State → VUnit → VInstr → VFields → VUnit) {t : Tile} {c : Nat} {s : State} {v : VInstr}
    {g : VFields} (h : vecHead s c t op = some (v, g)) :
    vecDo op f t c s = vecPop c t (s.modVunit t fun u => f s u v g) := by
  unfold vecDo
  rw [h]

/-- An operation that writes one register. -/
theorem vecDo_setReg {op : VOp} {f : State → VUnit → VInstr → VFields → VUnit} {t : Tile} {c : Nat} {s : State} {v : VInstr}
    {g : VFields} {r : Row} (hon : s.power.on = true) (h : vecHead s c t op = some (v, g))
    (hf : f s (s.vunit t) v g = (s.vunit t).setReg g.vd r) :
    ∃ u, powered s (vecDo op f t c s) = .next u ∧ VectorDone s u t [g.vd] ∧ (u.vunit t).reg g.vd = r := by
  refine ⟨_, powered_eq hon (vecDo_of_head f h), vectorDone_of_pop ?_ (memoryOf_modVunit _ _ _) fun i hi => ?_, ?_⟩
  · rw [vunit_modVunit, hf]; rfl
  · rw [vunit_modVunit, hf]
    exact reg_setReg_other _ _ (by simpa using hi)
  · rw [effectOf_vunit, vecPop_reg, vunit_modVunit, hf, reg_setReg]

/-- An operation that writes one register lane by lane. -/
theorem vecDo_mapLanes {op : VOp} {f : State → VUnit → VInstr → VFields → VUnit} {t : Tile} {c : Nat} {s : State} {v : VInstr}
    {g : VFields} (w : Nat → W32) (hon : s.power.on = true) (h : vecHead s c t op = some (v, g))
    (hf : f s (s.vunit t) v g = (s.vunit t).setReg g.vd (mapLanes w)) :
    ∃ u, powered s (vecDo op f t c s) = .next u ∧ VectorDone s u t [g.vd] ∧
      ∀ l, l < 128 → lane ((u.vunit t).reg g.vd) l = w l := by
  obtain ⟨u, hu, hdone, hreg⟩ := vecDo_setReg hon h hf
  refine ⟨u, hu, hdone, fun l hl => ?_⟩
  rw [hreg, lane_mapLanes w hl]

/-- Settles O12: each command of the two tables, and VPOPC, maps the lanes of the unit's registers. -/
theorem vectorLanes : Obligations.VectorLanes := by
  refine ⟨?_, ?_, fun t c s v g hon h => vecDo_mapLanes _ hon h rfl⟩
  · unfold vectorRounded
    simp only [List.forall_mem_cons]
    exact ⟨fun t c s v g hon h => vecDo_mapLanes _ hon h rfl, fun t c s v g hon h => vecDo_mapLanes _ hon h rfl,
      fun t c s v g hon h => vecDo_mapLanes _ hon h rfl, fun t c s v g hon h => vecDo_mapLanes _ hon h rfl,
      fun _ h => by cases h⟩
  · unfold Sys2Proof.vectorLanes
    simp only [List.forall_mem_cons]
    exact ⟨fun t c s v g hon h => vecDo_mapLanes _ hon h rfl, fun t c s v g hon h => vecDo_mapLanes _ hon h rfl,
      fun t c s v g hon h => vecDo_mapLanes _ hon h rfl, fun t c s v g hon h => vecDo_mapLanes _ hon h rfl,
      fun t c s v g hon h => vecDo_mapLanes _ hon h rfl, fun t c s v g hon h => vecDo_mapLanes _ hon h rfl,
      fun _ h => by cases h⟩

/-! ### Folded rows -/

/-- A bit of the OR of a list of rows. -/
theorem getLsbD_foldl_or {α : Type} (f : α → Row) (i : Nat) (xs : List α) (r : Row) :
    (xs.foldl (fun r x => r ||| f x) r).getLsbD i = true ↔ r.getLsbD i = true ∨ ∃ x ∈ xs, (f x).getLsbD i = true := by
  induction xs generalizing r with
  | nil => simp
  | cons x xs ih => simp [ih, or_assoc]

/-- A bit of group `k` of 2^sub bits of a row. -/
theorem getLsbD_group (a : Row) (w k : Nat) {i : Nat} (hi : i < 4096) :
    (BitVec.ofNat 4096 (a.toNat / 2 ^ (k * w) % 2 ^ w)).getLsbD i = true ↔ i < w ∧ a.getLsbD (k * w + i) = true := by
  rw [BitVec.getLsbD_ofNat, Nat.testBit_mod_two_pow, Nat.testBit_div_two_pow, BitVec.getLsbD, Nat.add_comm i]
  simp [hi]

/-- The groups of 2^sub bits of a row, ORed. -/
def foldRow (sub : Nat) (a : Row) : Row :=
  (List.range (4096 / 2 ^ sub)).foldl
    (fun r k => r ||| BitVec.ofNat 4096 (a.toNat / 2 ^ (k * 2 ^ sub) % 2 ^ 2 ^ sub)) 0

/-- R235: VFOLD ORs the groups; with 2^sub a divisor of 4,096 every bit lies in one. -/
theorem getLsbD_foldRow {sub : Nat} (hsub : sub ≤ 12) (a : Row) {i : Nat} (hi : i < 4096) :
    (foldRow sub a).getLsbD i = true ↔
      i < 2 ^ sub ∧ ∃ k, k * 2 ^ sub + i < 4096 ∧ a.getLsbD (k * 2 ^ sub + i) = true := by
  unfold foldRow
  rw [getLsbD_foldl_or (fun k => BitVec.ofNat 4096 (a.toNat / 2 ^ (k * 2 ^ sub) % 2 ^ 2 ^ sub))]
  simp only [getLsbD_group a _ _ hi, List.mem_range]
  constructor
  · rintro (h | ⟨k, hk, hlt, hbit⟩)
    · simp at h
    · exact ⟨hlt, k, BitVec.lt_of_getLsbD hbit, hbit⟩
  · rintro ⟨hlt, k, hk, hbit⟩
    have hdvd : 4096 / 2 ^ sub * 2 ^ sub = 4096 := Nat.div_mul_cancel (Nat.pow_dvd_pow 2 hsub)
    have hlow : k * 2 ^ sub < 4096 / 2 ^ sub * 2 ^ sub := by omega
    exact .inr ⟨k, Nat.lt_of_mul_lt_mul_right hlow, hlt, hbit⟩

/-! ### Rows -/

theorem vectorRows_value : ∀ e ∈ vectorRows, ∀ (t : Tile) (c : Slot) (s : State), ∃ f : VFields → Row → Row → Row,
    exec (e.cmd t c) s = powered s (vecRow e.op f t c s) ∧ ∀ g a b, f g a b = e.f g a b := by
  unfold Sys2Proof.vectorRows
  simp only [List.forall_mem_cons]
  refine ⟨fun t c s => ⟨_, rfl, fun _ a b => ?_⟩, fun t c s => ⟨_, rfl, fun _ a b => ?_⟩, fun t c s => ⟨_, rfl, fun _ a b => ?_⟩,
    fun t c s => ⟨_, rfl, fun _ _ _ => rfl⟩, fun t c s => ⟨_, rfl, fun _ _ _ => rfl⟩, fun _ h => by cases h⟩
  · rw [← BitVec.toNat_and, BitVec.ofNat_toNat, BitVec.setWidth_eq]
  · rw [← BitVec.toNat_or, BitVec.ofNat_toNat, BitVec.setWidth_eq]
  · rw [← BitVec.toNat_xor, BitVec.ofNat_toNat, BitVec.setWidth_eq]

theorem vecRow_spec {op : VOp} {f : VFields → Row → Row → Row} {t : Tile} {c : Nat} {s : State} {v : VInstr} {g : VFields}
    {r : Row} (hon : s.power.on = true) (h : vecHead s c t op = some (v, g))
    (hr : f g ((s.vunit t).reg g.va) ((s.vunit t).reg g.vb) = r) :
    ∃ u, powered s (vecRow op f t c s) = .next u ∧ VectorDone s u t [g.vd] ∧ (u.vunit t).reg g.vd = r :=
  vecDo_setReg hon h (by rw [hr])

/-! ### Conversions -/

/-- VCVT, with the non-finite values it meets signalled (R130). -/
theorem vecCvt_of_head {t : Tile} {c : Nat} {s : State} {v : VInstr} {g : VFields} {f : Fmt}
    (h : vecHead s c t .vcvt = some (v, g)) (hf : Fmt.ofCode g.fmt = some f) : ∃ n,
    vecCvt t c s = vecPop c t ((signalNonFinite c n s).modVunit t fun u => u.setReg g.vd (ofLanes (lanes.map fun l =>
      f32rne (cvtLane f g.sub ((s.vunit t).reg g.va) ((s.vunit t).reg g.vb) g.vc l)))) := by
  unfold vecCvt
  rw [h]
  dsimp only
  rw [hf]
  dsimp only
  rw [List.map_map]
  exact ⟨_, rfl⟩

/-- A list read back in order. -/
theorem map_getD_map {α β : Type} (n : Nat) (d : α) (f : Nat → α) (h : Nat → α → β) :
    ((List.range n).map fun e => h e (((List.range n).map f).getD e d)) = (List.range n).map fun e => h e (f e) := by
  refine List.map_congr_left fun e he => ?_
  have hlt : e < n := List.mem_range.1 he
  simp [List.getD_eq_getElem?_getD, hlt]

/-- VPACK to a format other than FP4, with the non-finite values it meets signalled (R130). -/
theorem vecPack_of_head {t : Tile} {c : Nat} {s : State} {v : VInstr} {g : VFields} {f : Fmt}
    (h : vecHead s c t .vpack = some (v, g)) (hf : Fmt.ofCode g.fmt = some f) (hne : f ≠ .fp4) : ∃ n,
    vecPack t c s = vecPop c t ((signalNonFinite c n s).modVunit t fun u => u.setReg g.vd
      (ofElems f ((List.range f.perRow).map fun e => encodeElem f (vecMode s c g.vc g.layer v e)
        (f32val (lane ((s.vunit t).reg (g.va + e / 128)) (e % 128)))))) := by
  unfold vecPack
  rw [h]
  dsimp only
  rw [hf]
  dsimp only
  rw [if_neg hne, map_getD_map _ _ _ fun e x => encodeElem f (vecMode s c g.vc g.layer v e) x]
  exact ⟨_, rfl⟩

/-- VPACK to FP4 writes the elements and the scale bytes (R118). -/
theorem vecPack_fp4 {t : Tile} {c : Nat} {s : State} {v : VInstr} {g : VFields}
    (h : vecHead s c t .vpack = some (v, g)) (hf : Fmt.ofCode g.fmt = some .fp4) : ∃ n els scs,
    vecPack t c s = vecPop c t ((signalNonFinite c n s).modVunit t fun u =>
      (u.setReg g.vd (ofElems .fp4 els)).setReg g.vb (putBytes (u.reg g.vb) (32 * g.sub) scs)) ∧
    packFp4 (vecMode s c g.vc g.layer v) ((List.range 1024).map fun e =>
      f32val (lane ((s.vunit t).reg (g.va + e / 128)) (e % 128))) = (els, scs) := by
  unfold vecPack
  rw [h]
  dsimp only
  rw [hf]
  dsimp only
  rw [if_pos rfl, show Fmt.perRow .fp4 = 1024 from rfl]
  generalize packFp4 (vecMode s c g.vc g.layer v) ((List.range 1024).map fun e =>
    f32val (lane ((s.vunit t).reg (g.va + e / 128)) (e % 128))) = packed
  obtain ⟨els, scs⟩ := packed
  exact ⟨_, els, scs, rfl, rfl⟩

theorem vunit_signalNonFinite (c n : Nat) (s : State) (t : Tile) : (signalNonFinite c n s).vunit t = s.vunit t := rfl
theorem memoryOf_signalNonFinite (c n : Nat) (s : State) : memoryOf (signalNonFinite c n s) = memoryOf s := rfl

/-- The end of an instruction that signalled non-finite values and changed the unit. -/
theorem vectorDone_of_signal {s : State} {t : Tile} {c n : Nat} {f : VUnit → VUnit} {written : List Nat}
    (hqueue : (f (s.vunit t)).queue = (s.vunit t).queue)
    (hreg : ∀ i, i ∉ written → (f (s.vunit t)).reg i = (s.vunit t).reg i) :
    VectorDone s (s.effectOf (vecPop c t ((signalNonFinite c n s).modVunit t f))) t written := by
  refine vectorDone_of_pop ?_ (memoryOf_modVunit _ _ _) fun i hi => ?_
  · rw [vunit_modVunit, vunit_signalNonFinite, hqueue]
  · rw [vunit_modVunit, vunit_signalNonFinite, hreg i hi]

theorem reg_of_signal (s : State) (t : Tile) (c n i : Nat) (f : VUnit → VUnit) :
    ((s.effectOf (vecPop c t ((signalNonFinite c n s).modVunit t f))).vunit t).reg i = (f (s.vunit t)).reg i := by
  rw [effectOf_vunit, vecPop_reg, vunit_modVunit, vunit_signalNonFinite]

/-! ### Moves to a scalar register -/

theorem s_modSeq_startSeq (s : State) (c k entry : Nat) (t u : Tile) :
    ((s.modSeq c t (startSeq k entry)).seq c u).s = (s.seq c u).s := by
  by_cases h : u.idx = t.idx
  · have hu : ∀ v : State, v.seq c u = v.seq c t := fun v => by unfold State.seq; rw [h]
    rw [hu, hu, seq_modSeq]
    rfl
  · rw [seq_modSeq_other _ _ (.inr h)]

theorem s_startTile (s : State) (c k entry nominal i : Nat) (u : Tile) :
    ((startTile c k entry nominal i s).seq c u).s = (s.seq c u).s := by
  obtain ⟨qs, hslot⟩ := slot_startTile s c k entry nominal i
  refine Eq.trans ?_ (s_modSeq_startSeq s c k entry (tileOf (i / 32) (i % 32)) u)
  unfold State.seq
  rw [hslot]

theorem s_nextOnTile (c : Nat) (t u : Tile) (s : State) : ((nextOnTile c t s).seq c u).s = (s.seq c u).s := by
  unfold nextOnTile
  split
  · rfl
  · split
    · exact s_startTile _ _ _ _ _ _ _
    · rfl

/-- The end of a RUN on a tile leaves the scalar registers (R227). -/
theorem s_settleTile (c : Nat) (t : Tile) (s : State) : ((settleTile c t s).seq c t).s = (s.seq c t).s := by
  unfold settleTile
  extract_lets q
  split
  · split
    · rw [s_nextOnTile, seq_modSeq, seq_setTileSt]
    · rfl
  · rfl

theorem s_vecPop (c : Nat) (t : Tile) (s : State) : ((vecPop c t s).seq c t).s = (s.seq c t).s :=
  s_settleTile c t (s.modVunit t fun u => { u with queue := u.queue.tail })

theorem rd_congr {q p : Seq} (h : q.s = p.s) (i : Nat) : q.rd i = p.rd i := by
  unfold Seq.rd
  rw [h]

theorem vecMovs_of_head {t : Tile} {c : Nat} {s : State} {v : VInstr} {g : VFields}
    (h : vecHead s c t .vmovs = some (v, g)) : vecMovs t c s = vecPop c t (s.modSeq c t fun q =>
      { q.wr (fld v.w0 4 0) (if g.sub = 0 then lane ((s.vunit t).reg g.va) 0 else (s.vunit t).matchCount.setWidth 32) with
        pend := q.pend.erase (fld v.w0 4 0) }) := by
  unfold vecMovs
  rw [h]

/-! ### Matches -/

/-- VMATCH on the registers of a unit. -/
def matchInto (f : Fmt) (g : VFields) (u : VUnit) : VUnit :=
  { (u.setReg g.vd (matchRows f (u.reg g.va) (u.reg g.vb)).1).setReg (g.vd + 1)
      (matchRows f (u.reg g.va) (u.reg g.vb)).2.1 with
    matchCount := BitVec.ofNat 16 (matchRows f (u.reg g.va) (u.reg g.vb)).2.2 }

theorem reg_matchInto (f : Fmt) (g : VFields) (u : VUnit) (i : Nat) : (matchInto f g u).reg i =
    if i = g.vd + 1 then (matchRows f (u.reg g.va) (u.reg g.vb)).2.1
    else if i = g.vd then (matchRows f (u.reg g.va) (u.reg g.vb)).1 else u.reg i := by
  unfold matchInto VUnit.setReg VUnit.reg
  simp only [KV.get_set]

theorem exec_vmatch {t : Tile} {c : Slot} {s : State} {v : VInstr} {g : VFields} {f : Fmt} (hon : s.power.on = true)
    (h : vecHead s c t .vmatch = some (v, g)) (hf : Fmt.ofCode g.fmt = some f) :
    exec (.vmatch t c) s = .next (s.effectOf (vecPop c t (s.modVunit t (matchInto f g)))) := by
  refine powered_eq hon ((vecDo_of_head _ h).trans ?_)
  dsimp only
  rw [hf]
  rfl

/-- Settles O13. -/
theorem vectorRowsAndConversions : Obligations.VectorRowsAndConversions := by
  refine ⟨⟨fun e he t c s v g hon h => ?_, fun t c s v g f hon h hf => ?_, fun t c s v g hon hsub h => ?_⟩,
    fun t c s v g f hon => ⟨fun h hf => ?_, fun h hf hne => ?_, fun h hf hvb => ?_, fun h hf => ?_, fun h => ?_⟩⟩
  · obtain ⟨f, hexec, hval⟩ := vectorRows_value e he t c s
    rw [hexec]
    exact vecRow_spec hon h (hval _ _ _)
  · exact vecRow_spec hon h (by rw [hf])
  · have hfold : ∃ u, exec (.vfold t c) s = .next u ∧ VectorDone s u t [g.vd] ∧
        (u.vunit t).reg g.vd = foldRow g.sub ((s.vunit t).reg g.va) := vecRow_spec hon h rfl
    obtain ⟨u, hu, hdone, hreg⟩ := hfold
    refine ⟨u, hu, hdone, fun i hi => ?_⟩
    rw [hreg]
    exact getLsbD_foldRow hsub _ hi
  · obtain ⟨n, heq⟩ := vecCvt_of_head h hf
    refine ⟨_, powered_eq hon heq, vectorDone_of_signal ?_ fun i hi => ?_, ?_⟩
    · exact queue_setReg _ _ _
    · exact reg_setReg_other _ _ (by simpa using hi)
    · rw [reg_of_signal, reg_setReg]
  · obtain ⟨n, heq⟩ := vecPack_of_head h hf hne
    refine ⟨_, powered_eq hon heq, vectorDone_of_signal ?_ fun i hi => ?_, ?_⟩
    · exact queue_setReg _ _ _
    · exact reg_setReg_other _ _ (by simpa using hi)
    · rw [reg_of_signal, reg_setReg]
  · obtain ⟨n, els, scs, heq, hpack⟩ := vecPack_fp4 h hf
    refine ⟨_, powered_eq hon heq, vectorDone_of_signal ?_ fun i hi => ?_, fun els' scs' hpack' => ?_⟩
    · exact (queue_setReg _ _ _).trans (queue_setReg _ _ _)
    · have hi' : i ≠ g.vd ∧ i ≠ g.vb := by simpa using hi
      rw [reg_setReg_other _ _ hi'.2, reg_setReg_other _ _ hi'.1]
    · rw [hpack, Prod.mk.injEq] at hpack'
      obtain ⟨rfl, rfl⟩ := hpack'
      rw [reg_of_signal, reg_of_signal, reg_setReg, reg_setReg_other _ _ hvb.symm, reg_setReg]
      exact ⟨rfl, rfl⟩
  · refine ⟨_, exec_vmatch hon h hf, vectorDone_of_pop ?_ (memoryOf_modVunit _ _ _) fun i hi => ?_, ?_, ?_, ?_⟩
    · rw [vunit_modVunit]; rfl
    · have hi' : i ≠ g.vd ∧ i ≠ g.vd + 1 := by simpa using hi
      rw [vunit_modVunit, reg_matchInto, if_neg hi'.2, if_neg hi'.1]
    · rw [effectOf_vunit, vecPop_reg, vunit_modVunit, reg_matchInto, if_neg (by omega), if_pos rfl]
    · rw [effectOf_vunit, vecPop_reg, vunit_modVunit, reg_matchInto, if_pos rfl]
    · rw [effectOf_vunit, vecPop_match, vunit_modVunit]; rfl
  · have heq := vecMovs_of_head h
    refine ⟨_, powered_eq hon heq, vectorDone_of_pop rfl (memoryOf_modSeq _ _ _ _) fun i _ => rfl, ?_⟩
    have hrd : ∀ (q : Seq) (r i : Nat) (x : W32) (p : List Nat), Seq.rd { q.wr r x with pend := p } i = (q.wr r x).rd i :=
      fun _ _ _ _ _ => rfl
    rw [effectOf_seq, rd_congr (s_vecPop c t _), seq_modSeq, hrd, rd_wr, BitVec.ofNat_toNat]
    by_cases hr : fld v.w0 4 0 = 0
    · rw [if_neg (fun hc => hc.2 hr), if_pos hr, hr, rd_zero]
    · rw [if_pos ⟨rfl, hr⟩, if_neg hr]

end Sys2Proof.Laws
end

section
/-!
SUPPORT. Mailboxes: what a response writes (R408, Table 13.1), what an event leaves of a mailbox (R415), and what a fold over
the mailboxes does to each of them.
-/

namespace Sys2Proof.KV

theorem getList_eq_map {α : Type} (d : α) (m : KV α) (k n : Nat) :
    getList d m k n = (List.range n).map fun i => get d m (k + i) := by
  induction n generalizing k with
  | zero => rfl
  | succ n ih =>
    rw [getList, ih, List.range_succ_eq_map]
    simp [Function.comp_def, Nat.add_assoc, Nat.add_comm 1]

/-- Reading back the middle part of a list just written gives that part. -/
theorem getList_setList_middle {α : Type} [DecidableEq α] (d : α) (m : KV α) (k : Nat) (as bs cs : List α) :
    getList d (setList d m k (as ++ (bs ++ cs))) (k + as.length) bs.length = bs := by
  rw [getList_eq_map]
  apply List.ext_getElem
  · simp
  · intro i h1 h2
    rw [List.getElem_map, List.getElem_range, Nat.add_assoc,
      get_setList_inside d (as ++ (bs ++ cs)) m k (as.length + i) (by simp; omega),
      List.getElem_append_right (by omega), List.getElem_append_left (by omega)]
    simp

end Sys2Proof.KV

namespace Sys2Proof.Laws

open Machine

/-! ### Responses -/

/-- Opcode and tag that a response names: those of the copied request, else those of the page. -/
def responseHead (b : Mailbox) : Nat × Nat :=
  match b.req with
  | some r => (r.opcode, r.tag.toNat)
  | none => (b.field 0 2, b.field 4 4)

/-- A mailbox once its command is completed (R408 step 4). -/
def completedMbx (b : Mailbox) (status : Nat) (payload : List Byte) : Mailbox :=
  { b with
    page := KV.setList 0 b.page 0x800
      (leBytes 2 status ++ leBytes 2 (responseHead b).1 ++ leBytes 4 (responseHead b).2 ++ leBytes 2 payload.length ++
        List.replicate 6 0 ++ payload)
    st := .done, doneCount := b.doneCount + 1, irq := b.irq ||| 1#5
    req := none, bound := none, stage := .fresh }

/-- A completed command of a context mailbox counts for its client (R435). -/
def countCommand (m : Nat) (s : State) : State :=
  if m = 0 then s else s.modSlot (m - 1) fun x => { x with acct := { x.acct with cmds := sat32 x.acct.cmds 1 } }

/-- What a response does to the state: its mailbox is completed, its vector may be raised, its client's command is counted. -/
theorem respond_eq (s : State) (m status : Nat) (payload : List Byte) :
    ∃ v, s.respond m status payload = countCommand m
      ((s.modMbx m fun _ => completedMbx (s.mbx m) status payload).modHamper fun h => { h with msix := v }) := by
  have hvector : ∀ f : Mailbox → Mailbox, f (s.mbx m) = completedMbx (s.mbx m) status payload →
      ∃ v, (if (s.mbx m).irqEn.getLsbD 0 then (s.modMbx m f).msix m else s.modMbx m f) =
        (s.modMbx m fun _ => completedMbx (s.mbx m) status payload).modHamper fun h => { h with msix := v } := by
    intro f hf
    rw [modMbx_congr (g := fun _ => completedMbx (s.mbx m) status payload) hf]
    split
    · exact ⟨_, rfl⟩
    · exact ⟨s.hamper.msix, rfl⟩
  unfold State.respond
  dsimp only
  cases hreq : (s.mbx m).req with
  | none =>
    dsimp only
    obtain ⟨v, hv⟩ := hvector (fun b => { b with
      page := KV.setList 0 b.page 0x800 (leBytes 2 status ++ leBytes 2 ((s.mbx m).field 0 2) ++
        leBytes 4 ((s.mbx m).field 4 4) ++ leBytes 2 payload.length ++ List.replicate 6 0 ++ payload)
      st := .done, doneCount := b.doneCount + 1, irq := b.irq ||| 1#5, req := none, bound := none, stage := .fresh })
      (by simp only [completedMbx, responseHead, hreq])
    exact ⟨v, (congrArg (countCommand m) hv :)⟩
  | some r =>
    dsimp only
    obtain ⟨v, hv⟩ := hvector (fun b => { b with
      page := KV.setList 0 b.page 0x800 (leBytes 2 status ++ leBytes 2 r.opcode ++
        leBytes 4 r.tag.toNat ++ leBytes 2 payload.length ++ List.replicate 6 0 ++ payload)
      st := .done, doneCount := b.doneCount + 1, irq := b.irq ||| 1#5, req := none, bound := none, stage := .fresh })
      (by simp only [completedMbx, responseHead, hreq])
    exact ⟨v, (congrArg (countCommand m) hv :)⟩

@[simp] theorem mbx_modHamper_msix (s : State) (v : KV Nat) (n : Nat) :
    (s.modHamper fun h => { h with msix := v }).mbx n = s.mbx n := rfl
@[simp] theorem mbx_modSlot (s : State) (c : Nat) (f : Ctx → Ctx) (n : Nat) : (s.modSlot c f).mbx n = s.mbx n := rfl
@[simp] theorem mbx_countCommand (m : Nat) (s : State) (n : Nat) : (countCommand m s).mbx n = s.mbx n := by
  unfold countCommand
  split <;> rfl

theorem mbx_respond (s : State) (m status : Nat) (payload : List Byte) :
    (s.respond m status payload).mbx m = completedMbx (s.mbx m) status payload := by
  obtain ⟨v, h⟩ := respond_eq s m status payload
  rw [h, mbx_countCommand, mbx_modHamper_msix, mbx_modMbx]

theorem mbx_respond_other (s : State) {m n : Nat} (status : Nat) (payload : List Byte) (h : n ≠ m) :
    (s.respond m status payload).mbx n = s.mbx n := by
  obtain ⟨v, hr⟩ := respond_eq s m status payload
  rw [hr, mbx_countCommand, mbx_modHamper_msix, mbx_modMbx_other _ _ h]

theorem acct_self (x : Ctx) : { x with acct := x.acct } = x := rfl

theorem slot_countCommand (m : Nat) (s : State) (c : Nat) : ∃ a, (countCommand m s).slot c = { s.slot c with acct := a } := by
  unfold countCommand
  split
  · exact ⟨_, (acct_self _).symm⟩
  · by_cases hc : c = m - 1
    · subst hc; exact ⟨_, slot_modSlot _ _ _⟩
    · exact ⟨_, (slot_modSlot_other _ _ hc).trans (acct_self _).symm⟩

theorem slot_modHamper (s : State) (f : Hamper → Hamper) (c : Nat) : (s.modHamper f).slot c = s.slot c := rfl
theorem slot_modMbx (s : State) (m : Nat) (f : Mailbox → Mailbox) (c : Nat) : (s.modMbx m f).slot c = s.slot c := rfl

/-- A response changes nothing of a slot but the accounts. -/
theorem slot_respond (s : State) (m status : Nat) (payload : List Byte) (c : Nat) :
    ∃ a, (s.respond m status payload).slot c = { s.slot c with acct := a } := by
  obtain ⟨v, hr⟩ := respond_eq s m status payload
  obtain ⟨a, ha⟩ := slot_countCommand m
    ((s.modMbx m fun _ => completedMbx (s.mbx m) status payload).modHamper fun h => { h with msix := v }) c
  exact ⟨a, by rw [hr, ha, slot_modHamper, slot_modMbx]⟩

/-- Whatever of a slot does not tell its accounts stays under a response. -/
theorem slot_respond_view {β : Type} (P : Ctx → β) (hP : ∀ x a, P { x with acct := a } = P x) (s : State)
    (m status : Nat) (payload : List Byte) (c : Nat) : P ((s.respond m status payload).slot c) = P (s.slot c) := by
  obtain ⟨a, h⟩ := slot_respond s m status payload c
  rw [h, hP]

theorem countCommand_frame (m : Nat) (s : State) : ∃ sl, countCommand m s = { s with slots := sl } := by
  unfold countCommand
  split
  · exact ⟨s.slots, rfl⟩
  · exact ⟨_, rfl⟩

theorem hamper_slots_frame (s : State) (m : Nat) (f : Mailbox → Mailbox) (g : Hamper → Hamper) (sl : KV Ctx) :
    ∃ h, { ((s.modMbx m f).modHamper g) with slots := sl } = { s with hamper := h, slots := sl } := ⟨_, rfl⟩

/-- A response changes the Hamper and the slots alone. -/
theorem respond_frame (s : State) (m status : Nat) (payload : List Byte) :
    ∃ h sl, s.respond m status payload = { s with hamper := h, slots := sl } := by
  obtain ⟨v, hr⟩ := respond_eq s m status payload
  obtain ⟨sl, hsl⟩ := countCommand_frame m
    ((s.modMbx m fun _ => completedMbx (s.mbx m) status payload).modHamper fun h => { h with msix := v })
  obtain ⟨h, hh⟩ := hamper_slots_frame s m _ _ sl
  exact ⟨h, sl, (hr.trans hsl).trans hh⟩

/-- A completed mailbox shows its answer (Table 13.1). -/
theorem answered_of_mbx {u : State} {m status : Nat} {payload : List Byte} {b : Mailbox}
    (h : u.mbx m = completedMbx b status payload) : Answered u m status payload := by
  have hread := KV.getList_setList_middle (0 : Byte) b.page 0x800
  have hirq : (b.irq ||| 1#5).getLsbD 0 = true := by simp
  unfold Answered
  rw [h]
  refine ⟨rfl, rfl, hirq, ?_, ?_, ?_⟩
  · have := hread [] (leBytes 2 status) (leBytes 2 (responseHead b).1 ++ leBytes 4 (responseHead b).2 ++
      leBytes 2 payload.length ++ List.replicate 6 0 ++ payload)
    simpa [completedMbx] using this
  · have := hread (leBytes 2 status ++ leBytes 2 (responseHead b).1 ++ leBytes 4 (responseHead b).2)
      (leBytes 2 payload.length) (List.replicate 6 0 ++ payload)
    simpa [completedMbx] using this
  · have := hread (leBytes 2 status ++ leBytes 2 (responseHead b).1 ++ leBytes 4 (responseHead b).2 ++
      leBytes 2 payload.length ++ List.replicate 6 0) payload []
    simpa [completedMbx] using this

theorem answered_respond (s : State) (m status : Nat) (payload : List Byte) :
    Answered (s.respond m status payload) m status payload := answered_of_mbx (mbx_respond s m status payload)

/-- An answer stands while its mailbox does. -/
theorem answered_congr {t u : State} {m status : Nat} {payload : List Byte} (h : u.mbx m = t.mbx m)
    (ha : Answered t m status payload) : Answered u m status payload := by
  unfold Answered at ha ⊢
  rw [h]
  exact ha

/-! ### Events and mailboxes -/

/-- A mailbox but for what an event may write: the ring's head, the interrupt flags, the counts of lost events, and the ring
itself where a PCIe error disables it (R415, R416). -/
def offEvents (b : Mailbox) : Mailbox :=
  { b with irq := 0, head := 0, lost := 0, lostOwn := 0, ring := none }

theorem offEvents_putEvent (s : State) (m n : Nat) (r : List Byte) :
    offEvents ((s.putEvent m r).mbx n) = offEvents (s.mbx n) := by
  unfold State.putEvent
  dsimp only
  by_cases hn : n = m
  · subst hn
    repeat' split
    all_goals simp [offEvents, State.dropEvent, State.msix, State.mbx, State.modHamper, State.modMbx, State.wrHost]
  · repeat' split
    all_goals simp [State.dropEvent, State.msix, State.mbx, State.modHamper, State.modMbx, State.wrHost, KV.get_upd, hn]

theorem flushLost_of_none {s : State} {m : Nat} (h : (s.mbx m).lostOwn = 0) : s.flushLost m = s := by
  unfold State.flushLost
  simp [h]

theorem offEvents_flushLost (s : State) (m n : Nat) : offEvents ((s.flushLost m).mbx n) = offEvents (s.mbx n) := by
  unfold State.flushLost
  dsimp only
  split
  · by_cases hn : n = m
    · subst hn
      rw [mbx_modMbx, apply_ite offEvents, ← offEvents_putEvent s n n, ite_eq_right_iff]
      exact fun _ => rfl
    · rw [mbx_modMbx_other _ _ hn, offEvents_putEvent]
  · rfl

/-- With no PCIe error in host memory an event leaves the rings. -/
theorem ring_putEvent {s : State} (h : s.hostErr = []) (m n : Nat) (r : List Byte) :
    ((s.putEvent m r).mbx n).ring = (s.mbx n).ring := by
  unfold State.putEvent
  dsimp only
  by_cases hn : n = m
  · subst hn
    repeat' split
    all_goals simp_all [State.hostFails, State.msix, State.mbx, State.modHamper, State.modMbx, State.wrHost]
  · repeat' split
    all_goals simp [State.dropEvent, State.msix, State.mbx, State.modHamper, State.modMbx, State.wrHost, KV.get_upd, hn]

theorem ring_flushLost {s : State} (h : s.hostErr = []) (m n : Nat) : ((s.flushLost m).mbx n).ring = (s.mbx n).ring := by
  unfold State.flushLost
  dsimp only
  split
  · by_cases hn : n = m
    · subst hn
      rw [mbx_modMbx, apply_ite Mailbox.ring, ite_self, ring_putEvent h]
    · rw [mbx_modMbx_other _ _ hn, ring_putEvent h]
  · rfl

/-! ### Folds over mailboxes -/

/-- A fold whose steps for other numbers keep a view applies one step, at its number, to a state with the same view. -/
theorem forEach_once {β : Type} {P : State → β} {f : Nat → State → State} {m : Nat} {xs : List Nat}
    (hf : ∀ n s, n ≠ m → P (f n s) = P s) (hnd : xs.Nodup) (hm : m ∈ xs) (s : State) :
    ∃ t, P t = P s ∧ P (forEach xs f s) = P (f m t) := by
  have hrest : ∀ {ys : List Nat}, m ∉ ys → ∀ t, P (forEach ys f t) = P t := by
    intro ys
    induction ys with
    | nil => exact fun _ _ => rfl
    | cons y ys ih =>
      intro hy t
      rw [forEach_cons, ih (fun h => hy (List.mem_cons_of_mem _ h)), hf y t (fun e => hy (e ▸ List.mem_cons_self))]
  induction xs generalizing s with
  | nil => exact absurd hm (List.not_mem_nil)
  | cons x xs ih =>
    obtain ⟨hx, hnd'⟩ := List.nodup_cons.1 hnd
    rw [forEach_cons]
    by_cases he : x = m
    · subst he
      exact ⟨s, rfl, hrest hx _⟩
    · obtain ⟨t, ht, htm⟩ := ih hnd' ((List.mem_cons.1 hm).resolve_left (Ne.symm he)) (f x s)
      exact ⟨t, ht.trans (hf x s he), htm⟩

theorem nodup_mboxes : mboxes.Nodup := by decide
theorem nodup_slots8 : slots8.Nodup := by decide
theorem mem_mboxes {m : Nat} : m ∈ mboxes ↔ m < 9 := by simp [mboxes]; omega
theorem mem_slots8 {c : Nat} : c ∈ slots8 ↔ c < 8 := by simp [slots8]; omega

end Sys2Proof.Laws
end

section
/-!
SUPPORT. The life of a mailbox command: sealing, acknowledgement, acceptance and time limits (R405, R408 to R412), the CP's
watchdog and restart (R463), and the control registers of the mailboxes (R407, R415, R416, R428).
-/

namespace Sys2Proof.Laws

open Machine

/-! ### Sealing and acknowledgement -/

theorem sealWrite_of_free {s : State} {m : Nat} (fn : Fin 8) (h : (s.mbx m).st = .idle ∨ (s.mbx m).st = .done) :
    sealWrite s m fn = s.modMbx m fun b => { b with st := .sealed, fn := fn } := by
  unfold sealWrite
  rcases h with h | h <;> rw [h]

/-- While the module is powered, a command whose effect is a change of a mailbox. -/
theorem powered_modMbx {s x : State} {m : Nat} {f : Mailbox → Mailbox} (hon : s.power.on = true) (h : x = s.modMbx m f) :
    powered s x = .next (s.modMbx m f) := by
  rw [powered_on x hon, h, effectOf_modMbx]

theorem acknowledge_of_refused {s : State} {m code : Nat} (hst : (s.mbx m).st = .sealed) (hc : ackCheck s m = some code) :
    acknowledge s m = s.respond m code [] := by
  unfold acknowledge
  rw [if_pos hst, hc]

theorem acknowledge_of_nop {s : State} {m : Nat} (hst : (s.mbx m).st = .sealed) (hc : ackCheck s m = none)
    (hop : (s.mbx m).field 0 2 = Op.nop) : acknowledge s m = s.respond m 0 [] := by
  unfold acknowledge
  rw [if_pos hst, hc]
  exact if_pos hop

theorem acknowledge_of_queued {s : State} {m : Nat} (hst : (s.mbx m).st = .sealed) (hc : ackCheck s m = none)
    (hop : (s.mbx m).field 0 2 ≠ Op.nop) :
    acknowledge s m = (s.modMbx m fun b =>
      { b with st := .queued, req := some (b.copy m), ackSeq := s.hamper.ackNext, queuedAt := s.now, stage := .fresh }).modHamper
        fun h => { h with ackNext := s.hamper.ackNext + 1 } := by
  unfold acknowledge
  rw [if_pos hst, hc]
  exact if_neg hop

@[simp] theorem mbx_modHamper_ackNext (s : State) (k n : Nat) :
    (s.modHamper fun h => { h with ackNext := k }).mbx n = s.mbx n := rfl
@[simp] theorem mbx_modHamper_accNext (s : State) (k n : Nat) :
    (s.modHamper fun h => { h with accNext := k }).mbx n = s.mbx n := rfl

/-- A refusal at acknowledgement completes the command with its code. -/
theorem exec_acknowledgement_refused {s : State} {m : Mbox} {code : Nat} (hon : s.power.on = true)
    (hst : (s.mbx m).st = .sealed) (hc : ackCheck s m = some code) : ∃ u, exec (.acknowledgement m) s = .next u ∧
      Answered u m code [] ∧ (u.mbx m).doneCount = (s.mbx m).doneCount + 1 ∧ ∀ n, n ≠ m.val → u.mbx n = s.mbx n := by
  refine ⟨_, powered_eq hon (acknowledge_of_refused hst hc), answered_respond s m code [], ?_, fun n hn => ?_⟩
  · rw [effectOf_mbx, mbx_respond]; rfl
  · rw [effectOf_mbx, mbx_respond_other _ _ _ hn]

theorem ackCheck_unlisted {s : State} {m : Nat} (h : opRow? ((s.mbx m).field 0 2) = none) : ackCheck s m = some 0x0801 := by
  unfold ackCheck
  simp only [h]
  rfl

theorem ackCheck_malformed {s : State} {m : Nat} {r : OpRow} (hr : opRow? ((s.mbx m).field 0 2) = some r)
    (h : r.lenOk (s.mbx m) = false ∨ (s.mbx m).field 8 8 ≠ 0) : ackCheck s m = some 0x0802 := by
  unfold ackCheck
  simp only [hr]
  exact if_pos h

theorem ackCheck_denied {s : State} {m : Nat} {r : OpRow} (hr : opRow? ((s.mbx m).field 0 2) = some r)
    (hlen : r.lenOk (s.mbx m) = true) (hzero : (s.mbx m).field 8 8 = 0) (hm : m ≠ 0) (hctx : r.ctx = false) :
    ackCheck s m = some 0x0803 := by
  unfold ackCheck
  simp only [hr]
  rw [if_neg (by simp [hlen, hzero]), if_pos ⟨hm, hctx⟩]
  rfl

theorem ackCheck_owned {s : State} {m : Nat} {r : OpRow} (hr : opRow? ((s.mbx m).field 0 2) = some r)
    (hlen : r.lenOk (s.mbx m) = true) (hzero : (s.mbx m).field 8 8 = 0) (hm : m ≠ 0) (hctx : r.ctx = true)
    (hslot : r.slot = true) (hown : (s.slot (m - 1)).owner ≠ (s.mbx m).fn) : ackCheck s m = some 0x0804 := by
  unfold ackCheck
  simp only [hr]
  rw [if_neg (by simp [hlen, hzero]), if_neg (by simp [hctx]), if_pos ⟨hm, hslot, hown⟩]
  rfl

/-! ### Acceptance -/

@[simp] theorem mbx_chargeQueue (m : Nat) (s : State) (n : Nat) : (chargeQueue m s).mbx n = s.mbx n := by
  unfold chargeQueue
  dsimp only
  split <;> rfl

theorem slot_chargeQueue {m : Nat} (hm : m ≠ 0) (s : State) : (chargeQueue m s).slot (m - 1) =
    { s.slot (m - 1) with acct := { (s.slot (m - 1)).acct with
      queueCyc := (s.slot (m - 1)).acct.queueCyc + (s.now - (s.mbx m).queuedAt) } } := by
  unfold chargeQueue
  rw [if_neg hm]
  exact slot_modSlot _ _ _

theorem accept_of_mayAccept {s : State} {m : Nat} (h : mayAccept s m = true) :
    accept s m = chargeQueue m ((s.modMbx m fun b => { b with st := .accepted, accSeq := s.hamper.accNext }).modHamper
      fun h => { h with accNext := s.hamper.accNext + 1 }) := by
  unfold accept
  exact if_pos h

/-- The CP's acceptance of a command, and the time it waited (R410, R435). -/
theorem exec_cpAccept {s : State} {m : Mbox} (hon : s.power.on = true) (h : mayAccept s m = true) :
    ∃ u, exec (.cpAccept m) s = .next u ∧ (u.mbx m).st = .accepted ∧ (u.mbx m).accSeq = s.hamper.accNext ∧
      (∀ n, n ≠ m.val → u.mbx n = s.mbx n) ∧ (m.val ≠ 0 → (u.slot (m.val - 1)).acct.queueCyc =
        (s.slot (m.val - 1)).acct.queueCyc + (s.now - (s.mbx m).queuedAt)) := by
  refine ⟨_, powered_eq hon (accept_of_mayAccept h), ?_, ?_, fun n hn => ?_, fun hm => ?_⟩
  · simp
  · simp
  · simp [mbx_modMbx_other _ _ hn]
  · rw [effectOf_slot, slot_chargeQueue hm]
    simp [slot_modHamper, slot_modMbx]

/-- Settles O15: each clause is one branch of sealing, acknowledgement and acceptance, and a response leaves its answer in
the mailbox it names. -/
theorem mailboxFlow : Obligations.MailboxFlow := by
  unfold Obligations.MailboxFlow
  refine ⟨fun m s hon => ⟨fun fn hst => powered_modMbx hon (sealWrite_of_free fn hst),
    fun fn hst => exec_sealingWrite_of_busy fn hon hst, fun hst hc hop => ?_,
    fun code hst hc => exec_acknowledgement_refused hon hst hc, fun hst hc hop => ?_, exec_cpAccept hon⟩,
    fun m s hon hst => ⟨fun hr => ?_, fun r hr => ⟨fun hlen => ?_, fun hzero => ?_, fun hlen hzero hm hctx => ?_,
      fun hlen hzero hm hctx hslot hown => ?_⟩⟩⟩
  · refine ⟨_, powered_eq hon (acknowledge_of_queued hst hc hop), ?_, ?_, ?_, ?_, fun n hn => ?_⟩
    · simp
    · simp
    · simp
    · simp
    · simp [mbx_modMbx_other _ _ hn]
  · refine ⟨_, powered_eq hon ((if_pos hop).trans (acknowledge_of_nop hst hc hop)), answered_respond s m 0 [],
      fun n hn => ?_⟩
    rw [effectOf_mbx, mbx_respond_other _ _ _ hn]
  · obtain ⟨u, h, ha, -⟩ := exec_acknowledgement_refused hon hst (ackCheck_unlisted hr)
    exact ⟨u, h, ha⟩
  · obtain ⟨u, h, ha, -⟩ := exec_acknowledgement_refused hon hst (ackCheck_malformed hr (.inl hlen))
    exact ⟨u, h, ha⟩
  · obtain ⟨u, h, ha, -⟩ := exec_acknowledgement_refused hon hst (ackCheck_malformed hr (.inr hzero))
    exact ⟨u, h, ha⟩
  · obtain ⟨u, h, ha, -⟩ := exec_acknowledgement_refused hon hst (ackCheck_denied hr hlen hzero hm hctx)
    exact ⟨u, h, ha⟩
  · obtain ⟨u, h, ha, -⟩ := exec_acknowledgement_refused hon hst (ackCheck_owned hr hlen hzero hm hctx hslot hown)
    exact ⟨u, h, ha⟩

/-! ### Registers with side effects -/

theorem mbx_modSlot_eq (s : State) (c : Nat) (f : Ctx → Ctx) (n : Nat) : (s.modSlot c f).mbx n = s.mbx n := rfl

theorem tail_flushLost (s : State) (m : Nat) : ((s.flushLost m).mbx m).tail = (s.mbx m).tail :=
  (congrArg Mailbox.tail (offEvents_flushLost s m m) :)

theorem evtTailWrite_of_none {s : State} {m : Nat} (v : W32) (h : (s.mbx m).lostOwn = 0) :
    evtTailWrite s m v = s.modMbx m fun b => { b with tail := v.setWidth 12 } :=
  flushLost_of_none (by rw [mbx_modMbx]; exact h)

theorem feedPost_zero (s : State) (v : W32) : feedPost s 0 v = s := rfl

theorem feedPost_of_none {s : State} {m : Nat} (v : W32) (hm : m ≠ 0) (hf : (s.slot (m - 1)).feed = none) :
    feedPost s m v = s.modMbx m fun b => { b with irq := b.irq ||| 16#5 } := by
  unfold feedPost
  rw [if_neg hm]
  dsimp only
  rw [hf]

/-- A feed post: the batches up to what the ring has room for, and feed_over beyond it (R428). -/
theorem feedPost_of_some {s : State} {m : Nat} {f : Feed} (v : W32) (hm : m ≠ 0) (hf : (s.slot (m - 1)).feed = some f) :
    feedPost s m v = s.modMbx m fun b => { b with
      feedPosted := BitVec.ofNat 32 (min ((s.mbx m).feedPosted.toNat + v.toNat % 65536)
        ((s.mbx m).feedDone.toNat + f.nSlots))
      irq := if (s.mbx m).feedDone.toNat + f.nSlots < (s.mbx m).feedPosted.toNat + v.toNat % 65536 then b.irq ||| 16#5
        else b.irq } := by
  unfold feedPost
  rw [if_neg hm]
  dsimp only
  rw [hf]
  dsimp only
  split
  next hle => exact modMbx_congr (by rw [Nat.min_eq_left hle, if_neg (by omega)])
  next hgt => exact modMbx_congr (by rw [Nat.min_eq_right (by omega), if_pos (by omega)])

theorem getLsbD_or_feedOver (irq : BitVec 5) : (irq ||| 16#5).getLsbD 4 = true := by simp

/-! ### Event rings -/

theorem eventsCmd_of_ring {s : State} {m : Nat} {r : Request} {ring : Option EvRing}
    (hr : s.request m Op.events = some r) (h : eventsRing r = some ring) :
    eventsCmd s m = ((s.modMbx m fun b => { b with ring := ring, head := 0, tail := 0 }).flushLost m).respond m 0 [] := by
  unfold eventsCmd
  rw [hr]
  dsimp only
  rw [h]

theorem eventsCmd_of_refused {s : State} {m : Nat} {r : Request} (hr : s.request m Op.events = some r)
    (h : eventsRing r = none) : eventsCmd s m = s.respond m Code.mbxFormat [] := by
  unfold eventsCmd
  rw [hr]
  dsimp only
  rw [h]

/-- OP_EVENTS installs the ring it describes (R416). -/
theorem exec_opEvents_installs {s : State} {m : Mbox} {r : Request} {ring : Option EvRing} (hon : s.power.on = true)
    (hr : s.request m Op.events = some r) (h : eventsRing r = some ring) :
    ∃ u, exec (.opEvents m) s = .next u ∧ Answered u m 0 [] ∧ (u.mbx m).tail = 0 ∧
      ((s.mbx m).lostOwn = 0 → (u.mbx m).ring = ring ∧ (u.mbx m).head = 0) ∧ (s.hostErr = [] → (u.mbx m).ring = ring) := by
  refine ⟨_, powered_eq hon (eventsCmd_of_ring hr h), answered_respond _ _ _ _, ?_, fun hl => ?_, fun he => ?_⟩
  · rw [effectOf_mbx, mbx_respond]
    exact (tail_flushLost _ _).trans (by rw [mbx_modMbx])
  · rw [effectOf_mbx, mbx_respond, flushLost_of_none (by rw [mbx_modMbx]; exact hl), mbx_modMbx]
    exact ⟨rfl, rfl⟩
  · rw [effectOf_mbx, mbx_respond]
    exact (ring_flushLost (by exact he) _ _).trans (by rw [mbx_modMbx])

theorem exec_opEvents_refuses {s : State} {m : Mbox} {r : Request} (hon : s.power.on = true)
    (hr : s.request m Op.events = some r) (h : eventsRing r = none) :
    ∃ u, exec (.opEvents m) s = .next u ∧ Answered u m Code.mbxFormat [] ∧ (u.mbx m).ring = (s.mbx m).ring := by
  refine ⟨_, powered_eq hon (eventsCmd_of_refused hr h), answered_respond _ _ _ _, ?_⟩
  rw [effectOf_mbx, mbx_respond]
  rfl

/-! ### Latching reads -/

/-- STK_CTX_INDEX_HI holds the upper part of the index in its low 16 bits (R63). -/
theorem indexHi_low (x : Ctx) : x.indexHi.toNat % 2 ^ 16 = x.stk.index.toNat / 2 ^ 32 := by
  have hidx := x.stk.index.isLt
  simp only [Ctx.indexHi, packF, List.foldr_cons, List.foldr_nil, BitVec.toNat_ofNat]
  omega

/-- Settles O17: each register's clause is the equation of its access; the ring of OP_EVENTS is what the command installs,
which the record of lost events leaves where host memory has no error. -/
theorem controlRegisters : Obligations.ControlRegisters := by
  unfold Obligations.ControlRegisters
  refine ⟨⟨fun m s v hon => ⟨fun hl => powered_modMbx hon (evtTailWrite_of_none v hl), ?_, ?_, fun hm => ?_,
      fun hm hf => powered_modMbx hon (feedPost_of_none v hm hf), fun f hm hf => ?_⟩, fun s hon => ?_, fun c s hon => ?_,
      fun c s hon => ?_⟩,
    fun m s r hon hr => ⟨fun ring h => exec_opEvents_installs hon hr h, fun h => exec_opEvents_refuses hon hr h⟩⟩
  · refine ⟨_, powered_eq hon rfl, ?_⟩
    exact (tail_flushLost _ _).trans (by rw [mbx_modMbx])
  · refine ⟨_, powered_eq hon rfl, rfl, ?_, ?_⟩
    · exact (congrArg Mailbox.lost (mbx_modMbx s m fun b => { b with lost := 0 }) :)
    · exact (congrArg Mailbox.lostOwn (mbx_modMbx s m fun b => { b with lost := 0 }) :)
  · have hfeed : feedPost s m.val v = s := by rw [hm, feedPost_zero]
    exact (powered_eq hon hfeed).trans (by rw [effectOf_self])
  · refine ⟨_, powered_eq hon (feedPost_of_some v hm hf), ?_⟩
    rw [effectOf_mbx, mbx_modMbx]
    refine ⟨rfl, ?_⟩
    dsimp only
    split
    next hover => simp [hover]
    next hfits => simp [hfits]
  · refine ⟨_, powered_eq hon rfl, rfl, ?_⟩
    have hmark := s.stroke.mark.isLt
    simp only [effectOf_stroke, markLoRead, modStroke_stroke, BitVec.toNat_setWidth, BitVec.toNat_ushiftRight,
      Nat.shiftRight_eq_div_pow]
    omega
  · refine ⟨_, powered_eq hon rfl, rfl, ?_⟩
    have hslot : (indexLoRead c.val s).slot c = { s.slot c with stk := { (s.slot c).stk with hi := (s.slot c).indexHi } } :=
      slot_modSlot s c fun x => { x with stk := { x.stk with hi := x.indexHi } }
    rw [effectOf_slot, hslot]
    exact indexHi_low _
  · refine ⟨_, powered_eq hon rfl, rfl, ?_⟩
    have hslot : (faultLoRead c.val s).slot c = { s.slot c with fault := { (s.slot c).fault with hiLatch := (s.slot c).fault.hi } } :=
      slot_modSlot s c fun x => { x with fault := { x.fault with hiLatch := x.fault.hi } }
    rw [effectOf_slot, hslot]

/-! ### Register writes -/

/-- A register write to a mailbox page while the module is powered. -/
theorem exec_registerWrite_page {s : State} {fn : Fin 8} {bar : Bar} {off m o : Nat} {v : W32} (hon : s.power.on = true)
    (h : targetOf s fn bar off = .page m o) :
    exec (.registerWrite fn bar off v) s = .next (s.effectOf (pageWrite m o fn v s)) := by
  show (if s.power.on then registerWrite fn.val bar off v s else .next s) = _
  rw [if_pos hon]
  unfold registerWrite
  rw [h]

theorem pageWrite_request {m o : Nat} (ho : o < 0x800) (fn : Nat) (v : W32) (s : State) :
    pageWrite m o fn v s = s.modMbx m fun b => { b with page := KV.setList 0 b.page o (leBytes 4 v.toNat) } := if_pos ho

theorem getLsbD_clear (irq : BitVec 5) (v : W32) {i : Nat} (hi : i < 5) :
    (irq &&& ~~~(v.setWidth 5)).getLsbD i = (irq.getLsbD i && !v.getLsbD i) := by
  simp [hi]

/-- Settles O26: each clause is the write of one word of a mailbox page; a target that only reads, and none, are the other
two answers of a register write. -/
theorem registerWrites : Obligations.RegisterWrites := by
  unfold Obligations.RegisterWrites
  intro fn bar off v s hon
  refine ⟨fun m o ht ho => ?_, fun m ht => ?_, fun m ht => ?_, fun m ht hv hst => ?_, fun ht => ?_, fun ht => ?_⟩
  · refine ⟨_, exec_registerWrite_page hon ht, ?_⟩
    rw [pageWrite_request ho, effectOf_modMbx]
    refine ⟨?_, fun a ha => ?_, ?_, fun n hn => mbx_modMbx_other _ _ hn, rfl, rfl, rfl⟩
    · rw [mbx_modMbx]
      exact getList_setList_of_length _ _ _ (length_leBytes 4 _)
    · rw [mbx_modMbx]
      exact KV.get_setList_outside _ _ _ _ _ (by rw [length_leBytes]; exact ha)
    · rw [mbx_modMbx]
  · refine ⟨_, exec_registerWrite_page hon ht, fun i hi => ?_⟩
    have hwrite : pageWrite m 0xFC8 fn v s = s.modMbx m fun b => { b with irq := b.irq &&& ~~~(v.setWidth 5) } := rfl
    rw [hwrite, effectOf_mbx, mbx_modMbx]
    exact getLsbD_clear _ _ hi
  · refine ⟨_, exec_registerWrite_page hon ht, ?_⟩
    have hwrite : pageWrite m 0xFCC fn v s = s.modMbx m fun b => { b with irqEn := v.setWidth 2 } := rfl
    rw [hwrite, effectOf_mbx, mbx_modMbx]
  · refine ⟨_, exec_registerWrite_page hon ht, ?_⟩
    have hwrite : pageWrite m 0xFC0 fn v s = sealWrite s m (Fin.ofNat 8 fn) := if_pos hv
    rw [hwrite, sealWrite_of_free _ (.inl hst), effectOf_mbx, mbx_modMbx]
    exact ⟨rfl, Fin.ofNat_val_eq_self fn⟩
  · show (if s.power.on then registerWrite fn.val bar off v s else .next s) = _
    rw [if_pos hon]
    unfold registerWrite
    rw [ht]
  · show (if s.power.on then registerWrite fn.val bar off v s else .next s) = _
    rw [if_pos hon]
    unfold registerWrite
    rw [ht]

end Sys2Proof.Laws
end

section
/-!
SUPPORT. Slots: which operations touch one slot alone, what a change of state keeps of a slot (R415, R435), and the end of a
context (R427).
-/

namespace Sys2Proof.Laws

open Machine

/-! ### Operations of one slot -/

/-- Every slot but `c` is the same in `t` as in `s`. -/
def OtherSlots (c : Nat) (s t : State) : Prop := ∀ d, d ≠ c → t.slot d = s.slot d

theorem OtherSlots.refl (c : Nat) (s : State) : OtherSlots c s s := fun _ _ => rfl
theorem OtherSlots.trans {c : Nat} {s t u : State} (h : OtherSlots c s t) (h' : OtherSlots c t u) : OtherSlots c s u :=
  fun d hd => (h' d hd).trans (h d hd)
theorem OtherSlots.of_slots {c : Nat} {s t : State} (h : t.slots = s.slots) : OtherSlots c s t := fun d _ => by
  unfold State.slot; rw [h]
theorem otherSlots_modSlot (s : State) (c : Nat) (f : Ctx → Ctx) : OtherSlots c s (s.modSlot c f) :=
  fun _ hd => slot_modSlot_other _ _ hd
theorem otherSlots_forEach {α : Type} {c : Nat} {f : α → State → State} (hf : ∀ x s, OtherSlots c s (f x s)) (xs : List α)
    (s : State) : OtherSlots c s (forEach xs f s) := fun d hd =>
  forEach_view (fun t => t.slot d) (fun x s => hf x s d hd) xs s

theorem otherSlots_complete (d : Nat) (s : State) (c cls inst k : Nat) (r : List Byte) :
    OtherSlots d s (s.complete c cls inst k r) := .of_slots (complete_slots _ _ _ _ _ _)

theorem otherSlots_endAct (c : Nat) (a : GhlAct) (status : Nat) (ab : Bool) (s : State) :
    OtherSlots c s (endAct c a status ab s) := by
  unfold endAct
  extract_lets a t u v
  have ht : OtherSlots c s t := otherSlots_complete _ _ _ _ _ _ _
  have hu : OtherSlots c s u := ht.trans (otherSlots_modSlot _ _ _)
  split <;> exact hu

theorem otherSlots_abortGhl (status c : Nat) (s : State) : OtherSlots c s (abortGhl status c s) :=
  otherSlots_forEach (fun _ _ => otherSlots_endAct _ _ _ _ _) _ _

theorem otherSlots_abortPress (status c : Nat) (s : State) : OtherSlots c s (abortPress status c s) :=
  (otherSlots_forEach (fun _ _ => otherSlots_complete _ _ _ _ _ _ _) _ s).trans (otherSlots_modSlot _ _ _)

theorem otherSlots_abortTiles (status c : Nat) (s : State) : OtherSlots c s (abortTiles status c s) := by
  unfold abortTiles
  extract_lets t
  have ht : OtherSlots c s t := otherSlots_forEach (fun _ _ => otherSlots_complete _ _ _ _ _ _ _) _ s
  have hhalt : OtherSlots c t (haltSeqs c t) := otherSlots_modSlot _ _ _
  exact (ht.trans hhalt).trans (.of_slots rfl)

theorem otherSlots_discardRest (s : State) (c : Nat) : OtherSlots c s (s.discardRest c) := by
  unfold State.discardRest
  extract_lets x t
  have ht : OtherSlots c s t :=
    otherSlots_forEach (fun _ _ => otherSlots_forEach (fun _ _ => otherSlots_complete _ _ _ _ _ _ _) _ _) _ s
  exact ht.trans (otherSlots_modSlot _ _ _)

/-- The end of a context's work leaves the other slots. -/
theorem otherSlots_abortAll (status c : Nat) (s : State) : OtherSlots c s (abortAll status c s) :=
  ((((otherSlots_abortTiles status c s).trans fun d _ => slot_abortMangle status c d _).trans
    fun d _ => slot_abortSeams status c d _).trans fun d _ => slot_abortStreams status c d _).trans
    ((otherSlots_abortPress status c _).trans (otherSlots_abortGhl status c _))

theorem otherSlots_post (c : Nat) (s : State) (m slot code kind : Nat) (arg : W32) :
    OtherSlots c s (s.post m slot code kind arg) := .of_slots (hostOnly_post _ _ _ _ _ _).slots

theorem otherSlots_enterCause (s : State) (c code : Nat) (arg : W32) (ext : BitVec 48) :
    OtherSlots c s (enterCause s c code arg ext) := by
  intro d hd
  unfold enterCause
  rw [slot_modSlot_other _ _ hd, (hostOnly_postCtx _ _ _ _).slot]
  rfl

/-- A cause of Table 2.6 leaves the other slots. -/
theorem otherSlots_raiseCause (s : State) (c code : Nat) (arg : W32) (ext : BitVec 48) :
    OtherSlots c s (raiseCause s c code arg ext) := by
  cases hon : (s.slot c).att.on with
  | false => rw [raiseCause_of_over code arg ext hon]; exact .refl c s
  | true =>
    have henter : OtherSlots c s (enterCause s c code arg ext) := otherSlots_enterCause s c code arg ext
    rw [raiseCause_of_on code arg ext hon]
    split
    · exact (henter.trans (otherSlots_abortAll _ _ _)).trans (otherSlots_discardRest _ _)
    · exact henter

theorem otherSlots_respond (s : State) (m status : Nat) (payload : List Byte) :
    OtherSlots (m - 1) s (s.respond m status payload) := by
  intro d hd
  obtain ⟨v, hr⟩ := respond_eq s m status payload
  rw [hr]
  unfold countCommand
  split
  · rfl
  · exact slot_modSlot_other _ _ hd

/-! ### Changes of state -/

/-- A slot without its books: its owner, its accounts, and its count of holds. -/
def offBooks (x : Ctx) : Ctx :=
  { x with stk := { x.stk with holds := 0 }, savedSince := 0, acct := .zero, owner := 0 }

theorem offBooks_own (h : Hamper) (c : Nat) (x : Ctx) : offBooks (x.own h c) = offBooks x := by
  unfold Ctx.own
  dsimp only
  split <;> rfl

/-- The book-keeping of a change of state writes the books alone. -/
theorem offBooks_moved (h : Hamper) (now c : Nat) (old : CtxSt) (x : Ctx) : offBooks (x.moved h now c old) = offBooks x := by
  unfold Ctx.moved
  extract_lets k y z a w
  have hy : offBooks y = offBooks x := by
    rw [show y = _ from rfl, apply_ite offBooks, ite_eq_right_iff]; exact fun _ => rfl
  have hz : offBooks z = offBooks y := by
    rw [show z = _ from rfl, apply_ite offBooks, ite_eq_right_iff]; exact fun _ => rfl
  have hw : offBooks w = offBooks z := by
    rw [show w = _ from rfl, apply_ite offBooks, ite_eq_right_iff]; exact fun _ => rfl
  rw [offBooks_own, hw, hz, hy]

/-- Whatever of a slot does not tell its books stays under the book-keeping. -/
theorem moved_view {β : Type} (P : Ctx → β) (hP : ∀ x, P (offBooks x) = P x) (h : Hamper) (now c : Nat) (old : CtxSt)
    (x : Ctx) : P (x.moved h now c old) = P x := by
  rw [← hP, offBooks_moved, hP]

@[simp] theorem moved_st (h : Hamper) (now c : Nat) (old : CtxSt) (x : Ctx) : (x.moved h now c old).st = x.st :=
  moved_view Ctx.st (fun _ => rfl) h now c old x
@[simp] theorem moved_stopped (h : Hamper) (now c : Nat) (old : CtxSt) (x : Ctx) :
    (x.moved h now c old).stopped = x.stopped := moved_view Ctx.stopped (fun _ => rfl) h now c old x
@[simp] theorem moved_armed (h : Hamper) (now c : Nat) (old : CtxSt) (x : Ctx) :
    (x.moved h now c old).armed = x.armed := moved_view Ctx.armed (fun _ => rfl) h now c old x
@[simp] theorem moved_holds (h : Hamper) (now c : Nat) (old : CtxSt) (x : Ctx) :
    (x.moved h now c old).holds = x.holds := moved_view Ctx.holds (fun _ => rfl) h now c old x
@[simp] theorem moved_pages (h : Hamper) (now c : Nat) (old : CtxSt) (x : Ctx) :
    (x.moved h now c old).pages = x.pages := moved_view Ctx.pages (fun _ => rfl) h now c old x
@[simp] theorem moved_att (h : Hamper) (now c : Nat) (old : CtxSt) (x : Ctx) :
    (x.moved h now c old).att = x.att := moved_view Ctx.att (fun _ => rfl) h now c old x

theorem slot_setCtx (s : State) (c : Nat) (f : Ctx → Ctx) :
    (s.setCtx c f).slot c = (f (s.slot c)).moved s.hamper s.now c (s.slot c).st := by
  unfold State.setCtx
  extract_lets old t
  have ht : t.slot c = (f (s.slot c)).moved s.hamper s.now c old := slot_modSlot _ _ _
  split
  · rw [(hostOnly_post t _ _ _ _ _).slot, ht]
  · exact ht

/-- A slot after a change of state, but for its books. -/
theorem slot_setCtx_view {β : Type} (P : Ctx → β) (hP : ∀ x, P (offBooks x) = P x) (s : State) (c : Nat) (f : Ctx → Ctx) :
    P ((s.setCtx c f).slot c) = P (f (s.slot c)) := by
  rw [slot_setCtx, moved_view P hP]

theorem otherSlots_setCtx (s : State) (c : Nat) (f : Ctx → Ctx) : OtherSlots c s (s.setCtx c f) := by
  unfold State.setCtx
  extract_lets old t
  have ht : OtherSlots c s t := otherSlots_modSlot _ _ _
  split
  · exact ht.trans (otherSlots_post c t _ _ _ _ _)
  · exact ht

@[simp] theorem bystanders_setCtx (s : State) (c : Nat) (f : Ctx → Ctx) : bystanders (s.setCtx c f) = bystanders s := by
  unfold State.setCtx
  dsimp only
  split <;> simp

/-! ### The end of a context -/

theorem slots_partitionZero (c : Nat) (s : State) : (partitionZero c s).slots = s.slots := rfl
theorem slots_partitionClear (c : Nat) (s : State) : (partitionClear c s).slots = s.slots := rfl

theorem slots_partitionRelease (c : Nat) (s : State) : (partitionRelease c s).slots = s.slots := by
  unfold partitionRelease
  dsimp only
  split <;> rfl

theorem otherSlots_releasePages (c : Nat) (drop : Page → Bool) (s : State) : OtherSlots c s (releasePages c drop s) :=
  (otherSlots_forEach (f := fun (e : Nat × Page) s => freePage e.2.stack (e.2.addr / pageBig) s)
    (fun _ _ => .of_slots rfl) _ s).trans (otherSlots_modSlot _ _ _)

/-- A slot whose pages are released keeps the others, and everything else. -/
theorem slot_releasePages (c : Nat) (drop : Page → Bool) (s : State) :
    (releasePages c drop s).slot c = { s.slot c with pages := (s.slot c).pages.filter fun e => !drop e.2 } := by
  unfold releasePages
  extract_lets x t
  have ht : t.slot c = s.slot c := forEach_view (fun u => u.slot c)
    (f := fun (e : Nat × Page) s => freePage e.2.stack (e.2.addr / pageBig) s) (fun _ _ => rfl) _ s
  rw [slot_modSlot, ht]

/-- Removing a context up to the change of its slot (R427, R429). -/
def vacated (c : Nat) (keep : Page → Bool) (s : State) : State :=
  releaseSeq c (dropXlat c (releasePages c (fun p => !keep p) (releaseShares c (partitionRelease c s))))

/-- What a slot is made of when its context is removed (R427): its owner and accounts, its pages, the registers that a load
clears, and those of the watch and of the Presses. -/
def removedCtx (x : Ctx) : Ctx :=
  { Ctx.empty with
    st := .empty, owner := x.owner, acct := x.acct, savedSince := x.savedSince, pages := x.pages, stk := x.stk
    fault := x.fault, watch := { x.watch with cfg := none, seqBase := 0 }
    press := { Press.empty with
      lastDec := x.press.lastDec, lastS := x.press.lastS, lastG := x.press.lastG, lastC := x.press.lastC
      halt := x.press.halt, voteFailed := x.press.voteFailed } }

theorem removeCtx_eq (c : Nat) (keep : Page → Bool) (s : State) :
    removeCtx c keep s = (vacated c keep s).setCtx c removedCtx := by
  unfold removeCtx vacated removedCtx
  rfl

theorem slots_releaseSeq (c : Nat) (s : State) : (releaseSeq c s).slots = s.slots := rfl
theorem slots_dropXlat (c : Nat) (s : State) : (dropXlat c s).slots = s.slots := rfl

theorem otherSlots_vacated (c : Nat) (keep : Page → Bool) (s : State) : OtherSlots c s (vacated c keep s) := by
  have hpart : OtherSlots c s (partitionRelease c s) := .of_slots (slots_partitionRelease c s)
  have hshares : OtherSlots c (partitionRelease c s) (releaseShares c (partitionRelease c s)) := otherSlots_modSlot _ _ _
  have hpages := otherSlots_releasePages c (fun p => !keep p) (releaseShares c (partitionRelease c s))
  refine ((hpart.trans hshares).trans hpages).trans (.of_slots ?_)
  unfold vacated
  rw [slots_releaseSeq, slots_dropXlat]

theorem otherSlots_removeCtx (c : Nat) (keep : Page → Bool) (s : State) : OtherSlots c s (removeCtx c keep s) := by
  rw [removeCtx_eq]
  exact (otherSlots_vacated c keep s).trans (otherSlots_setCtx _ _ _)

theorem st_removedCtx (x : Ctx) : (removedCtx x).st = .empty := rfl

/-- A removed context leaves its slot EMPTY. -/
theorem st_removeCtx (c : Nat) (keep : Page → Bool) (s : State) : ((removeCtx c keep s).slot c).st = .empty := by
  rw [removeCtx_eq, slot_setCtx, moved_st, st_removedCtx]

theorem slots_settleHold (s : State) : (settleHold s).slots = s.slots := rfl

theorem slots_drainAbort (s : State) : (drainAbort s).slots = s.slots := by
  unfold drainAbort
  extract_lets dead t gone
  rw [slots_settleHold]
  exact forEach_view State.slots (fun _ _ => complete_slots _ _ _ _ _ _) _ s

theorem part_partitionFree (c : Nat) (s : State) : (partitionFree c s).part c = TubPart.none := by
  simp [State.part, partitionFree]
theorem part_partitionFree_other {c d : Nat} (h : d ≠ c) (s : State) : (partitionFree c s).part d = s.part d := by
  simp [State.part, partitionFree, KV.get_set, h]
theorem part_partitionZero (c d : Nat) (s : State) : (partitionZero c s).part d = s.part d := rfl

theorem part_partitionClear (c : Nat) (s : State) : (partitionClear c s).part c = TubPart.none := part_partitionFree _ _
theorem part_partitionClear_other {c d : Nat} (h : d ≠ c) (s : State) : (partitionClear c s).part d = s.part d := by
  unfold partitionClear
  rw [part_partitionFree_other h, part_partitionZero]

end Sys2Proof.Laws
end

section
/-!
SUPPORT. Time limits of a mailbox command (R411, R412), and the CP's watchdog and restart (R463).
-/

namespace Sys2Proof.Laws

open Machine

/-! ### The end of a command whose time is over -/

/-- The Hamper without its mailboxes and its vectors. -/
def offMbx (h : Hamper) : Hamper := { h with mbx := [], msix := [] }

theorem offMbx_modMbx (s : State) (m : Nat) (f : Mailbox → Mailbox) : offMbx (s.modMbx m f).hamper = offMbx s.hamper := rfl
theorem offMbx_modSlot (s : State) (c : Nat) (f : Ctx → Ctx) : offMbx (s.modSlot c f).hamper = offMbx s.hamper := rfl
theorem offMbx_msix (s : State) (v : KV Nat) :
    offMbx (s.modHamper fun h => { h with msix := v }).hamper = offMbx s.hamper := rfl

theorem offMbx_countCommand (m : Nat) (s : State) : offMbx (countCommand m s).hamper = offMbx s.hamper := by
  unfold countCommand
  split <;> rfl

theorem offMbx_respond (s : State) (m status : Nat) (payload : List Byte) :
    offMbx (s.respond m status payload).hamper = offMbx s.hamper := by
  obtain ⟨v, hr⟩ := respond_eq s m status payload
  rw [hr, offMbx_countCommand, offMbx_msix, offMbx_modMbx]

theorem offMbx_chargeQueue (m : Nat) (s : State) : offMbx (chargeQueue m s).hamper = offMbx s.hamper := by
  unfold chargeQueue
  dsimp only
  split <;> rfl

theorem timeOutCmd_of_queued {s : State} {m : Nat} (h : (s.mbx m).st = .queued) :
    timeOutCmd m s = (chargeQueue m s).respond m Code.mbxCpTimeout [] := by
  unfold timeOutCmd
  rw [h]

theorem timeOutCmd_of_accepted {s : State} {m : Nat} (h : (s.mbx m).st = .accepted) :
    timeOutCmd m s = (s.respond m Code.mbxCpTimeout []).modMbx m fun b => { b with timedOut := true } := by
  unfold timeOutCmd
  rw [h]

theorem timeOutCmd_of_other {s : State} {m : Nat} (hq : (s.mbx m).st ≠ .queued) (ha : (s.mbx m).st ≠ .accepted) :
    timeOutCmd m s = s := by
  unfold timeOutCmd
  split
  next h => exact absurd h hq
  next h => exact absurd h ha
  next => rfl

theorem mbx_timeOutCmd_other {m n : Nat} (s : State) (h : n ≠ m) : (timeOutCmd m s).mbx n = s.mbx n := by
  by_cases hq : (s.mbx m).st = .queued
  · rw [timeOutCmd_of_queued hq, mbx_respond_other _ _ _ h, mbx_chargeQueue]
  by_cases ha : (s.mbx m).st = .accepted
  · rw [timeOutCmd_of_accepted ha, mbx_modMbx_other _ _ h, mbx_respond_other _ _ _ h]
  rw [timeOutCmd_of_other hq ha]

theorem offMbx_timeOutCmd (m : Nat) (s : State) : offMbx (timeOutCmd m s).hamper = offMbx s.hamper := by
  by_cases hq : (s.mbx m).st = .queued
  · rw [timeOutCmd_of_queued hq, offMbx_respond, offMbx_chargeQueue]
  by_cases ha : (s.mbx m).st = .accepted
  · rw [timeOutCmd_of_accepted ha, offMbx_modMbx, offMbx_respond]
  rw [timeOutCmd_of_other hq ha]

/-- The late mark of R412 leaves an answer as it is. -/
theorem answered_timedOut {s : State} {m status : Nat} {payload : List Byte} (h : Answered s m status payload) :
    Answered (s.modMbx m fun b => { b with timedOut := true }) m status payload := by
  unfold Answered at h ⊢
  rw [mbx_modMbx]
  exact h

theorem answered_timeOutCmd {s : State} {m : Nat} (h : (s.mbx m).st = .queued ∨ (s.mbx m).st = .accepted) :
    Answered (timeOutCmd m s) m Code.mbxCpTimeout [] := by
  rcases h with h | h
  · rw [timeOutCmd_of_queued h]
    exact answered_respond _ _ _ _
  · rw [timeOutCmd_of_accepted h]
    exact answered_timedOut (answered_respond _ _ _ _)

/-! ### A failed CP -/

theorem mbx_cpFailed (s : State) (n : Nat) : (cpFailed s).mbx n = (forEach mboxes timeOutCmd s).mbx n := by
  unfold cpFailed
  generalize forEach mboxes timeOutCmd s = t
  rfl

/-- When the CP is treated as failed, every command that it has not completed is (R411). -/
theorem answered_cpFailed {s : State} {m : Nat} (hm : m < 9) (h : (s.mbx m).st = .queued ∨ (s.mbx m).st = .accepted) :
    Answered (cpFailed s) m Code.mbxCpTimeout [] := by
  obtain ⟨t, ht, hfold⟩ := forEach_once (P := fun s => s.mbx m) (f := timeOutCmd)
    (fun n s hn => mbx_timeOutCmd_other s (Ne.symm hn)) nodup_mboxes (mem_mboxes.2 hm) s
  refine answered_congr ((mbx_cpFailed s m).trans hfold) (answered_timeOutCmd ?_)
  rw [show t.mbx m = s.mbx m from ht]
  exact h

theorem mbx_cpFailed_of_other {s : State} {m : Nat} (hm : m < 9) (hq : (s.mbx m).st ≠ .queued)
    (ha : (s.mbx m).st ≠ .accepted) : (cpFailed s).mbx m = s.mbx m := by
  obtain ⟨t, ht, hfold⟩ := forEach_once (P := fun s => s.mbx m) (f := timeOutCmd)
    (fun n s hn => mbx_timeOutCmd_other s (Ne.symm hn)) nodup_mboxes (mem_mboxes.2 hm) s
  have ht' : t.mbx m = s.mbx m := ht
  rw [mbx_cpFailed, show (forEach mboxes timeOutCmd s).mbx m = (timeOutCmd m t).mbx m from hfold,
    timeOutCmd_of_other (ht' ▸ hq) (ht' ▸ ha), ht']

theorem cpFault_cpFailed (s : State) : (cpFailed s).hamper.cpFault = true := rfl

theorem cpTimeouts_cpFailed (s : State) : (cpFailed s).hamper.cpTimeouts = sat32 s.hamper.cpTimeouts 1 := by
  have hfold : offMbx (forEach mboxes timeOutCmd s).hamper = offMbx s.hamper :=
    forEach_view (fun t => offMbx t.hamper) offMbx_timeOutCmd _ s
  unfold cpFailed
  generalize forEach mboxes timeOutCmd s = t at hfold
  exact congrArg (fun h => sat32 h 1) (congrArg Hamper.cpTimeouts hfold :)

theorem acceptTimeout_of_allowed {s : State} (h : ∃ m, m < 9 ∧ mayAccept s m = true) : acceptTimeout s = cpFailed s := by
  obtain ⟨m, hm, hmay⟩ := h
  exact if_pos (List.any_eq_true.2 ⟨m, mem_mboxes.2 hm, hmay⟩)

/-! ### Bounds -/

theorem reportBound_of_dependent {s : State} {m : Nat} {r : Request} (n : Nat) (hst : (s.mbx m).st = .accepted)
    (hb : (s.mbx m).bound = none) (hr : (s.mbx m).req = some r)
    (hop : [Op.load, Op.reshard, Op.resume, Op.save, Op.restore].elem r.opcode = true) :
    reportBound s m n = s.modMbx m fun b => { b with bound := some n } := by
  unfold reportBound
  dsimp only
  rw [hr]
  exact if_pos ⟨hst, hop, hb⟩

theorem boundTimeout_of_accepted {s : State} {m : Nat} (h : (s.mbx m).st = .accepted) :
    boundTimeout s m = (s.respond m Code.mbxCpTimeout []).modMbx m fun b => { b with timedOut := true } := by
  unfold boundTimeout
  rw [if_pos h, timeOutCmd_of_accepted h]

theorem lateDoneAt_of_timedOut {s : State} {m : Nat} (h : (s.mbx m).timedOut = true) :
    lateDoneAt s m = (s.modMbx m fun b => { b with timedOut := false, irq := b.irq ||| 8#5 }).modHamper
      fun h => { h with lateDone := sat32 h.lateDone 1 } := if_pos h

@[simp] theorem mbx_modHamper_lateDone (s : State) (n : Nat) :
    (s.modHamper fun h => { h with lateDone := sat32 h.lateDone 1 }).mbx n = s.mbx n := rfl

/-! ### Watchdog and restart -/

/-- What the watchdog does of a CP that runs (R463). -/
theorem cpWatchdog_of_running {s : State} (hready : s.hamper.ready = true) (hheld : s.mp.cpHeld = false) :
    cpWatchdog s = ((cpFailed (s.log Code.cpWatchdog originMp 0xFF 0 0)).modHamper fun h => { h with ready := false }).modMp
      fun p => { p with
        cpHeld := true, cpDead := !decide (recentRestarts s < 3)
        restarts := if decide (recentRestarts s < 3) = true then s.now :: p.restarts else p.restarts } := by
  unfold cpWatchdog
  rw [if_neg (by simp [hready, hheld])]

/-- The restart's fold over the slots (R463). -/
def emptySlot (c : Nat) (s : State) : State :=
  if (s.slot c).st = .empty then s else removeCtx c (fun _ => false) (drainAbort (abortAll Code.strokeDiscard c s))

/-- The CP takes its work up again (R463). -/
def cpBack (now : Nat) (s : State) : State :=
  (s.modHamper fun h => { h with ready := true, cpFault := false }).modMp fun p => { p with cpHeld := false, beat := now }

theorem cpRestart_of_held {s : State} (hheld : s.mp.cpHeld = true) (hdead : s.mp.cpDead = false) :
    cpRestart s = cpBack s.now (forEach slots8 partitionClear (forEach slots8 emptySlot s)) := by
  unfold cpRestart
  rw [if_neg (by simp [hheld, hdead])]
  rfl

theorem otherSlots_emptySlot (c : Nat) (s : State) : OtherSlots c s (emptySlot c s) := by
  unfold emptySlot
  split
  · exact .refl c s
  · exact ((otherSlots_abortAll Code.strokeDiscard c s).trans (.of_slots (slots_drainAbort _))).trans
      (otherSlots_removeCtx _ _ _)

theorem st_emptySlot (c : Nat) (s : State) : ((emptySlot c s).slot c).st = .empty := by
  unfold emptySlot
  split
  next h => exact h
  next => exact st_removeCtx _ _ _

/-- After the restart's fold every slot is EMPTY. -/
theorem st_forEach_emptySlot {c : Nat} (hc : c < 8) (s : State) : ((forEach slots8 emptySlot s).slot c).st = .empty := by
  obtain ⟨t, -, hfold⟩ := forEach_once (P := fun s => (s.slot c).st) (f := emptySlot)
    (fun d s hd => congrArg Ctx.st (otherSlots_emptySlot d s c (Ne.symm hd))) nodup_slots8 (mem_slots8.2 hc) s
  exact hfold.trans (st_emptySlot c t)

theorem slots_forEach_partitionClear (s : State) : (forEach slots8 partitionClear s).slots = s.slots :=
  forEach_view State.slots slots_partitionClear _ s

theorem part_forEach_partitionClear {c : Nat} (hc : c < 8) (s : State) :
    (forEach slots8 partitionClear s).part c = TubPart.none := by
  obtain ⟨t, -, hfold⟩ := forEach_once (P := fun s => s.part c) (f := partitionClear)
    (fun d s hd => part_partitionClear_other (Ne.symm hd) s) nodup_slots8 (mem_slots8.2 hc) s
  exact hfold.trans (part_partitionClear c t)

theorem slot_congr {s t : State} (h : t.slots = s.slots) (c : Nat) : t.slot c = s.slot c := by
  unfold State.slot
  rw [h]

/-- Settles O16: a failed CP's fold completes each mailbox's command once; the restart's folds empty each slot and free each
partition. -/
theorem timeoutsAndWatchdog : Obligations.TimeoutsAndWatchdog := by
  unfold Obligations.TimeoutsAndWatchdog
  refine ⟨⟨fun s hon hmay => ?_, fun m s hon => ⟨fun r n hst hb hr hop => ?_, fun hst => ?_, fun hto => ?_⟩⟩,
    fun s hon hready hheld => ?_, fun s hon hheld hdead => ?_, fun s hon hmode hready hheld => ?_⟩
  · have hfault := cpFault_cpFailed s
    have hcount := cpTimeouts_cpFailed s
    have hdone := fun m hm => answered_cpFailed (s := s) (m := m) hm
    have hother := fun m hm => mbx_cpFailed_of_other (s := s) (m := m) hm
    refine ⟨_, powered_eq hon (acceptTimeout_of_allowed hmay), ?_⟩
    generalize cpFailed s = t at hfault hcount hdone hother ⊢
    exact ⟨hfault, hcount, fun m hm => ⟨hdone m hm, fun h => hother m hm h.1 h.2⟩⟩
  · exact powered_modMbx hon (reportBound_of_dependent n hst hb hr hop)
  · refine ⟨_, powered_eq hon (boundTimeout_of_accepted hst), answered_timedOut (answered_respond _ _ _ _), ?_,
      fun n hn => ?_⟩
    · rw [effectOf_mbx, mbx_modMbx]
    · rw [effectOf_mbx, mbx_modMbx_other _ _ hn, mbx_respond_other _ _ _ hn]
  · refine ⟨_, powered_eq hon (lateDoneAt_of_timedOut hto), ?_, ?_, rfl⟩
    · rw [effectOf_mbx, mbx_modHamper_lateDone, mbx_modMbx]
    · rw [effectOf_mbx, mbx_modHamper_lateDone, mbx_modMbx]
  · have hfault := cpFault_cpFailed (s.log Code.cpWatchdog originMp 0xFF 0 0)
    have hdone := fun m hm => answered_cpFailed (s := s.log Code.cpWatchdog originMp 0xFF 0 0) (m := m) hm
    refine ⟨_, powered_eq hon (cpWatchdog_of_running hready hheld), ?_⟩
    generalize cpFailed (s.log Code.cpWatchdog originMp 0xFF 0 0) = t at hfault hdone ⊢
    refine ⟨rfl, hfault, rfl, ?_, fun m hm hst => answered_congr (t := t) rfl (hdone m hm hst)⟩
    show (!decide (recentRestarts s < 3)) = _
    rw [← decide_not]
    simp only [not_lt, recentRestarts]
  · have hslots := slots_forEach_partitionClear (forEach slots8 emptySlot s)
    have hst := fun c hc => st_forEach_emptySlot (c := c) hc s
    have hpart := fun c hc => part_forEach_partitionClear (c := c) hc (forEach slots8 emptySlot s)
    refine ⟨_, powered_eq hon (cpRestart_of_held hheld hdead), ?_⟩
    generalize forEach slots8 partitionClear (forEach slots8 emptySlot s) = t at hslots hpart ⊢
    refine ⟨rfl, rfl, rfl, rfl, fun c hc => ⟨?_, hpart c hc⟩⟩
    have hslot : t.slot c = (forEach slots8 emptySlot s).slot c := slot_congr hslots c
    exact (congrArg Ctx.st hslot).trans (hst c hc)
  · have hbeat : heartbeat s = s.modMp fun p => { p with beat := s.now } := if_pos ⟨hmode, hready, hheld⟩
    exact (powered_eq hon hbeat).trans rfl

end Sys2Proof.Laws
end

section
/-!
SUPPORT. Serving a command (R414, R417, R419): the checks of its format and state, and how its effect reaches the mailbox, at
once or in the opening band.
-/

namespace Sys2Proof.Laws

open Machine

/-! ### What a response leaves -/

section
variable (s : State) (m status : Nat) (payload : List Byte)

@[simp] theorem tub_respond : (s.respond m status payload).tub = s.tub := by
  obtain ⟨_, _, h⟩ := respond_frame s m status payload; rw [h]
@[simp] theorem stroke_respond : (s.respond m status payload).stroke = s.stroke := by
  obtain ⟨_, _, h⟩ := respond_frame s m status payload; rw [h]
@[simp] theorem ghl_respond : (s.respond m status payload).ghl = s.ghl := by
  obtain ⟨_, _, h⟩ := respond_frame s m status payload; rw [h]
@[simp] theorem mp_respond : (s.respond m status payload).mp = s.mp := by
  obtain ⟨_, _, h⟩ := respond_frame s m status payload; rw [h]
@[simp] theorem mem_respond : (s.respond m status payload).mem = s.mem := by
  obtain ⟨_, _, h⟩ := respond_frame s m status payload; rw [h]
@[simp] theorem bypass_respond : (s.respond m status payload).bypass = s.bypass := by
  obtain ⟨_, _, h⟩ := respond_frame s m status payload; rw [h]
@[simp] theorem power_respond : (s.respond m status payload).power = s.power := by
  obtain ⟨_, _, h⟩ := respond_frame s m status payload; rw [h]
@[simp] theorem tubMem_respond : (s.respond m status payload).tubMem = s.tubMem := by
  obtain ⟨_, _, h⟩ := respond_frame s m status payload; rw [h]
@[simp] theorem stackMem_respond : (s.respond m status payload).stackMem = s.stackMem := by
  obtain ⟨_, _, h⟩ := respond_frame s m status payload; rw [h]
@[simp] theorem hostMem_respond : (s.respond m status payload).hostMem = s.hostMem := by
  obtain ⟨_, _, h⟩ := respond_frame s m status payload; rw [h]

@[simp] theorem st_respond (c : Nat) : ((s.respond m status payload).slot c).st = (s.slot c).st :=
  slot_respond_view Ctx.st (fun _ _ => rfl) s m status payload c
@[simp] theorem pages_respond (c : Nat) : ((s.respond m status payload).slot c).pages = (s.slot c).pages :=
  slot_respond_view Ctx.pages (fun _ _ => rfl) s m status payload c
@[simp] theorem holds_respond (c : Nat) : ((s.respond m status payload).slot c).holds = (s.slot c).holds :=
  slot_respond_view Ctx.holds (fun _ _ => rfl) s m status payload c
@[simp] theorem img_respond (c : Nat) : ((s.respond m status payload).slot c).img = (s.slot c).img :=
  slot_respond_view Ctx.img (fun _ _ => rfl) s m status payload c
@[simp] theorem armed_respond (c : Nat) : ((s.respond m status payload).slot c).armed = (s.slot c).armed :=
  slot_respond_view Ctx.armed (fun _ _ => rfl) s m status payload c

end

/-- A response changes no state, page or hold of a slot. -/
theorem sameContexts_respond (s : State) (m status : Nat) (payload : List Byte) :
    SameContexts s (s.respond m status payload) := fun d =>
  ⟨st_respond s m status payload d, pages_respond s m status payload d, holds_respond s m status payload d⟩

/-! ### Requests -/

/-- The request that a command starts from is the accepted one of its opcode. -/
theorem request_eq_some {s : State} {m op : Nat} {r : Request} (h : s.request m op = some r) :
    (s.mbx m).req = some r ∧ (s.mbx m).st = .accepted ∧ (s.mbx m).stage = .fresh ∧ r.opcode = op := by
  unfold State.request at h
  dsimp only at h
  split at h
  next q hreq =>
    split at h
    next hc => obtain rfl := Option.some.inj h; exact ⟨hreq, hc⟩
    next => exact absurd h (by simp)
  next => exact absurd h (by simp)

theorem settle_refuse (m : Nat) (r : Request) (s : State) (e : Nat) :
    settle m r s (.refuse e) = s.respond m e (refusalPayload r.opcode) := rfl
theorem settle_done (m : Nat) (r : Request) (s t : State) : settle m r s (.done t) = t.respond m 0 [] := rfl
theorem settle_wait (m : Nat) (r : Request) (s t : State) :
    settle m r s (.wait t) = t.modMbx m fun b => { b with stage := .busy } := rfl

theorem serveNow_of_request {s : State} {m op : Nat} {r : Request} (h : s.request m op = some r) :
    serveNow op m s = settle m r s (effect r s) := by
  unfold serveNow
  rw [h]

theorem serveNow_of_refuse {s : State} {m op e : Nat} {r : Request} (h : s.request m op = some r)
    (he : effect r s = .refuse e) : serveNow op m s = s.respond m e (refusalPayload r.opcode) := by
  rw [serveNow_of_request h, he, settle_refuse]

theorem serveNow_of_done {s t : State} {m op : Nat} {r : Request} (h : s.request m op = some r)
    (he : effect r s = .done t) : serveNow op m s = t.respond m 0 [] := by
  rw [serveNow_of_request h, he, settle_done]

theorem serveNow_of_wait {s t : State} {m op : Nat} {r : Request} (h : s.request m op = some r)
    (he : effect r s = .wait t) : serveNow op m s = t.modMbx m fun b => { b with stage := .busy } := by
  rw [serveNow_of_request h, he, settle_wait]

/-- The request as a command of the opening band serves it: OP_PEER_MAP fetches its map first. -/
def served (op : Nat) (s : State) (r : Request) : Request := if op = Op.peerMap then peerServe r s else r

theorem served_of_ne {op : Nat} (h : op ≠ Op.peerMap) (s : State) (r : Request) : served op s r = r := if_neg h

theorem serveBand_of_refuse {s : State} {m op e : Nat} {r : Request} (h : s.request m op = some r)
    (he : effect (served op s r) s = .refuse e) : serveBand op m s = s.respond m e [] := by
  unfold serveBand
  rw [h]
  unfold served at he
  dsimp only
  rw [he]

theorem serveBand_of_done {s t : State} {m op : Nat} {r : Request} (h : s.request m op = some r)
    (hmode : s.stroke.mode = 0) (he : effect (served op s r) s = .done t) : serveBand op m s = t.respond m 0 [] := by
  unfold serveBand
  rw [h]
  unfold served at he
  dsimp only
  rw [he]
  exact if_pos hmode

theorem serveBand_of_wait {s t : State} {m op : Nat} {r : Request} (h : s.request m op = some r)
    (hmode : s.stroke.mode = 0) (he : effect (served op s r) s = .wait t) :
    serveBand op m s = t.modMbx m fun b => { b with stage := .busy } := by
  unfold serveBand
  rw [h]
  unfold served at he
  dsimp only
  rw [he]
  exact if_pos hmode

/-- With Strokes a command of the opening band that is not refused waits for the band (R414). -/
theorem serveBand_of_strokes {s : State} {m op : Nat} {r : Request} (h : s.request m op = some r)
    (hmode : s.stroke.mode ≠ 0) (he : ∀ e, effect (served op s r) s ≠ .refuse e) :
    serveBand op m s = s.modMbx m fun b => { b with stage := .band, req := some (served op s r) } := by
  unfold serveBand
  rw [h]
  unfold served at he ⊢
  dsimp only
  split
  next e hr => exact absurd hr (he e)
  next => exact if_neg hmode

/-- A command that serves at once and answers. -/
theorem answered_powered {s x t : State} {m status : Nat} {payload : List Byte} (hon : s.power.on = true)
    (h : x = t.respond m status payload) : ∃ u, powered s x = .next u ∧ Answered u m status payload ∧
      u = s.effectOf (t.respond m status payload) :=
  ⟨_, powered_eq hon h, answered_respond t m status payload, rfl⟩

/-! ### Checks -/

theorem bare_of_ne {r : Request} (h : r.opcode ≠ Op.peerMap) : r.bare = r := by
  unfold Request.bare
  rw [if_neg h]

/-- The opcodes of slot commands other than OP_PEER_MAP. -/
def plainSlotOp (op : Nat) : Bool := op != Op.domain && op != Op.admission && op != Op.peerMap

theorem effect_of_check {r : Request} {c : Nat} {s : State} (hop : plainSlotOp r.opcode = true)
    (h : slotCheck r s = .ok c) : effect r s = slotEffect r c s := by
  simp only [plainSlotOp, Bool.and_eq_true, bne_iff_ne, ne_eq] at hop
  obtain ⟨⟨hd, ha⟩, hp⟩ := hop
  unfold effect
  rw [if_neg hd, if_neg ha, bare_of_ne hp, h]

theorem effect_of_refused {r : Request} {e : Nat} {s : State} (hd : r.opcode ≠ Op.domain) (ha : r.opcode ≠ Op.admission)
    (h : slotCheck r.bare s = .error e) : effect r s = .refuse e := by
  unfold effect
  rw [if_neg hd, if_neg ha, h]

/-- The effect of a command that passes the checks of R417 and R419. -/
theorem effect_of_serves {s : State} {m op c : Nat} {r : Request} (h : Serves s m op r c) (hop : plainSlotOp op = true) :
    effect r s = slotEffect r c s := by
  obtain ⟨-, hr, hcheck⟩ := h
  obtain ⟨-, -, -, rfl⟩ := request_eq_some hr
  exact effect_of_check hop hcheck

theorem slot_of_serves {s : State} {m op c : Nat} {r : Request} (h : Serves s m op r c) : c < 8 ∧ r.slot = some c := by
  obtain ⟨-, -, hcheck⟩ := h
  unfold slotCheck at hcheck
  split at hcheck
  · cases hcheck
  next d hslot =>
    split at hcheck
    · cases hcheck
    next hd =>
      split at hcheck
      · cases hcheck
      · cases hcheck
        exact ⟨by omega, hslot⟩

/-! ### The opening band -/

theorem bandCmd_of_waits {s : State} {m op c : Nat} {r : Request} (h : WaitsForBand s m op r c)
    (hst : (s.slot c).st ≠ .empty) : bandCmd m s = settle m r s (slotEffect r c s) := by
  obtain ⟨hacc, hstage, hreq, -, hslot⟩ := h
  unfold bandCmd
  dsimp only
  rw [hreq]
  dsimp only
  rw [if_pos ⟨hacc, hstage⟩]
  unfold bandEffect
  rw [hslot]
  dsimp only
  rw [if_neg (fun h => hst h.1)]

end Sys2Proof.Laws
end

section
/-!
SUPPORT. Slot commands: their refusals (R417, R419), OP_UNLOAD and OP_RELEASE (R425, R427), and the commands that wait for the
opening band (R414).
-/

namespace Sys2Proof.Laws

open Machine

/-! ### Refusals -/

/-- The slot commands that act in an opening band. -/
def actsInBand (op : Nat) : Bool :=
  [Op.unload, Op.release, Op.save, Op.pageMap, Op.pageUnmap, Op.watch, Op.decide, Op.feed, Op.peerMap].elem op

/-- How each row of Table 13.3 that names a slot is served. -/
theorem exec_slotRow {e : SlotRow} (he : e ∈ slotRows) (m : Mbox) (s : State) : exec (e.cmd m) s =
    powered s (if actsInBand e.op then serveBand e.op m.val s else serveNow e.op m.val s) := by
  revert e
  simp only [slotRows, List.cons_append, List.nil_append, List.forall_mem_cons]
  exact ⟨rfl, rfl, rfl, rfl, rfl, rfl, rfl, rfl, rfl, rfl, rfl, rfl, rfl, rfl, rfl, fun _ h => absurd h List.not_mem_nil⟩

/-- The payload of a refusal is that of the table's row. -/
theorem refused_slotRow {e : SlotRow} (he : e ∈ slotRows) :
    e.refused = if actsInBand e.op then [] else refusalPayload e.op := by
  revert e
  decide

theorem op_slotRow {e : SlotRow} (he : e ∈ slotRows) :
    e.op ≠ Op.domain ∧ e.op ≠ Op.admission ∧ (e.op = Op.peerMap → actsInBand e.op = true) := by
  revert e
  decide

/-- The bytes that a row of Table 13.5 names. -/
theorem fields_slotRow {e : SlotRow} (he : e ∈ slotRows) (i : Nat) :
    (∀ f ∈ e.fields, i < f.1 ∨ f.1 + f.2 ≤ i) ↔ ∀ f ∈ fieldsOf e.op, i < f.1 ∨ f.1 + f.2 ≤ i := by
  have key : ∀ e ∈ slotRows, (e.fields, fieldsOf e.op) ∈ [([(8, 16)], [(8, 8), (16, 4), (20, 4)]),
      ([(8, 12)], [(8, 8), (16, 4)]), ([(1, 4), (8, 20)], [(1, 4), (8, 8), (16, 8), (24, 4)]),
      ([(1, 4), (8, 24)], [(1, 4), (8, 8), (16, 8), (24, 8)]),
      ([(8, 8), (16, 8), (24, 6)], [(8, 8), (16, 4), (20, 2), (22, 2), (24, 6)])] ∨ e.fields = fieldsOf e.op := by
    decide
  rcases key e he with h | h
  · simp only [List.mem_cons, Prod.mk.injEq, List.not_mem_nil, or_false] at h
    rcases h with ⟨h₁, h₂⟩ | ⟨h₁, h₂⟩ | ⟨h₁, h₂⟩ | ⟨h₁, h₂⟩ | ⟨h₁, h₂⟩ <;> rw [h₁, h₂] <;>
      simp only [List.forall_mem_cons, List.not_mem_nil, false_imp_iff, implies_true, and_true] <;> omega
  · rw [h]

/-- A payload byte is set that the command does not name (R419). -/
theorem only_eq_false_iff (r : Request) (fs : List (Nat × Nat)) : r.only fs = false ↔
    ∃ i, 0 < i ∧ i < r.payload.length ∧ (∀ f ∈ fs, i < f.1 ∨ f.1 + f.2 ≤ i) ∧ r.payload.getD i 0 ≠ 0 := by
  unfold Request.only
  simp only [List.all_eq_false, List.mem_range, Bool.or_eq_true, beq_iff_eq, List.any_eq_true, Bool.and_eq_true,
    decide_eq_true_eq, not_or, not_exists, not_and]
  constructor
  · rintro ⟨i, hi, ⟨h0, hf⟩, hb⟩
    exact ⟨i, Nat.pos_of_ne_zero h0, hi, fun f hm => by have := hf f hm; omega, hb⟩
  · rintro ⟨i, h0, hi, hf, hb⟩
    exact ⟨i, hi, ⟨by omega, fun f hm => by have := hf f hm; omega⟩, hb⟩

theorem reservedSet_iff {e : SlotRow} (he : e ∈ slotRows) (r : Request) :
    e.reservedSet r ↔ r.only (fieldsOf e.op) = false := by
  rw [only_eq_false_iff]
  unfold SlotRow.reservedSet
  simp only [fields_slotRow he]

/-- The states that a row of Table 13.3 omits; OP_RELEASE of a stopped context is refused too (R425). -/
theorem stateOk_slotRow {e : SlotRow} (he : e ∈ slotRows) {x : Ctx}
    (h : x.st ∉ e.states ∨ (e.op = Op.release ∧ x.stopped = true)) : stateOk e.op x = false := by
  revert e
  simp only [slotRows, List.cons_append, List.nil_append, List.forall_mem_cons, List.not_mem_nil, false_imp_iff,
    implies_true, and_true]
  unfold stateOk
  cases x.st <;> simp [Op.load, Op.start, Op.unload, Op.release, Op.save, Op.restore, Op.reshard, Op.resume, Op.pageMap,
    Op.pageUnmap, Op.copy, Op.watch, Op.decide, Op.feed, Op.peerMap]

theorem slotCheck_of_format {r : Request} {s : State}
    (h : ∀ c, r.slot = some c → 8 ≤ c ∨ r.only (fieldsOf r.opcode) = false) : slotCheck r s = .error 0x0802 := by
  unfold slotCheck
  split
  next => rfl
  next c hc => rw [if_pos (h c hc)]; rfl

theorem slotCheck_of_state {r : Request} {s : State} {c : Nat} (hslot : r.slot = some c) (hc : c < 8)
    (honly : r.only (fieldsOf r.opcode) = true) (hst : stateOk r.opcode (s.slot c) = false) :
    slotCheck r s = .error 0x0805 := by
  unfold slotCheck
  rw [hslot]
  dsimp only
  rw [if_neg (by rw [honly]; simp; omega), if_pos (.inl hst)]
  rfl

/-- The map that OP_PEER_MAP fetches is no part of what is checked. -/
theorem bare_served {s : State} {r : Request} {op : Nat} (hop : r.opcode = op)
    (hlen : op = Op.peerMap → r.payload.length = 24) : (served op s r).bare = r := by
  subst hop
  by_cases hp : r.opcode = Op.peerMap
  · have htake : r.payload.take 24 = r.payload := List.take_of_length_le (hlen hp).le
    have happ : ∀ bs, (r.payload ++ bs).take 24 = r.payload := fun bs => by
      rw [List.take_append_of_le_length (hlen hp).ge, htake]
    have hbare : ∀ q : Request, q.opcode = Op.peerMap → q.bare = { q with payload := q.payload.take 24 } := fun q hq => by
      unfold Request.bare
      rw [if_pos hq]
    unfold served peerServe
    rw [if_pos hp]
    split
    · rw [hbare r hp, htake]
    · refine (hbare { r with payload := r.payload ++ s.rdHost (r.num 8 8) 4096 } hp).trans ?_
      dsimp only
      rw [happ]
  · rw [served_of_ne hp, bare_of_ne hp]

theorem opcode_served (op : Nat) (s : State) (r : Request) : (served op s r).opcode = r.opcode := by
  unfold served peerServe
  split
  · split <;> rfl
  · rfl

/-- A slot command whose checks fail answers the code, and the contexts stay. -/
theorem exec_slotRow_refused {e : SlotRow} (he : e ∈ slotRows) {m : Mbox} {s : State} {r : Request} {code : Nat}
    (hon : s.power.on = true) (hr : s.request m e.op = some r) (hlen : e.op = Op.peerMap → r.payload.length = 24)
    (hc : slotCheck r s = .error code) :
    ∃ u, exec (e.cmd m) s = .next u ∧ Answered u m code e.refused ∧ SameContexts s u := by
  obtain ⟨-, -, -, hop⟩ := request_eq_some hr
  obtain ⟨hd, ha, hpeer⟩ := op_slotRow he
  refine ⟨s.effectOf (s.respond m code e.refused), ?_, answered_respond _ _ _ _, sameContexts_respond _ _ _ _⟩
  rw [exec_slotRow he, powered_on _ hon, refused_slotRow he]
  have hbare : slotCheck (served e.op s r).bare s = .error code := by rw [bare_served hop hlen]; exact hc
  have hrefuse : effect (served e.op s r) s = .refuse code :=
    effect_of_refused (by rw [opcode_served, hop]; exact hd) (by rw [opcode_served, hop]; exact ha) hbare
  split
  next => rw [serveBand_of_refuse hr hrefuse]
  next hnow =>
    rw [served_of_ne (fun h => hnow (hpeer h))] at hrefuse
    rw [serveNow_of_refuse hr hrefuse, hop]

/-! ### OP_UNLOAD -/

theorem slot_vacated_pages (c : Nat) (keep : Page → Bool) (s : State) :
    ((vacated c keep s).slot c).pages = (s.slot c).pages.filter fun e => keep e.2 := by
  have hvac : (vacated c keep s).slot c =
      (releasePages c (fun p => !keep p) (releaseShares c (partitionRelease c s))).slot c := by
    unfold vacated
    exact slot_congr ((slots_releaseSeq _ _).trans (slots_dropXlat _ _)) c
  have hshares : ((releaseShares c (partitionRelease c s)).slot c).pages = (s.slot c).pages := by
    unfold releaseShares
    rw [slot_modSlot, slot_congr (slots_partitionRelease c s) c]
  rw [hvac, slot_releasePages, hshares]
  simp only [Bool.not_not]

theorem img_removedCtx (x : Ctx) : (removedCtx x).img = none := rfl
theorem pages_removedCtx (x : Ctx) : (removedCtx x).pages = x.pages := rfl

theorem img_removeCtx (c : Nat) (keep : Page → Bool) (s : State) : ((removeCtx c keep s).slot c).img = none := by
  rw [removeCtx_eq, slot_setCtx_view Ctx.img (fun _ => rfl), img_removedCtx]

/-- The pages that a removed context keeps. -/
theorem pages_removeCtx (c : Nat) (keep : Page → Bool) (s : State) :
    ((removeCtx c keep s).slot c).pages = (s.slot c).pages.filter fun e => keep e.2 := by
  rw [removeCtx_eq, slot_setCtx_view Ctx.pages (fun _ => rfl), pages_removedCtx, slot_vacated_pages]

theorem tub_of_bystanders {s t : State} (h : bystanders t = bystanders s) : t.tub = s.tub := (congrArg State.tub h :)

theorem tub_setCtx (s : State) (c : Nat) (f : Ctx → Ctx) : (s.setCtx c f).tub = s.tub :=
  tub_of_bystanders (bystanders_setCtx s c f)

theorem tub_releasePages (c : Nat) (drop : Page → Bool) (s : State) : (releasePages c drop s).tub = s.tub := by
  unfold releasePages
  extract_lets x t
  have ht : t.tub = s.tub := forEach_view State.tub (f := fun (e : Nat × Page) s =>
    freePage e.2.stack (e.2.addr / pageBig) s) (fun _ _ => rfl) _ s
  exact ht

theorem tub_vacated (c : Nat) (keep : Page → Bool) (s : State) : (vacated c keep s).tub = (partitionRelease c s).tub := by
  have h := tub_releasePages c (fun p => !keep p) (releaseShares c (partitionRelease c s))
  unfold vacated
  generalize releasePages c (fun p => !keep p) (releaseShares c (partitionRelease c s)) = t at h ⊢
  exact h

theorem part_congr {s t : State} (h : t.tub = s.tub) (c : Nat) : t.part c = s.part c := by
  unfold State.part
  rw [h]

/-- With no Strokes the partition of a removed context is free at once (R200). -/
theorem part_removeCtx {c : Nat} {s : State} (keep : Page → Bool) (hmode : s.stroke.mode = 0) :
    (removeCtx c keep s).part c = TubPart.none := by
  have hrel : partitionRelease c s = partitionClear c s := if_pos (.inl hmode)
  have htub : (removeCtx c keep s).tub = (partitionClear c s).tub := by
    rw [removeCtx_eq, tub_setCtx, tub_vacated, hrel]
  rw [part_congr htub, part_partitionClear]

/-- The effect of OP_UNLOAD on a context that does not run, and on one that does (R427). -/
theorem slotEffect_unload_idle {r : Request} {s : State} {c : Nat} (hop : r.opcode = Op.unload)
    (hst : (s.slot c).st ≠ .running) : slotEffect r c s = .done (removeCtx c (fun _ => false) s) := by
  unfold slotEffect
  rw [hop]
  exact if_neg hst

/-- A running context stopped for its unload. -/
def stopForUnload (c : Nat) (s : State) : State :=
  s.setCtx c fun x => { x with st := .held, stopped := true, unload := true, att := { x.att with on := false } }

theorem slotEffect_unload_running {r : Request} {s : State} {c : Nat} (hop : r.opcode = Op.unload)
    (hst : (s.slot c).st = .running) : slotEffect r c s = .wait (stopForUnload c s) := by
  have hstep : unloadStep c s = stopForUnload c s := if_pos hst
  unfold slotEffect
  rw [hop, ← hstep]
  exact if_pos hst

theorem slot_stopForUnload (c : Nat) (s : State) : ((stopForUnload c s).slot c).st = .held ∧
    ((stopForUnload c s).slot c).stopped = true ∧ ((stopForUnload c s).slot c).unload = true :=
  ⟨slot_setCtx_view Ctx.st (fun _ => rfl) s c _, slot_setCtx_view Ctx.stopped (fun _ => rfl) s c _,
    slot_setCtx_view Ctx.unload (fun _ => rfl) s c _⟩

/-- What an answered OP_UNLOAD leaves of its slot. -/
theorem unloaded_respond (s : State) (m c : Nat) :
    (((removeCtx c (fun _ => false) s).respond m 0 []).slot c).st = .empty ∧
      (((removeCtx c (fun _ => false) s).respond m 0 []).slot c).img = none ∧
      (((removeCtx c (fun _ => false) s).respond m 0 []).slot c).pages = [] := by
  refine ⟨?_, ?_, ?_⟩
  · rw [st_respond, st_removeCtx]
  · rw [img_respond, img_removeCtx]
  · rw [pages_respond, pages_removeCtx, List.filter_eq_nil_iff]
    simp

/-! ### OP_RELEASE -/

/-- A slot after OP_RELEASE (R275, R425). -/
def releasedCtx (x : Ctx) : Ctx :=
  { x with holds := x.holds &&& 0b110000#6, fault := .zero, press := { x.press with r297 := false } }

theorem slotEffect_release {r : Request} (hop : r.opcode = Op.release) (c : Nat) (s : State) :
    slotEffect r c s = .done (s.modSlot c releasedCtx) := by
  unfold slotEffect
  rw [hop]
  rfl

/-- The hold causes 9 and 10 stand, bits 4 and 5; those from 5 to 8 go (Table 13.8). -/
theorem getLsbD_released (h : BitVec 6) {i : Nat} (hi : i < 6) :
    (h &&& 0b110000#6).getLsbD i = (decide (4 ≤ i) && h.getLsbD i) := by
  rw [BitVec.getLsbD_and, Bool.and_comm]
  congr 1
  revert i
  decide

theorem released_respond (s : State) (m c : Nat) :
    (((s.modSlot c releasedCtx).respond m 0 []).slot c).st = (s.slot c).st ∧ ∀ i, i < 6 →
      (((s.modSlot c releasedCtx).respond m 0 []).slot c).holds.getLsbD i = (decide (4 ≤ i) && (s.slot c).holds.getLsbD i) := by
  refine ⟨?_, fun i hi => ?_⟩
  · rw [st_respond, slot_modSlot]; rfl
  · rw [holds_respond, slot_modSlot]; exact getLsbD_released _ hi

/-! ### Commands of the opening band -/

/-- With Strokes the commands that act in the opening band wait for it. -/
theorem exec_waitsForBand {m : Mbox} {s : State} {r : Request} {op : Nat} {i : Instr} (hon : s.power.on = true)
    (hi : exec i s = powered s (serveBand op m.val s)) (hop : op ≠ Op.peerMap) (hr : s.request m op = some r)
    (he : ∀ e, effect r s ≠ .refuse e) (hmode : s.stroke.mode ≠ 0) :
    exec i s = .next (s.modMbx m fun b => { b with stage := .band, req := some r }) := by
  rw [hi, powered_on _ hon, serveBand_of_strokes hr hmode (by rw [served_of_ne hop]; exact he), served_of_ne hop,
    effectOf_modMbx]

/-- OP_UNLOAD with no Strokes of a context that does not run (R427). -/
theorem exec_opUnload_idle {m : Mbox} {s : State} {r : Request} {c : Nat} (h : Serves s m Op.unload r c)
    (hmode : s.stroke.mode = 0) (hst : (s.slot c).st ≠ .running) : ∃ u, exec (.opUnload m) s = .next u ∧ Answered u m 0 [] ∧
      (u.slot c).st = .empty ∧ (u.slot c).img = none ∧ (u.slot c).pages = [] ∧ u.part c = TubPart.none := by
  have heff := effect_of_serves h rfl
  obtain ⟨hon, hr, -⟩ := h
  obtain ⟨-, -, -, hop⟩ := request_eq_some hr
  obtain ⟨hst', himg, hpages⟩ := unloaded_respond s m c
  have hpart := part_removeCtx (c := c) (s := s) (fun _ => false) hmode
  refine ⟨_, powered_eq hon (serveBand_of_done hr hmode (heff.trans (slotEffect_unload_idle hop hst))),
    answered_congr (effectOf_mbx _ _ _) (answered_respond _ _ _ _), ?_⟩
  rw [effectOf_slot]
  refine ⟨hst', himg, hpages, ?_⟩
  rw [part_congr (effectOf_tub _ _), part_congr (tub_respond _ _ _ _), hpart]

/-- OP_UNLOAD with no Strokes of a context that runs (R427). -/
theorem exec_opUnload_running {m : Mbox} {s : State} {r : Request} {c : Nat} (h : Serves s m Op.unload r c)
    (hmode : s.stroke.mode = 0) (hst : (s.slot c).st = .running) : ∃ u, exec (.opUnload m) s = .next u ∧
      (u.mbx m).stage = .busy ∧ (u.slot c).st = .held ∧ (u.slot c).stopped = true ∧ (u.slot c).unload = true := by
  have heff := effect_of_serves h rfl
  obtain ⟨hon, hr, -⟩ := h
  obtain ⟨-, -, -, hop⟩ := request_eq_some hr
  refine ⟨_, powered_eq hon (serveBand_of_wait hr hmode (heff.trans (slotEffect_unload_running hop hst))), ?_⟩
  rw [effectOf_mbx, effectOf_slot, slot_modMbx, mbx_modMbx]
  exact ⟨rfl, slot_stopForUnload c s⟩

/-- An unload is not refused. -/
theorem effect_unload_ne_refuse {m c : Nat} {s : State} {r : Request} (h : Serves s m Op.unload r c) (e : Nat) :
    effect r s ≠ .refuse e := by
  rw [effect_of_serves h rfl]
  obtain ⟨-, -, -, hop⟩ := request_eq_some h.2.1
  by_cases hst : (s.slot c).st = .running
  · rw [slotEffect_unload_running hop hst]; exact CmdRes.noConfusion
  · rw [slotEffect_unload_idle hop hst]; exact CmdRes.noConfusion

theorem effect_release {m c : Nat} {s : State} {r : Request} (h : Serves s m Op.release r c) :
    effect r s = .done (s.modSlot c releasedCtx) := by
  rw [effect_of_serves h rfl]
  obtain ⟨-, -, -, hop⟩ := request_eq_some h.2.1
  exact slotEffect_release hop c s

/-- Settles O18: a refused command is one response; unload and release go through their effect, which the band applies as the
command with no Strokes does. -/
theorem refusalsUnloadAndRelease : Obligations.RefusalsUnloadAndRelease := by
  unfold Obligations.RefusalsUnloadAndRelease
  refine ⟨fun e he m s r hon hr hlen => ⟨fun h => ?_, fun c hslot hc hres hst => ?_⟩,
    fun m s r c hserves => ⟨exec_opUnload_idle hserves, exec_opUnload_running hserves, fun hmode => ?_⟩,
    fun m s r c hserves => ⟨fun hmode => ?_, fun hmode => ?_⟩, fun m s r c hw => ⟨fun hne hnr => ?_, fun hrun => ?_⟩,
    fun m s r c hw hst => ?_, fun m s r op i hon hi hr he hmode => ?_⟩
  · obtain ⟨-, -, -, hop⟩ := request_eq_some hr
    refine exec_slotRow_refused he hon hr hlen (slotCheck_of_format fun c hslot => ?_)
    rw [hop, ← reservedSet_iff he]
    exact h c hslot
  · obtain ⟨-, -, -, hop⟩ := request_eq_some hr
    rw [reservedSet_iff he, Bool.not_eq_false, ← hop] at hres
    exact exec_slotRow_refused he hon hr hlen
      (slotCheck_of_state hslot hc hres (by rw [hop]; exact stateOk_slotRow he hst))
  · exact exec_waitsForBand hserves.1 rfl (by decide) hserves.2.1 (effect_unload_ne_refuse hserves) hmode
  · refine ⟨_, powered_eq hserves.1 (serveBand_of_done hserves.2.1 hmode (effect_release hserves)),
      answered_congr (effectOf_mbx _ _ _) (answered_respond _ _ _ _), ?_⟩
    rw [effectOf_slot]
    exact released_respond s m c
  · refine exec_waitsForBand hserves.1 rfl (by decide) hserves.2.1 (fun e he => ?_) hmode
    rw [effect_release hserves] at he
    cases he
  · have hop : r.opcode = Op.unload := hw.2.2.2.1
    rw [bandCmd_of_waits hw hne, slotEffect_unload_idle hop hnr, settle_done]
    exact ⟨answered_respond _ _ _ _, unloaded_respond s m c⟩
  · have hop : r.opcode = Op.unload := hw.2.2.2.1
    rw [bandCmd_of_waits hw (by rw [hrun]; decide), slotEffect_unload_running hop hrun, settle_wait]
    rw [mbx_modMbx, slot_modMbx]
    exact ⟨rfl, slot_stopForUnload c s⟩
  · have hop : r.opcode = Op.release := hw.2.2.2.1
    rw [bandCmd_of_waits hw hst, slotEffect_release hop, settle_done]
    exact ⟨answered_respond _ _ _ _, released_respond s m c⟩
  · simp only [List.mem_cons, Prod.mk.injEq, List.not_mem_nil, or_false] at hi
    rcases hi with ⟨rfl, rfl⟩ | ⟨rfl, rfl⟩ | ⟨rfl, rfl⟩ | ⟨rfl, rfl⟩ | ⟨rfl, rfl⟩ | ⟨rfl, rfl⟩ | ⟨rfl, rfl⟩ | ⟨rfl, rfl⟩ <;>
      exact exec_waitsForBand hon rfl (by decide) hr he hmode

end Sys2Proof.Laws
end

section
/-!
SUPPORT. Records: what the MP's logs and counts, the events, and the memory controllers' own books write (R269, R271, R415,
R440, R453, R465, R470).
-/

namespace Sys2Proof.Laws

open Machine

/-- The state without what records write: the MP, the Hamper, host memory, the memory controllers' books and registers, and
the count of the values left open. -/
def offRecords (s : State) : State :=
  { s with freeCtr := 0, hamper := .reset, mp := .factory, mem := .reset, str := .reset, hostMem := [] }

section
variable {s t : State} (h : offRecords t = offRecords s)
include h

theorem slots_of_offRecords : t.slots = s.slots := (congrArg State.slots h :)
theorem stroke_of_offRecords : t.stroke = s.stroke := (congrArg State.stroke h :)
theorem power_of_offRecords : t.power = s.power := (congrArg State.power h :)
theorem ghl_of_offRecords : t.ghl = s.ghl := (congrArg State.ghl h :)
theorem tub_of_offRecords : t.tub = s.tub := (congrArg State.tub h :)
theorem mgl_of_offRecords : t.mgl = s.mgl := (congrArg State.mgl h :)
theorem tasks_of_offRecords : t.tasks = s.tasks := (congrArg State.tasks h :)
theorem bypass_of_offRecords : t.bypass = s.bypass := (congrArg State.bypass h :)
theorem seams_of_offRecords : t.seams = s.seams := (congrArg State.seams h :)
theorem tubMem_of_offRecords : t.tubMem = s.tubMem := (congrArg State.tubMem h :)
theorem stackMem_of_offRecords : t.stackMem = s.stackMem := (congrArg State.stackMem h :)
theorem now_of_offRecords : t.now = s.now := (congrArg State.now h :)
theorem slot_of_offRecords (c : Nat) : t.slot c = s.slot c := slot_congr (slots_of_offRecords h) c
theorem port_of_offRecords (p : Nat) : t.port p = s.port p := by
  unfold State.port; rw [ghl_of_offRecords h]

end

theorem HostOnly.offRecords {s t : State} (h : HostOnly s t) : offRecords t = offRecords s := by
  obtain ⟨_, _, rfl⟩ := h; rfl

@[simp] theorem offRecords_modMp (s : State) (f : Mp → Mp) : offRecords (s.modMp f) = offRecords s := rfl
@[simp] theorem offRecords_modHamper (s : State) (f : Hamper → Hamper) : offRecords (s.modHamper f) = offRecords s := rfl
@[simp] theorem offRecords_modMbx (s : State) (m : Nat) (f : Mailbox → Mailbox) : offRecords (s.modMbx m f) = offRecords s := rfl
@[simp] theorem offRecords_mem (s : State) (q : MemSys) : offRecords { s with mem := q } = offRecords s := rfl
@[simp] theorem offRecords_str (s : State) (q : StrRegs) : offRecords { s with str := q } = offRecords s := rfl
@[simp] theorem offRecords_freeCtr (s : State) (n : Nat) : offRecords { s with freeCtr := n } = offRecords s := rfl
@[simp] theorem offRecords_hostMem (s : State) (q : KV Byte) : offRecords { s with hostMem := q } = offRecords s := rfl
@[simp] theorem offRecords_note (s : State) (k : Nat) : offRecords (s.note k) = offRecords s := rfl
@[simp] theorem offRecords_log (s : State) (a b c : Nat) (d : W32) (e : BitVec 48) :
    offRecords (s.log a b c d e) = offRecords s := rfl
@[simp] theorem offRecords_originate (s : State) (o : Nat) (m : List Byte) : offRecords (s.originate o m) = offRecords s := rfl
@[simp] theorem offRecords_post (s : State) (m slot code kind : Nat) (arg : W32) :
    offRecords (s.post m slot code kind arg) = offRecords s := (hostOnly_post s m slot code kind arg).offRecords
@[simp] theorem offRecords_postCtx (s : State) (c code : Nat) (arg : W32) :
    offRecords (s.postCtx c code arg) = offRecords s := (hostOnly_postCtx s c code arg).offRecords

@[simp] theorem offRecords_platformEvent (s : State) (cls : Nat) (d : List Byte) :
    offRecords (s.platformEvent cls d) = offRecords s := by
  unfold State.platformEvent
  split
  · exact offRecords_originate s _ _
  · rfl

@[simp] theorem offRecords_postDev (s : State) (code : Nat) (arg : W32) :
    offRecords (s.postDev code arg) = offRecords s := by
  unfold State.postDev
  rw [offRecords_platformEvent, offRecords_post]

@[simp] theorem offRecords_trigger (s : State) (test : Nat) (u : W32) : offRecords (s.trigger test u) = offRecords s := by
  unfold State.trigger
  dsimp only
  split
  · rfl
  · split <;> simp

@[simp] theorem offRecords_settleHealth (s : State) : offRecords s.settleHealth = offRecords s := by
  unfold State.settleHealth
  dsimp only
  split
  · rfl
  · simp

@[simp] theorem offRecords_retire (s : State) : offRecords s.retire = offRecords s := by
  unfold State.retire
  split
  · rfl
  · simp

theorem offRecords_rollChanges (s : State) : offRecords (rollChanges s) = offRecords s := by
  unfold rollChanges
  dsimp only
  split <;> simp

/-- A change record is a record (R470). -/
@[simp] theorem offRecords_change (s : State) (a b c d : Nat) (o n : List Byte) :
    offRecords (s.change a b c d o n) = offRecords s := by
  have hchain : offRecords s.chain.2 = offRecords s := by
    unfold State.chain
    split <;> rfl
  unfold State.change
  dsimp only
  rw [offRecords_rollChanges, offRecords_modMp, hchain]

@[simp] theorem offRecords_changeTo (s t : State) (a b c d : Nat) : offRecords (s.changeTo t a b c d) = offRecords t :=
  offRecords_change t _ _ _ _ _ _

@[simp] theorem offRecords_triggerMem (j off : Nat) (s : State) : offRecords (triggerMem j off s) = offRecords s :=
  offRecords_trigger s _ _

@[simp] theorem offRecords_retirePage (j off : Nat) (s : State) : offRecords (retirePage j off s) = offRecords s := by
  unfold retirePage
  dsimp only
  split
  · rfl
  · split
    · split <;> simp
    · simp

/-- A read's outcome is counted and recorded in the books alone (R269). -/
theorem offRecords_readOutcome (j off q : Nat) (o : EccOutcome) (stored : Bool) (s : State) :
    offRecords (readOutcome j off q o stored s).2 = offRecords s := by
  have hstored : ∀ e, offRecords (if stored then { s with mem := { s.mem with err := e } } else s) = offRecords s := by
    intro e
    split <;> rfl
  unfold readOutcome
  dsimp only
  generalize (KV.set 0 s.mem.err _ _ : KV Nat) = e
  generalize ht : (if stored then { s with mem := { s.mem with err := e } } else s : State) = t
  have h : offRecords t = offRecords s := ht ▸ hstored e
  generalize (storedErr t j off 2 ++ if o = EccOutcome.uncorrectable then [q] else []) = ue
  generalize (storedErr t j off 1 ++ if o = EccOutcome.correctable then [q] else []) = ce
  split
  · exact (offRecords_str t _).trans h
  · split
    · split
      · exact h
      · dsimp only
        split
        · exact (offRecords_retirePage j off _).trans h
        · exact h
    · dsimp only
      rw [offRecords_retirePage, offRecords_triggerMem]
      exact h

theorem offRecords_readBlocks (x : Ctx) (va n : Nat) (s : State) : offRecords (readBlocks x va n s) = offRecords s :=
  forEach_view offRecords (fun _ _ => offRecords_readOutcome _ _ _ _ _ _) _ s

end Sys2Proof.Laws
end

section
/-!
SUPPORT. Placement of an image and the commands that place or arm one: OP_LOAD, OP_START (R238, R426), OP_RESHARD (R393) and
OP_RESUME (R398).
-/

namespace Sys2Proof.Laws

open Machine

/-! ### Numbers of a payload -/

theorem leNat_lt (l : List Byte) : leNat l < 256 ^ l.length := by
  induction l with
  | nil => simp [leNat]
  | cons b l ih =>
    have hb := b.isLt
    rw [leNat, List.length_cons, Nat.pow_succ]
    omega

/-- A field of `n` bytes of a payload is below 256 ^ n. -/
theorem num_lt (r : Request) (off n : Nat) : r.num off n < 256 ^ n :=
  (leNat_lt _).trans_le (Nat.pow_le_pow_right (by decide) (by simp))

/-! ### Placement -/

theorem slots_takePages (j n : Nat) (s : State) : (takePages j n s).2.slots = s.slots := rfl
theorem slots_zeroPage (j p : Nat) (s : State) : (zeroPage j p s).slots = s.slots := rfl

theorem slots_zeroPages (j : Nat) (ps : List Nat) (s : State) : (forEach ps (zeroPage j) s).slots = s.slots :=
  forEach_view State.slots (fun p s => slots_zeroPage j p s) ps s

/-- A region takes pages: nothing else of the slots changes (R257). -/
theorem slot_placeRegion {β : Type} (P : Ctx → β) (hP : ∀ x p, P { x with pages := p } = P x) (c : Nat) (g : Region)
    (s : State) : P ((placeRegion c g s).slot c) = P (s.slot c) := by
  unfold placeRegion
  split
  · rfl
  · dsimp only
    rw [slot_modSlot, hP, slot_congr (slots_zeroPages _ _ _), slot_congr (slots_takePages _ _ _)]

theorem slots_fetchRead (c i : Nat) (ue : Bool) (s : State) : (fetchRead c i ue s).2.slots = s.slots := by
  have hread : (match strokeSpan s (s.slot c) i with
      | some (va, n) => readBlocks (s.slot c) va n s
      | none => s).slots = s.slots := by
    split
    · exact slots_of_offRecords (offRecords_readBlocks _ _ _ _)
    · rfl
  unfold fetchRead
  dsimp only
  split
  · exact hread
  · exact hread

/-- Fetching the halves changes the halves alone (R223). -/
theorem slot_fetchBoth {β : Type} (P : Ctx → β) (hP : ∀ x h k, P { x with cur := h, next := k } = P x) (c : Nat)
    (s : State) : P ((fetchBoth c s).slot c) = P (s.slot c) := by
  unfold fetchBoth
  dsimp only
  rw [slot_modSlot, hP, slot_congr (slots_fetchRead _ _ _ _), slot_congr (slots_fetchRead _ _ _ _)]

theorem placePress_headers_slot (d : Nat) (x : Ctx) (es : List (PanelDesc × GenEnt)) (s : State) :
    (forEach es (fun e s =>
      let s := s.wrVa x (e.1.slotVa e.2.gen.toNat) (slotHeader e.1 e.2.gen.toNat e.2.step.toNat)
      if e.1.frozen then s else s.wrVa x (e.1.slotVa (e.2.gen.toNat + 1)) (slotHeader e.1 0xFFFFFFFF 0)) s).slot d =
        s.slot d := by
  refine forEach_view (fun t => t.slot d) (fun e t => ?_) es s
  dsimp only
  split
  · exact wrVa_slot _ _ _ _ _
  · rw [wrVa_slot, wrVa_slot]

/-- The Press data of a context at placement: nothing else of the slot changes. -/
theorem slot_placePress {β : Type} (P : Ctx → β) (hP : ∀ x p, P { x with press := p } = P x) (c : Nat) (rd : ImgRd)
    (s : State) : P ((placePress c rd s).slot c) = P (s.slot c) := by
  unfold placePress
  split
  · rw [slot_modPress, hP]
  · dsimp only
    rw [slot_modPress, hP, placePress_headers_slot c, slot_modPress, hP]

/-- What a placed context shows: whether it is armed, its image's header and its epochs. -/
def imageOf (x : Ctx) : Bool × Option JobHdr × W32 × W32 := (x.armed, x.img, x.jobEpoch, x.layoutEpoch)

/-- A slot that is given its image (R238). -/
def assignedCtx (va : Nat) (rd : ImgRd) (job layout gen : W32) (x : Ctx) : Ctx :=
  { x with
    assigned := true, shares := imageShares rd, fetch := imageFetch rd, img := some (readHdr rd), imgVa := va
    panels := readPanels rd, regions := readRegions rd, jobEpoch := job, layoutEpoch := layout
    saveKib := BitVec.ofNat 32 (saveBytes (readHdr rd).rowBlocks (readHdr rd).lineCount / 1024), startMark := 0
    armed := false, stk := StkCtx.zero, feed := none, att := .none, pos := [], seqs := [], tileCmds := [], fault := .zero
    nfPending := 0, tileGen := gen
    ghlSelf := (match secOf? rd 8 with
      | some e => readLink rd e.off
      | none => LinkSec.none).self
    ghl := { CtxGhl.empty with link := match secOf? rd 8 with
      | some e => readLink rd e.off
      | none => LinkSec.none }
    watch := .cleared, resume := none, viaResume := false, unload := false, savedLines := [] }

/-- The end of a placement: the regions' pages, the Press data and the halves (R223, R257, R281). -/
def furnish (c : Nat) (rd : ImgRd) (s : State) : State :=
  fetchBoth c (placePress c rd (forEach (readRegions rd) (placeRegion c) s))

theorem placeImage_eq (c va : Nat) (rd : ImgRd) (job layout : W32) (s : State) :
    ∃ (t : State) (gen : W32), placeImage c va rd job layout s =
      (furnish c rd (t.modSlot c (assignedCtx va rd job layout gen))).setCtx c fun x =>
        { x with st := .loaded, stopped := false, holds := 0 } := by
  unfold placeImage
  exact ⟨_, _, rfl⟩

theorem imageOf_assignedCtx (va : Nat) (rd : ImgRd) (job layout gen : W32) (x : Ctx) :
    imageOf (assignedCtx va rd job layout gen x) = (false, some (readHdr rd), job, layout) := rfl

theorem imageOf_furnish (c : Nat) (rd : ImgRd) (s : State) : imageOf ((furnish c rd s).slot c) = imageOf (s.slot c) := by
  unfold furnish
  rw [slot_fetchBoth imageOf (fun _ _ _ => rfl), slot_placePress imageOf (fun _ _ => rfl)]
  exact forEach_view (fun t => imageOf (t.slot c)) (fun g t => slot_placeRegion imageOf (fun _ _ => rfl) c g t) _ s

/-- The slot of a placed image (R238). -/
theorem slot_placeImage (c va : Nat) (rd : ImgRd) (job layout : W32) (s : State) :
    ((placeImage c va rd job layout s).slot c).st = .loaded ∧
      ((placeImage c va rd job layout s).slot c).stopped = false ∧
      ((placeImage c va rd job layout s).slot c).holds = 0 ∧
      imageOf ((placeImage c va rd job layout s).slot c) = (false, some (readHdr rd), job, layout) := by
  obtain ⟨t, gen, ht⟩ := placeImage_eq c va rd job layout s
  have himg : imageOf ((furnish c rd (t.modSlot c (assignedCtx va rd job layout gen))).slot c) =
      (false, some (readHdr rd), job, layout) := by
    rw [imageOf_furnish, slot_modSlot, imageOf_assignedCtx]
  rw [ht]
  generalize furnish c rd (t.modSlot c (assignedCtx va rd job layout gen)) = t at himg ⊢
  exact ⟨slot_setCtx_view Ctx.st (fun _ => rfl) t c _, slot_setCtx_view Ctx.stopped (fun _ => rfl) t c _,
    slot_setCtx_view Ctx.holds (fun _ => rfl) t c _, (slot_setCtx_view imageOf (fun _ => rfl) t c _).trans himg⟩

/-! ### OP_LOAD and OP_START -/

theorem slotEffect_load {r : Request} (hop : r.opcode = Op.load) (c : Nat) (s : State) :
    slotEffect r c s = loadCmd r c s := by
  unfold slotEffect
  rw [hop, if_pos rfl]

theorem slotEffect_start {r : Request} (hop : r.opcode = Op.start) (c : Nat) (s : State) :
    slotEffect r c s = startCmd r c s := by
  unfold slotEffect
  rw [hop, if_neg (by decide), if_pos rfl]

theorem loadCmd_of_fits {r : Request} {c : Nat} {s : State} (hpre : imageInPreload s (s.slot c) (r.num 8 8) = true)
    (h : placeCheck s c (imgRd s (s.slot c) (r.num 8 8)) (pagesFree s) = none) :
    loadCmd r c s = .done (placeImage c (r.num 8 8) (imgRd s (s.slot c) (r.num 8 8)) (BitVec.ofNat 32 (r.num 16 4))
      (BitVec.ofNat 32 (r.num 20 4)) s) := by
  unfold loadCmd
  dsimp only
  rw [if_neg (by rw [hpre]; decide), h]

theorem loadCmd_of_check {r : Request} {c e : Nat} {s : State} (hpre : imageInPreload s (s.slot c) (r.num 8 8) = true)
    (h : placeCheck s c (imgRd s (s.slot c) (r.num 8 8)) (pagesFree s) = some e) : loadCmd r c s = .refuse e := by
  unfold loadCmd
  dsimp only
  rw [if_neg (by rw [hpre]; decide), h]

/-- A slot armed by OP_START (R426). -/
def armedCtx (mark : Nat) (x : Ctx) : Ctx := { x with armed := true, startMark := BitVec.ofNat 48 mark, viaResume := false }

theorem startCmd_of_ahead {r : Request} {c : Nat} {s : State} (hmode : s.stroke.mode ≠ 0) (harm : (s.slot c).armed = false)
    (h : s.stroke.mark.toNat + 1 < r.num 8 6) : startCmd r c s = .done (s.modSlot c (armedCtx (r.num 8 6))) := by
  unfold startCmd
  dsimp only
  rw [if_neg (by rw [harm]; exact fun h => h.elim hmode Bool.false_ne_true), if_neg (by omega)]
  rfl

theorem startCmd_of_late {r : Request} {c : Nat} {s : State} (hmode : s.stroke.mode ≠ 0) (harm : (s.slot c).armed = false)
    (h : r.num 8 6 ≤ s.stroke.mark.toNat + 1) : startCmd r c s = .refuse Code.ctxStartLate := by
  unfold startCmd
  dsimp only
  rw [if_neg (by rw [harm]; exact fun h => h.elim hmode Bool.false_ne_true), if_pos h]

theorem startCmd_of_state {r : Request} {c : Nat} {s : State} (h : s.stroke.mode = 0 ∨ (s.slot c).armed = true) :
    startCmd r c s = .refuse Code.mbxState := if_pos h

/-- A command served at once that completes: its answer, and a view of the slots that does not tell the accounts. -/
theorem exec_serveNow_done {i : Instr} {m : Mbox} {s t : State} {op : Nat} {r : Request}
    (hi : exec i s = powered s (serveNow op m.val s)) (hon : s.power.on = true) (hr : s.request m op = some r)
    (he : effect r s = .done t) : ∃ u, exec i s = .next u ∧ Answered u m 0 [] ∧ u = s.effectOf (t.respond m 0 []) := by
  refine ⟨_, hi.trans (powered_eq hon (serveNow_of_done hr he)), answered_congr (effectOf_mbx _ _ _) ?_, rfl⟩
  exact answered_respond t m 0 []

/-- A command served at once that is refused. -/
theorem exec_serveNow_refuse {i : Instr} {m : Mbox} {s : State} {op e : Nat} {r : Request}
    (hi : exec i s = powered s (serveNow op m.val s)) (hon : s.power.on = true) (hr : s.request m op = some r)
    (hcopy : op ≠ Op.copy) (he : effect r s = .refuse e) :
    ∃ u, exec i s = .next u ∧ Answered u m e [] ∧ u = s.effectOf (s.respond m e []) := by
  obtain ⟨-, -, -, hop⟩ := request_eq_some hr
  have hpl : refusalPayload r.opcode = [] := if_neg (by rw [hop]; exact hcopy)
  refine ⟨_, hi.trans (powered_eq hon (serveNow_of_refuse hr he)), answered_congr (effectOf_mbx _ _ _) ?_, by rw [hpl]⟩
  rw [hpl]
  exact answered_respond s m e []

@[simp] theorem startMark_respond (s : State) (m status : Nat) (payload : List Byte) (c : Nat) :
    ((s.respond m status payload).slot c).startMark = (s.slot c).startMark :=
  slot_respond_view Ctx.startMark (fun _ _ => rfl) s m status payload c

/-- Settles O19: a load that fits is a placement; a start is the change of one slot. -/
theorem loadAndStart : Obligations.LoadAndStart := by
  unfold Obligations.LoadAndStart
  refine ⟨fun m s r c hserves hpre => ?_, fun m s r c hserves => ?_⟩
  · have heff := effect_of_serves hserves rfl
    obtain ⟨hon, hr, -⟩ := hserves
    obtain ⟨-, -, -, hop⟩ := request_eq_some hr
    rw [slotEffect_load hop] at heff
    refine ⟨fun hfit => ?_, fun e hbad => ?_⟩
    · obtain ⟨u, hu, hans, rfl⟩ := exec_serveNow_done (i := .opLoad m) rfl hon hr (heff.trans (loadCmd_of_fits hpre hfit))
      obtain ⟨hst, hstop, hholds, himg⟩ := slot_placeImage c (r.num 8 8) (imgRd s (s.slot c) (r.num 8 8))
        (BitVec.ofNat 32 (r.num 16 4)) (BitVec.ofNat 32 (r.num 20 4)) s
      refine ⟨_, hu, hans, ?_⟩
      rw [effectOf_slot]
      generalize placeImage c (r.num 8 8) _ _ _ s = t at hst hstop hholds himg ⊢
      simp only [imageOf, Prod.mk.injEq] at himg
      obtain ⟨harm, himg, hjob, hlayout⟩ := himg
      have hresp := slot_respond t m 0 [] c
      obtain ⟨a, ha⟩ := hresp
      rw [ha]
      exact ⟨hst, hstop, hholds, harm, himg, hjob, hlayout⟩
    · obtain ⟨u, hu, hans, rfl⟩ := exec_serveNow_refuse (i := .opLoad m) rfl hon hr (by decide)
        (heff.trans (loadCmd_of_check hpre hbad))
      refine ⟨_, hu, hans, ?_, ?_⟩
      · rw [effectOf_slot, st_respond]
      · rw [effectOf_tub, tub_respond]
  · have heff := effect_of_serves hserves rfl
    obtain ⟨hon, hr, -⟩ := hserves
    obtain ⟨-, -, -, hop⟩ := request_eq_some hr
    rw [slotEffect_start hop] at heff
    refine ⟨fun hmode harm hahead => ?_, fun hmode harm hlate => ?_, fun hst => ?_⟩
    · obtain ⟨u, hu, hans, rfl⟩ := exec_serveNow_done (i := .opStart m) rfl hon hr
        (heff.trans (startCmd_of_ahead hmode harm hahead))
      refine ⟨_, hu, hans, ?_⟩
      rw [effectOf_slot, armed_respond, startMark_respond, st_respond, slot_modSlot]
      refine ⟨rfl, ?_, rfl⟩
      exact Nat.mod_eq_of_lt (num_lt r 8 6)
    · obtain ⟨u, hu, hans, rfl⟩ := exec_serveNow_refuse (i := .opStart m) rfl hon hr (by decide)
        (heff.trans (startCmd_of_late hmode harm hlate))
      refine ⟨_, hu, hans, ?_⟩
      rw [effectOf_slot, armed_respond, harm]
    · obtain ⟨u, hu, hans, rfl⟩ := exec_serveNow_refuse (i := .opStart m) rfl hon hr (by decide)
        (heff.trans (startCmd_of_state hst))
      refine ⟨_, hu, hans, ?_⟩
      rw [effectOf_slot, armed_respond]

end Sys2Proof.Laws
end

section
/-!
SUPPORT. OP_RESHARD with its quiescence and its time limit (R393), and OP_RESUME (R398).
-/

namespace Sys2Proof.Laws

open Machine

/-! ### OP_RESHARD -/

theorem slotEffect_reshard {r : Request} (hop : r.opcode = Op.reshard) (c : Nat) (s : State) :
    slotEffect r c s = reshardCmd r c s := by
  unfold slotEffect
  rw [hop, if_neg (by decide), if_neg (by decide), if_neg (by decide), if_neg (by decide), if_neg (by decide),
    if_neg (by decide), if_pos rfl]

theorem reshardCmd_of_newer {r : Request} {c : Nat} {s : State} (h : (s.slot c).layoutEpoch.toNat < r.num 16 4) :
    reshardCmd r c s = .wait (dropReduces c s) := if_neg (by omega)

theorem reshardCmd_of_old {r : Request} {c : Nat} {s : State} (h : r.num 16 4 ≤ (s.slot c).layoutEpoch.toNat) :
    reshardCmd r c s = .refuse Code.epochOrder := if_pos h

/-- The unmatched REDUCE packets go; nothing else of the slot changes (R393). -/
theorem slot_dropReduces (c : Nat) (s : State) :
    (dropReduces c s).slot c = { s.slot c with ghl := { (s.slot c).ghl with redIn := [] } } := by
  unfold dropReduces
  extract_lets rs t
  have ht : t.slots = s.slots := by
    refine forEach_view State.slots (fun r u => ?_) rs s
    split <;> rfl
  have hstale : ∀ (n : Nat) (u : State), (staleDrop n u).slot c = u.slot c := fun _ _ => rfl
  rw [hstale, State.modCtxGhl, slot_modSlot, slot_congr ht]

/-- A command served at once that is under way. -/
theorem exec_serveNow_wait {i : Instr} {m : Mbox} {s t : State} {op : Nat} {r : Request}
    (hi : exec i s = powered s (serveNow op m.val s)) (hon : s.power.on = true) (hr : s.request m op = some r)
    (he : effect r s = .wait t) :
    ∃ u, exec i s = .next u ∧ (u.mbx m).stage = .busy ∧ u = s.effectOf (t.modMbx m fun b => { b with stage := .busy }) := by
  refine ⟨_, hi.trans (powered_eq hon (serveNow_of_wait hr he)), ?_, rfl⟩
  rw [effectOf_mbx, mbx_modMbx]

/-- The end of a command under way: one response. -/
theorem exec_powered_respond {i : Instr} {s x t : State} {m e : Nat} {payload : List Byte} (hon : s.power.on = true)
    (hi : exec i s = powered s x) (h : x = t.respond m e payload) :
    ∃ u, exec i s = .next u ∧ Answered u m e payload ∧ u = s.effectOf (t.respond m e payload) :=
  ⟨_, hi.trans (powered_eq hon h), answered_congr (effectOf_mbx _ _ _) (answered_respond t m e payload), rfl⟩

theorem reshardQuiet_of_placed {s t : State} {c m : Nat} {r : Request} (hr : reshardOf s c = some (m, r))
    (hst : (s.slot c).st = .held) (hq : inFlight s c = 0) (h : reshardPlace r c s = .ok t) :
    reshardQuiet c s = t.respond m 0 [] := by
  unfold reshardQuiet
  rw [hr]
  dsimp only
  rw [if_pos ⟨hst, hq⟩, h]

theorem reshardQuiet_of_failed {s : State} {c m e : Nat} {r : Request} (hr : reshardOf s c = some (m, r))
    (hst : (s.slot c).st = .held) (hq : inFlight s c = 0) (h : reshardPlace r c s = .error e) :
    reshardQuiet c s = s.respond m e [] := by
  unfold reshardQuiet
  rw [hr]
  dsimp only
  rw [if_pos ⟨hst, hq⟩, h]

theorem reshardLate_of_busy {s : State} {c m : Nat} {r : Request} (hr : reshardOf s c = some (m, r))
    (h : (s.slot c).st ≠ .held ∨ inFlight s c ≠ 0) : reshardLate c s = s.respond m Code.reshardTimeout [] := by
  unfold reshardLate
  rw [hr]
  exact if_neg (fun hb => h.elim (fun hst => hst hb.1) (fun hq => hq hb.2))

/-- A re-shard that fits is a placement under the job epoch of the context (R393). -/
theorem reshardPlace_ok {s t : State} {c : Nat} {r : Request} (h : reshardPlace r c s = .ok t) :
    ∃ rd u, t = placeImage c (r.num 8 8) rd (s.slot c).jobEpoch (BitVec.ofNat 32 (r.num 16 4)) u := by
  unfold reshardPlace at h
  dsimp only at h
  split at h
  · cases h
  · split at h
    · cases h
    · exact ⟨_, _, (Except.ok.inj h).symm⟩

/-! ### OP_RESUME -/

theorem slotEffect_resume {r : Request} (hop : r.opcode = Op.resume) (c : Nat) (s : State) :
    slotEffect r c s = resumeCmd r c s := by
  unfold slotEffect
  rw [hop, if_neg (by decide), if_neg (by decide), if_neg (by decide), if_neg (by decide), if_neg (by decide),
    if_neg (by decide), if_neg (by decide), if_pos rfl]

theorem resumeCmd_of_agreed {r : Request} {c : Nat} {s : State} {f : Nat × W32 × List Byte}
    (h : resumeCheck s c (r.num 16 1) = some f) :
    resumeCmd r c s = .done (resumeApply c (r.num 16 1) (r.num 8 6) f s) := by
  unfold resumeCmd
  rw [h]

theorem resumeCmd_of_refused {r : Request} {c : Nat} {s : State} (h : resumeCheck s c (r.num 16 1) = none) :
    resumeCmd r c s = .refuse Code.resumeRefused := by
  unfold resumeCmd
  rw [h]

/-- What a resumed context shows: its state, whether it is stopped and armed, its mark, its index and its layout epoch. -/
def resumeOf (x : Ctx) : CtxSt × Bool × Bool × W48 × W48 × W32 :=
  (x.st, x.stopped, x.armed, x.startMark, x.stk.index, x.layoutEpoch)

theorem slots_modSeqEnts (f : Nat → SeqEnt → SeqEnt) (b : Nat) (xs : List Nat) (s : State) :
    (forEach xs (fun i s => s.modSeqEnt (b + i) (f i)) s).slots = s.slots :=
  forEach_view State.slots (f := fun i s => s.modSeqEnt (b + i) (f i)) (fun _ _ => modSeqEnt_slots _ _ _) xs s

/-- The slot of a resumed context (R398). -/
theorem resumeOf_resumeApply (c areas mark : Nat) (f : Nat × W32 × List Byte) (s : State) :
    resumeOf ((resumeApply c areas mark f s).slot c) =
      (.loaded, false, true, BitVec.ofNat 48 mark, BitVec.ofNat 48 f.1, f.2.1) := by
  unfold resumeApply
  dsimp only
  rw [slot_fetchBoth resumeOf (fun _ _ _ => rfl), slot_congr (slots_modSeqEnts (fun _ _ => _) _ _ _),
    slot_setCtx_view resumeOf (fun _ => rfl)]
  rfl

/-- Settles O21: a re-shard waits with its packets dropped, and its quiescence is a placement; a resume is the change of one
slot and the fetch of its halves. -/
theorem reshardAndResume : Obligations.ReshardAndResume := by
  unfold Obligations.ReshardAndResume
  refine ⟨fun m s r c hserves => ?_, fun c s m r hon hr => ⟨fun hst hq hplace => ?_, fun e hst hq hbad => ?_, fun hbusy => ?_⟩,
    fun m s r c hserves => ?_⟩
  · have heff := effect_of_serves hserves rfl
    obtain ⟨hon, hr, -⟩ := hserves
    obtain ⟨-, -, -, hop⟩ := request_eq_some hr
    rw [slotEffect_reshard hop] at heff
    refine ⟨fun hnew => ?_, fun hold => ?_⟩
    · obtain ⟨u, hu, hbusy, rfl⟩ := exec_serveNow_wait (i := .opReshard m) rfl hon hr
        (heff.trans (reshardCmd_of_newer hnew))
      refine ⟨_, hu, hbusy, ?_⟩
      rw [effectOf_slot, slot_modMbx, slot_dropReduces]
      exact ⟨rfl, rfl⟩
    · obtain ⟨u, hu, hans, rfl⟩ := exec_serveNow_refuse (i := .opReshard m) rfl hon hr (by decide)
        (heff.trans (reshardCmd_of_old hold))
      exact ⟨_, hu, hans, by rw [effectOf_slot, st_respond]⟩
  · obtain ⟨t, ht⟩ := hplace
    obtain ⟨u, hu, hans, rfl⟩ := exec_powered_respond (i := .reshardQuiescent c) hon rfl
      (reshardQuiet_of_placed hr hst hq ht)
    refine ⟨_, hu, hans, ?_⟩
    obtain ⟨rd, v, hv⟩ := reshardPlace_ok ht
    obtain ⟨hloaded, -, -, himg⟩ := slot_placeImage c (r.num 8 8) rd (s.slot c).jobEpoch (BitVec.ofNat 32 (r.num 16 4)) v
    rw [← hv] at hloaded himg
    simp only [imageOf, Prod.mk.injEq] at himg
    obtain ⟨-, -, hjob, hlayout⟩ := himg
    obtain ⟨a, ha⟩ := slot_respond t m 0 [] c
    rw [effectOf_slot, ha]
    exact ⟨hloaded, hjob, hlayout⟩
  · obtain ⟨u, hu, hans, rfl⟩ := exec_powered_respond (i := .reshardQuiescent c) hon rfl
      (reshardQuiet_of_failed hr hst hq hbad)
    exact ⟨_, hu, hans, by rw [effectOf_slot, st_respond, hst]⟩
  · obtain ⟨u, hu, hans, rfl⟩ := exec_powered_respond (i := .reshardTimeout c) hon rfl (reshardLate_of_busy hr hbusy)
    exact ⟨_, hu, hans, by rw [effectOf_slot, st_respond]⟩
  · have heff := effect_of_serves hserves rfl
    obtain ⟨hon, hr, -⟩ := hserves
    obtain ⟨-, -, -, hop⟩ := request_eq_some hr
    rw [slotEffect_resume hop] at heff
    refine ⟨fun f hf => ?_, fun hbad => ?_⟩
    · obtain ⟨u, hu, hans, rfl⟩ := exec_serveNow_done (i := .opResume m) rfl hon hr (heff.trans (resumeCmd_of_agreed hf))
      refine ⟨_, hu, hans, ?_⟩
      have hres := resumeOf_resumeApply c (r.num 16 1) (r.num 8 6) f s
      generalize resumeApply c (r.num 16 1) (r.num 8 6) f s = t at hres ⊢
      simp only [resumeOf, Prod.mk.injEq] at hres
      obtain ⟨hst, hstop, harm, hmark, hidx, hlay⟩ := hres
      obtain ⟨a, ha⟩ := slot_respond t m 0 [] c
      rw [effectOf_slot, ha]
      exact ⟨hst, hstop, harm, hmark, hidx, hlay⟩
    · obtain ⟨u, hu, hans, rfl⟩ := exec_serveNow_refuse (i := .opResume m) rfl hon hr (by decide)
        (heff.trans (resumeCmd_of_refused hbad))
      exact ⟨_, hu, hans, by rw [effectOf_slot, st_respond]⟩

end Sys2Proof.Laws
end

section
/-!
SUPPORT. Device commands and resets: OP_DOMAIN and OP_ADMIT (R386, R418, R457), VF Enable, function level resets, resets of the
PCIe link and configuration requests (R404, R495, R496).
-/

namespace Sys2Proof.Laws

open Machine

/-! ### OP_DOMAIN and OP_ADMIT -/

theorem effect_domain {r : Request} (hop : r.opcode = Op.domain) (s : State) : effect r s = domainCmd r s := by
  unfold effect
  rw [if_pos hop]

theorem effect_admission {r : Request} (hop : r.opcode = Op.admission) (s : State) : effect r s = admitCmd r s := by
  unfold effect
  rw [hop, if_neg (by decide), if_pos rfl]

theorem domainCmd_of_check {r : Request} {s : State} {e : Nat} (h : domainCheck s r = some e) :
    domainCmd r s = .refuse e := by
  unfold domainCmd
  rw [h]

theorem domainCmd_of_dma {r : Request} {s : State} (h : domainCheck s r = none) (hroutes : r.num 24 8 ≠ 0)
    (hfail : s.hostFails (r.num 24 8) 4096 = true) : domainCmd r s = .refuse Code.mbxDma := by
  unfold domainCmd
  rw [h]
  exact if_pos ⟨hroutes, hfail⟩

theorem domainCmd_of_read {r : Request} {s : State} (h : domainCheck s r = none)
    (hread : r.num 24 8 = 0 ∨ s.hostFails (r.num 24 8) 4096 = false) : domainCmd r s = .done (domainApply r s) := by
  unfold domainCmd
  rw [h]
  exact if_neg fun hf => hread.elim hf.1 fun he => by rw [he] at hf; exact Bool.false_ne_true hf.2

/-- The domain configuration that a payload of Table 13.4 gives. -/
def domainStroke (r : Request) (k : Stroke) : Stroke :=
  { k with
    mode := BitVec.ofNat 2 (r.num 4 1), replayLimit := BitVec.ofNat 3 (r.num 5 1)
    treeDepth := BitVec.ofNat 5 (r.num 6 1), hopUnits := BitVec.ofNat 6 (r.num 7 1)
    period := BitVec.ofNat 25 (r.num 0 4), rootId := BitVec.ofNat 11 (r.num 8 2)
    domainSize := BitVec.ofNat 12 (r.num 10 2)
    endReserve := BitVec.ofNat 20 (endReserve (r.num 6 1) (r.num 7 1) (r.num 0 4))
    double := false, cycle0 := none, closing := false, codes := [], count := 0, heard := [], sent := false
    nextVerdict := [], rx := none, entered := none, fwd := none, mismatch := false }

theorem stroke_setBudget (s : State) : (setBudget s).stroke = s.stroke := rfl
theorem ghl_setBudget (s : State) : (setBudget s).ghl = s.ghl := rfl

theorem stroke_domainApply (r : Request) (s : State) : (domainApply r s).stroke = domainStroke r s.stroke := by
  unfold domainApply
  dsimp only
  rw [stroke_setBudget, modGhl_stroke, modStroke_stroke]
  rfl

theorem ghl_domainApply (r : Request) (s : State) : (domainApply r s).ghl.deviceId = BitVec.ofNat 11 (r.num 12 2) ∧
    (domainApply r s).ghl.valid = true := by
  unfold domainApply
  dsimp only
  rw [ghl_setBudget, modGhl_ghl]
  exact ⟨rfl, rfl⟩

/-- OP_ADMIT whose checks pass (R386, R457). -/
theorem admitCmd_of_passed {r : Request} {s : State} (hz : r.zero 4 4 = true) (hz' : r.zero 40 8 = true)
    (hret : s.mp.retired = false) (hvalid : s.ghl.valid = true) (hmode : s.stroke.mode ≠ 0)
    (hgen : BitVec.ofNat 32 (r.num 0 4) = s.mp.deviceGen)
    (hep : ∀ c, c < 8 → (s.slot c).st ≠ .empty → (s.slot c).jobEpoch = BitVec.ofNat 32 (r.num (8 + 4 * c) 4)) :
    admitCmd r s = .done (if s.ghl.admitted then s else setAdmitted true (s.modStroke fun k =>
      { k with
        domainLost := false, missed := 0
        cycle0 := if k.domainLost then none else k.cycle0
        closing := k.closing && !k.domainLost })) := by
  have hslots : slots8.all (fun c => (s.slot c).st == .empty ||
      (s.slot c).jobEpoch == BitVec.ofNat 32 (r.num (8 + 4 * c) 4)) = true := by
    simp only [List.all_eq_true, Bool.or_eq_true, beq_iff_eq]
    intro c hc
    by_cases hst : (s.slot c).st = .empty
    · exact .inl hst
    · exact .inr (hep c (mem_slots8.1 hc) hst)
  unfold admitCmd
  rw [if_neg (by simp [hz, hz']), if_neg (by simp [hret]), if_neg (by rw [hvalid]; exact fun h => h.elim Bool.noConfusion hmode),
    if_neg (not_not_intro hgen), if_neg (by rw [hslots]; decide)]
  split <;> rfl

/-- The ports of an admitted device are told of it; the rest of the link and the Strokes are left (R349). -/
theorem setAdmitted_of_new {s : State} (h : s.ghl.admitted = false) :
    (setAdmitted true s).stroke = s.stroke ∧ (setAdmitted true s).ghl.admitted = true := by
  have hne : s.ghl.admitted ≠ true := by rw [h]; decide
  unfold setAdmitted
  rw [if_neg hne]
  dsimp only
  have hfold := forEach_view (fun t : State => (t.stroke, t.ghl.admitted))
    (f := fun p s => pushPrio p [.link (capPkt ((s.modPort p fun g => { g with misses := 0, lastMark := none, lost := false })) p)]
      (s.modPort p fun g => { g with misses := 0, lastMark := none, lost := false })) (fun _ _ => rfl)
    (ports16.filter fun p => ((s.modGhl fun g => { g with admitted := true }).port p).carries)
    (s.modGhl fun g => { g with admitted := true })
  simp only [Prod.mk.injEq] at hfold
  exact hfold

/-- Settles O24: the configuration is the change of the Stroke and link registers; an admission sets one bit and, of a lost
domain, the Stroke's. -/
theorem domainAndAdmission : Obligations.DomainAndAdmission := by
  unfold Obligations.DomainAndAdmission
  refine ⟨fun m s r hon hr => ?_, fun m s r hon hr hz hz' hret hvalid hmode hgen hep => ?_⟩
  · obtain ⟨-, -, -, hop⟩ := request_eq_some hr
    have heff := effect_domain hop s
    refine ⟨fun hc hroutes hfail => ?_, fun hc hread => ?_, fun e hc => ?_⟩
    · obtain ⟨u, hu, hans, rfl⟩ := exec_serveNow_refuse (i := .opDomain m) rfl hon hr (by decide)
        (heff.trans (domainCmd_of_dma hc hroutes hfail))
      exact ⟨_, hu, hans, by rw [effectOf_stroke, stroke_respond]⟩
    · obtain ⟨u, hu, hans, rfl⟩ := exec_serveNow_done (i := .opDomain m) rfl hon hr (heff.trans (domainCmd_of_read hc hread))
      refine ⟨_, hu, hans, ?_⟩
      rw [effectOf_stroke, effectOf_ghl, stroke_respond, ghl_respond, stroke_domainApply]
      exact ⟨rfl, rfl, rfl, rfl, rfl, rfl, rfl, rfl, rfl, ghl_domainApply r s⟩
    · obtain ⟨u, hu, hans, rfl⟩ := exec_serveNow_refuse (i := .opDomain m) rfl hon hr (by decide)
        (heff.trans (domainCmd_of_check hc))
      exact ⟨_, hu, hans, by rw [effectOf_stroke, stroke_respond]⟩
  · obtain ⟨-, -, -, hop⟩ := request_eq_some hr
    have heff := (effect_admission hop s).trans (admitCmd_of_passed hz hz' hret hvalid hmode hgen hep)
    obtain ⟨u, hu, hans, rfl⟩ := exec_serveNow_done (i := .opAdmit m) rfl hon hr heff
    refine ⟨_, hu, hans, ?_⟩
    rw [effectOf_stroke, effectOf_ghl, stroke_respond, ghl_respond]
    cases hadm : s.ghl.admitted with
    | true => exact ⟨hadm, fun h => by cases h⟩
    | false =>
      obtain ⟨hstroke, hset⟩ := setAdmitted_of_new (s := s.modStroke fun k =>
        { k with
          domainLost := false, missed := 0
          cycle0 := if k.domainLost then none else k.cycle0
          closing := k.closing && !k.domainLost }) hadm
      rw [if_neg Bool.false_ne_true, hstroke]
      exact ⟨hset, fun _ => ⟨rfl, rfl⟩⟩

/-! ### Rings and resets -/

/-- A disabled ring stays disabled under an event (R416). -/
theorem ring_none_putEvent {s : State} {n : Nat} (h : (s.mbx n).ring = none) (m : Nat) (r : List Byte) :
    ((s.putEvent m r).mbx n).ring = none := by
  unfold State.putEvent
  dsimp only
  by_cases hn : n = m
  · subst hn
    rw [h]
    exact h
  · repeat' split
    all_goals simp [State.dropEvent, State.msix, State.mbx, State.modHamper, State.modMbx, State.wrHost, KV.get_upd, hn]
    all_goals exact h

theorem ring_none_modMbx {s : State} {n : Nat} (h : (s.mbx n).ring = none) (m : Nat) {f : Mailbox → Mailbox}
    (hf : ∀ b, (f b).ring = b.ring) : ((s.modMbx m f).mbx n).ring = none := by
  by_cases hn : n = m
  · subst hn; rw [mbx_modMbx, hf, h]
  · rw [mbx_modMbx_other _ _ hn, h]

theorem ring_none_flushLost {s : State} {n : Nat} (h : (s.mbx n).ring = none) (m : Nat) :
    ((s.flushLost m).mbx n).ring = none := by
  unfold State.flushLost
  dsimp only
  split
  · exact ring_none_modMbx (ring_none_putEvent h m _) m fun b => by split <;> rfl
  · exact h

theorem ring_none_post {s : State} {n : Nat} (h : (s.mbx n).ring = none) (m slot code kind : Nat) (arg : W32) :
    ((s.post m slot code kind arg).mbx n).ring = none := by
  unfold State.post
  dsimp only
  split
  · exact ring_none_putEvent (ring_none_flushLost h m) m _
  · exact ring_none_modMbx (ring_none_flushLost h m) m fun _ => rfl

theorem ring_none_setCtx {s : State} {n : Nat} (h : (s.mbx n).ring = none) (c : Nat) (f : Ctx → Ctx) :
    ((s.setCtx c f).mbx n).ring = none := by
  unfold State.setCtx
  dsimp only
  split
  · exact ring_none_post (s := s.modSlot c _) h _ _ _ _ _
  · exact h

/-- Removing a context up to the change of its slot leaves every view that the Tubs, the slots, the pools and the tables of the
engines do not show. -/
theorem vacated_view {β : Type} (P : State → β) (hpart : ∀ c s, P (partitionRelease c s) = P s)
    (hslot : ∀ s c f, P (State.modSlot s c f) = P s) (hfree : ∀ j p s, P (freePage j p s) = P s)
    (hxlat : ∀ c s, P (dropXlat c s) = P s) (hseq : ∀ c s, P (releaseSeq c s) = P s) (c : Nat) (keep : Page → Bool)
    (s : State) : P (vacated c keep s) = P s := by
  have hpages : ∀ t : State, P (releasePages c (fun p => !keep p) t) = P t := fun t => by
    unfold releasePages
    dsimp only
    rw [hslot]
    exact forEach_view P (f := fun (e : Nat × Page) s => freePage e.2.stack (e.2.addr / pageBig) s)
      (fun e u => hfree e.2.stack (e.2.addr / pageBig) u) _ t
  unfold vacated
  rw [hseq, hxlat, hpages]
  exact (hslot _ _ _).trans (hpart _ _)

theorem hamper_vacated (c : Nat) (keep : Page → Bool) (s : State) : (vacated c keep s).hamper = s.hamper := by
  refine vacated_view State.hamper (fun c s => ?_) (fun _ _ _ => rfl) (fun _ _ _ => rfl) (fun _ _ => rfl) (fun _ _ => rfl) c keep s
  unfold partitionRelease
  dsimp only
  split <;> rfl

theorem stroke_vacated (c : Nat) (keep : Page → Bool) (s : State) : (vacated c keep s).stroke = s.stroke := by
  refine vacated_view State.stroke (fun c s => ?_) (fun _ _ _ => rfl) (fun _ _ _ => rfl) (fun _ _ => rfl) (fun _ _ => rfl) c keep s
  unfold partitionRelease
  dsimp only
  split <;> rfl

theorem power_vacated (c : Nat) (keep : Page → Bool) (s : State) : (vacated c keep s).power = s.power := by
  refine vacated_view State.power (fun c s => ?_) (fun _ _ _ => rfl) (fun _ _ _ => rfl) (fun _ _ => rfl) (fun _ _ => rfl) c keep s
  unfold partitionRelease
  dsimp only
  split <;> rfl

theorem stroke_of_bystanders {s t : State} (h : bystanders t = bystanders s) : t.stroke = s.stroke :=
  (congrArg State.stroke h :)

theorem stroke_removeCtx (c : Nat) (keep : Page → Bool) (s : State) : (removeCtx c keep s).stroke = s.stroke := by
  rw [removeCtx_eq, stroke_of_bystanders (bystanders_setCtx _ _ _), stroke_vacated]

theorem ring_none_removeCtx {s : State} {n : Nat} (h : (s.mbx n).ring = none) (c : Nat) (keep : Page → Bool) :
    ((removeCtx c keep s).mbx n).ring = none := by
  rw [removeCtx_eq]
  refine ring_none_setCtx ?_ c _
  unfold State.mbx at h ⊢
  rw [hamper_vacated]
  exact h

theorem resetSlot_cases (c : Nat) (s : State) : resetSlot c s =
    if (s.slot c).st = .empty then s
    else if s.stroke.mode = 0 then removeCtx c (fun _ => false) s
    else s.modSlot c fun x => { x with unload := true } := rfl

theorem ring_none_resetSlot {s : State} {n : Nat} (h : (s.mbx n).ring = none) (c : Nat) :
    ((resetSlot c s).mbx n).ring = none := by
  rw [resetSlot_cases]
  split
  · exact h
  · split
    · exact ring_none_removeCtx h c _
    · exact h

theorem stroke_resetSlot (c : Nat) (s : State) : (resetSlot c s).stroke = s.stroke := by
  rw [resetSlot_cases]
  split
  · rfl
  · split
    · exact stroke_removeCtx c _ s
    · rfl

theorem otherSlots_resetSlot (c : Nat) (s : State) : OtherSlots c s (resetSlot c s) := by
  rw [resetSlot_cases]
  split
  · exact .refl c s
  · split
    · exact otherSlots_removeCtx c _ s
    · exact otherSlots_modSlot s c _

/-- With no Strokes a reset empties the slot (R404). -/
theorem st_resetSlot {c : Nat} {s : State} (hmode : s.stroke.mode = 0) : ((resetSlot c s).slot c).st = .empty := by
  rw [resetSlot_cases, if_pos hmode]
  split
  next h => exact h
  next => exact st_removeCtx c _ s

theorem unload_resetSlot {c : Nat} {s : State} (hmode : s.stroke.mode ≠ 0) (hst : (s.slot c).st ≠ .empty) :
    ((resetSlot c s).slot c).unload = true := by
  rw [resetSlot_cases, if_neg hst, if_neg hmode, slot_modSlot]

/-! ### FLR_VF and FLR_PF -/

theorem flrVf_of_enabled {v : Fin 8} {s : State} (hen : s.hamper.vfEnabled = true) (hv : v ≠ 0)
    (hn : v ≤ s.hamper.numVfs) : flrVf v s =
      if (s.slot v.val).owner = v then resetSlot v.val (dropRing (1 + v.val) s) else dropRing (1 + v.val) s := by
  unfold flrVf
  rw [if_pos ⟨hen, hv, hn⟩]
  rfl

theorem ring_dropRing (m : Nat) (s : State) : ((dropRing m s).mbx m).ring = none := by
  unfold dropRing
  rw [mbx_modMbx]

theorem mbx_dropRing_other {m n : Nat} (s : State) (h : n ≠ m) : (dropRing m s).mbx n = s.mbx n := mbx_modMbx_other _ _ h

/-- After the reset of the physical function every ring is disabled (R404). -/
theorem ring_flrPf {m : Nat} (hm : m < 9) (s : State) : ((flrPf s).mbx m).ring = none := by
  obtain ⟨t, -, hdrop⟩ := forEach_once (P := fun s => (s.mbx m).ring) (f := dropRing)
    (fun n s hn => congrArg Mailbox.ring (mbx_dropRing_other s (Ne.symm hn))) nodup_mboxes (mem_mboxes.2 hm) s
  have hring : ((forEach mboxes dropRing s).mbx m).ring = none := hdrop.trans (ring_dropRing m t)
  unfold flrPf
  generalize forEach mboxes dropRing s = u at hring ⊢
  unfold forEach
  exact foldl_any (fun u : State => (u.mbx m).ring = none) (fun _ c hu => ring_none_resetSlot hu c) hring

theorem stroke_dropRing (m : Nat) (s : State) : (dropRing m s).stroke = s.stroke := rfl
theorem slots_dropRing (m : Nat) (s : State) : (dropRing m s).slots = s.slots := rfl

/-- With no Strokes the reset of the physical function empties every slot (R404). -/
theorem st_flrPf {c : Nat} (hc : c < 8) {s : State} (hmode : s.stroke.mode = 0) : ((flrPf s).slot c).st = .empty := by
  have hstroke : (forEach mboxes dropRing s).stroke = s.stroke := forEach_view State.stroke stroke_dropRing _ s
  unfold flrPf
  generalize forEach mboxes dropRing s = u at hstroke ⊢
  obtain ⟨t, ht, hreset⟩ := forEach_once (P := fun s => ((s.slot c).st, s.stroke)) (f := resetSlot)
    (fun d s hd => by rw [otherSlots_resetSlot d s c (Ne.symm hd), stroke_resetSlot]) nodup_slots8 (mem_slots8.2 hc) u
  have hmode' : t.stroke.mode = 0 := by
    rw [show t.stroke = u.stroke from congrArg Prod.snd ht, hstroke]
    exact hmode
  obtain ⟨hst, -⟩ := Prod.mk.inj hreset
  rw [hst, st_resetSlot hmode']

theorem power_of_bystanders {s t : State} (h : bystanders t = bystanders s) : t.power = s.power :=
  (congrArg State.power h :)

theorem power_resetSlot (c : Nat) (s : State) : (resetSlot c s).power = s.power := by
  rw [resetSlot_cases]
  split
  · rfl
  · split
    · rw [removeCtx_eq, power_of_bystanders (bystanders_setCtx _ _ _), power_vacated]
    · rfl

theorem power_flrPf (s : State) : (flrPf s).power = s.power :=
  (forEach_view State.power power_resetSlot slots8 (forEach mboxes dropRing s)).trans
    (forEach_view State.power (f := dropRing) (fun _ _ => rfl) mboxes s)

/-! ### VF Enable -/

theorem own_of_busy {h : Hamper} {c : Nat} {x : Ctx} (hst : x.st ≠ .empty) : x.own h c = x := if_neg fun hc => hst hc.1

theorem owner_own_of_empty {h : Hamper} {c : Nat} {x : Ctx} (hst : x.st = .empty) : (x.own h c).owner = h.client c := by
  unfold Ctx.own
  dsimp only
  split
  next => rfl
  next hown => exact not_not.1 fun hne => hown ⟨hst, hne⟩

theorem st_own (h : Hamper) (c : Nat) (x : Ctx) : (x.own h c).st = x.st := (congrArg Ctx.st (offBooks_own h c x) :)

theorem val_client {h : Hamper} {en : Bool} {n : Fin 8} (hen : h.vfEnabled = en) (hn : h.numVfs = n) {c : Nat} (hc : c < 8) :
    (h.client c).val = if en = true ∧ 1 ≤ c ∧ c ≤ n.val then c else 0 := by
  subst hen hn
  unfold Hamper.client
  by_cases hcl : h.vfEnabled = true ∧ 1 ≤ c ∧ c ≤ h.numVfs.val
  · obtain ⟨hen, h1, hn⟩ := hcl
    rw [if_pos ⟨hen, h1, hn, hc⟩, if_pos ⟨hen, h1, hn⟩]
    exact Nat.mod_eq_of_lt hc
  · rw [if_neg fun h => hcl ⟨h.1, h.2.1, h.2.2.1⟩, if_neg hcl]
    rfl

/-- The Hamper with VF Enable and NumVFs set (R404). -/
def withVfs (en : Bool) (n : Fin 8) (h : Hamper) : Hamper := { h with vfEnabled := en, numVfs := n }

/-- Each slot follows VF Enable and NumVFs (R404). -/
theorem vfChange_slot {en : Bool} {n : Fin 8} {s : State} {c : Nat} (hc : c < 8) :
    (vfChange en n s).slot c = (s.slot c).own (withVfs en n s.hamper) c ∧
      (vfChange en n s).hamper = withVfs en n s.hamper ∧ (vfChange en n s).power = s.power := by
  have hf : ∀ d (t : State), d ≠ c → (((t.modSlot d fun x => x.own t.hamper d).slot c), t.hamper, t.power) =
      (t.slot c, t.hamper, t.power) := fun d t hd => by rw [slot_modSlot_other _ _ (Ne.symm hd)]
  obtain ⟨t, ht, hfold⟩ := forEach_once (P := fun s => (s.slot c, s.hamper, s.power))
    (f := fun c s => s.modSlot c fun x => x.own s.hamper c) hf nodup_slots8 (mem_slots8.2 hc)
    (s.modHamper (withVfs en n))
  simp only [Prod.mk.injEq] at ht hfold
  obtain ⟨hslot, hham, hpow⟩ := ht
  obtain ⟨hslot', hham', hpow'⟩ := hfold
  refine ⟨?_, hham'.trans hham, hpow'.trans hpow⟩
  refine hslot'.trans ?_
  rw [slot_modSlot, hslot, hham]
  rfl

theorem mbx_vfChange (en : Bool) (n : Fin 8) (s : State) (m : Nat) : (vfChange en n s).mbx m = s.mbx m := by
  obtain ⟨-, hham, -⟩ := vfChange_slot (en := en) (n := n) (s := s) (c := 0) (by decide)
  unfold State.mbx
  rw [hham]
  rfl

/-! ### Configuration requests -/

theorem configRequest_of_ready {s : State} (hen : s.power.enAt + 1200000000 ≤ s.now) (hp : s.power.perst = false)
    (hat : s.power.perstAt + 300000000 ≤ s.now) : configRequest s = { s with readData :=
      0 :: (leBytes 4 100 ++ leBytes 4 7 ++ leBytes 4 512 ++ leBytes 4 4096 ++ leBytes 4 s.power.pcieWidth) } := by
  unfold configRequest
  simp [hen, hp, hat, CfgField.all, cfgValue]

theorem configRequest_of_early {s : State}
    (h : s.now < s.power.enAt + 1200000000 ∨ s.power.perst = true ∨ s.now < s.power.perstAt + 300000000) :
    configRequest s = { s with readData := [2] } := by
  have hok : (decide (s.power.enAt + 1200000000 ≤ s.now) && !s.power.perst &&
      decide (s.power.perstAt + 300000000 ≤ s.now)) = false := by
    rcases h with h | h | h
    · rw [decide_eq_false (by omega)]; rfl
    · rw [h]; simp
    · rw [decide_eq_false (p := s.power.perstAt + 300000000 ≤ s.now) (by omega)]; simp
  unfold configRequest
  dsimp only
  rw [hok]
  rfl

theorem effectOf_readData_only (s : State) (d : List Byte) :
    s.effectOf { s with readData := d } = { s with readData := d } := rfl

/-- Settles O25: the resets' folds disable each ring and empty each slot; ownership follows VF Enable slot by slot. -/
theorem functionAndLinkResets : Obligations.FunctionAndLinkResets := by
  unfold Obligations.FunctionAndLinkResets
  refine ⟨⟨fun en n s hon => ?_, fun v s hon hen hv hn => ?_, fun s hon => ?_⟩, fun hot s => ?_, fun s => rfl,
    fun s hon => ⟨fun h => ?_, fun h => ?_⟩⟩
  · obtain ⟨-, hham, -⟩ := vfChange_slot (en := en) (n := n) (s := s) (c := 0) (by decide)
    refine ⟨_, powered_eq hon rfl, ?_, ?_, fun c hc => ?_⟩
    · rw [effectOf_hamper, hham]; rfl
    · rw [effectOf_hamper, hham]; rfl
    · obtain ⟨hslot, -, -⟩ := vfChange_slot (en := en) (n := n) (s := s) hc
      rw [effectOf_slot, hslot]
      exact ⟨fun hst => by rw [owner_own_of_empty hst]; exact val_client rfl rfl hc, fun hst => own_of_busy hst⟩
  · refine ⟨_, powered_eq hon (flrVf_of_enabled hen hv hn), ?_, fun hown hmode => ?_, fun hown hmode hst => ?_⟩
    · rw [effectOf_mbx]
      split
      · exact ring_none_resetSlot (ring_dropRing _ _) _
      · exact ring_dropRing _ _
    · rw [effectOf_slot, if_pos hown]
      exact st_resetSlot hmode
    · rw [effectOf_slot, if_pos hown]
      exact unload_resetSlot hmode hst
  · have hring := fun m hm => ring_flrPf (m := m) hm s
    have hst := fun hmode c hc => st_flrPf (c := c) (s := s) hc hmode
    refine ⟨_, powered_eq hon (show _ = flrPf s from rfl), ?_⟩
    generalize flrPf s = t at hring hst ⊢
    exact ⟨hring, hst⟩
  · obtain ⟨-, hham, hpow⟩ := vfChange_slot (en := false) (n := 0) (s := flrPf s) (c := 0) (by decide)
    have hring := fun m hm => ring_flrPf (m := m) hm s
    have hst := fun hmode c hc => st_flrPf (c := c) (s := s) hc hmode
    have hpower := power_flrPf s
    refine ⟨_, show exec (.perstReset hot) s = .next (s.effectOf (perstReset hot s)) from rfl, ?_⟩
    unfold perstReset
    generalize flrPf s = t at hham hpow hring hst hpower ⊢
    have hmbx := mbx_vfChange false 0 t
    have hslot := fun c hc => (vfChange_slot (en := false) (n := 0) (s := t) (c := c) hc).1
    generalize vfChange false 0 t = u at hham hpow hmbx hslot ⊢
    have hview : ∀ q m c, (s.effectOf { u with power := q }).mbx m = u.mbx m ∧
        (s.effectOf { u with power := q }).slot c = u.slot c ∧ (s.effectOf { u with power := q }).hamper = u.hamper :=
      fun _ _ _ => ⟨rfl, rfl, rfl⟩
    dsimp only
    refine ⟨?_, ?_, fun m hm => ?_, ?_, fun hmode c hc => ?_⟩
    · rw [(hview _ 0 0).2.2, hham]; rfl
    · rw [(hview _ 0 0).2.2, hham]; rfl
    · rw [(hview _ m 0).1, hmbx, hring m hm]
    · rw [effectOf_power, hpow, hpower]
    · rw [(hview _ 0 c).2.1, hslot c hc, st_own, hst hmode c hc]
  · rw [← effectOf_readData_only, ← configRequest_of_ready h.1 h.2.1 h.2.2]
    exact powered_on _ hon
  · rw [← effectOf_readData_only, ← configRequest_of_early h]
    exact powered_on _ hon

end Sys2Proof.Laws
end

section
/-!
SUPPORT. The MP: what records, notices and changes of health leave of it, the sensors and their thresholds (R464, R504), and
the move to OFF (R492, R493).
-/

namespace Sys2Proof.NSet

theorem mem_iff (s : NSet) (k : Nat) : mem s k = true ↔ k ∈ s := by simp [mem]

theorem mem_add_iff (s : NSet) (k j : Nat) : j ∈ add s k ↔ j ∈ s ∨ j = k := by
  induction s with
  | nil => simp [add]
  | cons a s ih =>
    unfold add
    split
    · rw [List.mem_cons, Or.comm]
    · split
      next h => subst h; simp only [List.mem_cons]; tauto
      next => rw [List.mem_cons, ih, List.mem_cons, or_assoc]

theorem mem_add_self (s : NSet) (k : Nat) : mem (add s k) k = true :=
  (mem_iff _ _).2 ((mem_add_iff s k k).2 (.inr rfl))

theorem mem_put_self (s : NSet) (k : Nat) (b : Bool) : mem (put s k b) k = b := by
  cases b with
  | true => exact mem_add_self s k
  | false => simp [put, mem, del]

end Sys2Proof.NSet

namespace Sys2Proof.Laws

open Machine

/-! ### Records of the MP -/

/-- The MP without its logs, its messages and its health, which records, events and changes of health write. -/
def offLogs (p : Mp) : Mp :=
  { p with seq := 0, log := [], flashLog := [], mbxQ := [], sent := [], changes := [], changeSeq := 0, health := 0 }

@[simp] theorem offLogs_log (s : State) (a b c : Nat) (d : W32) (e : BitVec 48) :
    offLogs (s.log a b c d e).mp = offLogs s.mp := rfl

@[simp] theorem offLogs_post (s : State) (m slot code kind : Nat) (arg : W32) :
    offLogs (s.post m slot code kind arg).mp = offLogs s.mp := by
  obtain ⟨_, _, h⟩ := hostOnly_post s m slot code kind arg
  rw [h]

@[simp] theorem offLogs_originate (s : State) (o : Nat) (m : List Byte) :
    offLogs (s.originate o m).mp = offLogs s.mp := by
  unfold State.originate
  rw [modMp_mp]
  split <;> rfl

@[simp] theorem offLogs_platformEvent (s : State) (cls : Nat) (d : List Byte) :
    offLogs (s.platformEvent cls d).mp = offLogs s.mp := by
  unfold State.platformEvent
  split
  · exact offLogs_originate s _ _
  · rfl

@[simp] theorem offLogs_postDev (s : State) (code : Nat) (arg : W32) :
    offLogs (s.postDev code arg).mp = offLogs s.mp := by
  unfold State.postDev
  rw [offLogs_platformEvent, offLogs_post]

theorem offLogs_health (s : State) (h : Nat) :
    offLogs (s.modMp fun p => { p with health := h }).mp = offLogs s.mp := rfl

@[simp] theorem offLogs_settleHealth (s : State) : offLogs s.settleHealth.mp = offLogs s.mp := by
  unfold State.settleHealth
  dsimp only
  split
  · rfl
  · rw [offLogs_post, offLogs_log, offLogs_health]

theorem offLogs_changes (s : State) (l : List ChangeRec) :
    offLogs (s.modMp fun p => { p with changes := l, changeSeq := p.changeSeq + 1 }).mp = offLogs s.mp := rfl

@[simp] theorem offLogs_change (s : State) (a b c d : Nat) (o n : List Byte) :
    offLogs (s.change a b c d o n).mp = offLogs s.mp := by
  have hchain : s.chain.2.mp = s.mp := by
    unfold State.chain
    split <;> rfl
  have hroll : ∀ t : State, offLogs (rollChanges t).mp = offLogs t.mp := fun t => by
    unfold rollChanges
    dsimp only
    split
    · rfl
    · rw [offLogs_log, offLogs_changes]
  have hrec : ∀ (t : State) (r : ChangeRec),
      offLogs (t.modMp fun p => { p with changes := r :: p.changes, changeSeq := p.changeSeq + 1 }).mp = offLogs t.mp :=
    fun _ _ => rfl
  unfold State.change
  dsimp only
  rw [hroll, hrec, hchain]

@[simp] theorem offLogs_changeTo (s t : State) (a b c d : Nat) :
    offLogs (s.changeTo t a b c d).mp = offLogs t.mp := offLogs_change t _ _ _ _ _ _

@[simp] theorem offLogs_unitEvent (code : Nat) (u : W32) (s : State) :
    offLogs (unitEvent code u s).mp = offLogs s.mp := by
  unfold unitEvent
  rw [offLogs_postDev, offLogs_log]

/-- Entry to RETIRED sets the device retired, and writes records beside (R454). -/
theorem offLogs_retire (s : State) : ∃ due, offLogs s.retire.mp = { offLogs s.mp with retired := true, retireDue := due } := by
  unfold State.retire
  split
  next h => exact ⟨s.mp.retireDue, by rw [← h]; rfl⟩
  next =>
    rw [offLogs_settleHealth, offLogs_log]
    exact ⟨true, rfl⟩

/-! ### OFF -/

theorem dropRails_eq_nil : ∀ {n : Nat} {rs : List Rail}, rs.length ≤ n → dropRails n rs = []
  | 0, [], _ => rfl
  | n + 1, [], _ => rfl
  | n + 1, r :: rs, h => dropRails_eq_nil (n := n) (rs := rs) (by simpa using h)

theorem lastOff_powerOff (cause : Nat) (s : State) : (powerOff cause s).power.lastOff = BitVec.ofNat 3 cause := rfl

/-- A fault that ends in OFF stands in the flash ring (R465). -/
theorem flashLog_faultOff {code : Nat} (hcode : 0x0900 ≤ code) (hcode' : code ≤ 0x0AFF) (arg : W32) (cause : Nat) (s : State) :
    ∃ r, (faultOff code arg cause s).mp.flashLog.head? = some r ∧ r.code = code ∧ r.arg = arg := by
  have hflash : flashes s code = true := by simp [flashes, hcode, hcode']
  have hlog : (faultOff code arg cause s).mp.flashLog = (s.log code originMp 0xFF arg 0).mp.flashLog := rfl
  have hring : ∃ r l, (s.log code originMp 0xFF arg 0).mp.flashLog = (r :: l).take 16384 ∧ r.code = code ∧ r.arg = arg := by
    unfold State.log
    rw [modMp_mp]
    dsimp only
    rw [if_pos hflash]
    exact ⟨_, _, rfl, rfl, rfl⟩
  obtain ⟨r, l, hr, hc, ha⟩ := hring
  exact ⟨r, by rw [hlog, hr]; rfl, hc, ha⟩

/-! ### Sensors -/

/-- The reading of a sensor with its calibration offset (R464). -/
def reading (s : State) (id : Nat) (raw : Int) : Int :=
  raw + (if s.mp.calNow.origin = 2 then 0 else Config.calOffset s.mp.calNow.record id)

/-- A fitted sensor's sample is stored, and sets the supply voltage of its die. -/
def sampled (id : Nat) (v : Int) (s : State) : State :=
  let t := s.modMp fun p => { p with sensors := KV.set 0 p.sensors id v }
  if id ≤ 16 then setVolt (id - 1) t else t

/-- What a stored sample does by its sensor (R502, R504). -/
def acted (id : Nat) (v : Int) (s : State) : State :=
  if id = 17 then { s with power := { s.power with inputLow := decide (4600 ≤ v) && decide (v < 4800) } }
  else if id = 19 then inputPower v s
  else if id = 20 then strokeEnergy v s
  else thermal id v s

theorem mem_sensors22 {id : Nat} : sensors22.elem id = true ↔ 1 ≤ id ∧ id ≤ 22 := by
  simp only [sensors22, List.elem_eq_mem, decide_eq_true_eq, List.mem_map, List.mem_range]
  constructor
  · rintro ⟨a, ha, rfl⟩; omega
  · rintro ⟨h1, h2⟩; exact ⟨id - 1, by omega, by omega⟩

theorem sensorSample_of_fitted {id : Nat} {raw : Int} {s : State} (h1 : 1 ≤ id) (h22 : id ≤ 22)
    (hf : sensorFitted s id = true) :
    sensorSample id raw s = acted id (reading s id raw) (sampled id (reading s id raw) s) := by
  have h : ¬ (sensors22.elem id = false ∨ sensorFitted s id = false) := by
    rw [mem_sensors22.2 ⟨h1, h22⟩, hf]
    decide
  unfold sensorSample
  rw [if_neg h]
  rfl

theorem sensorSample_of_unfitted {id : Nat} {raw : Int} {s : State} (hf : sensorFitted s id = false) :
    sensorSample id raw s = s := if_pos (.inr hf)

theorem sampled_sensor (id : Nat) (v : Int) (s : State) : KV.get 0 (sampled id v s).mp.sensors id = v := by
  unfold sampled
  dsimp only
  split
  · unfold setVolt
    rw [modMp_mp, modMp_mp]
    exact KV.get_set_self _ _ _ _
  · rw [modMp_mp]
    exact KV.get_set_self _ _ _ _

/-- The supply voltage that a temperature sets (R474, R476). -/
theorem sampled_volt {id : Nat} (h1 : 1 ≤ id) (h16 : id ≤ 16) (v : Int) (s : State) :
    KV.get 0 (sampled id v s).mp.volts (id - 1) = if s.mp.calNow.origin = 2 then (voltLimits (id - 1)).2
      else Config.calVolt s.mp.calNow.record (id - 1) (Config.calPoint v) := by
  have hid : id - 1 + 1 = id := by omega
  unfold sampled setVolt sensorOf
  rw [if_pos h16, modMp_mp, KV.get_set_self, hid, modMp_mp]
  dsimp only
  rw [KV.get_set_self]

theorem power_sampled (id : Nat) (v : Int) (s : State) : (sampled id v s).power = s.power := by
  unfold sampled setVolt
  dsimp only
  split <;> rfl

/-- A view of the MP that its logs do not show stays under what a sample does. -/
theorem offLogs_inputPower (v : Int) (s : State) : offLogs (inputPower v s).mp = offLogs s.mp := by
  unfold inputPower
  dsimp only
  split
  · rw [offLogs_postDev, offLogs_log]
  · rfl

theorem offLogs_strokeEnergy (v : Int) (s : State) : offLogs (strokeEnergy v s).mp = offLogs s.mp := by
  unfold strokeEnergy
  dsimp only
  split
  · split <;> rfl
  · rfl

theorem energy_strokeEnergy (v : Int) (s : State) : (strokeEnergy v s).power.energy = BitVec.ofInt 32 v := by
  unfold strokeEnergy
  dsimp only
  split
  · split <;> rfl
  · rfl

/-- A passage of the warning threshold is logged and sent (R504). -/
def warned (id : Nat) (v : Int) (newWarm : Bool) (s : State) : State :=
  if newWarm then (s.log Code.thermWarn originMp 0xFF 0 0).platformEvent 0 (leBytes 2 id ++ [2, 2, 1, 5] ++ reading32 v) else s

theorem warned_eq (id : Nat) (v : Int) (b : Bool) (s : State) :
    offLogs (warned id v b s).mp = offLogs s.mp ∧ (warned id v b s).power = s.power := by
  unfold warned
  split
  · refine ⟨by rw [offLogs_platformEvent, offLogs_log], ?_⟩
    exact power_of_offRecords ((offRecords_platformEvent _ _ _).trans (offRecords_log _ _ _ _ _ _))
  · exact ⟨rfl, rfl⟩

/-- A passage of the critical threshold is logged and notified (R504). -/
def alarmed (newHot : Bool) (s : State) : State :=
  if newHot then (s.log Code.thermCrit originMp 0xFF 0 0).postDev Code.thermCrit 0 else s

theorem alarmed_eq (b : Bool) (s : State) : offLogs (alarmed b s).mp = offLogs s.mp ∧ (alarmed b s).power = s.power := by
  unfold alarmed
  split
  · refine ⟨by rw [offLogs_postDev, offLogs_log], ?_⟩
    exact power_of_offRecords ((offRecords_postDev _ _ _).trans (offRecords_log _ _ _ _ _ _))
  · exact ⟨rfl, rfl⟩

/-- Which thresholds a reading has reached. -/
def reached (c : Option Nat) (v : Int) : Bool :=
  match c with
  | some c => decide ((c : Int) ≤ v)
  | none => false

theorem thermal_of_thresholds {id w : Nat} {c : Option Nat} {s : State} (v : Int) (h : thresholds s id = some (w, c)) :
    thermal id v s =
      let warm := decide ((w : Int) ≤ v)
      let hot := reached c v
      alarmed (hot && !NSet.mem s.power.hot id) (warned id v (warm && !NSet.mem s.power.warm id)
        { s with power := { s.power with warm := NSet.put s.power.warm id warm, hot := NSet.put s.power.hot id hot } }) := by
  unfold thermal
  rw [h]
  rfl

theorem offLogs_thermal (id : Nat) (v : Int) (s : State) : offLogs (thermal id v s).mp = offLogs s.mp := by
  cases h : thresholds s id with
  | none => unfold thermal; rw [h]
  | some e =>
    obtain ⟨w, c⟩ := e
    rw [thermal_of_thresholds v h]
    dsimp only
    rw [(alarmed_eq _ _).1, (warned_eq _ _ _ _).1]

/-- The sets of sensors above their thresholds follow the reading (R504). -/
theorem power_thermal {id w k : Nat} {s : State} (v : Int) (h : thresholds s id = some (w, some k)) :
    (NSet.mem (thermal id v s).power.warm id = true ↔ (w : Int) ≤ v) ∧
      (NSet.mem (thermal id v s).power.hot id = true ↔ (k : Int) ≤ v) := by
  rw [thermal_of_thresholds v h]
  dsimp only
  rw [(alarmed_eq _ _).2, (warned_eq _ _ _ _).2]
  dsimp only
  rw [NSet.mem_put_self, NSet.mem_put_self]
  exact ⟨decide_eq_true_iff, decide_eq_true_iff⟩

theorem offLogs_acted (id : Nat) (v : Int) (s : State) : offLogs (acted id v s).mp = offLogs s.mp := by
  unfold acted
  split
  · rfl
  · split
    · exact offLogs_inputPower v s
    · split
      · exact offLogs_strokeEnergy v s
      · exact offLogs_thermal id v s

theorem acted_thermal {id : Nat} (h17 : id ≠ 17) (h19 : id ≠ 19) (h20 : id ≠ 20) (v : Int) (s : State) :
    acted id v s = thermal id v s := by
  unfold acted
  rw [if_neg h17, if_neg h19, if_neg h20]

theorem thresholds_congr {s t : State} (h : t.power = s.power) (id : Nat) : thresholds t id = thresholds s id := by
  unfold thresholds
  rw [h]

/-- What a sample of a fitted sensor leaves (R464, R502, R504). -/
theorem sensorSample_spec {id : Nat} {raw : Int} {s : State} (h1 : 1 ≤ id) (h22 : id ≤ 22)
    (hf : sensorFitted s id = true) :
    KV.get 0 (sensorSample id raw s).mp.sensors id = reading s id raw ∧
      (id ≤ 16 → KV.get 0 (sensorSample id raw s).mp.volts (id - 1) =
        if s.mp.calNow.origin = 2 then (voltLimits (id - 1)).2
        else Config.calVolt s.mp.calNow.record (id - 1) (Config.calPoint (reading s id raw))) ∧
      (id = 17 → (sensorSample id raw s).power.inputLow =
        (decide (4600 ≤ reading s id raw) && decide (reading s id raw < 4800))) ∧
      (id = 20 → (sensorSample id raw s).power.energy = BitVec.ofInt 32 (reading s id raw)) ∧
      (id ≠ 17 → id ≠ 19 → id ≠ 20 → ∀ w k, thresholds s id = some (w, some k) →
        (NSet.mem (sensorSample id raw s).power.warm id = true ↔ (w : Int) ≤ reading s id raw) ∧
        (NSet.mem (sensorSample id raw s).power.hot id = true ↔ (k : Int) ≤ reading s id raw)) := by
  rw [sensorSample_of_fitted h1 h22 hf]
  generalize reading s id raw = v
  have hlogs := offLogs_acted id v (sampled id v s)
  have hsensors : (acted id v (sampled id v s)).mp.sensors = (sampled id v s).mp.sensors := (congrArg Mp.sensors hlogs :)
  have hvolts : (acted id v (sampled id v s)).mp.volts = (sampled id v s).mp.volts := (congrArg Mp.volts hlogs :)
  refine ⟨by rw [hsensors, sampled_sensor], fun h16 => by rw [hvolts, sampled_volt h1 h16], fun h17 => ?_, fun h20 => ?_,
    fun h17 h19 h20 w k hth => ?_⟩
  · unfold acted
    rw [if_pos h17]
  · subst h20
    exact energy_strokeEnergy v _
  · rw [acted_thermal h17 h19 h20]
    exact power_thermal v ((thresholds_congr (power_sampled id v s) id).trans hth)

theorem inputLow_spec (s : State) : (inputLow s).power.inputLow = true ∧ (inputLow s).power.on = s.power.on := by
  unfold inputLow
  dsimp only
  split <;> exact ⟨rfl, rfl⟩

/-- Settles O28: a move to OFF is one equation, after the record of the fault that caused it; a sample is stored and acts by
its sensor. -/
theorem powerOffAndSensors : Obligations.PowerOffAndSensors := by
  unfold Obligations.PowerOffAndSensors
  refine ⟨⟨fun s hon => ?_, ?_, fun rail s hon => ?_, fun id s hon => ⟨fun hhot => ?_, fun hcool => ?_⟩⟩,
    fun id raw v s hon hv => ⟨fun h1 h22 hf => ?_, fun hf => ?_⟩, fun s hon => ?_⟩
  · exact ⟨_, powered_eq hon rfl, rfl, rfl, fun h => dropRails_eq_nil h, rfl, rfl, rfl, rfl, rfl, rfl, rfl, rfl, rfl⟩
  · have hfault : ∀ {code cause : Nat} (s : State), 0x0900 ≤ code → code ≤ 0x0AFF → cause < 8 → ∀ {i : Instr},
        exec i s = powered s (faultOff code 0 cause s) → s.power.on = true → ∃ u, exec i s = .next u ∧ u.power.on = false ∧
          u.power.lastOff.toNat = cause ∧ u.slots = [] ∧ ∃ r, u.mp.flashLog.head? = some r ∧ r.code = code := by
      intro code cause s hlo hhi hcause i hi hon
      obtain ⟨r, hr, hc, -⟩ := flashLog_faultOff hlo hhi 0 cause s
      exact ⟨_, hi.trans (powered_eq hon rfl), rfl, Nat.mod_eq_of_lt hcause, rfl, r, hr, hc⟩
    intro e he s hon
    simp only [List.mem_cons, List.not_mem_nil, or_false] at he
    rcases he with rfl | rfl | rfl | rfl
    · exact hfault s (by decide) (by decide) (by decide) rfl hon
    · exact hfault s (by decide) (by decide) (by decide) rfl hon
    · exact hfault s (by decide) (by decide) (by decide) rfl hon
    · exact hfault s (by decide) (by decide) (by decide) rfl hon
  · obtain ⟨r, hr, hc, ha⟩ := flashLog_faultOff (code := Code.pwrRail) (by decide) (by decide) (BitVec.ofNat 32 rail) 4 s
    exact ⟨_, powered_eq hon rfl, rfl, rfl, r, hr, hc, ha⟩
  · exact ⟨_, powered_eq hon (if_pos hhot), rfl, rfl⟩
  · exact (powered_eq hon (if_neg (by rw [hcool]; decide))).trans (by rw [effectOf_self])
  · have hspec := sensorSample_spec (raw := raw) h1 h22 hf
    have hreading : reading s id raw = v := hv.symm
    refine ⟨_, powered_eq hon rfl, ?_⟩
    rw [effectOf_mp, effectOf_power, ← hreading]
    exact hspec
  · exact (powered_eq hon (sensorSample_of_unfitted hf)).trans (by rw [effectOf_self])
  · obtain ⟨hlow, hpow⟩ := inputLow_spec s
    exact ⟨_, powered_eq hon rfl, hlow, hpow.trans hon⟩

end Sys2Proof.Laws
end

section
/-!
SUPPORT. Self-tests (R440 to R444), the actions of OP_DARN (R445 to R449) and the resends of credit bridges (R20).
-/

namespace Sys2Proof.Laws

open Machine

/-! ### The queue of tests -/

theorem sat32_zero (c : W32) : sat32 c 0 = c := by
  unfold sat32
  have := c.isLt
  rw [if_neg (by omega)]
  simp

/-- Two counts one after the other are one count of both. -/
theorem sat32_sat32 (c : W32) (m n : Nat) : sat32 (sat32 c m) n = sat32 c (m + n) := by
  have hc := c.isLt
  unfold sat32
  by_cases h : 2 ^ 32 ≤ c.toNat + m
  · rw [if_pos h, if_pos (show 2 ^ 32 ≤ c.toNat + (m + n) by omega)]
    by_cases hn : n = 0
    · subst hn; simp
    · rw [if_pos (by simp; omega)]
  · rw [if_neg h, BitVec.toNat_ofNat, Nat.mod_eq_of_lt (by omega), Nat.add_assoc]

/-- The queue after a trigger (R440): its test at the end, unless a queued test is of its unit or the queue is full. -/
theorem tstQ_trigger (s : State) (test : Nat) (u : W32) : (s.trigger test u).mp.tstQ =
    if (∃ t ∈ s.mp.tstQ, testUnit t.test t.unit = testUnit test u) ∨ 32 + s.mp.tstBusy.toNat ≤ s.mp.tstQ.length
    then s.mp.tstQ else s.mp.tstQ ++ [⟨test, u⟩] := by
  have hany : s.mp.tstQ.any (fun t => testUnit t.test t.unit == testUnit test u) = true ↔
      ∃ t ∈ s.mp.tstQ, testUnit t.test t.unit = testUnit test u := by simp
  unfold State.trigger
  dsimp only
  by_cases hsame : ∃ t ∈ s.mp.tstQ, testUnit t.test t.unit = testUnit test u
  · rw [if_pos (hany.2 hsame), if_pos (.inl hsame)]
    rfl
  · rw [if_neg (mt hany.1 hsame)]
    by_cases hfull : 32 + s.mp.tstBusy.toNat ≤ s.mp.tstQ.length
    · rw [if_pos hfull, if_pos (.inr hfull)]
      rfl
    · rw [if_neg hfull, if_neg (fun h => h.elim hsame hfull)]
      rfl

theorem selftest_of_allowed {s : State} {m : Nat} {r : Request} (hr : s.request m Op.selftest = some r)
    (ht : r.num 0 1 ≤ 5) (hz : r.zero 1 3 = true) (hunit : unitOk s (r.num 0 1) (BitVec.ofNat 32 (r.num 4 4)) = true)
    (hcal : r.num 0 1 = 5 → mayRecalibrate s (unitA (BitVec.ofNat 32 (r.num 4 4))) = true) :
    selftest m s = (s.trigger (r.num 0 1) (BitVec.ofNat 32 (r.num 4 4))).respond m 0 [] := by
  unfold selftest
  rw [hr]
  dsimp only
  rw [if_neg (by simp [hz, hunit]; omega), if_neg]
  rintro ⟨h5, hno⟩
  rw [hcal h5] at hno
  exact Bool.noConfusion hno

/-! ### Steps -/

/-- The effect of a step beside its own result leaves the MP. -/
theorem mp_tstEffect (t : Tst) (s : State) : (tstEffect t s).mp = s.mp := by
  unfold tstEffect
  split
  · unfold tubTest
    dsimp only
    split
    · rfl
    · split <;> rfl
  · split
    · dsimp only
      split <;> rfl
    · split
      · unfold askRecalibrate
        split <;> rfl
      · rfl

/-- A step of the first test that may run. -/
theorem mp_tstStep {s : State} {t : Tst} {q : List Tst} (hq : s.mp.tstQ = t :: q) (hlen : s.mp.tstSteps < tstLen s t)
    (hspan : t.test ≤ 1 → freeSpan s = true) (hdoze : t.test ≤ 3 → s.power.doze = false)
    (hcal : t.test = 5 → mayRecalibrate s (unitA t.unit) = true) (cut : Bool) :
    (tstStep cut s).mp = if t.test ≤ 1 ∧ cut = true
      then { s.mp with tstBusy := true, tstAbandoned := sat32 s.mp.tstAbandoned 1 }
      else { s.mp with tstBusy := true, tstSteps := s.mp.tstSteps + 1 } := by
  unfold tstStep
  rw [hq]
  dsimp only
  have hd : ¬ (s.power.doze = true ∧ t.test ≤ 3) := by
    rintro ⟨hd, ht⟩
    rw [hdoze ht] at hd
    exact Bool.noConfusion hd
  rw [if_neg (by omega), if_neg hd]
  by_cases h1 : t.test ≤ 1
  · rw [if_pos h1, if_neg (by rw [hspan h1]; decide)]
    cases cut with
    | true => rw [if_pos rfl, if_pos ⟨h1, rfl⟩]; rfl
    | false => rw [if_neg (by decide), if_neg (by simp)]; rfl
  · have h5 : ¬ (t.test = 5 ∧ mayRecalibrate s (unitA t.unit) = false) := by
      rintro ⟨h5, hno⟩
      rw [hcal h5] at hno
      exact Bool.noConfusion hno
    rw [if_neg h1, if_neg h5, if_neg (fun h => h1 h.1), modMp_mp, mp_tstEffect]

/-! ### Results -/

/-- The MP without what a result may write beside the count of lasting results: the logs, the counted events, the units in
doubt, and what a lasting result retires or marks. -/
def tstView (p : Mp) : Bool × Nat × List Tst × W32 × W32 := (p.tstBusy, p.tstSteps, p.tstQ, p.tstRuns, p.tstLasting)

theorem tstView_offLogs (p : Mp) : tstView (offLogs p) = tstView p := rfl

theorem tstView_of_offLogs {p q : Mp} (h : offLogs p = offLogs q) : tstView p = tstView q := by
  rw [← tstView_offLogs p, h, tstView_offLogs]

theorem tstView_settleHealth (s : State) : tstView s.settleHealth.mp = tstView s.mp :=
  tstView_of_offLogs (offLogs_settleHealth s)
theorem tstView_unitEvent (code : Nat) (u : W32) (s : State) : tstView (unitEvent code u s).mp = tstView s.mp :=
  tstView_of_offLogs (offLogs_unitEvent code u s)
theorem tstView_changeTo (s t : State) (a b c d : Nat) : tstView (s.changeTo t a b c d).mp = tstView t.mp :=
  tstView_of_offLogs (offLogs_changeTo s t a b c d)

theorem tstView_retire (s : State) : tstView s.retire.mp = tstView s.mp := by
  obtain ⟨due, h⟩ := offLogs_retire s
  rw [← tstView_offLogs, h]
  rfl

theorem tstView_transientResult (t : Tst) (s : State) : tstView (transientResult t s).mp = tstView s.mp := by
  have hstand : ∀ (u : W32) (on : Bool) (v : State), tstView (v.stand u on).mp = tstView v.mp := fun _ _ _ => rfl
  have hnote : ∀ (k : Nat) (v : State), tstView (v.note k).mp = tstView v.mp := fun _ _ => rfl
  have hdeep : ∀ (v : State) (d : Nat), tstView (v.modMp fun p =>
      { p with unlocated := NSet.add p.unlocated d, deep := NSet.add p.deep d }).mp = tstView v.mp := fun _ _ => rfl
  unfold transientResult
  dsimp only
  split
  · split
    · rw [tstView_settleHealth, hdeep, tstView_unitEvent, hnote, tstView_unitEvent, hstand]
    · rw [hnote, tstView_unitEvent, hstand]
  · rw [tstView_unitEvent, hstand]

theorem tstView_rowFaulty (die row origin role : Nat) (s : State) :
    tstView (rowFaulty die row origin role s).mp = tstView s.mp := by
  have hfaulty : ∀ (v : State) (m : KV Nat), tstView (v.modMp fun p => { p with faulty := m }).mp = tstView v.mp :=
    fun _ _ => rfl
  have hpend : ∀ (v : State), tstView (v.modMp fun p => { p with pendingRow := KV.insert p.pendingRow die row }).mp =
      tstView v.mp := fun _ => rfl
  unfold rowFaulty
  dsimp only
  split
  · rw [tstView_settleHealth, hpend, tstView_changeTo]
    rfl
  · rw [tstView_retire, tstView_unitEvent, tstView_changeTo]
    rfl

/-- A lasting result is counted (R443). -/
theorem tstView_lastingResult (t : Tst) (row : Nat) (s : State) : tstView (lastingResult t row s).mp =
    (s.mp.tstBusy, s.mp.tstSteps, s.mp.tstQ, s.mp.tstRuns, sat32 s.mp.tstLasting 1) := by
  have hcount : tstView (s.modMp fun p => { p with tstLasting := sat32 p.tstLasting 1 }).mp =
      (s.mp.tstBusy, s.mp.tstSteps, s.mp.tstQ, s.mp.tstRuns, sat32 s.mp.tstLasting 1) := rfl
  have hstand : ∀ (u : W32) (on : Bool) (v : State), tstView (v.stand u on).mp = tstView v.mp := fun _ _ _ => rfl
  have hlink : ∀ (v : State) (a : Nat), tstView (v.modMp fun p => { p with lastingLink := NSet.add p.lastingLink a }).mp =
      tstView v.mp := fun _ _ => rfl
  unfold lastingResult
  dsimp only
  split
  · rw [tstView_rowFaulty, tstView_unitEvent, hcount]
  · split
    · rw [tstView_retire, hstand, tstView_unitEvent, hcount]
    · rw [tstView_settleHealth, hlink, tstView_unitEvent, hcount]

/-- Each of `n` lasting results is counted. -/
theorem tstView_lastingResults (t : Tst) (row n : Nat) (s : State) :
    tstView (forEach (List.range n) (fun _ s => lastingResult t row s) s).mp =
      (s.mp.tstBusy, s.mp.tstSteps, s.mp.tstQ, s.mp.tstRuns, sat32 s.mp.tstLasting n) := by
  induction n with
  | zero => rw [sat32_zero]; rfl
  | succ n ih =>
    unfold forEach at ih ⊢
    rw [List.range_succ, List.foldl_append, List.foldl_cons, List.foldl_nil]
    generalize (List.range n).foldl (fun s _ => lastingResult t row s) s = u at ih ⊢
    simp only [tstView, Prod.mk.injEq] at ih
    obtain ⟨hbusy, hsteps, hq, hruns, hlast⟩ := ih
    rw [tstView_lastingResult, hbusy, hsteps, hq, hruns, hlast, sat32_sat32]

/-- What the end of a test leaves (R443). -/
theorem tstView_tstResult {s : State} {t : Tst} {q : List Tst} (hq : s.mp.tstQ = t :: q) (hlen : tstLen s t ≤ s.mp.tstSteps)
    (found : TstFound) (row : Nat) : tstView (tstResult found row s).mp =
      (false, 0, q, sat32 s.mp.tstRuns 1, sat32 s.mp.tstLasting (lastingCount s t found row)) := by
  unfold tstResult
  rw [hq]
  dsimp only
  rw [if_neg (by omega)]
  have hcount : ∀ f : Mp → Mp, lastingCount (s.modMp f) t found row = lastingCount s t found row := fun _ => rfl
  rw [hcount]
  generalize lastingCount s t found row = n
  cases n with
  | zero => exact (tstView_transientResult t _).trans (by rw [sat32_zero]; rfl)
  | succ n => exact tstView_lastingResults t row (n + 1) _

theorem lastingCount_of_tub {s : State} {t : Tst} (h : t.test = 2) (found : TstFound) (row : Nat) :
    lastingCount s t found row = found.lasting.toNat + found.march.toNat := by
  unfold lastingCount
  rw [h]
  simp

theorem lastingCount_of_other {s : State} {t : Tst} {row : Nat} (h : t.test ≠ 2)
    (hrow : t.test = 0 → KV.get 16 s.bypass (unitA t.unit) ≠ row) (found : TstFound) :
    lastingCount s t found row = found.lasting.toNat := by
  have hby : (t.test == 0 && KV.get 16 s.bypass (unitA t.unit) == row) = false := by
    simp only [Bool.and_eq_false_iff, beq_eq_false_iff_ne]
    exact or_iff_not_imp_left.2 fun h0 => hrow (not_not.1 h0)
  unfold lastingCount
  rw [hby, beq_eq_false_iff_ne.2 h]
  simp

theorem lastingCount_of_bypassed {s : State} {t : Tst} {row : Nat} (h : t.test = 0)
    (hrow : KV.get 16 s.bypass (unitA t.unit) = row) (found : TstFound) : lastingCount s t found row = 0 := by
  unfold lastingCount
  rw [h, hrow]
  simp

/-! ### OP_DARN -/

theorem darn_eq_some {s : State} {m action : Nat} {r : Request} (h : s.darn m action = some r) :
    s.request m Op.darn = some r ∧ darnOk s r = true ∧ r.num 0 1 = action := by
  unfold State.darn at h
  split at h
  next q hq =>
    split at h
    next hok => obtain rfl := Option.some.inj h; exact ⟨hq, hok⟩
    next => exact absurd h (by simp)
  next => exact absurd h (by simp)

theorem length_darnBytes (s : State) : (darnBytes s).length = 72 := by
  unfold darnBytes dies4 ports16 slots8
  simp only [List.length_append, List.length_flatMap, length_leBytes]
  rfl

theorem darnRead_of_read {s : State} {m : Nat} {r : Request} (h : s.darn m 0 = some r) :
    darnRead m s = s.respond m 0 (darnBytes s) := by
  obtain ⟨hr, hok, haction⟩ := darn_eq_some h
  unfold darnRead
  rw [hr]
  dsimp only
  rw [if_neg (by rw [hok]; decide), if_pos haction]

/-- The faulty rows of a die, its pending row and whether the device is retired. -/
def repairView (die : Nat) (p : Mp) : Nat × Option Nat × Bool := (KV.get 0 p.faulty die, KV.find? p.pendingRow die, p.retired)

theorem repairView_offLogs (die : Nat) (p : Mp) : repairView die (offLogs p) = repairView die p := rfl

theorem repairView_of_offLogs {p q : Mp} (die : Nat) (h : offLogs p = offLogs q) : repairView die p = repairView die q := by
  rw [← repairView_offLogs die p, h, repairView_offLogs]

theorem bypass_changeTo (s t : State) (a b c d : Nat) : (s.changeTo t a b c d).bypass = t.bypass :=
  bypass_of_offRecords (offRecords_changeTo s t a b c d)

/-- A faulty tile-row enters the repair map, which is a change record (R446, R470). -/
def noteRow (die row origin role : Nat) (s : State) : State :=
  s.changeTo (s.modMp fun p => { p with faulty := KV.set 0 p.faulty die (KV.get 0 s.mp.faulty die ||| 2 ^ row) }) origin role 3
    die

theorem faulty_noteRow (die row origin role : Nat) (s : State) :
    KV.get 0 (noteRow die row origin role s).mp.faulty die = KV.get 0 s.mp.faulty die ||| 2 ^ row :=
  (congrArg Prod.fst (repairView_of_offLogs die (offLogs_changeTo _ _ _ _ _ _))).trans (KV.get_set_self _ _ _ _)

theorem bypass_noteRow (die row origin role : Nat) (s : State) : (noteRow die row origin role s).bypass = s.bypass :=
  bypass_changeTo s _ _ _ _ _

theorem rowFaulty_eq (die row origin role : Nat) (s : State) : rowFaulty die row origin role s =
    if KV.get 16 s.bypass die = 16 ∧ (KV.get 0 s.mp.faulty die = 0 ∨ KV.get 0 s.mp.faulty die = 2 ^ row) then
      ((noteRow die row origin role s).modMp fun p => { p with pendingRow := KV.insert p.pendingRow die row }).settleHealth
    else (unitEvent Code.darnBeyond (unitRow die row) (noteRow die row origin role s)).retire := by
  rw [← bypass_noteRow die row origin role s]
  rfl

/-- A faulty tile-row of a die whose spare is free and that has no other faulty row becomes pending (R446). -/
theorem rowFaulty_first {die row : Nat} {s : State} (origin role : Nat) (hby : KV.get 16 s.bypass die = 16)
    (hf : KV.get 0 s.mp.faulty die = 0 ∨ KV.get 0 s.mp.faulty die = 2 ^ row) :
    KV.get 0 (rowFaulty die row origin role s).mp.faulty die = KV.get 0 s.mp.faulty die ||| 2 ^ row ∧
      KV.find? (rowFaulty die row origin role s).mp.pendingRow die = some row := by
  rw [rowFaulty_eq, if_pos ⟨hby, hf⟩, ← faulty_noteRow die row origin role s]
  generalize noteRow die row origin role s = t
  have hsettle := repairView_of_offLogs die
    (offLogs_settleHealth (t.modMp fun p => { p with pendingRow := KV.insert p.pendingRow die row }))
  simp only [repairView, modMp_mp, Prod.mk.injEq] at hsettle
  obtain ⟨hfaulty, hpend, -⟩ := hsettle
  exact ⟨hfaulty, hpend.trans (KV.find?_insert_self _ _ _)⟩

/-- Elsewhere it retires the device (R446, R454). -/
theorem rowFaulty_beyond {die row : Nat} {s : State} (origin role : Nat)
    (h : ¬ (KV.get 16 s.bypass die = 16 ∧ (KV.get 0 s.mp.faulty die = 0 ∨ KV.get 0 s.mp.faulty die = 2 ^ row))) :
    KV.get 0 (rowFaulty die row origin role s).mp.faulty die = KV.get 0 s.mp.faulty die ||| 2 ^ row ∧
      (rowFaulty die row origin role s).mp.retired = true := by
  rw [rowFaulty_eq, if_neg h, ← faulty_noteRow die row origin role s]
  generalize noteRow die row origin role s = t
  obtain ⟨due, hret⟩ := offLogs_retire (unitEvent Code.darnBeyond (unitRow die row) t)
  rw [offLogs_unitEvent] at hret
  have hview : repairView die (unitEvent Code.darnBeyond (unitRow die row) t).retire.mp =
      (KV.get 0 t.mp.faulty die, KV.find? t.mp.pendingRow die, true) := by
    rw [← repairView_offLogs, hret]
    rfl
  simp only [repairView, Prod.mk.injEq] at hview
  obtain ⟨hfaulty, -, hretired⟩ := hview
  exact ⟨hfaulty, hretired⟩

theorem darnMark_of_mark {s : State} {m : Nat} {r : Request} (h : s.darn m 2 = some r) :
    darnMark m s = (rowFaulty (r.num 1 1) (r.num 2 1) 1 (KV.get 0 s.mp.roles 1) s).respond m 0 [] := by
  unfold darnMark
  rw [h]

/-! ### Repairs in force -/

theorem mem_erase_iff (m : KV Nat) (k : Nat) (e : Nat × Nat) : e ∈ KV.erase m k ↔ e ∈ m ∧ e.1 ≠ k := by
  induction m with
  | nil => simp [KV.erase]
  | cons a m ih =>
    obtain ⟨k', v⟩ := a
    unfold KV.erase
    split
    next h =>
      rw [ih, List.mem_cons]
      constructor
      · exact fun he => ⟨.inr he.1, he.2⟩
      · rintro ⟨rfl | he, hk⟩
        · exact absurd h hk
        · exact ⟨he, hk⟩
    next h =>
      rw [List.mem_cons, ih, List.mem_cons]
      constructor
      · rintro (rfl | ⟨he, hk⟩)
        · exact ⟨.inl rfl, h⟩
        · exact ⟨.inr he, hk⟩
      · rintro ⟨rfl | he, hk⟩
        · exact .inl rfl
        · exact .inr ⟨he, hk⟩

/-- What a repair of a die leaves (R449). -/
theorem darnDie_eq (die row role : Nat) (s : State) :
    (darnDie die row role s).mp.pendingRow = KV.erase s.mp.pendingRow die ∧
      (darnDie die row role s).mp.darnApplies = s.mp.darnApplies ∧
      (darnDie die row role s).bypass = KV.set 16 s.bypass die row := by
  have hbump : ∀ t : State, (bumpDie die t).mp.pendingRow = t.mp.pendingRow ∧
      (bumpDie die t).mp.darnApplies = t.mp.darnApplies ∧ (bumpDie die t).bypass = t.bypass := fun _ => ⟨rfl, rfl, rfl⟩
  have hbase := offLogs_changeTo s { (s.modMp fun p => { p with pendingRow := KV.erase p.pendingRow die }) with
    bypass := KV.set 16 s.bypass die row } 1 role 3 die
  have hby := bypass_changeTo s { (s.modMp fun p => { p with pendingRow := KV.erase p.pendingRow die }) with
    bypass := KV.set 16 s.bypass die row } 1 role 3 die
  unfold darnDie
  dsimp only
  generalize s.changeTo { (s.modMp fun p => { p with pendingRow := KV.erase p.pendingRow die }) with
    bypass := KV.set 16 s.bypass die row } 1 role 3 die = t at hbase hby ⊢
  have hpend : t.mp.pendingRow = KV.erase s.mp.pendingRow die := (congrArg Mp.pendingRow hbase :)
  have happ : t.mp.darnApplies = s.mp.darnApplies := (congrArg Mp.darnApplies hbase :)
  split
  · obtain ⟨h1, h2, h3⟩ := hbump t
    exact ⟨h1.trans hpend, h2.trans happ, h3.trans hby⟩
  · exact ⟨hpend, happ, hby⟩

/-- The repairs of every die of a list of pending rows. -/
def repairAll (role : Nat) (es : List (Nat × Nat)) (s : State) : State := forEach es (fun e s => darnDie e.1 e.2 role s) s

theorem repairAll_cons (role : Nat) (e : Nat × Nat) (es : List (Nat × Nat)) (s : State) :
    repairAll role (e :: es) s = repairAll role es (darnDie e.1 e.2 role s) := rfl

/-- No row stays pending that a repair covers. -/
theorem pendingRow_repairAll {role : Nat} {es : List (Nat × Nat)} {s : State}
    (h : ∀ e ∈ s.mp.pendingRow, e.1 ∈ es.map Prod.fst) : (repairAll role es s).mp.pendingRow = [] := by
  induction es generalizing s with
  | nil =>
    refine List.eq_nil_iff_forall_not_mem.2 fun e he => ?_
    exact absurd (h e he) (by simp)
  | cons a es ih =>
    rw [repairAll_cons]
    refine ih fun e he => ?_
    rw [(darnDie_eq a.1 a.2 role s).1, mem_erase_iff] at he
    obtain ⟨he, hne⟩ := he
    have hmem := h e he
    rw [List.map_cons, List.mem_cons] at hmem
    exact hmem.resolve_left hne

theorem darnApplies_repairAll (role : Nat) (es : List (Nat × Nat)) (s : State) :
    (repairAll role es s).mp.darnApplies = s.mp.darnApplies :=
  forEach_view (fun t : State => t.mp.darnApplies) (f := fun (e : Nat × Nat) s => darnDie e.1 e.2 role s)
    (fun e t => (darnDie_eq e.1 e.2 role t).2.1) es s

/-- The bypass of a die after the repairs: as before where none covers it, else a row that one gives it. -/
theorem bypass_repairAll (role d : Nat) (es : List (Nat × Nat)) (s : State) :
    (KV.find? es d = none → KV.get 16 (repairAll role es s).bypass d = KV.get 16 s.bypass d) ∧
      ((KV.find? es d).isSome = true → (d, KV.get 16 (repairAll role es s).bypass d) ∈ es) := by
  induction es generalizing s with
  | nil => exact ⟨fun _ => rfl, fun h => by simp [KV.find?] at h⟩
  | cons a es ih =>
    obtain ⟨k, v⟩ := a
    obtain ⟨hkeep, hgive⟩ := ih (darnDie k v role s)
    rw [(darnDie_eq k v role s).2.2, KV.get_set] at hkeep
    rw [repairAll_cons]
    unfold KV.find?
    by_cases hk : k = d
    · subst hk
      rw [if_pos rfl]
      refine ⟨fun h => by simp at h, fun _ => ?_⟩
      cases hf : KV.find? es k with
      | none => rw [hkeep hf, if_pos rfl]; exact List.mem_cons_self
      | some _ => exact List.mem_cons_of_mem _ (hgive (by rw [hf]; rfl))
    · rw [if_neg hk]
      exact ⟨fun h => by rw [hkeep h, if_neg (Ne.symm hk)], fun h => List.mem_cons_of_mem _ (hgive h)⟩

/-- The end of an OP_DARN APPLY that meets no failure (R449). -/
def applied (rows : List (Nat × Nat)) (s : State) : State :=
  ((forEach rows (fun e s => s.stand (unitRow e.1 e.2) false) s).modMp fun p =>
    { p with darnApplies := sat32 p.darnApplies 1 }).settleHealth

theorem applied_eq (rows : List (Nat × Nat)) (s : State) : (applied rows s).mp.pendingRow = s.mp.pendingRow ∧
    (applied rows s).mp.darnApplies = sat32 s.mp.darnApplies 1 ∧ (applied rows s).bypass = s.bypass := by
  have hstand := forEach_view (fun t : State => (t.mp.pendingRow, t.mp.darnApplies, t.bypass))
    (f := fun (e : Nat × Nat) s => s.stand (unitRow e.1 e.2) false) (fun _ _ => rfl) rows s
  unfold applied
  generalize forEach rows (fun e s => s.stand (unitRow e.1 e.2) false) s = t at hstand ⊢
  simp only [Prod.mk.injEq] at hstand
  obtain ⟨hpend, happ, hby⟩ := hstand
  have hlogs := offLogs_settleHealth (t.modMp fun p => { p with darnApplies := sat32 p.darnApplies 1 })
  have hrec := offRecords_settleHealth (t.modMp fun p => { p with darnApplies := sat32 p.darnApplies 1 })
  refine ⟨?_, ?_, ?_⟩
  · exact (congrArg Mp.pendingRow hlogs :).trans hpend
  · exact (congrArg Mp.darnApplies hlogs :).trans (congrArg (fun c => sat32 c 1) happ)
  · exact (bypass_of_offRecords hrec).trans hby

theorem darnApply_of_empty {s : State} {m : Nat} {r : Request} (h : s.darn m 1 = some r) (hp : s.mp.pendingRow ≠ [])
    (hst : ∀ c, c < 8 → (s.slot c).st = .empty) : darnApply m none s =
      (applied s.mp.pendingRow (repairAll (KV.get 0 s.mp.roles 1) s.mp.pendingRow s)).respond m 0 [] := by
  have hslots : slots8.any (fun c => (s.slot c).st != .empty) = false := by
    rw [List.any_eq_false]
    intro c hc
    rw [hst c (mem_slots8.1 hc)]
    decide
  have hgo : s.mp.pendingRow.takeWhile (fun e => (none : Option Nat) != some e.1) = s.mp.pendingRow :=
    List.takeWhile_eq_self_iff.2 fun _ _ => rfl
  unfold darnApply
  rw [h]
  dsimp only
  rw [if_neg (by rw [hslots]; simpa using hp)]
  simp only [Option.map_none, hgo]
  rfl

/-! ### CLEAR_LANE and bridge resends -/

theorem getLsbD_clearBit (v : BitVec 9) {n : Nat} (hn : n < 9) : (v &&& ~~~(1#9 <<< n)).getLsbD n = false := by
  rw [BitVec.getLsbD_and, BitVec.getLsbD_not, BitVec.getLsbD_shiftLeft]
  simp [hn]

/-- The lane that CLEAR_LANE names is unmarked (R448). -/
theorem marked_darnClearLane {s : State} {m : Nat} {r : Request} (h : s.darn m 3 = some r) : ∃ t : State,
    darnClearLane m s = t.respond m 0 [] ∧
      (KV.get 0 t.mp.marked (2 * r.num 1 1 + r.num 3 1)).getLsbD (r.num 2 1) = false := by
  obtain ⟨-, hok, haction⟩ := darn_eq_some h
  have hlane : r.num 2 1 < 9 := by
    unfold darnOk at hok
    rw [haction] at hok
    simp only [Bool.and_eq_true, decide_eq_true_eq] at hok
    have := hok.2
    simp at this
    omega
  unfold darnClearLane
  rw [h]
  refine ⟨_, rfl, ?_⟩
  split
  next hset =>
    have hmarked : ∀ t : State, (s.changeTo t 1 (KV.get 0 s.mp.roles 1) 3 (r.num 1 1)).settleHealth.mp.marked = t.mp.marked :=
      fun t => (congrArg Mp.marked ((offLogs_settleHealth _).trans (offLogs_changeTo s t _ _ _ _)) :)
    rw [hmarked, modMp_mp, KV.get_set_self]
    exact getLsbD_clearBit _ hlane
  next hclear => exact Bool.eq_false_iff.2 hclear

theorem events_bridgeResend (b : Nat) (s : State) : (bridgeResend b s).mp.events = (evKey 19 b, s.now) :: s.mp.events ∧
    NSet.mem (bridgeResend b s).mp.resendLogged b = true := by
  have hretire : ∀ t : State, t.retire.mp.events = t.mp.events ∧ t.retire.mp.resendLogged = t.mp.resendLogged := fun t => by
    obtain ⟨due, h⟩ := offLogs_retire t
    exact ⟨(congrArg Mp.events h :), (congrArg Mp.resendLogged h :)⟩
  have hlogged : ∀ t : State, t = (if NSet.mem (s.note (evKey 19 b)).mp.resendLogged b then s.note (evKey 19 b)
      else ((s.note (evKey 19 b)).modMp fun p => { p with resendLogged := NSet.add p.resendLogged b }).log 0 originMp 0xFF 0 0) →
      t.mp.events = (evKey 19 b, s.now) :: s.mp.events ∧ NSet.mem t.mp.resendLogged b = true := by
    rintro t rfl
    split
    next h => exact ⟨rfl, h⟩
    next => exact ⟨rfl, NSet.mem_add_self _ _⟩
  unfold bridgeResend
  dsimp only
  generalize ht : (if NSet.mem (s.note (evKey 19 b)).mp.resendLogged b then s.note (evKey 19 b)
      else ((s.note (evKey 19 b)).modMp fun p => { p with resendLogged := NSet.add p.resendLogged b }).log 0 originMp 0xFF 0 0) = t
  obtain ⟨hev, hmem⟩ := hlogged t ht.symm
  split
  · rw [(hretire t).1, (hretire t).2]
    exact ⟨hev, hmem⟩
  · exact ⟨hev, hmem⟩

/-- Settles O31: the queue, the steps and the results of a test are views of the MP that its logs do not show; so are the
faulty, pending and repaired rows. -/
theorem selfTestsAndDarn : Obligations.SelfTestsAndDarn := by
  unfold Obligations.SelfTestsAndDarn
  refine ⟨⟨fun m s r hon hr ht hz hunit hcal => ?_, fun s t q hon hq hlen hspan hdoze hcal => ⟨?_, fun h1 => ?_⟩,
      fun s t q found row hon hq hlen => ?_⟩,
    fun m s r hon hr => ⟨length_darnBytes s, ?_⟩, fun m s r hon hr => ?_, fun m s r hon hr hp hst => ?_,
    fun m s r hon hr => ?_, fun b s hon => ⟨_, powered_eq hon rfl, events_bridgeResend b s⟩⟩
  · refine ⟨_, powered_eq hon (selftest_of_allowed hr ht hz hunit hcal),
      answered_congr (effectOf_mbx _ _ _) (answered_respond _ _ _ _), ?_⟩
    rw [effectOf_mp, mp_respond, tstQ_trigger]
  · have hstep := mp_tstStep hq hlen hspan hdoze hcal false
    rw [if_neg (by simp)] at hstep
    refine ⟨_, powered_eq hon rfl, ?_⟩
    rw [effectOf_mp, hstep]
    exact ⟨rfl, rfl⟩
  · have hstep := mp_tstStep hq hlen hspan hdoze hcal true
    rw [if_pos ⟨h1, rfl⟩] at hstep
    refine ⟨_, powered_eq hon rfl, ?_⟩
    rw [effectOf_mp, hstep]
    exact ⟨rfl, rfl⟩
  · have hview := tstView_tstResult hq hlen found row.val
    simp only [tstView, Prod.mk.injEq] at hview
    obtain ⟨hbusy, hsteps, hqueue, hruns, hlast⟩ := hview
    refine ⟨_, powered_eq hon rfl, ?_⟩
    rw [effectOf_mp, hbusy, hsteps, hqueue, hruns, hlast]
    refine ⟨rfl, rfl, rfl, rfl, fun h => ?_, fun h hrow => ?_, fun h hrow => ?_⟩
    · rw [lastingCount_of_tub h]
    · rw [lastingCount_of_other h hrow]
    · rw [lastingCount_of_bypassed h hrow, sat32_zero]
  · exact ⟨_, powered_eq hon (darnRead_of_read hr), answered_congr (effectOf_mbx _ _ _) (answered_respond _ _ _ _)⟩
  · refine ⟨_, powered_eq hon (darnMark_of_mark hr), answered_congr (effectOf_mbx _ _ _) (answered_respond _ _ _ _), ?_⟩
    rw [effectOf_mp, mp_respond]
    have hfaulty : KV.get 0 (rowFaulty (r.num 1 1) (r.num 2 1) 1 (KV.get 0 s.mp.roles 1) s).mp.faulty (r.num 1 1) =
        KV.get 0 s.mp.faulty (r.num 1 1) ||| 2 ^ r.num 2 1 := by
      by_cases h : KV.get 16 s.bypass (r.num 1 1) = 16 ∧
          (KV.get 0 s.mp.faulty (r.num 1 1) = 0 ∨ KV.get 0 s.mp.faulty (r.num 1 1) = 2 ^ r.num 2 1)
      · exact (rowFaulty_first 1 _ h.1 h.2).1
      · exact (rowFaulty_beyond 1 _ h).1
    refine ⟨hfaulty, fun hby hf => (rowFaulty_first 1 _ hby hf).2, fun h => (rowFaulty_beyond 1 _ ?_).2⟩
    rintro ⟨hby, hf⟩
    exact h.elim (fun hne => hne hby) fun hne => hf.elim hne.1 hne.2
  · obtain ⟨hpend, happ, hby⟩ := applied_eq s.mp.pendingRow (repairAll (KV.get 0 s.mp.roles 1) s.mp.pendingRow s)
    refine ⟨_, powered_eq hon (darnApply_of_empty hr hp hst), answered_congr (effectOf_mbx _ _ _) (answered_respond _ _ _ _), ?_⟩
    rw [effectOf_mp, mp_respond, effectOf_bypass, bypass_respond, hpend, happ, hby, darnApplies_repairAll]
    exact ⟨pendingRow_repairAll fun e he => List.mem_map_of_mem he, rfl, fun d => bypass_repairAll _ d _ s⟩
  · obtain ⟨t, ht, hlane⟩ := marked_darnClearLane hr
    refine ⟨_, powered_eq hon ht, answered_congr (effectOf_mbx _ _ _) (answered_respond _ _ _ _), ?_⟩
    rw [effectOf_mp, mp_respond]
    exact hlane

end Sys2Proof.Laws
end

section
/-!
SUPPORT. What each verdict makes of a slot (Table 2.5, R49 to R52).
-/

namespace Sys2Proof.Laws

open Machine

/-! ### The branches of a verdict -/

/-- The slot's record of its last verdict (Table 2.11). -/
def tellVerdict (c v : Nat) (s : State) : State :=
  s.modSlot c fun x => { x with stk := { x.stk with lastVerdict := BitVec.ofNat 3 v } }

theorem slot_tellVerdict (c v : Nat) (s : State) : (tellVerdict c v s).slot c =
    { s.slot c with stk := { (s.slot c).stk with lastVerdict := BitVec.ofNat 3 v } } := slot_modSlot _ _ _

theorem st_tellVerdict (c v : Nat) (s : State) : ((tellVerdict c v s).slot c).st = (s.slot c).st := by rw [slot_tellVerdict]
theorem att_tellVerdict (c v : Nat) (s : State) : ((tellVerdict c v s).slot c).att = (s.slot c).att := by rw [slot_tellVerdict]

/-- The verdict of a slot that holds no context is its fault count alone. -/
theorem applyVerdict_of_empty {s : State} {c : Nat} (v : Nat) (h : (s.slot c).st = .empty) :
    (applyVerdict c v s).slot c = s.slot c := by
  have hcount : ∀ t : State, t = (if v = 7 then s.modStroke fun k => { k with verdictFaults := sat32 k.verdictFaults 1 } else s) →
      t.slot c = s.slot c := by
    rintro t rfl
    split <;> rfl
  unfold applyVerdict
  dsimp only
  generalize ht : (if v = 7 then s.modStroke fun k => { k with verdictFaults := sat32 k.verdictFaults 1 } else s) = t
  have hslot := hcount t ht.symm
  rw [hslot, if_pos h, hslot]

/-- COMMIT after a tally of OK that was sent (R51). -/
theorem applyVerdict_commit {s : State} {c : Nat} (hrun : (s.slot c).st = .running) (hok : (s.slot c).att.sentCode = 1)
    (hout : s.stroke.tallyOut = true) : applyVerdict c 1 s = commitSlot c (tellVerdict c 1 s) := by
  have hout' : (tellVerdict c 1 s).stroke.tallyOut = true := hout
  unfold applyVerdict
  rw [if_neg (show ¬ 1 = 7 by decide), if_neg (show ¬ 1 = 7 by decide), if_neg (by rw [hrun]; decide)]
  change (if !decide (((tellVerdict c 1 s).slot c).st = .running) then _ else if ((tellVerdict c 1 s).slot c).att.sentCode = 1 ∧
    (tellVerdict c 1 s).stroke.tallyOut = true then _ else _) = _
  rw [st_tellVerdict, att_tellVerdict, if_neg (by simp [hrun]), if_pos ⟨hok, hout'⟩]
  rfl

/-- COMMIT after any other tally is F_MARK_VERDICT: the slot stops. -/
theorem applyVerdict_misfit {s : State} {c : Nat} (hrun : (s.slot c).st = .running)
    (hbad : (s.slot c).att.sentCode ≠ 1 ∨ s.stroke.tallyOut = false) : applyVerdict c 1 s =
      (stopSlot c (((tellVerdict c 1 s).log Code.markVerdict originCp c 0 0).modStroke
        fun k => { k with verdictFaults := sat32 k.verdictFaults 1 })).postCtx c Code.markVerdict 0 := by
  have hout : (tellVerdict c 1 s).stroke = s.stroke := rfl
  unfold applyVerdict
  rw [if_neg (show ¬ 1 = 7 by decide), if_neg (show ¬ 1 = 7 by decide), if_neg (by rw [hrun]; decide)]
  change (if !decide (((tellVerdict c 1 s).slot c).st = .running) then _ else if ((tellVerdict c 1 s).slot c).att.sentCode = 1 ∧
    (tellVerdict c 1 s).stroke.tallyOut = true then _ else _) = _
  rw [st_tellVerdict, att_tellVerdict, hout, if_neg (by simp [hrun]), if_neg (by
    rintro ⟨h1, h2⟩
    exact hbad.elim (fun h => h h1) (fun h => by rw [h] at h2; exact Bool.noConfusion h2))]
  rfl

/-- REPLAY and REPLAY_LONG rerun the index of a RUNNING slot (R52). -/
theorem applyVerdict_rerun {s : State} {c v : Nat} (hrun : (s.slot c).st = .running) (hv : v = 3 ∨ v = 4) :
    applyVerdict c v s = rerun c (tellVerdict c v s) := by
  have hst := st_tellVerdict c v s
  obtain rfl | rfl := hv <;>
  · unfold applyVerdict
    rw [if_neg (show ¬ _ = 7 by decide), if_neg (show ¬ _ = 7 by decide), if_neg (by rw [hrun]; decide)]
    exact if_pos (by rw [← hrun, ← hst]; simp [tellVerdict])

/-- HOLD holds a RUNNING slot. -/
theorem applyVerdict_hold {s : State} {c : Nat} (hrun : (s.slot c).st = .running) :
    applyVerdict c 5 s = (tellVerdict c 5 s).setCtx c fun x => { x with st := .held } := by
  have hst := st_tellVerdict c 5 s
  unfold applyVerdict
  rw [if_neg (show ¬ 5 = 7 by decide), if_neg (show ¬ 5 = 7 by decide), if_neg (by rw [hrun]; decide)]
  exact if_pos (by rw [← hrun, ← hst]; simp [tellVerdict])

/-- WAIT starts a HELD slot that has no cause. -/
theorem applyVerdict_wait {s : State} {c : Nat} (hheld : (s.slot c).st = .held) (hstop : (s.slot c).stopped = false)
    (hholds : (s.slot c).holds = 0) : applyVerdict c 2 s =
      (tellVerdict c 2 s).setCtx c fun x => { x with st := .running, att := { x.att with reruns := 0 } } := by
  unfold applyVerdict
  rw [if_neg (show ¬ 2 = 7 by decide), if_neg (show ¬ 2 = 7 by decide), if_neg (by rw [hheld]; decide)]
  exact if_pos (by rw [slot_modSlot]; exact ⟨hheld, hstop, hholds⟩)

/-- The count of the reserved verdict code (R49). -/
def countReserved (s : State) : State := s.modStroke fun k => { k with verdictFaults := sat32 k.verdictFaults 1 }

/-- The reserved code is counted and acts as STOP. -/
theorem applyVerdict_reserved {s : State} {c : Nat} (hst : (s.slot c).st ≠ .empty) :
    applyVerdict c 7 s = stopSlot c (tellVerdict c 6 (countReserved s)) := by
  unfold applyVerdict
  rw [if_pos rfl, if_pos rfl]
  exact if_neg hst

theorem applyVerdict_reserved_of_empty {s : State} {c : Nat} (hst : (s.slot c).st = .empty) :
    applyVerdict c 7 s = countReserved s := by
  unfold applyVerdict
  rw [if_pos rfl, if_pos rfl]
  exact if_pos hst

/-- STOP, and the reserved code that counts as STOP. -/
theorem applyVerdict_stop {s : State} {c v : Nat} (hst : (s.slot c).st ≠ .empty) (hv : v = 6 ∨ v = 7) :
    ∃ t : State, t.slot c = s.slot c ∧ applyVerdict c v s = stopSlot c (tellVerdict c 6 t) := by
  obtain rfl | rfl := hv
  · refine ⟨s, rfl, ?_⟩
    unfold applyVerdict
    rw [if_neg (show ¬ 6 = 7 by decide), if_neg (show ¬ 6 = 7 by decide), if_neg hst]
    rfl
  · exact ⟨countReserved s, rfl, applyVerdict_reserved hst⟩

/-! ### What they leave -/

/-- A commit of the slot (R51), but for the books of its feed. -/
theorem slot_commitSlot (c : Nat) (s : State) : (commitSlot c s).slot c =
    { s.slot c with
      stk := { (s.slot c).stk with index := (s.slot c).stk.index + 1 }
      att := { (s.slot c).att with reruns := 0, committed := true }
      cur := (s.slot c).next, next := .none
      acct := { (s.slot c).acct with commits := sat32 (s.slot c).acct.commits 1 } } := by
  unfold commitSlot
  dsimp only
  split
  · exact (slot_modMbx _ _ _ _).trans (slot_modSlot _ _ _)
  · exact slot_modSlot _ _ _

/-- A slot that stops, whatever its state but EMPTY and SAVED, is HELD until the host unloads it. -/
theorem slot_stopSlot {s : State} {c : Nat} (h : (s.slot c).st = .running ∨ (s.slot c).st = .loaded ∨ (s.slot c).st = .held) :
    ((stopSlot c s).slot c).st = .held ∧ ((stopSlot c s).slot c).stopped = true ∧ ((stopSlot c s).slot c).armed = false ∧
      ((stopSlot c s).slot c).stk.index = (s.slot c).stk.index := by
  have hindex : ∀ f : Ctx → Ctx, ((s.setCtx c f).slot c).stk.index = (f (s.slot c)).stk.index :=
    slot_setCtx_view (fun x => x.stk.index) (fun _ => rfl) s c
  unfold stopSlot
  rw [hindex, slot_setCtx, moved_st, moved_stopped, moved_armed]
  obtain hst | hst | hst := h <;> rw [hst] <;> exact ⟨rfl, rfl, rfl, rfl⟩

theorem stroke_stopSlot (c : Nat) (s : State) : (stopSlot c s).stroke = s.stroke :=
  stroke_of_bystanders (bystanders_setCtx s c _)

/-- A reserved code is counted, whatever the slot holds. -/
theorem verdictFaults_reserved (c : Nat) (s : State) :
    (applyVerdict c 7 s).stroke.verdictFaults = sat32 s.stroke.verdictFaults 1 := by
  by_cases hst : (s.slot c).st = .empty
  · rw [applyVerdict_reserved_of_empty hst]
    rfl
  · rw [applyVerdict_reserved hst, stroke_stopSlot]
    rfl

/-- A rerun within the limit (R52). -/
theorem slot_rerun {s : State} {c : Nat} (h : (s.slot c).att.reruns + 1 ≤ s.stroke.replayLimit.toNat) :
    (rerun c s).slot c = { s.slot c with
      att := { (s.slot c).att with reruns := (s.slot c).att.reruns + 1 }
      stk := { (s.slot c).stk with replays := sat32 (s.slot c).stk.replays 1 } } := by
  unfold rerun
  dsimp only
  rw [if_neg (Nat.not_lt.2 h), slot_modSlot]

/-- A rerun past the limit holds the slot with cause 5 (R52). -/
theorem held_rerun {s : State} {c : Nat} (h : s.stroke.replayLimit.toNat < (s.slot c).att.reruns + 1) :
    ((rerun c s).slot c).st = .held ∧ ((rerun c s).slot c).holds = (s.slot c).holds ||| holdBit 5 := by
  unfold rerun
  dsimp only
  rw [if_pos h, (hostOnly_postCtx _ _ _ _).slot, slot_setCtx, moved_st, moved_holds]
  exact ⟨rfl, rfl⟩

/-- Settles O36: each verdict's branch of `applyVerdict`, and what the branch makes of the slot. -/
theorem verdictEffects : Obligations.VerdictEffects := by
  unfold Obligations.VerdictEffects
  intro c s _
  refine ⟨fun hrun hok hout => ?_, fun hrun hbad => ?_, fun v hv hrun => ⟨fun hle => ?_, fun hgt => ?_⟩, fun hrun => ?_,
    fun hheld hstop hholds => ?_, fun v hv hst => ?_, verdictFaults_reserved c s, fun v h => applyVerdict_of_empty v h⟩
  · rw [applyVerdict_commit hrun hok hout, slot_commitSlot, slot_tellVerdict]
    exact ⟨rfl, rfl, rfl, rfl, hrun⟩
  · rw [applyVerdict_misfit hrun hbad]
    have htold : ((((tellVerdict c 1 s).log Code.markVerdict originCp c 0 0).modStroke
        fun k => { k with verdictFaults := sat32 k.verdictFaults 1 }).slot c) = (tellVerdict c 1 s).slot c := rfl
    generalize ((tellVerdict c 1 s).log Code.markVerdict originCp c 0 0).modStroke
        (fun k => { k with verdictFaults := sat32 k.verdictFaults 1 }) = t at htold ⊢
    obtain ⟨hheld, hstop, -, hindex⟩ := slot_stopSlot (s := t) (c := c) (.inl (by rw [htold, st_tellVerdict, hrun]))
    rw [(hostOnly_postCtx _ _ _ _).slot, hindex, htold, slot_tellVerdict]
    exact ⟨rfl, hheld, hstop⟩
  · rw [applyVerdict_rerun hrun hv, slot_rerun (by rw [att_tellVerdict]; exact hle), slot_tellVerdict]
    exact ⟨hrun, rfl, rfl⟩
  · obtain ⟨hheld, hholds⟩ := held_rerun (s := tellVerdict c v s) (c := c) (by rw [att_tellVerdict]; exact hgt)
    rw [applyVerdict_rerun hrun hv, hholds, slot_tellVerdict]
    exact ⟨hheld, rfl⟩
  · rw [applyVerdict_hold hrun, slot_setCtx, moved_st, moved_stopped, slot_tellVerdict]
    exact ⟨rfl, rfl⟩
  · rw [applyVerdict_wait hheld hstop hholds, slot_setCtx, moved_st]
  · obtain ⟨t, ht, happ⟩ := applyVerdict_stop (c := c) (v := v) (s := s)
      (by obtain h | h | h := hst <;> rw [h] <;> decide) hv
    rw [happ]
    obtain ⟨hheld, hstop, harmed, -⟩ := slot_stopSlot (s := tellVerdict c 6 t) (c := c) (by rw [st_tellVerdict, ht]; exact hst)
    exact ⟨hheld, hstop, harmed⟩

end Sys2Proof.Laws
end

section
/-!
SUPPORT. The ports of the link: what their operations leave (R346 to R357), and how marks travel (R33, R48, R361, R362).
-/

namespace Sys2Proof.Laws

open Machine

/-! ### The state without its ports -/

/-- The state without the ports of the link. -/
def offPorts (s : State) : State := { s with ghl := { s.ghl with ports := [] } }

section
variable {s t : State} (h : offPorts t = offPorts s)
include h

theorem slots_of_offPorts : t.slots = s.slots := (congrArg State.slots h :)
theorem slot_of_offPorts (c : Nat) : t.slot c = s.slot c := slot_congr (slots_of_offPorts h) c
theorem stroke_of_offPorts : t.stroke = s.stroke := (congrArg State.stroke h :)
theorem mp_of_offPorts : t.mp = s.mp := (congrArg State.mp h :)
theorem now_of_offPorts : t.now = s.now := (congrArg State.now h :)
theorem power_of_offPorts : t.power = s.power := (congrArg State.power h :)
theorem hamper_of_offPorts : t.hamper = s.hamper := (congrArg State.hamper h :)
theorem fuses_of_offPorts : t.fuses = s.fuses := (congrArg State.fuses h :)
theorem stackMem_of_offPorts : t.stackMem = s.stackMem := (congrArg State.stackMem h :)
theorem hostMem_of_offPorts : t.hostMem = s.hostMem := (congrArg State.hostMem h :)
theorem tubMem_of_offPorts : t.tubMem = s.tubMem := (congrArg State.tubMem h :)
theorem restGhl_of_offPorts : { t.ghl with ports := [] } = { s.ghl with ports := [] } := (congrArg State.ghl h :)
theorem admitted_of_offPorts : t.ghl.admitted = s.ghl.admitted := (congrArg Ghl.admitted (restGhl_of_offPorts h) :)
theorem upValid_of_offPorts : t.ghl.upValid = s.ghl.upValid := (congrArg Ghl.upValid (restGhl_of_offPorts h) :)
theorem upPort_of_offPorts : t.ghl.upPort = s.ghl.upPort := (congrArg Ghl.upPort (restGhl_of_offPorts h) :)
theorem downMask_of_offPorts : t.ghl.downMask = s.ghl.downMask := (congrArg Ghl.downMask (restGhl_of_offPorts h) :)
theorem deviceId_of_offPorts : t.ghl.deviceId = s.ghl.deviceId := (congrArg Ghl.deviceId (restGhl_of_offPorts h) :)
theorem valid_of_offPorts : t.ghl.valid = s.ghl.valid := (congrArg Ghl.valid (restGhl_of_offPorts h) :)
theorem routes_of_offPorts : t.ghl.routes = s.ghl.routes := (congrArg Ghl.routes (restGhl_of_offPorts h) :)
theorem myId_of_offPorts : t.myId = s.myId := congrArg BitVec.toNat (deviceId_of_offPorts h)

theorem noneRunning_of_offPorts : noneRunning t = noneRunning s := by
  unfold noneRunning
  simp only [slot_of_offPorts h]

end

@[simp] theorem offPorts_modPort (s : State) (p : Nat) (f : GPort → GPort) : offPorts (s.modPort p f) = offPorts s := rfl
@[simp] theorem offPorts_pushPrio (p : Nat) (es : List PrioOut) (s : State) : offPorts (pushPrio p es s) = offPorts s := rfl
@[simp] theorem offPorts_pushLink (p n : Nat) (b : List Byte) (s : State) : offPorts (pushLink p n b s) = offPorts s := rfl

@[simp] theorem effectOf_port (s x : State) (p : Nat) : (s.effectOf x).port p = x.port p := rfl
@[simp] theorem port_modStroke (s : State) (f : Stroke → Stroke) (p : Nat) : (s.modStroke f).port p = s.port p := rfl
@[simp] theorem port_modMp (s : State) (f : Mp → Mp) (p : Nat) : (s.modMp f).port p = s.port p := rfl
@[simp] theorem port_modSlot (s : State) (c : Nat) (f : Ctx → Ctx) (p : Nat) : (s.modSlot c f).port p = s.port p := rfl
@[simp] theorem port_note (s : State) (k p : Nat) : (s.note k).port p = s.port p := rfl
@[simp] theorem port_log (s : State) (a b c : Nat) (d : W32) (e : BitVec 48) (p : Nat) : (s.log a b c d e).port p = s.port p := rfl

@[simp] theorem port_pushPrio (p : Nat) (es : List PrioOut) (s : State) :
    (pushPrio p es s).port p = { s.port p with prio := (s.port p).prio ++ es } := port_modPort _ _ _

theorem port_pushPrio_other {p q : Nat} (es : List PrioOut) (s : State) (h : q ≠ p) : (pushPrio p es s).port q = s.port q :=
  port_modPort_other _ _ h

@[simp] theorem port_pushLink (p n : Nat) (b : List Byte) (s : State) :
    (pushLink p n b s).port p = { s.port p with prio := (s.port p).prio ++ [.link (linkPkt n b)] } := port_modPort _ _ _

/-- Two ports of one training state, one loss and one neighbour carry the same. -/
theorem portUp_congr {s t : State} {p : Nat} (hst : (t.port p).st = (s.port p).st) (hlost : (t.port p).lost = (s.port p).lost)
    (hpeer : (t.port p).peerAdmitted = (s.port p).peerAdmitted) (hadm : t.ghl.admitted = s.ghl.admitted) :
    t.portUp p = s.portUp p := by
  unfold State.portUp GPort.code GPort.trained
  rw [hst, hlost, hpeer, hadm]

/-! ### Taking a packet out of the receive buffer -/

@[simp] theorem offPorts_takeIn (p : Nat) (b : List Byte) (s : State) : offPorts (takeIn p b s) = offPorts s := by
  unfold takeIn
  split <;> rfl

/-- A packet that is handled leaves the receive buffer; nothing else of the port changes. -/
theorem port_takeIn (p : Nat) (b : List Byte) (s : State) : ∃ q, (takeIn p b s).port p = { s.port p with inbox := q } := by
  unfold takeIn
  split
  · exact ⟨_, port_modPort _ _ _⟩
  · exact ⟨_, rfl⟩

theorem port_takeIn_other {p q : Nat} (b : List Byte) (s : State) (h : q ≠ p) : (takeIn p b s).port q = s.port q := by
  unfold takeIn
  split
  · exact port_modPort_other _ _ h
  · rfl

/-- What does not tell the receive buffer of a port is the same after a packet was taken out of it. -/
theorem port_takeIn_view {β : Type} (P : GPort → β) (hP : ∀ g q, P { g with inbox := q } = P g) (p : Nat) (b : List Byte)
    (s : State) (q : Nat) : P ((takeIn p b s).port q) = P (s.port q) := by
  by_cases h : q = p
  · subst h
    obtain ⟨i, hi⟩ := port_takeIn q b s
    rw [hi, hP]
  · rw [port_takeIn_other b s h]

theorem portUp_takeIn (p : Nat) (b : List Byte) (s : State) (q : Nat) : (takeIn p b s).portUp q = s.portUp q :=
  portUp_congr (port_takeIn_view GPort.st (fun _ _ => rfl) p b s q) (port_takeIn_view GPort.lost (fun _ _ => rfl) p b s q)
    (port_takeIn_view GPort.peerAdmitted (fun _ _ => rfl) p b s q) (admitted_of_offPorts (offPorts_takeIn p b s))

/-! ### Marks -/

/-- A root issues the next mark with the verdicts it has formed (R48). -/
theorem markIssue_of_ready {s : State} (hmode : s.stroke.mode = 1) (hent : s.stroke.entered = none)
    (hready : s.stroke.cycle0 = none ∨ s.stroke.sent = true ∨ s.hamper.cpUp = false ∨ s.stroke.unheard = true) :
    markIssue s = s.modStroke fun x => { x with
      entered := some ⟨s.stroke.mark + 1, (nextVerdicts s).any (fun v => v == 2 || v == 4), packCodes (nextVerdicts s),
        s.stroke.period, s.stroke.rootId, 0⟩
      fwd := some (⟨s.stroke.mark + 1, (nextVerdicts s).any (fun v => v == 2 || v == 4), packCodes (nextVerdicts s),
        s.stroke.period, s.stroke.rootId, 0⟩, s.now) } := by
  unfold markIssue
  exact if_pos ⟨hmode, hent, hready⟩

/-- A good new mark of the upstream port is taken with its aligned arrival (R362). -/
theorem markIn_of_new {s : State} {p : Nat} {b : List Byte} (n : Nat) (hup : s.portUp p = true) (hcrc : crcOk b = true)
    (hmode : s.stroke.mode = 2) (hvalid : s.ghl.upValid = true) (hport : s.ghl.upPort.toNat = p)
    (hlost : s.stroke.domainLost = false) (hnew : (s.port p).lastMark ≠ some (Mark.of (pnum b 4 16)).number) : ∃ t : State,
      markIn p b n s = t.modStroke (fun k => { k with rx := some ⟨Mark.of (pnum b 4 16), p, n + rxPad s p - pnum b 2 1⟩ }) ∧
      (t.port p).lastMark = some (Mark.of (pnum b 4 16)).number ∧ (t.port p).misses = 0 := by
  have hpad : rxPad (s.modPort p fun g => { g with lastMark := some (Mark.of (pnum b 4 16)).number, misses := 0 }) p =
      rxPad s p := by
    unfold rxPad
    rw [port_modPort]
    rfl
  refine ⟨s.modPort p fun g => { g with lastMark := some (Mark.of (pnum b 4 16)).number, misses := 0 }, ?_, ?_⟩
  · unfold markIn
    rw [if_neg (by rw [hup]; decide), if_neg (by rw [hcrc]; decide)]
    dsimp only
    rw [if_neg hnew, if_pos (by exact ⟨hmode, hvalid, hport, hlost⟩), hpad]
  · rw [port_modPort]
    exact ⟨rfl, rfl⟩

/-- A MARK or TALLY with a bad check is counted; the Stroke stays (R361). -/
theorem badCheck_counts (p : Nat) (s : State) : (badCheck p s).stroke = s.stroke ∧
    (badCheck p s).port p = { s.port p with markCheck := sat32 (s.port p).markCheck 1 } := by
  have hlog : ∀ t : State, (if t.ghl.checkLogged = some t.stroke.mark then t
      else (t.modGhl fun g => { g with checkLogged := some t.stroke.mark }).log Code.ghlMarkCheck originHw 0xFF 0 0).stroke =
        t.stroke ∧
      (if t.ghl.checkLogged = some t.stroke.mark then t
      else (t.modGhl fun g => { g with checkLogged := some t.stroke.mark }).log Code.ghlMarkCheck originHw 0xFF 0 0).port p =
        t.port p := fun t => by split <;> exact ⟨rfl, rfl⟩
  have hlink : ∀ t : State, (triggerLink p t).stroke = t.stroke ∧ (triggerLink p t).port p = t.port p := fun t =>
    ⟨stroke_of_offRecords (offRecords_trigger _ _ _), port_of_offRecords (offRecords_trigger _ _ _) p⟩
  unfold badCheck
  dsimp only
  rw [(hlog _).1, (hlog _).2]
  split
  · rw [(hlink _).1, (hlink _).2, port_note, port_modPort]
    exact ⟨rfl, rfl⟩
  · rw [port_note, port_modPort]
    exact ⟨rfl, rfl⟩

/-- Both copies of a mark go out on every port that carries marks (R33, R361). -/
theorem prio_pushMarks (m : Mark) (a : Nat) (s : State) {xs : List Nat} (hnd : xs.Nodup) (p : Nat) :
    ((forEach xs (fun p s => pushPrio p [.mark m a false] s) s).port p).prio =
      if p ∈ xs then (s.port p).prio ++ [.mark m a false] else (s.port p).prio := by
  induction xs generalizing s with
  | nil => rfl
  | cons x xs ih =>
    obtain ⟨hx, hnd⟩ := List.nodup_cons.1 hnd
    rw [forEach_cons, ih _ hnd]
    by_cases h : p = x
    · subst h
      rw [if_neg hx, if_pos List.mem_cons_self, port_pushPrio]
    · rw [port_pushPrio_other _ _ h]
      simp only [List.mem_cons, h, false_or]

/-- Settles O33, from the branch of each mark operation that its premises choose. -/
theorem marksTravel : Obligations.MarksTravel := by
  unfold Obligations.MarksTravel
  refine ⟨fun s hon hmode hent hready => ?_, fun p b n s hon hup => ⟨fun hcrc hmode hvalid hport hlost hnew => ?_, fun hcrc => ?_⟩,
    fun s r hon hrx hent => ?_, fun s m a hon hfwd => ?_⟩
  · refine ⟨_, _, (powered_eq hon (markIssue_of_ready hmode hent hready)).trans rfl, rfl, rfl, rfl, rfl, rfl, ?_⟩
    simp only [List.any_eq_true, Bool.or_eq_true, beq_iff_eq]
  · have hoff := offPorts_takeIn p.val b s
    obtain ⟨t, ht, hlast, hmiss⟩ := markIn_of_new (s := takeIn p.val b s) (p := p.val) n (by rw [portUp_takeIn, hup]) hcrc
      (by rw [stroke_of_offPorts hoff, hmode]) (by rw [upValid_of_offPorts hoff, hvalid])
      (by rw [upPort_of_offPorts hoff, hport]) (by rw [stroke_of_offPorts hoff, hlost])
      (by rw [port_takeIn_view GPort.lastMark (fun _ _ => rfl)]; exact hnew)
    have hpad : rxPad (takeIn p.val b s) p.val = rxPad s p.val := by
      unfold rxPad
      dsimp only
      rw [stroke_of_offPorts hoff, port_takeIn_view GPort.st (fun _ _ => rfl), port_takeIn_view GPort.wFull (fun _ _ => rfl),
        port_takeIn_view GPort.wKeeper (fun _ _ => rfl)]
    refine ⟨_, powered_eq hon ht, ?_, hlast, hmiss⟩
    rw [hpad]
    rfl
  · have hmark : markIn p.val b n (takeIn p.val b s) = badCheck p.val (takeIn p.val b s) := by
      unfold markIn
      rw [if_neg (by rw [portUp_takeIn, hup]; decide), if_pos hcrc]
    obtain ⟨hstroke, hport⟩ := badCheck_counts p.val (takeIn p.val b s)
    refine ⟨_, powered_eq hon hmark, ?_, ?_⟩
    · rw [effectOf_stroke, hstroke, stroke_of_offPorts (offPorts_takeIn p.val b s)]
    · rw [effectOf_port, hport, port_takeIn_view GPort.markCheck (fun _ _ => rfl)]
  · refine (powered_eq hon (y := s.modStroke fun k => { k with rx := none, entered := some r.mark, fwd := some (r.mark, r.at_) })
      ?_).trans rfl
    unfold markEntry
    rw [hrx]
    exact if_pos hent
  · have hforward : markForward s = forEach (ports16.filter fun p => s.portUp p) (fun p s => pushPrio p [.mark m a false] s)
        (s.modStroke fun k => { k with fwd := none }) := by
      unfold markForward
      rw [hfwd]
      rfl
    have hnd : (ports16.filter fun p => s.portUp p).Nodup := (List.nodup_range).filter _
    refine ⟨_, powered_eq hon hforward, ?_, fun p hp => ?_⟩
    · rw [effectOf_stroke, forEach_view State.stroke (f := fun p s => pushPrio p [.mark m a false] s) (fun _ _ => rfl)]
      rfl
    · rw [effectOf_port, prio_pushMarks m a _ hnd p, port_modStroke]
      simp [ports16, hp]

end Sys2Proof.Laws
end

section
/-!
SUPPORT. What the end of a context's work leaves alone: the ports but for their queues, the link's registers, the MP but for
its records, and of every slot all but its work and its cause (R54, R221, R355, R373).
-/

namespace Sys2Proof.KV

/-- A read of a table whose values were all changed alike. -/
theorem get_map {α : Type} (f : α → α) (d : α) (hd : f d = d) (m : KV α) (k : Nat) :
    get d (m.map fun e => (e.1, f e.2)) k = f (get d m k) := by
  induction m with
  | nil => exact hd.symm
  | cons e m ih =>
    obtain ⟨j, v⟩ := e
    rw [List.map_cons, get, get]
    split
    · rfl
    · exact ih

end Sys2Proof.KV

namespace Sys2Proof.Laws

open Machine

/-! ### Ports, registers of the link, and the MP -/

/-- A port without the queues of its sources. -/
def calm (g : GPort) : GPort := { g with writes := [], reduces := [], receipts := [], mgmts := [], txNum := 0 }

/-- The MP without its records, its queue of tests and its counted events. -/
def offTests (p : Mp) : Mp := { offLogs p with tstQ := [], tstDropped := 0, events := [] }

/-- Every port without its queues, the link's registers without the counts of dropped packets, and the MP without its records
and tests. -/
def linkFrame (s : State) : (Nat → GPort) × Ghl × Mp :=
  (fun p => calm (s.port p), { s.ghl with ports := [], staleDrops := 0, hopLimit := 0 }, offTests s.mp)

section
variable {s t : State} (h : linkFrame t = linkFrame s)
include h

theorem calm_port_of_linkFrame (p : Nat) : calm (t.port p) = calm (s.port p) := congrFun (congrArg Prod.fst h) p
theorem ghl_of_linkFrame : { t.ghl with ports := [], staleDrops := 0, hopLimit := 0 } =
    { s.ghl with ports := [], staleDrops := 0, hopLimit := 0 } := congrArg (fun x => x.2.1) h
theorem mp_of_linkFrame : offTests t.mp = offTests s.mp := congrArg (fun x => x.2.2) h
theorem admitted_of_linkFrame : t.ghl.admitted = s.ghl.admitted := (congrArg Ghl.admitted (ghl_of_linkFrame h) :)
theorem upValid_of_linkFrame : t.ghl.upValid = s.ghl.upValid := (congrArg Ghl.upValid (ghl_of_linkFrame h) :)
theorem upPort_of_linkFrame : t.ghl.upPort = s.ghl.upPort := (congrArg Ghl.upPort (ghl_of_linkFrame h) :)
theorem cpHeld_of_linkFrame : t.mp.cpHeld = s.mp.cpHeld := (congrArg Mp.cpHeld (mp_of_linkFrame h) :)

end

theorem MemoryOnly.linkFrame {s t : State} (h : MemoryOnly s t) : linkFrame t = linkFrame s := by
  obtain ⟨_, _, _, rfl⟩ := h; rfl
theorem HostOnly.linkFrame {s t : State} (h : HostOnly s t) : linkFrame t = linkFrame s := by
  obtain ⟨_, _, rfl⟩ := h; rfl

@[simp] theorem linkFrame_modSlot (s : State) (c : Nat) (f : Ctx → Ctx) : linkFrame (s.modSlot c f) = linkFrame s := rfl
@[simp] theorem linkFrame_modCtxGhl (s : State) (c : Nat) (f : CtxGhl → CtxGhl) : linkFrame (s.modCtxGhl c f) = linkFrame s := rfl
@[simp] theorem linkFrame_modStroke (s : State) (f : Stroke → Stroke) : linkFrame (s.modStroke f) = linkFrame s := rfl
@[simp] theorem linkFrame_note (s : State) (k : Nat) : linkFrame (s.note k) = linkFrame s := rfl
@[simp] theorem linkFrame_log (s : State) (a b c : Nat) (d : W32) (e : BitVec 48) : linkFrame (s.log a b c d e) = linkFrame s := rfl
@[simp] theorem linkFrame_staleDrop (n : Nat) (s : State) : linkFrame (staleDrop n s) = linkFrame s := rfl
@[simp] theorem linkFrame_tested (s : State) (q : List Tst) : linkFrame (s.modMp fun p => { p with tstQ := q }) = linkFrame s := rfl
@[simp] theorem linkFrame_dropped (s : State) (n : W32) :
    linkFrame (s.modMp fun p => { p with tstDropped := n }) = linkFrame s := rfl

@[simp] theorem linkFrame_complete (s : State) (c cls inst k : Nat) (r : List Byte) :
    linkFrame (s.complete c cls inst k r) = linkFrame s := (memoryOnly_complete s c cls inst k r).linkFrame
@[simp] theorem linkFrame_postCtx (s : State) (c code : Nat) (arg : W32) : linkFrame (s.postCtx c code arg) = linkFrame s :=
  (hostOnly_postCtx s c code arg).linkFrame

theorem linkFrame_originate (s : State) (o : Nat) (m : List Byte) : linkFrame (s.originate o m) = linkFrame s := by
  have hmp : offTests (s.originate o m).mp = offTests s.mp :=
    congrArg (fun p => { p with tstQ := [], tstDropped := 0, events := [] }) (offLogs_originate s o m)
  exact Prod.ext rfl (Prod.ext rfl hmp)

@[simp] theorem linkFrame_postDev (s : State) (code : Nat) (arg : W32) : linkFrame (s.postDev code arg) = linkFrame s := by
  have hpost := (hostOnly_post s 0 0xFF code 0 arg).linkFrame
  have hevent : ∀ (t : State) (cls : Nat) (d : List Byte), linkFrame (t.platformEvent cls d) = linkFrame t := fun t cls d => by
    unfold State.platformEvent
    split
    · exact linkFrame_originate t _ _
    · rfl
  unfold State.postDev
  rw [hevent]
  exact hpost

@[simp] theorem linkFrame_trigger (s : State) (test : Nat) (u : W32) : linkFrame (s.trigger test u) = linkFrame s := by
  unfold State.trigger
  dsimp only
  split
  · rfl
  · split <;> rfl

@[simp] theorem linkFrame_triggerLink (p : Nat) (s : State) : linkFrame (triggerLink p s) = linkFrame s := linkFrame_trigger s _ _

theorem linkFrame_modPort {s : State} {p : Nat} {f : GPort → GPort} (hf : ∀ g, calm (f g) = calm g) :
    linkFrame (s.modPort p f) = linkFrame s := by
  refine Prod.ext (funext fun q => ?_) rfl
  show calm ((s.modPort p f).port q) = calm (s.port q)
  by_cases h : q = p
  · subst h; rw [port_modPort, hf]
  · rw [port_modPort_other _ _ h]

theorem calm_push (b : List Byte) (g : GPort) : calm (g.push b) = calm g := by
  unfold GPort.push
  dsimp only
  split
  · rfl
  · split
    · rfl
    · split <;> rfl

@[simp] theorem linkFrame_push (s : State) (p : Nat) (b : List Byte) : linkFrame (s.modPort p (GPort.push b)) = linkFrame s :=
  linkFrame_modPort (calm_push b)

/-- Packets that have not begun leave every port alike. -/
theorem port_dropQueued (d : List Byte → Bool) (s : State) (p : Nat) : (dropQueued d s).port p =
    { s.port p with
      writes := (s.port p).writes.filter fun q => !d q.bytes, reduces := (s.port p).reduces.filter fun q => !d q.bytes } :=
  KV.get_map (fun g : GPort => { g with writes := g.writes.filter fun q => !d q.bytes, reduces := g.reduces.filter fun q => !d q.bytes })
    GPort.reset rfl s.ghl.ports p

@[simp] theorem linkFrame_dropQueued (d : List Byte → Bool) (s : State) : linkFrame (dropQueued d s) = linkFrame s := by
  refine Prod.ext (funext fun p => ?_) rfl
  show calm ((dropQueued d s).port p) = calm (s.port p)
  rw [port_dropQueued]
  rfl

@[simp] theorem linkFrame_endAct (c : Nat) (a : GhlAct) (status : Nat) (ab : Bool) (s : State) :
    linkFrame (endAct c a status ab s) = linkFrame s := by
  unfold endAct
  dsimp only
  split <;> simp

theorem linkFrame_abortGhl (status c : Nat) (s : State) : linkFrame (abortGhl status c s) = linkFrame s :=
  forEach_view linkFrame (fun _ _ => linkFrame_endAct _ _ _ _ _) _ _

theorem linkFrame_abortPress (status c : Nat) (s : State) : linkFrame (abortPress status c s) = linkFrame s := by
  unfold abortPress
  rw [linkFrame_modSlot]
  exact forEach_view linkFrame (fun _ _ => linkFrame_complete _ _ _ _ _ _) _ _

theorem linkFrame_endTask (t : StrTask) (status : Nat) (ab : Bool) (s : State) :
    linkFrame (endTask t status ab s) = linkFrame s := linkFrame_complete s _ _ _ _ _

theorem linkFrame_abortStreams (status c : Nat) (s : State) : linkFrame (abortStreams status c s) = linkFrame s :=
  forEach_view linkFrame (fun _ _ => linkFrame_endTask _ _ _ _) _ _

theorem linkFrame_abortSeams (status c : Nat) (s : State) : linkFrame (abortSeams status c s) = linkFrame s := by
  unfold abortSeams
  exact forEach_view linkFrame (fun _ _ => linkFrame_complete _ _ _ _ _ _) _ s

theorem linkFrame_fallGuard (s : State) : linkFrame (fallGuard s) = linkFrame s := by
  unfold fallGuard
  dsimp only
  split <;> rfl

theorem linkFrame_abortOp (status : Nat) (o : MglOp) (s : State) : linkFrame (abortOp status o s) = linkFrame s := by
  unfold abortOp
  dsimp only
  split
  · rfl
  · split
    · rfl
    · rw [linkFrame_fallGuard]; rfl

theorem linkFrame_abortMangle (status c : Nat) (s : State) : linkFrame (abortMangle status c s) = linkFrame s :=
  forEach_view linkFrame (fun _ _ => linkFrame_abortOp _ _ _) _ _

theorem linkFrame_abortTiles (status c : Nat) (s : State) : linkFrame (abortTiles status c s) = linkFrame s := by
  unfold abortTiles
  exact forEach_view linkFrame (fun _ _ => linkFrame_complete _ _ _ _ _ _) _ s

theorem linkFrame_discardRest (s : State) (c : Nat) : linkFrame (s.discardRest c) = linkFrame s := by
  unfold State.discardRest
  dsimp only
  rw [linkFrame_modSlot]
  exact forEach_view linkFrame (fun _ s => forEach_view linkFrame (fun _ _ => linkFrame_complete _ _ _ _ _ _) _ s) _ s

@[simp] theorem linkFrame_abortAll (status c : Nat) (s : State) : linkFrame (abortAll status c s) = linkFrame s := by
  unfold abortAll
  rw [linkFrame_abortGhl, linkFrame_abortPress, linkFrame_abortStreams, linkFrame_abortSeams, linkFrame_abortMangle,
    linkFrame_abortTiles]

/-- A cause of Table 2.6 leaves the link and the MP, but for queues and records. -/
@[simp] theorem linkFrame_raiseCause (s : State) (c code : Nat) (arg : W32) (ext : BitVec 48) :
    linkFrame (raiseCause s c code arg ext) = linkFrame s := by
  unfold raiseCause
  dsimp only
  split
  · rfl
  · split
    · rw [linkFrame_discardRest, linkFrame_abortAll, linkFrame_modSlot, linkFrame_postCtx, linkFrame_log]
    · rw [linkFrame_modSlot, linkFrame_postCtx, linkFrame_log]

@[simp] theorem linkFrame_actFault (c : Nat) (a : GhlAct) (code : Nat) (s : State) :
    linkFrame (actFault c a code s) = linkFrame s := by
  unfold actFault
  dsimp only
  split <;> simp

/-! ### Lost packets -/

@[simp] theorem linkFrame_countNoRoute (b : List Byte) (s : State) : linkFrame (countNoRoute b s) = linkFrame s := by
  unfold countNoRoute
  dsimp only
  split <;> rfl

@[simp] theorem bystanders_triggerLink (p : Nat) (s : State) : bystanders (triggerLink p s) = bystanders s := by
  unfold triggerLink State.trigger
  dsimp only
  split
  · rfl
  · split <;> rfl

/-- What a receipt leaves, for any view that its parts leave. -/
theorem receiptIn_view {β : Type} (P : State → β) (hdrop : ∀ n s, P (staleDrop n s) = P s)
    (hlink : ∀ p s, P (triggerLink p s) = P s) (hact : ∀ s c f, P (s.modCtxGhl c f) = P s)
    (hend : ∀ c a n ab s, P (endAct c a n ab s) = P s) (hfault : ∀ c a n s, P (actFault c a n s) = P s) (b : List Byte)
    (s : State) : P (receiptIn b s) = P s := by
  have hmod : ∀ c a f t, P (State.modAct t c a f) = P t := fun c a f t => hact t c _
  have hone : ∀ n t, P (if n = 1 then (match portTo t (psrc b) with
      | some p => triggerLink p t
      | none => t) else t) = P t := fun n t => by
    split
    · split
      · exact hlink _ t
      · rfl
    · rfl
  unfold receiptIn
  dsimp only
  split
  · exact hdrop 1 s
  · split
    · exact hdrop 1 s
    · generalize ht : (if min 4 (pnum b 7 1) = 1 then (match portTo s (psrc b) with
        | some p => triggerLink p s
        | none => s) else s) = t
      have hview : P t = P s := ht ▸ hone _ s
      split
      · split
        · exact hview
        · rw [hfault, hview]
      · split
        · split
          · rw [hend, hmod, hview]
          · rw [hmod, hview]
        · rw [hfault, hmod, hview]

/-- What a lost packet leaves, for any view that its parts leave. -/
theorem losePkt_view {β : Type} (P : State → β) (hin : ∀ b s, P (receiptIn b s) = P s)
    (hpush : ∀ (s : State) p b, P (s.modPort p (GPort.push b)) = P s) (hroute : ∀ b s, P (countNoRoute b s) = P s)
    (b : List Byte) (s : State) : P (losePkt b s) = P s := by
  unfold losePkt sendReceipt
  split
  · rfl
  · split
    · exact hin _ s
    · exact hpush s _ _
    · exact hroute _ s
    · rfl

theorem linkFrame_receiptIn (b : List Byte) (s : State) : linkFrame (receiptIn b s) = linkFrame s :=
  receiptIn_view linkFrame (fun _ _ => rfl) linkFrame_triggerLink (fun _ _ _ => rfl) linkFrame_endAct linkFrame_actFault b s

theorem bystanders_receiptIn (b : List Byte) (s : State) : bystanders (receiptIn b s) = bystanders s :=
  receiptIn_view bystanders (fun _ _ => rfl) bystanders_triggerLink (fun _ _ _ => rfl) bystanders_endAct bystanders_actFault b s

@[simp] theorem linkFrame_losePkt (b : List Byte) (s : State) : linkFrame (losePkt b s) = linkFrame s :=
  losePkt_view linkFrame linkFrame_receiptIn linkFrame_push linkFrame_countNoRoute b s

@[simp] theorem bystanders_losePkt (b : List Byte) (s : State) : bystanders (losePkt b s) = bystanders s :=
  losePkt_view bystanders bystanders_receiptIn (fun _ _ _ => rfl)
    (fun b s => by unfold countNoRoute; dsimp only; split <;> rfl) b s

/-- A port that falls quiet keeps what is not queued (R367, R368). -/
theorem bystanders_quietPort (p : Nat) (s : State) : bystanders (quietPort p s) = bystanders s :=
  (forEach_view bystanders (fun _ _ => bystanders_losePkt _ _) _ _).trans rfl

theorem linkFrame_quietPort (p : Nat) (s : State) : linkFrame (quietPort p s) = linkFrame (s.modPort p GPort.quiet) :=
  forEach_view linkFrame (fun _ _ => linkFrame_losePkt _ _) _ _

/-! ### Slots -/

/-- A slot without its work, its cause and its count of overruns. -/
def offCause (x : Ctx) : Ctx :=
  { x with
    ghl := .empty, tileCmds := [], seqs := [], pos := [], press := { x.press with jobs := [] }
    att := { x.att with cause := 0 }, stk := { x.stk with overruns := 0 } }

theorem offCause_offGhl (x : Ctx) : offCause (offGhl x) = offCause x := rfl

theorem offCause_abortAll (status c d : Nat) (s : State) : offCause ((abortAll status c s).slot d) = offCause (s.slot d) := by
  by_cases h : d = c
  · subst h
    obtain ⟨q, hq⟩ := slot_abortAll status d s
    rw [← offCause_offGhl, hq]
    rfl
  · rw [otherSlots_abortAll status c s d h]

theorem offCause_discardRest (c d : Nat) (s : State) : offCause ((s.discardRest c).slot d) = offCause (s.slot d) := by
  by_cases h : d = c
  · subst h
    obtain ⟨p, hp⟩ := slot_discardRest s d
    rw [hp]
    rfl
  · rw [otherSlots_discardRest s c d h]

theorem offCause_enterCause (c d code : Nat) (arg : W32) (ext : BitVec 48) (s : State) :
    offCause ((enterCause s c code arg ext).slot d) = offCause (s.slot d) := by
  by_cases h : d = c
  · subst h
    rw [slot_enterCause]
    have hstk : ∀ (x : Ctx) (b : Prop) [Decidable b] (n : Nat), offCause { x with
        att := { x.att with cause := n }
        stk := if b then { x.stk with overruns := sat32 x.stk.overruns 1 } else x.stk } = offCause x := fun x b _ n => by
      split <;> rfl
    exact hstk _ _ _
  · rw [otherSlots_enterCause s c code arg ext d h]

/-- A cause leaves of a slot all but its work, its cause and its count of overruns. -/
theorem offCause_raiseCause (c d code : Nat) (arg : W32) (ext : BitVec 48) (s : State) :
    offCause ((raiseCause s c code arg ext).slot d) = offCause (s.slot d) := by
  cases hon : (s.slot c).att.on with
  | false => rw [raiseCause_of_over code arg ext hon]
  | true =>
    rw [raiseCause_of_on code arg ext hon]
    split
    · rw [offCause_discardRest, offCause_abortAll, offCause_enterCause]
    · rw [offCause_enterCause]

theorem offCause_endAct (c d : Nat) (a : GhlAct) (status : Nat) (ab : Bool) (s : State) :
    offCause ((endAct c a status ab s).slot d) = offCause (s.slot d) := by
  rw [← offCause_offGhl, offGhl_slot_endAct, offCause_offGhl]

theorem offCause_actFault (c d : Nat) (a : GhlAct) (code : Nat) (s : State) :
    offCause ((actFault c a code s).slot d) = offCause (s.slot d) := by
  unfold actFault
  dsimp only
  split <;> rw [offCause_raiseCause, offCause_endAct]

theorem offCause_modCtxGhl (c d : Nat) (f : CtxGhl → CtxGhl) (s : State) :
    offCause ((s.modCtxGhl c f).slot d) = offCause (s.slot d) := by
  rw [← offCause_offGhl, offGhl_slot_modCtxGhl, offCause_offGhl]

theorem slot_triggerLink (p : Nat) (s : State) (d : Nat) : (triggerLink p s).slot d = s.slot d :=
  slot_of_offRecords (offRecords_trigger s _ _) d

theorem slot_countNoRoute (b : List Byte) (s : State) (d : Nat) : (countNoRoute b s).slot d = s.slot d := by
  unfold countNoRoute
  dsimp only
  split <;> rfl

theorem offCause_losePkt (b : List Byte) (s : State) (d : Nat) : offCause ((losePkt b s).slot d) = offCause (s.slot d) :=
  losePkt_view (fun t => offCause (t.slot d))
    (fun b s => receiptIn_view (fun t => offCause (t.slot d)) (fun _ _ => rfl)
      (fun p s => congrArg offCause (slot_triggerLink p s d)) (fun s c f => offCause_modCtxGhl c d f s)
      (fun c a n ab s => offCause_endAct c d a n ab s) (fun c a n s => offCause_actFault c d a n s) b s)
    (fun _ _ _ => rfl) (fun b s => congrArg offCause (slot_countNoRoute b s d)) b s

theorem offCause_quietPort (p : Nat) (s : State) (d : Nat) : offCause ((quietPort p s).slot d) = offCause (s.slot d) :=
  forEach_view (fun t => offCause (t.slot d)) (fun _ _ => offCause_losePkt _ _ d) _ _

end Sys2Proof.Laws
end

section
/-!
SUPPORT. The closing band, tallies and missed marks (R47, R48, R55, R365 to R368).
-/

namespace Sys2Proof.Laws

open Machine

/-! ### Ranges that end with work left -/

/-- Of a slot: its state, its holds and faults, and whether a page fault has fixed its tally. -/
def holdView (x : Ctx) : CtxSt × Bool × BitVec 6 × CtxFault × Option CtxFault × Bool :=
  (x.st, x.stopped, x.holds, x.fault, x.att.pageFault, decide (x.att.cause = 5))

theorem holdView_offGhl (x : Ctx) : holdView (offGhl x) = holdView x := rfl

/-- Equal attempts and equal slots but for their work have equal views. -/
theorem holdView_congr {x y : Ctx} (h : offCause x = offCause y) (hcause : decide (x.att.cause = 5) = decide (y.att.cause = 5)) :
    holdView x = holdView y := by
  have hst : x.st = y.st := (congrArg Ctx.st h :)
  have hstopped : x.stopped = y.stopped := (congrArg Ctx.stopped h :)
  have hholds : x.holds = y.holds := (congrArg Ctx.holds h :)
  have hfault : x.fault = y.fault := (congrArg Ctx.fault h :)
  have hpage : x.att.pageFault = y.att.pageFault := (congrArg (fun x : Ctx => x.att.pageFault) h :)
  simp only [holdView, hst, hstopped, hholds, hfault, hpage, hcause]

theorem cause_raiseCause (c d code : Nat) (arg : W32) (ext : BitVec 48) (s : State) :
    ((raiseCause s c code arg ext).slot d).att.cause = if d = c ∧ (s.slot c).att.on = true
      then max (s.slot d).att.cause (tallyOf code) else (s.slot d).att.cause := by
  by_cases h : d = c
  · subst h
    cases hon : (s.slot d).att.on with
    | false => rw [raiseCause_of_over code arg ext hon, if_neg (by simp)]
    | true =>
      have hatt : ((raiseCause s d code arg ext).slot d).att = ((enterCause s d code arg ext).slot d).att :=
        congrArg Prod.fst (attemptOf_raiseCause code arg ext hon)
      rw [hatt, slot_enterCause, if_pos (show d = d ∧ true = true from ⟨rfl, rfl⟩)]
  · rw [otherSlots_raiseCause s c code arg ext d h, if_neg (fun e => h e.1)]

/-- An overrun neither makes nor unmakes a page fault's tally. -/
theorem holdView_raiseOverrun (c d : Nat) (s : State) :
    holdView ((raiseCause s c Code.strokeOverrun 0 0).slot d) = holdView (s.slot d) := by
  have htally : tallyOf Code.strokeOverrun = 4 := rfl
  refine holdView_congr (offCause_raiseCause _ _ _ _ _ _) ?_
  rw [cause_raiseCause, htally]
  split
  · rw [decide_eq_decide]; omega
  · rfl

theorem holdView_abortTiles (status c d : Nat) (s : State) : holdView ((abortTiles status c s).slot d) = holdView (s.slot d) := by
  by_cases h : d = c
  · subst h
    obtain ⟨q, hq⟩ := slot_abortTiles status d s
    rw [hq]
    rfl
  · rw [otherSlots_abortTiles status c s d h]

theorem holdView_abortPress (status c d : Nat) (s : State) : holdView ((abortPress status c s).slot d) = holdView (s.slot d) := by
  by_cases h : d = c
  · subst h
    rw [slot_abortPress]
    rfl
  · rw [otherSlots_abortPress status c s d h]

theorem holdView_abortClass (k status c d : Nat) (s : State) :
    holdView ((abortClass k status c s).slot d) = holdView (s.slot d) := by
  unfold abortClass
  split
  · rw [slot_abortMangle]
  · exact holdView_abortTiles status c d s
  · rw [slot_abortStreams]
  · exact holdView_abortPress status c d s
  · rw [← holdView_offGhl, offGhl_slot_abortGhl, holdView_offGhl]
  · rw [slot_abortSeams]

@[simp] theorem bystanders_abortClass (k status c : Nat) (s : State) : bystanders (abortClass k status c s) = bystanders s := by
  unfold abortClass
  split <;> simp

@[simp] theorem linkFrame_abortClass (k status c : Nat) (s : State) : linkFrame (abortClass k status c s) = linkFrame s := by
  unfold abortClass
  split
  · exact linkFrame_abortMangle _ _ _
  · exact linkFrame_abortTiles _ _ _
  · exact linkFrame_abortStreams _ _ _
  · exact linkFrame_abortPress _ _ _
  · exact linkFrame_abortGhl _ _ _
  · exact linkFrame_abortSeams _ _ _

/-- What the ends of ranges leave: the Stroke, the link and the MP but for queues and records, and the view of each slot. -/
def bandFrame (s : State) : State × ((Nat → GPort) × Ghl × Mp) × (Nat → CtxSt × Bool × BitVec 6 × CtxFault × Option CtxFault × Bool) :=
  (bystanders s, linkFrame s, fun d => holdView (s.slot d))

theorem bandFrame_overrun (c k : Nat) (s : State) : bandFrame (overrun c k s) = bandFrame s := by
  unfold overrun
  refine Prod.ext ?_ (Prod.ext ?_ (funext fun d => ?_))
  · exact (bystanders_raiseCause _ _ _ _ _).trans (bystanders_abortClass _ _ _ _)
  · exact (linkFrame_raiseCause _ _ _ _ _).trans (linkFrame_abortClass _ _ _ _)
  · exact (holdView_raiseOverrun _ _ _).trans (holdView_abortClass _ _ _ _ _)

theorem bandFrame_ranges (c : Nat) (f : KV Nat → KV Nat) (s : State) :
    bandFrame (s.modSlot c fun x => { x with att := { x.att with ranges := f x.att.ranges } }) = bandFrame s := by
  refine Prod.ext rfl (Prod.ext rfl (funext fun d => ?_))
  show holdView ((s.modSlot c _).slot d) = holdView (s.slot d)
  by_cases h : d = c
  · subst h
    rw [slot_modSlot]
    rfl
  · rw [slot_modSlot_other _ _ h]

theorem bandFrame_rangeEndAt (c k r : Nat) (s : State) : bandFrame (rangeEndAt c k r s) = bandFrame s := by
  unfold rangeEndAt
  dsimp only
  split
  · rfl
  · rw [bandFrame_ranges c fun m => KV.erase m (8 * k + r)]
    split
    · exact bandFrame_overrun c k s
    · rfl

theorem bandFrame_unbegun (c : Nat) (s : State) : bandFrame (unbegun c s) = bandFrame s := by
  unfold unbegun
  dsimp only
  split
  · split
    · exact bandFrame_overrun c _ s
    · rfl
  · rfl

/-- The ends of every range leave the frame. -/
theorem bandFrame_endWork (s : State) : bandFrame (forEach slots8 unbegun (endRanges s)) = bandFrame s := by
  rw [forEach_view bandFrame bandFrame_unbegun]
  exact forEach_view bandFrame (fun c s => forEach_view bandFrame (fun e s => bandFrame_rangeEndAt c _ _ s) _ s) slots8 s

/-! ### The closing band -/

/-- A slot's own tally, told in its registers (R47). -/
def tellTally (x : Ctx) : Ctx :=
  { x with stk := { x.stk with lastTally := BitVec.ofNat 3 x.tally }, att := { x.att with sentCode := x.tally } }

theorem tally_tellTally (x : Ctx) : (tellTally x).tally = x.tally := rfl

theorem slot_pageHold_other {c d : Nat} (h : d ≠ c) (s : State) : (pageHold c s).slot d = s.slot d := by
  unfold pageHold
  dsimp only
  split
  · exact slot_modSlot_other _ _ h
  · rfl

/-- A slot after its page fault, if any, has held it (R261). -/
def pageHeld (x : Ctx) : Ctx :=
  if x.st = .running ∧ x.att.cause = 5 then
    { x with
      holds := x.holds ||| holdBit 6
      fault := match x.att.pageFault with
        | some f => { f with hiLatch := x.fault.hiLatch }
        | none => x.fault }
  else x

theorem slot_pageHold (c : Nat) (s : State) : (pageHold c s).slot c = pageHeld (s.slot c) := by
  have htally : tallyOf Code.strPageFault = 5 := rfl
  unfold pageHold pageHeld
  dsimp only
  rw [htally]
  split
  · exact slot_modSlot _ _ _
  · rfl

/-- A hold for a page fault leaves what the slot has told: a RUNNING slot's tally is its cause. -/
theorem pageHeld_keeps (x : Ctx) : (pageHeld x).stk = x.stk ∧ (pageHeld x).att = x.att ∧ (pageHeld x).tally = x.tally := by
  unfold pageHeld
  split
  next h =>
    refine ⟨rfl, rfl, ?_⟩
    unfold Ctx.tally
    dsimp only
    rw [h.1]
  next => exact ⟨rfl, rfl, rfl⟩

/-- Every slot tells its tally (R47). -/
def tellTallies (s : State) : State := forEach slots8 (fun c s => s.modSlot c tellTally) s

/-- The closing band is under way. -/
def markClosing (s : State) : State := s.modStroke fun k => { k with closing := true, formed := true, tallyOut := k.mode != 2#2 }

theorem formTally_eq (s : State) :
    ∃ cs, formTally s = (forEach slots8 pageHold (markClosing (tellTallies s))).combine cs 1 := ⟨_, rfl⟩

theorem slot_combine (s : State) (cs : List Nat) (n c : Nat) : (s.combine cs n).slot c = s.slot c := rfl
theorem slot_markClosing (s : State) (c : Nat) : (markClosing s).slot c = s.slot c := rfl
theorem closing_combine (s : State) (cs : List Nat) (n : Nat) : (s.combine cs n).stroke.closing = s.stroke.closing := rfl
theorem mark_combine (s : State) (cs : List Nat) (n : Nat) : (s.combine cs n).stroke.mark = s.stroke.mark := rfl
theorem closing_markClosing (s : State) : (markClosing s).stroke.closing = true := rfl
theorem mark_markClosing (s : State) : (markClosing s).stroke.mark = s.stroke.mark := rfl

theorem slot_tellTallies (s : State) {c : Nat} (hc : c < 8) : (tellTallies s).slot c = tellTally (s.slot c) := by
  obtain ⟨t, ht, htold⟩ := forEach_once (P := fun u => u.slot c) (f := fun c s => s.modSlot c tellTally) (m := c)
    (fun n u hn => slot_modSlot_other _ _ (Ne.symm hn)) nodup_slots8 (mem_slots8.2 hc) s
  unfold tellTallies
  rw [htold, slot_modSlot, ht]

theorem slot_pageHolds (s : State) {c : Nat} (hc : c < 8) : (forEach slots8 pageHold s).slot c = pageHeld (s.slot c) := by
  obtain ⟨t, ht, hheld⟩ := forEach_once (P := fun u => u.slot c) (f := pageHold) (m := c)
    (fun n u hn => slot_pageHold_other (Ne.symm hn) u) nodup_slots8 (mem_slots8.2 hc) s
  rw [hheld, slot_pageHold, ht]

/-- Every slot of the closing band tells its tally, then is held for its page fault (R47, R261). -/
theorem slot_formTally (s : State) {c : Nat} (hc : c < 8) : (formTally s).slot c = pageHeld (tellTally (s.slot c)) := by
  obtain ⟨cs, h⟩ := formTally_eq s
  rw [h, slot_combine, slot_pageHolds _ hc, slot_markClosing, slot_tellTallies _ hc]

theorem stroke_pageHold (c : Nat) (s : State) : (pageHold c s).stroke = s.stroke := by
  unfold pageHold
  dsimp only
  split <;> rfl

theorem stroke_tellTallies (s : State) : (tellTallies s).stroke = s.stroke :=
  forEach_view State.stroke (f := fun c s => s.modSlot c tellTally) (fun _ _ => rfl) slots8 s

theorem stroke_formTally (s : State) : (formTally s).stroke.closing = true ∧ (formTally s).stroke.mark = s.stroke.mark := by
  obtain ⟨cs, h⟩ := formTally_eq s
  have hfold := forEach_view State.stroke stroke_pageHold slots8 (markClosing (tellTallies s))
  rw [h, closing_combine, mark_combine, hfold, closing_markClosing, mark_markClosing, stroke_tellTallies]
  exact ⟨rfl, rfl⟩

/-- A tally that goes out marks the Stroke's as sent; nothing else of the Stroke and no slot changes. -/
theorem sendTally_leaves (s : State) : (∃ b, (sendTally s).stroke = { s.stroke with sent := b }) ∧
    ∀ c, (sendTally s).slot c = s.slot c := by
  unfold sendTally
  dsimp only
  split
  · exact ⟨⟨_, rfl⟩, fun _ => rfl⟩
  · split
    · exact ⟨⟨_, rfl⟩, fun _ => rfl⟩
    · exact ⟨⟨_, rfl⟩, fun _ => rfl⟩

theorem sendIfAll_leaves (s : State) : (∃ b, (sendIfAll s).stroke = { s.stroke with sent := b }) ∧
    ∀ c, (sendIfAll s).slot c = s.slot c := by
  unfold sendIfAll
  dsimp only
  split
  · exact sendTally_leaves s
  · exact ⟨⟨_, rfl⟩, fun _ => rfl⟩

theorem stroke_sendIfAll (s : State) : (sendIfAll s).stroke.closing = s.stroke.closing ∧
    (sendIfAll s).stroke.mark = s.stroke.mark ∧ (sendIfAll s).stroke.heard = s.stroke.heard ∧
    (sendIfAll s).stroke.codes = s.stroke.codes ∧ (sendIfAll s).stroke.count = s.stroke.count := by
  obtain ⟨⟨b, h⟩, -⟩ := sendIfAll_leaves s
  rw [h]
  exact ⟨rfl, rfl, rfl, rfl, rfl⟩

/-- The closing band of a Stroke whose CP runs (R47). -/
theorem closeStroke_of_close {s : State} (hmay : s.stroke.mayClose = true) (hcp : s.mp.cpHeld = false) :
    ∃ t : State, closeStroke s = sendIfAll (formTally t) ∧ t.stroke = s.stroke ∧ ∀ c, holdView (t.slot c) = holdView (s.slot c) := by
  have hframe := bandFrame_endWork s
  have hstroke := stroke_of_bystanders (congrArg Prod.fst hframe)
  have hheld : (forEach slots8 unbegun (endRanges s)).mp.cpHeld = false :=
    (cpHeld_of_linkFrame (congrArg (fun x => x.2.1) hframe)).trans hcp
  refine ⟨forEach slots8 unbegun (endRanges s), ?_, hstroke, fun c => congrFun (congrArg (fun x => x.2.2) hframe) c⟩
  unfold closeStroke closingBand
  rw [if_pos hmay]
  dsimp only
  rw [hheld, hstroke, if_neg Bool.false_ne_true, if_pos hmay]

/-! ### Tallies that come -/

/-- A good new tally of a port that is up: what becomes of it (R47, R365, R463). -/
theorem tallyIn_of_new {s : State} {p : Nat} {b : List Byte} (hup : s.portUp p = true) (hcrc : crcOk b = true)
    (hnew : (s.port p).lastTally ≠ some (BitVec.ofNat 48 (pnum b 4 6))) : ∃ t : State,
      t.stroke = s.stroke ∧ t.mp = s.mp ∧ t.ghl.downMask = s.ghl.downMask ∧ tallyIn p b s =
      if s.stroke.mode = 0#2 ∨ s.ghl.downMask.getLsbD p = false ∨ s.mp.cpHeld = true ∨ s.stroke.unheard = true then t
      else if BitVec.ofNat 48 (pnum b 4 6) ≠ s.stroke.mark ∨ s.stroke.sent = true ∨ s.stroke.cycle0 = none then
        t.modStroke fun k => { k with staleTallies := sat32 k.staleTallies 1 }
      else sendIfAll ((t.combine (unpackCodes (BitVec.ofNat 24 (pnum b 10 3))) (pnum b 13 2 % 4096)).modStroke
        fun k => { k with heard := NSet.add k.heard p }) := by
  refine ⟨s.modPort p fun g => { g with lastTally := some (BitVec.ofNat 48 (pnum b 4 6)) }, rfl, rfl, rfl, ?_⟩
  unfold tallyIn
  rw [if_neg (by rw [hup]; decide), if_neg (by rw [hcrc]; decide)]
  dsimp only
  rw [if_neg hnew]
  rfl

/-- A tally that goes out (R365). -/
theorem sendTally_of_up {s : State} (hcp : s.mp.cpHeld = false) : (sendTally s).stroke.sent = true ∧
    (s.ghl.upValid = true → s.portUp s.ghl.upPort.toNat = true → ((sendTally s).port s.ghl.upPort.toNat).prio =
      (s.port s.ghl.upPort.toNat).prio ++ [.tally s.stroke.mark (packCodes s.stroke.codes) s.stroke.count false]) := by
  unfold sendTally
  dsimp only
  rw [hcp, if_neg Bool.false_ne_true]
  constructor
  · split <;> rfl
  · intro hvalid hup
    rw [if_pos (by exact ⟨hvalid, hup⟩), port_pushPrio]
    rfl

/-- The root's cut-off (R48). -/
theorem rootCutoff_of_ready {s : State} (hmode : s.stroke.mode = 1) (hclose : s.stroke.closing = true)
    (hformed : s.stroke.formed = true) (hsent : s.stroke.sent = false) (hcp : s.mp.cpHeld = false) :
    (rootCutoff s).stroke = { s.stroke with
      sent := true
      nextVerdict := if s.stroke.count < s.stroke.domainSize.toNat then
        s.stroke.codes.map (fun c => if 1 ≤ c ∧ c ≤ 4 then 4 else c) else s.stroke.codes
      shortTallies := if s.stroke.count < s.stroke.domainSize.toNat then sat32 s.stroke.shortTallies 1
        else s.stroke.shortTallies } := by
  unfold rootCutoff
  dsimp only
  rw [if_pos ⟨hmode, hclose, hformed, hsent, hcp⟩]
  by_cases h : s.stroke.count < s.stroke.domainSize.toNat
  · simp only [h, decide_true, if_true]
    rfl
  · simp only [h, decide_false, if_false, Bool.false_eq_true]
    rfl

/-! ### Missed marks -/

/-- A change of a slot's state leaves the link and the MP (R435). -/
@[simp] theorem linkFrame_setCtx (s : State) (c : Nat) (f : Ctx → Ctx) : linkFrame (s.setCtx c f) = linkFrame s := by
  unfold State.setCtx
  extract_lets old t
  have ht : linkFrame t = linkFrame s := rfl
  split
  · rw [(hostOnly_post t _ _ _ _ _).linkFrame, ht]
  · exact ht

/-- A RUNNING slot that the loss of the domain holds (R33, R55). -/
theorem slot_holdDomain {s : State} {c : Nat} (hc : c < 8) (hrun : (s.slot c).st = .running) :
    ((holdDomain s).slot c).st = .held ∧ ((holdDomain s).slot c).holds = (s.slot c).holds ||| holdBit 7 := by
  obtain ⟨t, ht, hheld⟩ := forEach_once (P := fun u => u.slot c) (m := c) (xs := slots8)
    (f := fun c s => if (s.slot c).st = .running then
        s.setCtx c fun x => { x with st := .held, holds := x.holds ||| holdBit 7, att := { x.att with on := false } }
      else s) (fun n u hn => by
        dsimp only
        split
        · exact otherSlots_setCtx u n _ c (Ne.symm hn)
        · rfl) nodup_slots8 (mem_slots8.2 hc) s
  unfold holdDomain
  rw [hheld, if_pos (by rw [ht]; exact hrun), slot_setCtx, moved_st, moved_holds, ht]
  exact ⟨rfl, rfl⟩

theorem slot_modStroke (s : State) (f : Stroke → Stroke) (c : Nat) : (s.modStroke f).slot c = s.slot c := rfl

theorem bystanders_holdDomain (s : State) : bystanders (holdDomain s) = bystanders s :=
  forEach_view bystanders (fun c t => by
    dsimp only
    split
    · exact bystanders_setCtx t c _
    · rfl) slots8 s

/-- A mark missed before the third in a row is counted (R55). -/
theorem markMiss_of_early {s : State} (hmode : s.stroke.mode = 2) (hrun : s.stroke.cycle0.isSome = true)
    (hrx : s.stroke.rx = none) (hent : s.stroke.entered = none) (hlost : s.stroke.domainLost = false)
    (hfew : s.stroke.missed.toNat < 2) : markMiss s = s.modStroke fun k =>
      { k with missed := BitVec.ofNat 2 (s.stroke.missed.toNat + 1), missedMarks := sat32 k.missedMarks 1 } := by
  unfold markMiss
  rw [if_pos ⟨hmode, hrun, hrx, hent, hlost⟩]
  exact if_pos (by omega)

/-- The third in a row loses the domain (R55). -/
theorem markMiss_of_third {s : State} (hmode : s.stroke.mode = 2) (hrun : s.stroke.cycle0.isSome = true)
    (hrx : s.stroke.rx = none) (hent : s.stroke.entered = none) (hlost : s.stroke.domainLost = false)
    (hmany : 2 ≤ s.stroke.missed.toNat) : (markMiss s).stroke.domainLost = true ∧
      ∀ c, c < 8 → (s.slot c).st = .running →
        ((markMiss s).slot c).st = .held ∧ ((markMiss s).slot c).holds = (s.slot c).holds ||| holdBit 7 := by
  unfold markMiss
  dsimp only
  rw [if_pos ⟨hmode, hrun, hrx, hent, hlost⟩, if_neg (by omega)]
  have hslot : ∀ c, ((s.modStroke fun k => { k with
      missed := BitVec.ofNat 2 (s.stroke.missed.toNat + 1), missedMarks := sat32 k.missedMarks 1 }).log
        Code.markLoss originCp 0xFF 0 0).slot c = s.slot c := fun _ => rfl
  generalize (s.modStroke fun k => { k with
      missed := BitVec.ofNat 2 (s.stroke.missed.toNat + 1), missedMarks := sat32 k.missedMarks 1 }).log
        Code.markLoss originCp 0xFF 0 0 = t at hslot ⊢
  refine ⟨?_, fun c hc hst => ?_⟩
  · rw [stroke_of_offRecords (offRecords_postDev _ _ _), modStroke_stroke]
  · rw [slot_of_offRecords (offRecords_postDev _ _ _), slot_modStroke, ← hslot c]
    exact slot_holdDomain hc ((congrArg Ctx.st (hslot c)).trans hst)

/-- A port that falls quiet as the device is no longer admitted, its count of misses begun anew (R368). -/
def unadmitPort (p : Nat) (s : State) : State :=
  quietPort p (s.modPort p fun g => { g with misses := 0, lastMark := none, lost := false })

/-- The neighbour behind a port is told so. -/
def tellUnadmitted (p : Nat) (s : State) : State := pushPrio p [.link (capPkt (unadmitPort p s) p)] (unadmitPort p s)

theorem admitted_pushPrio (p : Nat) (es : List PrioOut) (s : State) : (pushPrio p es s).ghl.admitted = s.ghl.admitted := rfl
theorem stroke_pushPrio (p : Nat) (es : List PrioOut) (s : State) : (pushPrio p es s).stroke = s.stroke := rfl
theorem slot_pushPrio (p : Nat) (es : List PrioOut) (s : State) (d : Nat) : (pushPrio p es s).slot d = s.slot d := rfl

theorem admitted_tellUnadmitted (p : Nat) (s : State) : (tellUnadmitted p s).ghl.admitted = s.ghl.admitted := by
  unfold tellUnadmitted unadmitPort
  rw [admitted_pushPrio, admitted_of_linkFrame (linkFrame_quietPort p _)]
  rfl
theorem stroke_tellUnadmitted (p : Nat) (s : State) : (tellUnadmitted p s).stroke = s.stroke := by
  unfold tellUnadmitted unadmitPort
  rw [stroke_pushPrio, stroke_of_bystanders (bystanders_quietPort p _)]
  rfl
theorem offCause_tellUnadmitted (p : Nat) (s : State) (d : Nat) : offCause ((tellUnadmitted p s).slot d) = offCause (s.slot d) := by
  unfold tellUnadmitted unadmitPort
  rw [slot_pushPrio, offCause_quietPort]
  rfl

theorem setAdmitted_false (s : State) : setAdmitted false s = if s.ghl.admitted = false then s else
    forEach (ports16.filter fun p => ((s.modGhl fun g => { g with admitted := false }).port p).carries) tellUnadmitted
      (s.modGhl fun g => { g with admitted := false }) := rfl

/-- What the neighbours are told when the device is no longer admitted. -/
theorem setAdmitted_false_keeps (s : State) : (setAdmitted false s).ghl.admitted = false ∧
    (setAdmitted false s).stroke = s.stroke ∧ ∀ d, offCause ((setAdmitted false s).slot d) = offCause (s.slot d) := by
  rw [setAdmitted_false]
  split
  next h => exact ⟨h, rfl, fun _ => rfl⟩
  next =>
    refine ⟨?_, ?_, fun d => ?_⟩
    · rw [forEach_view (fun t => t.ghl.admitted) admitted_tellUnadmitted]; rfl
    · rw [forEach_view State.stroke stroke_tellUnadmitted]; rfl
    · rw [forEach_view (fun t => offCause (t.slot d)) fun p t => offCause_tellUnadmitted p t d]; rfl

theorem misses_of_calm {g h : GPort} (e : calm g = calm h) : g.misses = h.misses ∧ g.markMisses = h.markMisses ∧ g.lost = h.lost :=
  ⟨(congrArg GPort.misses e :), (congrArg GPort.markMisses e :), (congrArg GPort.lost e :)⟩

/-- A neighbour that is lost (R367). -/
theorem port_neighbourLost (p : Nat) (s : State) : ((neighbourLost p s).port p).misses = (s.port p).misses ∧
    ((neighbourLost p s).port p).markMisses = (s.port p).markMisses ∧ ((neighbourLost p s).port p).lost = true := by
  unfold neighbourLost
  dsimp only
  have hport := port_of_offRecords (offRecords_postDev ((s.modPort p fun g => { g with lost := true }).log
    Code.ghlNeighbourLost originHw 0xFF ((s.port p).peerId.setWidth 32) 0) Code.ghlNeighbourLost 0) p
  generalize ((s.modPort p fun g => { g with lost := true }).log
    Code.ghlNeighbourLost originHw 0xFF ((s.port p).peerId.setWidth 32) 0).postDev Code.ghlNeighbourLost 0 = t at hport ⊢
  have hcalm := calm_port_of_linkFrame (linkFrame_quietPort p t) p
  rw [port_modPort, hport, port_log, port_modPort] at hcalm
  exact misses_of_calm hcalm

/-- Settles O34: the band's tallies slot by slot, the branches of the tally operations, and the loss of a domain and of a
neighbour. -/
theorem talliesAndMisses : Obligations.TalliesAndMisses := by
  unfold Obligations.TalliesAndMisses
  refine ⟨⟨fun s hon hmay hcp => ?_, fun p b s hon hup hcrc hnew hmode hdown => ?_, fun s hon hmode hclose hsent hcp => ?_,
    fun s hon hmode hclose hformed hsent hcp => ?_⟩, fun s hon hmode hrun hrx hent hlost hchg => ⟨fun hfew => ?_, fun hmany => ?_⟩,
    fun p s hon hup hlast hchg => ?_⟩
  · obtain ⟨t, ht, hstroke, hview⟩ := closeStroke_of_close hmay hcp
    obtain ⟨hsc, hsm, -⟩ := stroke_sendIfAll (formTally t)
    obtain ⟨-, hslot⟩ := sendIfAll_leaves (formTally t)
    obtain ⟨hclosing, hmark⟩ := stroke_formTally t
    refine ⟨_, powered_eq hon ht, ?_, ?_, fun c hc => ?_⟩
    · rw [effectOf_stroke, hsc, hclosing]
    · rw [effectOf_stroke, hsm, hmark, hstroke]
    · obtain ⟨hstk, hatt, htally⟩ := pageHeld_keeps (tellTally (t.slot c))
      have hviewc := hview c
      simp only [holdView, Prod.mk.injEq, decide_eq_decide] at hviewc
      obtain ⟨hst, -, hholds, hfault, hpage, hcause⟩ := hviewc
      rw [effectOf_slot, hslot, slot_formTally t hc, hstk, hatt, htally]
      refine ⟨rfl, rfl, fun hs h5 => ?_⟩
      unfold pageHeld
      rw [if_pos ⟨hst.trans hs, hcause.2 h5⟩]
      refine ⟨congrArg (· ||| holdBit 6) hholds, fun f hf => ?_⟩
      rw [show (tellTally (t.slot c)).att.pageFault = some f from hpage.trans hf]
      exact congrArg (fun x : CtxFault => { f with hiLatch := x.hiLatch }) hfault
  · have hoff := offPorts_takeIn p.val b s
    obtain ⟨t, hts, htm, htd, hin⟩ := tallyIn_of_new (s := takeIn p.val b s) (p := p.val) (by rw [portUp_takeIn, hup]) hcrc
      (by rw [port_takeIn_view GPort.lastTally (fun _ _ => rfl)]; exact hnew)
    rw [stroke_of_offPorts hoff] at hin hts
    rw [mp_of_offPorts hoff, downMask_of_offPorts hoff] at hin
    refine ⟨fun hdead => ?_, fun hcp hheard hmark hsent hcyc => ?_, fun hcp hheard hstale => ?_⟩
    · rw [if_pos (.inr (.inr hdead))] at hin
      exact ⟨_, powered_eq hon hin, hts⟩
    · rw [if_neg (by rw [hcp, hheard, hdown]; simpa using hmode), if_neg (by rw [hsent]; simp [hmark, hcyc])] at hin
      obtain ⟨-, -, hhd, hcodes, hcount⟩ := stroke_sendIfAll ((t.combine (unpackCodes (BitVec.ofNat 24 (pnum b 10 3))) (pnum b 13 2 % 4096)).modStroke
        fun k => { k with heard := NSet.add k.heard p })
      refine ⟨_, powered_eq hon hin, ?_⟩
      rw [effectOf_stroke, hhd, hcodes, hcount]
      refine ⟨NSet.mem_add_self _ _, ?_, ?_⟩
      · exact congrArg (fun k : Stroke => joinCodes k.codes _) hts
      · exact congrArg (fun k : Stroke => k.count + pnum b 13 2 % 4096) hts
    · rw [if_neg (by rw [hcp, hheard, hdown]; simpa using hmode), if_pos (hstale.elim .inl fun h => .inr (.inl h))] at hin
      refine ⟨_, powered_eq hon hin, ?_, ?_, ?_⟩
      · rw [effectOf_stroke, modStroke_stroke, hts]
      · rw [effectOf_stroke, modStroke_stroke, hts]
      · rw [effectOf_stroke, modStroke_stroke, hts]
  · have hsend : tallyDeadline s = sendTally s := if_pos ⟨hmode, hclose, hsent⟩
    obtain ⟨hout, hprio⟩ := sendTally_of_up hcp
    exact ⟨_, powered_eq hon hsend, hout, hprio⟩
  · refine ⟨_, powered_eq hon rfl, ?_⟩
    rw [effectOf_stroke, rootCutoff_of_ready hmode hclose hformed hsent hcp]
    exact ⟨rfl, rfl, rfl⟩
  · have hmiss := markMiss_of_early hmode hrun hrx hent hlost hfew
    have hstep : markMissed s = s.modStroke fun k =>
        { k with missed := BitVec.ofNat 2 (s.stroke.missed.toNat + 1), missedMarks := sat32 k.missedMarks 1 } := by
      unfold markMissed
      rw [if_neg (fun h => by rw [hchg h.1] at h; exact Bool.noConfusion h.2), hmiss]
      exact if_neg fun h => by rw [modStroke_stroke, hlost] at h; exact Bool.noConfusion h.1
    refine ⟨_, powered_eq hon hstep, ?_, rfl, hlost, fun _ => rfl⟩
    show (BitVec.ofNat 2 (s.stroke.missed.toNat + 1)).toNat = _
    rw [BitVec.toNat_ofNat]
    omega
  · obtain ⟨hdl, hheld⟩ := markMiss_of_third hmode hrun hrx hent hlost hmany
    have hstep : markMissed s = setAdmitted false (markMiss s) := by
      unfold markMissed
      rw [if_neg (fun h => by rw [hchg h.1] at h; exact Bool.noConfusion h.2)]
      exact if_pos ⟨hdl, hlost⟩
    obtain ⟨hadm, hstroke, hslot⟩ := setAdmitted_false_keeps (markMiss s)
    refine ⟨_, powered_eq hon hstep, ?_, hadm, fun c hc hst => ?_⟩
    · rw [effectOf_stroke, hstroke]; exact hdl
    · have hst' : ((setAdmitted false (markMiss s)).slot c).st = ((markMiss s).slot c).st := (congrArg Ctx.st (hslot c) :)
      have hholds : ((setAdmitted false (markMiss s)).slot c).holds = ((markMiss s).slot c).holds := (congrArg Ctx.holds (hslot c) :)
      rw [effectOf_slot, hst', hholds]
      exact hheld c hc hst
  · by_cases hfew : (s.port p).misses < 2
    · have hstep : neighbourMiss p.val s = s.modPort p fun g =>
          { g with misses := (s.port p).misses + 1, markMisses := sat32 g.markMisses 1 } := by
        unfold neighbourMiss
        rw [if_neg (by rw [hup, hchg]; simpa using hlast)]
        exact if_pos (by omega)
      refine ⟨_, powered_eq hon hstep, ?_⟩
      rw [effectOf_port, port_modPort]
      exact ⟨rfl, rfl, fun _ => ⟨rfl, rfl⟩, fun h => absurd h (by omega)⟩
    · have hstep : neighbourMiss p.val s = neighbourLost p (s.modPort p fun g =>
          { g with misses := (s.port p).misses + 1, markMisses := sat32 g.markMisses 1 }) := by
        unfold neighbourMiss
        rw [if_neg (by rw [hup, hchg]; simpa using hlast)]
        exact if_neg (by omega)
      obtain ⟨hmiss, hmarks, hgone⟩ := port_neighbourLost p (s.modPort p fun g =>
        { g with misses := (s.port p).misses + 1, markMisses := sat32 g.markMisses 1 })
      rw [port_modPort] at hmiss hmarks
      refine ⟨_, powered_eq hon hstep, ?_⟩
      rw [effectOf_port, hmiss, hmarks]
      exact ⟨rfl, rfl, fun h => absurd h hfew, fun _ => hgone⟩

end Sys2Proof.Laws
end

section
/-!
SUPPORT. The start of a Stroke, ranges, and the fetch of the next index (R33, R39, R40, R50, R222 to R224, R414).
-/

namespace Sys2Proof.KV

variable {α : Type}

theorem find?_erase_self (m : KV α) (k : Nat) : find? (erase m k) k = none := by
  induction m with
  | nil => rfl
  | cons e m ih =>
    obtain ⟨j, v⟩ := e
    by_cases h : j = k <;> simp [erase, find?, h, ih]

end Sys2Proof.KV

namespace Sys2Proof.Laws

open Machine

/-! ### The Stroke boundary in the engines -/

/-- What the boundary in the engines leaves: the clock, the slots, and whether the CP is held in reset. -/
def boundaryView (s : State) : Nat × KV Ctx × Bool := (s.now, s.slots, s.mp.cpHeld)

theorem boundaryView_of_memoryOnly {s t : State} (h : MemoryOnly s t) : boundaryView t = boundaryView s := by
  obtain ⟨_, _, _, rfl⟩ := h; rfl

theorem boundaryView_wrBytes (s : State) (r : Place) (bs : List Byte) : boundaryView (s.wrBytes r bs) = boundaryView s :=
  boundaryView_of_memoryOnly (memoryOnly_wrBytes s r bs)

theorem boundaryView_settleHold (s : State) (f : Mgl → Mgl) : boundaryView (settleHold (s.modMgl f)) = boundaryView s := rfl

theorem boundaryView_drainAbort (s : State) : boundaryView (drainAbort s) = boundaryView s := by
  unfold drainAbort
  extract_lets dead t gone
  rw [boundaryView_settleHold]
  exact forEach_view boundaryView (fun _ _ => boundaryView_of_memoryOnly (memoryOnly_complete _ _ _ _ _ _)) _ s

theorem boundaryView_modTask (s : State) (t : StrTask) (f : StrTask → StrTask) : boundaryView (s.modTask t f) = boundaryView s := rfl

theorem boundaryView_performWrite (w : MemWrite) (s : State) : boundaryView (performWrite w s) = boundaryView s := by
  have hparts : ∀ (ps : List (Nat × List Byte)) (t : State), boundaryView
      (ps.foldl (fun (s : State) p => s.wrBytes (.dev w.stack (w.block + p.1)) p.2) t) = boundaryView t :=
    forEach_view boundaryView (fun _ _ => boundaryView_wrBytes _ _ _)
  have hclean : ∀ t : State, boundaryView (if w.full then { t with mem := t.mem.clean (stackKey w.stack w.block) 128 } else t) =
      boundaryView t := fun t => by split <;> rfl
  unfold performWrite
  dsimp only
  split
  · rw [hclean, hparts]
  · rw [boundaryView_modTask, hclean, hparts]

theorem boundaryView_changeTo (s t : State) (a b c d : Nat) : boundaryView (s.changeTo t a b c d) = boundaryView t := by
  have hoff := offRecords_changeTo s t a b c d
  exact Prod.ext (now_of_offRecords hoff) (Prod.ext (slots_of_offRecords hoff)
    (congrArg Mp.cpHeld (offLogs_changeTo s t a b c d) :))

theorem boundaryView_mem (s : State) (q : MemSys) : boundaryView { s with mem := q } = boundaryView s := rfl

theorem boundaryView_switchRemap (s : State) : boundaryView (switchRemap s) = boundaryView s := by
  unfold switchRemap
  refine (forEach_view boundaryView (fun r u => ?_) _ _).trans (boundaryView_mem s _)
  dsimp only
  rw [boundaryView_changeTo, boundaryView_mem]

theorem boundaryView_profileStroke (s : State) : boundaryView (profileStroke s) = boundaryView s := by
  unfold profileStroke
  dsimp only
  split <;> rfl

theorem boundaryView_enginesStep (s : State) : boundaryView (enginesStep s) = boundaryView s := by
  have hflush : ∀ t : State, boundaryView (flushWrites t) = boundaryView t := fun t =>
    forEach_view boundaryView boundaryView_performWrite t.mem.writes _
  unfold enginesStep
  rw [boundaryView_profileStroke, boundaryView_switchRemap, hflush, boundaryView_drainAbort]

/-! ### The opening band -/

/-- The state in which the CP applies the verdicts: the engines are at the boundary and the Stroke of mark `m` has begun. -/
def openBand (m : Mark) (s : State) : State :=
  ((beginStroke m (enginesStep s)).modMp fun p => { p with resendLogged := [] }).modMp fun p =>
    { p with beat := (beginStroke m (enginesStep s)).now }

theorem cpHeld_begun (m : Mark) (s : State) :
    ((beginStroke m s).modMp fun p => { p with resendLogged := [] }).mp.cpHeld = s.mp.cpHeld := rfl
theorem now_beginStroke (m : Mark) (s : State) : (beginStroke m s).now = s.now := rfl
theorem slot_beginStroke (m : Mark) (s : State) (c : Nat) : (beginStroke m s).slot c = s.slot c := rfl
theorem stroke_beginStroke (m : Mark) (s : State) : (beginStroke m s).stroke.mark = m.number ∧
    (beginStroke m s).stroke.double = m.double ∧ (beginStroke m s).stroke.cycle0 = some s.now ∧
    (beginStroke m s).stroke.entered = none ∧ (beginStroke m s).stroke.closing = false ∧
    (beginStroke m s).stroke.sent = false := ⟨rfl, rfl, rfl, rfl, rfl, rfl⟩
theorem stroke_beaten (t : State) (f g : Mp → Mp) : ((t.modMp f).modMp g).stroke = t.stroke := rfl
theorem slot_beaten (t : State) (f g : Mp → Mp) (c : Nat) : ((t.modMp f).modMp g).slot c = t.slot c := rfl
theorem beat_beaten (t : State) (f : Mp → Mp) (n : Nat) : ((t.modMp f).modMp fun p => { p with beat := n }).mp.beat = n := rfl

/-- The mark in the mark lines starts a Stroke whose CP runs (R33, R50, R414). -/
theorem strokeStart_of_mark {s : State} {m : Mark} (hmode : s.stroke.mode ≠ 0) (hent : s.stroke.entered = some m)
    (hcp : s.mp.cpHeld = false) (hover : s.stroke.cycle0 = none ∨ s.stroke.closing = true) (hown : s.stroke.foreign m = false) :
    strokeStart s = slotSteps false (forEach slots8 (verdictStep m) (openBand m s)) := by
  have hview := boundaryView_enginesStep s
  simp only [boundaryView, Prod.mk.injEq] at hview
  obtain ⟨-, -, hheld⟩ := hview
  have hearly : (s.stroke.cycle0.isSome && !s.stroke.closing) = false := by
    obtain h | h := hover <;> rw [h] <;> simp
  unfold strokeStart
  rw [hent]
  dsimp only
  rw [if_neg (show ¬ s.stroke.mode = 0#2 from hmode), hearly, hown, if_neg Bool.false_ne_true, if_neg Bool.false_ne_true, cpHeld_begun, hheld, hcp,
    if_neg Bool.false_ne_true]
  rfl

/-! ### Ranges -/

theorem slot_mangleRangeStart (s : State) (c : Nat) : (mangleRangeStart s).slot c = s.slot c := rfl
theorem slot_zeroVectors (s : State) (c : Nat) : (zeroVectors s).slot c = s.slot c := rfl

/-- A range that may begin begins now, once in the attempt (R39). -/
theorem slot_rangeBegin {s : State} {c k r : Nat} (hrun : s.stroke.cycle0.isSome = true) (hopen : s.stroke.closing = false)
    (hfor : rangeFor (s.slot c) k = true) (hr : (rangesOf (s.slot c).panels k)[r]?.isSome = true)
    (hfirst : NSet.mem (s.slot c).att.begun (8 * k + r) = false) (hfree : rangeBusy s k = false) :
    ((rangeBegin c k r s).slot c).att.ranges = KV.insert (s.slot c).att.ranges (8 * k + r) s.now ∧
    ((rangeBegin c k r s).slot c).att.begun = NSet.add (s.slot c).att.begun (8 * k + r) := by
  have hnone : s.stroke.cycle0.isNone = false ∧ (rangesOf (s.slot c).panels k)[r]?.isNone = false :=
    ⟨by rw [← Option.not_isSome, hrun]; rfl, by rw [← Option.not_isSome, hr]; rfl⟩
  unfold rangeBegin
  dsimp only
  rw [if_neg (by rw [hnone.1, hnone.2, hopen, hfor, hfirst, hfree]; decide)]
  split
  · rw [slot_mangleRangeStart, slot_modSlot]
    exact ⟨rfl, rfl⟩
  · split
    · rw [slot_zeroVectors, slot_modSlot]
      exact ⟨rfl, rfl⟩
    · rw [slot_modSlot]
      exact ⟨rfl, rfl⟩

/-- A range that has ended is no longer in force (R40). -/
theorem find?_ranges_rangeEndAt (c k r : Nat) (s : State) :
    KV.find? ((rangeEndAt c k r s).slot c).att.ranges (8 * k + r) = none := by
  unfold rangeEndAt
  dsimp only
  split
  next h => exact Option.isNone_iff_eq_none.1 h
  next =>
    rw [slot_modSlot]
    exact KV.find?_erase_self _ _

/-! ### The fetch of the next index -/

/-- The next index goes into the next half, invalid with an error (R222, R224). -/
theorem fetchNext_of_run {s : State} {c : Nat} (ue : Bool) (hst : (s.slot c).st = .running) (hon : (s.slot c).att.on = true)
    (hnext : (s.slot c).next.index ≠ some ((s.slot c).stk.index.toNat + 1)) :
    fetchNext s c ue = (fetchRead c ((s.slot c).stk.index.toNat + 1) ue s).2.modSlot c fun x =>
      { x with next := (fetchRead c ((s.slot c).stk.index.toNat + 1) ue s).1 } := by
  unfold fetchNext
  exact if_pos ⟨hst, hon, hnext⟩

theorem half_fetchRead (c i : Nat) (ue : Bool) (s : State) : (fetchRead c i ue s).1 =
    { fetchHalf s (s.slot c) i with bad := (fetchHalf s (s.slot c) i).bad || ue } := rfl

theorem offRecords_fetchRead (c i : Nat) (ue : Bool) (s : State) : offRecords (fetchRead c i ue s).2 = offRecords s := by
  have hblocks : ∀ x va n, offRecords (readBlocks x va n s) = offRecords s := fun x va n => offRecords_readBlocks x va n s
  unfold fetchRead
  dsimp only
  split <;> split
  · rw [offRecords_log, hblocks]
  · rw [offRecords_log]
  · rw [hblocks]
  · rfl

/-- An uncorrectable error of the fetch is logged (R224). -/
theorem log_fetchRead (c i : Nat) (s : State) : ∃ r, (fetchRead c i true s).2.mp.log.head? = some r ∧ r.code = Code.imgFetch := by
  have hhead : ∀ t : State, ∃ r, (t.log Code.imgFetch originCp c 0 0).mp.log.head? = some r ∧ r.code = Code.imgFetch :=
    fun t => ⟨_, rfl, rfl⟩
  unfold fetchRead
  dsimp only
  rw [Bool.or_true, if_pos rfl]
  exact hhead _

/-- Settles O35: the opening band of the Stroke's mark, the two ends of a range, and the half that a fetch fills. -/
theorem strokesAndRanges : Obligations.StrokesAndRanges := by
  unfold Obligations.StrokesAndRanges
  refine ⟨fun s m hon hmode hent hcp hover hown => ?_, fun c k r s hon => ⟨fun hrun hopen hfor hr hfirst hfree => ?_, ?_⟩,
    fun c s hon hst hatt hnext => ⟨?_, ?_⟩⟩
  · have hview := boundaryView_enginesStep s
    simp only [boundaryView, Prod.mk.injEq] at hview
    obtain ⟨hnow, hslots, -⟩ := hview
    obtain ⟨hmark, hdouble, hcycle, hentered, hclosing, hsent⟩ := stroke_beginStroke m (enginesStep s)
    refine ⟨openBand m s, ?_, ?_, ?_, ?_, ?_, ?_, ?_, fun c => ?_, powered_eq hon (strokeStart_of_mark hmode hent hcp hover hown)⟩ <;>
      unfold openBand
    · rw [stroke_beaten, hmark]
    · rw [stroke_beaten, hdouble]
    · rw [stroke_beaten, hcycle, hnow]
    · rw [stroke_beaten, hentered]
    · rw [stroke_beaten, hclosing]
    · rw [stroke_beaten, hsent]
    · rw [beat_beaten, now_beginStroke, hnow]
    · rw [slot_beaten, slot_beginStroke, slot_congr hslots]
  · obtain ⟨hranges, hbegun⟩ := slot_rangeBegin hrun hopen hfor hr hfirst hfree
    refine ⟨_, powered_eq hon rfl, ?_, ?_⟩
    · rw [effectOf_slot, hranges, KV.find?_insert_self]
    · rw [effectOf_slot, hbegun]
      exact NSet.mem_add_self _ _
  · exact ⟨_, powered_eq hon rfl, by rw [effectOf_slot]; exact find?_ranges_rangeEndAt c k.code r s⟩
  · have hoff := offRecords_fetchRead c ((s.slot c).stk.index.toNat + 1) false s
    have hslot := slot_of_offRecords hoff c
    refine ⟨_, powered_eq hon (fetchNext_of_run false hst hatt hnext), ?_⟩
    rw [effectOf_slot, slot_modSlot, hslot, half_fetchRead, Bool.or_false]
    refine ⟨rfl, rfl, rfl, ?_, ?_⟩
    · rw [effectOf_stackMem, modSlot_stackMem, stackMem_of_offRecords hoff]
    · rw [effectOf_tubMem, modSlot_tubMem, tubMem_of_offRecords hoff]
  · obtain ⟨r, hr, hcode⟩ := log_fetchRead c ((s.slot c).stk.index.toNat + 1) s
    refine ⟨_, r, powered_eq hon (fetchNext_of_run true hst hatt hnext), ?_, hr, hcode⟩
    rw [effectOf_slot, slot_modSlot, half_fetchRead, Bool.or_true]

end Sys2Proof.Laws
end

section
/-!
SUPPORT. Training of a port (R350, R451) and the LINK packets (R349, R351, R352, R362).
-/

namespace Sys2Proof.Laws

open Machine

/-! ### Training -/

theorem find?_range_of_first {n k : Nat} {p : Nat → Bool} (hk : k < n) (hp : p k = true) (hfirst : ∀ i, i < k → p i = false) :
    (List.range n).find? p = some k := by
  rw [List.find?_range_eq_some]
  exact ⟨hp, by simpa using hk, fun j hj => by rw [hfirst j hj]; rfl⟩

/-- The keeper lane is the first lane that passed (R350). -/
theorem port_detectLock {s : State} {p : Nat} {lanes : BitVec 9} {k : Nat} (hst : (s.port p).st = .detect) (hk : k < 9)
    (hlane : lanes.getLsbD k = true) (hfirst : ∀ i, i < k → lanes.getLsbD i = false) : ∃ cap,
      (detectLock p lanes s).port p = { s.port p with
        st := .keeperUp, keeperLane := k, laneOk := lanes, samples := [], prio := .link cap :: echoes16 } := by
  unfold detectLock
  rw [find?_range_of_first hk hlane hfirst]
  dsimp only
  rw [if_pos hst, port_pushPrio, port_modPort]
  exact ⟨_, rfl⟩

theorem port_keeperUpDone {s : State} {p : Nat} (hst : (s.port p).st = .keeperUp) (hpeer : (s.port p).peerValid = true)
    (hlen : 16 ≤ (s.port p).samples.length) : ((keeperUpDone p s).port p).wKeeper = meanUp (s.port p).samples ∧
      ((keeperUpDone p s).port p).st =
        if (s.port p).wantKeeper = true ∨ (s.port p).peerKeeper = true then .keeper else .equalise := by
  unfold keeperUpDone
  dsimp only
  rw [if_pos ⟨hst, hpeer, hlen⟩, port_modPort]
  by_cases h : (s.port p).wantKeeper = true ∨ (s.port p).peerKeeper = true
  · rw [if_pos h, if_pos (by simpa using h)]
    exact ⟨rfl, rfl⟩
  · rw [if_neg h, if_neg (by simpa using h)]
    exact ⟨rfl, rfl⟩

/-- Failed and marked lanes of a port that equalises. -/
def lanesOff (p : Nat) (bad : BitVec 9) (s : State) : List Nat :=
  (List.range 9).filter (bad ||| KV.get 0 s.mp.marked (2 * p)).getLsbD

/-- No lane failed (R350). -/
theorem port_equalise_none {s : State} {p : Nat} {bad : BitVec 9} (hst : (s.port p).st = .equalise)
    (hf : lanesOff p bad s = []) : (equaliseDone p bad s).port p =
      { s.port p with laneOk := ~~~bad, failed := [], spareRx := 15, st := .align } := by
  unfold lanesOff at hf
  unfold equaliseDone
  dsimp only
  rw [if_pos hst, hf]
  dsimp only
  rw [port_modPort, port_modPort]

/-- One lane failed: it goes onto the spare (R350, R451). -/
theorem port_equalise_one {s : State} {p f : Nat} {bad : BitVec 9} (hst : (s.port p).st = .equalise)
    (hf : lanesOff p bad s = [f]) : (equaliseDone p bad s).port p =
      { s.port p with laneOk := ~~~bad, failed := [f], st := .align, spareRx := if f < 8 then BitVec.ofNat 4 f else 15 } := by
  unfold lanesOff at hf
  unfold equaliseDone
  dsimp only
  rw [if_pos hst, hf]
  dsimp only
  rw [port_modPort, port_modPort]

/-- More lanes failed: the port is DEGRADED (R350). -/
theorem port_equalise_more {s : State} {p : Nat} {bad : BitVec 9} (hst : (s.port p).st = .equalise)
    (hf : 2 ≤ (lanesOff p bad s).length) : (equaliseDone p bad s).port p =
      GPort.enter .degraded { s.port p with laneOk := ~~~bad, failed := lanesOff p bad s, spareRx := 15 } := by
  unfold equaliseDone
  dsimp only
  rw [if_pos hst]
  change State.port (match lanesOff p bad s with
    | [] => _
    | [f] => _
    | _ => _) p = _
  generalize hfs : lanesOff p bad s = fs at hf
  match fs, hf with
  | _ :: _ :: _, _ =>
    dsimp only
    rw [port_of_offRecords (offRecords_settleHealth _), port_log, port_modPort, port_modPort]
    unfold lanesOff at hfs
    rw [← hfs]

theorem port_alignDone {s : State} {p : Nat} (hst : (s.port p).st = .align) : (alignDone p s).port p =
    { s.port p with st := .calibrate, samples := [], prio := (s.port p).prio ++ echoes16 } := by
  unfold alignDone
  rw [if_pos hst, port_pushPrio, port_modPort]

theorem port_calibrateDone {s : State} {p : Nat} (hst : (s.port p).st = .calibrate) (hlen : 16 ≤ (s.port p).samples.length) :
    (calibrateDone p s).port p = GPort.enter .active { s.port p with wFull := meanUp (s.port p).samples } := by
  unfold calibrateDone
  rw [if_pos ⟨hst, hlen⟩]
  dsimp only
  split
  · rw [port_log, port_modPort]
  · rw [port_modPort]

/-- A step that takes too long falls back to DETECT and is logged (R350). -/
theorem trainTimeout_of_training {s : State} {p : Nat}
    (hst : [PortSt.keeperUp, .equalise, .align, .calibrate].elem (s.port p).st = true) :
    (trainTimeout p s).port p = { s.port p with st := .detect, changing := false, prio := [], rxPart := [] } ∧
      ∃ r, (trainTimeout p s).mp.log.head? = some r ∧ r.code = 0x0708 := by
  unfold trainTimeout
  rw [if_pos hst]
  refine ⟨?_, ⟨_, rfl, rfl⟩⟩
  rw [port_log, port_modPort]

/-- Settles O37, step by step of the training. -/
theorem linkTraining : Obligations.LinkTraining := by
  unfold Obligations.LinkTraining
  intro p s hon
  refine ⟨fun lanes k hst hk hlane hfirst => ?_, fun hst hpeer hlen => ?_, fun bad fs hst hfs => ?_, fun hst => ?_,
    fun hst hlen => ?_, fun hst => ?_⟩
  · obtain ⟨cap, hport⟩ := port_detectLock hst hk hlane hfirst
    refine ⟨_, powered_eq hon rfl, ?_⟩
    rw [effectOf_port, hport]
    exact ⟨rfl, rfl, rfl, rfl, rfl⟩
  · exact ⟨_, powered_eq hon rfl, port_keeperUpDone hst hpeer hlen⟩
  · have hoff : lanesOff p bad s = fs := hfs.symm
    refine ⟨_, powered_eq hon rfl, ?_⟩
    rw [effectOf_port]
    match fs with
    | [] =>
      rw [port_equalise_none hst hoff]
      refine ⟨rfl, fun _ => ⟨rfl, rfl⟩, fun f h => ?_, fun h => ?_⟩
      · exact (List.cons_ne_nil f [] h.symm).elim
      · exact absurd h (by decide)
    | [f] =>
      rw [port_equalise_one hst hoff]
      refine ⟨rfl, fun h => (List.cons_ne_nil _ _ h).elim, fun g hg => ?_, fun h => absurd h (by simp)⟩
      rw [List.cons.injEq] at hg
      rw [hg.1]
      exact ⟨rfl, rfl⟩
    | f :: g :: gs =>
      rw [port_equalise_more hst (by rw [hoff]; simp)]
      refine ⟨rfl, fun h => (List.cons_ne_nil _ _ h).elim, fun k h => ?_, fun _ => ⟨rfl, rfl⟩⟩
      exact (List.cons_ne_nil _ _ (List.cons.inj h).2).elim
  · refine ⟨_, powered_eq hon rfl, ?_⟩
    rw [effectOf_port, port_alignDone hst]
    exact ⟨rfl, rfl, rfl⟩
  · refine ⟨_, powered_eq hon rfl, ?_⟩
    rw [effectOf_port, port_calibrateDone hst hlen]
    exact ⟨rfl, rfl, rfl⟩
  · obtain ⟨hport, hlog⟩ := trainTimeout_of_training hst
    refine ⟨_, powered_eq hon rfl, ?_⟩
    rw [effectOf_port, hport]
    exact ⟨rfl, rfl, hlog⟩

/-! ### LINK packets -/

theorem noneRunning_of_none {s : State} (h : ∀ c, c < 8 → (s.slot c).st ≠ .running) : noneRunning s = true := by
  unfold noneRunning
  rw [List.all_eq_true]
  intro c hc
  simpa using h c (mem_slots8.1 hc)

/-- The neighbour of a port, as its CAP gives it. -/
def peerOf (g : GPort) : Bool × BitVec 11 × BitVec 4 × Bool := (g.peerValid, g.peerId, g.peerPort, g.peerAdmitted)

theorem peerOf_congr {g h : GPort} (e : calm g = calm h) : peerOf g = peerOf h := (congrArg peerOf e :)
theorem peerOf_quiet (g : GPort) : peerOf g.quiet = peerOf g := rfl
theorem peerOf_calm (g : GPort) : peerOf (calm g) = peerOf g := rfl

/-- A CAP gives the neighbour (R351, R368). -/
theorem peer_capIn {s : State} {p : Nat} (b : List Byte) (hcar : (s.port p).carries = true) : peerOf ((capIn p b s).port p) =
    (true, BitVec.ofNat 11 (pnum b 2 2), BitVec.ofNat 4 (pnum b 4 1), pnum b 11 1 % 2 == 1) := by
  unfold capIn
  rw [if_neg (by rw [hcar]; decide)]
  dsimp only
  split
  · rw [peerOf_congr (calm_port_of_linkFrame (linkFrame_quietPort _ _) p), port_modPort, peerOf_quiet, port_modPort]
    rfl
  · rw [port_modPort]
    rfl

/-- A failing lane is marked in the repair map (R451). -/
theorem marked_markLane (p lane : Nat) (s : State) (h : lane < 9) : (KV.get 0 (markLane p lane s).mp.marked (2 * p)).getLsbD lane = true := by
  have hbit : ∀ m : BitVec 9, (m ||| (1#9 <<< lane)).getLsbD lane = true := fun m => by
    rw [BitVec.getLsbD_or, BitVec.getLsbD_shiftLeft]
    simp [h]
  unfold markLane
  dsimp only
  split
  next hset => exact hset
  next =>
    have hmarked : ∀ t : State, (s.changeTo t originMp 0 3 p).settleHealth.mp.marked = t.mp.marked :=
      fun t => (congrArg Mp.marked ((offLogs_settleHealth _).trans (offLogs_changeTo s t _ _ _ _)) :)
    rw [hmarked, modMp_mp, KV.get_set_self]
    exact hbit _

theorem offRecords_markLane (p lane : Nat) (s : State) : offRecords (markLane p lane s) = offRecords s := by
  unfold markLane
  dsimp only
  split
  · rfl
  · rw [offRecords_settleHealth, offRecords_changeTo, offRecords_modMp]

/-- A first failing lane of an ACTIVE port asks for the spare (R352). -/
theorem laneFailing_of_first {s : State} {p lane : Nat} (hst : (s.port p).st = .active) (hnone : (s.port p).failed = [])
    (hspare : (s.port p).spareRx = 15) (hlane : lane < 8) : laneFailing p lane s =
      pushLink p 4 (leBytes 1 lane) ((markLane p lane s).modPort p fun g =>
        { g with failed := NSet.add g.failed lane, asked := some lane }) := by
  unfold laneFailing
  dsimp only
  rw [if_neg (by rw [hst, hnone]; simp [NSet.mem]; omega), if_pos (by rw [hnone]; exact ⟨rfl, hspare⟩)]

/-- Settles O38, packet by packet; each is taken out of the receive buffer first. -/
theorem linkPackets : Obligations.LinkPackets := by
  unfold Obligations.LinkPackets
  intro p b s hon
  have hoff := offPorts_takeIn p.val b s
  have hview : ∀ {β : Type} (P : GPort → β), (∀ g q, P { g with inbox := q } = P g) →
      P ((takeIn p.val b s).port p.val) = P (s.port p.val) := fun P hP => port_takeIn_view P hP p.val b s p.val
  have hst := hview GPort.st fun _ _ => rfl
  have hprio := hview GPort.prio fun _ _ => rfl
  have hcar := hview GPort.carries fun _ _ => rfl
  have hnone : (∀ c, c < 8 → (s.slot c).st ≠ .running) → noneRunning (takeIn p.val b s) = true := fun h => by
    rw [noneRunning_of_offPorts hoff]
    exact noneRunning_of_none h
  refine ⟨fun hc => ?_, fun hc => ?_, fun hc => ?_, fun h1 h2 h3 h4 => ?_, fun h => ?_, fun h1 h2 => ?_, fun h1 h2 h3 h4 => ?_,
    fun h1 h2 => ?_, fun h1 h2 h3 h4 => ?_, fun lane h1 h2 h3 h4 => ?_⟩
  · have hpeer := peer_capIn b (hcar.trans hc)
    simp only [peerOf, Prod.mk.injEq] at hpeer
    exact ⟨_, powered_eq hon rfl, hpeer⟩
  · have hstep : echoIn p b (takeIn p b s) =
        pushPrio p [.echoReply (BitVec.ofNat 32 (pnum b 4 4)) s.now] (takeIn p b s) := by
      unfold echoIn
      rw [if_pos (hcar.trans hc), now_of_offPorts hoff]
    refine ⟨_, powered_eq hon hstep, ?_⟩
    rw [effectOf_port, port_pushPrio, hprio]
  · have hstep : (echoReplyIn p b (takeIn p b s)).port p = { (takeIn p b s).port p with samples :=
        (((s.now + 4294967296 - pnum b 4 4) % 4294967296 - 128 - pnum b 8 2 + 1) / 2 :: ((takeIn p b s).port p).samples).take 16 } := by
      unfold echoReplyIn
      rw [if_pos (hcar.trans hc), now_of_offPorts hoff]
      exact port_modPort _ _ _
    refine ⟨_, powered_eq hon rfl, ?_⟩
    rw [effectOf_port, hstep]
    rfl
  · have htx := hview GPort.txSeq fun _ _ => rfl
    have hstep : spareReq p b (takeIn p b s) = pushLink p 5 (leBytes 1 (pnum b 2 1) ++ leBytes 1 0 ++ leBytes 2 (s.port p).txSeq)
        ((takeIn p b s).modPort p fun g => { g with switchLane := some (pnum b 2 1) }) := by
      unfold spareReq
      dsimp only
      rw [if_pos ⟨hst.trans h1, h2, (hview GPort.spareTx fun _ _ => rfl).trans h3,
        (hview GPort.switchLane fun _ _ => rfl).trans h4⟩, htx]
    refine ⟨_, powered_eq hon hstep, ?_⟩
    rw [effectOf_port, port_pushLink, port_modPort, hprio]
    exact ⟨rfl, rfl⟩
  · have hstep : spareAck p b (takeIn p b s) = (takeIn p b s).modPort p fun g =>
        { g with spareAt := some (pnum b 2 1, pnum b 4 2) } := by
      unfold spareAck
      rw [if_pos ((hview GPort.asked fun _ _ => rfl).trans h)]
    refine ⟨_, powered_eq hon hstep, ?_⟩
    rw [effectOf_port, port_modPort]
  · have hstep : keeperReq p (takeIn p b s) = pushLink p 7 [] ((takeIn p b s).modPort p fun g => { g with changing := true }) := by
      unfold keeperReq
      rw [if_pos ⟨hst.trans h1, hnone h2⟩]
    refine ⟨_, powered_eq hon hstep, ?_⟩
    rw [effectOf_port, port_pushLink, port_modPort, hprio]
    exact ⟨rfl, rfl⟩
  · have hstep : keeperAck p (takeIn p b s) = (takeIn p b s).modPort p (GPort.enter .keeper) := by
      unfold keeperAck
      rw [if_pos ⟨hst.trans h1, (hview GPort.wantKeeper fun _ _ => rfl).trans h2, (hview GPort.changing fun _ _ => rfl).trans h3⟩,
        if_pos (hnone h4)]
    refine ⟨_, powered_eq hon hstep, ?_⟩
    rw [effectOf_port, port_modPort]
    exact ⟨rfl, rfl⟩
  · have hstep : resumeReq p (takeIn p b s) = pushLink p 9 [] ((takeIn p b s).modPort p fun g =>
        { g with changing := true, wantKeeper := false }) := by
      unfold resumeReq
      rw [if_pos ⟨by rw [hst]; exact h1, hnone h2⟩]
    refine ⟨_, powered_eq hon hstep, ?_⟩
    rw [effectOf_port, port_pushLink, port_modPort, hprio]
    exact ⟨rfl, rfl, rfl⟩
  · have hstep : resumeAck p (takeIn p b s) = (takeIn p b s).modPort p fun g => { g with st := .equalise } := by
      unfold resumeAck
      rw [if_pos ⟨by rw [hst]; exact h1, (hview GPort.changing fun _ _ => rfl).trans h2,
        (hview GPort.wantKeeper fun _ _ => rfl).trans h3⟩, if_pos (hnone h4)]
    refine ⟨_, powered_eq hon hstep, ?_⟩
    rw [effectOf_port, port_modPort]
  · refine ⟨_, powered_eq hon (laneFailing_of_first h1 h2 h3 h4), ?_, ?_, ?_⟩
    · rw [effectOf_port, port_pushLink, port_modPort]
    · exact marked_markLane p lane s lane.isLt
    · rw [effectOf_port, port_pushLink, port_modPort, port_of_offRecords (offRecords_markLane _ _ _)]

end Sys2Proof.Laws
end

section
/-!
SUPPORT. Flits: their length and lanes (R344 to R346), what a received flit does (R353 to R356), what a port sends, and a port
that goes down.
-/

namespace Sys2Proof.KV

variable {α β : Type}

/-- A search in a table made from a list finds what the one entry of the key gives. -/
theorem find?_map_of_unique (f : Nat × α → β) {l : List (Nat × α)} {a : Nat × α} (ha : a ∈ l)
    (huniq : ∀ e ∈ l, e.1 = a.1 → e = a) : find? (l.map fun e => (e.1, f e)) a.1 = some (f a) := by
  induction l with
  | nil => cases ha
  | cons e l ih =>
    rw [List.map_cons, find?]
    by_cases h : e.1 = a.1
    · rw [if_pos h, huniq e List.mem_cons_self h]
    · rw [if_neg h]
      refine ih ?_ fun x hx => huniq x (List.mem_cons_of_mem _ hx)
      exact (List.mem_cons.1 ha).resolve_left fun hea => h (hea ▸ rfl)

end Sys2Proof.KV

namespace Sys2Proof.Laws

open Machine

/-! ### Lengths -/

theorem length_gfMulRoot (g : List Byte) (r : Byte) : (gfMulRoot g r).length = g.length + 1 := by
  simp [gfMulRoot]

theorem length_rsGen : rsGen.length = 9 := by
  have hfold : ∀ (is : List Nat) (g : List Byte),
      (is.foldl (fun g i => gfMulRoot g (gfAlpha i)) g).length = g.length + is.length := by
    intro is
    induction is with
    | nil => exact fun _ => rfl
    | cons i is ih =>
      intro g
      rw [List.foldl_cons, ih, length_gfMulRoot, List.length_cons]
      omega
  unfold rsGen
  rw [hfold, List.length_range]
  rfl

/-- The remainder of the division keeps its eight places. -/
theorem length_rsCheck (d : List Byte) : (rsCheck d).length = 8 := by
  have hdiv : ∀ (ds rem : List Byte), rem.length = 8 → (rsDivAux rsGen ds rem).length = 8 := by
    intro ds
    induction ds with
    | nil => exact fun _ h => h
    | cons x ds ih =>
      intro rem h
      refine ih _ ?_
      simp [length_rsGen, h]
  exact hdiv d _ (by simp)

/-- A flit of seven slots has 256 bytes (R346). -/
theorem length_flitBytes (w : W64) {slots : List (List Byte)} (hlen : slots.length = 7) (h32 : ∀ x ∈ slots, x.length = 32) :
    (flitBytes w slots).length = 256 := by
  have hpad : ∀ x ∈ slots, (padSlots x).length = 32 := fun x hx => by simp [padSlots, h32 x hx]
  have hflat : (slots.flatMap padSlots).length = 224 := by
    rw [List.length_flatMap, List.map_congr_left hpad, List.map_const', List.sum_replicate, hlen]
    rfl
  simp [flitBytes, withCheck, length_rsCheck, hflat]

theorem length_txFlit_reqFlit {g : GPort} (hfull : g.full = true) : (reqFlit g).txFlit.length = 256 := by
  have hcount : g.slotCount = 7 := if_pos hfull
  unfold reqFlit
  dsimp only
  refine length_flitBytes _ ?_ fun x hx => ?_
  · rw [hcount]; rfl
  · have hzero : x = List.replicate 32 0 := List.eq_of_mem_replicate (n := g.slotCount) hx
    rw [hzero]
    rfl

/-! ### Lanes -/

/-- The bytes that lane `n` carries of a full flit, when the spare has not taken it over (R344). -/
theorem laneBytes_own {spare : BitVec 4} {n : Nat} {flit : List Byte} (hn : n < 8) (hspare : n ≠ spare.toNat)
    (hlen : flit.length = 256) : laneBytes spare n flit = (List.range 32).map fun i => flit.getD (8 * i + n) 0 := by
  have hn8 : ¬ n = 8 := by omega
  have hlow : ¬ 8 ≤ n := by omega
  unfold laneBytes
  simp only [hn8, if_false, hspare, hlow, hlen]

/-- The symbols on lane `n` of an ACTIVE port (R344). -/
theorem wire_drive {g : GPort} {n : Nat} (hst : g.st = .active) (hlen : g.txFlit.length = 256) (hn : n < 8)
    (hspare : n ≠ g.spareTx.toNat) : KV.find? g.drive.wire n = some (symbols true
      (scramble ((KV.find? g.scr n).getD (scrambleInit n))
        ((List.range 32).flatMap fun i => byteBits (g.txFlit.getD (8 * i + n) 0))).1) := by
  have hfull : g.full = true := by simp [GPort.full, hst]
  have htrained : g.trained = true := by simp [GPort.trained, hst]
  have hbytes := laneBytes_own hn hspare hlen
  have hlanes : g.lanes = ((List.range 9).map fun n => (n, laneBytes g.spareTx n g.txFlit)).filter fun e => !e.2.isEmpty := by
    unfold GPort.lanes
    rw [if_neg (by rw [hst]; decide), if_pos hfull]
  have hmem : (n, laneBytes g.spareTx n g.txFlit) ∈ g.lanes := by
    rw [hlanes, List.mem_filter]
    refine ⟨List.mem_map.2 ⟨n, List.mem_range.2 (by omega), rfl⟩, ?_⟩
    rw [hbytes]
    rfl
  have huniq : ∀ e ∈ g.lanes, e.1 = n → e = (n, laneBytes g.spareTx n g.txFlit) := by
    intro e he hen
    rw [hlanes, List.mem_filter, List.mem_map] at he
    obtain ⟨⟨i, -, rfl⟩, -⟩ := he
    obtain rfl : i = n := hen
    rfl
  have hfind := KV.find?_map_of_unique (fun e : Nat × List Byte => symbols true
    (scramble ((KV.find? g.scr e.1).getD (scrambleInit e.1)) (e.2.flatMap byteBits)).1) hmem huniq
  have hwire : g.drive.wire = g.lanes.map fun e : Nat × List Byte => (e.1, symbols true
      (scramble ((KV.find? g.scr e.1).getD (scrambleInit e.1)) (e.2.flatMap byteBits)).1) := by
    unfold GPort.drive
    dsimp only
    rw [List.map_map, htrained, hfull]
    rfl
  rw [hwire, hfind, hbytes, List.flatMap_map]

/-! ### Corrections -/

theorem recent_note (s : State) (k key now w : Nat) : (s.note k).mp.recent key now w =
    (if k = key ∧ now ≤ s.now + w then 1 else 0) + s.mp.recent key now w := by
  unfold State.note Mp.recent
  rw [modMp_mp, List.filter_cons]
  by_cases h : k = key ∧ now ≤ s.now + w
  · rw [if_pos (by simpa using h), if_pos h, List.length_cons, Nat.add_comm]
  · rw [if_neg (by simpa using h), if_neg h, Nat.zero_add]

theorem recent_notes (k : Nat → Nat) (key w : Nat) (bs : List Nat) (s : State) :
    (forEach bs (fun b s => s.note (k b)) s).mp.recent key s.now w =
      bs.countP (fun b => k b == key) + s.mp.recent key s.now w := by
  induction bs generalizing s with
  | nil => simp [forEach_nil]
  | cons b bs ih =>
    have hnow : (s.note (k b)).now = s.now := rfl
    rw [forEach_cons, ← hnow, ih, hnow, recent_note, List.countP_cons]
    by_cases h : k b = key
    · rw [if_pos ⟨h, by omega⟩, if_pos (by simpa using h)]; omega
    · rw [if_neg (fun e => h e.1), if_neg (by simpa using h)]; omega

theorem forEach_eq_self {α : Type} {f : α → State → State} {xs : List α} {s : State} (h : ∀ x ∈ xs, f x s = s) :
    forEach xs f s = s := by
  induction xs with
  | nil => rfl
  | cons x xs ih => rw [forEach_cons, h x List.mem_cons_self, ih fun y hy => h y (List.mem_cons_of_mem _ hy)]

/-- The corrections of a flit, noted by lane. -/
def noteFixed (p : Nat) (at_ : List Nat) (s : State) : State := forEach at_ (fun b s => s.note (evKey 21 (8 * p + b % 8))) s

/-- Corrections that no lane has too many of are noted alone (R352). -/
theorem countFixed_of_bearable {s : State} {p : Nat} {at_ : List Nat} (h : CorrectionsBearable s p at_) :
    countFixed p at_ s = if (s.port p).full = false then s else noteFixed p at_ s := by
  unfold countFixed
  dsimp only
  split
  · rfl
  · have hnow : (noteFixed p at_ s).now = s.now :=
      forEach_view State.now (f := fun b s => s.note (evKey 21 (8 * p + b % 8))) (fun _ _ => rfl) at_ s
    refine forEach_eq_self (s := noteFixed p at_ s) fun l hl => ?_
    obtain ⟨b, -, rfl⟩ := List.mem_map.1 (List.mem_eraseDups.1 hl)
    have hrecent := recent_notes (fun b => evKey 21 (8 * p + b % 8)) (evKey 21 (8 * p + b % 8)) 3000000 at_ s
    have hcount : at_.countP (fun c => evKey 21 (8 * p + c % 8) == evKey 21 (8 * p + b % 8)) =
        at_.countP (fun c => c % 8 == b % 8) := by
      refine List.countP_congr fun c _ => ?_
      simp only [evKey, beq_iff_eq]
      omega
    have hbear := h (b % 8) (Nat.mod_lt _ (by decide))
    rw [hcount] at hrecent
    rw [hnow]
    exact if_neg (by unfold noteFixed; rw [hrecent]; omega)

/-- The state in which a flit of bearable corrections is taken: its corrections are counted, nothing else has changed. -/
theorem counted_of_bearable {s : State} {p : Nat} {at_ : List Nat} (h : CorrectionsBearable s p at_) : ∃ n,
    (countFixed p at_ (s.modPort p fun g => { g with fecCorr := g.fecCorr + at_.length })).port p =
      { s.port p with fecCorr := n } ∧
    ((countFixed p at_ (s.modPort p fun g => { g with fecCorr := g.fecCorr + at_.length })).port p).carries =
      (s.port p).carries := by
  have hfold : ∀ t : State, (noteFixed p at_ t).port p = t.port p := fun t =>
    forEach_view (fun u => u.port p) (f := fun b s => s.note (evKey 21 (8 * p + b % 8))) (fun _ _ => rfl) at_ t
  have hmod : CorrectionsBearable (s.modPort p fun g => { g with fecCorr := g.fecCorr + at_.length }) p at_ := h
  have hport : (countFixed p at_ (s.modPort p fun g => { g with fecCorr := g.fecCorr + at_.length })).port p =
      { s.port p with fecCorr := (s.port p).fecCorr + at_.length } := by
    rw [countFixed_of_bearable hmod]
    split
    · exact port_modPort _ _ _
    · rw [hfold, port_modPort]
  exact ⟨_, hport, by rw [hport]; rfl⟩

/-! ### Flits that arrive -/

/-- A port that has taken note of a good flit: its priority packets wait, and the retry buffer keeps what the flit's ack does
not cover (R353, R354). -/
def GPort.noted (h : FlitHead) (slots : List (List Byte)) (g : GPort) : GPort :=
  { g with
    inbox := g.inbox ++ prioSlots h slots
    retry := uncovered h.ack g.retry, resend := uncovered h.ack g.resend }

/-- What a flit that carries traffic does, by its kind (R346, R353). -/
theorem flitReceive_of_good {s : State} {p : Nat} {raw : List Byte} {w : W64} {slots : List (List Byte)}
    (hcar : (s.port p).carries = true) (hbear : CorrectionsBearable s p (decodeFlit (s.port p).slotCount raw).fixed)
    (hgood : (decodeFlit (s.port p).slotCount raw).good = some (w, slots)) (hstart : badStart (FlitHead.of w) slots = false) :
    ∃ (t : State) (n : Nat), t.port p = (GPort.noted (FlitHead.of w) slots { s.port p with fecCorr := n }) ∧
      flitReceive p raw s = match (FlitHead.of w).kind with
        | 0 | 3 =>
          if (FlitHead.of w).seq = ((s.port p).rxSeq + 1) % 4096 then acceptFlit p (FlitHead.of w) slots t
          else t.modPort p fun g => { g with reqDue := true }
        | 1 => t.modPort p (GPort.credit (FlitHead.of w))
        | 2 => retryReq p (FlitHead.of w).ack (t.modPort p (GPort.credit (FlitHead.of w)))
        | _ => t := by
  obtain ⟨n, hport, hcar'⟩ := counted_of_bearable hbear
  refine ⟨(countFixed p (decodeFlit (s.port p).slotCount raw).fixed
      (s.modPort p fun g => { g with fecCorr := g.fecCorr + (decodeFlit (s.port p).slotCount raw).fixed.length })).modPort p
        (GPort.noted (FlitHead.of w) slots), n, ?_, ?_⟩
  · rw [port_modPort, hport]
  · unfold flitReceive
    dsimp only
    rw [if_neg (by rw [hcar]; decide), if_neg (by rw [hcar', hcar]; decide), hgood]
    dsimp only
    rw [if_neg (by rw [hstart]; decide)]
    rfl

/-- A flit that does not decode is counted, and a RETRY_REQ is due (R353). -/
theorem port_flitReceive_bad {s : State} {p : Nat} {raw : List Byte} (hcar : (s.port p).carries = true)
    (hbear : CorrectionsBearable s p (decodeFlit (s.port p).slotCount raw).fixed)
    (hbad : (decodeFlit (s.port p).slotCount raw).good = none) (hst : (s.port p).st ≠ .detect) : ∃ n,
    (flitReceive p raw s).port p =
      { s.port p with fecCorr := n, badFlits := sat32 (s.port p).badFlits 1, reqDue := true } := by
  obtain ⟨n, hport, hcar'⟩ := counted_of_bearable hbear
  refine ⟨n, ?_⟩
  unfold flitReceive
  dsimp only
  rw [if_neg (by rw [hcar]; decide), if_neg (by rw [hcar', hcar]; decide), hbad]
  dsimp only
  rw [port_modPort, hport, show ((s.port p).st != .detect) = true from by simpa using hst]

/-- A PAYLOAD flit in order: its seq, and the credits it returns (R353, R356). -/
theorem port_acceptFlit {s : State} {p : Nat} {h : FlitHead} (hkind : h.kind = 0) (slots : List (List Byte)) :
    ((acceptFlit p h slots s).port p).rxSeq = h.seq ∧ ((acceptFlit p h slots s).port p).credits =
      KV.upd 0 (s.port p).credits h.vc (· + h.credit) := by
  unfold acceptFlit
  dsimp only
  split
  · rw [if_neg (by rw [hkind]; exact fun e => absurd e.1 (by decide)), port_modPort]
    exact ⟨rfl, rfl⟩
  · rw [port_modPort]
    exact ⟨rfl, rfl⟩

/-- A RETRY_REQ makes the transmitter resend its retry buffer (R353). -/
theorem port_retryReq {s : State} {p ack : Nat} (h : (s.port p).reqAck ≠ ack ∨ (s.port p).reqRun ≠ 7) :
    ((retryReq p ack s).port p).retries = sat32 (s.port p).retries 1 ∧
    ((retryReq p ack s).port p).resend = (s.port p).retry ∧ ((retryReq p ack s).port p).retry = (s.port p).retry := by
  unfold retryReq
  dsimp only
  rw [if_neg (by
    split
    next hrun =>
      intro e
      exact h.elim (fun ha => ha hrun.2) (fun hr => hr (by omega))
    next => decide), port_modPort]
  exact ⟨rfl, rfl, rfl⟩

/-! ### Sending -/

theorem offPorts_dropModeAcks (p : Nat) (s : State) : offPorts (dropModeAcks p s) = offPorts s := by
  unfold dropModeAcks
  dsimp only
  split <;> rfl

/-- An acknowledgement of a change of mode that is dropped leaves all but the queue and the change (R349). -/
theorem port_dropModeAcks (p : Nat) (s : State) : ∃ q c, (dropModeAcks p s).port p = { s.port p with prio := q, changing := c } := by
  unfold dropModeAcks
  dsimp only
  split
  · exact ⟨_, _, rfl⟩
  · exact ⟨_, _, port_modPort _ _ _⟩

/-- What a port keeps when a change of mode is confirmed with what it has just sent. -/
def sentView (g : GPort) : List Byte × Nat × List RetryEnt × List RetryEnt × Bool := (g.txFlit, g.txSeq, g.retry, g.resend, g.reqDue)

theorem sentView_calm {g h : GPort} (e : calm g = calm h) : sentView g = sentView h := (congrArg sentView e :)

theorem sentView_prioSent (p : Nat) (es : List PrioOut) (s : State) : sentView ((prioSent p es s).port p) = sentView (s.port p) := by
  have hmode : ∀ (a b : Bool) (t : State), t.port p = s.port p → sentView (State.port (if a then t.modPort p (GPort.enter .keeper)
      else if b then t.modPort p fun g => { g with st := .equalise } else t) p) = sentView (s.port p) := fun a b t ht => by
    split
    · rw [port_modPort, ht]; rfl
    · split
      · rw [port_modPort, ht]; rfl
      · rw [ht]
  unfold prioSent
  refine hmode _ _ _ ?_
  split <;> rfl

theorem sentView_arbLost (q : TxPkt) (p : Nat) (s : State) : sentView ((arbLost q s).port p) = sentView (s.port p) := by
  have hframe : linkFrame (arbLost q s) = linkFrame s := by
    unfold arbLost
    dsimp only
    split
    · split
      · rw [linkFrame_actFault, linkFrame_modSlot]
      · rfl
    · rfl
  exact sentView_calm (calm_port_of_linkFrame hframe p)

theorem sentView_drive (g : GPort) : sentView g.drive = sentView g := rfl

/-- The state and the port from which a flit of a trained port is chosen. -/
theorem flitTransmit_of_up {s : State} {p : Nat} (hcar : (s.port p).carries = true) (hst : (s.port p).st ≠ .detect) :
    flitTransmit p s =
      let t := dropModeAcks p s
      let g := t.port p
      if g.reqDue ∧ g.mustIdle t.now = false then t.modPort p fun g => (reqFlit g).drive
      else
        match g.mustIdle t.now, g.resend with
        | false, e :: _ => prioSent p ((g.prioDue t.now).take e.places.length) (t.modPort p fun g => (resendFlit t.now t.myId e g).drive)
        | _, _ =>
          let (lost, g') := freshFlit (g.mustIdle t.now) t.now t.myId (g.code t.ghl.admitted) g
          let u := t.modPort p fun _ => g'.drive
          let u := if g'.spareTx = g.spareTx then u else u.log Code.ghlLaneSpared originMp 0xFF 0 0
          forEach lost arbLost (prioSent p ((g.prioDue t.now).take g.slotCount) u) := by
  unfold flitTransmit
  dsimp only
  rw [if_neg (by rw [hcar]; decide), if_neg hst] <;> rfl

/-- What a port keeps after a flit sent for the first time. -/
theorem sentView_sendFresh (p : Nat) (lost : List TxPkt) (es : List PrioOut) (g' : GPort) (spare : BitVec 4) (t : State) :
    sentView ((forEach lost arbLost (prioSent p es (if g'.spareTx = spare then t.modPort p fun _ => g'.drive
      else (t.modPort p fun _ => g'.drive).log Code.ghlLaneSpared originMp 0xFF 0 0))).port p) = sentView g' := by
  rw [forEach_view (fun u : State => sentView (u.port p)) fun q u => sentView_arbLost q p u, sentView_prioSent]
  split
  · rw [port_modPort, sentView_drive]
  · rw [port_log, port_modPort, sentView_drive]

/-- A flit that is sent in place of another, for a mark's copy, is an IDLE flit: it takes no sequence number (R361). -/
theorem freshFlit_idle (now me code : Nat) (g : GPort) : (freshFlit true now me code g).2.txSeq = g.txSeq ∧
    (freshFlit true now me code g).2.reqDue = g.reqDue ∧ (freshFlit true now me code g).2.resend = g.resend := by
  have hret : ∀ h : GPort, h.returned.txSeq = h.txSeq ∧ h.returned.reqDue = h.reqDue ∧ h.returned.resend = h.resend :=
    fun h => ⟨rfl, rfl, rfl⟩
  unfold freshFlit
  simp only [Bool.true_or, if_true, Bool.not_true, Bool.false_and, Bool.false_eq_true, if_false, List.isEmpty_nil]
  split <;> exact ⟨rfl, rfl, rfl⟩

/-- The IDLE or new flit of a port that has nothing to resend. -/
theorem flitTransmit_fresh {s : State} {p : Nat} {idle : Bool} (hcar : (s.port p).carries = true)
    (hst : (s.port p).st ≠ .detect) (hidle : ((dropModeAcks p s).port p).mustIdle s.now = idle)
    (hreq : idle = true ∨ (s.port p).reqDue = false ∧ (s.port p).resend = []) : ∃ g' lost,
      (lost, g') = freshFlit idle s.now s.myId (((dropModeAcks p s).port p).code s.ghl.admitted) ((dropModeAcks p s).port p) ∧
      sentView ((flitTransmit p s).port p) = sentView g' := by
  have hoff := offPorts_dropModeAcks p s
  obtain ⟨q, ch, hport⟩ := port_dropModeAcks p s
  obtain ⟨lost, g', hf⟩ : ∃ lost g', (lost, g') =
      freshFlit idle s.now s.myId (((dropModeAcks p s).port p).code s.ghl.admitted) ((dropModeAcks p s).port p) :=
    ⟨_, _, Prod.mk.eta⟩
  have hnot : ¬ (((dropModeAcks p s).port p).reqDue ∧ idle = false) := by
    rw [hport]
    obtain rfl | ⟨hr, -⟩ := hreq
    · exact fun e => Bool.noConfusion e.2
    · exact fun e => Bool.noConfusion (hr.symm.trans e.1)
  refine ⟨g', lost, hf, ?_⟩
  rw [flitTransmit_of_up hcar hst]
  dsimp only
  rw [now_of_offPorts hoff, myId_of_offPorts hoff, admitted_of_offPorts hoff, hidle, if_neg hnot, ← hf]
  obtain rfl | ⟨-, hr⟩ := hreq
  · exact sentView_sendFresh _ _ _ _ _ _
  · have hres : ((dropModeAcks p s).port p).resend = [] := by rw [hport]; exact hr
    rw [hres]
    cases idle <;> exact sentView_sendFresh _ _ _ _ _ _

/-! ### A port that goes down -/

/-- The retry buffer, the lanes and the count of a port that goes down (R355). -/
def downView (g : GPort) : PortSt × List RetryEnt × BitVec 9 × W32 := (g.st, g.retry, g.laneOk, g.downs)

theorem downView_calm {g h : GPort} (e : calm g = calm h) : downView g = downView h := (congrArg downView e :)

theorem downView_portDown {s : State} {p : Nat} (hcar : (s.port p).carries = true) (hst : (s.port p).st ≠ .detect) :
    downView ((portDown p s).port p) = (.detect, [], 0, sat32 (s.port p).downs 1) := by
  have hlost : ∀ (bs : List (List Byte)) (t : State), linkFrame (forEach bs losePkt t) = linkFrame t :=
    forEach_view linkFrame linkFrame_losePkt
  unfold portDown
  dsimp only
  rw [if_neg (by rw [hcar]; exact fun e => e.elim (fun h => Bool.noConfusion h) hst),
    port_of_offRecords (offRecords_settleHealth _),
    downView_calm (calm_port_of_linkFrame ((linkFrame_triggerLink _ _).trans (hlost _ _)) p), port_modPort]
  rfl

/-- Settles O39: what a flit of each kind does when it comes, which flit goes out, and a port that goes down. -/
theorem flitExchange : Obligations.FlitExchange := by
  unfold Obligations.FlitExchange
  intro p s hon hcar
  refine ⟨fun raw w slots hbear hgood hstart => ?_, fun raw hbear hbad hst => ?_, fun g hg hst hreq hidle => ?_,
    fun g hg hst hreq hres hidle => ?_, fun g hg hst hreq hres => ?_, fun g hg hst hidle => ?_, fun i hi hst => ?_⟩
  · obtain ⟨t, n, hport, hrecv⟩ := flitReceive_of_good hcar hbear hgood hstart
    refine ⟨fun hkind hseq => ?_, fun hkind hseq => ?_, fun hkind hrun => ?_⟩
    · rw [hkind] at hrecv
      obtain ⟨hrx, hcredits⟩ := port_acceptFlit (s := t) (p := p) hkind slots
      refine ⟨_, powered_eq hon (hrecv.trans (if_pos hseq)), ?_, ?_⟩
      · rw [effectOf_port, hrx]
      · rw [effectOf_port, hcredits, KV.get_upd_self, hport]
        rfl
    · rw [hkind] at hrecv
      refine ⟨_, powered_eq hon (hrecv.trans (if_neg hseq)), ?_⟩
      rw [effectOf_port, port_modPort, hport]
      exact ⟨rfl, rfl⟩
    · rw [hkind] at hrecv
      have hstep : retryReceive p raw s = retryReq p (FlitHead.of w).ack (t.modPort p (GPort.credit (FlitHead.of w))) := by
        unfold retryReceive
        rw [hgood]
        dsimp only
        rw [if_pos hkind]
        exact hrecv
      obtain ⟨hretries, hresend, hretry⟩ := port_retryReq (s := t.modPort p (GPort.credit (FlitHead.of w))) (p := p)
        (ack := (FlitHead.of w).ack) (by rw [port_modPort, hport]; exact hrun)
      refine ⟨_, powered_eq hon hstep, ?_⟩
      rw [effectOf_port, hretries, hresend, hretry, port_modPort, hport]
      exact ⟨rfl, rfl, rfl⟩
  · obtain ⟨n, hport⟩ := port_flitReceive_bad hcar hbear hbad hst
    refine ⟨_, powered_eq hon rfl, ?_⟩
    rw [effectOf_port, hport]
    exact ⟨rfl, rfl, rfl⟩
  · subst hg
    have hoff := offPorts_dropModeAcks p.val s
    obtain ⟨q, ch, hport⟩ := port_dropModeAcks p.val s
    have hstep : flitTransmit p s = (dropModeAcks p s).modPort p fun g => (reqFlit g).drive := by
      rw [flitTransmit_of_up hcar hst]
      dsimp only
      rw [now_of_offPorts hoff]
      exact if_pos ⟨by rw [hport]; exact hreq, hidle⟩
    refine ⟨_, powered_eq hon hstep, ?_, fun hact n hn hspare => ?_⟩
    · rw [effectOf_port, port_modPort]
    · have hst' : ((dropModeAcks p.val s).port p.val).st = .active := by rw [hport]; exact hact
      have hfull : ((dropModeAcks p.val s).port p.val).full = true := by simp [GPort.full, hst']
      have hwire := wire_drive (g := reqFlit ((dropModeAcks p.val s).port p.val)) (n := n) hst' (length_txFlit_reqFlit hfull) hn
        (by rw [show (reqFlit _).spareTx = ((dropModeAcks p.val s).port p.val).spareTx from rfl, hport]; exact hspare)
      rw [effectOf_port, port_modPort, hwire,
        show (reqFlit ((dropModeAcks p.val s).port p.val)).scr = (s.port p).scr from by
          rw [show (reqFlit _).scr = ((dropModeAcks p.val s).port p.val).scr from rfl, hport]]
      rfl
  · subst hg
    have hoff := offPorts_dropModeAcks p.val s
    obtain ⟨q, ch, hport⟩ := port_dropModeAcks p.val s
    obtain ⟨e, es, hes⟩ := List.exists_cons_of_ne_nil hres
    have hres' : ((dropModeAcks p.val s).port p.val).resend = e :: es := by rw [hport]; exact hes
    have hreq' : ((dropModeAcks p.val s).port p.val).reqDue = false := by rw [hport]; exact hreq
    have hstep : flitTransmit p s = prioSent p ((((dropModeAcks p s).port p).prioDue s.now).take e.places.length)
        ((dropModeAcks p s).modPort p fun g => (resendFlit s.now (dropModeAcks p s).myId e g).drive) := by
      rw [flitTransmit_of_up hcar hst]
      dsimp only
      rw [now_of_offPorts hoff, hidle, hreq', hres', if_neg (by simp)]
    have hview := sentView_prioSent p ((((dropModeAcks p s).port p).prioDue s.now).take e.places.length)
        ((dropModeAcks p s).modPort p fun g => (resendFlit s.now (dropModeAcks p s).myId e g).drive)
    rw [port_modPort, sentView_drive] at hview
    have hresend := congrArg (fun x => x.2.2.2.1) hview
    refine ⟨_, powered_eq hon hstep, ?_⟩
    rw [effectOf_port]
    exact hresend.trans (by
      show ((dropModeAcks p.val s).port p.val).resend.drop 1 = _
      rw [hres', hes])
  · subst hg
    have hmust : ((dropModeAcks p.val s).port p.val).mustIdle s.now = false := by
      obtain ⟨q, ch, hport⟩ := port_dropModeAcks p.val s
      unfold GPort.mustIdle
      dsimp only
      rw [hport, if_neg (by simpa using hreq)]
      show (match (s.port p).resend with
        | e :: _ => _
        | [] => false) = false
      rw [hres]
    obtain ⟨g', lost, hg', hview⟩ := flitTransmit_fresh hcar hst hmust (.inr ⟨hreq, hres⟩)
    simp only [sentView, Prod.mk.injEq] at hview
    obtain ⟨htx, hseq, hretry, -, -⟩ := hview
    exact ⟨g', lost, _, hg', powered_eq hon rfl, htx, hseq, hretry⟩
  · subst hg
    obtain ⟨q, ch, hport⟩ := port_dropModeAcks p.val s
    obtain ⟨g', lost, hg', hview⟩ := flitTransmit_fresh hcar hst hidle (.inl rfl)
    obtain ⟨hseq', hreq', hres'⟩ := freshFlit_idle s.now s.myId (((dropModeAcks p.val s).port p.val).code s.ghl.admitted)
      ((dropModeAcks p.val s).port p.val)
    have hg2 := congrArg Prod.snd hg'
    rw [← hg2] at hseq' hreq' hres'
    simp only [sentView, Prod.mk.injEq] at hview
    obtain ⟨htx, hseq, -, hres, hreq⟩ := hview
    refine ⟨g', lost, _, hg', powered_eq hon rfl, htx, ?_, ?_, ?_⟩
    · exact hseq.trans (hseq'.trans (by rw [hport]))
    · exact hreq.trans (hreq'.trans (by rw [hport]))
    · exact hres.trans (hres'.trans (by rw [hport]))
  · have hview := downView_portDown hcar hst
    simp only [downView, Prod.mk.injEq] at hview
    simp only [List.mem_cons, List.not_mem_nil, or_false] at hi
    obtain rfl | rfl := hi
    · exact ⟨_, powered_eq hon rfl, hview⟩
    · exact ⟨_, powered_eq hon rfl, hview⟩

end Sys2Proof.Laws
end

section
/-!
SUPPORT. Packets that arrive (R358, R359, R372, R373, R377).
-/

namespace Sys2Proof.Laws

open Machine

/-! ### The class-4 state of a slot -/

theorem ghl_abortTiles (status c d : Nat) (s : State) : ((abortTiles status c s).slot d).ghl = (s.slot d).ghl := by
  by_cases h : d = c
  · subst h
    obtain ⟨q, hq⟩ := slot_abortTiles status d s
    rw [hq]
  · rw [otherSlots_abortTiles status c s d h]

theorem ghl_abortPress (status c d : Nat) (s : State) : ((abortPress status c s).slot d).ghl = (s.slot d).ghl := by
  by_cases h : d = c
  · subst h; rw [slot_abortPress]
  · rw [otherSlots_abortPress status c s d h]

theorem ghl_enterCause (c d code : Nat) (arg : W32) (ext : BitVec 48) (s : State) :
    ((enterCause s c code arg ext).slot d).ghl = (s.slot d).ghl := by
  by_cases h : d = c
  · subst h; rw [slot_enterCause]
  · rw [otherSlots_enterCause s c code arg ext d h]

theorem ghl_discardRest (c d : Nat) (s : State) : ((s.discardRest c).slot d).ghl = (s.slot d).ghl := by
  by_cases h : d = c
  · subst h
    obtain ⟨p, hp⟩ := slot_discardRest s d
    rw [hp]
  · rw [otherSlots_discardRest s c d h]

/-! What of the class-4 state of a slot its commands in execution do not tell stays under a cause of Table 2.6. -/

section
variable {β : Type} (P : CtxGhl → β) (hP : ∀ g a, P { g with acts := a } = P g)
include hP

theorem ghlView_filterActs (s : State) (c d : Nat) (f : List GhlAct → List GhlAct) :
    P ((s.modCtxGhl c fun g => { g with acts := f g.acts }).slot d).ghl = P (s.slot d).ghl := by
  unfold State.modCtxGhl
  by_cases h : d = c
  · subst h; rw [slot_modSlot]; exact hP _ _
  · rw [slot_modSlot_other _ _ h]

theorem ghlView_endAct (c d : Nat) (a : GhlAct) (status : Nat) (ab : Bool) (s : State) :
    P ((endAct c a status ab s).slot d).ghl = P (s.slot d).ghl := by
  unfold endAct
  extract_lets a t u v
  have hu : P (u.slot d).ghl = P (s.slot d).ghl := by
    rw [show u = t.modCtxGhl c (fun g => { g with acts := g.acts.filter fun b => !b.same a }) from rfl,
      ghlView_filterActs P hP t c d fun l => l.filter fun b => !b.same a, complete_slot]
  split <;> exact hu

theorem ghlView_abortAll (status c d : Nat) (s : State) : P ((abortAll status c s).slot d).ghl = P (s.slot d).ghl := by
  unfold abortAll
  rw [show ∀ t : State, P ((abortGhl status c t).slot d).ghl = P (t.slot d).ghl from fun t =>
    forEach_view (fun u : State => P (u.slot d).ghl) (fun _ _ => ghlView_endAct P hP _ _ _ _ _ _) _ t,
    ghl_abortPress, slot_abortStreams, slot_abortSeams, slot_abortMangle, ghl_abortTiles]

theorem ghlView_raiseCause (c d code : Nat) (arg : W32) (ext : BitVec 48) (s : State) :
    P ((raiseCause s c code arg ext).slot d).ghl = P (s.slot d).ghl := by
  cases hon : (s.slot c).att.on with
  | false => rw [raiseCause_of_over code arg ext hon]
  | true =>
    rw [raiseCause_of_on code arg ext hon]
    split
    · rw [ghl_discardRest, ghlView_abortAll P hP, ghl_enterCause]
    · rw [ghl_enterCause]

theorem ghlView_actFault (c d : Nat) (a : GhlAct) (code : Nat) (s : State) :
    P ((actFault c a code s).slot d).ghl = P (s.slot d).ghl := by
  unfold actFault
  dsimp only
  split <;> rw [ghlView_raiseCause P hP, ghlView_endAct P hP]

theorem ghlView_receiptIn (d : Nat) (b : List Byte) (s : State) : P ((receiptIn b s).slot d).ghl = P (s.slot d).ghl := by
  unfold receiptIn
  dsimp only
  split
  · rfl
  · split
    · rfl
    · generalize ht : (if min 4 (pnum b 7 1) = 1 then (match portTo s (psrc b) with
        | some p => triggerLink p s
        | none => s) else s) = t
      have hslot : t.slot d = s.slot d := by
        rw [← ht]
        split
        · split
          · exact slot_triggerLink _ _ _
          · rfl
        · rfl
      have hmod : ∀ (a : GhlAct) (f : GhlAct → GhlAct), P ((t.modAct (pslot b) a f).slot d).ghl = P (s.slot d).ghl := fun a f => by
        unfold State.modAct
        exact (ghlView_filterActs P hP t (pslot b) d _).trans (by rw [hslot])
      split
      · split
        · rw [hslot]
        · rw [ghlView_actFault P hP, hslot]
      · split
        · split
          · rw [ghlView_endAct P hP, hmod]
          · exact hmod _ _
        · rw [ghlView_actFault P hP, hmod]

theorem ghlView_sendReceipt (d : Nat) (b : List Byte) (s : State) : P ((sendReceipt b s).slot d).ghl = P (s.slot d).ghl := by
  unfold sendReceipt
  split
  · exact ghlView_receiptIn P hP d b s
  · rfl
  · rw [slot_countNoRoute]
  · rfl

end

/-! ### Routes -/

/-- The route of a packet turns on its type and destination, the device's routes, and the states of its ports. -/
theorem routeOf_congr {s t : State} {b : List Byte} (hoff : offPorts t = offPorts s)
    (hport : ∀ q, (t.port q).code s.ghl.admitted = (s.port q).code s.ghl.admitted) : routeOf t b = routeOf s b := by
  unfold routeOf State.portFitted State.ioFitted
  simp only [myId_of_offPorts hoff, valid_of_offPorts hoff, routes_of_offPorts hoff, admitted_of_offPorts hoff,
    fuses_of_offPorts hoff, hport]

theorem code_inbox (g : GPort) (q : List (List Byte)) (a : Bool) : ({ g with inbox := q } : GPort).code a = g.code a := rfl
theorem code_owed (g : GPort) (q : KV Nat) (a : Bool) : ({ g with owed := q } : GPort).code a = g.code a := rfl

theorem port_freeSlots_view {β : Type} (P : GPort → β) (hP : ∀ g o, P { g with owed := o } = P g) (p : Nat) (b : List Byte)
    (s : State) (q : Nat) : P ((freeSlots p b s).port q) = P (s.port q) := by
  unfold freeSlots
  by_cases h : q = p
  · subst h; rw [port_modPort]; exact hP _ _
  · rw [port_modPort_other _ _ h]

@[simp] theorem offPorts_freeSlots (p : Nat) (b : List Byte) (s : State) : offPorts (freeSlots p b s) = offPorts s := rfl

/-- The state in which a packet that came is handled: it has left the receive buffer. -/
theorem routeOf_takeIn (p : Nat) (b c : List Byte) (s : State) : routeOf (takeIn p b s) c = routeOf s c :=
  routeOf_congr (offPorts_takeIn p b s) fun q => port_takeIn_view (fun g => g.code s.ghl.admitted) (fun g i => code_inbox g i _) p b s q

theorem routeOf_freeSlots (p : Nat) (b c : List Byte) (s : State) : routeOf (freeSlots p b s) c = routeOf s c :=
  routeOf_congr (offPorts_freeSlots p b s) fun q => port_freeSlots_view (fun g => g.code s.ghl.admitted) (fun g i => code_owed g i _) p b s q

/-- A whole packet of its type, from a port that carries it, is handled or passed on (R358). -/
theorem routedIn_of_whole {s : State} {p : Nat} {b : List Byte} (hcar : carriesType ((s.port p).code s.ghl.admitted) (ptype b) = true)
    (hlen : b.length = 32 * pslots b) (here : State → State) : routedIn p (ptype b) b here s =
      match routeOf s b with
      | .here => here (takeIn p b s)
      | _ => passOn b (freeSlots p b (takeIn p b s)) := by
  unfold routedIn
  rw [if_neg (by rw [hcar]; simp [wholePkt, hlen])]
  dsimp only
  rw [routeOf_takeIn] <;> rfl

/-- A packet with one hop less (R358). -/
def hopped (b : List Byte) : List Byte := b.set 1 (b.getD 1 0 - 1)

theorem ptype_hopped (b : List Byte) : ptype (hopped b) = ptype b := by
  unfold ptype pnum hopped
  rw [List.drop_zero, List.drop_zero, List.take_set_of_le (by omega)]

theorem pdst_hopped (b : List Byte) : pdst (hopped b) = pdst b := by
  unfold pdst pnum hopped
  rw [List.drop_set_of_lt (by omega)]

theorem routeOf_hopped (s : State) (b : List Byte) : routeOf s (hopped b) = routeOf s b := by
  unfold routeOf
  rw [ptype_hopped, pdst_hopped]

/-- A packet for another device goes to the port of its route (R358). -/
theorem passOn_of_port {s : State} {p o : Nat} {b : List Byte} (hroute : routeOf s b = .port o) (hhops : phops b ≠ 0) :
    passOn b (freeSlots p b (takeIn p b s)) = (freeSlots p b (takeIn p b s)).modPort o (GPort.push (hopped b)) := by
  have hsame : routeOf (freeSlots p b (takeIn p b s)) (hopped b) = .port o := by
    rw [routeOf_hopped, routeOf_freeSlots, routeOf_takeIn, hroute]
  unfold passOn forward
  rw [if_neg hhops]
  change (match routeOf (freeSlots p b (takeIn p b s)) (hopped b) with
    | .here => _
    | .port p => _
    | .noRoute => _
    | .noPort => _) = _
  rw [hsame]
  rfl

/-- The queues of a port: writes, receipts and reductions. -/
def queuesOf (g : GPort) : List (List Byte) × List (List Byte) × List (List Byte) :=
  (g.writes.map (·.bytes), g.receipts.map (·.bytes), g.reduces.map (·.bytes))

theorem queuesOf_came (p : Nat) (b : List Byte) (s : State) (q : Nat) :
    queuesOf ((freeSlots p b (takeIn p b s)).port q) = queuesOf (s.port q) :=
  (port_freeSlots_view queuesOf (fun _ _ => rfl) p b _ q).trans (port_takeIn_view queuesOf (fun _ _ => rfl) p b s q)

theorem writes_push {b : List Byte} (h : ptype b = Pkt.write) (g : GPort) :
    (g.push b).writes.map (·.bytes) = g.writes.map (·.bytes) ++ [b] := by
  unfold GPort.push
  dsimp only
  rw [if_neg (by rw [h]; decide), if_neg (by rw [h]; decide), if_pos h]
  exact List.map_append

theorem receipts_push {b : List Byte} (h : ptype b = Pkt.receipt) (g : GPort) :
    (g.push b).receipts.map (·.bytes) = g.receipts.map (·.bytes) ++ [b] := by
  unfold GPort.push
  dsimp only
  rw [if_pos h]
  exact List.map_append

theorem reduces_push {b : List Byte} (h : ptype b = Pkt.reduce) (g : GPort) :
    (g.push b).reduces.map (·.bytes) = g.reduces.map (·.bytes) ++ [b] := by
  unfold GPort.push
  dsimp only
  rw [if_neg (by rw [h]; decide), if_pos h]
  exact List.map_append

/-! ### A WRITE for the device -/

theorem rowVerdict_congr {s t : State} (hslots : t.slots = s.slots) (hstroke : t.stroke = s.stroke) (b : List Byte) :
    rowVerdict t b = rowVerdict s b := by
  unfold rowVerdict
  rw [slot_congr hslots, hstroke]

/-- Counts of the windows of a slot. -/
theorem counts_waitDone (c d : Nat) (s : State) : ((waitDone c s).slot d).ghl.counts = (s.slot d).ghl.counts :=
  forEach_view (fun t : State => (t.slot d).ghl.counts) (fun a t => by
    split
    · exact ghlView_endAct CtxGhl.counts (fun _ _ => rfl) c d a 0 false t
    · rfl) _ s

theorem counts_modCoal (s : State) (c d : Nat) (f : List Coal → List Coal) :
    ((s.modCtxGhl c fun g => { g with coal := f g.coal }).slot d).ghl.counts = (s.slot d).ghl.counts := by
  unfold State.modCtxGhl
  by_cases h : d = c
  · subst h; rw [slot_modSlot]
  · rw [slot_modSlot_other _ _ h]

theorem counts_flushCoal (c d : Nat) (q : Coal) (s : State) : ((flushCoal c q s).slot d).ghl.counts = (s.slot d).ghl.counts := by
  unfold flushCoal
  dsimp only
  rw [ghlView_sendReceipt CtxGhl.counts (fun _ _ => rfl), counts_modCoal s c d fun l => l.filter fun r => r != q]

theorem counts_coalesce (b : List Byte) (out d : Nat) (s : State) :
    ((coalesce b out s).slot d).ghl.counts = (s.slot d).ghl.counts := by
  have hfirst : ∀ c src tag mk, ((match s.coalAt c src tag with
      | some q => if q.outcome = out ∧ q.mark = mk then s else flushCoal c q s
      | none => s).slot d).ghl.counts = (s.slot d).ghl.counts := fun c src tag mk => by
    split
    · split
      · rfl
      · exact counts_flushCoal _ _ _ _
    · rfl
  unfold coalesce
  extract_lets c src tag mk t q u
  have ht : (t.slot d).ghl.counts = (s.slot d).ghl.counts := hfirst c src tag mk
  have hu : (u.slot d).ghl.counts = (s.slot d).ghl.counts :=
    (counts_modCoal t c d fun l => (l.filter fun r => !(r.src == src && r.tag == tag)) ++ [q]).trans ht
  split
  · rw [counts_flushCoal, hu]
  · exact hu

/-- A WRITE that Table 11.12 accepts adds to its window's count (R372). -/
theorem counts_writeIn {s : State} {b : List Byte} (port : Option Nat) (hpass : rowVerdict s b = .pass)
    (hin : windowOutcome (s.slot (pslot b)) b = 0) : ((writeIn port b s).slot (pslot b)).ghl.counts =
      KV.upd 0 (s.slot (pslot b)).ghl.counts (pnum b 7 1) (· + (b.length - 32)) := by
  have hsome : ∃ w, (s.slot (pslot b)).ghl.link.windows[pnum b 7 1]? = some w := by
    unfold windowOutcome at hin
    dsimp only at hin
    split at hin
    · exact absurd hin (by decide)
    · split at hin
      · exact absurd hin (by decide)
      next w hw => exact ⟨w, hw⟩
  obtain ⟨w, hw⟩ := hsome
  unfold writeIn
  dsimp only
  rw [hpass]
  dsimp only
  rw [if_neg (by rw [hin]; simp), hw]
  dsimp only
  rw [counts_coalesce, counts_waitDone, State.modCtxGhl, slot_modSlot, (memoryOnly_wrVa _ _ _ _).slot]

/-! ### A RECEIPT for the device -/

/-- A command in execution after a change that keeps its place. -/
theorem find?_map_same {l : List GhlAct} {a : GhlAct} (f : GhlAct → GhlAct) (hf : ∀ b, (f b).inst = b.inst ∧ (f b).k = b.k)
    (h : l.find? (fun b => b.inst == a.inst && b.k == a.k) = some a) :
    (l.map fun b => if b.same a then f b else b).find? (fun b => b.inst == a.inst && b.k == a.k) = some (f a) := by
  induction l with
  | nil => cases h
  | cons b l ih =>
    rw [List.map_cons, List.find?_cons]
    rw [List.find?_cons] at h
    cases hb : (b.inst == a.inst && b.k == a.k) with
    | true =>
      rw [hb] at h
      obtain rfl : b = a := Option.some.inj h
      have hsame : b.same b = true := hb
      rw [hsame, if_pos rfl, (hf b).1, (hf b).2, hb]
    | false =>
      rw [hb] at h
      have hsame : b.same a = false := hb
      rw [hsame, if_neg Bool.false_ne_true, hb]
      exact ih h

theorem act?_modAct {s : State} {c : Nat} {a : GhlAct} (f : GhlAct → GhlAct) (hf : ∀ b, (f b).inst = b.inst ∧ (f b).k = b.k)
    (h : s.act? c a.inst a.k = some a) : (s.modAct c a f).act? c a.inst a.k = some (f a) := by
  unfold State.act? State.modAct State.modCtxGhl
  rw [slot_modSlot]
  exact find?_map_same f hf h

/-- A RECEIPT of success that leaves packets uncovered (R373). -/
theorem receiptIn_of_success {s : State} {b : List Byte} {a : GhlAct} (hmark : s.stroke.mark.toNat ≤ pnum b 12 6)
    (hout : pnum b 7 1 = 0) (hred : pnum b 18 1 % 2 = 0)
    (hfind : (s.slot (pslot b)).ghl.acts.find? (fun a => a.tag == pnum b 8 2 && a.kind == 0) = some a)
    (hleft : a.cov + pnum b 10 2 < a.packets) : receiptIn b s = s.modAct (pslot b) a fun e =>
      { e with done := e.done + e.span e.cov (a.cov + pnum b 10 2), cov := a.cov + pnum b 10 2 } := by
  have hj : min a.packets (a.cov + pnum b 10 2) = a.cov + pnum b 10 2 := by omega
  unfold receiptIn
  dsimp only
  simp only [hred, Nat.zero_ne_one, beq_eq_false_iff_ne.2, ne_eq, not_false_eq_true, Bool.false_eq_true, if_false, Bool.not_false,
    Bool.true_or, Bool.and_true, hout, Nat.min_zero, hfind, hj]
  rw [if_neg (by omega)]
  simp only [if_true, Nat.not_le.2 hleft, if_false]

/-! ### A REDUCE for the device -/

theorem stale_staleDrop (n : Nat) (s : State) : (staleDrop n s).ghl.staleDrops = sat32 s.ghl.staleDrops n := rfl

theorem staleDrops_takeIn (p : Nat) (b : List Byte) (s : State) : (takeIn p b s).ghl.staleDrops = s.ghl.staleDrops :=
  (congrArg Ghl.staleDrops (restGhl_of_offPorts (offPorts_takeIn p b s)) :)

theorem staleDrops_freeSlots (p : Nat) (b : List Byte) (s : State) : (freeSlots p b s).ghl.staleDrops = s.ghl.staleDrops := rfl

/-- A REDUCE packet that comes before its command waits for it (R377). -/
theorem redIn_reduceIn {s : State} {b : List Byte} (port : Option Nat) (hpass : rowVerdict s b = .pass)
    (hepoch : BitVec.ofNat 32 (pnum b 20 4) = (s.slot (pslot b)).layoutEpoch)
    (hnone : ∀ a ∈ (s.slot (pslot b)).ghl.acts, ¬ (a.kind = 2 ∧ a.tree = pnum b 7 1 ∧ a.tag = pnum b 30 2)) :
    ((reduceIn port b s).slot (pslot b)).ghl.redIn = (s.slot (pslot b)).ghl.redIn ++
      [⟨pnum b 7 1, pnum b 30 2, pnum b 1 1 / 128, psrc b, pnum b 24 5, b.drop 32, port⟩] := by
  have hfind : (s.slot (pslot b)).ghl.acts.find?
      (fun a => a.kind == 2 && a.tree == pnum b 7 1 && a.tag == pnum b 30 2) = none := by
    rw [List.find?_eq_none]
    intro a ha h
    simp only [Bool.and_eq_true, beq_iff_eq] at h
    exact hnone a ha ⟨h.1.1, h.1.2, h.2⟩
  unfold reduceIn
  dsimp only
  rw [hpass, hfind]
  dsimp only
  rw [if_neg (not_not_intro hepoch), State.modCtxGhl, slot_modSlot]

/-- Settles O41: a packet for another device by its route, the others by the row of Table 11.12 or the receipt they meet. -/
theorem packetArrivals : Obligations.PacketArrivals := by
  unfold Obligations.PacketArrivals
  intro p b s hon hcar hlen
  have hoff := offPorts_takeIn p.val b s
  have hrow : ∀ t : State, offPorts t = offPorts s → rowVerdict t b = rowVerdict s b := fun t ht =>
    rowVerdict_congr (slots_of_offPorts ht) (stroke_of_offPorts ht) b
  have hfree : offPorts (freeSlots p b (takeIn p b s)) = offPorts s := (offPorts_freeSlots _ _ _).trans hoff
  refine ⟨fun o hroute hhops => ?_, fun hroute => ⟨fun htype hpass hin => ?_, fun htype hdrop => ?_,
    fun a htype hmark hout hred hfind hleft hact => ?_, fun htype hpass hepoch hnone => ?_, fun htype hdrop => ?_⟩⟩
  · have hq := queuesOf_came p.val b s o
    simp only [queuesOf, Prod.mk.injEq] at hq
    obtain ⟨hw, hr, hd⟩ := hq
    have hin : ∀ here, routedIn p (ptype b) b here s =
        (freeSlots p b (takeIn p b s)).modPort o (GPort.push (hopped b)) := fun here => by
      rw [routedIn_of_whole hcar hlen, hroute]
      exact passOn_of_port hroute hhops
    refine ⟨fun htype => ?_, fun htype => ?_, fun htype => ?_⟩ <;> rw [htype] at hin
    · refine ⟨_, powered_eq hon (hin _), ?_⟩
      rw [effectOf_port, port_modPort, writes_push (by rw [ptype_hopped, htype]), hw]
      rfl
    · refine ⟨_, powered_eq hon (hin _), ?_⟩
      rw [effectOf_port, port_modPort, receipts_push (by rw [ptype_hopped, htype]), hr]
      rfl
    · refine ⟨_, powered_eq hon (hin _), ?_⟩
      rw [effectOf_port, port_modPort, reduces_push (by rw [ptype_hopped, htype]), hd]
      rfl
  all_goals
    have hin : ∀ here, routedIn p (ptype b) b here s = here (takeIn p b s) := fun here => by
      rw [routedIn_of_whole hcar hlen, hroute]
    rw [htype] at hin
  · have hslot := slot_of_offPorts hfree (pslot b)
    have hcounts := counts_writeIn (s := freeSlots p b (takeIn p b s)) (some p.val) ((hrow _ hfree).trans hpass)
      (by rw [hslot]; assumption)
    refine ⟨_, powered_eq hon (hin _), ?_⟩
    rw [effectOf_slot, hcounts, KV.get_upd_self, hslot]
  · have hstep : writeIn (some p.val) b (freeSlots p b (takeIn p b s)) = staleDrop 1 (freeSlots p b (takeIn p b s)) := by
      unfold writeIn
      dsimp only
      rw [hrow _ hfree, hdrop]
    refine ⟨_, powered_eq hon ((hin _).trans hstep), ?_, ?_, ?_⟩
    · rw [effectOf_ghl, stale_staleDrop, staleDrops_freeSlots, staleDrops_takeIn]
    · rw [effectOf_stackMem, show ∀ t : State, (staleDrop 1 t).stackMem = t.stackMem from fun _ => rfl, stackMem_of_offPorts hfree]
    · rw [effectOf_hostMem, show ∀ t : State, (staleDrop 1 t).hostMem = t.hostMem from fun _ => rfl, hostMem_of_offPorts hfree]
  · have hslot := slot_of_offPorts hfree (pslot b)
    have hact' : (freeSlots p b (takeIn p b s)).act? (pslot b) a.inst a.k = some a := by
      unfold State.act?; rw [hslot]; exact hact
    have hstep := receiptIn_of_success (s := freeSlots p b (takeIn p b s)) (b := b)
      (by rw [stroke_of_offPorts hfree]; exact hmark) hout hred (by rw [hslot]; exact hfind) hleft
    refine ⟨_, _, powered_eq hon ((hin _).trans hstep), act?_modAct _ (fun _ => ⟨rfl, rfl⟩) hact', rfl, rfl⟩
  · have hslot := slot_of_offPorts hoff (pslot b)
    have hred := redIn_reduceIn (s := takeIn p b s) (some p.val) ((hrow _ hoff).trans hpass) (by rw [hslot]; exact hepoch)
      (by rw [hslot]; exact hnone)
    refine ⟨_, powered_eq hon (hin _), ?_⟩
    rw [effectOf_slot, hred, hslot]
  · have hstep : reduceIn (some p.val) b (takeIn p b s) = staleDrop 1 (freeSlots p b (takeIn p b s)) := by
      unfold reduceIn
      dsimp only
      rw [hrow _ hoff, hdrop]
    refine ⟨_, powered_eq hon ((hin _).trans hstep), ?_⟩
    rw [effectOf_ghl, stale_staleDrop, staleDrops_freeSlots, staleDrops_takeIn]

end Sys2Proof.Laws
end

section
/-!
SUPPORT. Commands of class 4 at the device that issues them: XFER (R370, R371), WAIT (R374) and REDUCE (R376).
-/

namespace Sys2Proof.Laws

open Machine

/-! ### Commands in execution -/

theorem slot_startAct (c : Nat) (a : GhlAct) (s : State) : (startAct c a s).slot c =
    { (s.slot c).advance 4 a.inst with ghl := { (s.slot c).ghl with acts := (s.slot c).ghl.acts ++ [a] } } := by
  unfold startAct State.modCtxGhl
  rw [slot_modSlot, slot_modSlot]
  rfl

theorem act?_append {l : List GhlAct} {d k : Nat} (h : l.find? (fun b => b.inst == d && b.k == k) = none) {a : GhlAct}
    (hd : a.inst = d) (hk : a.k = k) : (l ++ [a]).find? (fun b => b.inst == d && b.k == k) = some a := by
  rw [List.find?_append, h, Option.none_or, List.find?_singleton, hd, hk, beq_self_eq_true, beq_self_eq_true]
  rfl

theorem act?_startAct {s : State} {c d k : Nat} (h : s.act? c d k = none) {a : GhlAct} (hd : a.inst = d) (hk : a.k = k) :
    (startAct c a s).act? c d k = some a := by
  unfold State.act?
  rw [slot_startAct]
  exact act?_append h hd hk

theorem act?_of_slot {s t : State} {c : Nat} (h : t.slot c = s.slot c) (d k : Nat) : t.act? c d k = s.act? c d k := by
  unfold State.act?
  rw [h]

/-- The next command of a slot does not hang on its commands in execution. -/
theorem nextCmd_of_offGhl {x y : Ctx} (h : offGhl x = offGhl y) (cls d : Nat) : x.nextCmd cls d = y.nextCmd cls d :=
  show (offGhl x).nextCmd cls d = (offGhl y).nextCmd cls d from congrArg (fun z => Ctx.nextCmd z cls d) h

theorem offGhl_startAct (c : Nat) (a : GhlAct) (s : State) :
    offGhl ((startAct c a s).slot c) = offGhl ((s.slot c).advance 4 a.inst) := by
  rw [slot_startAct]
  rfl

/-! ### Packets of an XFER -/

/-- What the packets of a transfer and their route are made of. -/
def sendFrame (c : Nat) (s : State) :=
  ((s.slot c).stk.index, (s.slot c).layoutEpoch, s.stroke.mark, { s.ghl with ports := [] }, s.fuses, fun q => calm (s.port q))

section
variable {s t : State} {c : Nat} (h : sendFrame c t = sendFrame c s)
include h

theorem ghl_of_sendFrame : { t.ghl with ports := [] } = { s.ghl with ports := [] } := congrArg (fun x => x.2.2.2.1) h
theorem myId_of_sendFrame : t.myId = s.myId := (congrArg (fun g : Ghl => g.deviceId.toNat) (ghl_of_sendFrame h) :)
theorem calm_of_sendFrame (q : Nat) : calm (t.port q) = calm (s.port q) := congrFun (congrArg (fun x => x.2.2.2.2.2) h) q

theorem writePkt_of_sendFrame (a : GhlAct) (i : Nat) (data : List Byte) : writePkt t c a i data = writePkt s c a i data := by
  have hindex : (t.slot c).stk.index = (s.slot c).stk.index := congrArg (fun x => x.1) h
  have hepoch : (t.slot c).layoutEpoch = (s.slot c).layoutEpoch := congrArg (fun x => x.2.1) h
  have hmark : t.stroke.mark = s.stroke.mark := congrArg (fun x => x.2.2.1) h
  unfold writePkt
  dsimp only
  rw [hindex, hepoch, hmark, myId_of_sendFrame h]

theorem routeOf_of_sendFrame (b : List Byte) : routeOf t b = routeOf s b := by
  have hfuses : t.fuses = s.fuses := congrArg (fun x => x.2.2.2.2.1) h
  have hvalid : t.ghl.valid = s.ghl.valid := (congrArg Ghl.valid (ghl_of_sendFrame h) :)
  have hroutes : t.ghl.routes = s.ghl.routes := (congrArg Ghl.routes (ghl_of_sendFrame h) :)
  have hadm : t.ghl.admitted = s.ghl.admitted := (congrArg Ghl.admitted (ghl_of_sendFrame h) :)
  have hcode : ∀ q, (t.port q).code t.ghl.admitted = (s.port q).code s.ghl.admitted := fun q => by
    rw [hadm]
    exact (congrArg (fun g => GPort.code s.ghl.admitted g) (calm_of_sendFrame h q) :)
  have hfit : ∀ q, t.portFitted q = s.portFitted q := fun q => by
    unfold State.portFitted State.ioFitted
    rw [hfuses]
  unfold routeOf
  simp only [myId_of_sendFrame h, hvalid, hroutes, hcode, hfit]

end

theorem sendFrame_modAct (s : State) (c : Nat) (a : GhlAct) (f : GhlAct → GhlAct) : sendFrame c (s.modAct c a f) = sendFrame c s := by
  unfold sendFrame State.modAct State.modCtxGhl
  rw [slot_modSlot]
  rfl

theorem sendFrame_push (s : State) (c p : Nat) (b : List Byte) : sendFrame c (s.modPort p (GPort.push b)) = sendFrame c s := by
  have hports : (fun q => calm ((s.modPort p (GPort.push b)).port q)) = fun q => calm (s.port q) := funext fun q => by
    by_cases hq : q = p
    · subst hq; rw [port_modPort, calm_push]
    · rw [port_modPort_other _ _ hq]
  unfold sendFrame
  rw [hports]
  rfl

theorem act?_modPort (s : State) (p : Nat) (f : GPort → GPort) (c d k : Nat) : (s.modPort p f).act? c d k = s.act? c d k := rfl

theorem isSome_act?_modAct {s : State} {c : Nat} {a : GhlAct} {f : GhlAct → GhlAct}
    (hf : ∀ b, (f b).inst = b.inst ∧ (f b).k = b.k) (h : (s.act? c a.inst a.k).isSome = true) :
    ((s.modAct c a f).act? c a.inst a.k).isSome = true := by
  obtain ⟨e, he⟩ := Option.isSome_iff_exists.1 h
  have hkey : e.inst = a.inst ∧ e.k = a.k := by
    have := List.find?_some he
    simpa using this
  have hmod : s.modAct c a f = s.modAct c e f := by
    unfold State.modAct GhlAct.same
    rw [hkey.1, hkey.2]
  rw [hmod, ← hkey.1, ← hkey.2, act?_modAct f hf (by rw [hkey.1, hkey.2]; exact he)]
  rfl

theorem ptype_writePkt (s : State) (c : Nat) (a : GhlAct) (i : Nat) (data : List Byte) : ptype (writePkt s c a i data) = Pkt.write :=
  rfl

theorem pdst_routedHead (type hops flags dst src slot : Nat) (l : List Byte) :
    pdst (routedHead type hops flags dst src slot ++ l) = dst % 2048 := by
  have hbytes : pnum (routedHead type hops flags dst src slot ++ l) 2 2 = leNat (leBytes 2 dst) := rfl
  unfold pdst
  rw [hbytes]
  simp only [leBytes, leNat, BitVec.toNat_ofNat]
  omega

theorem ptype_routedHead {type : Nat} (h : type < 256) (hops flags dst src slot : Nat) (l : List Byte) :
    ptype (routedHead type hops flags dst src slot ++ l) = type := by
  have hbytes : pnum (routedHead type hops flags dst src slot ++ l) 0 1 = leNat (leBytes 1 type) := rfl
  unfold ptype
  rw [hbytes]
  simp only [leBytes, leNat, BitVec.toNat_ofNat]
  omega

/-- A packet of a type that ACTIVE carries goes to the port of its destination (R358). -/
theorem routeOf_active {s : State} {b : List Byte} {r : Route} (hdst : pdst b ≠ s.myId) (hr : r = KV.get Route.none s.ghl.routes (pdst b))
    (hvalid : r.valid = true) (hhere : r.here = false) (hcode : (s.port r.port.toNat).code s.ghl.admitted = 6)
    (hfit : s.portFitted r.port.toNat = true) : routeOf s b = .port r.port.toNat := by
  subst hr
  have hcar : carriesType 6 (ptype b) = true := by
    unfold carriesType
    split <;> rfl
  unfold routeOf
  dsimp only
  rw [if_neg (fun h => hdst h.1), if_neg (by rw [hvalid]; decide), hhere, hcode, hcar, hfit]
  rfl

theorem peerId?_lt {x : Ctx} {l id : Nat} (h : peerId? x l = some id) : id < 2048 := by
  unfold peerId? at h
  dsimp only at h
  split at h
  · obtain rfl := Option.some.inj h
    exact Nat.mod_lt _ (by decide)
  · cases h

/-- A packet of a transfer that is in execution goes to the port of its route. -/
theorem sendWrite_of_port {s : State} {c p : Nat} {a : GhlAct} {i : Nat} {data : List Byte}
    (hact : (s.act? c a.inst a.k).isSome = true) (hroute : routeOf s (writePkt s c a i data) = .port p) :
    sendWrite c a i data s = (s.modAct c a fun a => { a with sent := i + 1 }).modPort p (GPort.push (writePkt s c a i data)) := by
  unfold sendWrite sendOwn forward
  rw [if_pos hact, routeOf_of_sendFrame (sendFrame_modAct s c a _), hroute]

/-- The packets of a transfer, in their order. -/
theorem forEach_sendWrite {c p : Nat} {a : GhlAct} (data : Nat → List Byte) (xs : List Nat) (s : State)
    (hact : (s.act? c a.inst a.k).isSome = true) (hroute : ∀ i b, routeOf s (writePkt s c a i b) = .port p) :
    let u := forEach xs (fun i => sendWrite c a i (data i)) s
    (u.act? c a.inst a.k).isSome = true ∧ offGhl (u.slot c) = offGhl (s.slot c) ∧
      (u.port p).writes.map (·.bytes) = (s.port p).writes.map (·.bytes) ++ xs.map fun i => writePkt s c a i (data i) := by
  induction xs generalizing s with
  | nil => exact ⟨hact, rfl, by rw [List.map_nil, List.append_nil, forEach_nil]⟩
  | cons i xs ih =>
    have hstep := sendWrite_of_port hact (hroute i (data i))
    generalize htt : sendWrite c a i (data i) s = t at hstep
    have hframe : sendFrame c t = sendFrame c s := by rw [hstep, sendFrame_push, sendFrame_modAct]
    have hactt : (t.act? c a.inst a.k).isSome = true := by
      rw [hstep, act?_modPort]
      exact isSome_act?_modAct (fun _ => ⟨rfl, rfl⟩) hact
    obtain ⟨h1, h2, h3⟩ := ih t hactt fun j b => by
      rw [routeOf_of_sendFrame hframe, writePkt_of_sendFrame hframe, hroute]
    refine ⟨?_, ?_, ?_⟩ <;> rw [forEach_cons, htt]
    · exact h1
    · rw [h2, hstep]
      exact offGhl_slot_modCtxGhl s c c fun g => { g with acts := g.acts.map fun b => if b.same a then { b with sent := i + 1 } else b }
    · rw [h3, List.map_cons, hstep, port_modPort, writes_push (ptype_writePkt _ _ _ _ _)]
      simp only [← hstep, writePkt_of_sendFrame hframe, List.append_assoc, List.singleton_append]
      rfl

/-! ### XFER (R370, R371) -/

/-- A transfer of memory at its start, before its peer's device is looked up (R370). -/
def memAct (d k n : Nat) : GhlAct :=
  { freshAct d k 0 with
    seq := BitVec.ofNat 32 (bitsOf n 255 224), bytes := bitsOf n 223 192, window := bitsOf n 34 27, off := bitsOf n 175 128 }

theorem ghlRead_of_sound {s : State} {x : Ctx} {va n : Nat} (h : poisonedGran s x va n = []) :
    ghlRead s x va n = (s.rdVa x va n, readBlocks x va n s) := by
  unfold ghlRead
  rw [h]

theorem rdVa_of_mem {s t : State} (hstack : t.stackMem = s.stackMem) (hhost : t.hostMem = s.hostMem) (x : Ctx) (va n : Nat) :
    t.rdVa x va n = s.rdVa x va n :=
  List.map_congr_left fun i _ => rdVaByte_mem_congr hstack hhost x (va + i)

theorem vaPoison_of_mem {s t : State} (hmem : t.mem = s.mem) (x : Ctx) (va : Nat) : vaPoison t x va = vaPoison s x va := by
  unfold vaPoison granPoison isMarked
  rw [hmem]

theorem poisonedGran_of_mem {s t : State} (hmem : t.mem = s.mem) (x : Ctx) (va n : Nat) :
    poisonedGran t x va n = poisonedGran s x va n := by
  unfold poisonedGran
  simp only [hmem, vaPoison_of_mem hmem]

/-- A transfer of memory whose peer is known sends its packets, or ends with the address that does not resolve (R370, R371). -/
def xferPackets (c : Nat) (x : Ctx) (va : Nat) (a : GhlAct) (s : State) : State :=
  match firstBad x va a.bytes false with
  | some e => addrFault c a false e s
  | none =>
    let (data, s) := ghlRead s x va a.bytes
    forEach (List.range a.packets) (fun i s => sendWrite c a i ((data.drop (512 * i)).take 512) s) s

theorem xfer_of_known {d c k id : Nat} {s : State} {q : Cmd} (hact : s.act? c d k = none)
    (hnext : ghlNext s d c k 0 = some q) (hbad : xferBad (s.slot c) (wordsNat q.body) = false)
    (hkind : bitsOf (wordsNat q.body) 1 0 = 0) (hpeer : peerId? (s.slot c) (bitsOf (wordsNat q.body) 26 16) = some id) :
    xfer d c k s = xferPackets c (s.slot c) (bitsOf (wordsNat q.body) 111 64) { memAct d k (wordsNat q.body) with dest := id }
      ((startAct c (memAct d k (wordsNat q.body)) s).modAct c (memAct d k (wordsNat q.body)) fun b => { b with dest := id }) := by
  unfold xfer
  rw [hact, hnext]
  dsimp only
  rw [if_neg (by rw [hbad]; decide), hpeer]
  simp only [hkind, Nat.zero_ne_one, if_false]
  rfl

theorem xferPackets_of_sound {c : Nat} {x : Ctx} {va : Nat} {a : GhlAct} {s : State} (hfirst : firstBad x va a.bytes false = none)
    (hsound : poisonedGran s x va a.bytes = []) : xferPackets c x va a s =
      forEach (List.range a.packets) (fun i => sendWrite c a i (((s.rdVa x va a.bytes).drop (512 * i)).take 512))
        (readBlocks x va a.bytes s) := by
  unfold xferPackets
  rw [hfirst, ghlRead_of_sound hsound]

theorem sendFrame_startAct (c : Nat) (a : GhlAct) (s : State) : sendFrame c (startAct c a s) = sendFrame c s := by
  unfold sendFrame
  rw [slot_startAct]
  rfl

theorem sendFrame_of_offRecords {s t : State} (h : offRecords t = offRecords s) (c : Nat) : sendFrame c t = sendFrame c s := by
  have hports : (fun q => calm (t.port q)) = fun q => calm (s.port q) := funext fun q => by rw [port_of_offRecords h]
  have hfuses : t.fuses = s.fuses := (congrArg State.fuses h :)
  unfold sendFrame
  rw [slot_of_offRecords h, stroke_of_offRecords h, ghl_of_offRecords h, hports, hfuses]

/-- A transfer of memory queues its packets at the port of its peer's route (R358, R371). -/
theorem xfer_queues {d c k id : Nat} {s : State} {q : Cmd} {r : Route} {a : GhlAct} (hact : s.act? c d k = none)
    (hnext : ghlNext s d c k 0 = some q) (hbad : xferBad (s.slot c) (wordsNat q.body) = false)
    (hkind : bitsOf (wordsNat q.body) 1 0 = 0) (hpeer : peerId? (s.slot c) (bitsOf (wordsNat q.body) 26 16) = some id)
    (hid : id ≠ s.myId)
    (hfirst : firstBad (s.slot c) (bitsOf (wordsNat q.body) 111 64) (bitsOf (wordsNat q.body) 223 192) false = none)
    (hsound : poisonedGran s (s.slot c) (bitsOf (wordsNat q.body) 111 64) (bitsOf (wordsNat q.body) 223 192) = [])
    (hr : r = KV.get Route.none s.ghl.routes id) (hvalid : r.valid = true) (hhere : r.here = false)
    (hcode : (s.port r.port.toNat).code s.ghl.admitted = 6) (hfit : s.portFitted r.port.toNat = true)
    (ha : a = { memAct d k (wordsNat q.body) with dest := id }) :
    ((xfer d c k s).act? c d k).isSome = true ∧
      ((xfer d c k s).slot c).nextCmd 4 d = ((s.slot c).advance 4 d).nextCmd 4 d ∧
      ((xfer d c k s).port r.port.toNat).writes.map (·.bytes) = (s.port r.port.toNat).writes.map (·.bytes) ++
        (List.range a.packets).map fun i => writePkt s c a i
          (((s.rdVa (s.slot c) (bitsOf (wordsNat q.body) 111 64) a.bytes).drop (512 * i)).take 512) := by
  rw [xfer_of_known hact hnext hbad hkind hpeer, ← ha]
  have hinst : a.inst = d := by rw [ha]; rfl
  have hk : a.k = k := by rw [ha]; rfl
  have hbytes : a.bytes = bitsOf (wordsNat q.body) 223 192 := by rw [ha]; rfl
  have hdest : a.dest = id := by rw [ha]
  generalize hm : memAct d k (wordsNat q.body) = m
  have hminst : m.inst = d := by rw [← hm]; rfl
  have hmk : m.k = k := by rw [← hm]; rfl
  generalize ht : (startAct c m s).modAct c m (fun b => { b with dest := id }) = t
  have hmem : t.mem = s.mem := by simp only [← ht, startAct, State.modAct, State.modCtxGhl, modSlot_mem]
  have hstack : t.stackMem = s.stackMem := by simp only [← ht, startAct, State.modAct, State.modCtxGhl, modSlot_stackMem]
  have hhost : t.hostMem = s.hostMem := by simp only [← ht, startAct, State.modAct, State.modCtxGhl, modSlot_hostMem]
  have hread := rdVa_of_mem hstack hhost (s.slot c) (bitsOf (wordsNat q.body) 111 64) a.bytes
  have hframe : sendFrame c t = sendFrame c s := by rw [← ht, sendFrame_modAct, sendFrame_startAct]
  have hslot : offGhl (t.slot c) = offGhl ((s.slot c).advance 4 d) := by
    rw [← ht, ← hminst]
    exact (offGhl_slot_modCtxGhl _ _ _ _).trans (offGhl_startAct c m s)
  have hports : t.port r.port.toNat = s.port r.port.toNat := by
    simp only [← ht, startAct, State.modAct, State.modCtxGhl, port_modSlot]
  have hactt : (t.act? c a.inst a.k).isSome = true := by
    have hstart := act?_startAct hact hminst hmk
    rw [hinst, hk, ← ht, ← hminst, ← hmk]
    refine isSome_act?_modAct (fun _ => ⟨rfl, rfl⟩) ?_
    rw [hminst, hmk, hstart]
    rfl
  rw [xferPackets_of_sound (by rw [hbytes, hfirst]) (by rw [hbytes, poisonedGran_of_mem hmem, hsound]), hread]
  have hrec := offRecords_readBlocks (s.slot c) (bitsOf (wordsNat q.body) 111 64) a.bytes t
  generalize readBlocks (s.slot c) (bitsOf (wordsNat q.body) 111 64) a.bytes t = u at hrec ⊢
  have hu := (sendFrame_of_offRecords hrec c).trans hframe
  have hroute : ∀ i b, routeOf u (writePkt u c a i b) = .port r.port.toNat := fun i b => by
    have hdst : pdst (writePkt s c a i b) = id := by
      unfold writePkt
      dsimp only
      rw [List.append_assoc, pdst_routedHead, hdest, Nat.mod_eq_of_lt (peerId?_lt hpeer)]
    rw [routeOf_of_sendFrame hu, writePkt_of_sendFrame hu]
    exact routeOf_active (by rw [hdst]; exact hid) (by rw [hdst]; exact hr) hvalid hhere hcode hfit
  have hactu : (u.act? c a.inst a.k).isSome = true := by rw [act?_of_slot (slot_of_offRecords hrec c), hactt]
  obtain ⟨h1, h2, h3⟩ := forEach_sendWrite
    (fun i => ((s.rdVa (s.slot c) (bitsOf (wordsNat q.body) 111 64) a.bytes).drop (512 * i)).take 512) (List.range a.packets) u hactu hroute
  refine ⟨?_, ?_, ?_⟩
  · rw [← hinst, ← hk]
    exact h1
  · exact nextCmd_of_offGhl (h2.trans (by rw [slot_of_offRecords hrec, hslot])) 4 d
  · refine h3.trans ?_
    rw [port_of_offRecords hrec, hports]
    simp only [writePkt_of_sendFrame hu]

/-! ### The end of a command -/

/-- The commands of class 4 in execution in slot `c` of `t` are among those of `s`. -/
def FewerActs (c : Nat) (s t : State) : Prop := ∀ b ∈ (t.slot c).ghl.acts, b ∈ (s.slot c).ghl.acts

theorem FewerActs.of_ghl {c : Nat} {s t : State} (h : (t.slot c).ghl = (s.slot c).ghl) : FewerActs c s t := fun b hb => by
  rwa [h] at hb

theorem FewerActs.trans {c : Nat} {s t u : State} (h : FewerActs c s t) (h' : FewerActs c t u) : FewerActs c s u :=
  fun b hb => h b (h' b hb)

theorem FewerActs.act?_none {c d k : Nat} {s t : State} (h : FewerActs c s t) (hnone : s.act? c d k = none) :
    t.act? c d k = none :=
  List.find?_eq_none.2 fun b hb => List.find?_eq_none.1 hnone b (h b hb)

/-- A command that ends is taken out of those in execution (R375). -/
theorem acts_endAct (c : Nat) (a : GhlAct) (status : Nat) (ab : Bool) (s : State) :
    ((endAct c a status ab s).slot c).ghl.acts =
      (s.slot c).ghl.acts.filter fun b => !b.same ((s.act? c a.inst a.k).getD a) := by
  unfold endAct
  extract_lets e t u v
  have hu : (u.slot c).ghl.acts = (s.slot c).ghl.acts.filter fun b => !b.same e := by
    rw [show u = t.modCtxGhl c (fun g => { g with acts := g.acts.filter fun b => !b.same e }) from rfl, State.modCtxGhl, slot_modSlot,
      complete_slot]
  split <;> exact hu

theorem key_act? {s : State} {c d k : Nat} {a : GhlAct} (h : s.act? c d k = some a) : a.inst = d ∧ a.k = k := by
  have hkey := List.find?_some h
  simpa using hkey

theorem fewerActs_endAct (c d : Nat) (a : GhlAct) (status : Nat) (ab : Bool) (s : State) :
    FewerActs d s (endAct c a status ab s) := by
  by_cases h : d = c
  · subst h
    intro b hb
    rw [acts_endAct] at hb
    exact List.mem_of_mem_filter hb
  · exact .of_ghl (by rw [otherSlots_endAct c a status ab s d h])

theorem act?_endAct (c : Nat) (a : GhlAct) (status : Nat) (ab : Bool) (s : State) :
    (endAct c a status ab s).act? c a.inst a.k = none := by
  have hkey : ((s.act? c a.inst a.k).getD a).inst = a.inst ∧ ((s.act? c a.inst a.k).getD a).k = a.k := by
    cases h : s.act? c a.inst a.k with
    | none => exact ⟨rfl, rfl⟩
    | some e => exact key_act? h
  refine List.find?_eq_none.2 fun b hb hsame => ?_
  rw [acts_endAct] at hb
  have hother := List.of_mem_filter hb
  unfold GhlAct.same at hother
  rw [hkey.1, hkey.2, hsame] at hother
  cases hother

theorem fewerActs_forEach {α : Type} {c : Nat} {f : α → State → State} (hf : ∀ x s, FewerActs c s (f x s)) (xs : List α)
    (s : State) : FewerActs c s (forEach xs f s) := by
  induction xs generalizing s with
  | nil => exact fun _ hb => hb
  | cons x xs ih => exact (hf x s).trans (ih (f x s))

theorem fewerActs_abortAll (status c d : Nat) (s : State) : FewerActs d s (abortAll status c s) := by
  unfold abortAll abortGhl
  refine FewerActs.trans (.of_ghl ?_) (fewerActs_forEach (fun a t => fewerActs_endAct c d a status true t) _ _)
  rw [ghl_abortPress, slot_abortStreams, slot_abortSeams, slot_abortMangle, ghl_abortTiles]

theorem fewerActs_raiseCause (c d code : Nat) (arg : W32) (ext : BitVec 48) (s : State) :
    FewerActs d s (raiseCause s c code arg ext) := by
  cases hon : (s.slot c).att.on with
  | false => rw [raiseCause_of_over code arg ext hon]; exact fun _ hb => hb
  | true =>
    have henter : FewerActs d s (enterCause s c code arg ext) := .of_ghl (ghl_enterCause _ _ _ _ _ _)
    rw [raiseCause_of_on code arg ext hon]
    split
    · exact (henter.trans (fewerActs_abortAll _ _ _ _)).trans (.of_ghl (ghl_discardRest _ _ _))
    · exact henter

/-- A command that a fault ends is no longer in execution. -/
theorem act?_actFault (c : Nat) (a : GhlAct) (code : Nat) (s : State) : (actFault c a code s).act? c a.inst a.k = none := by
  unfold actFault
  dsimp only
  split <;> exact (fewerActs_raiseCause _ _ _ _ _ _).act?_none (act?_endAct c a code true s)

/-! ### WAIT (R374) -/

/-- A WAIT at its start. -/
def waitAct (d k n : Nat) : GhlAct :=
  { freshAct d k 1 with
    seq := BitVec.ofNat 32 (bitsOf n 63 32), window := bitsOf n 7 0, slack := bitsOf n 31 8, expect := bitsOf n 111 64 }

theorem counts_startAct (c : Nat) (a : GhlAct) (s : State) : ((startAct c a s).slot c).ghl.counts = (s.slot c).ghl.counts := by
  rw [slot_startAct]

theorem wait_of_next {d c k : Nat} {s : State} {q : Cmd} (hact : s.act? c d k = none) (hnext : ghlNext s d c k 1 = some q)
    (hzero : bitsOf (wordsNat q.body) 127 112 = 0)
    (hwin : bitsOf (wordsNat q.body) 7 0 < (s.slot c).ghl.link.windows.length) :
    wait d c k s = waitRun c (waitAct d k (wordsNat q.body)) (startAct c (waitAct d k (wordsNat q.body)) s) := by
  have hok : ¬ (bitsOf (wordsNat q.body) 127 112 ≠ 0 ∨
      ((startAct c (waitAct d k (wordsNat q.body)) s).slot c).ghl.link.windows.length ≤ (waitAct d k (wordsNat q.body)).window) := by
    rw [slot_startAct, hzero]
    rintro (h | h)
    · exact h rfl
    · exact absurd hwin (Nat.not_lt.2 h)
  unfold wait
  rw [hact, hnext]
  exact if_neg hok

/-- A WAIT whose window has its bytes completes at once. -/
theorem wait_of_counted {d c k : Nat} {s : State} (n : Nat)
    (h : bitsOf n 111 64 ≤ KV.get 0 (s.slot c).ghl.counts (bitsOf n 7 0)) :
    let u := waitRun c (waitAct d k n) (startAct c (waitAct d k n) s)
    u.act? c d k = none ∧ (u.slot c).nextCmd 4 d = ((s.slot c).advance 4 d).nextCmd 4 d := by
  have hend : waitRun c (waitAct d k n) (startAct c (waitAct d k n) s) =
      endAct c (waitAct d k n) 0 false (startAct c (waitAct d k n) s) := by
    unfold waitRun
    rw [counts_startAct]
    exact if_pos h
  rw [hend]
  exact ⟨act?_endAct c (waitAct d k n) 0 false _,
    nextCmd_of_offGhl ((offGhl_slot_endAct _ _ _ _ _ _).trans (offGhl_startAct c (waitAct d k n) s)) 4 d⟩

theorem waitRun_of_short {d c k : Nat} {s : State} (n : Nat)
    (h : KV.get 0 (s.slot c).ghl.counts (bitsOf n 7 0) < bitsOf n 111 64) :
    waitRun c (waitAct d k n) (startAct c (waitAct d k n) s) = startAct c (waitAct d k n) s := by
  unfold waitRun
  rw [counts_startAct]
  exact if_neg (Nat.not_le.2 h)

/-- Slot `c` has the commands `l` of class 4 in execution and has stalled. -/
def Stalled (c : Nat) (l : List GhlAct) (s : State) : Prop :=
  (s.slot c).ghl.acts = l ∧ (s.slot c).stk.stallCycles.toNat ≠ 0

theorem Stalled.of_slot {c : Nat} {l : List GhlAct} {s t : State} (h : Stalled c l s) (hslot : t.slot c = s.slot c) : Stalled c l t := by
  unfold Stalled
  rwa [hslot]

theorem sat32_ne_zero {v : W32} {n : Nat} (h : v.toNat + n ≠ 0) : (sat32 v n).toNat ≠ 0 := by
  unfold sat32
  split
  · decide
  · rw [BitVec.toNat_ofNat, Nat.mod_eq_of_lt (by omega)]
    exact h

theorem Stalled.addStall {c : Nat} {l : List GhlAct} {s : State} (h : Stalled c l s) (d n : Nat) : Stalled c l (addStall d n s) := by
  by_cases hd : c = d
  · subst hd
    unfold Stalled Machine.addStall
    rw [slot_modSlot]
    exact ⟨h.1, sat32_ne_zero fun h0 => h.2 (Nat.eq_zero_of_add_eq_zero_right h0)⟩
  · exact h.of_slot (slot_modSlot_other _ _ hd)

theorem Stalled.mangleTick {c : Nat} {l : List GhlAct} {s : State} (h : Stalled c l s) : Stalled c l (mangleTick s) := by
  unfold Machine.mangleTick
  extract_lets m t u
  have ht : Stalled c l t := h.of_slot (forEach_view (f := fun (w : Nat × Nat) v => addWait w.2 1 w.1 v) (fun v : State => v.slot c) (fun _ _ => rfl) _ s)
  have hu : Stalled c l u := by
    unfold u
    split
    · exact ht.addStall _ _
    · exact ht
  split
  · exact hu.of_slot rfl
  · refine hu.of_slot ?_
    unfold freeTick mglIdle
    dsimp only
    split
    · rfl
    · unfold fallGuard
      dsimp only
      split <;> rfl

theorem Stalled.clearTick {c : Nat} {l : List GhlAct} {s : State} (h : Stalled c l s) : Stalled c l (clearTick s) := by
  refine h.of_slot ?_
  cases hc : s.tub.clears with
  | nil => unfold Machine.clearTick; rw [hc]
  | cons e es =>
    unfold Machine.clearTick
    rw [hc]
    dsimp only
    split
    · rfl
    · split <;> rfl

theorem nonconf_congr {s t : State} {c : Nat} (h : (t.slot c).img = (s.slot c).img) : nonconf t c = nonconf s c := by
  unfold nonconf
  rw [h]

theorem otherSlots_actFault (c : Nat) (a : GhlAct) (code : Nat) (s : State) : OtherSlots c s (actFault c a code s) := by
  unfold actFault
  dsimp only
  split <;> exact (otherSlots_endAct _ _ _ _ _).trans (otherSlots_raiseCause _ _ _ _ _)

/-- The state that a WAIT leaves after `n` more cycles, before they are compared. -/
def waitedOn (c n : Nat) (a : GhlAct) (s : State) : State := addStall c n (s.modAct c a fun b => { b with waited := b.waited + n })

theorem slot_waitedOn (c n : Nat) (a : GhlAct) (s : State) : (waitedOn c n a s).slot c = { s.slot c with
    ghl := { (s.slot c).ghl with acts := (s.slot c).ghl.acts.map fun b => if b.same a then { b with waited := b.waited + n } else b }
    stk := { (s.slot c).stk with stallCycles := sat32 (s.slot c).stk.stallCycles n } } := by
  unfold waitedOn addStall State.modAct State.modCtxGhl
  rw [slot_modSlot, slot_modSlot]

theorem waitCycles_eq (c n : Nat) (a : GhlAct) (s : State) : waitCycles c n a s =
    if nonconf s c then actFault c a Code.nonconformance (waitedOn c n a s)
    else if a.slack + 1 ≤ a.waited + n then actFault c a Code.ghlWaitLate (waitedOn c n a s)
    else waitedOn c n a s := by
  rw [← nonconf_congr (show ((waitedOn c n a s).slot c).img = (s.slot c).img by rw [slot_waitedOn])]
  rfl

theorem otherSlots_waitedOn (c n : Nat) (a : GhlAct) (s : State) : OtherSlots c s (waitedOn c n a s) :=
  (otherSlots_modSlot _ _ _).trans (otherSlots_modSlot _ _ _)

theorem otherSlots_waitCycles (c n : Nat) (a : GhlAct) (s : State) : OtherSlots c s (waitCycles c n a s) := by
  have hw := otherSlots_waitedOn c n a s
  rw [waitCycles_eq]
  split
  · exact hw.trans (otherSlots_actFault _ _ _ _)
  · split
    · exact hw.trans (otherSlots_actFault _ _ _ _)
    · exact hw

/-- A cycle of the one WAIT of a slot, within its slack. -/
theorem stalled_waitTick {c : Nat} {a : GhlAct} {s : State} (hc : c < 8) (hkind : a.kind = 1) (hacts : (s.slot c).ghl.acts = [a])
    (hconf : nonconf s c = false) (hslack : a.waited < a.slack) :
    Stalled c [{ a with waited := a.waited + 1 }] (waitTick s) := by
  obtain ⟨t, ht, hslot⟩ := forEach_once (P := fun u : State => u.slot c) (m := c) (xs := slots8)
    (f := fun c s => forEach ((s.slot c).ghl.acts.filter fun a => a.kind == 1) (fun a s =>
      if (s.act? c a.inst a.k).isSome then waitCycles c 1 a s else s) s)
    (fun d u hd => otherSlots_forEach (c := d) (fun b v => by
      split
      · exact otherSlots_waitCycles _ _ _ _
      · exact .refl _ _) _ u c (Ne.symm hd)) nodup_slots8 (mem_slots8.2 hc) s
  have hactst : (t.slot c).ghl.acts = [a] := by rw [ht, hacts]
  have hact : t.act? c a.inst a.k = some a := by
    unfold State.act?
    rw [hactst]
    simp
  have hfilter : ([a].filter fun a => a.kind == 1) = [a] := by simp [hkind]
  have hcycle : waitCycles c 1 a t = waitedOn c 1 a t := by
    rw [waitCycles_eq, nonconf_congr (congrArg Ctx.img ht), hconf, if_neg Bool.false_ne_true, if_neg (by omega)]
  rw [hactst, hfilter, forEach_cons, forEach_nil, hact, Option.isSome_some, if_pos rfl, hcycle, slot_waitedOn, hactst] at hslot
  unfold Stalled waitTick
  rw [hslot]
  refine ⟨?_, sat32_ne_zero (by omega)⟩
  simp [GhlAct.same]

/-- A WAIT within its slack counts a cycle, and the slot stalls. -/
theorem stalled_tick {c : Nat} {a : GhlAct} {s : State} (hon : s.power.on = true) (hloss : s.tub.losses = []) (hc : c < 8)
    (hkind : a.kind = 1) (hacts : (s.slot c).ghl.acts = [a]) (hconf : nonconf s c = false) (hslack : a.waited < a.slack) :
    Stalled c [{ a with waited := a.waited + 1 }] (tick s) := by
  unfold tick
  rw [lossTick_of_none hloss, ite_self]
  dsimp only
  rw [if_pos hon]
  exact ((stalled_waitTick (s := { s with now := s.now + 1 }) hc hkind hacts hconf hslack).mangleTick).clearTick

theorem act?_waitExpire {d c k : Nat} {s : State} {a : GhlAct} (hact : s.act? c d k = some a) (hkind : a.kind = 1)
    (hshort : KV.get 0 (s.slot c).ghl.counts a.window < a.expect) : (waitExpire d c k s).act? c d k = none := by
  obtain ⟨rfl, rfl⟩ := key_act? hact
  unfold waitExpire
  rw [hact]
  dsimp only
  rw [if_pos ⟨hkind, hshort⟩, waitCycles_eq]
  split
  · exact act?_actFault _ _ _ _
  · rw [if_pos (by omega)]
    exact act?_actFault _ _ _ _

/-! ### REDUCE (R376) -/

/-- A reduction at its start. -/
def redAct (d k n : Nat) (x : Ctx) : GhlAct :=
  { freshAct d k 2 with
    tag := KV.get 0 x.ghl.tags (bitsOf n 5 0), seq := BitVec.ofNat 32 (bitsOf n 63 32), bytes := bitsOf n 231 192
    tree := bitsOf n 5 0, op := bitsOf n 9 6, dstKind := bitsOf n 13 12, dst := bitsOf n 175 128 }

/-- A reduction that has read its own contribution. -/
def withOwn (a : GhlAct) (own : List Byte) : GhlAct := { a with own := own, acc := own.take a.segBytes }

/-- A reduction of memory reads its own contribution and goes on. -/
def redOwn (c : Nat) (x : Ctx) (va : Nat) (a : GhlAct) (s : State) : State :=
  let (own, s) := ghlRead s x va a.bytes
  reduceGo c (withOwn a own) (s.modAct c a fun b => { b with own := own, acc := own.take a.segBytes })

/-- The state in which a reduction reads its own contribution. -/
def redStarted (c : Nat) (a : GhlAct) (s : State) : State :=
  (startAct c a s).modCtxGhl c fun g => { g with tags := KV.upd 0 g.tags a.tree (· + 1) }

theorem reduce_of_memory {d c k : Nat} {s : State} {q : Cmd} (hact : s.act? c d k = none) (hnext : ghlNext s d c k 2 = some q)
    (hbad : reduceBad (s.slot c) (wordsNat q.body) = false)
    (hepoch : (s.slot c).ghl.badEpoch.elem (bitsOf (wordsNat q.body) 5 0,
      KV.get 0 (s.slot c).ghl.tags (bitsOf (wordsNat q.body) 5 0)) = false)
    (hsrc : bitsOf (wordsNat q.body) 11 10 = 0) (hdst : bitsOf (wordsNat q.body) 13 12 = 0)
    (hfrom : firstBad (s.slot c) (bitsOf (wordsNat q.body) 111 64) (bitsOf (wordsNat q.body) 231 192) false = none)
    (hto : firstBad (s.slot c) (bitsOf (wordsNat q.body) 175 128) (bitsOf (wordsNat q.body) 231 192) true = none) :
    reduce d c k s = redOwn c (s.slot c) (bitsOf (wordsNat q.body) 111 64) (redAct d k (wordsNat q.body) (s.slot c))
      (redStarted c (redAct d k (wordsNat q.body) (s.slot c)) s) := by
  unfold reduce
  rw [hact, hnext]
  dsimp only
  rw [if_neg (by rw [hbad]; decide), if_neg (by rw [hepoch]; decide)]
  simp only [hsrc, hdst, if_true, hfrom, hto]
  unfold redOwn redAct
  rw [hdst]
  rfl

theorem act?_of_ghl {s t : State} {c : Nat} (h : (t.slot c).ghl = (s.slot c).ghl) (d k : Nat) : t.act? c d k = s.act? c d k := by
  unfold State.act?
  rw [h]

/-- A reduction after the result of a segment. -/
def nextSeg (a : GhlAct) (res : List Byte) : GhlAct :=
  { a with done := a.done + res.length, seg := a.seg + 1, child := 0, acc := a.ownSeg (a.seg + 1), up := false }

theorem act?_deliver {s : State} {c : Nat} {a : GhlAct} (h : s.act? c a.inst a.k = some a) (res : List Byte) :
    (deliver c a [] res s).act? c a.inst a.k = some (nextSeg a res) := by
  have hwritten : ∀ t : State, (t.slot c).ghl = (s.slot c).ghl → (t.modAct c a fun b => nextSeg b res).act? c a.inst a.k =
      some (nextSeg a res) := fun t ht =>
    act?_modAct (fun b => nextSeg b res) (fun _ => ⟨rfl, rfl⟩) ((act?_of_ghl ht _ _).trans h)
  have hpress : ∀ f, ((s.modPress c f).slot c).ghl = (s.slot c).ghl := fun f => by unfold State.modPress; rw [slot_modSlot]
  unfold deliver
  dsimp only
  rw [forEach_nil]
  refine hwritten _ ?_
  split
  · rw [wrVa_slot]
  · exact hpress _
  · exact hpress _

/-- At a tree's only device a reduction runs to its end (R376). -/
theorem act?_reduceRun_root (c n : Nat) (s : State) (a : GhlAct) (h : s.act? c a.inst a.k = some a) (hup : a.up = false)
    (hfuel : a.segs - a.seg < n) : (reduceRun c a.inst a.k [] none n s).act? c a.inst a.k = none := by
  induction n generalizing s a with
  | zero => omega
  | succ n ih =>
    rw [reduceRun, h]
    dsimp only
    by_cases hend : a.segs ≤ a.seg
    · rw [if_pos hend]
      exact act?_endAct _ _ _ _ _
    · have hsegs : (nextSeg a a.acc).segs = a.segs := rfl
      have hseg : (nextSeg a a.acc).seg = a.seg + 1 := rfl
      rw [if_neg hend, hup, if_neg Bool.false_ne_true, List.getElem?_nil]
      exact ih (deliver c a [] a.acc s) (nextSeg a a.acc) (act?_deliver h a.acc) rfl (by omega)

/-- A reduction whose segment awaits its parent. -/
def sentUp (a : GhlAct) : GhlAct := { a with up := true }

/-- A device without children sends its first segment to its parent, and waits for the result (R376). -/
theorem reduceRun_leaf {c n p : Nat} {s : State} {a : GhlAct} (h : s.act? c a.inst a.k = some a) (hup : a.up = false)
    (hsegs : a.seg < a.segs)
    (hwait : ∀ t, t = sendReduce c a 0 p a.acc (s.modAct c a sentUp) →
      t.act? c a.inst a.k = some (sentUp a) ∧ (t.slot c).ghl.redIn = []) :
    reduceRun c a.inst a.k [] (some p) (n + 2) s = sendReduce c a 0 p a.acc (s.modAct c a sentUp) := by
  obtain ⟨hact, hred⟩ := hwait _ rfl
  rw [reduceRun, h]
  dsimp only
  rw [if_neg (Nat.not_le.2 hsegs), hup, if_neg Bool.false_ne_true, List.getElem?_nil]
  dsimp only
  rw [show (s.modAct c a fun b => { b with up := true }) = s.modAct c a sentUp from rfl]
  generalize sendReduce c a 0 p a.acc (s.modAct c a sentUp) = t at hact hred ⊢
  rw [reduceRun, hact]
  dsimp only
  rw [show (sentUp a).segs = a.segs from rfl, show (sentUp a).seg = a.seg from rfl,
    if_neg (Nat.not_le.2 hsegs), show (sentUp a).up = true from rfl, if_pos rfl]
  unfold takeRed
  rw [hred]
  rfl

theorem ghl_redStarted (c : Nat) (a : GhlAct) (s : State) : ((redStarted c a s).slot c).ghl =
    { (s.slot c).ghl with acts := (s.slot c).ghl.acts ++ [a], tags := KV.upd 0 (s.slot c).ghl.tags a.tree (· + 1) } := by
  unfold redStarted State.modCtxGhl
  rw [slot_modSlot, slot_startAct]

theorem sendFrame_redStarted (c : Nat) (a : GhlAct) (s : State) : sendFrame c (redStarted c a s) = sendFrame c s := by
  refine Eq.trans ?_ (sendFrame_startAct c a s)
  unfold sendFrame redStarted State.modCtxGhl
  rw [slot_modSlot]
  rfl

/-- What stands when a reduction has read its own contribution: the reduction in execution, and the rest of its slot's
class-4 state, its packets' routes and the ports as before. -/
structure RedReady (c : Nat) (s t : State) (e : GhlAct) : Prop where
  act : t.act? c e.inst e.k = some e
  link : (t.slot c).ghl.link = (s.slot c).ghl.link
  peers : (t.slot c).ghl.peers = (s.slot c).ghl.peers
  redIn : (t.slot c).ghl.redIn = (s.slot c).ghl.redIn
  frame : sendFrame c t = sendFrame c s
  port : ∀ p, t.port p = s.port p

theorem ghl_modAct (s : State) (c : Nat) (a : GhlAct) (f : GhlAct → GhlAct) : ((s.modAct c a f).slot c).ghl =
    { (s.slot c).ghl with acts := (s.slot c).ghl.acts.map fun b => if b.same a then f b else b } := by
  unfold State.modAct State.modCtxGhl
  rw [slot_modSlot]

theorem redOwn_of_sound {s : State} {c va : Nat} {a : GhlAct} (hact : s.act? c a.inst a.k = none)
    (hsound : poisonedGran s (s.slot c) va a.bytes = []) : ∃ t,
      redOwn c (s.slot c) va a (redStarted c a s) = reduceGo c (withOwn a (s.rdVa (s.slot c) va a.bytes)) t ∧
        RedReady c s t (withOwn a (s.rdVa (s.slot c) va a.bytes)) := by
  have hghl := ghl_redStarted c a s
  have hframe := sendFrame_redStarted c a s
  have hport : ∀ p, (redStarted c a s).port p = s.port p := fun p => by
    simp only [redStarted, startAct, State.modCtxGhl, port_modSlot]
  have hstack : (redStarted c a s).stackMem = s.stackMem := by simp only [redStarted, startAct, State.modCtxGhl, modSlot_stackMem]
  have hhost : (redStarted c a s).hostMem = s.hostMem := by simp only [redStarted, startAct, State.modCtxGhl, modSlot_hostMem]
  have hmem : (redStarted c a s).mem = s.mem := by simp only [redStarted, startAct, State.modCtxGhl, modSlot_mem]
  have hread := rdVa_of_mem hstack hhost (s.slot c) va a.bytes
  have hclean : poisonedGran (redStarted c a s) (s.slot c) va a.bytes = [] := by
    rw [poisonedGran_of_mem hmem, hsound]
  have hstarted : (redStarted c a s).act? c a.inst a.k = some a := by
    unfold State.act?
    rw [hghl]
    exact act?_append hact rfl rfl
  unfold redOwn
  rw [ghlRead_of_sound hclean, hread]
  have hrec := offRecords_readBlocks (s.slot c) va a.bytes (redStarted c a s)
  generalize readBlocks (s.slot c) va a.bytes (redStarted c a s) = u at hrec ⊢
  generalize s.rdVa (s.slot c) va a.bytes = own
  generalize redStarted c a s = v at *
  have hslot := slot_of_offRecords hrec c
  refine ⟨u.modAct c a fun b => { b with own := own, acc := own.take a.segBytes }, rfl, ?_, ?_, ?_, ?_, ?_, fun p => ?_⟩
  · exact act?_modAct (fun b => { b with own := own, acc := own.take a.segBytes }) (fun _ => ⟨rfl, rfl⟩)
      ((act?_of_slot hslot _ _).trans hstarted)
  · rw [ghl_modAct, hslot, hghl]
  · rw [ghl_modAct, hslot, hghl]
  · rw [ghl_modAct, hslot, hghl]
  · rw [sendFrame_modAct, sendFrame_of_offRecords hrec, hframe]
  · exact (port_of_offRecords hrec p).trans (hport p)

theorem peerId?_congr {x y : Ctx} (h : x.ghl.peers = y.ghl.peers) (l : Nat) : peerId? x l = peerId? y l := by
  unfold peerId?
  rw [h]

theorem treePeers_root {x : Ctx} {t : Tree} (hkids : t.children = []) (hparent : t.parent = 0xFFFF) :
    treePeers x t = some ([], none) := by
  unfold treePeers
  rw [hkids]
  exact if_pos hparent

theorem treePeers_leaf {x : Ctx} {t : Tree} {id : Nat} (hkids : t.children = []) (hparent : t.parent ≠ 0xFFFF)
    (hid : peerId? x t.parent = some id) : treePeers x t = some ([], some id) := by
  unfold treePeers
  rw [hkids, hid]
  exact if_neg hparent

theorem reduceGo_of_peers {s t : State} {c : Nat} {e : GhlAct} (h : RedReady c s t e) {tr : Tree} {kids : List Nat}
    {parent : Option Nat} (htree : (s.slot c).ghl.link.trees[e.tree]? = some tr) (hp : treePeers (t.slot c) tr = some (kids, parent)) :
    reduceGo c e t = reduceRun c e.inst e.k kids parent ((e.segs + 1) * (kids.length + 3)) t := by
  unfold reduceGo
  rw [h.link, htree]
  dsimp only
  rw [hp]

/-- A REDUCE packet that a leaf of its tree sends, with its data after 32 bytes of header. -/
theorem reducePkt_data (s : State) (c : Nat) (a : GhlAct) (dir dst : Nat) (data : List Byte) :
    ((reducePkt s c a dir dst data).drop 32).take data.length = data := by
  unfold reducePkt
  dsimp only
  rw [List.drop_left' (by simp [routedHead, dataHead]), padSlots, List.take_left]

theorem pdst_reducePkt (s : State) (c : Nat) (a : GhlAct) (dir dst : Nat) (data : List Byte) :
    pdst (reducePkt s c a dir dst data) = dst % 2048 := by
  unfold reducePkt
  dsimp only
  rw [List.append_assoc, pdst_routedHead]

theorem ptype_reducePkt (s : State) (c : Nat) (a : GhlAct) (dir dst : Nat) (data : List Byte) :
    ptype (reducePkt s c a dir dst data) = Pkt.reduce := by
  unfold reducePkt
  dsimp only
  rw [List.append_assoc, ptype_routedHead (by decide)]

/-- A leaf of a tree that sends its first segment up. -/
theorem reduceGo_leaf {s t : State} {c id : Nat} {e : GhlAct} {tr : Tree} {r : Route} (h : RedReady c s t e)
    (htree : (s.slot c).ghl.link.trees[e.tree]? = some tr) (hkids : tr.children = []) (hparent : tr.parent ≠ 0xFFFF)
    (hpeer : peerId? (s.slot c) tr.parent = some id) (hid : id ≠ s.myId) (hr : r = KV.get Route.none s.ghl.routes id)
    (hvalid : r.valid = true) (hhere : r.here = false) (hcode : (s.port r.port.toNat).code s.ghl.admitted = 6)
    (hfit : s.portFitted r.port.toNat = true) (hred : (s.slot c).ghl.redIn = []) (hup : e.up = false) (hchild : e.seg = 0)
    (hsegs : 0 < e.segs) : ∃ p, ((reduceGo c e t).act? c e.inst e.k).isSome = true ∧
      ((reduceGo c e t).port r.port.toNat).reduces.map (·.bytes) = (s.port r.port.toNat).reduces.map (·.bytes) ++ [p] ∧
      ptype p = Pkt.reduce ∧ pdst p = id ∧ (p.drop 32).take e.acc.length = e.acc := by
  have hlt := peerId?_lt hpeer
  rw [reduceGo_of_peers h htree (treePeers_leaf hkids hparent ((peerId?_congr h.peers _).trans hpeer))]
  have hact := act?_modAct sentUp (fun _ => ⟨rfl, rfl⟩) h.act
  have hredIn : ((t.modAct c e sentUp).slot c).ghl.redIn = [] := by rw [ghl_modAct, h.redIn, hred]
  have hframe : sendFrame c (t.modAct c e sentUp) = sendFrame c s := (sendFrame_modAct _ _ _ _).trans h.frame
  have hport : (t.modAct c e sentUp).port r.port.toNat = s.port r.port.toNat := h.port _
  obtain ⟨n, hfuel⟩ : ∃ n, (e.segs + 1) * (List.length ([] : List Nat) + 3) = n + 2 := ⟨3 * e.segs + 1, by simp only [List.length_nil]; omega⟩
  have hsend : sendReduce c e 0 id e.acc (t.modAct c e sentUp) =
      (t.modAct c e sentUp).modPort r.port.toNat (GPort.push (reducePkt (t.modAct c e sentUp) c e 0 id e.acc)) := by
    have hroute : routeOf (t.modAct c e sentUp) (reducePkt (t.modAct c e sentUp) c e 0 id e.acc) = .port r.port.toNat := by
      have hdst : pdst (reducePkt (t.modAct c e sentUp) c e 0 id e.acc) = id := by
        rw [pdst_reducePkt, Nat.mod_eq_of_lt hlt]
      rw [routeOf_of_sendFrame hframe]
      exact routeOf_active (by rw [hdst]; exact hid) (by rw [hdst]; exact hr) hvalid hhere hcode hfit
    unfold sendReduce forward
    dsimp only
    rw [hroute]
  generalize hv : t.modAct c e sentUp = v at hact hredIn hframe hport hsend
  have hrun := reduceRun_leaf (n := n) (p := id) h.act hup (by omega) fun w hw => by
    rw [hv, hsend] at hw
    subst hw
    exact ⟨hact, hredIn⟩
  rw [hfuel, hrun, hv, hsend]
  refine ⟨reducePkt v c e 0 id e.acc, ?_, ?_, ptype_reducePkt _ _ _ _ _ _, ?_, reducePkt_data _ _ _ _ _ _⟩
  · rw [act?_modPort, hact]
    rfl
  · rw [port_modPort, reduces_push (ptype_reducePkt _ _ _ _ _ _), hport]
  · rw [pdst_reducePkt, Nat.mod_eq_of_lt hlt]

/-- The elements of a reduction by records are one record (Table 11.14). -/
theorem bytes_of_reduceOk {x : Ctx} {n : Nat} (h : reduceBad x n = false) :
    3 ≤ bitsOf n 9 6 → bitsOf n 231 192 = elemSize (bitsOf n 9 6) := by
  unfold reduceBad at h
  simp only [Bool.or_eq_false_iff, decide_eq_false_iff_not] at h
  obtain ⟨-, hbytes⟩ := h
  intro h3
  rw [if_pos h3] at hbytes
  simpa using hbytes

theorem min_segBytes {a : GhlAct} (hbytes : 3 ≤ a.op → a.bytes = elemSize a.op) :
    min a.segBytes a.bytes = min 512 a.bytes := by
  unfold GhlAct.segBytes
  split
  · next h3 =>
    rw [← hbytes h3, Nat.min_self, Nat.min_eq_right]
    rw [hbytes h3]
    unfold elemSize
    split
    · decide
    · split <;> decide
  · rfl

theorem segBytes_pos (a : GhlAct) : 0 < a.segBytes := by
  unfold GhlAct.segBytes elemSize
  split
  · split
    · decide
    · split <;> decide
  · decide

theorem segs_pos {a : GhlAct} (h : 0 < a.bytes) : 0 < a.segs :=
  Nat.div_pos (by have := segBytes_pos a; omega) (segBytes_pos a)

theorem take_rdVa (s : State) (x : Ctx) (va n m : Nat) : (s.rdVa x va n).take m = s.rdVa x va (min m n) := by
  unfold State.rdVa
  rw [← List.map_take, List.take_range]

theorem length_rdVa (s : State) (x : Ctx) (va n : Nat) : (s.rdVa x va n).length = n := by
  unfold State.rdVa
  rw [List.length_map, List.length_range]

/-! ### The commands -/

/-- Settles O40: an XFER by the packets it queues one after another, a WAIT by its count and its cycles, a REDUCE by the run of
its segments. -/
theorem transfersWaitsReductions : Obligations.TransfersWaitsReductions := by
  unfold Obligations.TransfersWaitsReductions
  refine ⟨⟨?_, ?_, ?_, ?_⟩, ?_⟩
  · rintro d c k n id s q a r hon hact hnext rfl hbad hkind hpeer hid hfirst hsound hr hvalid hhere hcode hfit ha
    have hqueues := xfer_queues hact hnext hbad hkind hpeer hid hfirst hsound hr hvalid hhere hcode hfit (a := a) (by rw [ha]; rfl)
    exact ⟨_, powered_eq hon rfl, hqueues⟩
  · rintro d c k n s q hon hact hnext rfl hzero hwin
    have hwait := wait_of_next hact hnext hzero hwin
    refine ⟨fun hcount => ⟨_, powered_eq hon hwait, wait_of_counted _ hcount⟩, fun hshort => ?_⟩
    rw [waitRun_of_short _ hshort] at hwait
    exact ⟨_, waitAct d k (wordsNat q.body), powered_eq hon hwait, act?_startAct hact rfl rfl, rfl, rfl⟩
  · intro c s a hon hidle hloss hkind hacts _ hconf hslack
    exact ⟨tick s, step_of_idle hidle, stalled_tick hon hloss c.isLt hkind hacts hconf hslack⟩
  · intro d c k s a hon hact hkind hshort
    exact ⟨_, powered_eq hon rfl, act?_waitExpire hact hkind hshort⟩
  · rintro d c k n s q t hon hact hnext rfl hbad htree hkids hepoch hsrc hdst hfrom hto hsound hpos
    have hrun := reduce_of_memory hact hnext hbad hepoch hsrc hdst hfrom hto
    have hbytes := bytes_of_reduceOk hbad
    obtain ⟨u, hown, hready⟩ := redOwn_of_sound (a := redAct d k (wordsNat q.body) (s.slot c)) hact hsound
    rw [hown] at hrun
    refine ⟨fun hparent => ⟨_, powered_eq hon hrun, ?_⟩,
      fun id r hparent hpeer hid hr hvalid hhere hcode hfit hred => ?_⟩
    · rw [reduceGo_of_peers hready htree (treePeers_root hkids hparent)]
      exact act?_reduceRun_root c _ u _ hready.act rfl (by simp only [List.length_nil]; omega)
    · obtain ⟨p, hin, hqueue, htype, hdstp, hdata⟩ :=
        reduceGo_leaf hready htree hkids hparent hpeer hid hr hvalid hhere hcode hfit hred rfl rfl (segs_pos hpos)
      refine ⟨_, p, powered_eq hon hrun, hin, hqueue, htype, hdstp, ?_⟩
      have hacc : (withOwn (redAct d k (wordsNat q.body) (s.slot c)) (s.rdVa (s.slot c) (bitsOf (wordsNat q.body) 111 64)
          (redAct d k (wordsNat q.body) (s.slot c)).bytes)).acc =
          s.rdVa (s.slot c) (bitsOf (wordsNat q.body) 111 64) (min 512 (bitsOf (wordsNat q.body) 231 192)) :=
        (take_rdVa _ _ _ _ _).trans (congrArg (s.rdVa _ _) (min_segBytes (a := redAct d k (wordsNat q.body) (s.slot c)) hbytes))
      have hlen := congrArg List.length hacc
      rw [length_rdVa] at hlen
      rw [hlen] at hdata
      exact hdata.trans hacc

end Sys2Proof.Laws
end

section
/-!
SUPPORT. Requests to the management processor: their interfaces and roles, and the requests that only ask (R463 to R469, R483).
-/

namespace Sys2Proof.Laws

open Machine

/-! ### How a request is served -/

theorem powered_answer {s t : State} (hon : s.power.on = true) {r : List Byte} {x : State} (h : x = { t with readData := r }) :
    powered s x = .next (s.effectOf { t with readData := r }) := powered_eq hon h

/-- A request whose body the MP can assemble (R483). -/
theorem assembled_of_short {i : Iface} {n : Nat} (h : mctpOn i = true → n ≤ 4096) (f : State → Answer) (s : State) :
    assembled i n f s = f s := by
  unfold assembled
  cases hm : mctpOn i with
  | false => rfl
  | true =>
    rw [Bool.true_and, if_neg]
    rw [decide_eq_true_eq]
    exact Nat.not_lt.2 (h hm)

theorem assembled_of_long {i : Iface} {n : Nat} (hm : mctpOn i = true) (h : 4096 < n) (f : State → Answer) (s : State) :
    assembled i n f s = ([], s) := by
  unfold assembled
  rw [hm, Bool.true_and, if_pos (decide_eq_true h)]

theorem onMctp_of_on {i : Iface} (hm : mctpOn i = true) (f : State → Answer) (s : State) : onMctp i f s = f s := if_pos hm

theorem withRole_of_held {i : Iface} {role : Nat} {s : State} (h : role ≤ roleOf s i) (no : List Byte) (f : State → Answer) :
    withRole i role no f s = f s := if_neg (Nat.not_lt.2 h)

theorem withRole_of_lacking {i : Iface} {role : Nat} {s : State} (h : roleOf s i < role) (no : List Byte) (f : State → Answer) :
    withRole i role no f s = (no, s.log Code.roleDenied originMp 0xFF 0 0) := if_pos h

/-- The newest record of the log. -/
theorem head?_log (s : State) (code origin slot : Nat) (arg : W32) (ext : BitVec 48) :
    ∃ r, (s.log code origin slot arg ext).mp.log.head? = some r ∧ r.code = code := ⟨_, rfl, rfl⟩

section
variable {i : Iface} {n : Nat} {s : State} (hon : s.power.on = true) (hm : mctpOn i = true)
include hon hm

/-- An MCTP request is served (R483). -/
theorem mctp_served (hn : n ≤ 4096) {f : State → Answer} {r : List Byte} {t : State} (h : f s = (r, t)) :
    powered s (answer (assembled i n (onMctp i f) s)) = .next (s.effectOf { t with readData := r }) := by
  rw [assembled_of_short (fun _ => hn), onMctp_of_on hm, h]
  exact powered_answer hon rfl

/-- An MCTP request that only asks. -/
theorem mctp_asked (hn : n ≤ 4096) {f : State → Answer} {r : List Byte} (h : f s = (r, s)) :
    powered s (answer (assembled i n (onMctp i f) s)) = .next { s with readData := r } := mctp_served hon hm hn h

/-- A request that needs a role that its interface holds. -/
theorem role_asked (hn : n ≤ 4096) {role : Nat} (hrole : role ≤ roleOf s i) {no : List Byte} {f : State → Answer} {r : List Byte}
    (h : f s = (r, s)) :
    powered s (answer (assembled i n (onMctp i (withRole i role no f)) s)) = .next { s with readData := r } :=
  mctp_asked hon hm hn ((withRole_of_held hrole no f).trans h)

/-- A request refused for want of a role is logged (R469). -/
theorem role_lacking (hn : n ≤ 4096) {role : Nat} (hrole : roleOf s i < role) (no : List Byte) (f : State → Answer) :
    ∃ u r, powered s (answer (assembled i n (onMctp i (withRole i role no f)) s)) = .next u ∧ u.readData = no ∧
      u.mp.log.head? = some r ∧ r.code = 0x0908 := by
  obtain ⟨r, hr, hcode⟩ := head?_log s Code.roleDenied originMp 0xFF 0 0
  exact ⟨_, r, mctp_served hon hm hn (withRole_of_lacking hrole no f), rfl, hr, hcode⟩

/-- A message of more than 4,096 bytes is not assembled, and answers nothing (log entry 72). -/
theorem mctp_too_long (hn : 4096 < n) (f : State → Answer) :
    powered s (answer (assembled i n f s)) = .next { s with readData := [] } := by
  rw [assembled_of_long hm hn]
  exact powered_answer hon rfl

end

/-! ### Bitmaps of command codes -/

/-- A sum of rising powers of two has the bits of its exponents. -/
theorem testBit_sum_two_pow (l : List Nat) (a : Nat) (ha : ∀ k ∈ l, a < 2 ^ k) (hl : l.Pairwise (· < ·)) (j : Nat) :
    (l.foldl (fun a k => a + 2 ^ k) a).testBit j = (a.testBit j || decide (j ∈ l)) := by
  induction l generalizing a with
  | nil => simp
  | cons k l ih =>
    obtain ⟨hk, hl⟩ := List.pairwise_cons.1 hl
    have hak : a < 2 ^ k := ha k List.mem_cons_self
    have hor : a + 2 ^ k = 2 ^ k ||| a := by
      have h := Nat.two_pow_add_eq_or_of_lt hak 1
      rw [Nat.mul_one] at h
      omega
    rw [List.foldl_cons, ih _ (fun i hi => ?_) hl, hor, Nat.testBit_or, Nat.testBit_two_pow]
    · simp only [List.mem_cons, Bool.decide_or, eq_comm (a := k)]
      cases a.testBit j <;> simp
    · have hpow : 2 ^ (k + 1) ≤ 2 ^ i := Nat.pow_le_pow_right (by decide) (hk i hi)
      rw [Nat.pow_succ] at hpow
      omega

theorem leNat_leBytes (n v : Nat) : leNat (leBytes n v) = v % 256 ^ n := by
  induction n generalizing v with
  | zero => simp [leBytes, leNat, Nat.mod_one]
  | succ n ih =>
    rw [leBytes, leNat, ih, BitVec.toNat_ofNat, show 256 ^ (n + 1) = 256 * 256 ^ n from Nat.pow_succ', Nat.mod_mul]

/-- The bitmap of a list of rising codes. -/
theorem getLsbD_bitmap32 {l : List Nat} (hl : l.Pairwise (· < ·)) {k : Nat} (hk : k < 256) :
    (BitVec.ofNat 256 (leNat (bitmap32 l))).getLsbD k = true ↔ k ∈ l := by
  unfold bitmap32
  rw [leNat_leBytes, show 256 ^ 32 = 2 ^ 256 by decide, BitVec.getLsbD_ofNat, Nat.testBit_mod_two_pow,
    testBit_sum_two_pow l 0 (fun _ _ => Nat.two_pow_pos _) hl]
  simp [hk]

/-! ### Requests that only ask -/

/-- A byte among those of a list, as numbers. -/
theorem elem_toNat (l : List Byte) (t : Byte) : (l.map BitVec.toNat).elem t.toNat = decide (t ∈ l) := by
  rw [List.elem_eq_mem, decide_eq_decide, List.mem_map]
  constructor
  · rintro ⟨x, hx, h⟩
    rwa [← BitVec.eq_of_toNat_eq h]
  · exact fun h => ⟨t, h, rfl⟩

theorem leNat_singleton (t : Byte) : leNat [t] = t.toNat := by
  simp [leNat]

theorem bnum_singleton (t : Byte) : bnum [t] 0 1 = t.toNat := leNat_singleton t

theorem bnum_fifth {b : List Byte} {t : Byte} (h : b.drop 5 = [t]) : bnum b 5 1 = t.toNat := by
  unfold bnum
  rw [h]
  exact leNat_singleton t

theorem mctpVersion_eq (t : Byte) (s : State) : mctpVersion [t] s =
    if t ∈ [0#8, 1#8, 5#8, 0x7E#8, 0xFF#8] then ([0, 1] ++ verBytes t.toNat, s) else ([0x80], s) := by
  have h := elem_toNat [0#8, 1#8, 5#8, 0x7E#8, 0xFF#8] t
  unfold mctpVersion
  dsimp only
  rw [bnum_singleton]
  by_cases ht : t ∈ [0#8, 1#8, 5#8, 0x7E#8, 0xFF#8]
  · rw [if_pos ht]
    exact if_pos (h.trans (decide_eq_true ht))
  · rw [if_neg ht]
    exact if_neg fun h' => ht (decide_eq_true_iff.1 (h.symm.trans h'))

theorem pldmCommands_eq {t : Byte} (h : t ∈ [0#8, 2#8, 5#8]) (s : State) :
    pldmCommands [t] s = (0 :: bitmap32 (pldmCodes t.toNat), s) := by
  have helem := elem_toNat [0#8, 2#8, 5#8] t
  rw [decide_eq_true h] at helem
  unfold pldmCommands
  dsimp only
  rw [bnum_singleton]
  exact if_pos helem

theorem pldmVersion_eq {b : List Byte} {t : Byte} (hb : b.drop 5 = [t]) (s : State) : pldmVersion b s =
    if t ∈ [0#8, 2#8, 5#8] then ([0, 0, 0, 0, 0, 5] ++ verBytes (256 + t.toNat) ++ leBytes 4 (crc32 (verBytes (256 + t.toNat))).toNat, s)
    else ([0x83], s) := by
  have h := elem_toNat [0#8, 2#8, 5#8] t
  unfold pldmVersion
  dsimp only
  rw [bnum_fifth hb]
  by_cases ht : t ∈ [0#8, 2#8, 5#8]
  · rw [if_pos ht]
    exact if_pos (h.trans (decide_eq_true ht))
  · rw [if_neg ht]
    exact if_neg fun h' => ht (decide_eq_true_iff.1 (h.symm.trans h'))

theorem pairwise_pldmCodes (t : Nat) : (pldmCodes t).Pairwise (· < ·) := by
  unfold pldmCodes
  split
  · decide
  · split
    · decide
    · split <;> decide

theorem length_factoryBytes (kind n : Nat) : (factoryBytes kind n).length = n := by
  unfold factoryBytes
  rw [List.length_map, List.length_range]

theorem length_pdrInfo (s : State) : (pdrInfo s).1.length = 41 := by
  unfold pdrInfo
  simp [length_factoryBytes]

/-- The first part of a record, and whether it is all of it. -/
theorem pdr_first {b : List Byte} {h : Nat} (s : State) (hh : h = bnum b 0 4) (hlo : 1 ≤ h) (hhi : h ≤ 22) (hfirst : bnum b 8 1 = 1)
    {n : Nat} (hn : n = min (bnum b 9 2) (Config.pdr h).length) : pdr b s =
      ([0] ++ leBytes 4 (if h = 22 then 0 else h + 1) ++ leBytes 4 (if n = (Config.pdr h).length then 0 else n) ++
        leBytes 1 (if n = (Config.pdr h).length then 5 else 0) ++ leBytes 2 n ++ (Config.pdr h).take n, s) := by
  have htake : (Config.pdr h).take (bnum b 9 2) = (Config.pdr h).take n := by rw [hn, ← List.take_eq_take_min]
  have hlen : ((Config.pdr h).take n).length = n := by rw [List.length_take, hn]; omega
  unfold pdr
  dsimp only
  rw [← hh, if_neg (show ¬ h = 0 by omega), if_neg (Nat.not_lt.2 hhi), if_pos hfirst, List.drop_zero, htake, hlen, Nat.zero_add]
  simp only [beq_iff_eq, if_true]

theorem sensors22_mem {k : Nat} (hlo : 1 ≤ k) (hhi : k ≤ 22) : sensors22.elem k = true := by
  rw [List.elem_iff]
  unfold sensors22
  exact List.mem_map.2 ⟨k - 1, List.mem_range.2 (by omega), by omega⟩

theorem sensorReading_fitted {b : List Byte} {s : State} (hlo : 1 ≤ bnum b 0 2) (hhi : bnum b 0 2 ≤ 22)
    (hfit : sensorFitted s (bnum b 0 2) = true) {v : Byte}
    (hv : v = if NSet.mem s.power.hot (bnum b 0 2) then 3 else if NSet.mem s.power.warm (bnum b 0 2) then 2 else 1) :
    sensorReading b s = ([0, 5, 0, 0, v, 0, v] ++ reading32 (KV.get 0 s.mp.sensors (bnum b 0 2)), s) := by
  unfold sensorReading
  dsimp only
  rw [if_neg (by rw [sensors22_mem hlo hhi]; decide), if_neg (by rw [hfit]; decide), ← hv]

theorem sensorReading_unfitted {b : List Byte} {s : State} (hlo : 1 ≤ bnum b 0 2) (hhi : bnum b 0 2 ≤ 22)
    (hfit : sensorFitted s (bnum b 0 2) = false) : sensorReading b s = ([0, 5, 2, 0, 0, 0, 0] ++ reading32 0, s) := by
  unfold sensorReading
  dsimp only
  rw [if_neg (by rw [sensors22_mem hlo hhi]; decide), if_pos hfit]

theorem updateStatus_eq (s : State) : updateStatus s = (([0] : List Byte) ++ leBytes 1 (match s.mp.update with
    | none => 0
    | some u => if u.cur.isSome = true then 3 else if u.table = [] then 1 else 2) ++ [0, 3, 0, 0x65, 0, 0, 0, 0, 0], s) := by
  unfold updateStatus
  simp only [List.isEmpty_iff]
  rw [List.append_assoc, List.append_assoc]
  rfl

/-- Settles O56: every request through its interface and role, its bytes by its own lemma. -/
theorem managementQueries : Obligations.ManagementQueries := by
  unfold Obligations.ManagementQueries
  intro i b s hon hm
  refine ⟨fun hlong => ?_, fun hlen => ⟨?_, ?_, ?_, fun hrole => ⟨?_, ?_, ?_, ?_⟩, fun hrole => ?_⟩⟩
  · simp only [List.forall_mem_cons]
    refine ⟨?_, ?_, ?_, ?_, ?_, ?_, ?_, ?_, ?_, ?_, ?_, ?_, ?_, ?_, fun _ h => absurd h List.not_mem_nil⟩
    all_goals exact mctp_too_long hon hm hlong _
  · simp only [List.forall_mem_cons]
    refine ⟨?_, ?_, ?_, ?_, ?_, ?_, ?_, ?_, fun _ h => absurd h List.not_mem_nil⟩
    · exact mctp_asked hon hm hlen rfl
    · exact mctp_asked hon hm hlen rfl
    · exact mctp_asked hon hm hlen rfl
    · exact mctp_asked hon hm hlen rfl
    · exact mctp_asked hon hm hlen rfl
    · exact mctp_asked hon hm hlen rfl
    · exact mctp_asked hon hm hlen (updateStatus_eq s)
    · exact mctp_asked hon hm hlen rfl
  · rintro t rfl
    refine ⟨fun ht => ?_, fun ht => ?_, fun ht => ?_⟩
    · exact mctp_asked hon hm hlen ((mctpVersion_eq t s).trans (if_pos ht))
    · exact mctp_asked hon hm hlen ((mctpVersion_eq t s).trans (if_neg ht))
    · refine ⟨0 :: bitmap32 (pldmCodes t.toNat), ?_, mctp_asked hon hm hlen (pldmCommands_eq ht s), fun k hk => ?_⟩
      · rw [List.length_cons, bitmap32, length_leBytes]
      · exact getLsbD_bitmap32 (pairwise_pldmCodes _) hk
  · intro t ht
    exact ⟨fun h => mctp_asked hon hm hlen ((pldmVersion_eq ht s).trans (if_pos h)),
      fun h => mctp_asked hon hm hlen ((pldmVersion_eq ht s).trans (if_neg h))⟩
  · exact ⟨(pdrInfo s).1, role_asked hon hm hlen hrole rfl, rfl, length_pdrInfo s⟩
  · exact fun hlo hhi hfirst => ⟨_, rfl, role_asked hon hm hlen hrole (pdr_first s rfl hlo hhi hfirst rfl)⟩
  · exact fun hlo hhi hfit => ⟨_, rfl, role_asked hon hm hlen hrole (sensorReading_fitted hlo hhi hfit rfl)⟩
  · exact fun hlo hhi hfit => role_asked hon hm hlen hrole (sensorReading_unfitted hlo hhi hfit)
  · simp only [List.forall_mem_cons]
    refine ⟨?_, ?_, ?_, fun _ h => absurd h List.not_mem_nil⟩
    all_goals exact role_lacking hon hm hlen (by omega) _ _

end Sys2Proof.Laws
end

section
/-!
SUPPORT. SPDM over MCTP and DOE (R481, R482).
-/

namespace Sys2Proof.Laws

open Machine

/-! ### The order of requests -/

theorem spdm_served {i : Iface} {n : Nat} {s t : State} (hon : s.power.on = true) (hi : i ≠ .uart) (hn : i ≠ .doe → n ≤ 4096)
    {f : State → Answer} {r : List Byte} (h : f s = (r, t)) :
    powered s (answer (assembled i n (onSpdm i f) s)) = .next (s.effectOf { t with readData := r }) := by
  have hshort : mctpOn i = true → n ≤ 4096 := fun hm => hn (by rintro rfl; cases hm)
  have hspdm : (mctpOn i || i == .doe) = true := by
    cases i with
    | uart => exact absurd rfl hi
    | _ => rfl
  rw [assembled_of_short hshort, show onSpdm i f s = f s from if_pos hspdm, h]
  exact powered_answer hon rfl

theorem afterAlgs_of_done {s : State} (h : s.mp.spdm.algs = true) (f : State → Answer) : afterAlgs f s = f s := if_pos h

theorem afterAlgs_of_early {s : State} (h : s.mp.spdm.algs = false) (f : State → Answer) : afterAlgs f s = ([0x7F, 4, 0], s) :=
  if_neg (by rw [h]; decide)

/-! ### Open bytes -/

/-- Open bytes are drawn from the free values alone (log entry 1). -/
theorem freeBytes_eq (n : Nat) (s : State) : ∃ bs, freeBytes n s = (bs, { s with freeCtr := s.freeCtr + n }) := by
  induction n generalizing s with
  | zero => exact ⟨[], rfl⟩
  | succ n ih =>
    obtain ⟨bs, h⟩ := ih { s with freeCtr := s.freeCtr + 1 }
    refine ⟨leBytes 8 (Config.freeValue s.freeCtr).toNat ++ bs, ?_⟩
    unfold freeBytes State.free
    dsimp only
    rw [h, Nat.add_assoc, Nat.add_comm 1 n]

/-! ### The requests -/

theorem spdmCaps_eq {s : State} (h : s.mp.spdm.version.isSome = true) : spdmCaps s =
    ([0x61, 0, 0, 0, Config.factory 9 0, 0, 0] ++ leBytes 4 0x16 ++ leBytes 4 4096 ++ leBytes 4 4096,
      modSpdm (fun p => { p with caps := true, algs := false }) s) := by
  refine if_neg fun hnone => ?_
  rw [Option.isNone_iff_eq_none.1 hnone] at h
  cases h

theorem spdmAlgs_eq {s : State} (h : s.mp.spdm.caps = true) (b : List Byte) : spdmAlgs b s =
    ([0x63, 0, 0] ++ leBytes 2 36 ++ [1, 0] ++ leBytes 4 4 ++ leBytes 4 (bnum b 6 4 &&& 0x80) ++
      leBytes 4 (bnum b 10 4 &&& 2) ++ List.replicate 12 0 ++ leBytes 4 0, modSpdm (fun p => { p with algs := true }) s) :=
  if_neg (by rw [h]; decide)

theorem spdmCert_eq {b : List Byte} {s : State} (hslot : bnum b 0 1 % 16 = 0) (h : s.mp.spdm.algs = true) {n : Nat}
    (hn : n = min (bnum b 4 2) 1024) : spdmCert b s =
      (if (chain0 s).length ≤ bnum b 2 2 then [0x7F, 1, 0] else [0x02, 0, 0] ++
        leBytes 2 (((chain0 s).drop (bnum b 2 2)).take n).length ++
        leBytes 2 (((chain0 s).drop (bnum b 2 2)).length - (((chain0 s).drop (bnum b 2 2)).take n).length) ++
        ((chain0 s).drop (bnum b 2 2)).take n, s) := by
  unfold spdmCert
  rw [afterAlgs_of_done h]
  dsimp only
  rw [← hn]
  by_cases hlen : (chain0 s).length ≤ bnum b 2 2
  · rw [if_pos (Or.inr hlen), if_pos hlen]
    rfl
  · rw [if_neg (by rintro (h' | h'); exacts [h' hslot, hlen h']), if_neg hlen]

theorem length_shaBlocks (n : Nat) {h : List W64} (hh : h.length = 8) (bs : List Byte) : (shaBlocks n h bs).length = 8 := by
  induction n generalizing h bs with
  | zero => exact hh
  | succ n ih =>
    refine ih ?_ _
    unfold shaCompress
    rw [List.length_zipWith, hh]
    rfl

theorem length_sha384 (b : List Byte) : (sha384 b).length = 48 := by
  unfold sha384
  dsimp only
  rw [List.length_flatMap, List.map_congr_left (g := fun _ => 8) fun w _ => by unfold beBytes; rw [List.length_reverse, length_leBytes]]
  rw [List.map_const', List.length_take, length_shaBlocks _ rfl]
  rfl

/-- A challenge answers the digest of the chain, a nonce and a signature. -/
theorem spdmChallenge_eq {b : List Byte} {s : State} (hslot : bnum b 0 1 % 16 = 0) (h : s.mp.spdm.algs = true) :
    ∃ rest, spdmChallenge b s = ([0x03, 0, 1] ++ sha384 (chain0 s) ++ rest, { s with freeCtr := s.freeCtr + 16 }) := by
  obtain ⟨nonce, hnonce⟩ := freeBytes_eq 4 s
  obtain ⟨sig, hsig⟩ := freeBytes_eq 12 { s with freeCtr := s.freeCtr + 4 }
  unfold spdmChallenge
  rw [afterAlgs_of_done h]
  dsimp only
  rw [if_neg (not_not_intro hslot), hnonce]
  dsimp only
  rw [hsig]
  dsimp only
  exact ⟨nonce ++ (if bnum b 1 1 = 0 then [] else sha384 (nine.flatMap (measurement s))) ++ [0, 0] ++ sig,
    Prod.ext (by simp only [List.append_assoc]) rfl⟩

/-- Measurements without a signature: their head, their blocks, a nonce. -/
theorem spdmMeasurements_eq {b : List Byte} {s : State} {ks : List Nat} (hsig : bnum b 0 1 % 2 = 0)
    (h : s.mp.spdm.algs = true) (hop : bnum b 1 1 ≤ 9) (hks : ks = if bnum b 1 1 = 0 then [] else [bnum b 1 1]) :
    ∃ rest, spdmMeasurements b s = ([0x60] ++ leBytes 1 (if bnum b 1 1 = 0 then 9 else 0) ++ [0] ++ leBytes 1 ks.length ++
      leBytes 3 (ks.flatMap (measBlock s)).length ++ ks.flatMap (measBlock s) ++ rest, { s with freeCtr := s.freeCtr + 4 }) := by
  obtain ⟨nonce, hnonce⟩ := freeBytes_eq 4 s
  have hks' : (if bnum b 1 1 = 0 then [] else if bnum b 1 1 = 255 then nine else [bnum b 1 1]) = ks := by
    rw [hks, if_neg (show ¬ bnum b 1 1 = 255 by omega)]
  unfold spdmMeasurements
  rw [afterAlgs_of_done h]
  dsimp only
  rw [if_neg (show ¬ (bnum b 1 1 ≠ 0 ∧ bnum b 1 1 ≠ 255 ∧ 9 < bnum b 1 1) by omega), hks', hnonce]
  dsimp only
  rw [if_neg (show ¬ bnum b 0 1 % 2 = 1 by omega)]
  exact ⟨nonce ++ [0, 0], Prod.ext (by simp only [List.append_assoc]) rfl⟩

/-- Settles O59: each request by its place in the order and by its bytes. -/
theorem spdmRequests : Obligations.SpdmRequests := by
  unfold Obligations.SpdmRequests
  intro i b s hon hi hlen
  refine ⟨spdm_served hon hi hlen (f := spdmVersion) rfl, fun hver => ?_, fun hcaps => ?_, fun halgs => ?_, fun halgs => ⟨?_, ?_, ?_, ?_, ?_⟩⟩
  · exact ⟨_, spdm_served hon hi hlen (spdmCaps_eq hver), rfl⟩
  · exact ⟨_, spdm_served hon hi hlen (spdmAlgs_eq hcaps b), rfl⟩
  · simp only [List.forall_mem_cons]
    refine ⟨?_, ?_, ?_, ?_, fun _ h => absurd h List.not_mem_nil⟩
    all_goals exact spdm_served hon hi hlen (afterAlgs_of_early halgs _)
  · exact spdm_served hon hi hlen (afterAlgs_of_done halgs _)
  · exact fun hslot => ⟨_, rfl, spdm_served hon hi hlen (spdmCert_eq hslot halgs rfl)⟩
  · intro hslot
    obtain ⟨rest, h⟩ := spdmChallenge_eq hslot halgs
    refine ⟨_, spdm_served hon hi hlen h, ?_⟩
    rw [List.take_left' (by rw [List.length_append, length_sha384]; rfl)]
  · intro hlo hhi hsig
    obtain ⟨rest, h⟩ := spdmMeasurements_eq (ks := [bnum b 1 1]) hsig halgs hhi (if_neg (show ¬ bnum b 1 1 = 0 by omega)).symm
    refine ⟨_, spdm_served hon hi hlen h, ?_, ?_⟩
    · rw [if_neg (show ¬ bnum b 1 1 = 0 by omega)]
      rfl
    · rw [List.flatMap_singleton, List.append_assoc, List.drop_left' (by simp), List.take_left]
  · intro hop hsig
    obtain ⟨rest, h⟩ := spdmMeasurements_eq (ks := []) hsig halgs (by omega) (if_pos hop).symm
    refine ⟨_, spdm_served hon hi hlen h, ?_⟩
    rw [if_pos hop]
    rfl

end Sys2Proof.Laws
end

section
/-!
SUPPORT. The vendor commands and the roles they need (R465 to R472, R477, R480, Table 15.6).
-/

namespace Sys2Proof.Laws

open Machine

/-! ### Change records -/

/-- A change record counts (R470, R471). -/
theorem changeSeq_change (s : State) (a b c d : Nat) (o n : List Byte) : s.mp.changeSeq < (s.change a b c d o n).mp.changeSeq := by
  have hchain : s.chain.2.mp = s.mp := by
    unfold State.chain
    split <;> rfl
  have hroll : ∀ t : State, t.mp.changeSeq ≤ (rollChanges t).mp.changeSeq := fun t => by
    unfold rollChanges
    dsimp only
    split
    · exact Nat.le_refl _
    · exact Nat.le_succ _
  have hrec : ∀ (t : State) (r : ChangeRec),
      (t.modMp fun p => { p with changes := r :: p.changes, changeSeq := p.changeSeq + 1 }).mp.changeSeq = t.mp.changeSeq + 1 :=
    fun _ _ => rfl
  unfold State.change
  dsimp only
  refine Nat.lt_of_lt_of_le ?_ (hroll _)
  rw [hrec, hchain]
  exact Nat.lt_succ_self _

theorem changeSeq_changeTo (s t : State) (a b c d : Nat) : t.mp.changeSeq < (s.changeTo t a b c d).mp.changeSeq :=
  changeSeq_change t _ _ _ _ _ _

section
variable {p q : Mp} (h : offLogs p = offLogs q)
include h

theorem config_of_offLogs : p.config = q.config := (congrArg Mp.config h :)
theorem floor_of_offLogs : p.floor = q.floor := (congrArg Mp.floor h :)
theorem ownerKey_of_offLogs : p.ownerKey = q.ownerKey := (congrArg Mp.ownerKey h :)
theorem ownerCtr_of_offLogs : p.ownerCtr = q.ownerCtr := (congrArg Mp.ownerCtr h :)
theorem serviceCtr_of_offLogs : p.serviceCtr = q.serviceCtr := (congrArg Mp.serviceCtr h :)
theorem roles_of_offLogs : p.roles = q.roles := (congrArg Mp.roles h :)
theorem retired_of_offLogs : p.retired = q.retired := (congrArg Mp.retired h :)
theorem events_of_offLogs : p.events = q.events := (congrArg Mp.events h :)
theorem faulty_of_offLogs : p.faulty = q.faulty := (congrArg Mp.faulty h :)
theorem standing_of_offLogs : p.standing = q.standing := (congrArg Mp.standing h :)

end

/-! ### How a vendor command is served -/

theorem vendor_served {i : Iface} {n : Nat} {s t : State} (hon : s.power.on = true) (hn : i ≠ .uart → n ≤ 4096)
    {f : State → Answer} {r : List Byte} (h : f s = (r, t)) :
    powered s (answer (assembled i n f s)) = .next (s.effectOf { t with readData := r }) := by
  have hshort : mctpOn i = true → n ≤ 4096 := fun hm => hn (by rintro rfl; cases hm)
  rw [assembled_of_short hshort, h]
  exact powered_answer hon rfl

theorem onVendor_of_held {i : Iface} (hi : i ≠ .doe) {role : Nat} {s : State} (h : role ≤ roleOf s i) (f : State → Answer) :
    onVendor i role f s = f s := (if_neg hi).trans (withRole_of_held h _ f)

theorem onVendor_of_lacking {i : Iface} (hi : i ≠ .doe) {role : Nat} {s : State} (h : roleOf s i < role) (f : State → Answer) :
    onVendor i role f s = (leBytes 2 0x0908, s.log Code.roleDenied originMp 0xFF 0 0) := (if_neg hi).trans (withRole_of_lacking h _ f)

/-- A vendor command refused for want of a role (R469). -/
theorem vendor_lacking {i : Iface} {n role : Nat} {s : State} (hon : s.power.on = true) (hi : i ≠ .doe) (hn : i ≠ .uart → n ≤ 4096)
    (h : roleOf s i < role) (f : State → Answer) : ∃ u r, powered s (answer (assembled i n (onVendor i role f) s)) = .next u ∧
      u.readData = leBytes 2 0x0908 ∧ u.mp.log.head? = some r ∧ r.code = 0x0908 ∧ u.mp.config = s.mp.config ∧
      u.mp.floor = s.mp.floor := by
  obtain ⟨r, hr, hcode⟩ := head?_log s Code.roleDenied originMp 0xFF 0 0
  exact ⟨_, r, vendor_served hon hn (onVendor_of_lacking hi h f), rfl, hr, hcode, rfl, rfl⟩

/-! ### GET_LOG and GET_CHANGES -/

theorem take_of_fits {α : Type} {l : List α} {room size : Nat} (hsize : 0 < size) (h : size * l.length ≤ room) :
    l.take (room / size) = l := by
  refine List.take_of_length_le ((Nat.le_div_iff_mul_le hsize).2 ?_)
  rwa [Nat.mul_comm]

theorem getLog_all {i : Iface} (hi : i ≠ .doe) {b : List Byte} {s : State} (hrole : 1 ≤ roleOf s i) (hflash : s.mp.flashLog = [])
    (hfit : 32 * s.mp.log.length ≤ limitOf i - 6) (hfrom : bnum b 0 4 = 0) :
    getLog i b s = ([0, 0] ++ s.mp.log.reverse.flatMap EvRec.bytes, s) := by
  have hall : ∀ l : List EvRec, l.filter (fun r => decide (0 ≤ r.seq.toNat)) = l := fun l =>
    List.filter_eq_self.2 fun _ _ => decide_eq_true (Nat.zero_le _)
  unfold getLog
  rw [onVendor_of_held hi hrole]
  dsimp only
  rw [hflash, hfrom, List.reverse_nil, List.filter_nil, List.nil_append, hall, take_of_fits (by decide) (by rwa [List.length_reverse])]
  rfl

theorem getChanges_all {i : Iface} (hi : i ≠ .doe) {b : List Byte} {s : State} (hrole : 1 ≤ roleOf s i)
    (hfit : 192 * s.mp.changes.length ≤ limitOf i - 6) (hfrom : bnum b 0 8 = 0) :
    getChanges i b s = ([0, 0] ++ s.mp.changes.reverse.flatMap ChangeRec.bytes, s) := by
  have hall : ∀ l : List ChangeRec, l.filter (fun r => decide (0 ≤ r.seq)) = l := fun l =>
    List.filter_eq_self.2 fun _ _ => decide_eq_true (Nat.zero_le _)
  unfold getChanges
  rw [onVendor_of_held hi hrole]
  dsimp only
  rw [hfrom, hall, take_of_fits (by decide) (by rwa [List.length_reverse])]
  rfl

/-! ### SERVICE_RECORD (R477) -/

theorem stillRetired_congr {s t : State} (hmp : offLogs t.mp = { offLogs s.mp with
    serviceCtr := t.mp.serviceCtr, retired := t.mp.retired, retireDue := t.mp.retireDue }) (hnow : t.now = s.now) :
    stillRetired t = stillRetired s := by
  have hevents : t.mp.events = s.mp.events := (congrArg Mp.events hmp :)
  have hfaulty : t.mp.faulty = s.mp.faulty := (congrArg Mp.faulty hmp :)
  have hstanding : t.mp.standing = s.mp.standing := (congrArg Mp.standing hmp :)
  unfold stillRetired Mp.recent
  rw [hevents, hfaulty, hstanding, hnow]

/-- The state after a service record that clears RETIRED, before the conditions of Table 14.7 are looked at. -/
def retiredCleared (s : State) : State :=
  (s.changeTo (s.modMp fun p => { p with retired := false, retireDue := false }) 0x20 4 9 0).settleHealth

/-- A service record is counted. -/
def serviceCounted (s : State) : State := s.modMp fun p => { p with serviceCtr := p.serviceCtr + 1 }

theorem offLogs_retiredCleared (s : State) : offLogs (retiredCleared s).mp =
    { offLogs s.mp with retired := false, retireDue := false } := by
  unfold retiredCleared
  rw [offLogs_settleHealth, offLogs_changeTo]
  rfl

theorem now_retiredCleared (s : State) : (retiredCleared s).now = s.now := by
  refine now_of_offRecords ?_
  unfold retiredCleared
  rw [offRecords_settleHealth, offRecords_changeTo, offRecords_modMp]

/-- What a valid service record does. -/
theorem serviceRecord_ok {i : Iface} (hi : i ≠ .doe) {b : List Byte} {s : State} (hrole : 1 ≤ roleOf s i) (hok : serviceOk s b = true) :
    ∃ t, serviceRecord i b s = ([0, 0], t) ∧ t.mp.serviceCtr = s.mp.serviceCtr + 1 ∧
      (bnum b 20 4 = 2 → t.mp.debugUnlocked = true) ∧ (bnum b 20 4 = 1 → t.mp.retired = stillRetired s) := by
  have hserve : serviceRecord i b s = if bnum b 20 4 = 2 then ([0, 0], (serviceCounted s).modMp fun p => { p with debugUnlocked := true })
      else ([0, 0], if stillRetired (retiredCleared (serviceCounted s)) then (retiredCleared (serviceCounted s)).retire
        else retiredCleared (serviceCounted s)) := by
    unfold serviceRecord
    rw [onVendor_of_held hi hrole]
    dsimp only
    rw [if_pos hok]
    rfl
  rw [hserve]
  by_cases hact : bnum b 20 4 = 2
  · rw [if_pos hact]
    exact ⟨_, rfl, rfl, fun _ => rfl, fun h => by omega⟩
  · have hoff := offLogs_retiredCleared (serviceCounted s)
    have hctr : (retiredCleared (serviceCounted s)).mp.serviceCtr = s.mp.serviceCtr + 1 := (congrArg Mp.serviceCtr hoff :)
    have hret : (retiredCleared (serviceCounted s)).mp.retired = false := (congrArg Mp.retired hoff :)
    have hstill : stillRetired (retiredCleared (serviceCounted s)) = stillRetired s := by
      have hdue : (retiredCleared (serviceCounted s)).mp.retireDue = false := (congrArg Mp.retireDue hoff :)
      refine stillRetired_congr ?_ (now_retiredCleared _)
      rw [hoff, hctr, hret, hdue]
      rfl
    rw [if_neg hact, hstill]
    refine ⟨_, rfl, ?_, fun h => absurd h hact, fun _ => ?_⟩
    · split
      · obtain ⟨due, hdue⟩ := offLogs_retire (retiredCleared (serviceCounted s))
        exact (congrArg Mp.serviceCtr hdue :).trans hctr
      · exact hctr
    · split
      · next h =>
        obtain ⟨due, hdue⟩ := offLogs_retire (retiredCleared (serviceCounted s))
        rw [h]
        exact (congrArg Mp.retired hdue :)
      · next h =>
        rw [Bool.eq_false_iff.2 h]
        exact hret

/-! ### Commands of an OPERATOR -/

theorem setTime_ok {i : Iface} (hi : i ≠ .doe) {b : List Byte} {s : State} (hrole : 2 ≤ roleOf s i) (hlt : bnum b 0 8 < 2 ^ 63)
    (hmono : s.mp.wall.isSome = true → s.time.toNat ≤ bnum b 0 8) :
    setTime i b s = ([0, 0], s.modMp fun p => { p with wall := some (bnum b 0 8, s.now) }) := by
  unfold setTime
  rw [onVendor_of_held hi hrole]
  refine if_neg ?_
  rintro (h | ⟨hset, h⟩)
  · exact absurd hlt (Nat.not_lt.2 h)
  · exact absurd (hmono hset) (Nat.not_le.2 h)

theorem setTime_back {i : Iface} (hi : i ≠ .doe) {b : List Byte} {s : State} (hrole : 2 ≤ roleOf s i) (hset : s.mp.wall.isSome = true)
    (hback : bnum b 0 8 < s.time.toNat) : setTime i b s = (leBytes 2 0x090D, s) := by
  unfold setTime
  rw [onVendor_of_held hi hrole]
  exact if_pos (Or.inr ⟨hset, hback⟩)

theorem setConfig_ok {i : Iface} (hi : i ≠ .doe) {b : List Byte} {s : State} (hrole : 2 ≤ roleOf s i) {g : MpConfig}
    (hput : s.mp.config.put (bnum b 0 1) (b.drop 1) = some g) : setConfig i b s =
      ([0, 0], s.changeTo (s.modMp fun p => { p with config := g }) i.origin (roleOf s i) 1 (bnum b 0 1)) := by
  unfold setConfig
  rw [onVendor_of_held hi hrole, hput]
  rfl

theorem setConfig_refused {i : Iface} (hi : i ≠ .doe) {b : List Byte} {s : State} (hrole : 2 ≤ roleOf s i)
    (hput : s.mp.config.put (bnum b 0 1) (b.drop 1) = none) : setConfig i b s = (leBytes 2 0x0802, s) := by
  unfold setConfig
  rw [onVendor_of_held hi hrole, hput]
  rfl

theorem commitSvn_raises {i : Iface} (hi : i ≠ .doe) {s : State} (hrole : 2 ≤ roleOf s i) (hgood : (s.mp.fw s.mp.running).good = true)
    (hsvn : (s.mp.fw s.mp.running).svn.toNat ≤ 63) (hfloor : s.mp.floor < (s.mp.fw s.mp.running).svn.toNat) : commitSvn i s =
      ([0, 0], s.changeTo (s.modMp fun p => { p with floor := (s.mp.fw s.mp.running).svn.toNat }) i.origin (roleOf s i) 6 0) := by
  unfold commitSvn
  rw [onVendor_of_held hi hrole]
  dsimp only
  rw [if_neg (by rw [hgood]; simpa using hsvn), if_neg (Nat.not_le.2 hfloor)]
  rfl

/-- An owner key on a device that has none (R469). -/
theorem takeOwnership_first {i : Iface} (hi : i ≠ .doe) {b : List Byte} {s : State} (hrole : 2 ≤ roleOf s i)
    (hnone : s.mp.ownerKey = none) (hlen : b.length = 96) : takeOwnership i b s =
      ([0, 0], s.changeTo (s.modMp fun p => { p with ownerKey := some b }) i.origin (roleOf s i) 7 0) := by
  unfold takeOwnership
  rw [if_neg hi, hnone, Option.isNone_none, if_pos rfl, onVendor_of_held hi hrole]
  exact if_neg (not_not_intro hlen)

/-! ### SET_ROLES (R468) -/

/-- The role map that a list of role codes gives to the origins from 1 on. -/
def roleMap (rs : List Nat) : KV Nat := rs.zipIdx.foldl (fun m e => KV.set 0 m (e.2 + 1) e.1) []

theorem get_foldl_zipIdx (rs : List Nat) (n : Nat) (m : KV Nat) (k : Nat) :
    KV.get 0 ((rs.zipIdx n).foldl (fun m e => KV.set 0 m (e.2 + 1) e.1) m) (k + 1) =
      if n ≤ k ∧ k < n + rs.length then rs.getD (k - n) 0 else KV.get 0 m (k + 1) := by
  induction rs generalizing n m with
  | nil => rw [List.zipIdx_nil, List.foldl_nil, if_neg (by simp only [List.length_nil]; omega)]
  | cons r rs ih =>
    rw [List.zipIdx_cons, List.foldl_cons, ih, KV.get_set, List.length_cons]
    by_cases hk : k = n
    · subst hk
      rw [if_neg (by omega), if_pos rfl, if_pos (by omega), Nat.sub_self]
      rfl
    · rw [if_neg (show ¬ k + 1 = n + 1 by omega)]
      by_cases hin : n + 1 ≤ k ∧ k < n + 1 + rs.length
      · rw [if_pos hin, if_pos (by omega), show k - n = (k - (n + 1)) + 1 by omega, List.getD_cons_succ]
      · rw [if_neg hin, if_neg (by omega)]

theorem get_roleMap {b : List Byte} (hlen : 5 ≤ b.length) {k : Nat} (hk : k < 5) :
    KV.get 0 (roleMap (nats (b.take 5))) (k + 1) = (b.getD k 0).toNat := by
  have hlen5 : (nats (b.take 5)).length = 5 := by
    unfold nats
    rw [List.length_map, List.length_take]
    omega
  unfold roleMap
  rw [get_foldl_zipIdx, hlen5, if_pos (by omega), Nat.sub_zero]
  unfold nats
  rw [List.getD_eq_getElem?_getD, List.getElem?_map, List.getElem?_take_of_lt hk, List.getD_eq_getElem?_getD,
    List.getElem?_eq_getElem (by omega)]
  rfl

/-- SET_ROLES with codes that the table has, signed by the owner. -/
theorem setRoles_ok {i : Iface} (hi : i ≠ .doe) {b : List Byte} {s : State} (hrange : ∀ x ∈ b.take 5, x.toNat ≤ 3)
    (hmbx : 1 ≤ (b.headD 0).toNat) (hlen : 5 ≤ b.length) (hsig : ownerSigned s (b.take 5) (b.drop 5) = true) :
    setRoles i b s = ([0, 0], (s.changeTo (s.modMp fun p => { p with roles := roleMap (nats (b.take 5)) }) i.origin 3 8 0).modMp
      fun p => { p with ownerCtr := p.ownerCtr + 1 }) := by
  have hok : ¬ ((nats (b.take 5)).any (fun r => decide (3 < r)) = true ∨ (nats (b.take 5)).headD 0 = 0) := by
    rintro (h | h)
    · obtain ⟨r, hr, h3⟩ := List.any_eq_true.1 h
      obtain ⟨x, hx, rfl⟩ := List.mem_map.1 hr
      exact absurd (hrange x hx) (Nat.not_le.2 (of_decide_eq_true h3))
    · cases b with
      | nil => cases hlen
      | cons x b => exact absurd hmbx (Nat.not_le.2 (Nat.lt_one_iff.2 h))
  unfold setRoles asOwner
  rw [if_neg hi, if_pos hsig]
  dsimp only
  rw [if_neg hok]
  rfl

/-- SET_ROLES with codes that the table has not, signed by the owner. -/
theorem setRoles_refused {i : Iface} (hi : i ≠ .doe) {b : List Byte} {s : State}
    (hbad : (∃ x ∈ b.take 5, 3 < x.toNat) ∨ b.headD 0 = 0) (hsig : ownerSigned s (b.take 5) (b.drop 5) = true) :
    setRoles i b s = (leBytes 2 0x0802, s) := by
  have hno : (nats (b.take 5)).any (fun r => decide (3 < r)) = true ∨ (nats (b.take 5)).headD 0 = 0 := by
    refine hbad.imp ?_ ?_
    · rintro ⟨x, hx, h3⟩
      exact List.any_eq_true.2 ⟨x.toNat, List.mem_map.2 ⟨x, hx, rfl⟩, decide_eq_true h3⟩
    · intro h
      cases b with
      | nil => rfl
      | cons x b => exact congrArg BitVec.toNat h
  unfold setRoles asOwner
  rw [if_neg hi, if_pos hsig]
  dsimp only
  rw [if_pos hno]
  rfl

/-- SET_ROLES without the owner's signature is refused and logged (R469). -/
theorem setRoles_unsigned {i : Iface} (hi : i ≠ .doe) {b : List Byte} {s : State}
    (hsig : ¬ ownerSigned s (b.take 5) (b.drop 5) = true) :
    setRoles i b s = (leBytes 2 0x090A, s.log Code.ownerAuth originMp 0xFF 0 0) := by
  unfold setRoles asOwner
  rw [if_neg hi, if_neg hsig]
  rfl

theorem ownerSigned_of_none {s : State} (h : s.mp.ownerKey = none) (body sig : List Byte) : ¬ ownerSigned s body sig = true := by
  unfold ownerSigned
  rw [h]
  exact Bool.false_ne_true

/-- Settles O60: the refusals by the role, each command by its own equation. -/
theorem vendorCommands : Obligations.VendorCommands := by
  unfold Obligations.VendorCommands
  intro i b s hon hi hlen
  refine ⟨?_, fun hrole => ⟨?_, ?_, ?_, ?_⟩, fun hrole => ⟨?_, ?_, ?_, ?_, ?_, ?_⟩, ?_, ?_, ?_⟩
  · simp only [List.forall_mem_cons]
    refine ⟨?_, ?_, ?_, ?_, ?_, ?_, ?_, fun _ h => absurd h List.not_mem_nil⟩
    all_goals exact fun hlack => vendor_lacking hon hi hlen hlack _
  · exact fun hflash hfit hfrom => vendor_served hon hlen (getLog_all hi hrole hflash hfit hfrom)
  · exact fun hfit hfrom => vendor_served hon hlen (getChanges_all hi hrole hfit hfrom)
  · exact vendor_served hon hlen (onVendor_of_held hi hrole _)
  · by_cases hok : serviceOk s b = true
    · obtain ⟨t, hserve, hrest⟩ := serviceRecord_ok hi hrole hok
      refine ⟨_, vendor_served hon hlen hserve, ?_⟩
      rw [if_pos hok]
      exact ⟨rfl, hrest⟩
    · refine ⟨_, vendor_served hon hlen ((onVendor_of_held hi hrole _).trans (if_neg hok)), ?_⟩
      rw [if_neg hok]
      exact ⟨rfl, rfl, head?_log s _ _ _ _ _⟩
  · exact fun hlt hmono => vendor_served hon hlen (setTime_ok hi hrole hlt hmono)
  · exact fun hset hback => vendor_served hon hlen (setTime_back hi hrole hset hback)
  · intro g hput
    exact ⟨_, vendor_served hon hlen (setConfig_ok hi hrole hput), rfl, config_of_offLogs (offLogs_changeTo _ _ _ _ _ _),
      changeSeq_changeTo s (s.modMp fun p => { p with config := g }) _ _ _ _⟩
  · exact fun hput => vendor_served hon hlen (setConfig_refused hi hrole hput)
  · exact fun hgood hsvn hfloor => ⟨_, vendor_served hon hlen (commitSvn_raises hi hrole hgood hsvn hfloor), rfl,
      floor_of_offLogs (offLogs_changeTo _ _ _ _ _ _)⟩
  · exact fun hnone hkey => ⟨_, vendor_served hon hlen (takeOwnership_first hi hrole hnone hkey), rfl,
      ownerKey_of_offLogs (offLogs_changeTo _ _ _ _ _ _)⟩
  · intro hrange hmbx h5
    by_cases hsig : ownerSigned s (b.take 5) (b.drop 5) = true
    · have hoff := offLogs_changeTo s (s.modMp fun p => { p with roles := roleMap (nats (b.take 5)) }) i.origin 3 8 0
      refine ⟨_, vendor_served hon hlen (setRoles_ok hi hrange hmbx h5 hsig), ?_⟩
      rw [if_pos hsig]
      have hctr := ownerCtr_of_offLogs hoff
      refine ⟨rfl, congrArg (· + 1) hctr, fun k hk => ?_⟩
      exact (congrArg (fun m => KV.get 0 m (k + 1)) (roles_of_offLogs hoff)).trans (get_roleMap h5 hk)
    · refine ⟨_, vendor_served hon hlen (setRoles_unsigned hi hsig), ?_⟩
      rw [if_neg hsig]
      exact ⟨rfl, rfl, rfl, head?_log s _ _ _ _ _⟩
  · exact fun hsig hbad => vendor_served hon hlen (setRoles_refused hi hbad hsig)
  · exact fun hnone => ⟨_, vendor_served hon hlen (setRoles_unsigned hi (ownerSigned_of_none hnone _ _)), rfl, rfl⟩

end Sys2Proof.Laws
end

section
/-!
SUPPORT. Firmware updates (R479, R480, R483).
-/

namespace Sys2Proof.Laws

open Machine

/-! ### The slots of the firmware -/

theorem fw_setFw (p : Mp) (n : Nat) (f : FwSlot) : (p.setFw n f).fw n = f := by
  unfold Mp.setFw Mp.fw
  by_cases h : n = 0
  · rw [if_pos h, if_pos h]
  · rw [if_neg h, if_neg h]

theorem fw_of_offLogs {p q : Mp} (h : offLogs p = offLogs q) (n : Nat) : p.fw n = q.fw n := by
  have ha : p.slotA = q.slotA := (congrArg Mp.slotA h :)
  have hb : p.slotB = q.slotB := (congrArg Mp.slotB h :)
  unfold Mp.fw
  rw [ha, hb]

theorem update_of_offLogs {p q : Mp} (h : offLogs p = offLogs q) : p.update = q.update := (congrArg Mp.update h :)
theorem active_of_offLogs {p q : Mp} (h : offLogs p = offLogs q) : p.active = q.active := (congrArg Mp.active h :)

theorem offLogs_tellUpdate (code : Nat) (body : List Byte) (u : FwUpdate) (s : State) :
    offLogs (tellUpdate code body u s).mp = offLogs s.mp := offLogs_originate s _ _

theorem offLogs_askData (u : FwUpdate) (s : State) : offLogs (askData u s).mp = offLogs s.mp := by
  unfold askData
  split
  · exact offLogs_originate s _ _
  · rfl

theorem fw_setUpdate (u : Option FwUpdate) (s : State) (n : Nat) : (setUpdate u s).mp.fw n = s.mp.fw n := rfl

theorem changeSeq_originate (s : State) (o : Nat) (m : List Byte) : (s.originate o m).mp.changeSeq = s.mp.changeSeq := by
  unfold State.originate
  rw [modMp_mp]
  split <;> rfl

/-! ### Requests of the update in progress -/

theorem inUpdate_of {i : Iface} {s : State} {g : FwUpdate} (hrole : 2 ≤ roleOf s i) (hg : s.mp.update = some g)
    (hi : g.iface = i.origin) (f : FwUpdate → State → Answer) : inUpdate i f s = f g s := by
  unfold inUpdate
  rw [withRole_of_held hrole, hg]
  exact if_pos hi

/-! ### Data of a component (R479) -/

/-- The update once data of component `id` of a bundle has come: the slot that does not run has no valid bundle. -/
def begun (s : State) (id : Nat) (g : FwUpdate) : FwUpdate :=
  if id ≤ 3 then { g with old := some (g.old.getD (s.formHash 5 (1 - s.mp.running))), ready := false } else g

/-- The slots once data of component `id` has come. -/
def slotBegun (s : State) (id : Nat) : State := if id ≤ 3 then s.modMp fun p => p.setFw (1 - s.mp.running) .none else s

theorem firmwareData_part {i : Iface} {b : List Byte} {s : State} {g : FwUpdate} {id size : Nat} (hrole : 2 ≤ roleOf s i)
    (hg : s.mp.update = some g) (hi : g.iface = i.origin) (hcur : g.cur = some (id, size))
    (hlt : g.got.length + (b.length - 1) < size) : firmwareData i b s =
      ([], askData { begun s id g with got := g.got ++ b.drop 1 }
        (setUpdate (some { begun s id g with got := g.got ++ b.drop 1 }) (slotBegun s id))) := by
  have hlen : (g.got ++ b.drop 1).length = g.got.length + (b.length - 1) := by rw [List.length_append, List.length_drop]
  have htake : (g.got ++ b.drop 1).take size = g.got ++ b.drop 1 := List.take_of_length_le (by omega)
  unfold firmwareData
  rw [inUpdate_of hrole hg hi, hcur]
  dsimp only
  rw [htake, if_pos (by omega), ← hcur]
  rfl

/-- The update once component `id` of a bundle is whole. -/
def wholePart (s : State) (id : Nat) (got : List Byte) (g : FwUpdate) : FwUpdate :=
  { g with
    cur := none, got := [], done := g.done.filter (fun e => e.1 != id) ++ [(id, got)]
    ready := false, old := some (g.old.getD (s.formHash 5 (1 - s.mp.running))) }

/-- The state once component `id` of a bundle is whole, before the bundle is looked at. -/
def partTold (s : State) (id : Nat) (u : FwUpdate) : State := tellUpdate 0x16 [0] u (setUpdate (some u) (slotBegun s id))

theorem firmwareData_whole {i : Iface} {b : List Byte} {s : State} {g : FwUpdate} {id : Nat} (hrole : 2 ≤ roleOf s i)
    (hg : s.mp.update = some g) (hi : g.iface = i.origin) (hcur : g.cur = some (id, g.got.length + (b.length - 1))) (hid : id ≤ 3) :
    firmwareData i b s =
      let u := wholePart s id (g.got ++ b.drop 1) g
      if u.bundle.all (fun c => u.done.any fun e => e.1 == c) then ([], takeBundle u (roleOf s i) (partTold s id u))
      else ([], partTold s id u) := by
  have hlen : (g.got ++ b.drop 1).length = g.got.length + (b.length - 1) := by rw [List.length_append, List.length_drop]
  have htake : (g.got ++ b.drop 1).take (g.got.length + (b.length - 1)) = g.got ++ b.drop 1 := List.take_of_length_le (by omega)
  unfold firmwareData
  rw [inUpdate_of hrole hg hi, hcur]
  dsimp only
  rw [htake, if_neg (by omega), if_neg (show ¬ id = 4 by omega)]
  simp only [if_pos hid]
  unfold partTold slotBegun
  rw [if_pos hid]
  rfl

theorem offLogs_partTold (s : State) (id : Nat) (u : FwUpdate) :
    offLogs (partTold s id u).mp = offLogs (setUpdate (some u) (slotBegun s id)).mp := offLogs_tellUpdate _ _ _ _

theorem setFw_view {β : Type} (P : Mp → β) (hP : ∀ p a b, P { p with slotA := a, slotB := b } = P p) (p : Mp) (n : Nat) (f : FwSlot) :
    P (p.setFw n f) = P p := by
  unfold Mp.setFw
  split
  · exact hP p f p.slotB
  · exact hP p p.slotA f

/-- What of the MP the firmware slots do not tell. -/
theorem slotBegun_view {β : Type} (P : Mp → β) (hP : ∀ p a b, P { p with slotA := a, slotB := b } = P p) (s : State) (id : Nat) :
    P (slotBegun s id).mp = P s.mp := by
  unfold slotBegun
  split
  · exact setFw_view P hP _ _ _
  · rfl

theorem fw_slotBegun (s : State) {id : Nat} (h : id ≤ 3) : (slotBegun s id).mp.fw (1 - s.mp.running) = .none := by
  unfold slotBegun
  rw [if_pos h, modMp_mp, fw_setFw]

/-- The slot that does not run once a change of it is recorded (R470). -/
theorem fw_recordSlot (f : FwSlot) (u : FwUpdate) (role : Nat) (s : State) :
    (recordSlot f u role s).mp.fw (1 - s.mp.running) = f := by
  unfold recordSlot
  rw [fw_of_offLogs (offLogs_change _ _ _ _ _ _ _), modMp_mp, fw_setFw]

theorem changeSeq_recordSlot (f : FwSlot) (u : FwUpdate) (role : Nat) (s : State) :
    s.mp.changeSeq < (recordSlot f u role s).mp.changeSeq := by
  have hchange := changeSeq_change (s.modMp fun p => p.setFw (1 - s.mp.running) f) u.iface role 5 (1 - s.mp.running)
    (u.old.getD (s.formHash 5 (1 - s.mp.running)))
    ((s.modMp fun p => p.setFw (1 - s.mp.running) f).formHash 5 (1 - s.mp.running))
  rwa [modMp_mp, setFw_view Mp.changeSeq (fun _ _ _ => rfl)] at hchange

/-- What the verification of a bundle leaves in the slot that does not run (R479): the bundle or nothing, and a change record. -/
theorem takeBundle_slot (u : FwUpdate) (role : Nat) (s : State) :
    ((takeBundle u role s).mp.fw (1 - s.mp.running)).good = false ∧
      ((takeBundle u role s).mp.fw (1 - s.mp.running)).verifies = (match Config.bundle u.done with
        | some v => decide (s.mp.floor ≤ bitsOf v.toNat 29 24)
        | none => false) ∧ s.mp.changeSeq < (takeBundle u role s).mp.changeSeq := by
  have hrefuse : ∀ code, (tellRefusal code u (setUpdate (some { u with old := none }) (recordSlot .none u role s))).mp.fw
      (1 - s.mp.running) = .none := fun code => by
    unfold tellRefusal
    rw [fw_of_offLogs (offLogs_tellUpdate _ _ _ _), fw_setUpdate, fw_recordSlot]
  have hseq : ∀ code, s.mp.changeSeq <
      (tellRefusal code u (setUpdate (some { u with old := none }) (recordSlot .none u role s))).mp.changeSeq := fun code => by
    unfold tellRefusal tellUpdate
    rw [changeSeq_originate]
    exact changeSeq_recordSlot _ _ _ _
  unfold takeBundle
  dsimp only
  cases hb : Config.bundle u.done with
  | none =>
    dsimp only
    rw [hrefuse]
    exact ⟨rfl, rfl, hseq _⟩
  | some v =>
    dsimp only
    by_cases hfloor : bitsOf v.toNat 29 24 < s.mp.floor
    · rw [if_pos hfloor, hrefuse, decide_eq_false (Nat.not_le.2 hfloor)]
      exact ⟨rfl, rfl, hseq _⟩
    · rw [if_neg hfloor, decide_eq_true (Nat.not_lt.1 hfloor)]
      unfold tellApplied
      rw [fw_of_offLogs (offLogs_tellUpdate _ _ _ _), fw_of_offLogs (offLogs_tellUpdate _ _ _ _), fw_setUpdate, fw_recordSlot]
      refine ⟨rfl, rfl, ?_⟩
      unfold tellUpdate
      rw [changeSeq_originate, changeSeq_originate]
      exact changeSeq_recordSlot _ _ _ _

/-! ### The other requests -/

theorem requestUpdate_of_idle {i : Iface} {s : State} (hrole : 2 ≤ roleOf s i) (h : s.mp.update = none) : requestUpdate i s =
    ([0, 0, 0, 0], s.modMp fun p => { p with update := some ⟨i.origin, [], none, [], [], false, none⟩ }) := by
  unfold requestUpdate
  rw [withRole_of_held hrole, h]
  rfl

theorem requestUpdate_of_busy {i : Iface} {s : State} (hrole : 2 ≤ roleOf s i) (h : s.mp.update.isSome = true) :
    requestUpdate i s = ([0x81], s) := by
  unfold requestUpdate
  rw [withRole_of_held hrole]
  exact if_pos h

section
variable {i : Iface} {b : List Byte} {s : State} {g : FwUpdate} (hrole : 2 ≤ roleOf s i) (hg : s.mp.update = some g)
  (hi : g.iface = i.origin)
include hrole hg hi

theorem passComponent_new (hlo : 1 ≤ bnum b 3 2) (hhi : bnum b 3 2 ≤ 4) (hnew : bnum b 3 2 ∉ g.table) : passComponent i b s =
    ([0, 0, 0], setUpdate (some { g with table := g.table ++ [bnum b 3 2] }) s) := by
  have helem : g.table.elem (bnum b 3 2) = false := by
    rw [List.elem_eq_mem]
    exact decide_eq_false hnew
  unfold passComponent
  rw [inUpdate_of hrole hg hi]
  dsimp only
  rw [if_neg (by omega), helem]
  rfl

theorem updateComponent_of_table (hin : bnum b 2 2 ∈ g.table) (hcur : g.cur = none) : updateComponent i b s =
    ([0, 0, 0] ++ leBytes 4 0 ++ leBytes 2 0, askData { g with cur := some (bnum b 2 2, bnum b 9 4), got := [] }
      (setUpdate (some { g with cur := some (bnum b 2 2, bnum b 9 4), got := [] }) s)) := by
  have helem : g.table.elem (bnum b 2 2) = true := List.elem_iff.2 hin
  unfold updateComponent
  rw [inUpdate_of hrole hg hi]
  dsimp only
  rw [if_neg (by rw [helem, hcur]; decide)]

theorem activateFirmware_ready (hcur : g.cur = none) (hready : g.ready = true) : activateFirmware i s =
    ([0, 0, 0], s.modMp fun p => { p with active := 1 - p.running, update := none }) := by
  unfold activateFirmware
  rw [inUpdate_of hrole hg hi]
  dsimp only
  rw [if_neg (by rw [hcur, hready]; simp), hready]
  rfl

theorem activateFirmware_busy (hcur : g.cur.isSome = true) : activateFirmware i s = ([0x85], s) := by
  unfold activateFirmware
  rw [inUpdate_of hrole hg hi]
  exact if_pos (Or.inl hcur)

theorem cancelComponent_of_cur (hcur : g.cur.isSome = true) :
    cancelComponent i s = ([0], setUpdate (some { g with cur := none, got := [] }) s) := by
  unfold cancelComponent
  rw [inUpdate_of hrole hg hi]
  refine if_neg fun hnone => ?_
  rw [Option.isNone_iff_eq_none.1 hnone] at hcur
  cases hcur

theorem cancelUpdate_eq : cancelUpdate i s =
    (List.replicate 10 0, setUpdate none (if g.old.isSome then recordSlot .none g (roleOf s i) s else s)) := by
  unfold cancelUpdate
  rw [inUpdate_of hrole hg hi]
  rfl

end

/-- Data that is not the last of its component. -/
theorem part_received (s : State) (id : Nat) (g : FwUpdate) (got : List Byte) :
    let u := askData { begun s id g with got := got } (setUpdate (some { begun s id g with got := got }) (slotBegun s id))
    (id ≤ 3 → u.mp.update = some { g with
        got := got, ready := false, old := some (g.old.getD (s.formHash 5 (1 - s.mp.running))) } ∧
      (u.mp.fw (1 - s.mp.running)).verifies = false) ∧
    (3 < id → u.mp.update = some { g with got := got }) ∧ u.mp.active = s.mp.active := by
  have hoff := offLogs_askData { begun s id g with got := got } (setUpdate (some { begun s id g with got := got }) (slotBegun s id))
  dsimp only
  rw [update_of_offLogs hoff, fw_of_offLogs hoff, active_of_offLogs hoff, fw_setUpdate]
  refine ⟨fun h => ⟨?_, by rw [fw_slotBegun s h]; rfl⟩, fun h => ?_, slotBegun_view Mp.active (fun _ _ _ => rfl) s id⟩
  · unfold begun
    rw [if_pos h]
    rfl
  · unfold begun
    rw [if_neg (Nat.not_le.2 h)]
    rfl

/-- A bundle is whole when every component of its table has come. -/
theorem bundle_whole (u : FwUpdate) :
    u.bundle.all (fun c => u.done.any fun e => e.1 == c) = true ↔ ∀ k ∈ u.table, k ≤ 3 → ∃ e ∈ u.done, e.1 = k := by
  unfold FwUpdate.bundle
  simp only [List.all_eq_true, List.mem_filter, decide_eq_true_eq, List.any_eq_true, beq_iff_eq, and_imp]

/-- Settles O58: each request by its equation; the slot that does not run by what a part and a whole bundle leave in it. -/
theorem firmwareUpdates : Obligations.FirmwareUpdates := by
  unfold Obligations.FirmwareUpdates
  intro i b s hon hm hrole hlen
  refine ⟨fun h => mctp_served hon hm hlen (requestUpdate_of_idle hrole h),
    fun h => mctp_served hon hm hlen (requestUpdate_of_busy hrole h), fun g hg hi => ⟨?_, ?_, ?_, ?_, ?_, ?_, ?_, ?_, ?_, ?_⟩⟩
  · exact fun hlo hhi hnew => mctp_served hon hm hlen (passComponent_new hrole hg hi hlo hhi hnew)
  · intro hin hcur
    exact ⟨_, mctp_served hon hm hlen (updateComponent_of_table hrole hg hi hin hcur), update_of_offLogs (offLogs_askData _ _)⟩
  · intro id size hcur hlt
    exact ⟨_, mctp_served hon hm (by omega) (firmwareData_part hrole hg hi hcur hlt), part_received s id g _⟩
  · intro id hcur hlo hhi hmiss
    obtain ⟨k, hk, hk3, hne, hnone⟩ := hmiss
    have hserve := firmwareData_whole hrole hg hi hcur hhi
    dsimp only at hserve
    rw [if_neg fun hall => ?_] at hserve
    · exact ⟨_, mctp_served hon hm (by omega) hserve, update_of_offLogs (offLogs_partTold _ _ _)⟩
    · obtain ⟨e, he, hek⟩ := (bundle_whole _).1 hall k hk hk3
      rcases List.mem_append.1 he with he | he
      · exact hnone e (List.mem_of_mem_filter he) hek
      · rw [List.mem_singleton.1 he] at hek
        exact hne hek.symm
  · exact fun hcur hready => mctp_served hon hm hlen (activateFirmware_ready hrole hg hi hcur hready)
  · exact fun hcur => mctp_served hon hm hlen (activateFirmware_busy hrole hg hi hcur)
  · exact fun hcur => mctp_served hon hm hlen (cancelComponent_of_cur hrole hg hi hcur)
  · intro hold
    have hserve := cancelUpdate_eq hrole hg hi
    rw [hold] at hserve
    exact mctp_served hon hm hlen hserve
  · intro hold
    have hserve := cancelUpdate_eq hrole hg hi
    rw [if_pos hold] at hserve
    exact ⟨_, mctp_served hon hm hlen hserve, rfl, rfl, congrArg FwSlot.verifies (fw_recordSlot .none g (roleOf s i) s),
      changeSeq_recordSlot .none g (roleOf s i) s⟩
  · intro id hcur hlo hhi hin hall
    have hserve := firmwareData_whole hrole hg hi hcur hhi
    dsimp only at hserve
    rw [if_pos ((bundle_whole _).2 fun k hk hk3 => ?_)] at hserve
    · refine ⟨_, mctp_served hon hm (by omega) hserve, ?_⟩
      have hslot := takeBundle_slot (wholePart s id (g.got ++ b.drop 1) g) (roleOf s i) (partTold s id (wholePart s id (g.got ++ b.drop 1) g))
      have hoff := offLogs_partTold s id (wholePart s id (g.got ++ b.drop 1) g)
      have hrun : (partTold s id (wholePart s id (g.got ++ b.drop 1) g)).mp.running = s.mp.running :=
        (congrArg Mp.running hoff :).trans (slotBegun_view Mp.running (fun _ _ _ => rfl) s id)
      have hfloor : (partTold s id (wholePart s id (g.got ++ b.drop 1) g)).mp.floor = s.mp.floor :=
        (congrArg Mp.floor hoff :).trans (slotBegun_view Mp.floor (fun _ _ _ => rfl) s id)
      have hseq : (partTold s id (wholePart s id (g.got ++ b.drop 1) g)).mp.changeSeq = s.mp.changeSeq :=
        (changeSeq_originate _ _ _).trans (slotBegun_view Mp.changeSeq (fun _ _ _ => rfl) s id)
      rw [hrun, hfloor, hseq] at hslot
      exact hslot
    · by_cases hk' : k = id
      · exact ⟨(id, g.got ++ b.drop 1), List.mem_append_right _ (List.mem_singleton_self _), hk'.symm⟩
      · obtain ⟨e, he, hek⟩ := hall k hk hk3 hk'
        refine ⟨e, List.mem_append_left _ (List.mem_filter.2 ⟨he, ?_⟩), hek⟩
        rw [hek]
        simpa using hk'

end Sys2Proof.Laws
end

section
/-!
SUPPORT. Transports of the management processor: endpoints, OP_MCTP, MGMT packets, I3C and boundary scan (R463, R483, R484, R490).
-/

namespace Sys2Proof.Laws

open Machine

/-! ### Endpoint settings -/

theorem setEid_ok {i : Iface} {op eid : Byte} (s : State) (hop : op.toNat % 4 ≤ 1) (h0 : eid ≠ 0) (hff : eid ≠ 0xFF) :
    setEid i [op, eid] s = ([0, 0, eid, 0], s.modMp fun p => { p with eids := KV.set 0 p.eids i.origin eid }) := by
  have hnum : bnum [op, eid] 0 1 = op.toNat := leNat_singleton op
  unfold setEid
  dsimp only
  rw [hnum, if_neg (show ¬ [op, eid].length < 2 from Nat.lt_irrefl 2), if_pos hop]
  exact if_neg (by rintro (h | h); exacts [h0 h, hff h])

theorem setEventReceiver_ok {i : Iface} {g e : Byte} {s : State} (hrole : 2 ≤ roleOf s i) : setEventReceiver i [g, 0, e] s =
    ([0], s.modMp fun p => { p with eventRx := if g = 0 then none else some (leBytes 1 i.origin ++ [e]) }) := by
  have hnum : bnum [g, 0, e] 0 1 = g.toNat := leNat_singleton g
  have hzero : bnum [g, 0, e] 1 1 = 0 := rfl
  unfold setEventReceiver
  rw [withRole_of_held hrole, hnum, hzero]
  by_cases hg : g = 0
  · subst hg
    rfl
  · rw [if_neg (show ¬ g.toNat = 0 from fun h => hg (BitVec.eq_of_toNat_eq h)), if_neg (not_not_intro rfl), if_neg hg]
    rfl

/-! ### OP_MCTP (R484) -/

/-- The answer of OP_MCTP with a message. -/
def mctpBody (more : Nat) (msg : List Byte) : List Byte := leBytes 2 msg.length ++ leBytes 1 more ++ List.replicate 5 0 ++ msg

theorem opMctp_poll {m : Nat} {s : State} {r : Request} (hr : s.request m Op.mctp = some r) (hzero : r.zero 3 5 = true)
    (hn : r.num 0 2 = 0) (hpoll : r.num 2 1 = 1) : opMctp m s = (s.modMp fun p => { p with mbxQ := p.mbxQ.drop 1 }).respond m 0
      (mctpBody (if s.mp.mbxQ.length ≤ 1 then 0 else 1) ((s.mp.mbxQ.headD []).take 1960)) := by
  have hmore : (!(s.mp.mbxQ.drop 1).isEmpty).toNat = if s.mp.mbxQ.length ≤ 1 then 0 else 1 := by
    match s.mp.mbxQ with
    | [] => rfl
    | [_] => rfl
    | _ :: _ :: l => rw [if_neg (by simp)]; rfl
  unfold opMctp
  rw [hr]
  dsimp only
  rw [hn, hpoll, hzero, if_neg (by decide), if_pos rfl]
  dsimp only
  rw [modMp_mp, hmore]
  rfl

theorem opMctp_message {m : Nat} {s v : State} {r : Request} {a : List Byte} (hr : s.request m Op.mctp = some r)
    (hzero : r.zero 3 5 = true) (hn : 0 < r.num 0 2) (hpoll : r.num 2 1 = 0) (hserve : serveMsg .mailbox (r.payload.drop 8) s = (a, v)) :
    opMctp m s = v.respond m 0 (mctpBody (!v.mp.mbxQ.isEmpty).toNat (a.take 1960)) := by
  unfold opMctp
  rw [hr]
  dsimp only
  rw [hpoll, hzero, if_neg (by simp), if_neg (by decide), if_neg (by omega), hserve]
  rfl

theorem opMctp_refused {m : Nat} {s : State} {r : Request} (hr : s.request m Op.mctp = some r) (hpoll : r.num 2 1 = 1)
    (hn : r.num 0 2 ≠ 0) : opMctp m s = s.respond m 0x0802 [] := by
  unfold opMctp
  rw [hr]
  exact if_pos (Or.inr (Or.inr ⟨hpoll, hn⟩))

/-! ### MGMT packets (R483, log entry 72) -/

theorem getD_drop_toNat (b : List Byte) (n k : Nat) : ((b.drop n).getD k 0).toNat = bnum b (n + k) 1 := by
  unfold bnum
  rw [List.getD_eq_getElem?_getD, List.getElem?_drop]
  cases h : b.drop (n + k) with
  | nil =>
    rw [List.getElem?_eq_none (List.drop_eq_nil_iff.1 h)]
    rfl
  | cons x l =>
    have hx : b[n + k]? = some x := by rw [← List.head?_drop, h]; rfl
    rw [hx]
    exact (leNat_singleton x).symm

theorem bnum_drop (b : List Byte) (n k m : Nat) : bnum (b.drop n) k m = bnum b (n + k) m := by
  unfold bnum
  rw [List.drop_drop]

/-- The assemblies beside that of a MGMT packet's message. -/
def otherAsm (b : List Byte) (s : State) : List MctpAsm := s.mp.asm.filter fun a => a.src != psrc b || a.tag != bnum b 35 1 % 16

/-- The MP serves a whole message that came in MGMT packets and sends the answer back. -/
def mgmtServed (b msg : List Byte) (s : State) : State :=
  let (r, t) := serveMsg .ghlMgmt msg (s.modMp fun p => { p with asm := otherAsm b s })
  forEach (mgmtPkts t.myId (psrc b) ((b.drop 32).getD 2 0) (KV.get 0 s.mp.eids 4) (bnum b 35 1 % 8) r) forward { t with readData := r }

/-- The first unit of a message for this endpoint: it is kept, or served when it is the last too. -/
theorem mgmtHere_first {b : List Byte} {s : State} (hver : bnum b 32 1 = 1)
    (heid : bnum b 33 1 = 0 ∨ bnum b 33 1 = (KV.get 0 s.mp.eids 4).toNat) (hstart : (bnum b 35 1).testBit 7 = true)
    (hlen : bnum b 30 2 ≤ 64) (hunit : (b.drop 36).take (bnum b 30 2) ≠ []) : mgmtHere b s =
      if (bnum b 35 1).testBit 6 = false then
        s.modMp fun p => { p with asm := otherAsm b s ++
          [⟨psrc b, bnum b 35 1 % 16, (bitsOf (bnum b 35 1) 5 4 + 1) % 4, (b.drop 36).take (bnum b 30 2)⟩] }
      else mgmtServed b ((b.drop 36).take (bnum b 30 2)) s := by
  have hver' : (b.drop 32).getD 0 0 = 1 := BitVec.eq_of_toNat_eq ((getD_drop_toNat b 32 0).trans hver)
  have heid' : ¬ ((b.drop 32).getD 1 0 ≠ 0 ∧ (b.drop 32).getD 1 0 ≠ KV.get 0 s.mp.eids 4) := by
    rintro ⟨h0, hown⟩
    rcases heid with h | h
    · exact h0 (BitVec.eq_of_toNat_eq ((getD_drop_toNat b 32 1).trans h))
    · exact hown (BitVec.eq_of_toNat_eq ((getD_drop_toNat b 32 1).trans h))
  have hgot : ¬ 4096 < ([] : List Byte).length + ((b.drop 36).take (bnum b 30 2)).length := by
    rw [List.length_nil, List.length_take]
    omega
  have hempty : ¬ ((b.drop 36).take (bnum b 30 2)).isEmpty = true := fun h => hunit (List.isEmpty_iff.1 h)
  unfold mgmtHere asmOf
  dsimp only
  rw [bnum_drop, List.drop_drop, if_neg ?_, hstart, if_pos rfl]
  · dsimp only
    rw [if_neg (by rintro (h | h); exacts [h rfl, hgot h])]
    split <;> rfl
  · rintro (h | h | h | h)
    · exact h hver'
    · exact hempty h
    · exact absurd h (Nat.not_lt.2 hlen)
    · exact heid' h

/-- What a packet that is sent on leaves: the bytes of the answer, and the update in progress. -/
theorem forward_leaves (b : List Byte) (s : State) :
    ((forward b s).readData, (forward b s).mp.update) = (s.readData, s.mp.update) := by
  have hroute : ∀ t : State, (countNoRoute b t).readData = t.readData ∧ (countNoRoute b t).mp.update = t.mp.update := fun t => by
    unfold countNoRoute
    dsimp only
    split <;> exact ⟨rfl, rfl⟩
  have hlose : ∀ t : State, (losePkt b t).readData = t.readData ∧ (losePkt b t).mp.update = t.mp.update := fun t =>
    ⟨(congrArg State.readData (bystanders_losePkt b t) :), (congrArg Mp.update (mp_of_linkFrame (linkFrame_losePkt b t)) :)⟩
  unfold forward
  split
  · rfl
  · rfl
  · rw [(hlose _).1, (hlose _).2, (hroute s).1, (hroute s).2]
  · rw [(hlose s).1, (hlose s).2]

/-- GetMessageTypeSupport as a message. -/
theorem serveMsg_messageTypes (i : Iface) (s : State) :
    serveMsg i [0, 0x80, 5] s = ([0, 0, 5, 0, 4, 0x00, 0x01, 0x05, 0x7E], s) := rfl

/-- What serving a message of MGMT packets leaves. -/
theorem mgmtServed_leaves (b msg : List Byte) {r : List Byte} (s : State)
    (hserve : serveMsg .ghlMgmt msg (s.modMp fun p => { p with asm := otherAsm b s }) =
      (r, s.modMp fun p => { p with asm := otherAsm b s })) :
    ((mgmtServed b msg s).readData, (mgmtServed b msg s).mp.update) = (r, s.mp.update) := by
  unfold mgmtServed
  rw [hserve]
  exact forEach_view (fun t : State => (t.readData, t.mp.update)) forward_leaves _ _

/-- A whole MGMT packet for the device. -/
theorem mgmtIn_of_here {s : State} {p : Nat} {b : List Byte} (hcar : carriesType ((s.port p).code s.ghl.admitted) Pkt.mgmt = true)
    (htype : ptype b = Pkt.mgmt) (hlen : b.length = 32 * pslots b) (hhere : routeOf s b = .here) :
    mgmtIn p b s = mgmtHere b (freeSlots p b (takeIn p b s)) := by
  unfold mgmtIn
  rw [← htype] at hcar ⊢
  rw [routedIn_of_whole hcar hlen, hhere]

/-! ### Boundary scan (R490) -/

theorem boundaryPins : ∀ (on perst : Bool) (straps : BitVec 3),
    let x := BitVec.ofNat 8 (on.toNat + 2 * on.toNat + 4 * straps.toNat + 32 * (!perst).toNat)
    x.getLsbD 0 = on ∧ x.getLsbD 1 = on ∧ x.toNat / 4 % 8 = straps.toNat ∧ x.getLsbD 5 = !perst := by
  decide

/-! ### The statement -/

/-- Settles O57: settings by their equations, OP_MCTP by its three answers, a MGMT packet by the first unit of its message. -/
theorem managementTransports : Obligations.ManagementTransports := by
  unfold Obligations.ManagementTransports
  refine ⟨fun i b s hon hm => ⟨?_, ?_⟩, fun m s r hon hr hzero => ⟨?_, ?_, ?_⟩,
    fun p b s hon hcar htype hlen hhere _ hver heid hstart => ⟨?_, ?_⟩, fun io s => ⟨?_, ?_⟩, fun w a s hon ha => ⟨?_, ?_⟩⟩
  · rintro op eid rfl hop h0 hff
    refine ⟨_, mctp_served hon hm (Nat.le_trans (Nat.le_refl 2) (by decide)) (setEid_ok s hop h0 hff), rfl, fun k => ?_⟩
    exact KV.get_set _ _ _ _ _
  · rintro g e hrole rfl
    exact ⟨_, mctp_served hon hm (Nat.le_trans (Nat.le_refl 3) (by decide)) (setEventReceiver_ok hrole), rfl, rfl⟩
  · intro hn hpoll
    refine ⟨_, powered_eq hon (opMctp_poll hr hzero hn hpoll), ?_, answered_congr (effectOf_mbx _ _ _) (answered_respond _ _ _ _)⟩
    rw [effectOf_mp, mp_respond, modMp_mp]
  · intro a v hn hpoll hserve
    exact ⟨_, _, powered_eq hon (opMctp_message hr hzero hn hpoll hserve),
      answered_congr (effectOf_mbx _ _ _) (answered_respond _ _ _ _)⟩
  · intro hpoll hn
    exact ⟨_, powered_eq hon (opMctp_refused hr hpoll hn), answered_congr (effectOf_mbx _ _ _) (answered_respond _ _ _ _)⟩
  · intro hend hthree hmsg
    have hin := mgmtIn_of_here hcar htype hlen hhere
    have hfree := (offPorts_freeSlots p b (takeIn p b s)).trans (offPorts_takeIn p b s)
    generalize freeSlots p b (takeIn p b s) = t at hin hfree
    have hmp := mp_of_offPorts hfree
    have hunit : (b.drop 36).take (bnum b 30 2) = [0, 0x80, 5] := by rw [hthree, hmsg]
    rw [mgmtHere_first hver (by rw [hmp]; exact heid) hstart (by omega) (by rw [hunit]; decide), if_neg (by rw [hend]; decide), hunit] at hin
    have hleft := mgmtServed_leaves b [0, 0x80, 5] t (serveMsg_messageTypes _ _)
    generalize mgmtServed b [0, 0x80, 5] t = u at hin hleft
    obtain ⟨hread, hupdate⟩ := Prod.mk.inj hleft
    exact ⟨_, powered_eq hon hin, hread, hupdate.trans (congrArg Mp.update hmp)⟩
  · intro hend hshort hne
    have hin := mgmtIn_of_here hcar htype hlen hhere
    have hfree := (offPorts_freeSlots p b (takeIn p b s)).trans (offPorts_takeIn p b s)
    generalize freeSlots p b (takeIn p b s) = t at hin hfree
    have hmp := mp_of_offPorts hfree
    rw [mgmtHere_first hver (by rw [hmp]; exact heid) hstart hshort hne, if_pos hend] at hin
    refine ⟨_, powered_eq hon hin, _, List.mem_append_right _ (List.mem_singleton_self _), rfl, rfl, ?_, rfl⟩
    dsimp only [bitsOf]
    omega
  · intro hrails
    have hscan : boundaryScan s = s := if_pos (List.isEmpty_iff.2 hrails)
    exact congrArg (fun x => Host.Outcome.next (s.effectOf x)) hscan
  · intro hrails
    have hscan : boundaryScan s = { s with readData :=
        [BitVec.ofNat 8 (s.power.on.toNat + 2 * s.power.on.toNat + 4 * s.straps.toNat + 32 * (!s.power.perst).toNat)] } :=
      if_neg fun h => hrails (List.isEmpty_iff.1 h)
    exact ⟨_, congrArg (fun x => Host.Outcome.next (s.effectOf x)) hscan, boundaryPins s.power.on s.power.perst s.straps⟩
  · rintro (rfl | rfl)
    · exact powered_eq hon (if_pos ha)
    · exact powered_eq hon (if_pos ⟨ha, rfl⟩)
  · rintro t rfl ht
    exact powered_eq hon (if_neg fun h => ht h.2)

end Sys2Proof.Laws
end

section
/-!
SUPPORT. The Mangle's starts and drains (R70, R71, R89, R90, R95, R104 to R106).
-/

namespace Sys2Proof.Laws

open Machine

/-! ### What a start leaves -/

/-- The state without its Lines. -/
def offLines (s : State) : State := { s with tub := { s.tub with lines := [] } }

theorem offLines_modLine (s : State) (k : Nat) (f : LineRec → LineRec) : offLines (s.modLine k f) = offLines s := rfl

/-- A reading operation that starts touches its Line alone (R192). -/
theorem offLines_startRead (c : Nat) (t : Tile) (l party : Nat) (s : State) : offLines (startRead c t l party s) = offLines s := by
  unfold startRead
  split
  · split
    · exact offLines_modLine s _ _
    · rfl
  · rfl

section
variable {s t : State} (h : offLines t = offLines s)
include h

theorem mgl_of_offLines : t.mgl = s.mgl := (congrArg State.mgl h :)
theorem slots_of_offLines : t.slots = s.slots := (congrArg State.slots h :)
theorem tubMem_of_offLines : t.tubMem = s.tubMem := (congrArg State.tubMem h :)
theorem stackMem_of_offLines : t.stackMem = s.stackMem := (congrArg State.stackMem h :)
theorem hostMem_of_offLines : t.hostMem = s.hostMem := (congrArg State.hostMem h :)

end

/-- The motion of the level that an operation starts ends at its duty (R104, R105). -/
theorem hi_startLevel (s : State) (d : MDesc) : (startLevel s d).1.hi = d.duty := by
  unfold startLevel
  dsimp only
  split
  · split
    · next h => exact h.symm
    · rfl
  · split
    · rfl
    · split
      · next h => exact h.symm
      · rfl

theorem startLevel_congr {s t : State} (hmgl : t.mgl = s.mgl) (hnow : t.now = s.now) (d : MDesc) : startLevel t d = startLevel s d := by
  unfold startLevel
  rw [hmgl, hnow]

/-! ### Starts (R70, R106) -/

/-- A command whose time has not come, or that the Mangle cannot take, stays in its queue. -/
theorem mglStart_waits {c : Nat} {s : State} {q : Cmd} (ops : Nat → Bool) (hq : (s.slot c).nextCmd 0 0 = some q)
    (h : s.now < (s.slot c).dueAt 0 q ∨ s.mgl.frozen = true ∨ ∃ o ∈ s.mgl.ops, o.stage ≠ .done) : mglStart ops c s = s := by
  have hwait : ops (mdescOf q.body).opcode = false ∨ (s.slot c).mayStart s.now 0 q = false ∨ s.mgl.frozen = true ∨
      s.mgl.ops.any (fun o => decide (o.stage ≠ .done)) = true := by
    rcases h with h | h | ⟨o, ho, hstage⟩
    · refine Or.inr (Or.inl ?_)
      unfold Ctx.mayStart
      rw [decide_eq_false (p := (s.slot c).dueAt 0 q ≤ s.now) (Nat.not_le.2 h), Bool.and_false]
    · exact Or.inr (Or.inr (Or.inl h))
    · exact Or.inr (Or.inr (Or.inr (List.any_eq_true.2 ⟨o, ho, decide_eq_true hstage⟩)))
  unfold mglStart
  dsimp only
  rw [hq]
  exact if_pos hwait

/-- The rows that an operation reads start at their first slot. -/
def rowsStarted (c : Nat) (o : MglOp) (d : MDesc) (s : State) : State :=
  if o.stage = .swap then forEach (swapNeeds d) (fun n s => startRead c n.1 n.2.1 2 s) s else s

theorem offLines_rowsStarted (c : Nat) (o : MglOp) (d : MDesc) (s : State) : offLines (rowsStarted c o d s) = offLines s := by
  unfold rowsStarted
  split
  · exact forEach_view offLines (fun (n : Tile × Nat × Nat) t => offLines_startRead c n.1 n.2.1 2 t) _ s
  · rfl

/-- A Mangle command that starts within the bound of R106. -/
theorem mglStart_ok {c : Nat} {s : State} {q : Cmd} {d : MDesc} {ops : Nat → Bool} (hq : (s.slot c).nextCmd 0 0 = some q)
    (hmay : (s.slot c).mayStart s.now 0 q = true) (hfrozen : s.mgl.frozen = false) (hfree : ∀ o ∈ s.mgl.ops, o.stage = .done)
    (hd : d = mdescOf q.body) (hops : ops d.opcode = true)
    (hgood : (if d.opcode = 1 ∨ d.opcode = 2 then d.otherBad else d.passBad) = false)
    (hbound : d.duty ≤ s.mgl.level.val s.now ∨ d.duty ≤ levelBound (rangeEnd s (s.slot c) 0 q.range) (startLevel s d).2) :
    mglStart ops c s =
      ((rowsStarted c (newOp c q d) d ((s.modSlot c (Ctx.advance 0 0)).modMgl fun m => { m with ops := m.ops ++ [newOp c q d] })).modMgl
        fun m => { m with level := (startLevel s d).1 }).modCtr fun k =>
          { k with
            lateStart := sat32 k.lateStart ((startLevel s d).2 - (s.slot c).dueAt 0 q)
            slewUp := if decide (s.now < (startLevel s d).2) then sat32 k.slewUp 1 else k.slewUp } := by
  subst hd
  have hgo : ¬ (ops (mdescOf q.body).opcode = false ∨ (s.slot c).mayStart s.now 0 q = false ∨ s.mgl.frozen = true ∨
      s.mgl.ops.any (fun o => decide (o.stage ≠ .done)) = true) := by
    rintro (h | h | h | h)
    · rw [hops] at h; cases h
    · rw [hmay] at h; cases h
    · rw [hfrozen] at h; cases h
    · obtain ⟨o, ho, hstage⟩ := List.any_eq_true.1 h
      exact of_decide_eq_true hstage (hfree o ho)
  have hlevel := startLevel_congr (s := s) (t := s.modSlot c (Ctx.advance 0 0)) rfl rfl (mdescOf q.body)
  have htop : (if (mdescOf q.body).opcode = 2 then min (mdescOf q.body).duty (s.mgl.level.val s.now + 1) else (mdescOf q.body).duty) ≤
      (mdescOf q.body).duty := by
    split
    · exact Nat.min_le_left _ _
    · exact Nat.le_refl _
  unfold mglStart
  dsimp only
  rw [hq]
  dsimp only
  rw [if_neg hgo, if_neg (by rw [hgood]; decide), hlevel]
  refine if_neg ?_
  rintro ⟨hrise, hover⟩
  rcases hbound with h | h
  · exact absurd hrise (Nat.not_lt.2 h)
  · exact absurd hover (Nat.not_lt.2 (Nat.le_trans htop h))

/-- What stands when a Mangle command has started. -/
theorem started_leaves {c : Nat} {s : State} {q : Cmd} {d : MDesc} {u : State}
    (hu : u = ((rowsStarted c (newOp c q d) d ((s.modSlot c (Ctx.advance 0 0)).modMgl fun m => { m with ops := m.ops ++ [newOp c q d] })).modMgl
        fun m => { m with level := (startLevel s d).1 }).modCtr fun k =>
          { k with
            lateStart := sat32 k.lateStart ((startLevel s d).2 - (s.slot c).dueAt 0 q)
            slewUp := if decide (s.now < (startLevel s d).2) then sat32 k.slewUp 1 else k.slewUp }) :
    u.mgl.ops = s.mgl.ops ++ [newOp c q d] ∧ u.mgl.level.hi = d.duty ∧ u.slot c = (s.slot c).advance 0 0 ∧
      u.mgl.ctr.lateStart = sat32 s.mgl.ctr.lateStart ((startLevel s d).2 - (s.slot c).dueAt 0 q) ∧
      u.tubMem = s.tubMem ∧ u.stackMem = s.stackMem ∧ u.hostMem = s.hostMem := by
  have hlines := offLines_rowsStarted c (newOp c q d) d ((s.modSlot c (Ctx.advance 0 0)).modMgl fun m => { m with ops := m.ops ++ [newOp c q d] })
  have hi := hi_startLevel s d
  generalize (startLevel s d).1 = v at hu hi
  generalize rowsStarted c (newOp c q d) d _ = t at hu hlines
  have hmgl := mgl_of_offLines hlines
  have hslot : t.slot c = (s.slot c).advance 0 0 := (slot_congr (slots_of_offLines hlines) c).trans (slot_modSlot s c (Ctx.advance 0 0))
  rw [modMgl_mgl, modSlot_mgl] at hmgl
  subst hu
  unfold State.modCtr
  simp only [modMgl_mgl, hmgl, modMgl_tubMem, modMgl_stackMem, modMgl_hostMem, tubMem_of_offLines hlines, stackMem_of_offLines hlines,
    hostMem_of_offLines hlines, modSlot_tubMem, modSlot_stackMem, modSlot_hostMem]
  exact ⟨trivial, hi, (slot_congr rfl c).trans hslot, trivial, trivial, trivial, trivial⟩

/-- PASS, DUMMY and RAMP by their opcode. -/
theorem starts_of_opcode {n : Nat} {ops : Nat → Bool} (hops : ops n = true) {c : Nat} {s : State} {q : Cmd} {d : MDesc}
    (hq : (s.slot c).nextCmd 0 0 = some q) (hmay : (s.slot c).mayStart s.now 0 q = true) (hfrozen : s.mgl.frozen = false)
    (hfree : ∀ o ∈ s.mgl.ops, o.stage = .done) (hd : d = mdescOf q.body) (hopcode : d.opcode = n)
    (hgood : (if n = 1 ∨ n = 2 then d.otherBad else d.passBad) = false)
    (hbound : d.duty ≤ s.mgl.level.val s.now ∨ d.duty ≤ levelBound (rangeEnd s (s.slot c) 0 q.range) (startLevel s d).2)
    (hon : s.power.on = true) : ∃ u, powered s (mglStart ops c s) = .next u ∧ u.mgl.ops = s.mgl.ops ++ [newOp c q d] ∧
      u.mgl.level.hi = d.duty ∧ u.slot c = (s.slot c).advance 0 0 ∧
      u.mgl.ctr.lateStart = sat32 s.mgl.ctr.lateStart ((startLevel s d).2 - (s.slot c).dueAt 0 q) ∧
      u.tubMem = s.tubMem ∧ u.stackMem = s.stackMem ∧ u.hostMem = s.hostMem := by
  subst hopcode
  have hstart := mglStart_ok hq hmay hfrozen hfree hd hops hgood hbound
  obtain ⟨u, hu⟩ : ∃ u, u = mglStart ops c s := ⟨_, rfl⟩
  have hleft := started_leaves (hu.trans hstart)
  exact ⟨_, powered_eq hon hu.symm, hleft⟩

/-- Settles O42: a command waits by the guard of `mglStart`, and starts by its one remaining branch. -/
theorem mangleStarts : Obligations.MangleStarts := by
  unfold Obligations.MangleStarts
  simp only [List.forall_mem_cons]
  refine ⟨fun c s q d hon hq => ⟨fun h => ?_, fun hmay hfrozen hfree hd hop hgood hbound => ?_⟩,
    fun c s q d hon hq => ⟨fun h => ?_, fun hmay hfrozen hfree hd hop hgood hbound => ?_⟩,
    fun c s q d hon hq => ⟨fun h => ?_, fun hmay hfrozen hfree hd hop hgood hbound => ?_⟩, fun _ h => absurd h List.not_mem_nil⟩
  · exact powered_eq hon (mglStart_waits _ hq h)
  · exact starts_of_opcode (n := 0) rfl hq hmay hfrozen hfree hd hop hgood hbound hon
  · exact powered_eq hon (mglStart_waits _ hq h)
  · exact starts_of_opcode (n := 1) rfl hq hmay hfrozen hfree hd hop hgood hbound hon
  · exact powered_eq hon (mglStart_waits _ hq h)
  · exact starts_of_opcode (n := 2) rfl hq hmay hfrozen hfree hd hop hgood hbound hon

end Sys2Proof.Laws
end

section
/-!
SUPPORT. The Mangle's drains (R89, R90, R95).
-/

namespace Sys2Proof.Laws

open Machine

/-! ### The sums of a vector -/

theorem length_foldr_cons {α β γ : Type} {f : α → List β × γ → List β × γ} (hf : ∀ x r, (f x r).1.length = r.1.length + 1)
    (xs : List α) (z : γ) : (xs.foldr f ([], z)).1.length = xs.length := by
  induction xs with
  | nil => rfl
  | cons x xs ih => rw [List.foldr_cons, hf, ih, List.length_cons]

theorem length_dieSums (d : MDesc) (o : MglOp) (v : VecIn) (die : Nat) : (dieSums d o v die).1.length = 512 := by
  unfold dieSums
  refine (length_foldr_cons (fun x r => ?_) _ _).trans List.length_range
  dsimp only
  split <;> rfl

/-! ### Operations -/

theorem ops_modOp (s : State) (c k : Nat) (f : MglOp → MglOp) :
    (s.modOp c k f).mgl.ops = s.mgl.ops.map fun o => if o.slot = c ∧ o.k = k then f o else o := rfl

/-- What holds of an operation after its change. -/
theorem of_mem_modOp {s : State} {c k : Nat} {f : MglOp → MglOp} {P : MglOp → Prop}
    (hP : ∀ o, P (f o)) : ∀ p ∈ (s.modOp c k f).mgl.ops, p.slot = c → p.k = k → P p := by
  intro p hp hslot hk
  rw [ops_modOp] at hp
  obtain ⟨o, _, rfl⟩ := List.mem_map.1 hp
  by_cases h : o.slot = c ∧ o.k = k
  · rw [if_pos h]
    exact hP o
  · rw [if_neg h] at hslot hk
    exact absurd ⟨hslot, hk⟩ h

/-! ### The steps of a drain -/

/-- The counters of a drain: clamped scales and the outcome of the Hem comparison. -/
def drainCtr (clamps die : Nat) (hem : HemRes) (k : MglCtr) : MglCtr :=
  { k with
    scaleClamp := sat32 k.scaleClamp clamps
    hemSkip := if hem = .skip then sat32 k.hemSkip 1 else k.hemSkip
    hemFail := if hem = .mismatch then KV.upd 0 k.hemFail die (sat32 · 1) else k.hemFail }

/-- The operation once vector `m` has drained on a die. -/
def drainedOp (die m : Nat) (hem : HemRes) (o : MglOp) : MglOp :=
  { o with
    drained := KV.set 0 o.drained die (m + 1)
    compared := o.compared || decide (hem = .pass)
    vecs := if die = 3 then KV.erase o.vecs m else o.vecs }

theorem drained_drainedOp (die m : Nat) (hem : HemRes) (o : MglOp) : KV.get 0 (drainedOp die m hem o).drained die = m + 1 := by
  simp only [drainedOp, KV.get_set_self]

theorem hemFail_drainCtr (clamps die : Nat) (k : MglCtr) :
    KV.get 0 (drainCtr clamps die .mismatch k).hemFail die = sat32 (KV.get 0 k.hemFail die) 1 := by
  simp only [drainCtr, if_true, KV.get_upd_self]

/-- What a count leaves. -/
theorem counted_leaves (s : State) (f : MglCtr → MglCtr) : (s.modCtr f).slots = s.slots ∧ (s.modCtr f).mgl.ops = s.mgl.ops ∧
    (s.modCtr f).mgl.store = s.mgl.store ∧ (s.modCtr f).mgl.written = s.mgl.written ∧ (s.modCtr f).mgl.ctr = f s.mgl.ctr :=
  ⟨rfl, rfl, rfl, rfl, rfl⟩

/-- What a change of an operation leaves. -/
theorem modOp_leaves (s : State) (c k : Nat) (f : MglOp → MglOp) : (s.modOp c k f).slots = s.slots ∧
    (s.modOp c k f).mgl.store = s.mgl.store ∧ (s.modOp c k f).mgl.ctr = s.mgl.ctr := ⟨rfl, rfl, rfl⟩

section
variable {o : MglOp} {die m : Nat} {delta : Int} {s : State} {v : VecIn} {accs : List Acc} {clamps : Nat} {hem : HemRes}
  (hk : o.kZero = false) (hv : v = (KV.find? o.vecs m).getD ⟨[], [], []⟩) (haccs : dieSums o.d o v die = (accs, clamps))
  (hhem : hem = hemCheck o.d o v die accs clamps delta)
include hk hv haccs hhem

/-- A Hem mismatch (R95). -/
theorem drainStep_mismatch (h : hem = .mismatch) : drainStep o die m delta s =
    (opFault o Code.hemMismatch (BitVec.ofNat 48 (m % 16777216 + die * 16777216))
      ((s.modCtr (drainCtr clamps die hem)).modOp o.slot o.k fun o => { o with compared := true })).trigger 0 (unitRow die 0) := by
  unfold drainStep
  dsimp only
  rw [hk, ← hv, haccs]
  simp only [Bool.false_eq_true, if_false]
  rw [← hhem]
  rw [if_pos h]
  rfl

/-- A vector whose sums the store takes, with no output row (R90). -/
theorem drainStep_stored {sums : List Acc} {t : State} (h : hem ≠ .mismatch)
    (hstore : storeStep o die m accs (s.modCtr (drainCtr clamps die hem)) = (some sums, t)) (hmode : ¬ (o.d.accMode = 0 ∨ o.d.accMode = 3)) :
    drainStep o die m delta s = t.modOp o.slot o.k (drainedOp die m hem) := by
  unfold drainCtr at hstore
  unfold drainStep
  dsimp only
  rw [hk, ← hv, haccs]
  simp only [Bool.false_eq_true, if_false]
  rw [← hhem]
  rw [if_neg h, hstore]
  dsimp only
  rw [if_neg hmode]
  rfl

/-- A vector whose sums the store refuses (R90). -/
theorem drainStep_unstored {t : State} (h : hem ≠ .mismatch)
    (hstore : storeStep o die m accs (s.modCtr (drainCtr clamps die hem)) = (none, t)) :
    drainStep o die m delta s = opFault o Code.mglStore 0 t := by
  unfold drainCtr at hstore
  unfold drainStep
  dsimp only
  rw [hk, ← hv, haccs]
  simp only [Bool.false_eq_true, if_false]
  rw [← hhem]
  rw [if_neg h, hstore]

end

/-! ### The store (R90) -/

/-- The class that a written flag names. -/
def storeClass (d : MDesc) : Nat := if d.cls = .half then 2 else 1

/-- The store once a vector's sums stand in it. -/
def stored (d : MDesc) (die sl : Nat) (vals : List Acc) (s : State) : State :=
  s.modMgl fun g =>
    { g with
      store := KV.setList Acc.zero g.store (2048 * sl + 512 * die) vals
      written := KV.set 0 g.written (1024 * die + sl) (storeClass d) }

theorem memoriesView_stored (d : MDesc) (die sl : Nat) (vals : List Acc) (s : State) :
    ((stored d die sl vals s).tubMem, (stored d die sl vals s).stackMem, (stored d die sl vals s).hostMem) = (s.tubMem, s.stackMem, s.hostMem) :=
  rfl

/-- OVERWRITE stores the sums (R90). -/
theorem storeStep_overwrite {o : MglOp} {die m : Nat} {accs : List Acc} (s : State) (hmode : o.d.accMode = 1) (hdup : o.d.accDup = false) :
    storeStep o die m accs s = (some (accs.map (signed o.d)), stored o.d die (o.d.accSlot + m) (accs.map (signed o.d)) s) := by
  have hvals : ((accs.map (signed o.d)).zipIdx.map fun p : Acc × Nat => p.1) = accs.map (signed o.d) := List.zipIdx_map_fst 0 _
  unfold storeStep
  dsimp only
  rw [hmode, hdup, if_neg (by decide), if_neg (by rintro ⟨h, _⟩; exact h rfl)]
  simp only [if_true, ne_eq, not_true_eq_false, decide_false, Bool.false_and, Bool.false_eq_true, if_false]
  rw [hvals]
  rfl

/-- The sums that ADD makes of a vector and what the store holds (R90). -/
def addedTo (d : MDesc) (die sl : Nat) (accs : List Acc) (s : State) : List Acc :=
  (accs.map (signed d)).zipIdx.map fun p => combineAcc d (KV.get Acc.zero s.mgl.store (2048 * sl + (512 * die + p.2))) p.1

/-- ADD with the written flag set to the class (R90). -/
theorem storeStep_add {o : MglOp} {die m : Nat} {accs : List Acc} {s : State} (hmode : o.d.accMode = 2) (hdup : o.d.accDup = false)
    (hflag : KV.get 0 s.mgl.written (1024 * die + (o.d.accSlot + m)) = storeClass o.d) :
    storeStep o die m accs s = (some (addedTo o.d die (o.d.accSlot + m) accs s),
      stored o.d die (o.d.accSlot + m) (addedTo o.d die (o.d.accSlot + m) accs s) s) := by
  have hset : ([o.d.accSlot + m].any fun sl => KV.get 0 s.mgl.written (1024 * die + sl) == 0) = false := by
    rw [List.any_cons, hflag, List.any_nil, Bool.or_false]
    unfold storeClass
    split <;> rfl
  have hclosed : (KV.get 0 s.mgl.written (1024 * die + (o.d.accSlot + m)) != if o.d.cls = .half then 2 else 1) = false := by
    rw [hflag]
    exact bne_self_eq_false _
  unfold storeStep
  dsimp only
  rw [hmode, hdup, if_neg (by decide), if_neg Bool.false_ne_true, hset, if_neg (by rintro ⟨_, h⟩; cases h), hclosed]
  simp only [Bool.and_false, Bool.false_eq_true, if_false, show ¬ (2 : Nat) = 1 by decide]
  rfl

/-- ADD with the written flag clear (R90). -/
theorem storeStep_clear {o : MglOp} {die m : Nat} {accs : List Acc} {s : State} (hmode : o.d.accMode = 2) (hdup : o.d.accDup = false)
    (hflag : KV.get 0 s.mgl.written (1024 * die + (o.d.accSlot + m)) = 0) : storeStep o die m accs s = (none, s) := by
  have hset : ([o.d.accSlot + m].any fun sl => KV.get 0 s.mgl.written (1024 * die + sl) == 0) = true := by
    rw [List.any_cons, hflag]
    rfl
  unfold storeStep
  dsimp only
  rw [hmode, hdup, if_neg (by decide), if_neg Bool.false_ne_true, hset, if_pos ⟨by decide, rfl⟩]

theorem getD_addedTo (d : MDesc) (die sl : Nat) {accs : List Acc} (s : State) {x : Nat} (hx : x < accs.length) :
    (addedTo d die sl accs s).getD x Acc.zero =
      combineAcc d (KV.get Acc.zero s.mgl.store (2048 * sl + 512 * die + x)) ((accs.map (signed d)).getD x Acc.zero) := by
  unfold addedTo
  rw [List.getD_eq_getElem?_getD, List.getElem?_map, List.getElem?_zipIdx, List.getD_eq_getElem?_getD,
    List.getElem?_eq_getElem (by rwa [List.length_map])]
  simp only [Option.map_some, Option.getD_some, Nat.zero_add, Nat.add_assoc]

theorem length_addedTo (d : MDesc) (die sl : Nat) (accs : List Acc) (s : State) : (addedTo d die sl accs s).length = accs.length := by
  unfold addedTo
  rw [List.length_map, List.length_zipIdx, List.length_map]

/-- A place of the store that a vector's sums fill. -/
theorem get_store_stored {d : MDesc} {die sl x : Nat} {vals : List Acc} {s : State} (hx : x < vals.length) :
    KV.get Acc.zero (stored d die sl vals s).mgl.store (2048 * sl + 512 * die + x) = vals.getD x Acc.zero := by
  rw [List.getD_eq_getElem?_getD, List.getElem?_eq_getElem hx]
  exact KV.get_setList_inside Acc.zero vals _ _ x hx

/-- A drain that waits for no row of d_line. -/
theorem drainVector_next {die : Nat} {delta : Int} {s : State} {o : MglOp} {m : Nat} (hfrozen : s.mgl.frozen = false)
    (ho : s.mgl.ops.find? (fun o => decide (KV.get 0 o.drained die < o.total)) = some o) (hm : m = KV.get 0 o.drained die)
    (hlt : m < drainable o die) (hout : o.d.dEn = false ∨ o.d.accMode = 1 ∨ o.d.accMode = 2) :
    drainVector die delta s = drainStep o die m delta s := by
  have hno : ¬ (o.d.dEn = true ∧ (decide (o.d.accMode = 0) || decide (o.d.accMode = 3)) = true) := by
    rintro ⟨hd, hmode⟩
    rcases hout with h | h | h
    · rw [h] at hd; cases hd
    · rw [h] at hmode; cases hmode
    · rw [h] at hmode; cases hmode
  unfold drainVector
  rw [ho]
  dsimp only
  rw [← hm, if_neg (Nat.not_le.2 hlt), if_neg hno, if_neg (by rw [hfrozen]; decide)]

/-- Settles O44: the three ways of the store, and a mismatch, each by the equation of `drainStep` for it. -/
theorem mangleDrains : Obligations.MangleDrains := by
  unfold Obligations.MangleDrains
  rintro die delta s o m v accs hon hfrozen ho hm hlt hk hv haccsEq hdup
  have hlen := length_dieSums o.d o v die
  generalize haccs : dieSums o.d o v die = p at haccsEq hlen ⊢
  obtain ⟨sums, clamps⟩ := p
  dsimp only at haccsEq hlen ⊢
  subst haccsEq
  obtain ⟨hem, hhem⟩ : ∃ hem, hem = hemCheck o.d o v die accs clamps delta := ⟨_, rfl⟩
  rw [← hhem]
  have hlenS : (accs.map (signed o.d)).length = 512 := by rw [List.length_map, hlen]
  refine ⟨fun hne => ⟨fun hmode => ?_, fun hmode hflag => ?_, fun hmode hflag => ?_⟩, fun heq hout => ?_⟩
  · have hstep := (drainVector_next hfrozen ho hm hlt (Or.inr (Or.inl hmode))).trans
      (drainStep_stored hk hv haccs hhem hne (storeStep_overwrite _ hmode hdup) (by omega))
    refine ⟨_, powered_eq hon hstep, of_mem_modOp fun o => drained_drainedOp die m hem o, ?_, ?_, ?_⟩
    · exact getList_setList_of_length _ _ _ hlenS
    · exact KV.get_set_self _ _ _ _
    · have hmem := memoriesView_stored o.d die (o.d.accSlot + m) (accs.map (signed o.d)) (s.modCtr (drainCtr clamps die hem))
      simp only [Prod.mk.injEq] at hmem
      exact hmem
  · obtain ⟨_, _, hstore, hwritten, _⟩ := counted_leaves s (drainCtr clamps die hem)
    generalize hw : s.modCtr (drainCtr clamps die hem) = w at hstore hwritten
    have hstep := (drainVector_next hfrozen ho hm hlt (Or.inr (Or.inr hmode))).trans
      (drainStep_stored hk hv haccs hhem hne (by rw [hw]; exact storeStep_add hmode hdup (by rw [hwritten]; exact hflag)) (by omega))
    refine ⟨_, powered_eq hon hstep, of_mem_modOp fun o => drained_drainedOp die m hem o, fun x hx => ?_⟩
    have hx' : x < accs.length := by rwa [hlen]
    obtain ⟨_, hsame, _⟩ := modOp_leaves (stored o.d die (o.d.accSlot + m) (addedTo o.d die (o.d.accSlot + m) accs w) w) o.slot o.k
      (drainedOp die m hem)
    rw [effectOf_mgl, hsame, get_store_stored (by rwa [length_addedTo]), getD_addedTo _ _ _ w hx', hstore]
  · obtain ⟨hslots, hops, hstore, hwritten, _⟩ := counted_leaves s (drainCtr clamps die hem)
    generalize hw : s.modCtr (drainCtr clamps die hem) = w at hslots hops hstore hwritten
    have hstep := (drainVector_next hfrozen ho hm hlt (Or.inr (Or.inr hmode))).trans
      (drainStep_unstored (t := w) hk hv haccs hhem hne (by rw [hw]; exact storeStep_clear hmode hdup (by rw [hwritten]; exact hflag)))
    exact ⟨w, hslots, hops, hstore, powered_eq hon hstep⟩
  · subst heq
    have hstep := (drainVector_next hfrozen ho hm hlt hout).trans (drainStep_mismatch hk hv haccs hhem rfl)
    obtain ⟨hslots, hops, hstore, _, hctr⟩ := counted_leaves s (drainCtr clamps die .mismatch)
    generalize s.modCtr (drainCtr clamps die .mismatch) = w at hstep hslots hops hstore hctr
    obtain ⟨hslots', hstore', hctr'⟩ := modOp_leaves w o.slot o.k fun p => { p with compared := true }
    have hops' := ops_modOp w o.slot o.k fun p => { p with compared := true }
    generalize (w.modOp o.slot o.k fun p => { p with compared := true }) = x at hstep hslots' hstore' hctr' hops'
    refine ⟨x, hslots'.trans hslots, ?_, hstore'.trans hstore, ?_, powered_eq hon hstep⟩
    · rw [hops', hops, ops_modOp]
    · rw [hctr', hctr]
      exact hemFail_drainCtr clamps die s.mgl.ctr

end Sys2Proof.Laws
end

section
/-!
SUPPORT. Row writes of scheduled parties on Lines (R191), and what ends a Mangle operation (R21, R82, R88, R91, R92).
-/

namespace Sys2Proof.Laws

open Machine

/-! ### What a row's write leaves -/

/-- Lines, partitions, repairs and Mangle: what a row of the Tubs is not part of. -/
def pegs (s : State) : KV LineRec × KV TubPart × KV Nat × Mgl := (s.tub.lines, s.tub.parts, s.bypass, s.mgl)

theorem pegs_eq_iff {s t : State} : pegs t = pegs s ↔
    t.tub.lines = s.tub.lines ∧ t.tub.parts = s.tub.parts ∧ t.bypass = s.bypass ∧ t.mgl = s.mgl := by
  simp [pegs]

@[simp] theorem pegs_lose (a : Ask) (s : State) : pegs (s.lose a) = pegs s := by
  unfold State.lose
  dsimp only
  split
  · rfl
  · split <;> rfl

@[simp] theorem pegs_ask (a : Ask) (s : State) : pegs (s.ask a) = pegs s := by
  unfold State.ask
  extract_lets old above beaten tub asked told
  have htold : pegs told = pegs s := forEach_same pegs pegs_lose _ asked
  split
  · rw [pegs_lose, htold]
  · exact htold

theorem dropRinse_lines (u : Tub) (k : Nat) : (u.dropRinse k).lines = u.lines ∧ (u.dropRinse k).parts = u.parts := by
  unfold Tub.dropRinse
  dsimp only
  split <;> exact ⟨rfl, rfl⟩

/-- The checks of a word that a wide write renews. -/
def freshWord (k : Nat) (u : Tub) (w : Nat) : Tub := { u.setPoison k w false with errs := KV.set 0 u.errs (8 * k + w) 0 }

theorem lines_freshWords (k : Nat) (ws : List Nat) (u : Tub) : (ws.foldl (freshWord k) u).lines = u.lines ∧
    (ws.foldl (freshWord k) u).parts = u.parts := by
  induction ws generalizing u with
  | nil => exact ⟨rfl, rfl⟩
  | cons w ws ih => exact ih (freshWord k u w)

theorem tub_wrRow (s : State) (k : Nat) (r : Row) : (s.wrRow k r).tub = (words8.foldl (freshWord k) s.tub).dropRinse k := rfl

@[simp] theorem pegs_wrRow (s : State) (k : Nat) (r : Row) : pegs (s.wrRow k r) = pegs s := by
  obtain ⟨hlines, hparts⟩ := lines_freshWords k words8 s.tub
  obtain ⟨hlines', hparts'⟩ := dropRinse_lines (words8.foldl (freshWord k) s.tub) k
  rw [← tub_wrRow s k r] at hlines' hparts'
  exact pegs_eq_iff.2 ⟨hlines'.trans hlines, hparts'.trans hparts, rfl, rfl⟩

theorem line_of_pegs {s t : State} (h : pegs t = pegs s) (k : Nat) : t.line k = s.line k := by
  unfold State.line
  rw [(pegs_eq_iff.1 h).1]

theorem lineKey?_congr {s t : State} (hparts : t.tub.parts = s.tub.parts) (hbypass : t.bypass = s.bypass) (c : Nat) (tl : Tile) (l : Nat) :
    lineKey? t c tl l = lineKey? s c tl l := by
  unfold lineKey? State.part State.physTile
  rw [hparts, hbypass]

/-! ### A Line that takes a row -/

/-- Is the slot at the tail peg filled, and does the peg have room to move (R191)? -/
def tailMoves (g : LineCfg) (r : LineRec) : Bool :=
  (if g.fixed then decide (r.tail < g.size) else decide (r.occ g < g.size)) && NSet.mem r.fill (r.tail % g.size)

/-- The tail peg moves by one. -/
def tailMoved (g : LineCfg) (r : LineRec) : LineRec := { r with tail := if g.fixed then r.tail + 1 else (r.tail + 1) % (2 * g.size) }

theorem fillUp_succ (g : LineCfg) (n : Nat) (r : LineRec) :
    LineRec.fillUp g (n + 1) r = if tailMoves g r then LineRec.fillUp g n (tailMoved g r) else r := rfl

/-- The waiting counts play no part in the filling of slots. -/
theorem fillUp_wait (g : LineCfg) (n : Nat) (r : LineRec) (w : KV Nat) :
    LineRec.fillUp g n { r with wait := w } = { LineRec.fillUp g n r with wait := w } := by
  induction n generalizing r with
  | zero => rfl
  | succ n ih =>
    have hmoves : tailMoves g { r with wait := w } = tailMoves g r := rfl
    rw [fillUp_succ, fillUp_succ, hmoves]
    by_cases h : tailMoves g r = true
    · rw [if_pos h, if_pos h]
      exact ih (tailMoved g r)
    · rw [if_neg h, if_neg h]

/-- The party may write the next row of the Line with key `k` and fields `g`, and the Line has room (R189, R191, R193). -/
structure MayWrite (s : State) (c : Nat) (t : Tile) (l : Nat) (u : User) (k : Nat) (g : LineCfg) : Prop where
  key : lineKey? s c t l = some k
  cfg : (s.line k).cfg = some g
  passes : (s.line k).passes u = true
  writer : g.writer = u.party
  inside : ¬ (g.fixed = true ∧ g.size ≤ (s.line k).tail)
  room : ¬ (g.fixed = false ∧ g.size ≤ (s.line k).occ g)

section
variable {s v : State} {c l k : Nat} {t : Tile} {u : User} {g : LineCfg}

theorem mayWrite_of_takes (h : lineTakes s c t l u = .ok (k, true)) (hcfg : (s.line k).cfg = some g) : MayWrite s c t l u k g := by
  unfold lineTakes at h
  split at h
  · cases h
  next hheld =>
  split at h
  · cases h
  next k' g' hline =>
  dsimp only at h
  split at h
  · cases h
  next hinside =>
  obtain ⟨rfl, hroom⟩ := Prod.mk.inj (Except.ok.inj h)
  obtain ⟨hkey, hcfg'⟩ := lineFor_ok hline
  obtain rfl : g' = g := Option.some.inj (hcfg'.symm.trans hcfg)
  have hpasses : (s.line k').passes u = true := by
    unfold heldOff at hheld
    rw [hkey] at hheld
    by_contra hno
    dsimp only at hheld
    rw [if_neg hno] at hheld
    cases hheld
  have hwriter : g'.writer = u.party := by
    unfold lineFor at hline
    rw [hkey] at hline
    dsimp only at hline
    rw [hcfg] at hline
    dsimp only at hline
    by_contra hno
    rw [if_pos (show (if true = true then g'.writer else g'.reader) ≠ u.party from hno)] at hline
    cases hline
  refine ⟨hkey, hcfg, hpasses, hwriter, hinside, ?_⟩
  rintro ⟨hfixed, hfull⟩
  rw [hfixed, Bool.false_or, decide_eq_true_eq] at hroom
  omega

theorem MayWrite.congr (h : MayWrite s c t l u k g) (hparts : v.tub.parts = s.tub.parts) (hbypass : v.bypass = s.bypass)
    (hline : v.line k = s.line k) : MayWrite v c t l u k g := by
  obtain ⟨hkey, hcfg, hpasses, hwriter, hinside, hroom⟩ := h
  exact ⟨(lineKey?_congr hparts hbypass c t l).trans hkey, by rw [hline]; exact hcfg, by rw [hline]; exact hpasses, hwriter,
    by rw [hline]; exact hinside, by rw [hline]; exact hroom⟩

/-- The state in which a party's write finds the Tubs: its wait is over and it has taken its bank. -/
def asked (s : State) (c : Nat) (t : Tile) (l : Nat) (u : User) (k : Nat) (g : LineCfg) : State :=
  (endWait s k u.party).ask (g.ask c t l u.party ((s.line k).tail % g.size))

/-- The state after a party's write of a row (R191). -/
def wrote (s : State) (c : Nat) (t : Tile) (l : Nat) (u : User) (k : Nat) (g : LineCfg) (row : Row) : State :=
  ((asked s c t l u k g).wrRow (slotRow (asked s c t l u k g) c t g ((s.line k).tail % g.size)) row).modLine k fun r =>
    { LineRec.filled g ((s.line k).tail % g.size) r with resv := (LineRec.filled g ((s.line k).tail % g.size) r).tail }

theorem MayWrite.lineWrite (h : MayWrite s c t l u k g) (row : Row) : lineWrite s c t l u row = (.done row, wrote s c t l u k g row) := by
  obtain ⟨hkey, hcfg, hpasses, hwriter, hinside, hroom⟩ := h
  have hheld : heldOff s c t l u = none := by
    unfold heldOff
    rw [hkey]
    exact if_pos hpasses
  have hline : lineFor s c t l u.party true = .ok (k, g) := by
    unfold lineFor
    rw [hkey]
    dsimp only
    rw [hcfg]
    exact if_neg (not_not.2 hwriter)
  unfold Machine.lineWrite
  rw [hheld]
  dsimp only
  rw [hline]
  dsimp only
  rw [if_neg hinside, if_neg hroom]
  rfl

theorem lines_asked : pegs (asked s c t l u k g) = pegs (endWait s k u.party) := pegs_ask _ _

/-- The Line after a write of its next row. -/
theorem tail_wrote (row : Row) : ((wrote s c t l u k g row).line k).tail =
    (LineRec.filled g ((s.line k).tail % g.size) (s.line k)).tail := by
  unfold wrote
  rw [line_modLine, line_of_pegs ((pegs_wrRow _ _ _).trans lines_asked), endWait, line_modLine]
  dsimp only
  unfold LineRec.filled
  rw [fillUp_wait g g.size { s.line k with fill := NSet.add (s.line k).fill ((s.line k).tail % g.size) }]

/-- A write leaves the other Lines. -/
theorem line_wrote_other (row : Row) {j : Nat} (hj : j ≠ k) : (wrote s c t l u k g row).line j = s.line j := by
  unfold wrote
  rw [line_modLine_other _ _ hj, line_of_pegs ((pegs_wrRow _ _ _).trans lines_asked), endWait, line_modLine_other _ _ hj]

/-- What a write leaves of the rest. -/
theorem wrote_leaves (row : Row) : (wrote s c t l u k g row).tub.parts = s.tub.parts ∧ (wrote s c t l u k g row).bypass = s.bypass ∧
    (wrote s c t l u k g row).mgl = s.mgl := by
  obtain ⟨-, hparts, hbypass, hmgl⟩ := pegs_eq_iff.1 ((pegs_wrRow (asked s c t l u k g)
    (slotRow (asked s c t l u k g) c t g ((s.line k).tail % g.size)) row).trans lines_asked)
  exact ⟨hparts, hbypass, hmgl⟩

/-- The row's bytes after its write. -/
theorem getList_wrote (row : Row) :
    KV.getList 0 (wrote s c t l u k g row).tubMem (512 * slotRow s c t g ((s.line k).tail % g.size)) 512 = rowBytes row := by
  have hplace : slotRow (asked s c t l u k g) c t g ((s.line k).tail % g.size) = slotRow s c t g ((s.line k).tail % g.size) :=
    slotRow_congr (backing_ask_endWait _ _ _ _) _ _ _ _
  rw [← hplace, wrote, modLine_tubMem]
  exact getList_wrRow _ _ _

end

/-! ### Held rows (R88) -/

/-- The state once a held row has left the buffer of its tile-column. -/
def rowLeft (s : State) (col : Nat) (h : HoldRow) : State :=
  settleHold (s.modMgl fun m => { m with buf := KV.set [] m.buf col ((KV.get [] s.mgl.buf col).erase h) })

theorem settleHold_buf (s : State) : (settleHold s).mgl.buf = s.mgl.buf ∧ (settleHold s).mgl.ops = s.mgl.ops := by
  unfold settleHold
  rw [modMgl_mgl]
  split
  · exact ⟨rfl, rfl⟩
  · split <;> exact ⟨rfl, rfl⟩

theorem buf_rowLeft (s : State) (col : Nat) (h : HoldRow) :
    KV.get [] (rowLeft s col h).mgl.buf col = (KV.get [] s.mgl.buf col).erase h ∧ (rowLeft s col h).mgl.ops = s.mgl.ops := by
  obtain ⟨hbuf, hops⟩ := settleHold_buf (s.modMgl fun m => { m with buf := KV.set [] m.buf col ((KV.get [] s.mgl.buf col).erase h) })
  exact ⟨(congrArg (fun b => KV.get [] b col) hbuf).trans (KV.get_set_self _ _ _ _), hops⟩

theorem rowLeft_leaves (s : State) (col : Nat) (h : HoldRow) : (rowLeft s col h).tub.parts = s.tub.parts ∧
    (rowLeft s col h).bypass = s.bypass ∧ ∀ k, (rowLeft s col h).line k = s.line k := ⟨rfl, rfl, fun _ => rfl⟩

theorem backing_rowLeft (s : State) (col : Nat) (h : HoldRow) : backing (rowLeft s col h) = backing s := rfl

/-- A row that may go nowhere stays (R88). -/
theorem bufferWrite_none {s : State} {col : Nat}
    (h : (KV.get [] s.mgl.buf col).find? (HoldRow.mayGo s (KV.get [] s.mgl.buf col)) = none) : bufferWrite col s = s := by
  unfold bufferWrite
  dsimp only
  rw [h]

/-- A row whose Lines take it leaves the buffer for them (R88). -/
theorem bufferWrite_some {s t : State} {col : Nat} {h : HoldRow}
    (hh : (KV.get [] s.mgl.buf col).find? (HoldRow.mayGo s (KV.get [] s.mgl.buf col)) = some h)
    (hwrite : destsWrite h.slot h.k h.dests (rowLeft s col h) = (none, t)) : bufferWrite col s = t := by
  unfold rowLeft at hwrite
  unfold bufferWrite
  dsimp only
  rw [hh]
  dsimp only
  rw [hwrite]

theorem destsWrite_cons {s : State} {c k key : Nat} {d : HoldDest} {ds : List HoldDest} {g : LineCfg}
    (h : MayWrite s c (idxTile d.tile) d.line (d.user k) key g) :
    destsWrite c k (d :: ds) s = destsWrite c k ds (wrote s c (idxTile d.tile) d.line (d.user k) key g d.row) := by
  rw [destsWrite, h.lineWrite]

/-! ### The abort signal, completion, parity errors -/

theorem drainAbort_leaves (s : State) : (drainAbort s).mgl.ops = s.mgl.ops.filter (fun o => o.abort.isNone) ∧
    ∀ e ∈ (drainAbort s).mgl.buf, ∀ h ∈ e.2, ∀ o ∈ s.mgl.ops, o.abort.isSome = true → ¬ (o.slot = h.slot ∧ o.k = h.k) := by
  unfold drainAbort
  extract_lets dead t gone
  have ht : t.mgl = s.mgl := forEach_view State.mgl (fun _ _ => complete_mgl _ _ _ _ _ _) dead s
  rw [(settleHold_buf _).1, (settleHold_buf _).2, modMgl_mgl, ht]
  refine ⟨rfl, fun e he h hh o ho habort => ?_⟩
  obtain ⟨f, -, rfl⟩ := List.mem_map.1 (List.mem_of_mem_filter he)
  have hkept := (List.mem_filter.1 hh).2
  rintro ⟨hslot, hk⟩
  have hgone : gone h = true := List.any_eq_true.2 ⟨o, List.mem_filter.2 ⟨ho, habort⟩, by simp [hslot, hk]⟩
  rw [hgone] at hkept
  cases hkept

theorem fallGuard_passes (s : State) : (fallGuard s).mgl.ctr.passes = s.mgl.ctr.passes := by
  unfold fallGuard
  extract_lets v
  split <;> rfl

theorem mglIdle_leaves (s : State) : (mglIdle s).mgl.ops = s.mgl.ops ∧ (mglIdle s).mgl.ctr.passes = s.mgl.ctr.passes := by
  unfold mglIdle
  split
  · exact ⟨rfl, rfl⟩
  · exact ⟨ops_fallGuard s, fallGuard_passes s⟩

/-- The oldest operation, drained everywhere, leaves the Mangle (R82, R92). -/
theorem passComplete_leaves {s : State} {o : MglOp} {rest : List MglOp} (hops : s.mgl.ops = o :: rest) (habort : o.abort = none)
    (hover : opOver s o = true) : (passComplete s).mgl.ops = rest ∧
      (passComplete s).mgl.ctr.passes = if o.d.opcode = 0 then sat32 s.mgl.ctr.passes 1 else s.mgl.ctr.passes := by
  unfold passComplete
  rw [hops]
  dsimp only
  rw [if_neg (by rw [habort, hover]; decide)]
  rw [(mglIdle_leaves _).1, (mglIdle_leaves _).2, modMgl_mgl, State.modCtr, modMgl_mgl, complete_mgl, hops]
  exact ⟨rfl, rfl⟩

theorem log_trigger (s : State) (test : Nat) (u : W32) : (s.trigger test u).mp.log = s.mp.log := by
  unfold State.trigger
  dsimp only
  split
  · rfl
  · split <;> rfl

theorem log_bridgeParity (i : Nat) (x : Crossing) (s : State) :
    (bridgeParity i x none s).mp.log = (s.log Code.bridgeParity originHw 0xFF 0 0).mp.log := by
  unfold bridgeParity
  cases x with
  | array => exact (log_trigger _ _ _).trans (log_trigger _ _ _)
  | ret => exact log_trigger _ _ _

theorem effectOf_modMgl (s : State) (f : Mgl → Mgl) : s.effectOf (s.modMgl f) = s.modMgl f := rfl

/-- Settles O45: each event by the equation of its function, and a held row by `MayWrite.lineWrite` for each of its Lines. -/
theorem mangleEnds : Obligations.MangleEnds := by
  unfold Obligations.MangleEnds
  refine fun s hon => ⟨fun col q hq => ?_, fun hfrozen hdue => ?_, fun hfrozen hdue => ?_, ?_, fun o rest hops habort hover => ?_,
    fun j x => ?_, fun j k o hop habort => ?_⟩
  · subst hq
    refine ⟨fun hnone => ?_, fun h d k g hh hdests htakes hcfg => ?_, fun h d e k l g j hh hdests hkl htakes hcfg htakes' hcfg' => ?_⟩
    · exact (powered_eq hon (bufferWrite_none hnone)).trans (by rw [effectOf_self])
    all_goals
      obtain ⟨hbuf, hops⟩ := buf_rowLeft s col h
      obtain ⟨hparts, hbypass, hline⟩ := rowLeft_leaves s col h
      have hfirst := (mayWrite_of_takes htakes hcfg).congr hparts hbypass (hline k)
      obtain ⟨hparts', hbypass', hmgl⟩ := wrote_leaves (s := rowLeft s col h) (c := h.slot) (t := idxTile d.tile) (l := d.line)
        (u := d.user h.k) (k := k) (g := g) d.row
    · have hstep := bufferWrite_some hh (by rw [hdests, destsWrite_cons hfirst, destsWrite])
      have hrow := getList_wrote (s := rowLeft s col h) (c := h.slot) (t := idxTile d.tile) (l := d.line) (u := d.user h.k) (k := k)
        (g := g) d.row
      rw [hline, slotRow_congr (backing_rowLeft s col h)] at hrow
      exact ⟨_, powered_eq hon hstep, by rw [effectOf_mgl, hmgl, hbuf], by rw [effectOf_tubMem, hrow], by rw [effectOf_mgl, hmgl, hops]⟩
    · have hsecond := ((mayWrite_of_takes htakes' hcfg').congr hparts hbypass (hline l)).congr hparts' hbypass'
        (line_wrote_other d.row hkl.symm)
      have hstep := bufferWrite_some hh (by rw [hdests, destsWrite_cons hfirst, destsWrite_cons hsecond, destsWrite])
      obtain ⟨-, -, hmgl'⟩ := wrote_leaves (s := wrote (rowLeft s col h) h.slot (idxTile d.tile) d.line (d.user h.k) k g d.row)
        (c := h.slot) (t := idxTile e.tile) (l := e.line) (u := e.user h.k) (k := l) (g := j) e.row
      refine ⟨_, powered_eq hon hstep, by rw [effectOf_mgl, hmgl', hmgl, hbuf], ?_, ?_, by rw [effectOf_mgl, hmgl', hmgl, hops]⟩
      · exact (congrArg LineRec.tail (line_wrote_other e.row hkl)).trans ((tail_wrote d.row).trans (by rw [hline]))
      · exact (tail_wrote e.row).trans (by rw [line_wrote_other d.row hkl.symm, hline])
  · exact (powered_eq hon (if_pos ⟨hfrozen, hdue⟩)).trans (by rw [effectOf_modMgl])
  · exact (powered_eq hon (if_pos ⟨hfrozen, hdue⟩)).trans (by rw [effectOf_modMgl])
  · obtain ⟨hops, hbuf⟩ := drainAbort_leaves s
    exact ⟨_, powered_eq hon rfl, hops, hbuf⟩
  · obtain ⟨hrest, hpasses⟩ := passComplete_leaves hops habort hover
    exact ⟨_, powered_eq hon rfl, hrest, hpasses⟩
  · obtain ⟨r, hr, hcode⟩ := head?_log s Code.bridgeParity originHw 0xFF 0 0
    exact ⟨_, powered_eq hon rfl, r, (congrArg List.head? (log_bridgeParity j x s)).trans hr, hcode⟩
  · refine powered_eq hon ?_
    unfold bridgeParity
    rw [Option.bind_some, hop]
    dsimp only
    rw [habort]
    rfl

end Sys2Proof.Laws
end

section
/-!
SUPPORT. Slack overruns and underruns (R196), and Rinse (R204, R205).
-/

namespace Sys2Proof.Laws

open Machine

/-! ### Slack -/

/-- The state in which a wait past its slack ends: counted, and the count of the wait is back at zero (R196). -/
def overdue (s : State) (key party : Nat) (writes : Bool) : State :=
  let v := s.modLine key fun r => { r with wait := KV.set 0 r.wait party 0 }
  { v with tub :=
    if writes then { v.tub with overruns := sat32 v.tub.overruns 1 } else { v.tub with underruns := sat32 v.tub.underruns 1 } }

theorem overdue_leaves (s : State) (key party : Nat) (writes : Bool) : (overdue s key party writes).mgl = s.mgl ∧
    (overdue s key party writes).slots = s.slots ∧
    (overdue s key party writes).tub.overruns = (if writes = true then sat32 s.tub.overruns 1 else s.tub.overruns) ∧
    (overdue s key party writes).tub.underruns = (if writes = true then s.tub.underruns else sat32 s.tub.underruns 1) := by
  cases writes <;> exact ⟨rfl, rfl, rfl, rfl⟩

theorem part_overdue (s : State) (key party : Nat) (writes : Bool) (c : Nat) : (overdue s key party writes).part c = s.part c := by
  cases writes <;> rfl

section
variable {s : State} {t : Tile} {l c : Nat} {g : LineCfg} (hcfg : (s.line (16 * s.physTile t + l)).cfg = some g)
  (howner : lineOwner s l = some c) (p : Party)
include hcfg howner

theorem slackExceeded_past {w : Bool}
    (hw : w = waitsToWrite s c t (l - (s.part c).lineBase.toNat) g (s.line (16 * s.physTile t + l)) p)
    (h : g.slack < KV.get 0 (s.line (16 * s.physTile t + l)).wait p.code) : slackExceeded t l p s =
      slackAbort c t (l - (s.part c).lineBase.toNat) p (if w = true then Code.lineOverrun else Code.lineUnderrun)
        (overdue s (16 * s.physTile t + l) p.code w) := by
  subst hw
  unfold slackExceeded
  dsimp only
  rw [hcfg, howner]
  dsimp only
  rw [if_pos h]
  show slackAbort c t (l - ((overdue s (16 * s.physTile t + l) p.code _).part c).lineBase.toNat) p _ (overdue s _ _ _) = _
  rw [part_overdue]

theorem slackExceeded_within (h : KV.get 0 (s.line (16 * s.physTile t + l)).wait p.code ≤ g.slack) : slackExceeded t l p s = s := by
  unfold slackExceeded
  dsimp only
  rw [hcfg, howner]
  dsimp only
  rw [if_neg (Nat.not_lt.2 h)]

end

/-! ### Rinse -/

/-- The parts of the state that the check of a word leaves, and of the Tubs where Rinse stands (R201, R204). -/
def rinseView (s : State) : KV Nat × Nat × KV Byte × KV Byte × List Nat × KV LineRec :=
  (s.tub.rinsePos, s.tub.rinseRows, s.tubMem, s.stackMem, s.tub.poisonBlocks, s.tub.lines)

theorem rinseView_trigger (s : State) (test : Nat) (u : W32) : rinseView (s.trigger test u) = rinseView s := by
  unfold State.trigger
  dsimp only
  split
  · rfl
  · split <;> rfl

theorem rinseView_checkWord (k finder w : Nat) (s : State) : rinseView (checkWord k finder w s) = rinseView s := by
  unfold checkWord
  extract_lets tub item corrected noted poisoned stored
  split
  · rfl
  · split
    · exact rinseView_trigger noted _ _
    · rfl
  · exact rinseView_trigger _ _ _

/-- The state once Rinse has taken a row of its bank, its words not yet checked (R204). -/
def rinsed (pt bank row w : Nat) (e : Nat) (s : State) : State :=
  { s with tub :=
    { s.tub with
      errs := KV.set 0 s.tub.errs (8 * rowKey pt bank row + w) e
      rinsePos := KV.set 0 s.tub.rinsePos (16 * pt + bank) ((row + 1) % 256)
      rinseRows := s.tub.rinseRows + 1
      rinseSweeps := if (decide (pt = s.physTile (tileOf 0 0)) && bank == 0 && row == 255) = true then sat32 s.tub.rinseSweeps 1 else s.tub.rinseSweeps } }

theorem rinseRead_next {pt bank row : Nat} (w : Nat) (o : EccOutcome) {s : State} (hclocked : s.tubsClocked = true)
    (hpos : KV.get 0 s.tub.rinsePos (16 * pt + bank) = row) :
    ∃ e, rinseView (rinseRead pt bank row w o s) = rinseView (rinsed pt bank row w e s) := by
  unfold rinseRead
  rw [if_neg (by rw [hclocked]; decide)]
  extract_lets k e src first taken
  rw [if_neg (not_not.2 hpos)]
  refine ⟨e, (forEach_view rinseView (fun w t => ?_) words8 taken).trans (congrArg rinseView (?_ : taken = rinsed pt bank row w e s))⟩
  rotate_left
  · rfl
  split
  · rfl
  · exact rinseView_checkWord _ _ _ _

/-- The errors of a row once the correctable ones are gone (R204). -/
theorem get_corrected (b w : Nat) (ws : List Nat) (e : KV Nat) :
    KV.get 0 (ws.foldl (fun e w => if KV.get 0 e (b + w) = 1 then KV.set 0 e (b + w) 0 else e) e) (b + w) =
      if w ∈ ws ∧ KV.get 0 e (b + w) = 1 then 0 else KV.get 0 e (b + w) := by
  induction ws generalizing e with
  | nil => simp
  | cons v ws ih =>
    rw [List.foldl_cons, ih]
    by_cases hv : KV.get 0 e (b + v) = 1
    · rw [if_pos hv]
      by_cases hw : w = v
      · subst hw
        simp [hv]
      · rw [KV.get_set_other _ _ _ (show b + w ≠ b + v by omega)]
        simp [hw]
    · rw [if_neg hv]
      by_cases hw : w = v
      · subst hw
        simp [hv]
      · simp [hw]

/-- The stored errors once a row's correctable ones are gone (R204). -/
def correctedErrs (b : Nat) (e : KV Nat) : KV Nat :=
  words8.foldl (fun e w => if KV.get 0 e (b + w) = 1 then KV.set 0 e (b + w) 0 else e) e

/-- The state once a queued row is written back, its correctable errors gone (R204). -/
def correctedRow (i : RinseItem) (s : State) : State :=
  { s with tub :=
    { s.tub with
      rinseQ := s.tub.rinseQ.erase i
      errs := correctedErrs (8 * rowKey i.tile i.bank i.row) s.tub.errs } }

theorem errs_correctedRow (i : RinseItem) (s : State) :
    (correctedRow i s).tub.errs = correctedErrs (8 * rowKey i.tile i.bank i.row) s.tub.errs := by
  simp only [correctedRow]

theorem rinseQ_correctedRow (i : RinseItem) (s : State) : (correctedRow i s).tub.rinseQ = s.tub.rinseQ.erase i := by
  simp only [correctedRow]

theorem tubMem_correctedRow (i : RinseItem) (s : State) : (correctedRow i s).tubMem = s.tubMem := by
  simp only [correctedRow]

theorem rinseWriteback_next {pt : Nat} {s : State} {i : RinseItem} (hi : s.tub.rinseQ.find? (fun i => i.tile == pt) = some i) :
    rinseWriteback pt s = correctedRow i s := by
  unfold rinseWriteback correctedRow
  rw [hi]
  rfl

/-- Settles O32: a wait on each side of its slack, what Rinse's checks leave, and the fold over a row's words. -/
theorem slackAndRinse : Obligations.SlackAndRinse := by
  unfold Obligations.SlackAndRinse
  refine ⟨fun t l s g c w hon hcfg howner hw => ?_, fun pt bank row w o s hon hclocked hpos => ?_, fun pt s i hon hi => ?_⟩
  · have hboth : ∀ p : Party,
        (g.slack < KV.get 0 (s.line (16 * s.physTile t + l)).wait p.code → ∃ v, v.mgl = s.mgl ∧ v.slots = s.slots ∧
          v.tub.overruns = (if w p = true then sat32 s.tub.overruns 1 else s.tub.overruns) ∧
          v.tub.underruns = (if w p = true then s.tub.underruns else sat32 s.tub.underruns 1) ∧
          exec (.lineSlackExceeded t l p) s = .next (s.effectOf (slackAbort c t (l - (s.part c).lineBase.toNat) p
            (if w p = true then Code.lineOverrun else Code.lineUnderrun) v))) ∧
        (KV.get 0 (s.line (16 * s.physTile t + l)).wait p.code ≤ g.slack → exec (.lineSlackExceeded t l p) s = .next s) := by
      refine fun p => ⟨fun hpast => ?_, fun hwithin => ?_⟩
      · obtain ⟨hmgl, hslots, hover, hunder⟩ := overdue_leaves s (16 * s.physTile t + l) p.code (w p)
        exact ⟨_, hmgl, hslots, hover, hunder, powered_eq hon (slackExceeded_past hcfg howner p (congrFun hw p) hpast)⟩
      · exact (powered_eq hon (slackExceeded_within hcfg howner p hwithin)).trans (by rw [effectOf_self])
    simp only [List.forall_mem_cons]
    exact ⟨hboth .drain, hboth .returnPath, hboth .feeder, hboth .vector, hboth .seam, fun _ h => absurd h List.not_mem_nil⟩
  · obtain ⟨e, he⟩ := rinseRead_next (pt := pt.val) (bank := bank.val) w.val o hclocked hpos
    obtain ⟨u, hu⟩ : ∃ u, u = rinseRead pt.val bank.val row.val w.val o s := ⟨_, rfl⟩
    rw [← hu] at he
    simp only [rinseView, Prod.mk.injEq] at he
    obtain ⟨hpos', hrows, htub, hstack, hblocks, hlines⟩ := he
    exact ⟨_, powered_eq hon hu.symm, by rw [effectOf_tub, hpos']; exact KV.get_set_self _ _ _ _, hrows, htub, hstack, hblocks, hlines⟩
  · refine ⟨_, powered_eq hon (rinseWriteback_next hi), by rw [effectOf_tub, rinseQ_correctedRow], by rw [effectOf_tubMem, tubMem_correctedRow], fun w hw => ?_⟩
    have hmem : w ∈ words8 := by
      have : w = 0 ∨ w = 1 ∨ w = 2 ∨ w = 3 ∨ w = 4 ∨ w = 5 ∨ w = 6 ∨ w = 7 := by omega
      simpa [words8] using this
    rw [effectOf_tub, errs_correctedRow, correctedErrs, get_corrected]
    simp only [hmem, true_and]

end Sys2Proof.Laws
end

section
/-!
SUPPORT. Stream tasks start (R242, R244 to R247).
-/

namespace Sys2Proof.Laws

open Machine

/-! ### How the Lines are set up -/

/-- What decides which Line a party may access: partitions, repairs and the fields of the Lines (R185, R189). -/
def lineFields (s : State) : KV TubPart × KV Nat × (Nat → Option LineCfg) := (s.tub.parts, s.bypass, fun k => (s.line k).cfg)

theorem lineFields_modLine (s : State) (k : Nat) {f : LineRec → LineRec} (hf : ∀ r, (f r).cfg = r.cfg) :
    lineFields (s.modLine k f) = lineFields s := by
  have hcfg : (fun j => ((s.modLine k f).line j).cfg) = fun j => (s.line j).cfg := by
    funext j
    by_cases h : j = k
    · subst h
      rw [line_modLine, hf]
    · rw [line_modLine_other s f h]
  unfold lineFields
  rw [hcfg]
  rfl

theorem lineFields_startRead (c : Nat) (t : Tile) (l party : Nat) (s : State) : lineFields (startRead c t l party s) = lineFields s := by
  unfold startRead
  split
  · split
    · exact lineFields_modLine s _ fun _ => rfl
    · rfl
  · rfl

theorem lineFor_congr {s t : State} (h : lineFields t = lineFields s) (c : Nat) (tl : Tile) (l party : Nat) (write : Bool) :
    lineFor t c tl l party write = lineFor s c tl l party write := by
  simp only [lineFields, Prod.mk.injEq] at h
  obtain ⟨hparts, hbypass, hcfg⟩ := h
  unfold lineFor
  rw [lineKey?_congr hparts hbypass]
  cases lineKey? s c tl l with
  | none => rfl
  | some k =>
    dsimp only
    rw [show (t.line k).cfg = (s.line k).cfg from congrFun hcfg k]

/-! ### The start of a task -/

/-- A stream task at its start (R245). -/
def newTask (e c : Nat) (q : Cmd) (d : StrDesc) : StrTask :=
  { engine := e, slot := c, k := q.k, d := d, next := 0, hdrNext := 0, hdrs := [], hdrMiss := [], rows := []
    done := [], outW := [], idx := [], idxRows := 0, lastIdx := none, cancelled := false, faultBit := false
    zeroGran := false, consumed := false }

/-- The fixed Lines that a task reads start at their first slot (R192). -/
def readsStarted (e c : Nat) (d : StrDesc) (s : State) : State :=
  let s := forEach ((List.range d.tiles).map (d.tileRow + ·)) (fun j s =>
    forEach (if d.loads then [] else if d.packed then [d.line, d.hdrLine] else [d.line]) (startRead c (tileOf j e) · 5) s) s
  if d.indexed then startRead c (tileOf d.tileRow e) d.idxLine 5 s else s

/-- What `startRead` leaves, the start of all of a task's reads leaves. -/
theorem readsStarted_view {β : Type} (p : State → β) (hp : ∀ c t l party s, p (startRead c t l party s) = p s) (e c : Nat) (d : StrDesc)
    (s : State) : p (readsStarted e c d s) = p s := by
  unfold readsStarted
  dsimp only
  have hall := forEach_view p (f := fun (j : Nat) t =>
    forEach (if d.loads then [] else if d.packed then [d.line, d.hdrLine] else [d.line]) (startRead c (tileOf j e) · 5) t)
    (fun j t => forEach_view p (f := fun (l : Nat) u => startRead c (tileOf j e) l 5 u) (fun l u => hp _ _ _ _ u) _ t)
    ((List.range d.tiles).map (d.tileRow + ·)) s
  split
  · rw [hp, hall]
  · exact hall

/-- A stream task starts (R242, R245). -/
theorem strStart_ok {ops : Nat → Bool} {e c : Nat} {s : State} {q : Cmd} {d : StrDesc} (hq : (s.slot c).nextCmd 2 e = some q)
    (hmay : (s.slot c).mayStart s.now 2 q = true) (hd : d = strDescOf q.body) (hop : ops d.op = true)
    (hroom : (s.tasks.filter (fun t => t.engine == e && t.slot == c)).length < 4) (hgood : d.bad = false) (hplain : d.packed = false)
    (hlines : ∀ j, j < d.tiles → ∃ p, lineFor s c (tileOf (d.tileRow + j) e) d.line 5 d.loads = .ok p)
    (hidx : d.indexed = true → ∃ p, lineFor s c (tileOf d.tileRow e) d.idxLine 5 false = .ok p) :
    strStart ops e c s = readsStarted e c d { s.modSlot c (Ctx.advance 2 e) with tasks := s.tasks ++ [newTask e c q d] } := by
  subst hd
  obtain ⟨u, hu⟩ : ∃ u, u = readsStarted e c (strDescOf q.body)
    { s.modSlot c (Ctx.advance 2 e) with tasks := s.tasks ++ [newTask e c q (strDescOf q.body)] } := ⟨_, rfl⟩
  have hfields : lineFields u = lineFields s := hu ▸ readsStarted_view lineFields lineFields_startRead e c (strDescOf q.body)
    { s.modSlot c (Ctx.advance 2 e) with tasks := s.tasks ++ [newTask e c q (strDescOf q.body)] }
  rw [← hu]
  have hgo : ¬ (ops (strDescOf q.body).op = false ∨ (s.slot c).mayStart s.now 2 q = false ∨
      4 ≤ (s.tasks.filter (fun t => t.engine == e && t.slot == c)).length) := by
    rintro (h | h | h)
    · rw [hop] at h; cases h
    · rw [hmay] at h; cases h
    · omega
  unfold readsStarted newTask at hu
  rw [hplain, if_neg Bool.false_ne_true] at hu
  unfold strStart
  dsimp only at hu ⊢
  rw [hq]
  dsimp only
  rw [if_neg hgo, if_neg (by rw [hgood]; decide), hplain, if_neg Bool.false_ne_true, modSlot_tasks, ← hu]
  rw [List.findSome?_eq_none_iff.2 ?_]
  · dsimp only
    by_cases hindexed : (strDescOf q.body).indexed = true
    · obtain ⟨p, hp⟩ := hidx hindexed
      rw [if_pos hindexed, lineFor_congr hfields, hp]
    · rw [if_neg hindexed]
  · intro j hj
    obtain ⟨i, hi, rfl⟩ := List.mem_map.1 hj
    obtain ⟨p, hp⟩ := hlines i (List.mem_range.1 hi)
    rw [List.findSome?_cons, lineFor_congr hfields, hp]
    rfl

/-- What stands when a stream task has started. -/
theorem readsStarted_leaves (e c : Nat) (q : Cmd) (d : StrDesc) (s : State) {u : State}
    (hu : u = readsStarted e c d { s.modSlot c (Ctx.advance 2 e) with tasks := s.tasks ++ [newTask e c q d] }) :
    u.tasks = s.tasks ++ [newTask e c q d] ∧ u.slot c = (s.slot c).advance 2 e ∧ u.tubMem = s.tubMem ∧ u.stackMem = s.stackMem ∧
      u.hostMem = s.hostMem := by
  have h := readsStarted_view offLines offLines_startRead e c d { s.modSlot c (Ctx.advance 2 e) with tasks := s.tasks ++ [newTask e c q d] }
  rw [← hu] at h
  exact ⟨(congrArg State.tasks h :), (slot_congr (slots_of_offLines h) c).trans (slot_modSlot s c (Ctx.advance 2 e)),
    (tubMem_of_offLines h).trans (modSlot_tubMem s c (Ctx.advance 2 e)), (stackMem_of_offLines h).trans (modSlot_stackMem s c (Ctx.advance 2 e)),
    (hostMem_of_offLines h).trans (modSlot_hostMem s c (Ctx.advance 2 e))⟩

/-- Settles O48: the four commands start a task by `strStart`, each by its own op. -/
theorem streamStarts : Obligations.StreamStarts := by
  unfold Obligations.StreamStarts
  intro g c s hon
  have hall : ∀ (n : Nat) (ops : Nat → Bool) (i : Instr), ops n = true → exec i s = powered s (strStart ops g.val c.val s) →
      ∀ (q : Cmd) (d : StrDesc), (s.slot c).nextCmd 2 g = some q → (s.slot c).mayStart s.now 2 q = true → d = strDescOf q.body →
      d.op = n → (s.tasks.filter (fun t => t.engine == g.val && t.slot == c.val)).length < 4 → d.bad = false → d.packed = false →
      (∀ j, j < d.tiles → ∃ p, lineFor s c (tileOf (d.tileRow + j) g) d.line 5 d.loads = .ok p) →
      (d.indexed = true → ∃ p, lineFor s c (tileOf d.tileRow g) d.idxLine 5 false = .ok p) →
      ∃ u t, exec i s = .next u ∧ u.tasks = s.tasks ++ [t] ∧ t.engine = g.val ∧ t.slot = c.val ∧ t.k = q.k ∧ t.d = d ∧
        t.next = 0 ∧ t.rows = [] ∧ t.outW = [] ∧ t.cancelled = false ∧ u.slot c = (s.slot c).advance 2 g ∧
        u.tubMem = s.tubMem ∧ u.stackMem = s.stackMem ∧ u.hostMem = s.hostMem := by
    intro n ops i hn hexec q d hq hmay hd hop hroom hgood hplain hlines hidx
    have hstart := strStart_ok (ops := ops) hq hmay hd (by rw [hop, hn]) hroom hgood hplain hlines hidx
    obtain ⟨u, hu⟩ : ∃ u, u = strStart ops g.val c.val s := ⟨_, rfl⟩
    obtain ⟨htasks, hslot, htub, hstack, hhost⟩ := readsStarted_leaves g.val c.val q d s (hu.trans hstart)
    exact ⟨_, _, hexec.trans (powered_eq hon hu.symm), htasks, rfl, rfl, rfl, rfl, rfl, rfl, rfl, rfl, (slot_congr rfl c).trans hslot,
      htub, hstack, hhost⟩
  simp only [List.forall_mem_cons]
  exact ⟨hall 0 _ _ rfl rfl, hall 1 _ _ rfl rfl, hall 2 _ _ rfl rfl, hall 3 _ _ rfl rfl, fun _ h => absurd h List.not_mem_nil⟩

end Sys2Proof.Laws
end

section
/-!
SUPPORT. Counterexamples to two claims about the Presses. A Press that reads a slot may meet an uncorrectable codeword beside
it, in the same 128-byte block; the retirement of the page takes the 57th spare page, the health of the device becomes DEGRADED,
and the event of this change (R453) is written to the ring in host memory (R415).
-/

namespace Sys2Proof.Laws

open Machine

/-- The job of the counterexamples: panel 0, of a kind. -/
def jobCmd (kind : Nat) : Cmd := ⟨0, kind, 0, 0, [0x10000, 0, 0, 0]⟩

/-- The work of that job on Press 0. -/
def jobWork (kind : Nat) : PJob := ⟨0, kind, 0, [0], 0, 0, 0⟩

/-- One trainable panel of one element, of a rule without a refresh, on Press 0, its current slot at an address. -/
def lonePanel (slot0 : Nat) : Press :=
  { Press.empty with
    present := true, pressCount := 1, groups := [{ GroupEnt.zero with lrLen := 1 }], steps := [0]
    panels := [⟨0, 0, 0, 0, 1, false, false, false, 0, 1, 1, 0, 1, slot0, 0x400000, 0x400040, 0x400080, 0x4000C0, 0x400100, 0x400140⟩]
    gens := [⟨0, 0, false, false, 0, 0, 0⟩] }

/-- A running context with that panel, its pages and the job at the head of Press 0's queue. -/
def jobCtx (kind slot0 : Nat) (pages : KV Page) (x : Ctx) : Ctx :=
  { x with
    st := .running, att := { x.att with on := true, ranges := [(24, 0)] }
    cur := { x.cur with lists := [⟨3, 0, 0, [jobCmd kind]⟩] }
    panels := [⟨0, 1000, 3⟩], press := lonePanel slot0, pages := pages }

/-- Stack 0 has used 56 of its spare pages and holds one uncorrectable codeword; the privileged mailbox has an event ring. -/
def wornSt (kind slot0 codeword ring : Nat) (pages : KV Page) : State :=
  (({ State.reset with
      power := { State.reset.power with on := true }
      mem := { State.reset.mem with err := [(codeword, 2)], spares := [(0, 56)] } }).modMbx 0 fun b =>
        { b with ring := some ⟨ring, 16⟩ }).modSlot 0 (jobCtx kind slot0 pages)

/-- PREP of a panel whose 192 bytes of slot end where the uncorrectable codeword begins. -/
def prepSt : State := wornSt 2 0 6 0 [(0, ⟨false, true, 0, 0, true, false⟩)]

/-- FOLD of a panel whose slot begins in a page of host memory, where the event ring lies too, and ends in a page of stack 0. -/
def foldSt : State :=
  wornSt 8 0x1FFF80 2 0x1FFF80 [(0, ⟨true, true, 0, 0, true, false⟩), (0x200000, ⟨false, true, 0, 0, true, false⟩)]

/-- What a test asks of the next state of a command. -/
def nextMeets (p : State → Bool) : Res → Bool
  | .next u => p u
  | _ => false

theorem nextMeets_of_eq {p : State → Bool} {r : Res} {u : State} (h : r = .next u) (hp : nextMeets p r = true) : p u = true := by
  rw [h] at hp
  exact hp

theorem pressTakes_prepSt : PressTakes prepSt 2 0 0 (jobCmd 2) (jobWork 2) := by
  refine ⟨?_, ?_, ?_, rfl, ?_, ?_, ?_⟩ <;> decide +kernel

theorem pressTakes_foldSt : PressTakes foldSt 8 0 0 (jobCmd 8) (jobWork 8) := by
  refine ⟨?_, ?_, ?_, rfl, ?_, ?_, ?_⟩ <;> decide +kernel

/-- The event of the change of health stands in host memory after the PREP. -/
theorem prepSt_writes_event : nextMeets (fun u => u.hostMem != prepSt.hostMem) (exec (.prep 0 0) prepSt) = true := by decide +kernel

/-- The event has overwritten the slot's header before the FOLD compares it, so no Fold is made. -/
theorem foldSt_makes_no_fold : nextMeets (fun u => u.prs.folds == 0#32) (exec (.fold 0 0) foldSt) = true := by decide +kernel

/-- Refutes O51: a FOLD reads its slots before it compares them, and the event that such a read raises can be written over a slot
that lies in host memory. -/
theorem not_pressJobs : ¬ Obligations.PressJobs := by
  unfold Obligations.PressJobs
  intro h
  obtain ⟨-, -, -, hfold, -, -⟩ := h 0 0 foldSt
  have hslot : foldOk foldSt 0 0 = true ∧ slotRefusal foldSt 0 0 true = none := by decide +kernel
  have hsteps : (foldSteps (foldSt.slot 0).press (jobWork 8).panels).length ≤ 1 := by decide +kernel
  obtain ⟨u, -, hu, -, hfolds, -⟩ := hfold (jobCmd 8) (jobWork 8) pressTakes_foldSt hsteps fun i hi => by
    obtain rfl := List.mem_singleton.1 hi
    exact hslot
  have hnone : u.prs.folds = 0#32 := eq_of_beq (nextMeets_of_eq hu foldSt_makes_no_fold)
  have hone : sat32 foldSt.prs.folds 1 = 1#32 := by decide +kernel
  rw [hnone, hone] at hfolds
  exact absurd hfolds (by decide)

/-- Refutes O52: a PREP with no refresh due writes nothing to the slots, but the reads it makes can post an event to the ring in
host memory. -/
theorem not_pressDecisions : ¬ Obligations.PressDecisions := by
  unfold Obligations.PressDecisions
  intro h
  obtain ⟨-, -, -, -, -, -, hprep⟩ := h 0 0 prepSt
  have hslot : slotRefusal prepSt 0 0 true = none ∧
      refreshDue ((prepSt.slot 0).press.groupOf 0) ((prepSt.slot 0).press.gen 0).step = false := by decide +kernel
  obtain ⟨u, hu, -, hhost⟩ := hprep (jobCmd 2) (jobWork 2) pressTakes_prepSt fun i hi => by
    obtain rfl := List.mem_singleton.1 hi
    exact hslot
  have hevent := nextMeets_of_eq hu prepSt_writes_event
  rw [bne_iff_ne] at hevent
  exact hevent hhost

end Sys2Proof.Laws
end

section
/-!
SUPPORT. Sorted-index streams: the merges of INTERSECT and UNION (R169).
-/

namespace Sys2Proof.Laws

open Machine

/-! ### One step of a merge -/

/-- The streams A and B without their first entries. -/
def skipA (o : SeamOp) : SeamOp := { o with a := { o.a with buf := o.a.buf.tail } }
def skipB (o : SeamOp) : SeamOp := { o with b := { o.b with buf := o.b.buf.tail } }
/-- An entry joins the output, and the second output. -/
def pushOut (e : SEntry) (o : SeamOp) : SeamOp := { o with out := o.out.push e }
def pushAux (e : SEntry) (o : SeamOp) : SeamOp := { o with aux := o.aux.push e }

/-- The merge of two ended streams can go on to its end: neither a row nor the bound out_max comes in its way. -/
structure Merging (o : SeamOp) : Prop where
  aEnded : o.a.ended = true
  bEnded : o.b.ended = true
  within : o.excess = false
  count : o.out.count = o.out.buf.length
  room : o.out.buf.length + o.a.buf.length + o.b.buf.length ≤ 64
  aux : o.aux.buf.length ≤ o.out.buf.length
  bound : 64 ≤ o.d.outMax

theorem Merging.skipA {o : SeamOp} (h : Merging o) : Merging (skipA o) := by
  obtain ⟨ha, hb, hw, hc, ho, hx, hm⟩ := h
  have hlen : (Laws.skipA o).a.buf.length = o.a.buf.length - 1 := List.length_tail
  refine ⟨ha, hb, hw, hc, ?_, hx, hm⟩
  show o.out.buf.length + (Laws.skipA o).a.buf.length + o.b.buf.length ≤ 64
  omega

theorem Merging.skipB {o : SeamOp} (h : Merging o) : Merging (skipB o) := by
  obtain ⟨ha, hb, hw, hc, ho, hx, hm⟩ := h
  have hlen : (Laws.skipB o).b.buf.length = o.b.buf.length - 1 := List.length_tail
  refine ⟨ha, hb, hw, hc, ?_, hx, hm⟩
  show o.out.buf.length + o.a.buf.length + (Laws.skipB o).b.buf.length ≤ 64
  omega

theorem Merging.pushOut {o : SeamOp} (h : Merging o) (e : SEntry) (hroom : o.out.buf.length + o.a.buf.length + o.b.buf.length < 64) :
    Merging (pushOut e o) := by
  obtain ⟨ha, hb, hw, hc, -, hx, hm⟩ := h
  have hlen : (Laws.pushOut e o).out.buf.length = o.out.buf.length + 1 := List.length_append
  refine ⟨ha, hb, hw, ?_, ?_, ?_, hm⟩
  · show o.out.count + 1 = (Laws.pushOut e o).out.buf.length
    omega
  · show (Laws.pushOut e o).out.buf.length + o.a.buf.length + o.b.buf.length ≤ 64
    omega
  · show o.aux.buf.length ≤ (Laws.pushOut e o).out.buf.length
    omega

theorem Merging.pushAux {o : SeamOp} (h : Merging o) (e : SEntry) (hroom : o.aux.buf.length < o.out.buf.length) :
    Merging (pushAux e o) := by
  obtain ⟨ha, hb, hw, hc, ho, -, hm⟩ := h
  have hlen : (Laws.pushAux e o).aux.buf.length = o.aux.buf.length + 1 := List.length_append
  refine ⟨ha, hb, hw, hc, ho, ?_, hm⟩
  show (Laws.pushAux e o).aux.buf.length ≤ o.out.buf.length
  omega

theorem mergeStep_done {o : SeamOp} (n : Nat) (ha : o.a.buf = []) (hb : o.b.buf = []) : mergeStep n o = o := by
  cases n with
  | zero => rfl
  | succ n =>
    unfold mergeStep
    dsimp only
    rw [ha, hb]
    split <;> rfl

/-- Two entries with one index have joined the output. -/
theorem joined_leaves {o : SeamOp} {a b : SEntry} {as bs : List SEntry} (e : SEntry) (ha : o.a.buf = a :: as) (hb : o.b.buf = b :: bs) :
    (pushOut e (skipB (skipA o))).a.buf = as ∧ (pushOut e (skipB (skipA o))).b.buf = bs ∧
      (pushOut e (skipB (skipA o))).out.buf = o.out.buf ++ [e] := by
  refine ⟨?_, ?_, rfl⟩
  · show o.a.buf.tail = as
    rw [ha, List.tail_cons]
  · show o.b.buf.tail = bs
    rw [hb, List.tail_cons]

theorem Merging.joined {o : SeamOp} (h : Merging o) {a b : SEntry} {as bs : List SEntry} (e : SEntry) (ha : o.a.buf = a :: as)
    (hb : o.b.buf = b :: bs) : Merging (Laws.pushOut e (Laws.skipB (Laws.skipA o))) := by
  obtain ⟨has, hbs, -⟩ := joined_leaves e ha hb
  have hroom := h.room
  rw [ha, hb, List.length_cons, List.length_cons] at hroom
  refine h.skipA.skipB.pushOut e ?_
  rw [show (Laws.skipB (Laws.skipA o)).a.buf = as from has, show (Laws.skipB (Laws.skipA o)).b.buf = bs from hbs]
  show o.out.buf.length + as.length + bs.length < 64
  omega

/-- Two entries with one index have gone to the two outputs. -/
theorem matched_leaves {o : SeamOp} (a b : SEntry) {as bs : List SEntry} (ha : o.a.buf = a :: as) (hb : o.b.buf = b :: bs) :
    (pushAux b (pushOut a (skipB (skipA o)))).a.buf = as ∧ (pushAux b (pushOut a (skipB (skipA o)))).b.buf = bs ∧
      (pushAux b (pushOut a (skipB (skipA o)))).out.buf = o.out.buf ++ [a] ∧
      (pushAux b (pushOut a (skipB (skipA o)))).aux.buf = o.aux.buf ++ [b] := by
  obtain ⟨has, hbs, hout⟩ := joined_leaves a ha hb
  exact ⟨has, hbs, hout, rfl⟩

theorem Merging.matched {o : SeamOp} (h : Merging o) (a b : SEntry) {as bs : List SEntry} (ha : o.a.buf = a :: as)
    (hb : o.b.buf = b :: bs) : Merging (Laws.pushAux b (Laws.pushOut a (Laws.skipB (Laws.skipA o)))) := by
  have haux := h.aux
  refine (h.joined a ha hb).pushAux b ?_
  rw [(joined_leaves a ha hb).2.2, List.length_append]
  show o.aux.buf.length < o.out.buf.length + 1
  omega

section
variable {o : SeamOp} (h : Merging o) {a b : SEntry} {as bs : List SEntry} (n : Nat)
include h

/-- While an entry waits, no output is full. -/
theorem Merging.goes (hsome : 0 < o.a.buf.length + o.b.buf.length) :
    ¬ (64 ≤ o.out.buf.length ∨ 64 ≤ o.aux.buf.length ∨ o.excess = true) ∧ ¬ o.d.outMax ≤ o.out.count := by
  obtain ⟨-, -, hw, hc, ho, hx, hm⟩ := h
  refine ⟨?_, by omega⟩
  rintro (hfull | hfull | hfull)
  · omega
  · omega
  · rw [hw] at hfull
    cases hfull

/-- INTERSECT of two entries with one index. -/
theorem mergeStep_meet (hop : o.d.opcode = 0) (ha : o.a.buf = a :: as) (hb : o.b.buf = b :: bs) (hidx : a.idx = b.idx) :
    mergeStep (n + 1) o = mergeStep n (pushAux b (pushOut a (skipB (skipA o)))) := by
  obtain ⟨hgo, hcount⟩ := h.goes (by rw [ha, List.length_cons]; omega)
  rw [mergeStep]
  unfold skipA skipB pushOut pushAux
  dsimp only
  rw [if_neg hgo, ha, hb]
  dsimp only
  rw [if_pos hidx, if_neg hcount, hop]
  rfl

/-- UNION of two entries with one index. -/
theorem mergeStep_join (hop : o.d.opcode = 1) (ha : o.a.buf = a :: as) (hb : o.b.buf = b :: bs) (hidx : a.idx = b.idx) :
    mergeStep (n + 1) o = mergeStep n (pushOut ⟨a.idx, unionPay o.d.combine a.pay b.pay⟩ (skipB (skipA o))) := by
  obtain ⟨hgo, hcount⟩ := h.goes (by rw [ha, List.length_cons]; omega)
  rw [mergeStep]
  unfold skipA skipB pushOut
  dsimp only
  rw [if_neg hgo, ha, hb]
  dsimp only
  rw [if_pos hidx, if_neg hcount, hop]
  rfl

/-- An entry of A whose index comes before all of B's: INTERSECT drops it, UNION emits it. -/
theorem mergeStep_a (ha : o.a.buf = a :: as) (hb : ∀ y ∈ o.b.buf, a.idx.toNat < y.idx.toNat) :
    mergeStep (n + 1) o = mergeStep n (if o.d.opcode = 0 then skipA o else pushOut a (skipA o)) := by
  obtain ⟨hgo, hcount⟩ := h.goes (by rw [ha, List.length_cons]; omega)
  rw [mergeStep]
  unfold skipA pushOut
  dsimp only
  rw [if_neg hgo, ha]
  cases hbs : o.b.buf with
  | nil =>
    dsimp only
    rw [if_pos h.bEnded, if_neg hcount]
    split <;> rfl
  | cons y ys =>
    have hlt := hb y (by rw [hbs]; exact List.mem_cons_self)
    dsimp only
    rw [if_neg (fun heq => by rw [heq] at hlt; omega), if_pos hlt, if_neg hcount]
    split <;> rfl

/-- An entry of B whose index comes before all of A's: INTERSECT drops it, UNION emits it. -/
theorem mergeStep_b (hb : o.b.buf = b :: bs) (ha : ∀ x ∈ o.a.buf, b.idx.toNat < x.idx.toNat) :
    mergeStep (n + 1) o = mergeStep n (if o.d.opcode = 0 then skipB o else pushOut b (skipB o)) := by
  obtain ⟨hgo, hcount⟩ := h.goes (by rw [hb, List.length_cons]; omega)
  rw [mergeStep]
  unfold skipB pushOut
  dsimp only
  rw [if_neg hgo, hb]
  cases has : o.a.buf with
  | nil =>
    dsimp only
    rw [if_pos h.aEnded, if_neg hcount]
    split <;> rfl
  | cons x xs =>
    have hlt := ha x (by rw [has]; exact List.mem_cons_self)
    dsimp only
    rw [if_neg (fun heq => by rw [heq] at hlt; omega), if_neg (by omega), if_neg hcount]
    split <;> rfl

end

/-! ### The merge of two rising streams -/

/-- A stream whose indices rise (R166). -/
def Rising (l : List SEntry) : Prop := l.Pairwise fun x y => x.idx.toNat < y.idx.toNat

/-- Is the index of the entry in the stream? -/
def hasIdx (l : List SEntry) (x : SEntry) : Bool := l.any fun y => y.idx == x.idx

theorem idx_beq_of_lt {x y : SEntry} (h : x.idx.toNat < y.idx.toNat) : (x.idx == y.idx) = false ∧ (y.idx == x.idx) = false := by
  constructor
  · rw [beq_eq_false_iff_ne]
    intro heq
    rw [heq] at h
    omega
  · rw [beq_eq_false_iff_ne]
    intro heq
    rw [heq] at h
    omega

theorem hasIdx_cons (a : SEntry) (l : List SEntry) (x : SEntry) : hasIdx (a :: l) x = (a.idx == x.idx || hasIdx l x) := rfl

/-- An entry before a whole stream is not in it. -/
theorem hasIdx_of_before {a : SEntry} {l : List SEntry} (h : ∀ y ∈ l, a.idx.toNat < y.idx.toNat) : hasIdx l a = false :=
  List.any_eq_false.2 fun y hy => by rw [(idx_beq_of_lt (h y hy)).2]; exact Bool.false_ne_true

/-- Which entries of a stream another one has is the same with an entry before all of them. -/
theorem filter_hasIdx_cons {a : SEntry} {l m : List SEntry} (h : ∀ y ∈ l, a.idx.toNat < y.idx.toNat) :
    l.filter (hasIdx (a :: m)) = l.filter (hasIdx m) :=
  List.filter_congr fun y hy => by rw [hasIdx_cons, (idx_beq_of_lt (h y hy)).1, Bool.false_or]

/-- Of two rising streams: both are at their end, the first entry of one comes before the other stream, or their first entries
have one index. -/
theorem rising_cases {l m : List SEntry} (hl : Rising l) (hm : Rising m) : (l = [] ∧ m = []) ∨
    (∃ a as, l = a :: as ∧ ∀ y ∈ m, a.idx.toNat < y.idx.toNat) ∨ (∃ b bs, m = b :: bs ∧ ∀ x ∈ l, b.idx.toNat < x.idx.toNat) ∨
    ∃ a as b bs, l = a :: as ∧ m = b :: bs ∧ a.idx = b.idx := by
  cases l with
  | nil =>
    cases m with
    | nil => exact .inl ⟨rfl, rfl⟩
    | cons b bs => exact .inr (.inr (.inl ⟨b, bs, rfl, fun x hx => absurd hx List.not_mem_nil⟩))
  | cons a as =>
    cases m with
    | nil => exact .inr (.inl ⟨a, as, rfl, fun y hy => absurd hy List.not_mem_nil⟩)
    | cons b bs =>
      have hfirst : ∀ {e f : SEntry} {es : List SEntry}, e.idx.toNat < f.idx.toNat → Rising (f :: es) →
          ∀ y ∈ f :: es, e.idx.toNat < y.idx.toNat := by
        intro e f es hlt hrise y hy
        rcases List.mem_cons.1 hy with rfl | hy
        · exact hlt
        · exact hlt.trans (List.rel_of_pairwise_cons hrise hy)
      rcases Nat.lt_trichotomy a.idx.toNat b.idx.toNat with hlt | heq | hgt
      · exact .inr (.inl ⟨a, as, rfl, hfirst hlt hm⟩)
      · exact .inr (.inr (.inr ⟨a, as, b, bs, rfl, rfl, BitVec.eq_of_toNat_eq heq⟩))
      · exact .inr (.inr (.inl ⟨b, bs, rfl, hfirst hgt hl⟩))

/-- INTERSECT to the end of two rising streams (R169). -/
theorem mergeStep_intersect (n : Nat) {o : SeamOp} (h : Merging o) (hop : o.d.opcode = 0) (hn : o.a.buf.length + o.b.buf.length ≤ n)
    (ha : Rising o.a.buf) (hb : Rising o.b.buf) :
    (mergeStep n o).out.buf = o.out.buf ++ o.a.buf.filter (hasIdx o.b.buf) ∧
      (mergeStep n o).aux.buf = o.aux.buf ++ o.b.buf.filter (hasIdx o.a.buf) := by
  induction n generalizing o with
  | zero =>
    have has : o.a.buf = [] := List.eq_nil_of_length_eq_zero (by omega)
    have hbs : o.b.buf = [] := List.eq_nil_of_length_eq_zero (by omega)
    rw [mergeStep_done 0 has hbs, has, hbs, List.filter_nil, List.append_nil, List.append_nil]
    exact ⟨rfl, rfl⟩
  | succ n ih =>
    rcases rising_cases ha hb with ⟨has, hbs⟩ | ⟨a, as, has, hbefore⟩ | ⟨b, bs, hbs, hbefore⟩ | ⟨a, as, b, bs, has, hbs, hidx⟩
    · rw [mergeStep_done _ has hbs, has, hbs, List.filter_nil, List.append_nil, List.append_nil]
      exact ⟨rfl, rfl⟩
    · have hskip : (skipA o).a.buf = as := by rw [skipA, has, List.tail_cons]
      rw [has] at ha hn
      rw [mergeStep_a h n has hbefore, if_pos hop, has, List.filter_cons_of_neg (by rw [hasIdx_of_before hbefore]; decide),
        filter_hasIdx_cons hbefore, ← hskip]
      exact ih h.skipA hop (by rw [hskip]; rw [List.length_cons] at hn; show as.length + o.b.buf.length ≤ n; omega)
        (by rw [hskip]; exact ha.of_cons) hb
    · have hskip : (skipB o).b.buf = bs := by rw [skipB, hbs, List.tail_cons]
      rw [hbs] at hb hn
      rw [mergeStep_b h n hbs hbefore, if_pos hop, hbs, List.filter_cons_of_neg (by rw [hasIdx_of_before hbefore]; decide),
        filter_hasIdx_cons hbefore, ← hskip]
      exact ih h.skipB hop (by rw [hskip]; rw [List.length_cons] at hn; show o.a.buf.length + bs.length ≤ n; omega) ha
        (by rw [hskip]; exact hb.of_cons)
    · obtain ⟨has', hbs', hout, haux⟩ := matched_leaves a b has hbs
      have hab : ∀ y ∈ bs, a.idx.toNat < y.idx.toNat := fun y hy => by
        rw [hbs] at hb
        rw [hidx]
        exact List.rel_of_pairwise_cons hb hy
      have hba : ∀ x ∈ as, b.idx.toNat < x.idx.toNat := fun x hx => by
        rw [has] at ha
        rw [← hidx]
        exact List.rel_of_pairwise_cons ha hx
      have hboth : (hasIdx (b :: bs) a = true) ∧ hasIdx (a :: as) b = true := by
        rw [hasIdx_cons, hasIdx_cons, hidx, beq_self_eq_true, Bool.true_or, Bool.true_or]
        exact ⟨rfl, rfl⟩
      rw [mergeStep_meet h n hop has hbs hidx, has, hbs, List.filter_cons_of_pos hboth.1, List.filter_cons_of_pos hboth.2,
        filter_hasIdx_cons hba, filter_hasIdx_cons hab]
      obtain ⟨hout', haux'⟩ := ih (h.matched a b has hbs) hop
        (by rw [has', hbs']; rw [has, hbs, List.length_cons, List.length_cons] at hn; omega)
        (by rw [has']; rw [has] at ha; exact ha.of_cons) (by rw [hbs']; rw [hbs] at hb; exact hb.of_cons)
      rw [hout', haux', hout, haux, has', hbs', List.append_assoc, List.append_assoc]
      exact ⟨rfl, rfl⟩

/-- The indices of a stream. -/
def HasIndex (l : List SEntry) (i : W32) : Prop := ∃ x ∈ l, x.idx = i

theorem hasIndex_cons (a : SEntry) (l : List SEntry) (i : W32) : HasIndex (a :: l) i ↔ a.idx = i ∨ HasIndex l i := by
  simp only [HasIndex, List.mem_cons, exists_eq_or_imp]

/-- Entries before every index of two streams come before a stream with the indices of both. -/
theorem rising_cons {e : SEntry} {l m r : List SEntry} (hr : Rising r) (hidx : ∀ i, HasIndex r i ↔ HasIndex l i ∨ HasIndex m i)
    (hl : ∀ x ∈ l, e.idx.toNat < x.idx.toNat) (hm : ∀ y ∈ m, e.idx.toNat < y.idx.toNat) : Rising (e :: r) := by
  refine List.Pairwise.cons (fun z hz => ?_) hr
  rcases (hidx z.idx).1 ⟨z, hz, rfl⟩ with ⟨x, hx, hxz⟩ | ⟨y, hy, hyz⟩
  · rw [← hxz]; exact hl x hx
  · rw [← hyz]; exact hm y hy

/-- UNION to the end of two rising streams (R169). -/
theorem mergeStep_union (n : Nat) {o : SeamOp} (h : Merging o) (hop : o.d.opcode = 1) (hn : o.a.buf.length + o.b.buf.length ≤ n)
    (ha : Rising o.a.buf) (hb : Rising o.b.buf) : ∃ r, (mergeStep n o).out.buf = o.out.buf ++ r ∧ Rising r ∧
      ∀ i, HasIndex r i ↔ HasIndex o.a.buf i ∨ HasIndex o.b.buf i := by
  have hnot : ¬ o.d.opcode = 0 := by omega
  induction n generalizing o with
  | zero =>
    have has : o.a.buf = [] := List.eq_nil_of_length_eq_zero (by omega)
    have hbs : o.b.buf = [] := List.eq_nil_of_length_eq_zero (by omega)
    rw [mergeStep_done 0 has hbs, has, hbs]
    exact ⟨[], (List.append_nil _).symm, .nil, fun i => (or_self_iff).symm⟩
  | succ n ih =>
    rcases rising_cases ha hb with ⟨has, hbs⟩ | ⟨a, as, has, hbefore⟩ | ⟨b, bs, hbs, hbefore⟩ | ⟨a, as, b, bs, has, hbs, hidx⟩
    · rw [mergeStep_done _ has hbs, has, hbs]
      exact ⟨[], (List.append_nil _).symm, .nil, fun i => (or_self_iff).symm⟩
    · have hskip : (skipA o).a.buf = as := by rw [skipA, has, List.tail_cons]
      rw [has] at ha hn
      rw [List.length_cons] at hn
      have hroom := h.room
      rw [has, List.length_cons] at hroom
      obtain ⟨r, hr, hrise, hrs⟩ := ih (o := pushOut a (skipA o))
        (h.skipA.pushOut a (by rw [hskip]; show o.out.buf.length + as.length + o.b.buf.length < 64; omega)) hop
        (by show (skipA o).a.buf.length + o.b.buf.length ≤ n; rw [hskip]; omega)
        (by show Rising (skipA o).a.buf; rw [hskip]; exact ha.of_cons) hb hnot
      rw [show (pushOut a (skipA o)).a.buf = as from hskip, show (pushOut a (skipA o)).b.buf = o.b.buf from rfl] at hrs
      refine ⟨a :: r, ?_, rising_cons hrise hrs (fun x hx => List.rel_of_pairwise_cons ha hx) hbefore, fun i => ?_⟩
      · rw [mergeStep_a h n has hbefore, if_neg hnot, hr]
        exact List.append_assoc o.out.buf [a] r
      · rw [hasIndex_cons, hrs, has, hasIndex_cons, or_assoc]
    · have hskip : (skipB o).b.buf = bs := by rw [skipB, hbs, List.tail_cons]
      rw [hbs] at hb hn
      rw [List.length_cons] at hn
      have hroom := h.room
      rw [hbs, List.length_cons] at hroom
      obtain ⟨r, hr, hrise, hrs⟩ := ih (o := pushOut b (skipB o))
        (h.skipB.pushOut b (by rw [hskip]; show o.out.buf.length + o.a.buf.length + bs.length < 64; omega)) hop
        (by show o.a.buf.length + (skipB o).b.buf.length ≤ n; rw [hskip]; omega) ha
        (by show Rising (skipB o).b.buf; rw [hskip]; exact hb.of_cons) hnot
      rw [show (pushOut b (skipB o)).b.buf = bs from hskip, show (pushOut b (skipB o)).a.buf = o.a.buf from rfl] at hrs
      refine ⟨b :: r, ?_, rising_cons hrise hrs hbefore (fun y hy => List.rel_of_pairwise_cons hb hy), fun i => ?_⟩
      · rw [mergeStep_b h n hbs hbefore, if_neg hnot, hr]
        exact List.append_assoc o.out.buf [b] r
      · rw [hasIndex_cons, hrs, hbs, hasIndex_cons]
        exact or_left_comm
    · obtain ⟨has', hbs', hout⟩ := joined_leaves ⟨a.idx, unionPay o.d.combine a.pay b.pay⟩ has hbs
      rw [has] at ha
      rw [hbs] at hb
      obtain ⟨r, hr, hrise, hrs⟩ := ih (h.joined _ has hbs) hop
        (by rw [has', hbs']; rw [has, hbs, List.length_cons, List.length_cons] at hn; omega)
        (by rw [has']; exact ha.of_cons) (by rw [hbs']; exact hb.of_cons) hnot
      rw [has', hbs'] at hrs
      refine ⟨⟨a.idx, unionPay o.d.combine a.pay b.pay⟩ :: r, ?_, rising_cons hrise hrs
        (fun x hx => List.rel_of_pairwise_cons ha hx) (fun y hy => ?_), fun i => ?_⟩
      · rw [mergeStep_join h n hop has hbs hidx, hr, hout, List.append_assoc]
        rfl
      · show a.idx.toNat < _
        rw [hidx]
        exact List.rel_of_pairwise_cons hb hy
      · rw [hasIndex_cons, hrs, has, hbs, hasIndex_cons, hasIndex_cons, ← hidx, or_or_or_comm, or_self]

end Sys2Proof.Laws
end

section
/-!
SUPPORT. TOPK's selection, ROUTE's lists, and the steps of a Seam operation (R167, R169 to R173).
-/

namespace Sys2Proof.KV

variable {α : Type}

theorem find?_erase_other (m : KV α) {j k : Nat} (h : j ≠ k) : find? (erase m k) j = find? m j := by
  induction m with
  | nil => rfl
  | cons e m ih =>
    obtain ⟨i, v⟩ := e
    by_cases hi : i = k
    · subst hi
      simp [erase, find?, ih, Ne.symm h]
    · simp [erase, find?, hi, ih]

end Sys2Proof.KV

namespace Sys2Proof.Laws

open Machine

/-! ### TOPK -/

theorem insertBy_perm {α : Type} (lt : α → α → Bool) (x : α) (l : List α) : (insertBy lt x l).Perm (x :: l) := by
  induction l with
  | nil => exact .refl _
  | cons y ys ih =>
    rw [insertBy]
    split
    · exact .refl _
    · exact (ih.cons y).trans (.swap x y ys)

theorem sortBy_perm {α : Type} (lt : α → α → Bool) (l : List α) : (sortBy lt l).Perm l := by
  induction l with
  | nil => exact .refl _
  | cons x xs ih => exact (insertBy_perm lt x _).trans (ih.cons x)

theorem Rising.nodup {l : List SEntry} (h : Rising l) : l.Nodup :=
  List.Pairwise.imp (fun hlt heq => by rw [heq] at hlt; omega) h

/-- The entries that TOPK keeps, in the order of its input. -/
def keptBy (k : Nat) (es : List SEntry) : List SEntry := es.filter fun e => ((sortBy ranksBefore es).take k).elem e

theorem topk_eq (k : Nat) (es : List SEntry) :
    topk k es = (keptBy k es ++ List.replicate (k - (keptBy k es).length) SEntry.empty, k - (keptBy k es).length) := rfl

theorem keptBy_sublist (k : Nat) (es : List SEntry) : (keptBy k es).Sublist es := List.filter_sublist

theorem length_keptBy (k : Nat) {es : List SEntry} (h : es.Nodup) : (keptBy k es).length = min k es.length := by
  have hsort := sortBy_perm ranksBefore es
  have hbest : ((sortBy ranksBefore es).take k).Nodup := (hsort.nodup_iff.2 h).sublist (List.take_sublist _ _)
  have hperm : (keptBy k es).Perm ((sortBy ranksBefore es).take k) := by
    refine (List.perm_ext_iff_of_nodup (h.sublist (keptBy_sublist k es)) hbest).2 fun e => ?_
    rw [keptBy, List.mem_filter, List.elem_iff]
    exact and_iff_right_of_imp fun he => hsort.mem_iff.1 (List.mem_of_mem_take he)
  rw [hperm.length_eq, List.length_take, hsort.length_eq]

/-! ### ROUTE -/

/-- No expert's list exceeds its places. -/
theorem routeAll_le {experts cap : Nat} {es : List SEntry} {ls ls' : KV (List SEntry)} {rej rej' : List SEntry}
    (hls : ∀ x, (KV.get [] ls x).length ≤ cap) (h : routeAll experts cap es ls rej = .ok (ls', rej')) :
    ∀ x, (KV.get [] ls' x).length ≤ cap := by
  induction es generalizing ls rej with
  | nil =>
    cases h
    exact hls
  | cons e es ih =>
    rw [routeAll] at h
    dsimp only at h
    split at h
    · cases h
    · split at h
      · cases h
      · split at h
        · next hroom =>
          refine ih (fun x => ?_) h
          by_cases hx : x = e.pay.toNat % 4096
          · rw [hx, KV.get_set_self, List.length_append]
            exact hroom
          · rw [KV.get_set_other _ _ _ hx]
            exact hls x
        · exact ih hls h

/-- The places of an expert's list (R170). -/
def places (cap : Nat) (l : List SEntry) : List SEntry := l ++ List.replicate (cap - l.length) SEntry.empty

theorem length_places {cap : Nat} {l : List SEntry} (h : l.length ≤ cap) : (places cap l).length = cap := by
  rw [places, List.length_append, List.length_replicate]
  omega

theorem length_flatMap_places {cap : Nat} {ls : KV (List SEntry)} (h : ∀ x, (KV.get [] ls x).length ≤ cap) (n : Nat) :
    ((List.range n).flatMap fun x => places cap (KV.get [] ls x)).length = n * cap := by
  induction n with
  | zero => rw [Nat.zero_mul]; rfl
  | succ n ih =>
    rw [List.range_succ, List.flatMap_append, List.length_append, ih, List.flatMap_singleton, length_places (h n), Nat.succ_mul]

/-! ### The steps of an operation -/

section
variable {u c : Nat} {o : SeamOp} {s : State}

theorem seams_setSeam (p : SeamOp) (t : State) : KV.find? (setSeam u (some p) t).seams u = some p := KV.find?_insert_self _ _ _

theorem seamRun_flight {ops : Nat → Bool} (ho : KV.find? s.seams u = some o) (hslot : o.slot = c) (hop : ops o.d.opcode = true) :
    seamRun ops u c s = seamStep u o s := by
  unfold seamRun
  rw [ho]
  exact if_pos ⟨hslot, hop⟩

theorem usesB_iff (d : SeamDesc) : d.usesB = true ↔ d.opcode ≤ 1 := decide_eq_true_iff

/-- An operation past out_max whose entries are all written (R172). -/
theorem seamStep_full (hex : o.excess = true) (hout : o.out.buf = []) (haux : o.aux.buf = []) :
    seamStep u o s = seamFault u o Code.seamOutFull s := by
  simp [seamStep, hex, hout, haux]

section
variable (hex : o.excess = false) (hout : o.out = .start) (haux : o.aux = .start)
include hex hout haux

/-- An operation that has not begun to write reads A. -/
theorem seamStep_read (hbuf : o.a.buf = []) (hmore : o.a.ended = false) : seamStep u o s = seamRead u o false s := by
  simp [seamStep, hex, hout, haux, SOut.start, hbuf, hmore]

/-- Over both streams' ends it merges them. -/
theorem seamStep_merge (hop : o.d.opcode ≤ 1) (ha : o.a.ended = true) (hb : o.b.ended = true) (hsome : o.a.buf ≠ [] ∨ o.b.buf ≠ []) :
    seamStep u o s = setSeam u (some (mergeStep 256 o)) s := by
  have hnot : o.a.buf = [] → ¬ o.b.buf = [] := fun h => hsome.resolve_left fun hne => hne h
  simp [seamStep, hex, hout, haux, SOut.start, (usesB_iff o.d).2 hop, ha, hb]
  exact fun h h' => absurd h' (hnot h)

/-- All of A read, TOPK and ROUTE produce their outputs. -/
theorem seamStep_finish {p : SeamOp} (hop : 2 ≤ o.d.opcode) (ha : o.a.ended = true) (hp : finishAll o = .ok p) :
    seamStep u o s = setSeam u (some p) s := by
  have hB : o.d.usesB = false := Bool.eq_false_iff.2 fun h => by have := (usesB_iff o.d).1 h; omega
  simp [seamStep, hex, hout, haux, SOut.start, hB, ha, hp]

end

/-- A row of A joins the operation. -/
theorem seamRead_row {row : Row} {i : SIn} {v : State}
    (hread : lineRead s o.slot (tileOf o.d.tileRow o.d.tileCol) o.d.inA ⟨4, opId 5 u o.k⟩ true = (.done row, v))
    (htake : o.a.take o.d.extent o.d.nA (rowEntries row) = .ok i) : seamRead u o false s = setSeam u (some { o with a := i }) v := by
  unfold seamRead
  simp only [Bool.false_eq_true, if_false, hread, htake]

/-- The Lines that an operation reads start at their first rows (R192). -/
def seamReads (c : Nat) (d : SeamDesc) (s : State) : State :=
  forEach (d.inA :: (if d.usesB then [d.inB] else [])) (startRead c (tileOf d.tileRow d.tileCol) · 4) s

theorem offLines_seamReads (c : Nat) (d : SeamDesc) (s : State) : offLines (seamReads c d s) = offLines s :=
  forEach_view offLines (f := fun (l : Nat) t => startRead c (tileOf d.tileRow d.tileCol) l 4 t) (fun _ t => offLines_startRead _ _ _ _ t) _ s

/-- A Seam takes a well-formed command (R167). -/
theorem seamRun_start {ops : Nat → Bool} {q : Cmd} {d : SeamDesc} (hfree : KV.find? s.seams u = none) (hq : (s.slot c).nextCmd 5 u = some q)
    (hmay : (s.slot c).mayStart s.now 5 q = true) (hd : d = seamDescOf q.body) (hop : ops d.opcode = true) (hgood : d.bad (u / 2) = false) :
    seamRun ops u c s = setSeam u (some ⟨c, q.k, d, .start, .start, .start, .start, 0, 0, false⟩)
      (seamReads c d (s.modSlot c (Ctx.advance 5 u))) := by
  subst hd
  unfold seamRun
  rw [hfree]
  dsimp only
  rw [hq]
  dsimp only
  rw [if_neg (by rw [hop, hmay]; decide), if_neg (by rw [hgood]; decide)]
  rfl

theorem seamComplete_over (ho : KV.find? s.seams u = some o) (hslot : o.slot = c) (hend : o.out.ended = true) (hout : o.out.buf = [])
    (haux : o.aux.buf = []) : seamComplete u c s = setSeam u none (s.complete c 5 u o.k (o.record 0 false)) := by
  unfold seamComplete
  rw [ho]
  exact if_pos ⟨hslot, hend, hout, haux⟩

end

/-- A read that proceeds leaves the memories. -/
theorem backing_of_lineRead {s v : State} {c l : Nat} {t : Tile} {n : User} {adv : Bool} {got : Row}
    (h : lineRead s c t l n adv = (.done got, v)) : backing v = backing s := by
  have hread := h
  unfold lineRead at h
  split at h
  · cases h
  · split at h
    · cases h
    · next k g hline =>
      obtain ⟨hkey, hcfg⟩ := lineFor_ok hline
      exact (lineRead_done hkey hcfg hread).2

/-- Two ended streams of at most 64 entries merge to their end. -/
theorem merging_start {o : SeamOp} (hex : o.excess = false) (hout : o.out = .start) (haux : o.aux = .start) (ha : o.a.ended = true)
    (hb : o.b.ended = true) (hlen : o.a.buf.length + o.b.buf.length ≤ 64) (hmax : 64 ≤ o.d.outMax) : Merging o := by
  refine ⟨ha, hb, hex, ?_, ?_, ?_, hmax⟩
  · rw [hout]; rfl
  · rw [hout]; show 0 + o.a.buf.length + o.b.buf.length ≤ 64; omega
  · rw [haux]; exact Nat.zero_le _

theorem finishAll_topk {o : SeamOp} (hop : o.d.opcode = 2) : finishAll o = .ok { o with
    a := { o.a with buf := [] }, empties := o.d.kCap - (keptBy o.d.kCap o.a.buf).length
    out := ⟨(topk o.d.kCap o.a.buf).1 ++ [SEntry.term], (topk o.d.kCap o.a.buf).1.length, 0, true⟩ } := by
  unfold finishAll
  dsimp only
  rw [if_pos hop]
  rfl

theorem finishAll_route {o : SeamOp} {ls : KV (List SEntry)} {rej : List SEntry} (hop : o.d.opcode = 3)
    (h : routeAll o.d.experts o.d.kCap o.a.buf [] [] = .ok (ls, rej)) : ∃ p, finishAll o = .ok p ∧
      p.out.buf = ((List.range (o.d.experts + 1)).flatMap fun x => places o.d.kCap (KV.get [] ls x)) ++ [SEntry.term] ∧
      p.aux.buf = rej ++ [SEntry.term] ∧ p.rejected = rej.length := by
  unfold finishAll
  dsimp only
  rw [if_neg (by omega), h]
  exact ⟨_, rfl, rfl, rfl, rfl⟩

/-- Settles O47: a start, a row read, an excess, the merge of two rising streams, the outputs over all of A, and the end, each by
the equation of the step for it. -/
theorem seamOperations : Obligations.SeamOperations := by
  unfold Obligations.SeamOperations
  intro n c s hon
  have hops : ∀ e ∈ [(Instr.intersect n c, 0), (.union n c, 1), (.topk n c, 2), (.route n c, 3)],
      ∃ ops : Nat → Bool, ops e.2 = true ∧ exec e.1 s = powered s (seamRun ops n.val c.val s) := by
    simp only [List.forall_mem_cons]
    exact ⟨⟨_, rfl, rfl⟩, ⟨_, rfl, rfl⟩, ⟨_, rfl, rfl⟩, ⟨_, rfl, rfl⟩, fun _ h => absurd h List.not_mem_nil⟩
  refine ⟨?_, fun o ho hslot => ⟨?_, ?_, ?_, ?_, ?_, ?_⟩⟩
  · intro e he q d hfree hq hmay hd hop hgood
    obtain ⟨ops, hm, hexec⟩ := hops e he
    have hstart := seamRun_start hfree hq hmay hd (by rw [hop]; exact hm) hgood
    have hreads := offLines_seamReads c d (s.modSlot c (Ctx.advance 5 n))
    refine ⟨_, hexec.trans (powered_eq hon hstart), ?_, ?_, seams_setSeam _ _⟩
    · exact (slot_congr (slots_of_offLines hreads) c).trans (slot_modSlot s c (Ctx.advance 5 n))
    · exact (tubMem_of_offLines hreads).trans (modSlot_tubMem s c (Ctx.advance 5 n))
  · intro e he row r v hop hex hout haux hbuf hmore hread htake
    obtain ⟨ops, hm, hexec⟩ := hops e he
    rw [← hslot] at hread
    have hstep := (seamRun_flight ho hslot (by rw [hop]; exact hm)).trans
      ((seamStep_read hex hout haux hbuf hmore).trans (seamRead_row hread htake))
    exact ⟨_, hexec.trans (powered_eq hon hstep), seams_setSeam _ _, (backing_eq_iff.1 (backing_of_lineRead hread)).1⟩
  · intro e he hop hex hout haux
    obtain ⟨ops, hm, hexec⟩ := hops e (List.mem_of_mem_take (i := 2) he)
    exact hexec.trans (powered_eq hon ((seamRun_flight ho hslot (by rw [hop]; exact hm)).trans (seamStep_full hex hout haux)))
  · intro hex hout haux ha hb hsome hlen hmax hra hrb
    have hmerging := merging_start hex hout haux ha hb hlen hmax
    refine ⟨fun hop => ?_, fun hop => ?_⟩
    · have hstep := (seamRun_flight (ops := fun m => m == 0) ho hslot (by rw [hop]; rfl)).trans
        (seamStep_merge hex hout haux (by omega) ha hb hsome)
      obtain ⟨hbuf, hbuf'⟩ := mergeStep_intersect 256 hmerging hop (by omega) hra hrb
      rw [hout] at hbuf
      rw [haux] at hbuf'
      exact ⟨_, _, powered_eq hon hstep, seams_setSeam _ _, hbuf, hbuf'⟩
    · have hstep := (seamRun_flight (ops := fun m => m == 1) ho hslot (by rw [hop]; rfl)).trans
        (seamStep_merge hex hout haux (by omega) ha hb hsome)
      obtain ⟨r, hbuf, hrise, hidx⟩ := mergeStep_union 256 hmerging hop (by omega) hra hrb
      rw [hout] at hbuf
      refine ⟨_, _, powered_eq hon hstep, seams_setSeam _ _, ?_, ?_⟩
      · rw [hbuf]; exact hrise
      · rw [hbuf]; exact hidx
  · intro hop hex hout haux ha hra
    have hstep := (seamRun_flight (ops := fun m => m == 2) ho hslot (by rw [hop]; rfl)).trans
      (seamStep_finish hex hout haux (by omega) ha (finishAll_topk hop))
    exact ⟨_, _, keptBy o.d.kCap o.a.buf, powered_eq hon hstep, seams_setSeam _ _, keptBy_sublist _ _,
      length_keptBy _ (Rising.nodup hra), rfl, rfl⟩
  · intro ls rej hop hex hout haux ha hroute
    obtain ⟨p, hp, hbuf, haux', hrej⟩ := finishAll_route hop hroute
    have hstep := (seamRun_flight (ops := fun m => decide (3 ≤ m)) ho hslot (by rw [hop]; rfl)).trans
      (seamStep_finish hex hout haux (by omega) ha hp)
    refine ⟨_, p, powered_eq hon hstep, seams_setSeam _ _, ?_, haux', hrej⟩
    rw [hbuf, List.length_append, length_flatMap_places (routeAll_le (fun x => Nat.zero_le _) hroute)]
    rfl
  · intro hend hout haux
    refine ⟨_, powered_eq hon (seamComplete_over ho hslot hend hout haux), KV.find?_erase_self _ _, fun j hj => ?_, ?_⟩
    · exact (KV.find?_erase_other _ hj).trans (congrArg (fun m => KV.find? m j) (complete_seams _ _ _ _ _ _))
    · obtain ⟨_, _, _, h⟩ := memoryOnly_complete s c 5 n o.k (o.record 0 false)
      exact (congrArg State.tubMem h :)

end Sys2Proof.Laws
end

section
/-!
SUPPORT. Pages of a context: free pages of a stack, pages made resident and taken away (R255, R256, R257, R420).
-/

namespace Sys2Proof.KV

variable {α : Type}

theorem find?_insert_other (m : KV α) {j k : Nat} (v : α) (h : j ≠ k) : find? (insert m k v) j = find? m j := by
  induction m with
  | nil => simp [insert, find?, Ne.symm h]
  | cons e m ih =>
    obtain ⟨i, w⟩ := e
    rw [insert]
    split
    · simp [find?, Ne.symm h]
    · split
      · next hk =>
        subst hk
        simp [find?, Ne.symm h]
      · simp [find?, ih]

theorem find?_filter (m : KV α) (p : Nat → Bool) (k : Nat) :
    find? (m.filter fun e => p e.1) k = if p k then find? m k else none := by
  induction m with
  | nil => simp [find?]
  | cons e m ih =>
    obtain ⟨i, v⟩ := e
    by_cases hi : i = k
    · subst hi
      by_cases hp : p i = true
      · simp [hp, find?]
      · simp [hp, ih]
    · by_cases hp : p i = true
      · simp [hp, find?, hi, ih]
      · simp [hp, find?, hi, ih]

/-- Values listed at keys outside those written stand. -/
theorem find?_inserts_outside {β : Type} (key : β → Nat) (val : β → α) (es : List β) (m : KV α) {k : Nat} (h : ∀ e ∈ es, key e ≠ k) :
    find? (es.foldl (fun (m : KV α) e => insert m (key e) (val e)) m) k = find? m k := by
  induction es generalizing m with
  | nil => rfl
  | cons e es ih =>
    rw [List.foldl_cons, ih _ fun f hf => h f (List.mem_cons_of_mem _ hf), find?_insert_other _ _ (h e List.mem_cons_self).symm]

/-- A value written at a key of its own is listed there. -/
theorem find?_inserts_inside {β : Type} (key : β → Nat) (val : β → α) {es : List β} (m : KV α) (h : (es.map key).Nodup) {e : β} (he : e ∈ es) :
    find? (es.foldl (fun (m : KV α) e => insert m (key e) (val e)) m) (key e) = some (val e) := by
  induction es generalizing m with
  | nil => exact absurd he List.not_mem_nil
  | cons f es ih =>
    rw [List.map_cons, List.nodup_cons] at h
    rw [List.foldl_cons]
    rcases List.mem_cons.1 he with rfl | he
    · rw [find?_inserts_outside key val es _ fun g hg hkey => h.1 (List.mem_map.2 ⟨g, hg, hkey⟩)]
      exact find?_insert_self _ _ _
    · exact ih _ h.2 he

theorem get_eraseRange (d : α) (m : KV α) (lo hi k : Nat) :
    get d (eraseRange m lo hi) k = if lo ≤ k ∧ k < hi then d else get d m k := by
  induction m with
  | nil => simp [eraseRange, get]
  | cons e m ih =>
    obtain ⟨i, v⟩ := e
    rw [eraseRange] at ih ⊢
    by_cases hin : lo ≤ i ∧ i < hi
    · rw [List.filter_cons_of_neg (by simp; omega), ih]
      by_cases hk : i = k
      · subst hk
        rw [if_pos hin, if_pos hin]
      · simp [get, hk]
    · rw [List.filter_cons_of_pos (by simp; omega)]
      by_cases hk : i = k
      · subst hk
        simp [get, if_neg hin]
      · simp [get, hk, ih]

end Sys2Proof.KV

namespace Sys2Proof.Laws

open Machine

/-! ### Free pages (log entry 13) -/

theorem length_freePages (us : NSet) (p n : Nat) : (freePages us p n).length = n := by
  induction us generalizing p n with
  | nil => rw [freePages, List.length_map, List.length_range]
  | cons u us ih =>
    rw [freePages]
    split
    · exact ih p n
    · rw [List.length_append, ih, List.length_map, List.length_range]
      omega

theorem le_of_mem_freePages {us : NSet} {p n x : Nat} (h : x ∈ freePages us p n) : p ≤ x := by
  induction us generalizing p n with
  | nil =>
    obtain ⟨i, -, rfl⟩ := List.mem_map.1 h
    omega
  | cons u us ih =>
    rw [freePages] at h
    split at h
    · exact ih h
    · rcases List.mem_append.1 h with h | h
      · obtain ⟨i, -, rfl⟩ := List.mem_map.1 h
        omega
      · have := ih h
        omega

theorem nodup_freePages (us : NSet) (p n : Nat) : (freePages us p n).Nodup := by
  have hrun : ∀ k q : Nat, ((List.range k).map (q + ·)).Nodup := fun k q =>
    List.nodup_range.map fun a b h => Nat.add_left_cancel h
  induction us generalizing p n with
  | nil => exact hrun n p
  | cons u us ih =>
    rw [freePages]
    split
    · exact ih p n
    · refine (hrun _ p).append (ih _ _) fun x hx hx' => ?_
      obtain ⟨i, hi, rfl⟩ := List.mem_map.1 hx
      have := le_of_mem_freePages hx'
      have := List.mem_range.1 hi
      omega

theorem not_mem_of_freePages {us : NSet} {p n x : Nat} (hus : us.Pairwise (· < ·)) (h : x ∈ freePages us p n) : x ∉ us := by
  induction us generalizing p n with
  | nil => exact List.not_mem_nil
  | cons u us ih =>
    rw [List.pairwise_cons] at hus
    rw [freePages] at h
    rw [List.mem_cons, not_or]
    split at h
    · have := le_of_mem_freePages h
      exact ⟨by omega, ih hus.2 h⟩
    · rcases List.mem_append.1 h with h | h
      · obtain ⟨i, hi, rfl⟩ := List.mem_map.1 h
        have := List.mem_range.1 hi
        exact ⟨by omega, fun hmem => by have := hus.1 _ hmem; omega⟩
      · have := le_of_mem_freePages h
        exact ⟨by omega, ih hus.2 h⟩

/-! ### Zeroed pages -/

theorem stackKey_add (j a o : Nat) : stackKey j (a + o) = stackKey j a + o := by
  unfold stackKey
  omega

theorem zeroPage_keeps_zero {j p k : Nat} {s : State} (h : KV.get 0 s.stackMem k = 0) : KV.get 0 (zeroPage j p s).stackMem k = 0 := by
  unfold zeroPage
  dsimp only
  rw [KV.get_eraseRange, h, ite_self]

theorem zeroPage_self {j p o : Nat} (ho : o < pageBig) (s : State) :
    KV.get 0 (zeroPage j p s).stackMem (stackKey j (p * pageBig + o)) = 0 := by
  unfold zeroPage
  dsimp only
  rw [KV.get_eraseRange, stackKey_add, if_pos ⟨Nat.le_add_right _ _, Nat.add_lt_add_left ho _⟩]

/-- Every byte of the pages zeroed reads as zero. -/
theorem get_zeroPages {j p o : Nat} {ps : List Nat} (hp : p ∈ ps) (ho : o < pageBig) (s : State) :
    KV.get 0 (forEach ps (zeroPage j) s).stackMem (stackKey j (p * pageBig + o)) = 0 := by
  have hgain : ∀ t, KV.get 0 (zeroPage j p t).stackMem (stackKey j (p * pageBig + o)) = 0 := zeroPage_self ho
  generalize stackKey j (p * pageBig + o) = k at hgain ⊢
  exact foldl_gains (f := fun t q => zeroPage j q t) (I := fun _ => True) (P := fun t : State => KV.get 0 t.stackMem k = 0)
    (fun _ _ _ => trivial) (fun _ _ h => zeroPage_keeps_zero h) hp (fun t _ => hgain t) trivial

/-! ### Pages made resident and taken away (R255, R256, R420) -/

/-- What a range is once its format is checked. -/
theorem pageCmdOf_ok {s : State} {r : Request} {q : PageCmd} (h : pageCmdOf s r = .ok q) : 0 < q.pages ∧ (q.host = false → q.big = true) := by
  unfold pageCmdOf at h
  dsimp only at h
  split at h
  · cases h
  next hformat =>
    split at h
    · cases h
    · obtain rfl := Except.ok.inj h
      simp only [not_or] at hformat
      obtain ⟨-, -, -, hpages, -, hbig, -⟩ := hformat
      refine ⟨Nat.pos_of_ne_zero hpages, fun hhost => ?_⟩
      dsimp only at hhost ⊢
      rw [hhost] at hbig
      simpa using hbig

theorem size_pos (q : PageCmd) : 0 < q.size := by
  unfold PageCmd.size
  split
  · exact Nat.two_pow_pos 21
  · exact Nat.two_pow_pos 12

theorem length_addrs (q : PageCmd) : q.addrs.length = q.pages := by rw [PageCmd.addrs, List.length_map, List.length_range]

theorem nodup_addrs (q : PageCmd) : q.addrs.Nodup :=
  List.nodup_range.map fun _ _ h => Nat.eq_of_mul_eq_mul_right (size_pos q) (Nat.add_left_cancel h)

theorem getElem_addrs (q : PageCmd) {i : Nat} (h : i < q.addrs.length) : q.addrs[i] = q.va + i * q.size := by
  simp [PageCmd.addrs]

/-- A page of context `c` changes with the range `q`, not with what an engine remembers of it. -/
theorem forgetPages_leaves (c : Nat) (q : PageCmd) (s : State) :
    (forgetPages c q s).slots = s.slots ∧ (forgetPages c q s).stackMem = s.stackMem := ⟨rfl, rfl⟩

theorem pagesResident_congr {s t u : State} {c : Nat} {q : PageCmd} {w pre : Bool} (hpages : (u.slot c).pages = (t.slot c).pages)
    (hst : (u.slot c).st = (t.slot c).st) (hstack : u.stackMem = t.stackMem) (h : PagesResident s t c q w pre) : PagesResident s u c q w pre := by
  unfold PagesResident at h ⊢
  rw [hpages, hst, hstack]
  exact h

theorem pagesResident_mapHost {q : PageCmd} (hhost : q.host = true) (c : Nat) (w : Bool) (s : State) :
    PagesResident s (mapHost c q w s) c q w false := by
  have hslot : (mapHost c q w s).slot c = _ := slot_modSlot _ _ _
  have hkeys : (q.addrs.map id).Nodup := by rw [List.map_id]; exact nodup_addrs q
  unfold PagesResident
  rw [hslot]
  refine ⟨fun _ a ha => ?_, fun h => ?_, fun a ha => ?_, rfl⟩
  · exact KV.find?_inserts_inside id (fun a => (⟨true, q.big, 0, q.hostAddr + (a - q.va), w, false⟩ : Page)) _ hkeys ha
  · rw [hhost] at h
    cases h
  · exact KV.find?_inserts_outside id (fun a => (⟨true, q.big, 0, q.hostAddr + (a - q.va), w, false⟩ : Page)) _ _
      fun b hb hba => ha (hba ▸ hb)

/-- The pages that a range takes of its stack (log entry 13). -/
def takenPages (q : PageCmd) (s : State) : List Nat := freePages (s.mem.usedOf q.stack) (imagePages q.stack).1 q.pages

/-- The device page at an address and a page of the stack. -/
def devicePage (q : PageCmd) (w pre : Bool) (p : Nat) : Page := ⟨false, true, q.stack, p * pageBig, w, pre⟩

theorem mapDevice_eq (c : Nat) (q : PageCmd) (w pre : Bool) (s : State) : mapDevice c q w pre s =
    (forEach (takenPages q s) (zeroPage q.stack) (takePages q.stack q.pages s).2).modSlot c fun x => { x with
      pages := (List.zip q.addrs (takenPages q s)).foldl (fun (m : KV Page) e => KV.insert m e.1 (devicePage q w pre e.2)) x.pages } := rfl

theorem slot_mapDevice (c : Nat) (q : PageCmd) (w pre : Bool) (s : State) : (mapDevice c q w pre s).slot c = { s.slot c with
    pages := (List.zip q.addrs (takenPages q s)).foldl (fun (m : KV Page) e => KV.insert m e.1 (devicePage q w pre e.2)) (s.slot c).pages } := by
  rw [mapDevice_eq, slot_modSlot, slot_congr ((slots_zeroPages _ _ _).trans (slots_takePages _ _ _)) c]

theorem pagesResident_mapDevice {q : PageCmd} (hhost : q.host = false) (c : Nat) (w pre : Bool) (s : State) :
    PagesResident s (mapDevice c q w pre s) c q w pre := by
  have hlen : (takenPages q s).length = q.pages := length_freePages _ _ _
  have hkeys : ((List.zip q.addrs (takenPages q s)).map Prod.fst) = q.addrs :=
    List.map_fst_zip (by rw [length_addrs, hlen])
  have hnodup : ((List.zip q.addrs (takenPages q s)).map Prod.fst).Nodup := by rw [hkeys]; exact nodup_addrs q
  unfold PagesResident
  rw [slot_mapDevice]
  refine ⟨fun h => ?_, fun _ => ⟨takenPages q s, hlen, nodup_freePages _ _ _, fun hsorted p hp => not_mem_of_freePages hsorted hp,
    fun i hi => ?_, fun p hp o ho => ?_⟩, fun a ha => ?_, rfl⟩
  · rw [hhost] at h
    cases h
  · have hia : i < q.addrs.length := by rw [length_addrs, ← hlen]; exact hi
    have hmem : (q.va + i * q.size, (takenPages q s)[i]) ∈ List.zip q.addrs (takenPages q s) := by
      rw [← getElem_addrs q hia]
      exact List.mem_iff_getElem.2 ⟨i, by rw [List.length_zip]; omega, List.getElem_zip⟩
    exact KV.find?_inserts_inside Prod.fst (fun e : Nat × Nat => devicePage q w pre e.2) _ hnodup hmem
  · rw [mapDevice_eq, modSlot_stackMem]
    exact get_zeroPages hp ho _
  · exact KV.find?_inserts_outside Prod.fst (fun e : Nat × Nat => devicePage q w pre e.2) _ _
      fun e he hkey => ha (by rw [← hkeys, ← hkey]; exact List.mem_map_of_mem he)

/-! ### OP_PAGE_MAP and OP_PAGE_UNMAP (R420) -/

section
variable {s : State} {r : Request} {c : Nat} {q : PageCmd} (hq : pageCmdOf s r = .ok q)
include hq

theorem mapCmd_touches (h : touchesPage (s.slot c) q = true) : mapCmd r c s = .refuse Code.mbxAddr := by
  unfold mapCmd
  dsimp only
  rw [hq]
  exact if_pos h

theorem mapCmd_short {g : Region} (hst : (s.slot c).st ≠ .empty) (h : touchesPage (s.slot c) q = false)
    (hg : pageRegion (s.slot c) q = some g) (hhost : q.host = false) (hshort : pagesFree s q.stack < q.pages) :
    mapCmd r c s = .refuse Code.mbxNoPages := by
  unfold mapCmd
  dsimp only
  rw [hq]
  dsimp only
  rw [if_neg (by rw [h]; decide), if_neg hst, hg, hhost]
  dsimp only
  rw [if_neg (fun h => by cases h.1), if_pos (by simpa using hshort)]

/-- A range of a region of its kind (R420). -/
theorem mapCmd_region {g : Region} (h : touchesPage (s.slot c) q = false) (hroom : q.host = false → q.pages ≤ pagesFree s q.stack)
    (hst : (s.slot c).st ≠ .empty) (hg : pageRegion (s.slot c) q = some g) (haddr : q.host = true → q.hostAddr % q.size = 0) :
    mapCmd r c s = .done (forgetPages c q (if q.host then mapHost c q (q.writable && g.writable) s
      else mapDevice c q (q.writable && g.writable) false s)) := by
  unfold mapCmd
  dsimp only
  rw [hq]
  dsimp only
  rw [if_neg (by rw [h]; decide), if_neg hst, hg]
  dsimp only
  rw [if_neg (fun h => h.2 (haddr h.1)), if_neg]
  rw [Bool.and_eq_true, Bool.not_eq_true', decide_eq_true_eq]
  exact fun h => absurd (hroom h.1) (Nat.not_le.2 h.2)

/-- A range that becomes pre-load pages (R420, log entry 41). -/
theorem mapCmd_preload (h : touchesPage (s.slot c) q = false) (hroom : q.pages ≤ pagesFree s q.stack) (hhost : q.host = false)
    (hst : (s.slot c).st = .empty ∨ (s.slot c).st = .held ∧ ∀ g ∈ (s.slot c).regions, g.base + g.size ≤ q.va ∨ q.va + q.bytes ≤ g.base) :
    mapCmd r c s = .done (mapDevice c q true true s) := by
  obtain ⟨hpages, -⟩ := pageCmdOf_ok hq
  have hbytes : 0 < q.bytes := Nat.mul_pos hpages (size_pos q)
  have hregion : (if (s.slot c).st = .empty then none else pageRegion (s.slot c) q) = none := by
    rcases hst with hst | ⟨-, houtside⟩
    · exact if_pos hst
    · have hnone : pageRegion (s.slot c) q = none := by
        unfold pageRegion
        refine List.find?_eq_none.2 fun g hg hin => ?_
        simp only [Bool.and_eq_true, decide_eq_true_eq] at hin
        have := houtside g hg
        omega
      rw [hnone, ite_self]
  have hmay : mayPreload (s.slot c) q = true := by
    unfold mayPreload
    rw [hhost]
    rcases hst with hst | ⟨hst, houtside⟩
    · rw [hst]; rfl
    · have hall : ((s.slot c).regions.all fun g => decide (g.base + g.size ≤ q.va) || decide (q.va + q.bytes ≤ g.base)) = true :=
        List.all_eq_true.2 fun g hg => by simpa using houtside g hg
      rw [hst, hall]
      rfl
  unfold mapCmd
  dsimp only
  rw [hq]
  dsimp only
  rw [if_neg (by rw [h]; decide), hregion, hmay]
  dsimp only
  rw [if_neg]
  rw [Bool.and_eq_true, decide_eq_true_eq]
  exact fun h => absurd hroom (Nat.not_le.2 h.2)

/-- OP_PAGE_MAP of a range that may be mapped makes its pages resident. -/
theorem mapCmd_of_target {w pre : Bool} (h : PageTarget s c q w pre) : ∃ t, mapCmd r c s = .done t ∧ PagesResident s t c q w pre := by
  obtain ⟨htouch, hroom, ⟨rfl, hst, ⟨g, hg, rfl⟩, haddr⟩ | ⟨rfl, rfl, hhost, hst⟩⟩ := h
  · refine ⟨_, mapCmd_region hq htouch hroom hst hg haddr, ?_⟩
    refine pagesResident_congr (t := if q.host then mapHost c q (q.writable && g.writable) s
      else mapDevice c q (q.writable && g.writable) false s) rfl rfl rfl ?_
    cases hhost : q.host with
    | true => exact pagesResident_mapHost hhost c _ s
    | false => exact pagesResident_mapDevice hhost c _ false s
  · exact ⟨_, mapCmd_preload hq htouch (hroom hhost) hhost hst, pagesResident_mapDevice hhost c true true s⟩

/-- OP_PAGE_UNMAP of resident pages takes them away. -/
theorem unmapCmd_of_owned (h : PagesOwned s c q) : ∃ t, unmapCmd r c s = .done t ∧ PagesGone s t c q := by
  obtain ⟨hregion, howned⟩ := h
  unfold unmapCmd
  dsimp only
  rw [hq]
  dsimp only
  rw [if_neg]
  · refine ⟨_, rfl, ?_⟩
    have hfreed := forEach_view State.slots (f := fun (e : Nat × Page) t => freePage e.2.stack (e.2.addr / pageBig) t) (fun _ _ => rfl)
      (((s.slot c).pages.filter fun e => decide (q.va ≤ e.1) && decide (e.1 < q.va + q.bytes)).filter fun e => !e.2.host) s
    have hslot := (slot_congr (forgetPages_leaves c q _).1 c).trans (slot_modSlot (forEach
      (((s.slot c).pages.filter fun e => decide (q.va ≤ e.1) && decide (e.1 < q.va + q.bytes)).filter fun e => !e.2.host)
      (fun e t => freePage e.2.stack (e.2.addr / pageBig) t) s) c fun x => { x with
        pages := x.pages.filter fun e => decide (e.1 < q.va) || decide (q.va + q.bytes ≤ e.1) })
    rw [slot_congr hfreed c] at hslot
    unfold PagesGone
    rw [hslot]
    refine ⟨fun a hlo hhi => ?_, fun a ha => ?_, rfl⟩
    · refine (KV.find?_filter _ (fun k => decide (k < q.va) || decide (q.va + q.bytes ≤ k)) a).trans (if_neg ?_)
      rw [Bool.or_eq_true, decide_eq_true_eq, decide_eq_true_eq]
      omega
    · refine (KV.find?_filter _ (fun k => decide (k < q.va) || decide (q.va + q.bytes ≤ k)) a).trans (if_pos ?_)
      rw [Bool.or_eq_true, decide_eq_true_eq, decide_eq_true_eq]
      exact ha
  · rintro (hall | ⟨hst, hnone⟩)
    · refine absurd hall ?_
      rw [Bool.not_eq_false]
      refine List.all_eq_true.2 fun a ha => ?_
      obtain ⟨p, hp, hhost, hbig, hstack, hpre⟩ := howned a ha
      have hpreload : p.preload = ((s.slot c).st == .empty) := by
        rw [Bool.eq_iff_iff, hpre, beq_iff_eq]
      rw [hp]
      dsimp only
      rw [hhost, hbig, hstack, hpreload]
      simp only [beq_self_eq_true, Bool.and_self]
    · have := hregion hst
      rw [Option.isSome_iff_ne_none] at this
      exact this (Option.isNone_iff_eq_none.1 hnone)

end

end Sys2Proof.Laws
end

section
/-!
SUPPORT. Writes to consecutive addresses of one page, and Fold buffers (R255, R421).
-/

namespace Sys2Proof.Laws

open Machine

/-! ### Addresses of one page (R255) -/

/-- A resident page is a large one at its boundary of 2 MiB, or lies at the boundary of 4 KiB where no large page holds the address. -/
theorem page?_cases {x : Ctx} {va b : Nat} {pg : Page} (h : x.page? va = some (b, pg)) :
    (b = va - va % pageBig ∧ KV.find? x.pages b = some pg ∧ pg.big = true) ∨
      (b = va - va % pageSmall ∧ KV.find? x.pages b = some pg ∧ ∀ p, KV.find? x.pages (va - va % pageBig) = some p → p.big = false) := by
  unfold Ctx.page? at h
  dsimp only at h
  split at h
  next p hp =>
    split at h
    next hbig =>
      cases h
      exact .inl ⟨rfl, hp, hbig⟩
    next hbig =>
      split at h
      next q hq =>
        cases h
        refine .inr ⟨rfl, hq, fun p' hp' => ?_⟩
        obtain rfl := Option.some.inj (hp.symm.trans hp')
        exact Bool.eq_false_iff.2 hbig
      next => cases h
  next hp =>
    split at h
    next q hq =>
      split at h
      · cases h
      · cases h
        exact .inr ⟨rfl, hq, fun p' hp' => by rw [hp] at hp'; cases hp'⟩
    next => cases h

theorem page?_of_big {x : Ctx} {va : Nat} {pg : Page} (h : KV.find? x.pages (va - va % pageBig) = some pg) (hbig : pg.big = true) :
    x.page? va = some (va - va % pageBig, pg) := by
  unfold Ctx.page?
  dsimp only
  rw [h]
  exact if_pos hbig

/-- The number of bytes of a page. -/
def pageBytes (pg : Page) : Nat := if pg.big then pageBig else pageSmall

/-- Every address of a page lies in it. -/
theorem page?_run {x : Ctx} {va b k : Nat} {pg : Page} (h : x.page? va = some (b, pg)) (halign : pg.big = true → b % pageBig = 0)
    (hk : va + k < b + pageBytes pg) : x.page? (va + k) = some (b, pg) := by
  unfold pageBytes at hk
  cases hbig : pg.big with
  | false =>
    rw [hbig, if_neg (by decide)] at hk
    obtain ⟨-, -, hpg⟩ | ⟨hb, -, -⟩ := page?_cases h
    · rw [hbig] at hpg
      cases hpg
    · rw [page?_add x (by simp only [pageSmall] at hb hk ⊢; omega), h]
  | true =>
    rw [hbig, if_pos rfl] at hk
    have halign := halign hbig
    obtain ⟨hb, hpg⟩ : b = va - va % pageBig ∧ KV.find? x.pages b = some pg := by
      obtain ⟨hb, hpg, -⟩ | ⟨hb, hpg, hsmall⟩ := page?_cases h
      · exact ⟨hb, hpg⟩
      · have hsame : va - va % pageBig = b := by simp only [pageSmall, pageBig] at hb halign ⊢; omega
        rw [hsmall pg (by rw [hsame]; exact hpg)] at hbig
        cases hbig
    have hsame : va + k - (va + k) % pageBig = b := by simp only [pageBig] at hb hk ⊢; omega
    rw [page?_of_big (by rw [hsame]; exact hpg) hbig, hsame]

/-- Consecutive addresses of a page lie at consecutive places. -/
theorem xlat_run {x : Ctx} {va b : Nat} {pg : Page} (h : x.page? va = some (b, pg)) (halign : pg.big = true → b % pageBig = 0) :
    ∃ (p : Place) (w : Bool), ∀ k, va + k < b + pageBytes pg → x.xlat (va + k) = some (p.add k, w) := by
  refine ⟨if pg.host then .host (pg.addr + (va - b)) else .dev pg.stack (pg.addr + (va - b)), pg.writable, fun k hk => ?_⟩
  have hoff : pg.addr + (va + k - b) = pg.addr + (va - b) + k := by have := page?_le h; omega
  rw [Ctx.xlat, page?_run h halign hk]
  cases hh : pg.host <;> simp [hh, hoff, Place.add]

/-! ### A write to consecutive places -/

theorem add_add (p : Place) (a b : Nat) : p.add (a + b) = (p.add a).add b := by
  cases p <;> simp only [Place.add, Nat.add_assoc]

/-- A write leaves the places before it. -/
theorem rdByte_wrBytes_before (s : State) (p : Place) {k lo : Nat} (h : k < lo) (bs : List Byte) :
    (s.wrBytes (p.add lo) bs).rdByte (p.add k) = s.rdByte (p.add k) := by
  cases p with
  | dev j o => exact KV.get_setList_outside 0 bs s.stackMem _ _ (.inl (by unfold stackKey; omega))
  | host a => exact KV.get_setList_outside 0 bs s.hostMem _ _ (.inl (by omega))

section
variable {x : Ctx} {va : Nat} {bs : List Byte} {p : Place} {w : Bool}
  (hrun : ∀ k, k < bs.length → x.xlat (va + k) = some (p.add k, w))
include hrun

theorem wrPage_of_run {i : Nat} (h : i * pageSmall - va % pageSmall < bs.length) (s : State) :
    wrPage x va bs i s = s.wrBytes (p.add (i * pageSmall - va % pageSmall)) ((bs.drop (i * pageSmall - va % pageSmall)).take
      ((i + 1) * pageSmall - va % pageSmall - (i * pageSmall - va % pageSmall))) := by
  rw [wrPage]
  simp only [hrun _ h]

/-- The bytes that the first `m` pages of a write take are those written. -/
theorem rdByte_wrPages {m : Nat} (hm : m ≤ (va % pageSmall + bs.length + pageSmall - 1) / pageSmall) (s : State) {k : Nat}
    (hk : k < bs.length) (hkm : va % pageSmall + k < m * pageSmall) :
    ((List.range m).foldl (fun s i => wrPage x va bs i s) s).rdByte (p.add k) = bs[k] := by
  induction m with
  | zero => omega
  | succ m ih =>
    have hlo : m * pageSmall - va % pageSmall < bs.length := by simp only [pageSmall] at hm hk ⊢; omega
    rw [List.range_succ, List.foldl_append, List.foldl_cons, List.foldl_nil, wrPage_of_run hrun hlo]
    by_cases hbefore : va % pageSmall + k < m * pageSmall
    · rw [rdByte_wrBytes_before _ _ (by omega)]
      exact ih (Nat.le_of_succ_le hm) hbefore
    · obtain ⟨t, rfl⟩ := Nat.exists_eq_add_of_le (show m * pageSmall - va % pageSmall ≤ k by omega)
      have ht : t < ((bs.drop (m * pageSmall - va % pageSmall)).take
          ((m + 1) * pageSmall - va % pageSmall - (m * pageSmall - va % pageSmall))).length := by
        rw [List.length_take, List.length_drop]
        simp only [pageSmall] at hkm hk hbefore ⊢
        omega
      rw [add_add, rdByte_wrBytes _ _ ht, List.getElem_take, List.getElem_drop]

/-- Bytes written to consecutive places read back. -/
theorem rdVa_wrVa_of_run (s : State) : (s.wrVa x va bs).rdVa x va bs.length = bs := by
  refine List.ext_getElem (length_rdVa _ _ _ _) fun k h hk => ?_
  simp only [State.rdVa, List.getElem_map, List.getElem_range]
  rw [rdVaByte_of_xlat (hrun k hk), wrVa_eq]
  exact rdByte_wrPages hrun (Nat.le_refl _) s hk (by simp only [pageSmall]; omega)

end

theorem rdVa_congr {s t : State} {x y : Ctx} (hpages : y.pages = x.pages) (hstack : t.stackMem = s.stackMem)
    (hhost : t.hostMem = s.hostMem) (va n : Nat) : t.rdVa y va n = s.rdVa x va n :=
  List.map_congr_left fun i _ => (rdVaByte_congr hpages t (va + i)).trans (rdVaByte_mem_congr hstack hhost x (va + i))

theorem length_getList {α : Type} (d : α) (m : KV α) (k n : Nat) : (KV.getList d m k n).length = n := by
  rw [KV.getList_eq_map, List.length_map, List.length_range]

theorem length_rdHost (s : State) (a n : Nat) : (s.rdHost a n).length = n := length_getList _ _ _ _

/-- Bytes put into a Fold buffer read back at their offset (R319). -/
theorem read_putFold (b : List Byte) (o : Nat) (d : List Byte) : ((putFold b o d).drop o).take d.length = d := by
  have hlen : (b.take o ++ List.replicate (o - b.length) (0 : Byte)).length = o := by
    rw [List.length_append, List.length_take, List.length_replicate]
    omega
  unfold putFold
  rw [List.append_assoc _ d, List.drop_left' hlen, List.take_left]

end Sys2Proof.Laws
end

section
/-!
SUPPORT. OP_PAGE_MAP, OP_PAGE_UNMAP and OP_COPY (R420, R421).
-/

namespace Sys2Proof.Laws

open Machine

/-! ### The effects of the three commands -/

theorem slotEffect_pageMap {r : Request} (hop : r.opcode = Op.pageMap) (c : Nat) (s : State) : slotEffect r c s = mapCmd r c s := by
  unfold slotEffect
  rw [hop]
  rfl

theorem slotEffect_pageUnmap {r : Request} (hop : r.opcode = Op.pageUnmap) (c : Nat) (s : State) :
    slotEffect r c s = unmapCmd r c s := by
  unfold slotEffect
  rw [hop]
  rfl

/-- What becomes of a checked OP_COPY. -/
def copyEffect (r : Request) (c : Nat) (s : State) : CmdRes :=
  match copyCheck r c s with
  | some e => .refuse e
  | none => .wait s

theorem slotEffect_copy {r : Request} (hop : r.opcode = Op.copy) (c : Nat) (s : State) : slotEffect r c s = copyEffect r c s := by
  unfold slotEffect
  rw [hop]
  rfl

/-- The opening band applies a command whose slot is none that a reset has emptied. -/
theorem bandCmd_of_stateOk {s : State} {m op c : Nat} {r : Request} (h : WaitsForBand s m op r c)
    (hst : (s.slot c).st = .empty → stateOk op (s.slot c) = true) : bandCmd m s = settle m r s (slotEffect r c s) := by
  obtain ⟨hacc, hstage, hreq, hop, hslot⟩ := h
  unfold bandCmd
  dsimp only
  rw [hreq]
  dsimp only
  rw [if_pos ⟨hacc, hstage⟩]
  unfold bandEffect
  rw [hslot, hop]
  dsimp only
  rw [if_neg]
  rintro ⟨hempty, hno⟩
  rw [hst hempty] at hno
  cases hno

theorem stateOk_pageMap (x : Ctx) : stateOk Op.pageMap x = true := rfl

theorem stateOk_pageUnmap {x : Ctx} (h : x.st = .empty) : stateOk Op.pageUnmap x = true := by
  have hunfold : stateOk Op.pageUnmap x = !([CtxSt.running].elem x.st) := rfl
  rw [hunfold, h]
  rfl

/-! ### Commands of the opening band -/

section
variable {m : Mbox} {s t : State} {r : Request} {op c : Nat} {i : Instr} (hi : exec i s = powered s (serveBand op m.val s))
  (hop : plainSlotOp op = true) (h : Serves s m op r c)
include hi hop h

/-- With no Strokes a command that completes answers at once. -/
theorem exec_band_done (hmode : s.stroke.mode = 0) (he : slotEffect r c s = .done t) :
    exec i s = .next (s.effectOf (t.respond m 0 [])) := by
  have hne : op ≠ Op.peerMap := fun hpeer => by rw [hpeer] at hop; cases hop
  rw [hi, powered_eq h.1 (serveBand_of_done h.2.1 hmode
    ((congrArg (fun q => effect q s) (served_of_ne hne s r)).trans ((effect_of_serves h hop).trans he)))]

/-- With Strokes a command that completes waits for the next opening band (R414). -/
theorem exec_band_waits (hmode : s.stroke.mode ≠ 0) (he : slotEffect r c s = .done t) :
    exec i s = .next (s.modMbx m fun b => { b with stage := .band, req := some r }) := by
  have hne : op ≠ Op.peerMap := fun hpeer => by rw [hpeer] at hop; cases hop
  refine exec_waitsForBand h.1 hi hne h.2.1 (fun e hrefuse => ?_) hmode
  rw [effect_of_serves h hop, he] at hrefuse
  cases hrefuse

/-- A refused command answers at once, and the contexts stay. -/
theorem exec_band_refused {e : Nat} (he : slotEffect r c s = .refuse e) :
    ∃ u, exec i s = .next u ∧ Answered u m e [] ∧ SameContexts s u := by
  have hne : op ≠ Op.peerMap := fun hpeer => by rw [hpeer] at hop; cases hop
  refine ⟨_, hi.trans (powered_eq h.1 (serveBand_of_refuse h.2.1
    ((congrArg (fun q => effect q s) (served_of_ne hne s r)).trans ((effect_of_serves h hop).trans he)))),
    answered_congr (effectOf_mbx _ _ _) (answered_respond _ _ _ _), ?_⟩
  exact sameContexts_respond _ _ _ _

end

theorem pagesResident_respond {s t : State} {c : Nat} {q : PageCmd} {w pre : Bool} (h : PagesResident s t c q w pre) (m : Nat) :
    PagesResident s (t.respond m 0 []) c q w pre :=
  pagesResident_congr (pages_respond _ _ _ _ _) (st_respond _ _ _ _ _) (stackMem_respond _ _ _ _) h

theorem pagesGone_congr {s t u : State} {c : Nat} {q : PageCmd} (hpages : (u.slot c).pages = (t.slot c).pages)
    (hst : (u.slot c).st = (t.slot c).st) (h : PagesGone s t c q) : PagesGone s u c q := by
  unfold PagesGone at h ⊢
  rw [hpages, hst]
  exact h

theorem pagesGone_respond {s t : State} {c : Nat} {q : PageCmd} (h : PagesGone s t c q) (m : Nat) :
    PagesGone s (t.respond m 0 []) c q :=
  pagesGone_congr (pages_respond _ _ _ _ _) (st_respond _ _ _ _ _) h

/-! ### OP_COPY (R421) -/

theorem copyEffect_of_ok {r : Request} {c : Nat} {s : State} (h : copyCheck r c s = none) : copyEffect r c s = .wait s := by
  unfold copyEffect
  rw [h]

theorem copyEffect_of_refused {r : Request} {c e : Nat} {s : State} (h : copyCheck r c s = some e) : copyEffect r c s = .refuse e := by
  unfold copyEffect
  rw [h]

/-- A copy of a context's memory whose pages are resident passes the checks. -/
theorem copyCheck_of_mapped {r : Request} {c : Nat} {s : State} (hdir : r.num 1 1 ≤ 1) (hkind : r.num 2 1 = 0) (hn : r.num 24 8 ≠ 0)
    (hn64 : r.num 24 8 % 64 = 0) (hva : r.num 8 8 % 64 = 0) (hha : r.num 16 8 % 64 = 0) (hend : r.num 8 8 + r.num 24 8 ≤ vaHost)
    (hmapped : (s.slot c).mapped (r.num 8 8) (r.num 24 8) (r.num 1 1 == 0) = true) : copyCheck r c s = none := by
  unfold copyCheck
  dsimp only
  rw [if_neg (by omega), if_neg (by omega), if_neg]
  rintro (h | h)
  · omega
  · rw [hmapped] at h
    cases h

/-- A copy of a Fold staging area of a fitted stack passes the checks. -/
theorem copyCheck_of_fold {r : Request} {c : Nat} {s : State} (hdir : r.num 1 1 ≤ 1) (hkind : r.num 2 1 = 1) (hn : r.num 24 8 ≠ 0)
    (hn64 : r.num 24 8 % 64 = 0) (hva : r.num 8 8 % 64 = 0) (hha : r.num 16 8 % 64 = 0) (hpress : r.num 3 1 ≤ 7)
    (harea : r.num 4 1 ≤ 1) (hst : (s.slot c).st = .loaded ∨ (s.slot c).st = .held) (hfit : s.stackFitted (r.num 3 1) = true)
    (hend : r.num 8 8 + r.num 24 8 ≤ KV.get 0 (s.slot c).press.foldSize (r.num 3 1)) : copyCheck r c s = none := by
  have helem : [CtxSt.loaded, CtxSt.held].elem (s.slot c).st = true := by
    rcases hst with hst | hst <;> rw [hst] <;> rfl
  unfold copyCheck
  dsimp only
  rw [if_neg (by omega), if_pos hkind, if_neg (by rw [helem]; decide), if_neg]
  rintro (h | h)
  · rw [hfit] at h
    cases h
  · omega

section
variable {m : Mbox} {s : State} {r : Request} {c : Nat} (h : Serves s m Op.copy r c)
include h

/-- A checked OP_COPY is under way. -/
theorem exec_opCopy_starts (hcheck : copyCheck r c s = none) :
    exec (.opCopy m) s = .next (s.modMbx m fun b => { b with stage := .busy }) := by
  have heff := (effect_of_serves h rfl).trans
    ((slotEffect_copy (request_eq_some h.2.1).2.2.2 c s).trans (copyEffect_of_ok hcheck))
  have hexec : exec (.opCopy m) s = powered s (serveNow Op.copy m.val s) := rfl
  rw [hexec, powered_eq h.1 (serveNow_of_wait h.2.1 heff), effectOf_modMbx]

theorem exec_opCopy_refused {e : Nat} (hcheck : copyCheck r c s = some e) :
    ∃ u, exec (.opCopy m) s = .next u ∧ Answered u m e (List.replicate 8 0) := by
  obtain ⟨-, -, -, hop⟩ := request_eq_some h.2.1
  have heff := (effect_of_serves h rfl).trans ((slotEffect_copy hop c s).trans (copyEffect_of_refused hcheck))
  have hpayload : refusalPayload r.opcode = List.replicate 8 0 := by rw [hop]; rfl
  have hresp := serveNow_of_refuse h.2.1 heff
  rw [hpayload] at hresp
  obtain ⟨u, hu, hans, -⟩ := exec_powered_respond (i := .opCopy m) h.1 rfl hresp
  exact ⟨u, hu, hans⟩

end

/-- The bytes that a copy has moved when it ends (R421). -/
def copied (r : Request) (err : Option Nat) : Nat :=
  match err with
  | some k => min (r.num 24 8) (k / 64 * 64)
  | none => r.num 24 8

theorem copyDone_eq {m c : Nat} {s : State} {r : Request} (hst : (s.mbx m).st = .accepted) (hstage : (s.mbx m).stage = .busy)
    (hreq : (s.mbx m).req = some r) (hop : r.opcode = Op.copy) (hslot : r.slot = some c) (err : Option Nat) :
    copyDone m err s = (copyMove r c (copied r err) s).respond m (if err.isSome then Code.mbxDma else 0) (leBytes 8 (copied r err)) := by
  unfold copyDone
  dsimp only
  rw [hreq]
  dsimp only
  rw [if_pos ⟨hst, hstage, hop⟩, hslot]
  rfl

/-! ### What a copy moves -/

/-- The Fold staging area that a copy names. -/
def foldArea (r : Request) : Nat := 2 * r.num 3 1 + r.num 4 1

theorem copyMove_toFold {r : Request} (hkind : r.num 2 1 = 1) (hdir : r.num 1 1 = 0) (c n : Nat) (s : State) :
    copyMove r c n s = s.modPress c fun p =>
      { p with folds := KV.set [] p.folds (foldArea r) (putFold (KV.get [] (s.slot c).press.folds (foldArea r)) (r.num 8 8) (s.rdHost (r.num 16 8) n)) } := by
  unfold copyMove
  dsimp only
  rw [if_pos hkind, if_pos hdir, foldArea]

theorem copyMove_toContext {r : Request} (hkind : r.num 2 1 = 0) (hdir : r.num 1 1 = 0) (c n : Nat) (s : State) :
    copyMove r c n s = s.wrVa (s.slot c) (r.num 8 8) (s.rdHost (r.num 16 8) n) := by
  unfold copyMove
  dsimp only
  rw [if_neg (by omega), if_pos hdir]

theorem badBlocks_of_sound {s : State} (herr : s.mem.err = []) (hmarked : s.mem.marked = []) (x : Ctx) (va n : Nat) :
    badBlocks s x va n = [] := by
  unfold badBlocks
  rw [herr, hmarked]
  exact if_pos (.inr rfl)

theorem poisonedGran_of_sound {s : State} (herr : s.mem.err = []) (hmarked : s.mem.marked = []) (x : Ctx) (va n : Nat) :
    poisonedGran s x va n = [] := by
  unfold poisonedGran
  rw [herr, hmarked]
  exact if_pos (.inr rfl)

/-- With no stored error the bytes of a context go to host memory as they are. -/
theorem copyMove_toHost {r : Request} {s : State} (hkind : r.num 2 1 = 0) (hdir : r.num 1 1 = 1) (herr : s.mem.err = [])
    (hmarked : s.mem.marked = []) (c n : Nat) :
    copyMove r c n s = s.wrHost (r.num 16 8) (s.rdVa (s.slot c) (r.num 8 8) n) := by
  have hread : readBlocks (s.slot c) (r.num 8 8) n s = s := by
    unfold readBlocks
    rw [badBlocks_of_sound herr hmarked]
    rfl
  unfold copyMove
  dsimp only
  rw [if_neg (by omega), if_neg (by omega), ghlRead_of_sound (poisonedGran_of_sound herr hmarked _ _ _), hread]

theorem tubMem_wrVa (s : State) (x : Ctx) (va : Nat) (bs : List Byte) : (s.wrVa x va bs).tubMem = s.tubMem := by
  obtain ⟨_, _, _, h⟩ := memoryOnly_wrVa s x va bs
  rw [h]

/-- A copy to a context's page reads back from it. -/
theorem rdVa_copied {s : State} {c va b ha n : Nat} {pg : Page} (hpage : (s.slot c).page? va = some (b, pg))
    (halign : pg.big = true → b % pageBig = 0) (hend : va + n ≤ b + pageBytes pg) :
    (s.wrVa (s.slot c) va (s.rdHost ha n)).rdVa (s.slot c) va n = s.rdHost ha n := by
  obtain ⟨p, w, hrun⟩ := xlat_run hpage halign
  have hlen : (s.rdHost ha n).length = n := length_rdHost _ _ _
  have hread := rdVa_wrVa_of_run (bs := s.rdHost ha n) (fun k hk => hrun k (by omega)) s
  rw [hlen] at hread
  exact hread

theorem folds_respond (s : State) (m status : Nat) (payload : List Byte) (c : Nat) :
    ((s.respond m status payload).slot c).press.folds = (s.slot c).press.folds :=
  slot_respond_view (fun x => x.press.folds) (fun _ _ => rfl) s m status payload c

/-! ### The end of a copy -/

section
variable {m : Mbox} {s : State} {r : Request} {c : Nat} (hon : s.power.on = true) (hst : (s.mbx m).st = .accepted)
  (hstage : (s.mbx m).stage = .busy) (hreq : (s.mbx m).req = some r) (hop : r.opcode = Op.copy) (hslot : r.slot = some c)
include hon hst hstage hreq hop hslot

theorem exec_copyComplete (err : Option Nat) : ∃ u, exec (.copyComplete m err) s = .next u ∧
    Answered u m (if err.isSome then Code.mbxDma else 0) (leBytes 8 (copied r err)) ∧
    u = s.effectOf ((copyMove r c (copied r err) s).respond m (if err.isSome then Code.mbxDma else 0) (leBytes 8 (copied r err))) :=
  exec_powered_respond hon rfl (copyDone_eq hst hstage hreq hop hslot err)

end

/-- What a copy that has ended shows. -/
theorem copied_frame {s t u : State} {m status : Nat} {payload : List Byte} (h : u = s.effectOf (t.respond m status payload)) (c : Nat) :
    u.hostMem = t.hostMem ∧ u.stackMem = t.stackMem ∧ u.tubMem = t.tubMem ∧ (u.slot c).pages = (t.slot c).pages ∧
      (u.slot c).press.folds = (t.slot c).press.folds := by
  subst h
  exact ⟨hostMem_respond _ _ _ _, stackMem_respond _ _ _ _, tubMem_respond _ _ _ _, pages_respond _ _ _ _ _, folds_respond _ _ _ _ _⟩

/-- Settles O22: a range acts through the pages that its command takes or frees, a copy through the one move at its end. -/
theorem pagesAndCopies : Obligations.PagesAndCopies := by
  unfold Obligations.PagesAndCopies
  refine ⟨⟨fun m s r c q w pre hq => ⟨fun h htarget => ?_, fun h htarget => ?_, fun h htouch => ?_,
      fun g h hst htouch hg hhost hshort => ?_⟩,
    fun m s r c q hq howned => ⟨fun h => ?_, fun h => ?_⟩⟩,
    fun m s r c h => ⟨exec_opCopy_starts h, fun hdir hkind hn hn64 hva hha hend hmapped => ?_,
      fun hdir hkind hn hn64 hva hha hpress harea hst hfit hend => ?_, fun e => exec_opCopy_refused h⟩,
    fun m s r c hon hst hstage hreq hop hslot => ⟨?_, fun k => ?_⟩⟩
  case refine_1 =>
    obtain ⟨t, ht, hres⟩ := mapCmd_of_target (r := r) hq htarget
    have heff := (slotEffect_pageMap (request_eq_some h.2.1).2.2.2 c s).trans ht
    exact ⟨fun hmode => ⟨_, exec_band_done (i := .opPageMap m) rfl rfl h hmode heff,
        answered_congr (effectOf_mbx _ _ _) (answered_respond _ _ _ _), pagesResident_respond hres m⟩,
      fun hmode => exec_band_waits (i := .opPageMap m) rfl rfl h hmode heff⟩
  case refine_2 =>
    obtain ⟨t, ht, hres⟩ := mapCmd_of_target (r := r) hq htarget
    rw [bandCmd_of_stateOk h fun _ => stateOk_pageMap _, slotEffect_pageMap h.2.2.2.1, ht, settle_done]
    exact ⟨answered_respond _ _ _ _, pagesResident_respond hres m⟩
  case refine_3 =>
    exact exec_band_refused (i := .opPageMap m) rfl rfl h
      ((slotEffect_pageMap (request_eq_some h.2.1).2.2.2 c s).trans (mapCmd_touches hq htouch))
  case refine_4 =>
    exact exec_band_refused (i := .opPageMap m) rfl rfl h
      ((slotEffect_pageMap (request_eq_some h.2.1).2.2.2 c s).trans (mapCmd_short hq hst htouch hg hhost hshort))
  case refine_5 =>
    obtain ⟨t, ht, hgone⟩ := unmapCmd_of_owned (r := r) hq howned
    have heff := (slotEffect_pageUnmap (request_eq_some h.2.1).2.2.2 c s).trans ht
    exact ⟨fun hmode => ⟨_, exec_band_done (i := .opPageUnmap m) rfl rfl h hmode heff,
        answered_congr (effectOf_mbx _ _ _) (answered_respond _ _ _ _), pagesGone_respond hgone m⟩,
      fun hmode => exec_band_waits (i := .opPageUnmap m) rfl rfl h hmode heff⟩
  case refine_6 =>
    obtain ⟨t, ht, hgone⟩ := unmapCmd_of_owned (r := r) hq howned
    rw [bandCmd_of_stateOk h stateOk_pageUnmap, slotEffect_pageUnmap h.2.2.2.1, ht, settle_done]
    exact ⟨answered_respond _ _ _ _, pagesGone_respond hgone m⟩
  case refine_7 => exact exec_opCopy_starts h (copyCheck_of_mapped hdir hkind hn hn64 hva hha hend hmapped)
  case refine_8 => exact exec_opCopy_starts h (copyCheck_of_fold hdir hkind hn hn64 hva hha hpress harea hst hfit hend)
  case refine_9 =>
    obtain ⟨u, hu, hans, hframe⟩ := exec_copyComplete hon hst hstage hreq hop hslot none
    have hn : copied r none = r.num 24 8 := rfl
    obtain ⟨hhost, hstack, htub, hpages, hfolds⟩ := copied_frame hframe c
    rw [hn] at hhost hstack htub hpages hfolds
    refine ⟨_, hu, hans, fun hkind hdir herr hmarked => ?_, fun b pg hkind hdir hpage halign hend => ?_, fun hkind hdir _ => ?_⟩
    · rw [copyMove_toHost hkind hdir herr hmarked] at hhost hstack htub
      refine ⟨?_, fun a ha => ?_, hstack, htub⟩
      · exact (congrArg (fun mem => KV.getList 0 mem (r.num 16 8) (r.num 24 8)) hhost).trans
          (getList_setList_of_length 0 _ _ (length_rdVa _ _ _ _))
      · refine (congrArg (fun mem => KV.get 0 mem a) hhost).trans (KV.get_setList_outside 0 _ _ _ _ ?_)
        rwa [length_rdVa]
    · rw [copyMove_toContext hkind hdir] at hhost hstack htub hpages
      have hmem := memoryOnly_wrVa s (s.slot c) (r.num 8 8) (s.rdHost (r.num 16 8) (r.num 24 8))
      rw [slot_congr hmem.slots c] at hpages
      exact ⟨(rdVa_congr hpages hstack hhost _ _).trans (rdVa_copied hpage halign hend), htub.trans (tubMem_wrVa _ _ _ _)⟩
    · rw [copyMove_toFold hkind hdir] at hhost hstack htub hfolds
      refine ⟨?_, hhost, hstack, htub⟩
      have hread := read_putFold (KV.get [] (s.slot c).press.folds (foldArea r)) (r.num 8 8)
        (s.rdHost (r.num 16 8) (r.num 24 8))
      rw [length_rdHost] at hread
      refine (congrArg (fun fs => ((KV.get [] fs (foldArea r)).drop (r.num 8 8)).take (r.num 24 8)) hfolds).trans ?_
      rw [State.modPress, slot_modSlot]
      dsimp only
      rw [KV.get_set_self]
      exact hread
  case refine_10 =>
    obtain ⟨u, hu, hans, -⟩ := exec_copyComplete hon hst hstage hreq hop hslot (some k)
    exact ⟨u, hu, hans⟩

end Sys2Proof.Laws
end
